-- ==== Sys2Proof/Word.lean ====
section
/-! DEFINITION. The word types: a register is 32 bits wide (R521), memory is bytes (R514).  Addresses, counts, frame
numbers and sizes are `Nat`, reduced explicitly where the spec's field wraps. -/
namespace Sys2Proof

/-- A register word (R521). -/
abbrev Word := BitVec 32

/-- One byte of memory. -/
abbrev Byte := BitVec 8

end Sys2Proof
end

