-- ==== Sys2Proof/Syntax.lean ====
section
/-! DEFINITION. The commands: what software, hosts, peers, pins, timers, engines' completions and the start-up stages
do to the package.  A block has no program; each row of the table of operations and events is one command, and what the
outside world decides (a measured temperature, a self-test result, a frame's bytes) is its operand. -/
namespace Sys2Proof

/-- Who makes a register access (R519). A Foxglove core is numbered through the package, four to a tile; a virtual
function from 1 to 64. -/
inductive Requester where
  | pm | fw (core : Nat) | pf | vf (k : Nat) | movon | i3c | jtag | hw
  deriving DecidableEq, Repr

/-- The requester code of R519. -/
def Requester.code : Requester → Nat
  | .pm => 0 | .fw _ => 1 | .pf => 2 | .vf _ => 3 | .movon => 4 | .i3c => 5 | .jtag => 6 | .hw => 7

/-- Which copy of a select register a requester owns (R530): one for each requester and each Foxglove core. -/
def Requester.copy : Requester → Nat
  | .pm => 0 | .pf => 2 | .movon => 4 | .i3c => 5 | .jtag => 6 | .hw => 7
  | .fw c => 128 + c % 256 | .vf k => 16 + k % 65

/-- Where a Rinsyn request came from (R319): a ring pair of a tile, a message of a Movon peer, or the configuration
image at S8. -/
inductive Origin where
  | ring (t r : Nat) | movon (peer msg : Nat) | image
  deriving DecidableEq, Repr

/-- The header of a Rinsyn request (R312) beside its opcode. `rsvd` says that a reserved field is not zero, `poison` that
the request was read poisoned (R338). -/
structure ReqHdr where
  flags : Nat := 0
  inst : Nat := 0
  epoch : Nat := 0
  stream : Nat := 0
  len : Nat := 0
  seq : Nat := 0
  digest : Nat := 0
  rsvd : Bool := false
  poison : Bool := false
  deriving DecidableEq, Repr

/-- The blocks that have an `EN` field and a function state (R427). -/
inductive Engine where
  | arr | sfu | ece | sce | smv | ing | lnk | fxg
  deriving DecidableEq, Repr

/-- The three rings of a ring pair and its tile (R320, R321). -/
inductive RingKind where
  | sq | cq | er
  deriving DecidableEq, Repr

/-- What a read of HBM meets (R396, R402): nothing, a corrected error, an uncorrectable granule, class bits or codewords
that fail their check, or a coded block that decodes to nothing. -/
inductive EccEvent where
  | clean | corrected | uncorrectable | badMeta | badCode
  deriving DecidableEq, Repr

/-- A stream directory message (R386), and a device's claim that it is cascade master (R384), which comes the same way.
(DESIGN CHOICE, log entry 112) -/
inductive DirMsg where
  | register (name dev stream inst : Nat) | remove (name : Nat) | lookup (name : Nat) | claim
  deriving DecidableEq, Repr

/-- A received Movon frame (R373), with the way it came: port, VLAN, the sender's MAC or IP address, its UDP port, and
whether its CRC-32C passed. A `DIR` message comes as what it says, since its layout is not given. -/
structure MvFrame where
  mtype : Nat
  flags : Nat := 0
  path : Nat := 0
  lseq : Nat := 0
  lack : Nat := 0
  src : Nat
  dst : Nat
  inst : Nat := 0
  epoch : Nat := 0
  msgid : Nat := 0
  msglen : Nat := 0
  foff : Nat := 0
  stream : Nat := 0
  payload : List Byte := []
  dir : Option DirMsg := none
  port : Nat := 0
  vlan : Nat := 0
  addr : Nat := 0
  udp : Nat := 0
  crcOk : Bool := true
  deriving DecidableEq, Repr


/-- The profiles whose streams the SCE decodes (R275); every other profile is `other`. -/
inductive SceProfile where
  | constrainedBaseline | main264 | high264 | main265 | main10 | main422x10 | mainAv1 | other
  deriving DecidableEq, Repr

/-- What a stream may use and the SCE does not support (R276). -/
inductive SceFeature where
  | interlace | arbitrarySlices | flexibleMacroblocks | redundantSlices | scalable | multiview | rangeExtension
  | screenContent | largeScaleTile
  deriving DecidableEq, Repr

/-- What the active parameter sets or sequence header of an access unit declare (R275, R276, R280, R283, R285): the profile,
ten times the level, the features outside R275, the picture's size and format, the luma rows and columns of a macroblock, CTU
or superblock, `max_dec_frame_buffering` (H.264) or `sps_max_dec_pic_buffering_minus1` (HEVC), the pictures that may precede
another in decoding order and follow it in output order, the reference frames, the ranges of `frame_num` and of the picture
order count's low bits (0: the header gives the whole count), and `gaps_in_frame_num_value_allowed_flag`. -/
structure SceSeq where
  profile : SceProfile := .high264
  level : Nat := 40
  features : List SceFeature := []
  width : Nat := 0
  height : Nat := 0
  bits : Nat := 8
  chroma : Nat := 1
  unit : Nat := 16
  dpb : Nat := 0
  reorder : Nat := 0
  numRefs : Nat := 1
  frameNums : Nat := 16
  pocs : Nat := 16
  gaps : Bool := false
  deriving DecidableEq, Repr, Inhabited

/-- What kind of picture an access unit holds (R288, R293, R294). -/
inductive ScePicKind where
  | idr | cra | bla | keyFrame | intra | p | b | rasl
  deriving DecidableEq, Repr

/-- How a header names a reference: by `frame_num` or long-term index (H.264), by picture order count (HEVC), or by a slot
(AV1). -/
inductive SceRef where
  | frameNum (n : Nat)
  | longIdx (n : Nat)
  | poc (n : Int)
  | slot (n : Nat)
  deriving DecidableEq, Repr

/-- A memory management operation of H.264 (R286): a short-term or long-term reference is dropped, a short-term reference
gets a long-term index, long-term indices from a bound on are dropped, all references are dropped, or the picture itself gets
a long-term index. -/
inductive SceMmco where
  | dropShort (frameNum : Nat)
  | dropLong (ix : Nat)
  | toLong (frameNum ix : Nat)
  | maxLong (n : Nat)
  | dropAll
  | selfLong (ix : Nat)
  deriving DecidableEq, Repr

/-- The headers of an access unit above its slice data, as firmware parses them (R280): what its parameter sets declare, the
picture's kind, whether it is a reference, its `frame_num` and picture order count bits, its reference lists after their
modification, the reference picture set (HEVC; each entry's picture order count and whether it is long-term), the memory
management operations (H.264; none: the sliding window), `refresh_frame_flags` (AV1), whether the picture is output,
`no_output_of_prior_pics_flag`, the AV1 slot of `show_existing_frame`, whether film grain is applied, and the first unit and
the number of units of each slice or tile group received. -/
structure SceHdr where
  seq : SceSeq := {}
  kind : ScePicKind := .p
  isRef : Bool := true
  frameNum : Nat := 0
  pocBits : Nat := 0
  list0 : List SceRef := []
  list1 : List SceRef := []
  rps : List (Int × Bool) := []
  mmco : Option (List SceMmco) := none
  refresh : Nat := 0
  shown : Bool := true
  noPrior : Bool := false
  existing : Option Nat := none
  grain : Bool := false
  slices : List (Nat × Nat) := []
  deriving DecidableEq, Repr, Inhabited

/-- A 16 × 16 block as the engine codes or decodes it (R293): the list-0 and list-1 vectors of its 4 × 4 units, the best intra
cost, the cost of the inter prediction chosen, and its QP. -/
structure SceBlock where
  list0 : List (Int × Int) := []
  list1 : List (Int × Int) := []
  icost : Nat := 0
  pcost : Option Nat := none
  qp : Nat := 0
  deriving DecidableEq, Repr, Inhabited

/-- What the outside decides of a picture's coding (R302): the codec cycles that it waited for memory beyond those of R279. -/
structure SceRes where
  stall : Nat := 0
  deriving DecidableEq, Repr

/-- The tools of an encoder's stream (R281) and its picture shape. -/
structure SceTools where
  codec : Nat
  bits : Nat
  chroma : Nat
  width : Nat
  height : Nat
  cabac : Bool
  block : Nat
  cuMin : Nat
  tuMin : Nat
  tuMax : Nat
  transform8 : Bool
  amp : Bool
  deblocking : Bool
  sao : Bool
  searchX : Nat
  searchY : Nat
  rowsPerSlice : Nat
  timing : Bool
  fullRange : Bool
  hrd : Bool
  tiles : Bool
  wavefront : Bool
  weighted : Bool
  scalingLists : Bool
  deriving DecidableEq, Repr, Inhabited

/-- A piece of a NAL unit that an RTP packet carries: whether it begins and ends the unit. -/
structure NalPart where
  first : Bool
  last : Bool
  data : List Byte
  deriving DecidableEq, Repr

/-- A UDP payload as its protocol reads it (R357): an RTP packet with NAL pieces or with audio samples, each a list of
channel values; the leader, a run of lines, or the trailer of a GVSP block, with its packet number; or plain bytes. -/
inductive UdpBody where
  | rtpVideo (pt seq ts ssrc : Nat) (marker : Bool) (parts : List NalPart)
  | rtpAudio (pt seq ts ssrc : Nat) (samples : List (List Nat))
  | gvspLeader (block sizeX sizeY bits chroma : Nat)
  | gvspLines (block pkt first : Nat) (lines : List (List Byte))
  | gvspTrailer (block pkt : Nat)
  | bytes (b : List Byte)
  deriving DecidableEq, Repr

/-- What a received Ethernet frame carries (R354). A PTP message carries the offset that the exchange it ends measures, or
the announced UTC offset; RTCP names the stream whose session it belongs to and says whether it is a PLI or FIR. -/
inductive EthBody where
  | ptpOffset (domain : Nat) (ofs : Int)
  | ptpUtc (domain : Nat) (ofs : Int)
  | ptpDelayReq (domain : Nat)
  | movon (f : MvFrame)
  | udp (dport : Nat) (b : UdpBody)
  | rtcp (id : Nat) (feedback : Bool)
  | service
  | other
  deriving DecidableEq, Repr

/-- An IP interface of a port (R349): its VLAN, the port's MAC address, and for each family its address, prefix length and default
gateway, as numbers. -/
structure NetIface where
  port : Nat
  vlan : Nat := 0
  mac : Nat := 0
  ip4 : Nat := 0
  len4 : Nat := 32
  gw4 : Nat := 0
  ip6 : Nat := 0
  len6 : Nat := 128
  gw6 : Nat := 0
  deriving DecidableEq, Repr, Inhabited

/-- A received Ethernet frame (R348, R350): its length, VLAN, whether it is Ethernet II with at most one tag and its FCS
passes, whether it is a pause frame, whether the datagram's checksums pass, whether it is an IP fragment, and how many FEC
codewords were corrected and how many were uncorrectable since the port's frame before (R387). (DESIGN CHOICE, log entry 151) -/
structure EthFrame where
  port : Nat
  len : Nat := 64
  vlan : Nat := 0
  good : Bool := true
  pause : Bool := false
  sumOk : Bool := true
  fragment : Bool := false
  fecCorr : Nat := 0
  fecBad : Nat := 0
  body : EthBody
  deriving DecidableEq, Repr

/-- A field of a UADP DataSetMessage (R183). -/
inductive UadpField where
  | int (v : Int) | bool (b : Bool) | f32 (code : Nat) | f64 (code : Nat) | other
  deriving DecidableEq, Repr

/-- What a frame on the Paddock lane carries (R181, R183): a Modbus request or response, named by the TCP four-tuple, the
transaction identifier and the server's address, a UADP message, a secured one, or what cannot be parsed. -/
inductive PadBody where
  | modbusReq (tuple tid server unit fc addr count : Nat)
  | modbusRsp (tuple tid server unit fc : Nat) (exc : Bool) (regs : List Nat)
  | uadp (pubId wgId : Nat) (sets : List (Nat × List UadpField))
  | secured
  | unparsed
  deriving DecidableEq, Repr

/-- A host access through PCIe (R369, R370): the function (0 the physical one), the BAR (0 the tile windows, 2 of the
physical function the package's registers, else the device memory aperture), the offset, and a read of some bytes, a write
with its poison mark. -/
structure HostAcc where
  fn : Nat
  bar : Nat
  off : Nat
  read : Option Nat := none
  data : List Byte := []
  poison : Bool := false
  deriving DecidableEq, Repr

/-- The fuse block (R442) with the Hasp store (R505): what final test has written into a part. -/
structure Fuses where
  variant : Nat := 1
  stepping : Nat := 1
  coreMax : Nat := 1800
  pkgW : Nat := 1200
  devid : Nat := 0
  keydig : List (List Byte) := []
  keyrev : Nat := 0
  svn : Nat := 0
  hkey : List Byte := []
  pw : List (List Byte) := []
  deriving DecidableEq, Repr

/-- What the sensors read at a decision (R476, R480, R481): the average power of the interval in mW, the four junction sensors
of each tile, the temperature of each stack, and the voltage and current of each rail. -/
structure Sense where
  mw : Nat := 0
  tj : List (List Int) := []
  hbmT : List Nat := []
  rails : List (Nat × Nat) := []
  deriving DecidableEq, Repr

/-- What S1 meets (R448, R450, R463, R465): which corner tiles pass their self-test, the bytes of images A and B, and whether
each copy of the defect list and of the training settings passes its check when it is read. -/
structure S1Res where
  corners : List Bool := [true, true, true, true]
  images : List (List Byte) := []
  dlOk : List Bool := [true, true]
  trainOk : List Bool := [true, true]
  cntOk : List Bool := [true, true]
  deriving DecidableEq, Repr

/-- What the self-test of S2 finds (R455): the tiles and routers with a lasting fault, working-store banks beyond repair and
ECE lanes, each with its tile, and the transient faults. -/
structure S2Res where
  tiles : List Nat := []
  routers : List Nat := []
  banks : List (Nat × Nat) := []
  lanes : List (Nat × Nat) := []
  transient : Nat := 0
  deriving DecidableEq, Repr

/-- What training finds in S3, S4 and S6 (R456, R457, R460): edges with a lasting fault, each by a tile and its port; half-stacks
or lanes whose training from saved settings fails, and those whose full training fails twice; stack temperatures; and the
transient faults. -/
structure TrainRes where
  edges : List (Nat × Nat) := []
  savedBad : List Nat := []
  bad : List Nat := []
  temps : List Nat := []
  transient : Nat := 0
  deriving DecidableEq, Repr

/-- What the memory test of S5 finds (R458): the half-stacks with more failing rows than spares, the rows repaired, and the
transient faults. -/
structure S5Res where
  lost : List Nat := []
  rows : Nat := 0
  transient : Nat := 0
  deriving DecidableEq, Repr

/-- What S7 meets (R461): the tiles whose firmware twice does not report ready, and whether the firmware sections pass their
integrity check. -/
structure S7Res where
  bad : List Nat := []
  imageOk : Bool := true
  transient : Nat := 0
  deriving DecidableEq, Repr
/-- The commands the block takes, one constructor a row of the table of operations and events, in its order. -/
inductive Instr where
  /-- `POWER_GOOD_AON` (R474): Board asserts PWR_GOOD_AON with VDD_AON and AON_CLK in tolerance, and stage S0 begins. -/
  | powerGoodAon (master : Bool)
  /-- `BOOT_S0` (R442): Stage S0 completes: the fuses are read, the always-on domains and boot ROMs start, and the report record is written. -/
  | bootS0 (f : Fuses) (ok : Bool)
  /-- `PWR_GOOD_ASSERT` (R474): Board asserts PWR_GOOD with every main rail in tolerance; stage S1 may begin. -/
  | pwrGoodAssert
  /-- `BOOT_S1` (R450): Stage S1 completes: the boot master is elected and both images are checked, one is chosen, or the start halts with NOIMAGE. -/
  | bootS1 (x : S1Res)
  /-- `BOOT_S2` (R455): Stage S2 completes: tile self-test and repair, TILES_OK and the tile maps set, weight-cache remap filled, or halt FEWTILES. -/
  | bootS2 (x : S2Res)
  /-- `BOOT_S3` (R456): Stage S3 completes: Yard edges trained, routes computed, unreachable tiles taken out of service. -/
  | bootS3 (x : TrainRes)
  /-- `BOOT_S4` (R457): Stage S4 completes: each half-stack trained from saved settings or in full, with takeover or loss. -/
  | bootS4 (x : TrainRes)
  /-- `BOOT_S5` (R458): Stage S5 completes: HBM full or quick test with row repair, degraded map chosen, or halt FEWPORTS. -/
  | bootS5 (x : S5Res)
  /-- `BOOT_S6` (R460): Stage S6 completes: SerDes lanes trained for their quad modes and failed lanes mapped out. -/
  | bootS6 (x : TrainRes)
  /-- `BOOT_S7` (R461): Stage S7 completes: Larkspur and Foxglove firmware loaded on every tile, or a failure leads to fallback or halt. -/
  | bootS7 (x : S7Res)
  /-- `BOOT_S8` (R462): Stage S8 completes: HBM split set, declared instances created, programs loaded, tables enabled, streams opened, and S9 entered. -/
  | bootS8
  /-- `PWR_GOOD_DEASSERT` (R475): Deassertion of PWR_GOOD acts as a package reset and the device waits for PWR_GOOD. -/
  | pwrGoodDeassert
  /-- `RAIL_UNDERVOLTAGE` (R475): A main rail stays more than 8% below nominal for 1 µs, causing a package reset and setting UV and UVRAIL. -/
  | railUndervoltage (rail : Nat)
  /-- `AON_POWER_LOSS` (R475): VDD_AON falls below 90% or AON_CLK is lost, ending every always-on domain. -/
  | aonPowerLoss
  /-- `THERMAL_TRIP` (R482): A junction reaches 110 °C or an HBM stack reaches 105 °C; every fast clock stops and THERMTRIP_N is driven low. -/
  | thermalTrip
  /-- `LIMITER_DECISION` (R476): At the end of each 100 µs interval the limiter and the throttle each decide a core clock step down, up or none. -/
  | limiterDecision (x : Sense)
  /-- `CLOCK_STEP_DONE` (R478): A core clock step completes its voltage and frequency change and CHANGING clears. -/
  | clockStepDone
  /-- `HOTMIN_TICK` (R480): A whole minute elapses with package Tj above 95 °C and HOTMIN advances. -/
  | hotminTick
  /-- `PKG_RST_PIN` (R439): PKG_RST_N is asserted: everything outside the always-on domain resets at once and the start restarts at S1. -/
  | pkgRstPin
  /-- `PKG_RESET_REQUEST` (R439): A write to PRT_PKGRST.GO with KEY 0xA5C3 withholds injection credits and starts a drain of up to 1 ms. -/
  | pkgResetRequest (q : Requester) (key : Nat)
  /-- `PKG_RESET_DRAIN_END` (R439): The routers go idle, or 1 ms passes, and the requested package reset takes effect. -/
  | pkgResetDrainEnd (n : Nat)
  /-- `INSTANCE_CREATE` (R424): PRT_ICMD.GO with OP CREATE assigns, wakes and resets the tiles, advances the epoch and starts firmware, or refuses. -/
  | instanceCreate (q : Requester)
  /-- `INSTANCE_RESET` (R429): An instance reset starts in one cycle: RESETTING, epoch advance, rings, flows and overlays disabled, and old-epoch work abandoned. -/
  | instanceReset (q : Requester)
  /-- `INSTANCE_DESTROY` (R435): PRT_ICMD.GO with OP DESTROY runs the reset and then frees the instance's memory, windows and tiles. -/
  | instanceDestroy (q : Requester) (wipe : Bool)
  /-- `RESET_INFLIGHT_ZERO` (R433): PRT_IFLIGHT reaches zero; tile resets, flow and directory removals follow, and firmware restarts or the destroy completes. -/
  | resetInflightZero (n : Nat)
  /-- `RESET_ESCALATION_TIMEOUT` (R434): 1 ms after a reset began, PRT_IFLIGHT is not zero; an escalation event is raised and ESC is set. -/
  | resetEscalationTimeout (n : Nat)
  /-- `INSTANCE_FW_READY` (R424): Firmware on every tile of the instance reports ready and the instance becomes ACTIVE. -/
  | instanceFwReady (n : Nat)
  /-- `MOWN_WRITE` (R426): A write to an HBM owner entry is applied only when the entry is free or unchanged, and is otherwise refused with MOWN. -/
  | mownWrite (q : Requester) (k value : Nat)
  /-- `TILE_RESET` (R436): PRT_TRST.GO on an unassigned tile starts a tile reset, or is refused with TRST. -/
  | tileReset (q : Requester) (t : Nat)
  /-- `TILE_RESET_DONE` (R436): A tile reset finishes zeroing the working store, and the local registers hold their reset values. -/
  | tileResetDone (t : Nat)
  /-- `ENGINE_RESET` (R437): A write of 1 to a PRT_ERST bit sends the engine to OFF and abandons its work items with ST_ENGINE_RESET. -/
  | engineReset (q : Requester) (t engines : Nat)
  /-- `ENGINE_RESET_DONE` (R437): The engine returns to the state EN selects and its PRT_ERST bit clears. -/
  | engineResetDone (t : Nat) (b : Engine)
  /-- `FUNC_EN_WRITE` (R427): A write to a block's EN starts ENABLING or DISABLING or updates PENDING_EN. -/
  | funcEnWrite (q : Requester) (t : Nat) (b : Engine) (en : Bool)
  /-- `FUNC_TRANSITION_END` (R428): ENABLING or DISABLING ends; the block enters ON or OFF and a pending opposite transition starts. -/
  | funcTransitionEnd (t : Nat) (b : Engine)
  /-- `FUNC_DISABLE_TIMEOUT` (R428): DISABLING has not ended after 1 ms and an escalation event is raised. -/
  | funcDisableTimeout (t : Nat) (b : Engine)
  /-- `OPEN` (R310): A Rinsyn OPEN request checks the settings and joined limits and opens a stream slot, or refuses. -/
  | openStream (o : Origin) (h : ReqHdr) (p : List Byte)
  /-- `CLOSE` (R311): A Rinsyn CLOSE request moves the slot to CLOSING and closes any open decoder frame. -/
  | closeStream (o : Origin) (h : ReqHdr) (p : List Byte)
  /-- `CLOSE_COMPLETE` (R311): The stream's in-flight count reaches zero; the slot becomes CLOSED and its registers reset. -/
  | closeComplete (id : Nat)
  /-- `LOADPROG` (R103): A Rinsyn LOADPROG request loads and checks a program binary, or refuses it. -/
  | loadprog (o : Origin) (h : ReqHdr) (p : List Byte)
  /-- `UNLOADPROG` (R104): A Rinsyn UNLOADPROG request unloads a program, or refuses it if it is named or not loaded. -/
  | unloadprog (o : Origin) (h : ReqHdr) (p : List Byte)
  /-- `NOP` (R314): A Rinsyn NOP request completes at once with ST_OK. -/
  | nop (o : Origin) (h : ReqHdr) (p : List Byte)
  /-- `INPUT` (R314): A Rinsyn INPUT request queues input for the stream's first stage. -/
  | input (o : Origin) (h : ReqHdr) (p : List Byte)
  /-- `SUBMIT` (R314): A Rinsyn SUBMIT request enqueues one work item, or refuses it. -/
  | submit (o : Origin) (h : ReqHdr) (p : List Byte)
  /-- `BARRIER` (R335): A Rinsyn BARRIER request issues one barrier item for the stream. -/
  | barrierReq (o : Origin) (h : ReqHdr) (p : List Byte)
  /-- `KEYREQ` (R52): A Rinsyn KEYREQ request is accepted as a key request for an encoder stream, or refused. -/
  | keyreq (o : Origin) (h : ReqHdr) (p : List Byte)
  /-- `ADAPT` (R185): A Rinsyn ADAPT request checks a window descriptor and queues an adaptation window. -/
  | adapt (o : Origin) (h : ReqHdr) (p : List Byte)
  /-- `REVERT` (R192): A Rinsyn REVERT request restores the previous generation's weights as a new generation. -/
  | revert (o : Origin) (h : ReqHdr) (p : List Byte)
  /-- `SQTAIL_WRITE` (R320): A producer advances SMV_SQTAIL and the device fetches the new requests, or refuses an overrun. -/
  | sqtailWrite (q : Requester) (t r value : Nat)
  /-- `CQHEAD_WRITE` (R371): A consumer advances CQHEAD or ERHEAD, freeing ring space and possibly sending MSI-X. -/
  | cqheadWrite (q : Requester) (t r value : Nat)
  /-- `RING_EN_WRITE` (R344): A write to a ring's EN takes its base and size and resets its counters, or refuses an invalid LOGSIZE. -/
  | ringEnWrite (q : Requester) (t : Nat) (k : RingKind) (r value : Nat)
  /-- `COMPLETION_RECORD_WRITE` (R320): A completion record waiting for ring space is written once space exists. -/
  | completionRecordWrite (t r : Nat)
  /-- `ERROR_RING_WRITE` (R321): A LATE record is written to the instance error ring, held up to 64 per tile while full, or discarded. -/
  | errorRingWrite (t : Nat)
  /-- `QUEUE_TAIL_WRITE` (R323): A producer advances SMV_QTAIL of a hardware queue. -/
  | queueTailWrite (q : Requester) (t k value : Nat)
  /-- `QCFG_WRITE` (R323): A write to SMV_QCFG is applied, or refused with QCFG when it breaks the depth sum or the queue holds items. -/
  | qcfgWrite (q : Requester) (t k value : Nat)
  /-- `QUEUE_BURST_FETCH` (R324): A queue fetches a burst of work-item slots from HBM once its on-chip buffer has room. -/
  | queueBurstFetch (t k : Nat)
  /-- `TRANSFER_ISSUE` (R326): A run-ahead queue issues a read once it has outstanding limit, credits and a free tag. -/
  | transferIssue (t k : Nat)
  /-- `TRANSFER_COMPLETE` (R332): A transfer's data returns or its write is acknowledged or fails, and its tag is freed. -/
  | transferComplete (t tag status : Nat)
  /-- `ITEM_DISPATCH` (R326): A work item whose inputs have all arrived is handed to its engine in queue order. -/
  | itemDispatch (t k : Nat)
  /-- `BARRIER_COMPLETE` (R335): A barrier item completes once earlier items and writes are done, with ST_OK or ST_FAILED_PRIOR_WRITE. -/
  | barrierComplete (id : Nat)
  /-- `OVERLAY_ACCESS_FAULT` (R340): An overlay guest access outside its instance traps; firmware stops the overlay and fails its requests. -/
  | overlayAccessFault (t n : Nat)
  /-- `ARR_ITEM_START` (R225): An array cut work item reaches the array and its descriptors are checked before its first block. -/
  | arrItemStart (t q : Nat)
  /-- `ARR_BLOCK_START` (R222): At a block boundary the array takes the highest-priority block whose fences cover its rows. -/
  | arrBlockStart (t : Nat)
  /-- `ARR_BLOCK_DONE` (R223): A block's output stage drains, its fence advances and its output is pushed; the cut completes after its last block. -/
  | arrBlockDone (t : Nat)
  /-- `HALO_ARRIVAL` (R217): Halo rows arrive over the Yard into HALO_ADDR and the halo fence advances. -/
  | haloArrival (t q side : Nat)
  /-- `SFU_MICRO_LOAD_DONE` (R266): A microprogram load completes and is checked, reloaded once, or poisons the cut. -/
  | sfuMicroLoadDone (t q fails : Nat)
  /-- `ARR_CVCTL_CLR` (R248): A write of 1 to ARR_CVCTL.CLR clears the conversion statistics and counters. -/
  | arrCvctlClr (q : Requester) (t : Nat)
  /-- `LSC_ENC_FRAME_BOUNDARY` (R67): An encoder begins analysis of a frame, at which the shadow applies and the frame's kind is decided. -/
  | lscEncFrameBoundary (id : Nat)
  /-- `LSC_DEC_FRAME_BOUNDARY` (R67): A decoder begins entropy decoding of a frame's first plot payload. -/
  | lscDecFrameBoundary (id : Nat)
  /-- `LSC_LATENT_PATH_DONE` (R56): The latent path of a frame completes; pool marks change and the frame becomes REF_S. -/
  | lscLatentPathDone (id : Nat)
  /-- `LSC_FRAME_COMPLETE` (R64): An encoder frame completes; clamp events, filler and the start indices are settled. -/
  | lscFrameComplete (id : Nat)
  /-- `LSC_DEC_FRAME_COMPLETE` (R72): A decoder frame completes with its status, concealment state and any refresh request. -/
  | lscDecFrameComplete (id : Nat)
  /-- `DEC_WAIT_EXPIRY` (R73): DEC_WAIT milliseconds pass since the frame's unit arrived and the decoder closes the frame. -/
  | decWaitExpiry (id : Nat)
  /-- `LSC_KEYREQ` (R52): A write of 1 to ECE_LSCCMD.KEYREQ is accepted as a key request, or refused in a decoder slot. -/
  | lscKeyreq (q : Requester) (t : Nat)
  /-- `LSC_RCRESET` (R63): A write of 1 to ECE_LSCCMD.RCRESET resets both start indices to QIDX at the next boundary. -/
  | lscRcreset (q : Requester) (t : Nat)
  /-- `SHADOW_WRITE` (R529): A write to an SHD settings field lands in the slot's shadow, or takes effect at once at a CLOSED slot. -/
  | shadowWrite (q : Requester) (a value : Nat)
  /-- `ECE_ENCODE_START` (R124): An ECE encode work item starts once the values of all its groups are present. -/
  | eceEncodeStart (t : Nat)
  /-- `ECE_ENCODE_DONE` (R123): An encode payload is written, or withheld for capacity or poison, and the work item completes. -/
  | eceEncodeDone (t : Nat)
  /-- `ECE_DECODE_START` (R124): An ECE decode work item reads the eight initial lane states. -/
  | eceDecodeStart (t : Nat)
  /-- `ECE_GROUP_READY` (R124): The latent path releases the means and indices of the next group, and a waiting decode item continues. -/
  | eceGroupReady (t slot : Nat)
  /-- `ECE_DECODE_DONE` (R129): A decode work item passes all checks and exposes its values, or fails and decodes the plot from zero. -/
  | eceDecodeDone (t : Nat)
  /-- `ECE_TSET_LOAD_DONE` (R115): A program's CDF table set finishes loading into an ECE table set. -/
  | eceTsetLoadDone (t : Nat)
  /-- `MOVON_OSF_RX` (R148): A Movon OSF message is received and its units are framed and checked in turn. -/
  | movonOsfRx (f : MvFrame)
  /-- `HEAD_EVAL_START` (R171): A due head evaluation starts once its taps are ready, after clearing state at a key latent. -/
  | headEvalStart (id : Nat)
  /-- `HEAD_EVAL_DONE` (R176): A head evaluation completes, writing its feature-ring entry and status. -/
  | headEvalDone (id : Nat)
  /-- `ADAPT_WINDOW_OPEN` (R185): A queued adaptation window opens at START and its training pairs are drawn. -/
  | adaptWindowOpen (id : Nat)
  /-- `ADAPT_STEP_DONE` (R188): One optimiser step of the tail completes. -/
  | adaptStepDone (id : Nat)
  /-- `ADAPT_WINDOW_END` (R190): The window ends when STEPS are done or DURATION elapses, and validation begins. -/
  | adaptWindowEnd (id : Nat)
  /-- `ADAPT_VALIDATION_DONE` (R191): Validation losses are compared and the candidate is committed or rejected. -/
  | adaptValidationDone (id : Nat)
  /-- `PADDOCK_FRAME_RX` (R181): The Paddock port receives a frame and parses it for Modbus or UADP labels. -/
  | paddockFrameRx (good : Bool) (b : PadBody)
  /-- `MODBUS_PAIR_EXPIRY` (R183): 1 s passes after a Modbus request without a pairing response, and the request can no longer pair. -/
  | modbusPairExpiry (tuple tid : Nat)
  /-- `LABEL_ENABLE` (R182): LNK_LBLCTL.EN changing from 0 to 1 reads the label binding table. -/
  | labelEnable (q : Requester)
  /-- `LABEL_RELOAD` (R182): A write of 1 to LNK_LBLCTL.RELOAD re-reads the label binding table. -/
  | labelReload (q : Requester)
  /-- `PADDOCK_LOCK_CHANGE` (R368): The Paddock lane loses or regains block lock, stopping or resuming label extraction. -/
  | paddockLockChange (lock : Bool)
  /-- `SCE_INPUT_TAKEN` (R282): An encoder input picture is taken into the input queue, applying settings and deciding key pictures. -/
  | sceInputTaken (id : Nat)
  /-- `SCE_PICTURE_START` (R278): An SCE takes the oldest ready picture item, switching stream if needed. -/
  | scePictureStart (t : Nat) (h : SceHdr)
  /-- `SCE_PICTURE_DONE` (R286): An SCE picture completes; marks are applied, completions issued and refresh requests sent. -/
  | scePictureDone (t : Nat) (r : SceRes)
  /-- `SCE_KEYREQ` (R288): A write of 1 to SCE_SCMD.KEYREQ is accepted as a key request, or refused in a decoder slot. -/
  | sceKeyreq (q : Requester) (t : Nat)
  /-- `SCE_RCRESET` (R290): A write of 1 to SCE_SCMD.RCRESET sets all start QPs to QP at the next boundary. -/
  | sceRcreset (q : Requester) (t : Nat)
  /-- `ETH_FRAME_RX` (R354): A port receives an Ethernet frame and classifies it to PTP, Movon, ingest, RTCP, firmware or discard. -/
  | ethFrameRx (f : EthFrame)
  /-- `PORT_LINK_DOWN` (R378): A port's link drops; its queued frames are discarded and its Movon paths declared down. -/
  | portLinkDown (p : Nat)
  /-- `PTP_SYNC_LOSS` (R352): 8 Sync intervals pass with no Sync; LOCKED clears and the clock holds its frequency. -/
  | ptpSyncLoss
  /-- `INGEST_AUWAIT_EXPIRY` (R358): AUWAIT milliseconds pass and the open access unit, raw frame or plot closes. -/
  | ingestAuwaitExpiry (id : Nat)
  /-- `RTCP_RR_TIMER` (R366): Every 5 s an ingest stream sends an RTCP receiver report. -/
  | rtcpRrTimer (id : Nat)
  /-- `LINK_TRANSMIT_ITEM` (R365): A link-transmit work item sends a frame's OSF units or an access unit as Movon or RTP messages. -/
  | linkTransmitItem (t : Nat)
  /-- `PUB_ENABLE` (R367): LNK_PUBCTL.EN changing from 0 to 1 reads the publish channel table. -/
  | pubEnable (q : Requester)
  /-- `PUB_RELOAD` (R367): A write of 1 to LNK_PUBCTL.RELOAD re-reads the publish channel table. -/
  | pubReload (q : Requester)
  /-- `MOVON_ENABLE` (R375): LNK_MVCFG.EN changing from 0 to 1 reads the Movon peer table. -/
  | movonEnable (q : Requester)
  /-- `MOVON_RELOAD` (R375): A write of 1 to LNK_MVCFG.RELOAD re-reads the Movon peer table. -/
  | movonReload (q : Requester)
  /-- `MOVON_REQ_RX` (R382): A Movon REQ frame is accepted, its Rinsyn request entered, and a RESP sent. -/
  | movonReqRx (f : MvFrame)
  /-- `MOVON_CPL_RX` (R382): A Movon CPL frame delivers a completion record, which is stored and answered. -/
  | movonCplRx (f : MvFrame)
  /-- `MOVON_WRITE_RX` (R382): A Movon WRITE is applied or refused at its target and answered, with a LATE on failure. -/
  | movonWriteRx (f : MvFrame)
  /-- `MOVON_RESP_RX` (R380): A RESP completes its message with its status or ST_ALT_PATH. -/
  | movonRespRx (f : MvFrame)
  /-- `MOVON_LATE_RX` (R337): A LATE record arrives; FPW is set and the record goes to the error ring. -/
  | movonLateRx (f : MvFrame)
  /-- `MOVON_DIR_RX` (R386): A DIR message registers, removes or looks up a stream name at the cascade master. -/
  | movonDirRx (f : MvFrame)
  /-- `MOVON_PROBE_RX` (R378): A PROBE frame is answered with LINKACK. -/
  | movonProbeRx (f : MvFrame)
  /-- `MOVON_LINKACK_RX` (R376): A LINKACK acknowledges frames, triggers retransmission on NAK, or brings a probed path up. -/
  | movonLinkackRx (f : MvFrame)
  /-- `LINK_RETRANSMIT_TIMEOUT` (R376): 2 µs pass without acknowledgement and the frame is retransmitted. -/
  | linkRetransmitTimeout (e p lseq : Nat)
  /-- `LINK_RETRY_BUDGET_EXPIRY` (R377): A frame's retry budget ends; the path is declared down and the end-to-end layer told. -/
  | linkRetryBudgetExpiry (e p : Nat)
  /-- `PATH_PROBE_TIMER` (R378): Every 1 ms a down path is probed with PROBE. -/
  | pathProbeTimer (e p : Nat)
  /-- `MOVON_E2E_EXPIRY` (R379): A message's end-to-end timer expires and the message fails with ST_TIMEOUT. -/
  | movonE2eExpiry (e msg : Nat)
  /-- `MASTER_LOSS_TIMEOUT` (R385): Every path to the cascade master stays down for 100 ms and NOMASTER is set. -/
  | masterLossTimeout
  /-- `PCIE_HOST_ACCESS` (R370): A host TLP reaches a BAR and is served or refused for its function's instance. -/
  | pcieHostAccess (x : HostAcc)
  /-- `PCIE_FLR` (R372): A function level reset of VF k resets instance k-1. -/
  | pcieFlr (k : Nat)
  /-- `PERST_ASSERT` (R372): PERST_N takes the PCIe link down and disables rings in the host window. -/
  | perstAssert
  /-- `PCIE_LINK_DOWN` (R372): The PCIe link leaves DL_Active and host accesses in flight complete with ST_LINK_DOWN. -/
  | pcieLinkDown
  /-- `HOST_READ_COMPLETION` (R371): A completion arrives for a device read of host memory. -/
  | hostReadCompletion (t tag : Nat) (data : List Byte) (poison : Bool)
  /-- `HOST_READ_TIMEOUT` (R372): A device host read receives no completion in 50 ms and completes with ST_TIMEOUT. -/
  | hostReadTimeout (t tag : Nat)
  /-- `HBM_WRITE` (R405): An HBM write reaches its port, is coded or merged, invalidates the cache line and is acknowledged. -/
  | hbmWrite (q : Requester) (own : Option (Nat × Nat)) (a : Nat) (data : List Byte) (ask pz : Bool)
  /-- `HBM_READ` (R394): An HBM read returns the block's raw bytes through Bale, or poisoned granules on error. -/
  | hbmRead (q : Requester) (own : Option (Nat × Nat)) (a n : Nat) (e : EccEvent)
  /-- `HBM_SCRUB_PASS` (R402): A port completes a scrub pass of its 18 GiB. -/
  | hbmScrubPass (p : Nat)
  /-- `WC_LINE_READ` (R404): A weight read reaches its cache slice and hits, or starts a miss fill. -/
  | wcLineRead (t a : Nat)
  /-- `WC_FILL_DONE` (R404): A weight-cache miss fill returns from HBM, refetching once on ECC failure. -/
  | wcFillDone (a : Nat) (eccOk : Bool)
  /-- `WC_INVALL` (R417): A write of 1 to MEM_WCCTL.INVALL invalidates every line of the slice. -/
  | wcInvall (q : Requester) (t : Nat)
  /-- `YARD_FLIT_CRC_FAIL` (R411): A flit fails its edge CRC and is replayed. -/
  | yardFlitCrcFail (t port : Nat)
  /-- `YARD_REPLAY_BUDGET_EXPIRY` (R411): A flit's replay budget ends; the edge is down, EDGEDOWN recorded and a quiesce starts. -/
  | yardReplayBudgetExpiry (t port : Nat)
  /-- `YARD_PACKET_ABSORB` (R413): A packet for the local port of a tile in reset is refused or discarded and counted. -/
  | yardPacketAbsorb (t : Nat) (src : Option (Nat × Nat))
  /-- `YARD_LOCAL_PACKET_WAKE` (R488): A packet for a sleeping tile's local port is held in its router and wakes the tile. -/
  | yardLocalPacketWake (t : Nat)
  /-- `YARD_QUIESCE_REQ` (R414): A write of 1 to YRD_QCTL.REQ starts the Yard quiesce sequence, withholding injection credits. -/
  | yardQuiesceReq (q : Requester)
  /-- `QUIESCE_DRAINED` (R414): Every router is idle; router domains reset, edges retrain and new route tables load. -/
  | quiesceDrained
  /-- `QUIESCE_DONE` (R414): Edge training ends; injection resumes, BUSY clears and DONE is set. -/
  | quiesceDone (bad : List (Nat × Nat))
  /-- `QUIESCE_TIMEOUT` (R415): Step 3 is not reached 1 ms after the start; an escalation event is raised and ESC set. -/
  | quiesceTimeout
  /-- `SLEEP_IDLE_EXPIRY` (R486): A tile has been idle for IDLE_US and enters STOPPING. -/
  | sleepIdleExpiry (t : Nat)
  /-- `SLEEP_ENTRY_DONE` (R488): STOPPING or GATING completes, entering CLOCK_STOPPED or POWER_GATED, or waking at once if a request is held. -/
  | sleepEntryDone (t : Nat)
  /-- `WAKE_N_ASSERT` (R487): WAKE_N held low for 1 µs wakes every tile in CLOCK_STOPPED. -/
  | wakeNAssert
  /-- `WAKE_TIMER_FIRE` (R487): Package time reaches MGT_WAKETIME or a core timer compare, and the tile wakes. -/
  | wakeTimerFire (t : Nat) (core : Bool)
  /-- `WAKE_DONE` (R487): WAKING ends and the tile returns to RUN. -/
  | wakeDone (t : Nat)
  /-- `WAKETIME_WRITE` (R491): A write to MGT_WAKETIME_HI arms the wake compare. -/
  | waketimeWrite (q : Requester) (t value : Nat)
  /-- `SNAP_IN_EDGE` (R500): A rising edge on SNAP_IN triggers a snapshot, setting T or joining a pending latch. -/
  | snapInEdge
  /-- `SNAP_SW_TRIGGER` (R500): A write of 1 to SNP_TRIG.GO triggers a snapshot. -/
  | snapSwTrigger (q : Requester)
  /-- `SNAP_LATCH` (R501): Package time reaches T and each domain latches its RO, RC and W1C registers, clearing ARM. -/
  | snapLatch (late : List Nat)
  /-- `SNAP_OUT_END` (R501): 1,000 ns after T, SNAP_OUT falls. -/
  | snapOutEnd
  /-- `SNAP_ARM` (R502): A write of 1 to SNP_CTL.ARM arms the tile and clears HELD, LATE and GATED. -/
  | snapArm (q : Requester) (t : Nat) (view : Bool)
  /-- `DIGEST_CFG_WRITE` (R512): A write to SNP_DGCFG sets the digest ring, or leaves EN at 0 for an invalid ring. -/
  | digestCfgWrite (q : Requester) (t value : Nat)
  /-- `HASP_CHALLENGE` (R506): A write of 1 to HSP_CMD.CHAL draws a new nonce. -/
  | haspChallenge (q : Requester)
  /-- `HASP_SUBMIT` (R506): A write of 1 to HSP_CMD.SUBMIT checks the MAC and opens Hasp or records a failure. -/
  | haspSubmit (q : Requester)
  /-- `HASP_PW_SUBMIT` (R507): A write of 1 to HSP_CMD.PWSUBMIT checks the password and opens Hasp or records a failure. -/
  | haspPwSubmit (q : Requester)
  /-- `HASP_PW_SET` (R507): A write of 1 to HSP_CMD.PWSET programs the next empty password slot. -/
  | haspPwSet (q : Requester)
  /-- `HASP_CLOSE` (R509): A write of 1 to HSP_CMD.CLOSE closes Hasp and resumes halted cores. -/
  | haspClose (q : Requester)
  /-- `HASP_OPEN_EXPIRY` (R509): The open time ends and Hasp closes. -/
  | haspOpenExpiry
  /-- `HASP_NONCE_EXPIRY` (R506): 600 s after CHAL the nonce expires. -/
  | haspNonceExpiry
  /-- `HASP_LOCKOUT_END` (R508): The refusal period after repeated failures ends. -/
  | haspLockoutEnd
  /-- `HASP_IRESET` (R510): HSP_ACT.GO with OP IRESET resets the named instance. -/
  | haspIreset (q : Requester) (arg : Nat)
  /-- `HASP_DLREMOVE` (R510): HSP_ACT.GO with OP DLREMOVE removes a defect-list entry. -/
  | haspDlremove (q : Requester) (arg : Nat)
  /-- `DEBUG_VIEW_WRITE` (R511): A write through a debug view sets TAINT and advances DBGWR. -/
  | debugViewWrite (q : Requester) (t : Nat) (value : Option Nat)
  /-- `DBG_WINDOW_READ` (R512): A read of SNP_DBGDATA returns the working-store word, bypassing ECC, and advances ADDR by 4. -/
  | dbgWindowRead (q : Requester) (t : Nat)
  /-- `RC_READ` (R524): A read of an RC field returns its value and clears it. -/
  | rcRead (q : Requester) (a : Nat)
  /-- `LO_READ_LATCH` (R531): A read of a _LO register latches its _HI word for the reading requester. -/
  | loReadLatch (q : Requester) (a : Nat)
  /-- `REG_WRITE` (R523): A write to a register that has no row of its own, judged field by field under the access codes. -/
  | regWrite (q : Requester) (a be value : Nat)
  /-- `PORT_LINK_UP` (R347): An Ethernet port's link comes up (PCS lock regained), setting LNK_LANESTAT.UP and letting its ports carry traffic again. -/
  | portLinkUp (p : Nat)
  /-- `PCIE_LINK_UP` (R369): The PCIe link trains and enters DL_Active, setting LNK_PCISTAT.DLUP, GEN and WIDTH. -/
  | pcieLinkUp (gen width numvf : Nat)
  /-- `PTP_MESSAGE_INTERVAL` (R351): At each PTP message interval the ordinary clock sends its Sync (MASTER) or Delay_Req (SLAVE) messages. -/
  | ptpMessageInterval
  /-- `FXG_ITEM_COMPLETE` (R327): A Foxglove work item taken from MT1-MT3 by firmware or an overlay completes and leaves the stream's in-flight count. -/
  | fxgItemComplete (t k slot status digest : Nat)
  deriving DecidableEq, Repr

end Sys2Proof
end

