-- ==== Sys2Proof/Decode.lean ====
section
/-! DEFINITION. Words. The command table of this block gives no row any bits (its `fields` are empty throughout): a command has no
encoding, so no word spells one. -/
namespace Sys2Proof

/-- The command that a word spells by the table's bits: none, for every word. (DEDUCED, log entry 27) -/
def decodeTableWord (_nbits _w : Nat) : Option Instr := none

end Sys2Proof
end

