-- ==== Sys2Proof/Machine/Bits.lean ====
section
/-! DEFINITION. Bit fields of register words (R17), signed readings, byte orders and the checks the spec defines as
normative pseudocode over bytes: CRC-32C (R135), CRC-64/ECMA-182 (R496) and the request digest (R313). -/
namespace Sys2Proof.Machine

/-- Bits `hi` down to `lo` of a number. -/
def bitsOf (n hi lo : Nat) : Nat := (n / 2 ^ lo) % 2 ^ (hi + 1 - lo)

/-- Bit `i` of a number. -/
def bitOf (n i : Nat) : Bool := n / 2 ^ i % 2 == 1

/-- Bits `hi` down to `lo` of a register word. -/
def getBits (w : Word) (hi lo : Nat) : Nat := bitsOf w.toNat hi lo

/-- The bits of the positions `hi` down to `lo`. -/
def maskOf (hi lo : Nat) : Word := BitVec.ofNat 32 ((2 ^ (hi + 1 - lo) - 1) * 2 ^ lo)

/-- A register word with bits `hi` down to `lo` replaced by the low bits of `v`. -/
def setBits (w : Word) (hi lo v : Nat) : Word :=
  (w &&& ~~~maskOf hi lo) ||| (BitVec.ofNat 32 (v % 2 ^ (hi + 1 - lo) * 2 ^ lo))

/-- A Boolean as a bit. -/
def b2n (b : Bool) : Nat := if b then 1 else 0

/-- The two's-complement reading of the low `n` bits of `v`. -/
def toSigned (n v : Nat) : Int :=
  let u := v % 2 ^ n
  if u < 2 ^ (n - 1) then (u : Int) else (u : Int) - (2 ^ n : Nat)

/-- The low `n` bits of the two's complement of `v`. -/
def ofSigned (n : Nat) (v : Int) : Nat := (v % ((2 ^ n : Nat) : Int)).toNat

/-- A count that stays at its largest value (R524). -/
def satAdd (mx a b : Nat) : Nat := min mx (a + b)

/-- The number that bytes spell, least significant byte first (R17). -/
def leNat : List Byte → Nat
  | [] => 0
  | b :: bs => b.toNat + 256 * leNat bs

/-- The number that bytes spell, most significant byte first (R133). -/
def beNat (bs : List Byte) : Nat := bs.foldl (fun a b => a * 256 + b.toNat) 0

/-- `n` bytes of `v`, least significant first. -/
def toLe : Nat → Nat → List Byte
  | 0, _ => []
  | n + 1, v => BitVec.ofNat 8 v :: toLe n (v / 256)

/-- `n` bytes of `v`, most significant first. -/
def toBe (n v : Nat) : List Byte := (toLe n v).reverse

/-- The little-endian field of `n` bytes at offset `o`. -/
def leAt (bs : List Byte) (o n : Nat) : Nat := leNat ((bs.drop o).take n)

/-- The big-endian field of `n` bytes at offset `o`. -/
def beAt (bs : List Byte) (o n : Nat) : Nat := beNat ((bs.drop o).take n)

/-- Apply `f` `n` times. -/
def repeatN {α : Type} (f : α → α) : Nat → α → α
  | 0, a => a
  | n + 1, a => repeatN f n (f a)

/-- One bit of the reflected Castagnoli division (R135). -/
def crc32cBit (c : Nat) : Nat := if c % 2 = 1 then (c / 2) ^^^ 0x82F63B78 else c / 2

/-- CRC-32C (R135). -/
def crc32c (bs : List Byte) : Nat :=
  (bs.foldl (fun c b => repeatN crc32cBit 8 (c ^^^ b.toNat)) 0xFFFFFFFF) ^^^ 0xFFFFFFFF

/-- The request digest (R313): header bytes 0 to 7 and the payload. -/
def rdigest (h p : List Byte) : Nat :=
  let c := crc32c (h.take 8 ++ p)
  (c / 65536) ^^^ (c % 65536)

/-- One bit of the CRC-64/ECMA-182 division (R496). -/
def crc64Bit (c : Nat) : Nat :=
  if c / 2 ^ 63 % 2 = 1 then ((c * 2) % 2 ^ 64) ^^^ 0x42F0E1EBA9EA3693 else (c * 2) % 2 ^ 64

/-- CRC-64/ECMA-182 (R496). -/
def crc64 (bs : List Byte) : Nat :=
  bs.foldl (fun c b => repeatN crc64Bit 8 (c ^^^ (b.toNat * 2 ^ 56))) 0

/-- The set bits of a mask below `n`, lowest first. -/
def bitList (n mask : Nat) : List Nat := (List.range n).filter fun i => bitOf mask i

/-- The mask whose set bits are the list. -/
def maskList (l : List Nat) : Nat := l.foldl (fun m i => m ||| 2 ^ i) 0

/-- Division rounding up. -/
def cdiv (a b : Nat) : Nat := (a + b - 1) / b

/-- Division truncated toward zero (R62). -/
def truncDiv (a b : Int) : Int := Int.tdiv a b

/-- A value held between two bounds. -/
def clampInt (v lo hi : Int) : Int := min (max v lo) hi

/-- Replace the entry at place `i` of a list. -/
def setAt {α : Type} (l : List α) (i : Nat) (a : α) : List α := l.set i a

end Sys2Proof.Machine
end

