-- ==== Sys2Proof/Machine/Map.lean ====
section
/-! DEFINITION. Sorted maps with a default, in one canonical form: keys strictly rising by their code and no entry
equal to what an unlisted key reads as.  Memory, the register file, the stream, instance and tile contexts are
such maps. -/
namespace Sys2Proof.Machine

/-- The value at `k`: the listed one, or `d` where none is listed. -/
def mapGet {K V : Type} (code : K → Nat) (d : V) : List (K × V) → K → V
  | [], _ => d
  | (k', v) :: m, k => if code k' = code k then v else mapGet code d m k

/-- List `v` at `k`, keeping the keys in order. -/
def mapInsert {K V : Type} (code : K → Nat) (k : K) (v : V) : List (K × V) → List (K × V)
  | [] => [(k, v)]
  | (k', v') :: m =>
    if code k < code k' then (k, v) :: (k', v') :: m
    else if code k = code k' then (k, v) :: m
    else (k', v') :: mapInsert code k v m

/-- Store `v` at `k`, keeping the keys in order; storing the default removes the entry. -/
def mapPut {K V : Type} [DecidableEq V] (code : K → Nat) (d : V) (m : List (K × V)) (k : K) (v : V) : List (K × V) :=
  if v = d then m.filter fun e => code e.1 != code k else mapInsert code k v m

/-- Forget every entry whose key satisfies `p`, so that it reads as the default. -/
def mapDrop {K V : Type} (p : K → Bool) (m : List (K × V)) : List (K × V) :=
  m.filter fun e => !p e.1

/-- The keys rise strictly. -/
def mapSorted {K V : Type} (code : K → Nat) : List (K × V) → Bool
  | [] => true
  | [_] => true
  | a :: b :: m => decide (code a.1 < code b.1) && mapSorted code (b :: m)

/-- The canonical form of a map whose unlisted keys read as `d`. -/
def mapWf {K V : Type} [DecidableEq V] (code : K → Nat) (d : K → V) (m : List (K × V)) : Bool :=
  mapSorted code m && m.all fun e => decide (e.2 ≠ d e.1)

end Sys2Proof.Machine
end

