-- ==== Sys2Proof/Machine/Regs.lean ====
section
/-! DEFINITION. The register map: every register of the index of R537, the fields its table gives it
(bits, access code, collision code, reset), the block and offset at which R516 and R537 place it, and which
tile and which selected slot, instance or function it belongs to (R517, R530).  `Acc`, `Coll` are the codes of
R523 and R20.  A reset given as a word (fuse, bond, test, image, start) reads zero until it is set (R532). -/
namespace Sys2Proof.Machine

/-- The blocks of R516, and the package-global region of R514. -/
inductive Blk where
  | GLB | MGT | ARR | SFU | ECE | SCE | SMV | BAL | MEM | YRD | LNK | ING | FXG | PRT | SNP | HSP
  deriving DecidableEq, Repr

/-- Access codes (R523). -/
inductive Acc where
  | rw | ro | w1c | w1s | wo | rc
  deriving DecidableEq, Repr

/-- Collision codes (R20). -/
inductive Coll where
  | hw | sw | mrg | shd
  deriving DecidableEq, Repr

/-- Every register of the device; an indexed register is one constructor and an index. (DESIGN CHOICE, log entry 31) -/
inductive Reg where
  | MGT_PARTID | MGT_PARTCAP | MGT_TILEMAP_LO | MGT_TILEMAP_HI | MGT_BOOTSTAT | MGT_BOOTIMG | MGT_HBMCFG 
  | MGT_HBMTAKE | MGT_RPTPTR | MGT_FUSESEC | MGT_DEVID_LO | MGT_DEVID_HI | MGT_DLCNT | MGT_PWRCFG | MGT_PWRSTAT 
  | MGT_PWRNOW | MGT_PWRSTEPS | MGT_THERM | MGT_RAIL | MGT_GREGERR | MGT_GREGERRCNT | MGT_RPT 
  | MGT_TILEROLE | MGT_SLPCFG | MGT_SLPSTAT | MGT_WAKETIME_LO | MGT_WAKETIME_HI | MGT_WAKECNT | MGT_CLKSTAT 
  | MGT_TJ | MGT_REGERR | MGT_REGERRCNT 
  | ARR_CTL | ARR_QCTL | ARR_QSTAT | ARR_CUR | ARR_ERRSTAT | ARR_ERRCNT | ARR_BUSYCNT | ARR_MACCNT 
  | ARR_FENCECNT | ARR_FILLCNT | ARR_HALOCNT | ARR_SPILLCNT | ARR_FREQCNT | ARR_CVCTL | ARR_CVSEL | ARR_CVCNT 
  | ARR_CVSSE_LO | ARR_CVSSE_HI | ARR_CVSSX_LO | ARR_CVSSX_HI | ARR_CVSAT | ARR_CVNAN | ARR_BRSTAT | ARR_BRREF 
  | ARR_BRSAT | ARR_REGERR | ARR_REGERRCNT 
  | SFU_CTL | SFU_STAT | SFU_MPRES | SFU_ERRSTAT | SFU_ERRCNT | SFU_EVALCNT | SFU_COMPATCNT | SFU_NANCNT 
  | SFU_STALLCNT | SFU_REGERR | SFU_REGERRCNT 
  | ECE_CTL | ECE_LANECFG | ECE_TSET | ECE_INFLIGHT | ECE_ERRSTAT | ECE_ERRLOC | ECE_ERRCNT | ECE_ESCCNT 
  | ECE_STEPCNT | ECE_TSETPROG | ECE_LSCSEL | ECE_LSCCTL | ECE_LSCCMD | ECE_LSCLIVE0 | ECE_LSCLIVE1 | ECE_RCSTAT 
  | ECE_LSCCNT | ECE_LSCW0 | ECE_LSCW1 | ECE_LSCW2 | ECE_LSCW3 | ECE_LSCW4 | ECE_LSCW5 | ECE_LSCW6 | ECE_LSCW7 
  | ECE_OSFSTAT | ECE_OSFCNT0 | ECE_OSFCNT1 | ECE_OSFCNT2 | ECE_TAPCFG | ECE_TAPSTAT | ECE_TAPCNT | ECE_REGERR 
  | ECE_REGERRCNT 
  | SCE_CTL | SCE_STAT | SCE_ERRSTAT | SCE_ERRLOC | SCE_ERRCNT | SCE_PICCNT | SCE_SWCNT | SCE_BUSYCNT | SCE_SSEL 
  | SCE_SCTL | SCE_SCMD | SCE_SLIVE0 | SCE_SLIVE1 | SCE_RCSTAT | SCE_SCNT | SCE_SCNT2 | SCE_SW0 | SCE_SW1 
  | SCE_SW2 | SCE_SW3 | SCE_SW4 | SCE_SW5 | SCE_SW6 | SCE_SW7 | SCE_REGERR | SCE_REGERRCNT 
  | SMV_CTL | SMV_TAGS | SMV_TAGSTALL | SMV_HBMSPLIT | SMV_ERRSTAT | SMV_ERRCNT | SMV_CQSTALL | SMV_RESIDENT 
  | SMV_QCFG | SMV_QBASE_LO | SMV_QBASE_HI | SMV_QSTG | SMV_QTAIL | SMV_QHEAD | SMV_SQBASE_LO | SMV_SQBASE_HI 
  | SMV_SQCFG | SMV_SQTAIL | SMV_SQHEAD | SMV_CQBASE_LO | SMV_CQBASE_HI | SMV_CQCFG | SMV_CQHEAD | SMV_CQTAIL 
  | SMV_ERBASE_LO | SMV_ERBASE_HI | SMV_ERCFG | SMV_ERHEAD | SMV_ERTAIL | SMV_ERDROP | SMV_SSEL | SMV_SLIVE0 
  | SMV_SLIVE1 | SMV_SCOND0 | SMV_SCOND1 | SMV_SCOND2 | SMV_SCOND3 | SMV_REGERR | SMV_REGERRCNT 
  | BAL_CTL | BAL_ERRSTAT | BAL_ERRCNT | BAL_CLSCNT | BAL_RMWCNT | BAL_YSAVED | BAL_REGERR | BAL_REGERRCNT 
  | MEM_WSCFG | MEM_WSECC | MEM_WCCTL | MEM_WCHIT | MEM_WCMISS | MEM_WCINV | MEM_WCSERVE_LO | MEM_WCSERVE_HI 
  | MEM_HBMSTAT | MEM_HBMECC | MEM_HBMSCRUB | MEM_ERRSTAT | MEM_ERRCNT | MEM_REGERR | MEM_REGERRCNT 
  | YRD_STAT | YRD_QCTL | YRD_ERRSTAT | YRD_ERRCNT | YRD_EDGEEVT | YRD_REPLAY | YRD_ABSORB | YRD_FLIT | YRD_RT 
  | YRD_REGERR | YRD_REGERRCNT 
  | LNK_CTL | LNK_QUADCFG | LNK_LANESTAT | LNK_ERRSTAT | LNK_ERRCNT | LNK_RXDROP | LNK_FECCNT | LNK_FLOWS 
  | LNK_LRETRY | LNK_PATHEVT | LNK_SSEL | LNK_SW0 | LNK_SW1 | LNK_SCNT | LNK_MVCFG | LNK_MVPEER_LO 
  | LNK_MVPEER_HI | LNK_MVSTAT | LNK_PTPCFG | LNK_PTPSTAT | LNK_PTPOFS | LNK_PUBCTL | LNK_PUBBASE_LO 
  | LNK_PUBBASE_HI | LNK_HWSEL | LNK_HWE_LO | LNK_HWE_HI | LNK_APER_LO | LNK_APER_HI | LNK_PCISTAT | LNK_LBLCTL 
  | LNK_LBLBASE_LO | LNK_LBLBASE_HI | LNK_LBLCNT0 | LNK_LBLCNT1 | LNK_REGERR | LNK_REGERRCNT 
  | ING_CTL | ING_SSEL | ING_SCTL | ING_SLIVE0 | ING_SCNT0 | ING_SCNT1 | ING_SW0 | ING_SW1 | ING_SW2 | ING_SW3 
  | ING_SW4 | ING_REGERR | ING_REGERRCNT 
  | FXG_CTL | FXG_HDSEL | FXG_HDSTAT | FXG_HDGEN | FXG_HDCNT | FXG_HDW0 | FXG_HDW1 | FXG_HDW2 | FXG_HDW3 
  | FXG_HDW4 | FXG_HDW5 | FXG_ADPSTAT | FXG_ADPSTEP | FXG_ADPLOSS | FXG_REGERR | FXG_REGERRCNT 
  | PRT_ISEL | PRT_ICMD | PRT_ISTAT | PRT_ITILES_LO | PRT_ITILES_HI | PRT_IFLIGHT | PRT_ILAST | PRT_IRSTCNT 
  | PRT_ERRSTAT | PRT_ERRCNT | PRT_ESC | PRT_ESCCFG | PRT_PKGRST | PRT_MOWN | PRT_TOWN | PRT_TRST | PRT_ERST 
  | PRT_REGERR | PRT_REGERRCNT 
  | SNP_CTL | SNP_TRIG | SNP_SRC | SNP_LAST_LO | SNP_LAST_HI | SNP_CAUSE | SNP_ERRMASK | SNP_THADDR | SNP_THVAL 
  | SNP_CNT | SNP_DGSEL | SNP_DGCFG | SNP_DGBASE_LO | SNP_DGBASE_HI | SNP_DBGADDR | SNP_DBGDATA | SNP_REGERR 
  | SNP_REGERRCNT 
  | HSP_STAT | HSP_CMD | HSP_REQ | HSP_NONCE | HSP_RESP | HSP_PW | HSP_PWLEN | HSP_ACT | HSP_LAST | HSP_CNT 
  | HSP_REGERR | HSP_REGERRCNT 
  deriving DecidableEq, Repr

/-- One field of a register: bits `hi` down to `lo`, its access code, the reset value and its collision code. -/
structure FSpec where
  name : String
  hi : Nat
  lo : Nat
  acc : Acc
  reset : Nat
  coll : Coll
  deriving DecidableEq, Repr

/-- How the index of a register is found: it has none, it is the entry the offset names, the slot, instance or
function that the requester's select names (R530), both, or it is itself a select, held once a requester. -/
inductive IxKind where
  | none | addr | sel (r : Reg) | selAddr (r : Reg) | select
  deriving DecidableEq, Repr

/-- The tile a register acts on: each tile has its own, the boot master alone (R517), or one fixed tile. -/
inductive Home where
  | tile | pkg | fixed (t : Nat)
  deriving DecidableEq, Repr

/-- A register's place: block, first offset, stride and number of entries, index kind and acting tile. -/
structure RPlace where
  blk : Blk
  off : Nat
  stride : Nat
  count : Nat
  ix : IxKind
  home : Home
  deriving DecidableEq, Repr

/-- Where each register is (R516, R537 and the offset table of its chapter). -/
def Reg.place : Reg → RPlace
  | .MGT_PARTID => ⟨.GLB, 0x0, 0, 1, .none, .pkg⟩
  | .MGT_PARTCAP => ⟨.GLB, 0x4, 0, 1, .none, .pkg⟩
  | .MGT_TILEMAP_LO => ⟨.GLB, 0x8, 0, 1, .none, .pkg⟩
  | .MGT_TILEMAP_HI => ⟨.GLB, 0xC, 0, 1, .none, .pkg⟩
  | .MGT_BOOTSTAT => ⟨.GLB, 0x10, 0, 1, .none, .pkg⟩
  | .MGT_BOOTIMG => ⟨.GLB, 0x14, 0, 1, .none, .pkg⟩
  | .MGT_HBMCFG => ⟨.GLB, 0x18, 0, 1, .none, .pkg⟩
  | .MGT_HBMTAKE => ⟨.GLB, 0x1C, 0, 1, .none, .pkg⟩
  | .MGT_RPTPTR => ⟨.GLB, 0x20, 0, 1, .none, .pkg⟩
  | .MGT_FUSESEC => ⟨.GLB, 0x24, 0, 1, .none, .pkg⟩
  | .MGT_DEVID_LO => ⟨.GLB, 0x28, 0, 1, .none, .pkg⟩
  | .MGT_DEVID_HI => ⟨.GLB, 0x2C, 0, 1, .none, .pkg⟩
  | .MGT_DLCNT => ⟨.GLB, 0x30, 0, 1, .none, .pkg⟩
  | .MGT_PWRCFG => ⟨.GLB, 0x40, 0, 1, .none, .pkg⟩
  | .MGT_PWRSTAT => ⟨.GLB, 0x44, 0, 1, .none, .pkg⟩
  | .MGT_PWRNOW => ⟨.GLB, 0x48, 0, 1, .none, .pkg⟩
  | .MGT_PWRSTEPS => ⟨.GLB, 0x4C, 0, 1, .none, .pkg⟩
  | .MGT_THERM => ⟨.GLB, 0x50, 0, 1, .none, .pkg⟩
  | .MGT_RAIL => ⟨.GLB, 0x60, 4, 9, .addr, .pkg⟩
  | .MGT_GREGERR => ⟨.GLB, 0xF0, 0, 1, .none, .pkg⟩
  | .MGT_GREGERRCNT => ⟨.GLB, 0xF4, 0, 1, .none, .pkg⟩
  | .MGT_RPT => ⟨.GLB, 0x10000, 4, 512, .addr, .pkg⟩
  | .MGT_TILEROLE => ⟨.MGT, 0x10, 0, 1, .none, .tile⟩
  | .MGT_SLPCFG => ⟨.MGT, 0x100, 0, 1, .none, .tile⟩
  | .MGT_SLPSTAT => ⟨.MGT, 0x104, 0, 1, .none, .tile⟩
  | .MGT_WAKETIME_LO => ⟨.MGT, 0x108, 0, 1, .none, .tile⟩
  | .MGT_WAKETIME_HI => ⟨.MGT, 0x10C, 0, 1, .none, .tile⟩
  | .MGT_WAKECNT => ⟨.MGT, 0x110, 0, 1, .none, .tile⟩
  | .MGT_CLKSTAT => ⟨.MGT, 0x114, 0, 1, .none, .tile⟩
  | .MGT_TJ => ⟨.MGT, 0x118, 0, 1, .none, .tile⟩
  | .ARR_CTL => ⟨.ARR, 0x0, 0, 1, .none, .tile⟩
  | .ARR_QCTL => ⟨.ARR, 0x4, 0, 1, .none, .tile⟩
  | .ARR_QSTAT => ⟨.ARR, 0x8, 0, 1, .none, .tile⟩
  | .ARR_CUR => ⟨.ARR, 0xC, 0, 1, .none, .tile⟩
  | .ARR_ERRSTAT => ⟨.ARR, 0x10, 0, 1, .none, .tile⟩
  | .ARR_ERRCNT => ⟨.ARR, 0x14, 0, 1, .none, .tile⟩
  | .ARR_BUSYCNT => ⟨.ARR, 0x20, 0, 1, .none, .tile⟩
  | .ARR_MACCNT => ⟨.ARR, 0x24, 0, 1, .none, .tile⟩
  | .ARR_FENCECNT => ⟨.ARR, 0x28, 0, 1, .none, .tile⟩
  | .ARR_FILLCNT => ⟨.ARR, 0x2C, 0, 1, .none, .tile⟩
  | .ARR_HALOCNT => ⟨.ARR, 0x30, 0, 1, .none, .tile⟩
  | .ARR_SPILLCNT => ⟨.ARR, 0x34, 0, 1, .none, .tile⟩
  | .ARR_FREQCNT => ⟨.ARR, 0x38, 0, 1, .none, .tile⟩
  | .ARR_CVCTL => ⟨.ARR, 0xE000, 0, 1, .none, .tile⟩
  | .ARR_CVSEL => ⟨.ARR, 0xE004, 0, 1, .none, .tile⟩
  | .ARR_CVCNT => ⟨.ARR, 0xE008, 0, 1, .none, .tile⟩
  | .ARR_CVSSE_LO => ⟨.ARR, 0xE00C, 0, 1, .none, .tile⟩
  | .ARR_CVSSE_HI => ⟨.ARR, 0xE010, 0, 1, .none, .tile⟩
  | .ARR_CVSSX_LO => ⟨.ARR, 0xE014, 0, 1, .none, .tile⟩
  | .ARR_CVSSX_HI => ⟨.ARR, 0xE018, 0, 1, .none, .tile⟩
  | .ARR_CVSAT => ⟨.ARR, 0xE01C, 0, 1, .none, .tile⟩
  | .ARR_CVNAN => ⟨.ARR, 0xE020, 0, 1, .none, .tile⟩
  | .ARR_BRSTAT => ⟨.ARR, 0xF000, 0, 1, .none, .tile⟩
  | .ARR_BRREF => ⟨.ARR, 0xF004, 0, 1, .none, .tile⟩
  | .ARR_BRSAT => ⟨.ARR, 0xF008, 0, 1, .none, .tile⟩
  | .SFU_CTL => ⟨.SFU, 0x0, 0, 1, .none, .tile⟩
  | .SFU_STAT => ⟨.SFU, 0x4, 0, 1, .none, .tile⟩
  | .SFU_MPRES => ⟨.SFU, 0x8, 0, 1, .none, .tile⟩
  | .SFU_ERRSTAT => ⟨.SFU, 0xC, 0, 1, .none, .tile⟩
  | .SFU_ERRCNT => ⟨.SFU, 0x10, 0, 1, .none, .tile⟩
  | .SFU_EVALCNT => ⟨.SFU, 0x14, 0, 1, .none, .tile⟩
  | .SFU_COMPATCNT => ⟨.SFU, 0x18, 0, 1, .none, .tile⟩
  | .SFU_NANCNT => ⟨.SFU, 0x1C, 0, 1, .none, .tile⟩
  | .SFU_STALLCNT => ⟨.SFU, 0x20, 0, 1, .none, .tile⟩
  | .ECE_CTL => ⟨.ECE, 0x0, 0, 1, .none, .tile⟩
  | .ECE_LANECFG => ⟨.ECE, 0x4, 0, 1, .none, .tile⟩
  | .ECE_TSET => ⟨.ECE, 0x8, 0, 1, .none, .tile⟩
  | .ECE_INFLIGHT => ⟨.ECE, 0xC, 0, 1, .none, .tile⟩
  | .ECE_ERRSTAT => ⟨.ECE, 0x10, 0, 1, .none, .tile⟩
  | .ECE_ERRLOC => ⟨.ECE, 0x14, 0, 1, .none, .tile⟩
  | .ECE_ERRCNT => ⟨.ECE, 0x18, 0, 1, .none, .tile⟩
  | .ECE_ESCCNT => ⟨.ECE, 0x1C, 0, 1, .none, .tile⟩
  | .ECE_STEPCNT => ⟨.ECE, 0x20, 0, 1, .none, .tile⟩
  | .ECE_TSETPROG => ⟨.ECE, 0x40, 4, 8, .addr, .tile⟩
  | .ECE_LSCSEL => ⟨.ECE, 0x10000, 0, 1, .select, .tile⟩
  | .ECE_LSCCTL => ⟨.ECE, 0x10004, 0, 1, .sel .ECE_LSCSEL, .tile⟩
  | .ECE_LSCCMD => ⟨.ECE, 0x10008, 0, 1, .sel .ECE_LSCSEL, .tile⟩
  | .ECE_LSCLIVE0 => ⟨.ECE, 0x10010, 0, 1, .sel .ECE_LSCSEL, .tile⟩
  | .ECE_LSCLIVE1 => ⟨.ECE, 0x10014, 0, 1, .sel .ECE_LSCSEL, .tile⟩
  | .ECE_RCSTAT => ⟨.ECE, 0x10018, 0, 1, .sel .ECE_LSCSEL, .tile⟩
  | .ECE_LSCCNT => ⟨.ECE, 0x1001C, 0, 1, .sel .ECE_LSCSEL, .tile⟩
  | .ECE_LSCW0 => ⟨.ECE, 0x10020, 0, 1, .sel .ECE_LSCSEL, .tile⟩
  | .ECE_LSCW1 => ⟨.ECE, 0x10024, 0, 1, .sel .ECE_LSCSEL, .tile⟩
  | .ECE_LSCW2 => ⟨.ECE, 0x10028, 0, 1, .sel .ECE_LSCSEL, .tile⟩
  | .ECE_LSCW3 => ⟨.ECE, 0x1002C, 0, 1, .sel .ECE_LSCSEL, .tile⟩
  | .ECE_LSCW4 => ⟨.ECE, 0x10030, 0, 1, .sel .ECE_LSCSEL, .tile⟩
  | .ECE_LSCW5 => ⟨.ECE, 0x10034, 0, 1, .sel .ECE_LSCSEL, .tile⟩
  | .ECE_LSCW6 => ⟨.ECE, 0x10038, 0, 1, .sel .ECE_LSCSEL, .tile⟩
  | .ECE_LSCW7 => ⟨.ECE, 0x1003C, 0, 1, .sel .ECE_LSCSEL, .tile⟩
  | .ECE_OSFSTAT => ⟨.ECE, 0x10040, 0, 1, .sel .ECE_LSCSEL, .tile⟩
  | .ECE_OSFCNT0 => ⟨.ECE, 0x10044, 0, 1, .sel .ECE_LSCSEL, .tile⟩
  | .ECE_OSFCNT1 => ⟨.ECE, 0x10048, 0, 1, .sel .ECE_LSCSEL, .tile⟩
  | .ECE_OSFCNT2 => ⟨.ECE, 0x1004C, 0, 1, .sel .ECE_LSCSEL, .tile⟩
  | .ECE_TAPCFG => ⟨.ECE, 0x10050, 0, 1, .sel .ECE_LSCSEL, .tile⟩
  | .ECE_TAPSTAT => ⟨.ECE, 0x10054, 0, 1, .sel .ECE_LSCSEL, .tile⟩
  | .ECE_TAPCNT => ⟨.ECE, 0x10058, 0, 1, .sel .ECE_LSCSEL, .tile⟩
  | .SCE_CTL => ⟨.SCE, 0x0, 0, 1, .none, .tile⟩
  | .SCE_STAT => ⟨.SCE, 0x4, 0, 1, .none, .tile⟩
  | .SCE_ERRSTAT => ⟨.SCE, 0x10, 0, 1, .none, .tile⟩
  | .SCE_ERRLOC => ⟨.SCE, 0x14, 0, 1, .none, .tile⟩
  | .SCE_ERRCNT => ⟨.SCE, 0x18, 0, 1, .none, .tile⟩
  | .SCE_PICCNT => ⟨.SCE, 0x1C, 0, 1, .none, .tile⟩
  | .SCE_SWCNT => ⟨.SCE, 0x20, 0, 1, .none, .tile⟩
  | .SCE_BUSYCNT => ⟨.SCE, 0x24, 0, 1, .none, .tile⟩
  | .SCE_SSEL => ⟨.SCE, 0x10000, 0, 1, .select, .tile⟩
  | .SCE_SCTL => ⟨.SCE, 0x10004, 0, 1, .sel .SCE_SSEL, .tile⟩
  | .SCE_SCMD => ⟨.SCE, 0x10008, 0, 1, .sel .SCE_SSEL, .tile⟩
  | .SCE_SLIVE0 => ⟨.SCE, 0x10010, 0, 1, .sel .SCE_SSEL, .tile⟩
  | .SCE_SLIVE1 => ⟨.SCE, 0x10014, 0, 1, .sel .SCE_SSEL, .tile⟩
  | .SCE_RCSTAT => ⟨.SCE, 0x10018, 0, 1, .sel .SCE_SSEL, .tile⟩
  | .SCE_SCNT => ⟨.SCE, 0x1001C, 0, 1, .sel .SCE_SSEL, .tile⟩
  | .SCE_SCNT2 => ⟨.SCE, 0x10020, 0, 1, .sel .SCE_SSEL, .tile⟩
  | .SCE_SW0 => ⟨.SCE, 0x10040, 0, 1, .sel .SCE_SSEL, .tile⟩
  | .SCE_SW1 => ⟨.SCE, 0x10044, 0, 1, .sel .SCE_SSEL, .tile⟩
  | .SCE_SW2 => ⟨.SCE, 0x10048, 0, 1, .sel .SCE_SSEL, .tile⟩
  | .SCE_SW3 => ⟨.SCE, 0x1004C, 0, 1, .sel .SCE_SSEL, .tile⟩
  | .SCE_SW4 => ⟨.SCE, 0x10050, 0, 1, .sel .SCE_SSEL, .tile⟩
  | .SCE_SW5 => ⟨.SCE, 0x10054, 0, 1, .sel .SCE_SSEL, .tile⟩
  | .SCE_SW6 => ⟨.SCE, 0x10058, 0, 1, .sel .SCE_SSEL, .tile⟩
  | .SCE_SW7 => ⟨.SCE, 0x1005C, 0, 1, .sel .SCE_SSEL, .tile⟩
  | .SMV_CTL => ⟨.SMV, 0x0, 0, 1, .none, .tile⟩
  | .SMV_TAGS => ⟨.SMV, 0x4, 0, 1, .none, .tile⟩
  | .SMV_TAGSTALL => ⟨.SMV, 0x8, 0, 1, .none, .tile⟩
  | .SMV_HBMSPLIT => ⟨.SMV, 0xC, 0, 1, .none, .tile⟩
  | .SMV_ERRSTAT => ⟨.SMV, 0x10, 0, 1, .none, .tile⟩
  | .SMV_ERRCNT => ⟨.SMV, 0x14, 0, 1, .none, .tile⟩
  | .SMV_CQSTALL => ⟨.SMV, 0x18, 0, 1, .none, .tile⟩
  | .SMV_RESIDENT => ⟨.SMV, 0x1C, 0, 1, .none, .tile⟩
  | .SMV_QCFG => ⟨.SMV, 0x100, 32, 20, .addr, .tile⟩
  | .SMV_QBASE_LO => ⟨.SMV, 0x104, 32, 20, .addr, .tile⟩
  | .SMV_QBASE_HI => ⟨.SMV, 0x108, 32, 20, .addr, .tile⟩
  | .SMV_QSTG => ⟨.SMV, 0x10C, 32, 20, .addr, .tile⟩
  | .SMV_QTAIL => ⟨.SMV, 0x110, 32, 20, .addr, .tile⟩
  | .SMV_QHEAD => ⟨.SMV, 0x114, 32, 20, .addr, .tile⟩
  | .SMV_SQBASE_LO => ⟨.SMV, 0x10000, 64, 4, .addr, .tile⟩
  | .SMV_SQBASE_HI => ⟨.SMV, 0x10004, 64, 4, .addr, .tile⟩
  | .SMV_SQCFG => ⟨.SMV, 0x10008, 64, 4, .addr, .tile⟩
  | .SMV_SQTAIL => ⟨.SMV, 0x1000C, 64, 4, .addr, .tile⟩
  | .SMV_SQHEAD => ⟨.SMV, 0x10010, 64, 4, .addr, .tile⟩
  | .SMV_CQBASE_LO => ⟨.SMV, 0x10014, 64, 4, .addr, .tile⟩
  | .SMV_CQBASE_HI => ⟨.SMV, 0x10018, 64, 4, .addr, .tile⟩
  | .SMV_CQCFG => ⟨.SMV, 0x1001C, 64, 4, .addr, .tile⟩
  | .SMV_CQHEAD => ⟨.SMV, 0x10020, 64, 4, .addr, .tile⟩
  | .SMV_CQTAIL => ⟨.SMV, 0x10024, 64, 4, .addr, .tile⟩
  | .SMV_ERBASE_LO => ⟨.SMV, 0x10100, 0, 1, .none, .tile⟩
  | .SMV_ERBASE_HI => ⟨.SMV, 0x10104, 0, 1, .none, .tile⟩
  | .SMV_ERCFG => ⟨.SMV, 0x10108, 0, 1, .none, .tile⟩
  | .SMV_ERHEAD => ⟨.SMV, 0x1010C, 0, 1, .none, .tile⟩
  | .SMV_ERTAIL => ⟨.SMV, 0x10110, 0, 1, .none, .tile⟩
  | .SMV_ERDROP => ⟨.SMV, 0x10114, 0, 1, .none, .tile⟩
  | .SMV_SSEL => ⟨.SMV, 0x20000, 0, 1, .select, .tile⟩
  | .SMV_SLIVE0 => ⟨.SMV, 0x20004, 0, 1, .sel .SMV_SSEL, .tile⟩
  | .SMV_SLIVE1 => ⟨.SMV, 0x20008, 0, 1, .sel .SMV_SSEL, .tile⟩
  | .SMV_SCOND0 => ⟨.SMV, 0x2000C, 0, 1, .sel .SMV_SSEL, .tile⟩
  | .SMV_SCOND1 => ⟨.SMV, 0x20010, 0, 1, .sel .SMV_SSEL, .tile⟩
  | .SMV_SCOND2 => ⟨.SMV, 0x20014, 0, 1, .sel .SMV_SSEL, .tile⟩
  | .SMV_SCOND3 => ⟨.SMV, 0x20018, 0, 1, .sel .SMV_SSEL, .tile⟩
  | .BAL_CTL => ⟨.BAL, 0x0, 0, 1, .none, .tile⟩
  | .BAL_ERRSTAT => ⟨.BAL, 0x4, 0, 1, .none, .tile⟩
  | .BAL_ERRCNT => ⟨.BAL, 0x8, 0, 1, .none, .tile⟩
  | .BAL_CLSCNT => ⟨.BAL, 0x10, 4, 4, .addr, .tile⟩
  | .BAL_RMWCNT => ⟨.BAL, 0x20, 0, 1, .none, .tile⟩
  | .BAL_YSAVED => ⟨.BAL, 0x24, 0, 1, .none, .tile⟩
  | .MEM_WSCFG => ⟨.MEM, 0x0, 0, 1, .none, .tile⟩
  | .MEM_WSECC => ⟨.MEM, 0x4, 0, 1, .none, .tile⟩
  | .MEM_WCCTL => ⟨.MEM, 0x10, 0, 1, .none, .tile⟩
  | .MEM_WCHIT => ⟨.MEM, 0x14, 0, 1, .none, .tile⟩
  | .MEM_WCMISS => ⟨.MEM, 0x18, 0, 1, .none, .tile⟩
  | .MEM_WCINV => ⟨.MEM, 0x1C, 0, 1, .none, .tile⟩
  | .MEM_WCSERVE_LO => ⟨.MEM, 0x20, 0, 1, .none, .tile⟩
  | .MEM_WCSERVE_HI => ⟨.MEM, 0x24, 0, 1, .none, .tile⟩
  | .MEM_HBMSTAT => ⟨.MEM, 0x30, 0, 1, .none, .tile⟩
  | .MEM_HBMECC => ⟨.MEM, 0x34, 0, 1, .none, .tile⟩
  | .MEM_HBMSCRUB => ⟨.MEM, 0x38, 0, 1, .none, .tile⟩
  | .MEM_ERRSTAT => ⟨.MEM, 0x40, 0, 1, .none, .tile⟩
  | .MEM_ERRCNT => ⟨.MEM, 0x44, 0, 1, .none, .tile⟩
  | .YRD_STAT => ⟨.YRD, 0x0, 0, 1, .none, .tile⟩
  | .YRD_QCTL => ⟨.YRD, 0x4, 0, 1, .none, .pkg⟩
  | .YRD_ERRSTAT => ⟨.YRD, 0x10, 0, 1, .none, .tile⟩
  | .YRD_ERRCNT => ⟨.YRD, 0x14, 0, 1, .none, .tile⟩
  | .YRD_EDGEEVT => ⟨.YRD, 0x18, 0, 1, .none, .tile⟩
  | .YRD_REPLAY => ⟨.YRD, 0x1C, 0, 1, .none, .tile⟩
  | .YRD_ABSORB => ⟨.YRD, 0x20, 0, 1, .none, .tile⟩
  | .YRD_FLIT => ⟨.YRD, 0x30, 4, 5, .addr, .tile⟩
  | .YRD_RT => ⟨.YRD, 0x100, 4, 64, .addr, .tile⟩
  | .LNK_CTL => ⟨.LNK, 0x0, 0, 1, .none, .tile⟩
  | .LNK_QUADCFG => ⟨.LNK, 0x4, 0, 1, .none, .tile⟩
  | .LNK_LANESTAT => ⟨.LNK, 0x8, 0, 1, .none, .tile⟩
  | .LNK_ERRSTAT => ⟨.LNK, 0x10, 0, 1, .none, .tile⟩
  | .LNK_ERRCNT => ⟨.LNK, 0x14, 0, 1, .none, .tile⟩
  | .LNK_RXDROP => ⟨.LNK, 0x18, 0, 1, .none, .tile⟩
  | .LNK_FECCNT => ⟨.LNK, 0x1C, 0, 1, .none, .tile⟩
  | .LNK_FLOWS => ⟨.LNK, 0x20, 0, 1, .none, .tile⟩
  | .LNK_LRETRY => ⟨.LNK, 0x24, 0, 1, .none, .tile⟩
  | .LNK_PATHEVT => ⟨.LNK, 0x28, 0, 1, .none, .tile⟩
  | .LNK_SSEL => ⟨.LNK, 0x10000, 0, 1, .select, .tile⟩
  | .LNK_SW0 => ⟨.LNK, 0x10010, 0, 1, .sel .LNK_SSEL, .tile⟩
  | .LNK_SW1 => ⟨.LNK, 0x10014, 0, 1, .sel .LNK_SSEL, .tile⟩
  | .LNK_SCNT => ⟨.LNK, 0x10018, 0, 1, .sel .LNK_SSEL, .tile⟩
  | .LNK_MVCFG => ⟨.LNK, 0x20000, 0, 1, .none, .pkg⟩
  | .LNK_MVPEER_LO => ⟨.LNK, 0x20004, 0, 1, .none, .pkg⟩
  | .LNK_MVPEER_HI => ⟨.LNK, 0x20008, 0, 1, .none, .pkg⟩
  | .LNK_MVSTAT => ⟨.LNK, 0x2000C, 0, 1, .none, .pkg⟩
  | .LNK_PTPCFG => ⟨.LNK, 0x20020, 0, 1, .none, .pkg⟩
  | .LNK_PTPSTAT => ⟨.LNK, 0x20024, 0, 1, .none, .pkg⟩
  | .LNK_PTPOFS => ⟨.LNK, 0x20028, 0, 1, .none, .pkg⟩
  | .LNK_PUBCTL => ⟨.LNK, 0x20030, 0, 1, .none, .pkg⟩
  | .LNK_PUBBASE_LO => ⟨.LNK, 0x20034, 0, 1, .none, .pkg⟩
  | .LNK_PUBBASE_HI => ⟨.LNK, 0x20038, 0, 1, .none, .pkg⟩
  | .LNK_HWSEL => ⟨.LNK, 0x40000, 0, 1, .select, .fixed 48⟩
  | .LNK_HWE_LO => ⟨.LNK, 0x40010, 8, 4, .selAddr .LNK_HWSEL, .fixed 48⟩
  | .LNK_HWE_HI => ⟨.LNK, 0x40014, 8, 4, .selAddr .LNK_HWSEL, .fixed 48⟩
  | .LNK_APER_LO => ⟨.LNK, 0x40030, 0, 1, .sel .LNK_HWSEL, .fixed 48⟩
  | .LNK_APER_HI => ⟨.LNK, 0x40034, 0, 1, .sel .LNK_HWSEL, .fixed 48⟩
  | .LNK_PCISTAT => ⟨.LNK, 0x40040, 0, 1, .none, .fixed 48⟩
  | .LNK_LBLCTL => ⟨.LNK, 0x70000, 0, 1, .none, .fixed 55⟩
  | .LNK_LBLBASE_LO => ⟨.LNK, 0x70004, 0, 1, .none, .fixed 55⟩
  | .LNK_LBLBASE_HI => ⟨.LNK, 0x70008, 0, 1, .none, .fixed 55⟩
  | .LNK_LBLCNT0 => ⟨.LNK, 0x7000C, 0, 1, .none, .fixed 55⟩
  | .LNK_LBLCNT1 => ⟨.LNK, 0x70010, 0, 1, .none, .fixed 55⟩
  | .ING_CTL => ⟨.ING, 0x0, 0, 1, .none, .tile⟩
  | .ING_SSEL => ⟨.ING, 0x10000, 0, 1, .select, .tile⟩
  | .ING_SCTL => ⟨.ING, 0x10004, 0, 1, .sel .ING_SSEL, .tile⟩
  | .ING_SLIVE0 => ⟨.ING, 0x10010, 0, 1, .sel .ING_SSEL, .tile⟩
  | .ING_SCNT0 => ⟨.ING, 0x10014, 0, 1, .sel .ING_SSEL, .tile⟩
  | .ING_SCNT1 => ⟨.ING, 0x10018, 0, 1, .sel .ING_SSEL, .tile⟩
  | .ING_SW0 => ⟨.ING, 0x10020, 0, 1, .sel .ING_SSEL, .tile⟩
  | .ING_SW1 => ⟨.ING, 0x10024, 0, 1, .sel .ING_SSEL, .tile⟩
  | .ING_SW2 => ⟨.ING, 0x10028, 0, 1, .sel .ING_SSEL, .tile⟩
  | .ING_SW3 => ⟨.ING, 0x1002C, 0, 1, .sel .ING_SSEL, .tile⟩
  | .ING_SW4 => ⟨.ING, 0x10030, 0, 1, .sel .ING_SSEL, .tile⟩
  | .FXG_CTL => ⟨.FXG, 0x0, 0, 1, .none, .tile⟩
  | .FXG_HDSEL => ⟨.FXG, 0x8000, 0, 1, .select, .tile⟩
  | .FXG_HDSTAT => ⟨.FXG, 0x8004, 0, 1, .sel .FXG_HDSEL, .tile⟩
  | .FXG_HDGEN => ⟨.FXG, 0x8008, 0, 1, .sel .FXG_HDSEL, .tile⟩
  | .FXG_HDCNT => ⟨.FXG, 0x800C, 0, 1, .sel .FXG_HDSEL, .tile⟩
  | .FXG_HDW0 => ⟨.FXG, 0x8010, 0, 1, .sel .FXG_HDSEL, .tile⟩
  | .FXG_HDW1 => ⟨.FXG, 0x8014, 0, 1, .sel .FXG_HDSEL, .tile⟩
  | .FXG_HDW2 => ⟨.FXG, 0x8018, 0, 1, .sel .FXG_HDSEL, .tile⟩
  | .FXG_HDW3 => ⟨.FXG, 0x801C, 0, 1, .sel .FXG_HDSEL, .tile⟩
  | .FXG_HDW4 => ⟨.FXG, 0x8020, 0, 1, .sel .FXG_HDSEL, .tile⟩
  | .FXG_HDW5 => ⟨.FXG, 0x8024, 0, 1, .sel .FXG_HDSEL, .tile⟩
  | .FXG_ADPSTAT => ⟨.FXG, 0x8030, 0, 1, .sel .FXG_HDSEL, .tile⟩
  | .FXG_ADPSTEP => ⟨.FXG, 0x8034, 0, 1, .sel .FXG_HDSEL, .tile⟩
  | .FXG_ADPLOSS => ⟨.FXG, 0x8038, 0, 1, .sel .FXG_HDSEL, .tile⟩
  | .PRT_ISEL => ⟨.PRT, 0x0, 0, 1, .select, .pkg⟩
  | .PRT_ICMD => ⟨.PRT, 0x4, 0, 1, .sel .PRT_ISEL, .pkg⟩
  | .PRT_ISTAT => ⟨.PRT, 0x8, 0, 1, .sel .PRT_ISEL, .pkg⟩
  | .PRT_ITILES_LO => ⟨.PRT, 0xC, 0, 1, .sel .PRT_ISEL, .pkg⟩
  | .PRT_ITILES_HI => ⟨.PRT, 0x10, 0, 1, .sel .PRT_ISEL, .pkg⟩
  | .PRT_IFLIGHT => ⟨.PRT, 0x14, 0, 1, .sel .PRT_ISEL, .pkg⟩
  | .PRT_ILAST => ⟨.PRT, 0x18, 0, 1, .sel .PRT_ISEL, .pkg⟩
  | .PRT_IRSTCNT => ⟨.PRT, 0x1C, 0, 1, .sel .PRT_ISEL, .pkg⟩
  | .PRT_ERRSTAT => ⟨.PRT, 0x20, 0, 1, .none, .pkg⟩
  | .PRT_ERRCNT => ⟨.PRT, 0x24, 0, 1, .none, .pkg⟩
  | .PRT_ESC => ⟨.PRT, 0x28, 0, 1, .none, .pkg⟩
  | .PRT_ESCCFG => ⟨.PRT, 0x2C, 0, 1, .none, .pkg⟩
  | .PRT_PKGRST => ⟨.PRT, 0x30, 0, 1, .none, .pkg⟩
  | .PRT_MOWN => ⟨.PRT, 0x100, 4, 72, .addr, .pkg⟩
  | .PRT_TOWN => ⟨.PRT, 0x10000, 0, 1, .none, .tile⟩
  | .PRT_TRST => ⟨.PRT, 0x10004, 0, 1, .none, .tile⟩
  | .PRT_ERST => ⟨.PRT, 0x10008, 0, 1, .none, .tile⟩
  | .SNP_CTL => ⟨.SNP, 0x0, 0, 1, .none, .tile⟩
  | .SNP_TRIG => ⟨.SNP, 0x4, 0, 1, .none, .pkg⟩
  | .SNP_SRC => ⟨.SNP, 0x8, 0, 1, .none, .pkg⟩
  | .SNP_LAST_LO => ⟨.SNP, 0xC, 0, 1, .none, .tile⟩
  | .SNP_LAST_HI => ⟨.SNP, 0x10, 0, 1, .none, .tile⟩
  | .SNP_CAUSE => ⟨.SNP, 0x14, 0, 1, .none, .tile⟩
  | .SNP_ERRMASK => ⟨.SNP, 0x18, 0, 1, .none, .tile⟩
  | .SNP_THADDR => ⟨.SNP, 0x1C, 0, 1, .none, .tile⟩
  | .SNP_THVAL => ⟨.SNP, 0x20, 0, 1, .none, .tile⟩
  | .SNP_CNT => ⟨.SNP, 0x24, 0, 1, .none, .pkg⟩
  | .SNP_DGSEL => ⟨.SNP, 0x100, 0, 1, .select, .tile⟩
  | .SNP_DGCFG => ⟨.SNP, 0x104, 0, 1, .sel .SNP_DGSEL, .tile⟩
  | .SNP_DGBASE_LO => ⟨.SNP, 0x108, 0, 1, .sel .SNP_DGSEL, .tile⟩
  | .SNP_DGBASE_HI => ⟨.SNP, 0x10C, 0, 1, .sel .SNP_DGSEL, .tile⟩
  | .SNP_DBGADDR => ⟨.SNP, 0x200, 0, 1, .none, .tile⟩
  | .SNP_DBGDATA => ⟨.SNP, 0x204, 0, 1, .none, .tile⟩
  | .HSP_STAT => ⟨.HSP, 0x0, 0, 1, .none, .pkg⟩
  | .HSP_CMD => ⟨.HSP, 0x4, 0, 1, .none, .pkg⟩
  | .HSP_REQ => ⟨.HSP, 0x8, 0, 1, .none, .pkg⟩
  | .HSP_NONCE => ⟨.HSP, 0x10, 4, 4, .addr, .pkg⟩
  | .HSP_RESP => ⟨.HSP, 0x20, 4, 8, .addr, .pkg⟩
  | .HSP_PW => ⟨.HSP, 0x40, 4, 16, .addr, .pkg⟩
  | .HSP_PWLEN => ⟨.HSP, 0x80, 0, 1, .none, .pkg⟩
  | .HSP_ACT => ⟨.HSP, 0x84, 0, 1, .none, .pkg⟩
  | .HSP_LAST => ⟨.HSP, 0x88, 0, 1, .none, .pkg⟩
  | .HSP_CNT => ⟨.HSP, 0x8C, 0, 1, .none, .pkg⟩
  | .MGT_REGERR => ⟨.MGT, 0xFF0, 0, 1, .none, .tile⟩
  | .MGT_REGERRCNT => ⟨.MGT, 0xFF4, 0, 1, .none, .tile⟩
  | .ARR_REGERR => ⟨.ARR, 0xFF0, 0, 1, .none, .tile⟩
  | .ARR_REGERRCNT => ⟨.ARR, 0xFF4, 0, 1, .none, .tile⟩
  | .SFU_REGERR => ⟨.SFU, 0xFF0, 0, 1, .none, .tile⟩
  | .SFU_REGERRCNT => ⟨.SFU, 0xFF4, 0, 1, .none, .tile⟩
  | .ECE_REGERR => ⟨.ECE, 0xFF0, 0, 1, .none, .tile⟩
  | .ECE_REGERRCNT => ⟨.ECE, 0xFF4, 0, 1, .none, .tile⟩
  | .SCE_REGERR => ⟨.SCE, 0xFF0, 0, 1, .none, .tile⟩
  | .SCE_REGERRCNT => ⟨.SCE, 0xFF4, 0, 1, .none, .tile⟩
  | .SMV_REGERR => ⟨.SMV, 0xFF0, 0, 1, .none, .tile⟩
  | .SMV_REGERRCNT => ⟨.SMV, 0xFF4, 0, 1, .none, .tile⟩
  | .BAL_REGERR => ⟨.BAL, 0xFF0, 0, 1, .none, .tile⟩
  | .BAL_REGERRCNT => ⟨.BAL, 0xFF4, 0, 1, .none, .tile⟩
  | .MEM_REGERR => ⟨.MEM, 0xFF0, 0, 1, .none, .tile⟩
  | .MEM_REGERRCNT => ⟨.MEM, 0xFF4, 0, 1, .none, .tile⟩
  | .YRD_REGERR => ⟨.YRD, 0xFF0, 0, 1, .none, .tile⟩
  | .YRD_REGERRCNT => ⟨.YRD, 0xFF4, 0, 1, .none, .tile⟩
  | .LNK_REGERR => ⟨.LNK, 0xFF0, 0, 1, .none, .tile⟩
  | .LNK_REGERRCNT => ⟨.LNK, 0xFF4, 0, 1, .none, .tile⟩
  | .ING_REGERR => ⟨.ING, 0xFF0, 0, 1, .none, .tile⟩
  | .ING_REGERRCNT => ⟨.ING, 0xFF4, 0, 1, .none, .tile⟩
  | .FXG_REGERR => ⟨.FXG, 0xFF0, 0, 1, .none, .tile⟩
  | .FXG_REGERRCNT => ⟨.FXG, 0xFF4, 0, 1, .none, .tile⟩
  | .PRT_REGERR => ⟨.PRT, 0xFF0, 0, 1, .none, .tile⟩
  | .PRT_REGERRCNT => ⟨.PRT, 0xFF4, 0, 1, .none, .tile⟩
  | .SNP_REGERR => ⟨.SNP, 0xFF0, 0, 1, .none, .tile⟩
  | .SNP_REGERRCNT => ⟨.SNP, 0xFF4, 0, 1, .none, .tile⟩
  | .HSP_REGERR => ⟨.HSP, 0xFF0, 0, 1, .none, .pkg⟩
  | .HSP_REGERRCNT => ⟨.HSP, 0xFF4, 0, 1, .none, .pkg⟩

/-- The fields of each register, as its table gives them; bits in no field are reserved. -/
def Reg.fields : Reg → List FSpec
  | .MGT_PARTID => [⟨"PART", 31, 16, .ro, 25618, .hw⟩, ⟨"VARIANT", 15, 12, .ro, 0, .hw⟩, ⟨"STEPPING", 11, 8, .ro, 0, .hw⟩, ⟨"TILES_OK", 6, 0, .ro, 0, .hw⟩] -- R5
  | .MGT_PARTCAP => [⟨"PKG_W_MAX", 31, 16, .ro, 0, .hw⟩, ⟨"CORE_MHZ_MAX", 15, 0, .ro, 0, .hw⟩] -- R6
  | .MGT_TILEMAP_LO => [⟨"INSVC", 31, 0, .ro, 0, .hw⟩] -- R32
  | .MGT_TILEMAP_HI => [⟨"INSVC", 31, 0, .ro, 0, .hw⟩] -- R32
  | .MGT_BOOTSTAT => [⟨"STARTS", 31, 16, .ro, 0, .hw⟩, ⟨"DLFULL", 9, 9, .ro, 0, .hw⟩, ⟨"DLLOST", 8, 8, .ro, 0, .hw⟩, ⟨"AUTHFAIL", 7, 7, .ro, 0, .hw⟩, ⟨"FALLBACK", 6, 6, .ro, 0, .hw⟩, ⟨"QUICK", 5, 5, .ro, 0, .hw⟩, ⟨"IMAGE", 4, 4, .ro, 0, .hw⟩, ⟨"STAGE", 3, 0, .ro, 0, .hw⟩] -- R468
  | .MGT_BOOTIMG => [⟨"SEQ", 31, 0, .ro, 0, .hw⟩] -- R468
  | .MGT_HBMCFG => [⟨"INSVC", 31, 16, .ro, 0, .hw⟩, ⟨"UNITS", 8, 0, .ro, 0, .hw⟩] -- R468
  | .MGT_HBMTAKE => [⟨"TAKE", 15, 0, .ro, 0, .hw⟩] -- R468
  | .MGT_RPTPTR => [⟨"FIRST", 13, 8, .ro, 0, .hw⟩, ⟨"NEXT", 5, 0, .ro, 0, .hw⟩] -- R468
  | .MGT_FUSESEC => [⟨"KEYPRG", 14, 11, .ro, 0, .hw⟩, ⟨"KEYREV", 10, 7, .ro, 0, .hw⟩, ⟨"SVN", 6, 0, .ro, 0, .hw⟩] -- R468
  | .MGT_DEVID_LO => [⟨"DEVID", 31, 0, .ro, 0, .hw⟩] -- R468
  | .MGT_DEVID_HI => [⟨"DEVID", 31, 0, .ro, 0, .hw⟩] -- R468
  | .MGT_DLCNT => [⟨"COUNT", 10, 0, .ro, 0, .hw⟩] -- R468
  | .MGT_PWRCFG => [⟨"TJ_THR", 23, 16, .rw, 95, .sw⟩, ⟨"CAPMHZ", 11, 0, .rw, 0, .sw⟩] -- R491
  | .MGT_PWRSTAT => [⟨"TRIP", 31, 31, .ro, 0, .hw⟩, ⟨"FLOOR", 30, 30, .w1c, 0, .hw⟩, ⟨"UV", 29, 29, .w1c, 0, .hw⟩, ⟨"THROTTLE", 28, 28, .ro, 0, .hw⟩, ⟨"LIMIT", 27, 27, .ro, 0, .hw⟩, ⟨"UVRAIL", 23, 20, .ro, 0, .hw⟩, ⟨"CORE_MHZ", 11, 0, .ro, 0, .hw⟩] -- R491
  | .MGT_PWRNOW => [⟨"PEAK_W", 31, 16, .rc, 0, .hw⟩, ⟨"AVG_W", 15, 0, .ro, 0, .hw⟩] -- R491
  | .MGT_PWRSTEPS => [⟨"UP", 31, 16, .rc, 0, .mrg⟩, ⟨"DOWN", 15, 0, .rc, 0, .mrg⟩] -- R491
  | .MGT_THERM => [⟨"HOTMIN", 31, 16, .ro, 0, .hw⟩, ⟨"HOTTILE", 13, 8, .ro, 0, .hw⟩, ⟨"TJMAX", 7, 0, .ro, 0, .hw⟩] -- R491
  | .MGT_RAIL => [⟨"MV", 31, 16, .ro, 0, .hw⟩, ⟨"DECIAMP", 15, 0, .ro, 0, .hw⟩] -- R491
  | .MGT_GREGERR => [⟨"ERR", 31, 31, .w1c, 0, .hw⟩, ⟨"CAUSE", 25, 22, .ro, 0, .hw⟩, ⟨"REQ", 21, 19, .ro, 0, .hw⟩, ⟨"OFFSET", 18, 2, .ro, 0, .hw⟩] -- R535
  | .MGT_GREGERRCNT => [⟨"COUNT", 31, 0, .rc, 0, .mrg⟩] -- R535
  | .MGT_RPT => [⟨"WORD", 31, 0, .ro, 0, .hw⟩] -- R467
  | .MGT_TILEROLE => [⟨"TILE", 29, 24, .ro, 0, .hw⟩, ⟨"LINKIDX", 19, 16, .ro, 0, .hw⟩, ⟨"HALF", 12, 12, .ro, 0, .hw⟩, ⟨"STACK", 11, 8, .ro, 0, .hw⟩, ⟨"BOOTMASTER", 5, 5, .ro, 0, .hw⟩, ⟨"BOOTCAND", 4, 4, .ro, 0, .hw⟩, ⟨"PADDOCK", 3, 3, .ro, 0, .hw⟩, ⟨"PCIE", 2, 2, .ro, 0, .hw⟩, ⟨"LANES", 1, 1, .ro, 0, .hw⟩, ⟨"HBM", 0, 0, .ro, 0, .hw⟩] -- R31
  | .MGT_SLPCFG => [⟨"PGATE", 16, 16, .rw, 1, .sw⟩, ⟨"IDLE_US", 15, 0, .rw, 100, .sw⟩] -- R491
  | .MGT_SLPSTAT => [⟨"LASTWAKE", 6, 4, .ro, 0, .hw⟩, ⟨"STATE", 2, 0, .ro, 0, .hw⟩] -- R491
  | .MGT_WAKETIME_LO => [⟨"TIME_LO", 31, 0, .rw, 4294967295, .sw⟩] -- R491
  | .MGT_WAKETIME_HI => [⟨"TIME_HI", 31, 0, .rw, 4294967295, .sw⟩] -- R491
  | .MGT_WAKECNT => [⟨"SLEEPS", 31, 16, .rc, 0, .mrg⟩, ⟨"WAKES", 15, 0, .rc, 0, .mrg⟩] -- R491
  | .MGT_CLKSTAT => [⟨"CHANGING", 12, 12, .ro, 0, .hw⟩, ⟨"CORE_MHZ", 11, 0, .ro, 0, .hw⟩] -- R491
  | .MGT_TJ => [⟨"MAX", 15, 8, .rc, 0, .hw⟩, ⟨"NOW", 7, 0, .ro, 0, .hw⟩] -- R491
  | .ARR_CTL => [⟨"STATE", 3, 2, .ro, 0, .hw⟩, ⟨"PENDING_EN", 1, 1, .ro, 0, .hw⟩, ⟨"EN", 0, 0, .rw, 0, .sw⟩] -- R228
  | .ARR_QCTL => [⟨"QEN", 3, 0, .rw, 15, .sw⟩] -- R228
  | .ARR_QSTAT => [⟨"FENCEWAIT", 31, 28, .ro, 0, .hw⟩, ⟨"Q3", 23, 18, .ro, 0, .hw⟩, ⟨"Q2", 17, 12, .ro, 0, .hw⟩, ⟨"Q1", 11, 6, .ro, 0, .hw⟩, ⟨"Q0", 5, 0, .ro, 0, .hw⟩] -- R228
  | .ARR_CUR => [⟨"BUSY", 31, 31, .ro, 0, .hw⟩, ⟨"QUEUE", 30, 29, .ro, 0, .hw⟩, ⟨"STREAM", 13, 0, .ro, 0, .hw⟩] -- R228
  | .ARR_ERRSTAT => [⟨"ERR", 31, 31, .w1c, 0, .hw⟩, ⟨"CODE", 25, 22, .ro, 0, .hw⟩, ⟨"STREAM", 21, 8, .ro, 0, .hw⟩, ⟨"QUEUE", 1, 0, .ro, 0, .hw⟩] -- R228
  | .ARR_ERRCNT => [⟨"COUNT", 31, 0, .rc, 0, .mrg⟩] -- R228
  | .ARR_BUSYCNT => [⟨"COUNT", 31, 0, .rc, 0, .mrg⟩] -- R228
  | .ARR_MACCNT => [⟨"COUNT", 31, 0, .rc, 0, .mrg⟩] -- R228
  | .ARR_FENCECNT => [⟨"COUNT", 31, 0, .rc, 0, .mrg⟩] -- R228
  | .ARR_FILLCNT => [⟨"COUNT", 31, 0, .rc, 0, .mrg⟩] -- R228
  | .ARR_HALOCNT => [⟨"COUNT", 31, 0, .rc, 0, .mrg⟩] -- R228
  | .ARR_SPILLCNT => [⟨"COUNT", 31, 0, .rc, 0, .mrg⟩] -- R228
  | .ARR_FREQCNT => [⟨"COUNT", 31, 0, .rc, 0, .mrg⟩] -- R228
  | .ARR_CVCTL => [⟨"CLR", 2, 2, .w1s, 0, .sw⟩, ⟨"ALL", 1, 1, .rw, 0, .sw⟩, ⟨"EN", 0, 0, .rw, 0, .sw⟩] -- R250
  | .ARR_CVSEL => [⟨"STREAM", 29, 16, .rw, 0, .sw⟩, ⟨"LAYER", 15, 0, .rw, 0, .sw⟩] -- R250
  | .ARR_CVCNT => [⟨"COUNT", 31, 0, .ro, 0, .hw⟩] -- R250
  | .ARR_CVSSE_LO => [⟨"SSE_LO", 31, 0, .ro, 0, .hw⟩] -- R250
  | .ARR_CVSSE_HI => [⟨"SSE_HI", 31, 0, .ro, 0, .hw⟩] -- R250
  | .ARR_CVSSX_LO => [⟨"SSX_LO", 31, 0, .ro, 0, .hw⟩] -- R250
  | .ARR_CVSSX_HI => [⟨"SSX_HI", 31, 0, .ro, 0, .hw⟩] -- R250
  | .ARR_CVSAT => [⟨"COUNT", 31, 0, .rc, 0, .mrg⟩] -- R250
  | .ARR_CVNAN => [⟨"COUNT", 31, 0, .rc, 0, .mrg⟩] -- R250
  | .ARR_BRSTAT => [⟨"VIOL", 24, 24, .w1c, 0, .hw⟩, ⟨"STREAM", 21, 8, .ro, 0, .hw⟩, ⟨"LASTVIOL", 7, 0, .ro, 0, .hw⟩] -- R107
  | .ARR_BRREF => [⟨"COUNT", 31, 0, .rc, 0, .mrg⟩] -- R107
  | .ARR_BRSAT => [⟨"COUNT", 31, 0, .rc, 0, .mrg⟩] -- R107
  | .SFU_CTL => [⟨"STATE", 3, 2, .ro, 0, .hw⟩, ⟨"PENDING_EN", 1, 1, .ro, 0, .hw⟩, ⟨"EN", 0, 0, .rw, 0, .sw⟩] -- R274
  | .SFU_STAT => [⟨"FUSED", 31, 31, .ro, 0, .hw⟩, ⟨"ITEM", 30, 30, .ro, 0, .hw⟩, ⟨"FUNC", 29, 27, .ro, 0, .hw⟩, ⟨"COMPAT", 26, 26, .ro, 0, .hw⟩, ⟨"STREAM", 13, 0, .ro, 0, .hw⟩] -- R274
  | .SFU_MPRES => [⟨"INUSE", 31, 16, .ro, 0, .hw⟩, ⟨"VALID", 15, 0, .ro, 0, .hw⟩] -- R274
  | .SFU_ERRSTAT => [⟨"ERR", 31, 31, .w1c, 0, .hw⟩, ⟨"CODE", 25, 22, .ro, 0, .hw⟩, ⟨"STREAM", 21, 8, .ro, 0, .hw⟩] -- R274
  | .SFU_ERRCNT => [⟨"COUNT", 31, 0, .rc, 0, .mrg⟩] -- R274
  | .SFU_EVALCNT => [⟨"COUNT", 31, 0, .rc, 0, .mrg⟩] -- R274
  | .SFU_COMPATCNT => [⟨"COUNT", 31, 0, .rc, 0, .mrg⟩] -- R274
  | .SFU_NANCNT => [⟨"COUNT", 31, 0, .rc, 0, .mrg⟩] -- R274
  | .SFU_STALLCNT => [⟨"COUNT", 31, 0, .rc, 0, .mrg⟩] -- R274
  | .ECE_CTL => [⟨"STATE", 3, 2, .ro, 0, .hw⟩, ⟨"PENDING_EN", 1, 1, .ro, 0, .hw⟩, ⟨"EN", 0, 0, .rw, 0, .sw⟩] -- R132
  | .ECE_LANECFG => [⟨"PHYMASK", 15, 8, .ro, 0, .hw⟩, ⟨"NPHY", 3, 0, .ro, 0, .hw⟩] -- R132
  | .ECE_TSET => [⟨"PINNED", 15, 8, .ro, 0, .hw⟩, ⟨"VALID", 7, 0, .ro, 0, .hw⟩] -- R132
  | .ECE_INFLIGHT => [⟨"ITEMS", 4, 0, .ro, 0, .hw⟩] -- R132
  | .ECE_ERRSTAT => [⟨"ERR", 31, 31, .w1c, 0, .hw⟩, ⟨"CODE", 25, 22, .ro, 0, .hw⟩, ⟨"STREAM", 21, 8, .ro, 0, .hw⟩] -- R132
  | .ECE_ERRLOC => [⟨"PLOT", 31, 16, .ro, 0, .hw⟩, ⟨"FRAME", 15, 0, .ro, 0, .hw⟩] -- R132
  | .ECE_ERRCNT => [⟨"COUNT", 31, 0, .rc, 0, .mrg⟩] -- R132
  | .ECE_ESCCNT => [⟨"COUNT", 31, 0, .rc, 0, .mrg⟩] -- R132
  | .ECE_STEPCNT => [⟨"COUNT", 31, 0, .rc, 0, .mrg⟩] -- R132
  | .ECE_TSETPROG => [⟨"PROG_ID", 15, 0, .ro, 0, .hw⟩] -- R132
  | .ECE_LSCSEL => [⟨"SLOT", 7, 0, .rw, 0, .sw⟩] -- R76
  | .ECE_LSCCTL => [⟨"HOLD", 0, 0, .rw, 0, .sw⟩] -- R76
  | .ECE_LSCCMD => [⟨"RCRESET", 1, 1, .w1s, 0, .sw⟩, ⟨"KEYREQ", 0, 0, .w1s, 0, .sw⟩] -- R76
  | .ECE_LSCLIVE0 => [⟨"FRAME", 31, 0, .ro, 0, .hw⟩] -- R76
  | .ECE_LSCLIVE1 => [⟨"SHDPEND", 26, 26, .ro, 0, .hw⟩, ⟨"QD", 25, 20, .ro, 32, .hw⟩, ⟨"QK", 19, 14, .ro, 32, .hw⟩, ⟨"KEYPEND", 11, 11, .ro, 0, .hw⟩, ⟨"CONCEAL", 10, 10, .ro, 0, .hw⟩, ⟨"SINCEKEY", 9, 0, .ro, 0, .hw⟩] -- R76
  | .ECE_RCSTAT => [⟨"FILLED", 25, 25, .ro, 0, .hw⟩, ⟨"CLAMP", 24, 24, .w1c, 0, .hw⟩, ⟨"LASTBYTES", 23, 0, .ro, 0, .hw⟩] -- R76
  | .ECE_LSCCNT => [⟨"CLAMPS", 31, 16, .rc, 0, .mrg⟩, ⟨"REFCNT", 15, 0, .rc, 0, .mrg⟩] -- R76
  | .ECE_LSCW0 => [⟨"LTR_EVERY", 29, 22, .rw, 0, .shd⟩, ⟨"KEYINT", 21, 12, .rw, 64, .shd⟩, ⟨"CHROMA", 10, 9, .rw, 1, .shd⟩, ⟨"BITS", 8, 4, .rw, 8, .shd⟩, ⟨"RETURN_EN", 3, 3, .rw, 0, .shd⟩, ⟨"DIR", 2, 2, .rw, 0, .sw⟩, ⟨"PROFILE", 1, 0, .rw, 0, .shd⟩] -- R77
  | .ECE_LSCW1 => [⟨"HEIGHT", 31, 16, .rw, 0, .shd⟩, ⟨"WIDTH", 15, 0, .rw, 0, .shd⟩] -- R77
  | .ECE_LSCW2 => [⟨"DEC_WAIT", 31, 24, .rw, 100, .shd⟩, ⟨"RFR_RPT", 23, 16, .rw, 16, .shd⟩, ⟨"KEYRATIO", 15, 8, .rw, 16, .shd⟩, ⟨"RC_MODE", 7, 6, .rw, 0, .shd⟩, ⟨"QIDX", 5, 0, .rw, 32, .shd⟩] -- R77
  | .ECE_LSCW3 => [⟨"TARGET", 31, 0, .rw, 0, .shd⟩] -- R77
  | .ECE_LSCW4 => [⟨"RECON_EN", 17, 17, .rw, 0, .shd⟩, ⟨"TAP_EN", 16, 16, .rw, 0, .shd⟩, ⟨"QMAX", 13, 8, .rw, 63, .shd⟩, ⟨"QMIN", 5, 0, .rw, 0, .shd⟩] -- R77
  | .ECE_LSCW5 => [⟨"POOL_LO", 31, 0, .rw, 0, .sw⟩] -- R77
  | .ECE_LSCW6 => [⟨"POOL_HI", 7, 0, .rw, 0, .sw⟩] -- R77
  | .ECE_LSCW7 => [⟨"PROG_ID", 15, 0, .rw, 0, .shd⟩] -- R77
  | .ECE_OSFSTAT => [⟨"REFUSED", 31, 31, .ro, 0, .hw⟩, ⟨"NOHDR", 30, 30, .ro, 0, .hw⟩, ⟨"HGEN", 15, 0, .ro, 0, .hw⟩] -- R162
  | .ECE_OSFCNT0 => [⟨"CRCERR", 31, 16, .rc, 0, .mrg⟩, ⟨"ORPHAN", 15, 0, .rc, 0, .mrg⟩] -- R162
  | .ECE_OSFCNT1 => [⟨"REFUSED", 31, 16, .rc, 0, .mrg⟩, ⟨"SKIPPED", 15, 0, .rc, 0, .mrg⟩] -- R162
  | .ECE_OSFCNT2 => [⟨"WITHHELD", 31, 16, .rc, 0, .mrg⟩, ⟨"HDRS", 15, 0, .rc, 0, .mrg⟩] -- R162
  | .ECE_TAPCFG => [⟨"LATONLY", 8, 8, .rw, 0, .sw⟩, ⟨"TAPMASK", 7, 0, .rw, 0, .shd⟩] -- R194
  | .ECE_TAPSTAT => [⟨"READYFRAME", 31, 0, .ro, 0, .hw⟩] -- R194
  | .ECE_TAPCNT => [⟨"LOST", 31, 16, .rc, 0, .mrg⟩, ⟨"READY", 15, 0, .rc, 0, .mrg⟩] -- R194
  | .SCE_CTL => [⟨"STATE", 3, 2, .ro, 0, .hw⟩, ⟨"PENDING_EN", 1, 1, .ro, 0, .hw⟩, ⟨"EN", 0, 0, .rw, 0, .sw⟩] -- R302
  | .SCE_STAT => [⟨"BUSY", 31, 31, .ro, 0, .hw⟩, ⟨"DIR", 30, 30, .ro, 0, .hw⟩, ⟨"CODEC", 29, 28, .ro, 0, .hw⟩, ⟨"STREAM", 13, 0, .ro, 0, .hw⟩] -- R302
  | .SCE_ERRSTAT => [⟨"ERR", 31, 31, .w1c, 0, .hw⟩, ⟨"CODE", 25, 22, .ro, 0, .hw⟩, ⟨"STREAM", 21, 8, .ro, 0, .hw⟩] -- R302
  | .SCE_ERRLOC => [⟨"ROW", 31, 16, .ro, 0, .hw⟩, ⟨"FRAME", 15, 0, .ro, 0, .hw⟩] -- R302
  | .SCE_ERRCNT => [⟨"COUNT", 31, 0, .rc, 0, .mrg⟩] -- R302
  | .SCE_PICCNT => [⟨"COUNT", 31, 0, .rc, 0, .mrg⟩] -- R302
  | .SCE_SWCNT => [⟨"COUNT", 31, 0, .rc, 0, .mrg⟩] -- R302
  | .SCE_BUSYCNT => [⟨"COUNT", 31, 0, .rc, 0, .mrg⟩] -- R302
  | .SCE_SSEL => [⟨"SLOT", 7, 0, .rw, 0, .sw⟩] -- R304
  | .SCE_SCTL => [⟨"HOLD", 0, 0, .rw, 0, .sw⟩] -- R304
  | .SCE_SCMD => [⟨"RCRESET", 1, 1, .w1s, 0, .sw⟩, ⟨"KEYREQ", 0, 0, .w1s, 0, .sw⟩] -- R304
  | .SCE_SLIVE0 => [⟨"FRAME", 31, 0, .ro, 0, .hw⟩] -- R304
  | .SCE_SLIVE1 => [⟨"SHDPEND", 31, 31, .ro, 0, .hw⟩, ⟨"QPB", 30, 25, .ro, 32, .hw⟩, ⟨"QPP", 24, 19, .ro, 32, .hw⟩, ⟨"QPI", 18, 13, .ro, 32, .hw⟩, ⟨"KEYPEND", 12, 12, .ro, 0, .hw⟩, ⟨"CONCEAL", 11, 11, .ro, 0, .hw⟩, ⟨"REFUSED", 10, 10, .ro, 0, .hw⟩, ⟨"SINCEKEY", 9, 0, .ro, 0, .hw⟩] -- R304
  | .SCE_RCSTAT => [⟨"FILLED", 25, 25, .ro, 0, .hw⟩, ⟨"CLAMP", 24, 24, .w1c, 0, .hw⟩, ⟨"LASTBYTES", 23, 0, .ro, 0, .hw⟩] -- R304
  | .SCE_SCNT => [⟨"CLAMPS", 31, 16, .rc, 0, .mrg⟩, ⟨"REFCNT", 15, 0, .rc, 0, .mrg⟩] -- R304
  | .SCE_SCNT2 => [⟨"MISSREF", 31, 16, .rc, 0, .mrg⟩, ⟨"LOSTREG", 15, 0, .rc, 0, .mrg⟩] -- R304
  | .SCE_SW0 => [⟨"IDRINT", 29, 20, .rw, 64, .shd⟩, ⟨"GOPLEN", 19, 16, .rw, 1, .shd⟩, ⟨"GOPMODE", 15, 14, .rw, 0, .shd⟩, ⟨"STATS_EN", 13, 13, .rw, 0, .shd⟩, ⟨"CAVLC", 12, 12, .rw, 0, .shd⟩, ⟨"BITS", 11, 8, .rw, 8, .shd⟩, ⟨"CHROMA", 7, 6, .rw, 1, .shd⟩, ⟨"RFR_KIND", 5, 4, .rw, 0, .shd⟩, ⟨"DIR", 2, 2, .rw, 0, .sw⟩, ⟨"CODEC", 1, 0, .rw, 0, .shd⟩] -- R305
  | .SCE_SW1 => [⟨"HEIGHT", 31, 16, .rw, 0, .shd⟩, ⟨"WIDTH", 15, 0, .rw, 0, .shd⟩] -- R305
  | .SCE_SW2 => [⟨"RFR_RPT", 31, 24, .rw, 16, .shd⟩, ⟨"BRATIO", 19, 16, .rw, 2, .shd⟩, ⟨"KEYRATIO", 15, 8, .rw, 16, .shd⟩, ⟨"RC_MODE", 7, 6, .rw, 0, .shd⟩, ⟨"QP", 5, 0, .rw, 32, .shd⟩] -- R305
  | .SCE_SW3 => [⟨"TARGET", 31, 0, .rw, 0, .shd⟩] -- R305
  | .SCE_SW4 => [⟨"NOUT", 27, 24, .rw, 2, .sw⟩, ⟨"SLICEROWS", 19, 16, .rw, 0, .shd⟩, ⟨"QPMAX", 13, 8, .rw, 51, .shd⟩, ⟨"QPMIN", 5, 0, .rw, 0, .shd⟩] -- R305
  | .SCE_SW5 => [⟨"POOL_LO", 31, 12, .rw, 0, .sw⟩] -- R305
  | .SCE_SW6 => [⟨"STSIZE", 31, 24, .rw, 0, .sw⟩, ⟨"STBASE_HI", 23, 16, .rw, 0, .sw⟩, ⟨"POOLN", 15, 8, .rw, 0, .sw⟩, ⟨"POOL_HI", 7, 0, .rw, 0, .sw⟩] -- R305
  | .SCE_SW7 => [⟨"STBASE_LO", 31, 12, .rw, 0, .sw⟩] -- R305
  | .SMV_CTL => [⟨"STATE", 3, 2, .ro, 0, .hw⟩, ⟨"PENDING_EN", 1, 1, .ro, 0, .hw⟩, ⟨"EN", 0, 0, .rw, 0, .sw⟩] -- R344
  | .SMV_TAGS => [⟨"PEAK", 27, 16, .rc, 0, .hw⟩, ⟨"INUSE", 11, 0, .ro, 0, .hw⟩] -- R344
  | .SMV_TAGSTALL => [⟨"COUNT", 31, 0, .rc, 0, .mrg⟩] -- R344
  | .SMV_HBMSPLIT => [⟨"READ", 11, 8, .ro, 0, .hw⟩, ⟨"WRITE", 7, 4, .ro, 0, .hw⟩, ⟨"REMOTE", 3, 0, .ro, 0, .hw⟩] -- R344
  | .SMV_ERRSTAT => [⟨"ERR", 31, 31, .w1c, 0, .hw⟩, ⟨"CODE", 25, 22, .ro, 0, .hw⟩, ⟨"STREAM", 21, 8, .ro, 0, .hw⟩] -- R344
  | .SMV_ERRCNT => [⟨"COUNT", 31, 0, .rc, 0, .mrg⟩] -- R344
  | .SMV_CQSTALL => [⟨"COUNT", 31, 0, .rc, 0, .mrg⟩] -- R344
  | .SMV_RESIDENT => [⟨"ITEMS", 16, 0, .ro, 0, .hw⟩] -- R344
  | .SMV_QCFG => [⟨"BURST", 31, 28, .rw, 8, .sw⟩, ⟨"OUTST", 23, 16, .rw, 8, .sw⟩, ⟨"CREDITS", 15, 8, .rw, 0, .sw⟩, ⟨"LOGDEPTH", 4, 0, .rw, 0, .sw⟩] -- R344
  | .SMV_QBASE_LO => [⟨"BASE_LO", 31, 12, .rw, 0, .sw⟩] -- R344
  | .SMV_QBASE_HI => [⟨"BASE_HI", 7, 0, .rw, 0, .sw⟩] -- R344
  | .SMV_QSTG => [⟨"STG", 25, 12, .rw, 0, .sw⟩] -- R344
  | .SMV_QTAIL => [⟨"TAIL", 31, 0, .rw, 0, .sw⟩] -- R344
  | .SMV_QHEAD => [⟨"HEAD", 31, 0, .ro, 0, .hw⟩] -- R344
  | .SMV_SQBASE_LO => [⟨"BASE_LO", 31, 12, .rw, 0, .sw⟩] -- R344
  | .SMV_SQBASE_HI => [⟨"BASE_HI", 7, 0, .rw, 0, .sw⟩] -- R344
  | .SMV_SQCFG => [⟨"EN", 7, 7, .rw, 0, .sw⟩, ⟨"LOGSIZE", 4, 0, .rw, 0, .sw⟩] -- R344
  | .SMV_SQTAIL => [⟨"TAIL", 31, 0, .rw, 0, .sw⟩] -- R344
  | .SMV_SQHEAD => [⟨"HEAD", 31, 0, .ro, 0, .hw⟩] -- R344
  | .SMV_CQBASE_LO => [⟨"BASE_LO", 31, 12, .rw, 0, .sw⟩] -- R344
  | .SMV_CQBASE_HI => [⟨"BASE_HI", 7, 0, .rw, 0, .sw⟩] -- R344
  | .SMV_CQCFG => [⟨"VECTOR", 15, 8, .rw, 0, .sw⟩, ⟨"EN", 7, 7, .rw, 0, .sw⟩, ⟨"LOGSIZE", 4, 0, .rw, 0, .sw⟩] -- R344
  | .SMV_CQHEAD => [⟨"HEAD", 31, 0, .rw, 0, .sw⟩] -- R344
  | .SMV_CQTAIL => [⟨"TAIL", 31, 0, .ro, 0, .hw⟩] -- R344
  | .SMV_ERBASE_LO => [⟨"BASE_LO", 31, 12, .rw, 0, .sw⟩] -- R344
  | .SMV_ERBASE_HI => [⟨"BASE_HI", 7, 0, .rw, 0, .sw⟩] -- R344
  | .SMV_ERCFG => [⟨"VECTOR", 15, 8, .rw, 0, .sw⟩, ⟨"EN", 7, 7, .rw, 0, .sw⟩, ⟨"LOGSIZE", 4, 0, .rw, 0, .sw⟩] -- R344
  | .SMV_ERHEAD => [⟨"HEAD", 31, 0, .rw, 0, .sw⟩] -- R344
  | .SMV_ERTAIL => [⟨"TAIL", 31, 0, .ro, 0, .hw⟩] -- R344
  | .SMV_ERDROP => [⟨"COUNT", 31, 0, .rc, 0, .mrg⟩] -- R344
  | .SMV_SSEL => [⟨"SLOT", 7, 0, .rw, 0, .sw⟩] -- R344
  | .SMV_SLIVE0 => [⟨"STATE", 31, 30, .ro, 0, .hw⟩, ⟨"FPW", 29, 29, .ro, 0, .hw⟩, ⟨"INFLIGHT", 16, 0, .ro, 0, .hw⟩] -- R344
  | .SMV_SLIVE1 => [⟨"HIGH", 31, 0, .ro, 0, .hw⟩] -- R344
  | .SMV_SCOND0 => [⟨"POISON", 31, 16, .rc, 0, .mrg⟩, ⟨"MISSREF", 15, 0, .rc, 0, .mrg⟩] -- R344
  | .SMV_SCOND1 => [⟨"CONCEAL", 31, 16, .rc, 0, .mrg⟩, ⟨"SHORT", 15, 0, .rc, 0, .mrg⟩] -- R344
  | .SMV_SCOND2 => [⟨"LONG", 31, 16, .rc, 0, .mrg⟩, ⟨"FILLED", 15, 0, .rc, 0, .mrg⟩] -- R344
  | .SMV_SCOND3 => [⟨"FAILWR", 31, 16, .rc, 0, .mrg⟩, ⟨"DUP", 15, 0, .rc, 0, .mrg⟩] -- R344
  | .BAL_CTL => [⟨"YCMPEN", 1, 1, .rw, 1, .sw⟩, ⟨"CMPEN", 0, 0, .rw, 1, .sw⟩] -- R416
  | .BAL_ERRSTAT => [⟨"ERR", 31, 31, .w1c, 0, .hw⟩, ⟨"CODE", 25, 22, .ro, 0, .hw⟩, ⟨"BLOCK", 21, 0, .ro, 0, .hw⟩] -- R416
  | .BAL_ERRCNT => [⟨"COUNT", 31, 0, .rc, 0, .mrg⟩] -- R416
  | .BAL_CLSCNT => [⟨"COUNT", 31, 0, .rc, 0, .mrg⟩] -- R416
  | .BAL_RMWCNT => [⟨"COUNT", 31, 0, .rc, 0, .mrg⟩] -- R416
  | .BAL_YSAVED => [⟨"COUNT", 31, 0, .rc, 0, .mrg⟩] -- R416
  | .MEM_WSCFG => [⟨"SPARE", 7, 7, .ro, 0, .hw⟩, ⟨"REPLACED", 5, 0, .ro, 0, .hw⟩] -- R417
  | .MEM_WSECC => [⟨"UNCORR", 31, 16, .rc, 0, .mrg⟩, ⟨"CORR", 15, 0, .rc, 0, .mrg⟩] -- R417
  | .MEM_WCCTL => [⟨"INVALL", 0, 0, .w1s, 0, .sw⟩] -- R417
  | .MEM_WCHIT => [⟨"COUNT", 31, 0, .rc, 0, .mrg⟩] -- R417
  | .MEM_WCMISS => [⟨"COUNT", 31, 0, .rc, 0, .mrg⟩] -- R417
  | .MEM_WCINV => [⟨"REFETCH", 31, 16, .rc, 0, .mrg⟩, ⟨"INV", 15, 0, .rc, 0, .mrg⟩] -- R417
  | .MEM_WCSERVE_LO => [⟨"HASH", 31, 0, .ro, 0, .hw⟩] -- R417
  | .MEM_WCSERVE_HI => [⟨"HASH", 31, 0, .ro, 0, .hw⟩] -- R417
  | .MEM_HBMSTAT => [⟨"TEMP", 23, 16, .ro, 0, .hw⟩, ⟨"TRAIN", 3, 2, .ro, 0, .hw⟩, ⟨"UP", 1, 1, .ro, 0, .hw⟩, ⟨"PRESENT", 0, 0, .ro, 0, .hw⟩] -- R417
  | .MEM_HBMECC => [⟨"UNCORR", 31, 16, .rc, 0, .mrg⟩, ⟨"CORR", 15, 0, .rc, 0, .mrg⟩] -- R417
  | .MEM_HBMSCRUB => [⟨"PASSES", 31, 0, .ro, 0, .hw⟩] -- R417
  | .MEM_ERRSTAT => [⟨"ERR", 31, 31, .w1c, 0, .hw⟩, ⟨"CODE", 25, 22, .ro, 0, .hw⟩, ⟨"WHERE", 21, 0, .ro, 0, .hw⟩] -- R417
  | .MEM_ERRCNT => [⟨"COUNT", 31, 0, .rc, 0, .mrg⟩] -- R417
  | .YRD_STAT => [⟨"EDGEUP", 19, 16, .ro, 0, .hw⟩, ⟨"DETOUR", 1, 1, .ro, 0, .hw⟩, ⟨"IDLE", 0, 0, .ro, 0, .hw⟩] -- R418
  | .YRD_QCTL => [⟨"ESC", 3, 3, .w1c, 0, .hw⟩, ⟨"DONE", 2, 2, .w1c, 0, .hw⟩, ⟨"BUSY", 1, 1, .ro, 0, .hw⟩, ⟨"REQ", 0, 0, .w1s, 0, .sw⟩] -- R418
  | .YRD_ERRSTAT => [⟨"ERR", 31, 31, .w1c, 0, .hw⟩, ⟨"CODE", 25, 22, .ro, 0, .hw⟩, ⟨"PORT", 2, 0, .ro, 0, .hw⟩] -- R418
  | .YRD_ERRCNT => [⟨"COUNT", 31, 0, .rc, 0, .mrg⟩] -- R418
  | .YRD_EDGEEVT => [⟨"LASTING", 31, 16, .rc, 0, .mrg⟩, ⟨"TRANSIENT", 15, 0, .rc, 0, .mrg⟩] -- R418
  | .YRD_REPLAY => [⟨"COUNT", 31, 0, .rc, 0, .mrg⟩] -- R418
  | .YRD_ABSORB => [⟨"COUNT", 31, 0, .rc, 0, .mrg⟩] -- R418
  | .YRD_FLIT => [⟨"COUNT", 31, 0, .rc, 0, .mrg⟩] -- R418
  | .YRD_RT => [⟨"VIA", 11, 11, .ro, 0, .hw⟩, ⟨"INTER", 10, 5, .ro, 0, .hw⟩, ⟨"OUT", 2, 0, .ro, 0, .hw⟩] -- R418
  | .LNK_CTL => [⟨"STATE", 3, 2, .ro, 0, .hw⟩, ⟨"PENDING_EN", 1, 1, .ro, 0, .hw⟩, ⟨"EN", 0, 0, .rw, 0, .sw⟩] -- R387
  | .LNK_QUADCFG => [⟨"FEC25_1", 9, 9, .ro, 0, .hw⟩, ⟨"FEC25_0", 8, 8, .ro, 0, .hw⟩, ⟨"MODE1", 7, 4, .ro, 0, .hw⟩, ⟨"MODE0", 3, 0, .ro, 0, .hw⟩] -- R387
  | .LNK_LANESTAT => [⟨"LOCK", 23, 16, .ro, 0, .hw⟩, ⟨"UP", 15, 8, .ro, 0, .hw⟩, ⟨"INSVC", 7, 0, .ro, 0, .hw⟩] -- R387
  | .LNK_ERRSTAT => [⟨"ERR", 31, 31, .w1c, 0, .hw⟩, ⟨"CODE", 25, 22, .ro, 0, .hw⟩, ⟨"STREAM", 21, 8, .ro, 0, .hw⟩, ⟨"PORT", 6, 0, .ro, 0, .hw⟩] -- R387
  | .LNK_ERRCNT => [⟨"COUNT", 31, 0, .rc, 0, .mrg⟩] -- R387
  | .LNK_RXDROP => [⟨"COUNT", 31, 0, .rc, 0, .mrg⟩] -- R387
  | .LNK_FECCNT => [⟨"UNCORR", 31, 16, .rc, 0, .mrg⟩, ⟨"CORR", 15, 0, .rc, 0, .mrg⟩] -- R387
  | .LNK_FLOWS => [⟨"USED", 11, 0, .ro, 0, .hw⟩] -- R387
  | .LNK_LRETRY => [⟨"COUNT", 31, 0, .rc, 0, .mrg⟩] -- R387
  | .LNK_PATHEVT => [⟨"LASTING", 31, 16, .rc, 0, .mrg⟩, ⟨"TRANSIENT", 15, 0, .rc, 0, .mrg⟩] -- R387
  | .LNK_SSEL => [⟨"SLOT", 7, 0, .rw, 0, .sw⟩] -- R389
  | .LNK_SW0 => [⟨"DSCP", 20, 15, .rw, 0, .shd⟩, ⟨"PORT", 14, 8, .rw, 0, .sw⟩, ⟨"PEER", 7, 2, .rw, 0, .sw⟩, ⟨"EGKIND", 1, 0, .rw, 0, .sw⟩] -- R389
  | .LNK_SW1 => [⟨"UDPPORT", 31, 16, .rw, 0, .sw⟩, ⟨"DSTREAM", 13, 0, .rw, 0, .sw⟩] -- R389
  | .LNK_SCNT => [⟨"ALTPATH", 31, 16, .rc, 0, .mrg⟩, ⟨"FAILED", 15, 0, .rc, 0, .mrg⟩] -- R389
  | .LNK_MVCFG => [⟨"E2E", 31, 16, .rw, 100, .sw⟩, ⟨"UDPPORT", 15, 8, .rw, 0, .sw⟩, ⟨"RELOAD", 7, 7, .w1s, 0, .sw⟩, ⟨"EN", 6, 6, .rw, 0, .sw⟩, ⟨"DEVNUM", 3, 0, .ro, 0, .hw⟩] -- R388
  | .LNK_MVPEER_LO => [⟨"BASE_LO", 31, 12, .rw, 0, .sw⟩] -- R388
  | .LNK_MVPEER_HI => [⟨"BASE_HI", 7, 0, .rw, 0, .sw⟩] -- R388
  | .LNK_MVSTAT => [⟨"NOMASTER", 2, 2, .ro, 0, .hw⟩, ⟨"CONFLICT", 1, 1, .w1c, 0, .hw⟩, ⟨"MASTER", 0, 0, .ro, 0, .hw⟩] -- R388
  | .LNK_PTPCFG => [⟨"VLAN", 31, 20, .rw, 0, .sw⟩, ⟨"DOMAIN", 19, 12, .rw, 0, .sw⟩, ⟨"TRANSPORT", 11, 9, .rw, 0, .sw⟩, ⟨"ROLE", 8, 7, .rw, 0, .sw⟩, ⟨"PORT", 6, 0, .rw, 0, .sw⟩] -- R388
  | .LNK_PTPSTAT => [⟨"LOCKED", 31, 31, .ro, 0, .hw⟩, ⟨"STEPPED", 30, 30, .w1c, 0, .hw⟩, ⟨"UTCOFS", 15, 0, .rw, 0, .hw⟩] -- R388
  | .LNK_PTPOFS => [⟨"OFS", 31, 0, .ro, 0, .hw⟩] -- R388
  | .LNK_PUBCTL => [⟨"RELOAD", 1, 1, .w1s, 0, .sw⟩, ⟨"EN", 0, 0, .rw, 0, .sw⟩] -- R388
  | .LNK_PUBBASE_LO => [⟨"BASE_LO", 31, 12, .rw, 0, .sw⟩] -- R388
  | .LNK_PUBBASE_HI => [⟨"BASE_HI", 7, 0, .rw, 0, .sw⟩] -- R388
  | .LNK_HWSEL => [⟨"FUNC", 6, 0, .rw, 0, .sw⟩] -- R388
  | .LNK_HWE_LO => [⟨"HBASE_LO", 31, 12, .rw, 0, .sw⟩, ⟨"EN", 0, 0, .rw, 0, .sw⟩] -- R388
  | .LNK_HWE_HI => [⟨"HBASE_HI", 31, 0, .rw, 0, .sw⟩] -- R388
  | .LNK_APER_LO => [⟨"BASE_LO", 31, 12, .rw, 0, .sw⟩] -- R388
  | .LNK_APER_HI => [⟨"BASE_HI", 7, 0, .rw, 0, .sw⟩] -- R388
  | .LNK_PCISTAT => [⟨"NUMVF", 31, 16, .ro, 0, .hw⟩, ⟨"WIDTH", 15, 8, .ro, 0, .hw⟩, ⟨"GEN", 7, 4, .ro, 0, .hw⟩, ⟨"DLUP", 0, 0, .ro, 0, .hw⟩] -- R388
  | .LNK_LBLCTL => [⟨"RELOAD", 1, 1, .w1s, 0, .sw⟩, ⟨"EN", 0, 0, .rw, 0, .sw⟩] -- R196
  | .LNK_LBLBASE_LO => [⟨"BASE_LO", 31, 12, .rw, 0, .sw⟩] -- R196
  | .LNK_LBLBASE_HI => [⟨"BASE_HI", 7, 0, .rw, 0, .sw⟩] -- R196
  | .LNK_LBLCNT0 => [⟨"LABELS", 31, 16, .rc, 0, .mrg⟩, ⟨"UNMATCHED", 15, 0, .rc, 0, .mrg⟩] -- R196
  | .LNK_LBLCNT1 => [⟨"UNPARSED", 31, 16, .rc, 0, .mrg⟩, ⟨"SECURED", 15, 0, .rc, 0, .mrg⟩] -- R196
  | .ING_CTL => [⟨"STATE", 3, 2, .ro, 0, .hw⟩, ⟨"PENDING_EN", 1, 1, .ro, 0, .hw⟩, ⟨"EN", 0, 0, .rw, 0, .sw⟩] -- R536
  | .ING_SSEL => [⟨"SLOT", 7, 0, .rw, 0, .sw⟩] -- R389
  | .ING_SCTL => [⟨"HOLD", 0, 0, .rw, 0, .sw⟩] -- R389
  | .ING_SLIVE0 => [⟨"UNITS", 31, 0, .ro, 0, .hw⟩] -- R389
  | .ING_SCNT0 => [⟨"LATEPKT", 31, 16, .rc, 0, .mrg⟩, ⟨"LOSTPKT", 15, 0, .rc, 0, .mrg⟩] -- R389
  | .ING_SCNT1 => [⟨"OVERRUN", 31, 16, .rc, 0, .mrg⟩, ⟨"DISCARD", 15, 0, .rc, 0, .mrg⟩] -- R389
  | .ING_SW0 => [⟨"VLAN", 27, 16, .rw, 0, .sw⟩, ⟨"SSRCEN", 14, 14, .rw, 0, .sw⟩, ⟨"RTCPMUX", 13, 13, .rw, 0, .sw⟩, ⟨"PADMODE", 12, 11, .rw, 0, .shd⟩, ⟨"PORT", 10, 4, .rw, 0, .sw⟩, ⟨"IKIND", 3, 0, .rw, 0, .sw⟩] -- R389
  | .ING_SW1 => [⟨"AUWAIT", 31, 24, .rw, 100, .shd⟩, ⟨"PT", 22, 16, .rw, 96, .sw⟩, ⟨"UDPPORT", 15, 0, .rw, 0, .sw⟩] -- R389
  | .ING_SW2 => [⟨"SSRC", 31, 0, .rw, 0, .sw⟩] -- R389
  | .ING_SW3 => [⟨"TSOFF", 31, 0, .rw, 0, .shd⟩] -- R389
  | .ING_SW4 => [⟨"NSLOT", 27, 20, .rw, 0, .sw⟩, ⟨"SLOTKIB", 19, 0, .rw, 0, .sw⟩] -- R389
  | .FXG_CTL => [⟨"STATE", 3, 2, .ro, 0, .hw⟩, ⟨"PENDING_EN", 1, 1, .ro, 0, .hw⟩, ⟨"EN", 0, 0, .rw, 0, .sw⟩] -- R536
  | .FXG_HDSEL => [⟨"HOLD", 8, 8, .rw, 0, .sw⟩, ⟨"SLOT", 7, 0, .rw, 0, .sw⟩] -- R195
  | .FXG_HDSTAT => [⟨"NOTAP", 3, 3, .ro, 0, .hw⟩, ⟨"SHAPE", 2, 2, .w1c, 0, .hw⟩, ⟨"SRCGONE", 1, 1, .ro, 0, .hw⟩, ⟨"ALARM", 0, 0, .ro, 0, .hw⟩] -- R195
  | .FXG_HDGEN => [⟨"GEN", 31, 0, .ro, 0, .hw⟩] -- R195
  | .FXG_HDCNT => [⟨"LOST", 31, 16, .rc, 0, .mrg⟩, ⟨"UNCERT", 15, 0, .rc, 0, .mrg⟩] -- R195
  | .FXG_HDW0 => [⟨"DECIM", 31, 24, .rw, 1, .shd⟩, ⟨"PUB", 20, 20, .rw, 0, .shd⟩, ⟨"SRC", 13, 0, .rw, 0, .sw⟩] -- R195
  | .FXG_HDW1 => [⟨"CHAN", 21, 16, .rw, 0, .shd⟩, ⟨"PROG_ID", 15, 0, .rw, 0, .sw⟩] -- R195
  | .FXG_HDW2 => [⟨"DSWID", 15, 0, .rw, 0, .shd⟩] -- R195
  | .FXG_HDW3 => [⟨"THRESH", 31, 0, .rw, 2139095040, .shd⟩] -- R195
  | .FXG_HDW4 => [⟨"FRBASE_LO", 31, 12, .rw, 0, .sw⟩] -- R195
  | .FXG_HDW5 => [⟨"FRPAGES", 31, 16, .rw, 0, .sw⟩, ⟨"FRBASE_HI", 7, 0, .rw, 0, .sw⟩] -- R195
  | .FXG_ADPSTAT => [⟨"REASON", 7, 4, .ro, 0, .hw⟩, ⟨"STATE", 1, 0, .ro, 0, .hw⟩] -- R195
  | .FXG_ADPSTEP => [⟨"STEP", 31, 0, .ro, 0, .hw⟩] -- R195
  | .FXG_ADPLOSS => [⟨"LOSS", 31, 0, .ro, 0, .hw⟩] -- R195
  | .PRT_ISEL => [⟨"INST", 5, 0, .rw, 0, .sw⟩] -- R441
  | .PRT_ICMD => [⟨"GO", 31, 31, .w1s, 0, .sw⟩, ⟨"ZERO", 8, 8, .rw, 0, .sw⟩, ⟨"OP", 1, 0, .rw, 0, .sw⟩] -- R441
  | .PRT_ISTAT => [⟨"STATE", 31, 30, .ro, 0, .hw⟩, ⟨"PENDDES", 29, 29, .ro, 0, .hw⟩, ⟨"ESC", 28, 28, .w1c, 0, .hw⟩, ⟨"EPOCH", 7, 0, .ro, 0, .hw⟩] -- R441
  | .PRT_ITILES_LO => [⟨"TILES", 31, 0, .rw, 0, .sw⟩] -- R441
  | .PRT_ITILES_HI => [⟨"TILES", 31, 0, .rw, 0, .sw⟩] -- R441
  | .PRT_IFLIGHT => [⟨"COUNT", 17, 0, .ro, 0, .hw⟩] -- R441
  | .PRT_ILAST => [⟨"CAUSE", 19, 16, .ro, 0, .hw⟩, ⟨"TIME_US", 15, 0, .ro, 0, .hw⟩] -- R441
  | .PRT_IRSTCNT => [⟨"MERGED", 31, 16, .rc, 0, .mrg⟩, ⟨"RESETS", 15, 0, .rc, 0, .mrg⟩] -- R441
  | .PRT_ERRSTAT => [⟨"ERR", 31, 31, .w1c, 0, .hw⟩, ⟨"CODE", 25, 22, .ro, 0, .hw⟩, ⟨"TILE", 13, 8, .ro, 0, .hw⟩, ⟨"INST", 5, 0, .ro, 0, .hw⟩] -- R441
  | .PRT_ERRCNT => [⟨"COUNT", 31, 0, .rc, 0, .mrg⟩] -- R441
  | .PRT_ESC => [⟨"EVT", 31, 31, .w1c, 0, .hw⟩, ⟨"SRC", 30, 28, .ro, 0, .hw⟩, ⟨"TILE", 13, 8, .ro, 0, .hw⟩, ⟨"INST", 5, 0, .ro, 0, .hw⟩] -- R441
  | .PRT_ESCCFG => [⟨"VECTOR", 7, 0, .rw, 0, .sw⟩] -- R441
  | .PRT_PKGRST => [⟨"KEY", 31, 16, .wo, 0, .sw⟩, ⟨"GO", 0, 0, .wo, 0, .sw⟩] -- R441
  | .PRT_MOWN => [⟨"VALID0", 7, 7, .rw, 0, .hw⟩, ⟨"VALID1", 15, 15, .rw, 0, .hw⟩, ⟨"VALID2", 23, 23, .rw, 0, .hw⟩, ⟨"VALID3", 31, 31, .rw, 0, .hw⟩, ⟨"INST0", 5, 0, .rw, 0, .hw⟩, ⟨"INST1", 13, 8, .rw, 0, .hw⟩, ⟨"INST2", 21, 16, .rw, 0, .hw⟩, ⟨"INST3", 29, 24, .rw, 0, .hw⟩] -- R441
  | .PRT_TOWN => [⟨"EPOCH", 15, 8, .ro, 0, .hw⟩, ⟨"ASSIGNED", 6, 6, .ro, 0, .hw⟩, ⟨"INST", 5, 0, .ro, 0, .hw⟩] -- R441
  | .PRT_TRST => [⟨"BUSY", 1, 1, .ro, 0, .hw⟩, ⟨"GO", 0, 0, .w1s, 0, .sw⟩] -- R441
  | .PRT_ERST => [⟨"ENG", 7, 0, .w1s, 0, .sw⟩] -- R441
  | .SNP_CTL => [⟨"GATED", 4, 4, .ro, 0, .hw⟩, ⟨"LATE", 3, 3, .ro, 0, .hw⟩, ⟨"HELD", 2, 2, .ro, 0, .hw⟩, ⟨"VIEW", 1, 1, .rw, 0, .sw⟩, ⟨"ARM", 0, 0, .w1s, 0, .sw⟩] -- R512
  | .SNP_TRIG => [⟨"GO", 0, 0, .w1s, 0, .sw⟩] -- R512
  | .SNP_SRC => [⟨"OUTEN", 4, 4, .rw, 0, .sw⟩, ⟨"THR", 3, 3, .rw, 0, .sw⟩, ⟨"ERR", 2, 2, .rw, 0, .sw⟩, ⟨"WR", 1, 1, .rw, 1, .sw⟩, ⟨"PIN", 0, 0, .rw, 0, .sw⟩] -- R512
  | .SNP_LAST_LO => [⟨"T", 31, 0, .ro, 0, .hw⟩] -- R512
  | .SNP_LAST_HI => [⟨"T", 31, 0, .ro, 0, .hw⟩] -- R512
  | .SNP_CAUSE => [⟨"TILE", 9, 4, .ro, 0, .hw⟩, ⟨"SRC", 3, 0, .ro, 0, .hw⟩] -- R512
  | .SNP_ERRMASK => [⟨"BLK", 14, 0, .rw, 0, .sw⟩] -- R512
  | .SNP_THADDR => [⟨"OFS", 23, 2, .rw, 0, .sw⟩] -- R512
  | .SNP_THVAL => [⟨"VAL", 31, 0, .rw, 4294967295, .sw⟩] -- R512
  | .SNP_CNT => [⟨"MISSED", 31, 16, .rc, 0, .mrg⟩, ⟨"LATCHES", 15, 0, .rc, 0, .mrg⟩] -- R512
  | .SNP_DGSEL => [⟨"SLOT", 7, 0, .rw, 0, .sw⟩] -- R512
  | .SNP_DGCFG => [⟨"PAGES", 31, 16, .rw, 0, .sw⟩, ⟨"EN", 0, 0, .rw, 0, .shd⟩] -- R512
  | .SNP_DGBASE_LO => [⟨"BASE_LO", 31, 12, .rw, 0, .sw⟩] -- R512
  | .SNP_DGBASE_HI => [⟨"BASE_HI", 7, 0, .rw, 0, .sw⟩] -- R512
  | .SNP_DBGADDR => [⟨"ADDR", 25, 2, .rw, 0, .sw⟩] -- R512
  | .SNP_DBGDATA => [⟨"DATA", 31, 0, .rw, 0, .sw⟩] -- R512
  | .HSP_STAT => [⟨"OPEN", 31, 31, .ro, 0, .hw⟩, ⟨"TAINT", 30, 30, .ro, 0, .hw⟩, ⟨"SCOPE", 29, 25, .ro, 0, .hw⟩, ⟨"REMAIN", 21, 11, .ro, 0, .hw⟩, ⟨"LOCKOUT", 10, 4, .ro, 0, .hw⟩, ⟨"FAILS", 3, 0, .ro, 0, .hw⟩] -- R513
  | .HSP_CMD => [⟨"PWSET", 4, 4, .w1s, 0, .sw⟩, ⟨"PWSUBMIT", 3, 3, .w1s, 0, .sw⟩, ⟨"SUBMIT", 2, 2, .w1s, 0, .sw⟩, ⟨"CLOSE", 1, 1, .w1s, 0, .sw⟩, ⟨"CHAL", 0, 0, .w1s, 0, .sw⟩] -- R513
  | .HSP_REQ => [⟨"MINUTES", 31, 16, .rw, 60, .sw⟩, ⟨"SCOPE", 4, 0, .rw, 0, .sw⟩] -- R513
  | .HSP_NONCE => [⟨"NONCE", 31, 0, .ro, 0, .hw⟩] -- R513
  | .HSP_RESP => [⟨"MAC", 31, 0, .wo, 0, .sw⟩] -- R513
  | .HSP_PW => [⟨"PW", 31, 0, .wo, 0, .sw⟩] -- R513
  | .HSP_PWLEN => [⟨"LEN", 6, 0, .rw, 0, .sw⟩] -- R513
  | .HSP_ACT => [⟨"GO", 31, 31, .w1s, 0, .sw⟩, ⟨"OP", 19, 16, .rw, 0, .sw⟩, ⟨"ARG", 9, 0, .rw, 0, .sw⟩] -- R513
  | .HSP_LAST => [⟨"STATUS", 15, 0, .ro, 0, .hw⟩] -- R513
  | .HSP_CNT => [⟨"DBGWR", 31, 16, .rc, 0, .mrg⟩, ⟨"DENIED", 15, 0, .rc, 0, .mrg⟩] -- R513
  | .MGT_REGERR => [⟨"ERR", 31, 31, .w1c, 0, .hw⟩, ⟨"CAUSE", 25, 22, .ro, 0, .hw⟩, ⟨"REQ", 21, 19, .ro, 0, .hw⟩, ⟨"OFFSET", 18, 2, .ro, 0, .hw⟩] -- R535
  | .MGT_REGERRCNT => [⟨"COUNT", 31, 0, .rc, 0, .mrg⟩] -- R535
  | .ARR_REGERR => [⟨"ERR", 31, 31, .w1c, 0, .hw⟩, ⟨"CAUSE", 25, 22, .ro, 0, .hw⟩, ⟨"REQ", 21, 19, .ro, 0, .hw⟩, ⟨"OFFSET", 18, 2, .ro, 0, .hw⟩] -- R535
  | .ARR_REGERRCNT => [⟨"COUNT", 31, 0, .rc, 0, .mrg⟩] -- R535
  | .SFU_REGERR => [⟨"ERR", 31, 31, .w1c, 0, .hw⟩, ⟨"CAUSE", 25, 22, .ro, 0, .hw⟩, ⟨"REQ", 21, 19, .ro, 0, .hw⟩, ⟨"OFFSET", 18, 2, .ro, 0, .hw⟩] -- R535
  | .SFU_REGERRCNT => [⟨"COUNT", 31, 0, .rc, 0, .mrg⟩] -- R535
  | .ECE_REGERR => [⟨"ERR", 31, 31, .w1c, 0, .hw⟩, ⟨"CAUSE", 25, 22, .ro, 0, .hw⟩, ⟨"REQ", 21, 19, .ro, 0, .hw⟩, ⟨"OFFSET", 18, 2, .ro, 0, .hw⟩] -- R535
  | .ECE_REGERRCNT => [⟨"COUNT", 31, 0, .rc, 0, .mrg⟩] -- R535
  | .SCE_REGERR => [⟨"ERR", 31, 31, .w1c, 0, .hw⟩, ⟨"CAUSE", 25, 22, .ro, 0, .hw⟩, ⟨"REQ", 21, 19, .ro, 0, .hw⟩, ⟨"OFFSET", 18, 2, .ro, 0, .hw⟩] -- R535
  | .SCE_REGERRCNT => [⟨"COUNT", 31, 0, .rc, 0, .mrg⟩] -- R535
  | .SMV_REGERR => [⟨"ERR", 31, 31, .w1c, 0, .hw⟩, ⟨"CAUSE", 25, 22, .ro, 0, .hw⟩, ⟨"REQ", 21, 19, .ro, 0, .hw⟩, ⟨"OFFSET", 18, 2, .ro, 0, .hw⟩] -- R535
  | .SMV_REGERRCNT => [⟨"COUNT", 31, 0, .rc, 0, .mrg⟩] -- R535
  | .BAL_REGERR => [⟨"ERR", 31, 31, .w1c, 0, .hw⟩, ⟨"CAUSE", 25, 22, .ro, 0, .hw⟩, ⟨"REQ", 21, 19, .ro, 0, .hw⟩, ⟨"OFFSET", 18, 2, .ro, 0, .hw⟩] -- R535
  | .BAL_REGERRCNT => [⟨"COUNT", 31, 0, .rc, 0, .mrg⟩] -- R535
  | .MEM_REGERR => [⟨"ERR", 31, 31, .w1c, 0, .hw⟩, ⟨"CAUSE", 25, 22, .ro, 0, .hw⟩, ⟨"REQ", 21, 19, .ro, 0, .hw⟩, ⟨"OFFSET", 18, 2, .ro, 0, .hw⟩] -- R535
  | .MEM_REGERRCNT => [⟨"COUNT", 31, 0, .rc, 0, .mrg⟩] -- R535
  | .YRD_REGERR => [⟨"ERR", 31, 31, .w1c, 0, .hw⟩, ⟨"CAUSE", 25, 22, .ro, 0, .hw⟩, ⟨"REQ", 21, 19, .ro, 0, .hw⟩, ⟨"OFFSET", 18, 2, .ro, 0, .hw⟩] -- R535
  | .YRD_REGERRCNT => [⟨"COUNT", 31, 0, .rc, 0, .mrg⟩] -- R535
  | .LNK_REGERR => [⟨"ERR", 31, 31, .w1c, 0, .hw⟩, ⟨"CAUSE", 25, 22, .ro, 0, .hw⟩, ⟨"REQ", 21, 19, .ro, 0, .hw⟩, ⟨"OFFSET", 18, 2, .ro, 0, .hw⟩] -- R535
  | .LNK_REGERRCNT => [⟨"COUNT", 31, 0, .rc, 0, .mrg⟩] -- R535
  | .ING_REGERR => [⟨"ERR", 31, 31, .w1c, 0, .hw⟩, ⟨"CAUSE", 25, 22, .ro, 0, .hw⟩, ⟨"REQ", 21, 19, .ro, 0, .hw⟩, ⟨"OFFSET", 18, 2, .ro, 0, .hw⟩] -- R535
  | .ING_REGERRCNT => [⟨"COUNT", 31, 0, .rc, 0, .mrg⟩] -- R535
  | .FXG_REGERR => [⟨"ERR", 31, 31, .w1c, 0, .hw⟩, ⟨"CAUSE", 25, 22, .ro, 0, .hw⟩, ⟨"REQ", 21, 19, .ro, 0, .hw⟩, ⟨"OFFSET", 18, 2, .ro, 0, .hw⟩] -- R535
  | .FXG_REGERRCNT => [⟨"COUNT", 31, 0, .rc, 0, .mrg⟩] -- R535
  | .PRT_REGERR => [⟨"ERR", 31, 31, .w1c, 0, .hw⟩, ⟨"CAUSE", 25, 22, .ro, 0, .hw⟩, ⟨"REQ", 21, 19, .ro, 0, .hw⟩, ⟨"OFFSET", 18, 2, .ro, 0, .hw⟩] -- R535
  | .PRT_REGERRCNT => [⟨"COUNT", 31, 0, .rc, 0, .mrg⟩] -- R535
  | .SNP_REGERR => [⟨"ERR", 31, 31, .w1c, 0, .hw⟩, ⟨"CAUSE", 25, 22, .ro, 0, .hw⟩, ⟨"REQ", 21, 19, .ro, 0, .hw⟩, ⟨"OFFSET", 18, 2, .ro, 0, .hw⟩] -- R535
  | .SNP_REGERRCNT => [⟨"COUNT", 31, 0, .rc, 0, .mrg⟩] -- R535
  | .HSP_REGERR => [⟨"ERR", 31, 31, .w1c, 0, .hw⟩, ⟨"CAUSE", 25, 22, .ro, 0, .hw⟩, ⟨"REQ", 21, 19, .ro, 0, .hw⟩, ⟨"OFFSET", 18, 2, .ro, 0, .hw⟩] -- R535
  | .HSP_REGERRCNT => [⟨"COUNT", 31, 0, .rc, 0, .mrg⟩] -- R535

/-- Every register, in the order of the index, in pieces. -/
def Reg.all0 : List Reg :=
  [.MGT_PARTID, .MGT_PARTCAP, .MGT_TILEMAP_LO, .MGT_TILEMAP_HI, .MGT_BOOTSTAT, .MGT_BOOTIMG, .MGT_HBMCFG, .MGT_HBMTAKE,
   .MGT_RPTPTR, .MGT_FUSESEC, .MGT_DEVID_LO, .MGT_DEVID_HI, .MGT_DLCNT, .MGT_PWRCFG, .MGT_PWRSTAT, .MGT_PWRNOW,
   .MGT_PWRSTEPS, .MGT_THERM, .MGT_RAIL, .MGT_GREGERR, .MGT_GREGERRCNT, .MGT_RPT, .MGT_TILEROLE, .MGT_SLPCFG,
   .MGT_SLPSTAT, .MGT_WAKETIME_LO, .MGT_WAKETIME_HI, .MGT_WAKECNT, .MGT_CLKSTAT, .MGT_TJ, .ARR_CTL, .ARR_QCTL,
   .ARR_QSTAT, .ARR_CUR, .ARR_ERRSTAT, .ARR_ERRCNT, .ARR_BUSYCNT, .ARR_MACCNT, .ARR_FENCECNT, .ARR_FILLCNT,
   .ARR_HALOCNT, .ARR_SPILLCNT, .ARR_FREQCNT, .ARR_CVCTL, .ARR_CVSEL, .ARR_CVCNT, .ARR_CVSSE_LO, .ARR_CVSSE_HI,
   .ARR_CVSSX_LO, .ARR_CVSSX_HI, .ARR_CVSAT, .ARR_CVNAN, .ARR_BRSTAT, .ARR_BRREF, .ARR_BRSAT, .SFU_CTL,
   .SFU_STAT, .SFU_MPRES, .SFU_ERRSTAT, .SFU_ERRCNT, .SFU_EVALCNT, .SFU_COMPATCNT, .SFU_NANCNT, .SFU_STALLCNT,
   .ECE_CTL, .ECE_LANECFG, .ECE_TSET, .ECE_INFLIGHT, .ECE_ERRSTAT, .ECE_ERRLOC]
def Reg.all1 : List Reg :=
  [.ECE_ERRCNT, .ECE_ESCCNT, .ECE_STEPCNT, .ECE_TSETPROG, .ECE_LSCSEL, .ECE_LSCCTL, .ECE_LSCCMD, .ECE_LSCLIVE0,
   .ECE_LSCLIVE1, .ECE_RCSTAT, .ECE_LSCCNT, .ECE_LSCW0, .ECE_LSCW1, .ECE_LSCW2, .ECE_LSCW3, .ECE_LSCW4,
   .ECE_LSCW5, .ECE_LSCW6, .ECE_LSCW7, .ECE_OSFSTAT, .ECE_OSFCNT0, .ECE_OSFCNT1, .ECE_OSFCNT2, .ECE_TAPCFG,
   .ECE_TAPSTAT, .ECE_TAPCNT, .SCE_CTL, .SCE_STAT, .SCE_ERRSTAT, .SCE_ERRLOC, .SCE_ERRCNT, .SCE_PICCNT,
   .SCE_SWCNT, .SCE_BUSYCNT, .SCE_SSEL, .SCE_SCTL, .SCE_SCMD, .SCE_SLIVE0, .SCE_SLIVE1, .SCE_RCSTAT,
   .SCE_SCNT, .SCE_SCNT2, .SCE_SW0, .SCE_SW1, .SCE_SW2, .SCE_SW3, .SCE_SW4, .SCE_SW5,
   .SCE_SW6, .SCE_SW7, .SMV_CTL, .SMV_TAGS, .SMV_TAGSTALL, .SMV_HBMSPLIT, .SMV_ERRSTAT, .SMV_ERRCNT,
   .SMV_CQSTALL, .SMV_RESIDENT, .SMV_QCFG, .SMV_QBASE_LO, .SMV_QBASE_HI, .SMV_QSTG, .SMV_QTAIL, .SMV_QHEAD,
   .SMV_SQBASE_LO, .SMV_SQBASE_HI, .SMV_SQCFG, .SMV_SQTAIL, .SMV_SQHEAD, .SMV_CQBASE_LO]
def Reg.all2 : List Reg :=
  [.SMV_CQBASE_HI, .SMV_CQCFG, .SMV_CQHEAD, .SMV_CQTAIL, .SMV_ERBASE_LO, .SMV_ERBASE_HI, .SMV_ERCFG, .SMV_ERHEAD,
   .SMV_ERTAIL, .SMV_ERDROP, .SMV_SSEL, .SMV_SLIVE0, .SMV_SLIVE1, .SMV_SCOND0, .SMV_SCOND1, .SMV_SCOND2,
   .SMV_SCOND3, .BAL_CTL, .BAL_ERRSTAT, .BAL_ERRCNT, .BAL_CLSCNT, .BAL_RMWCNT, .BAL_YSAVED, .MEM_WSCFG,
   .MEM_WSECC, .MEM_WCCTL, .MEM_WCHIT, .MEM_WCMISS, .MEM_WCINV, .MEM_WCSERVE_LO, .MEM_WCSERVE_HI, .MEM_HBMSTAT,
   .MEM_HBMECC, .MEM_HBMSCRUB, .MEM_ERRSTAT, .MEM_ERRCNT, .YRD_STAT, .YRD_QCTL, .YRD_ERRSTAT, .YRD_ERRCNT,
   .YRD_EDGEEVT, .YRD_REPLAY, .YRD_ABSORB, .YRD_FLIT, .YRD_RT, .LNK_CTL, .LNK_QUADCFG, .LNK_LANESTAT,
   .LNK_ERRSTAT, .LNK_ERRCNT, .LNK_RXDROP, .LNK_FECCNT, .LNK_FLOWS, .LNK_LRETRY, .LNK_PATHEVT, .LNK_SSEL,
   .LNK_SW0, .LNK_SW1, .LNK_SCNT, .LNK_MVCFG, .LNK_MVPEER_LO, .LNK_MVPEER_HI, .LNK_MVSTAT, .LNK_PTPCFG,
   .LNK_PTPSTAT, .LNK_PTPOFS, .LNK_PUBCTL, .LNK_PUBBASE_LO, .LNK_PUBBASE_HI, .LNK_HWSEL]
def Reg.all3 : List Reg :=
  [.LNK_HWE_LO, .LNK_HWE_HI, .LNK_APER_LO, .LNK_APER_HI, .LNK_PCISTAT, .LNK_LBLCTL, .LNK_LBLBASE_LO, .LNK_LBLBASE_HI,
   .LNK_LBLCNT0, .LNK_LBLCNT1, .ING_CTL, .ING_SSEL, .ING_SCTL, .ING_SLIVE0, .ING_SCNT0, .ING_SCNT1,
   .ING_SW0, .ING_SW1, .ING_SW2, .ING_SW3, .ING_SW4, .FXG_CTL, .FXG_HDSEL, .FXG_HDSTAT,
   .FXG_HDGEN, .FXG_HDCNT, .FXG_HDW0, .FXG_HDW1, .FXG_HDW2, .FXG_HDW3, .FXG_HDW4, .FXG_HDW5,
   .FXG_ADPSTAT, .FXG_ADPSTEP, .FXG_ADPLOSS, .PRT_ISEL, .PRT_ICMD, .PRT_ISTAT, .PRT_ITILES_LO, .PRT_ITILES_HI,
   .PRT_IFLIGHT, .PRT_ILAST, .PRT_IRSTCNT, .PRT_ERRSTAT, .PRT_ERRCNT, .PRT_ESC, .PRT_ESCCFG, .PRT_PKGRST,
   .PRT_MOWN, .PRT_TOWN, .PRT_TRST, .PRT_ERST, .SNP_CTL, .SNP_TRIG, .SNP_SRC, .SNP_LAST_LO,
   .SNP_LAST_HI, .SNP_CAUSE, .SNP_ERRMASK, .SNP_THADDR, .SNP_THVAL, .SNP_CNT, .SNP_DGSEL, .SNP_DGCFG,
   .SNP_DGBASE_LO, .SNP_DGBASE_HI, .SNP_DBGADDR, .SNP_DBGDATA, .HSP_STAT, .HSP_CMD]
def Reg.all4 : List Reg :=
  [.HSP_REQ, .HSP_NONCE, .HSP_RESP, .HSP_PW, .HSP_PWLEN, .HSP_ACT, .HSP_LAST, .HSP_CNT,
   .MGT_REGERR, .MGT_REGERRCNT, .ARR_REGERR, .ARR_REGERRCNT, .SFU_REGERR, .SFU_REGERRCNT, .ECE_REGERR, .ECE_REGERRCNT,
   .SCE_REGERR, .SCE_REGERRCNT, .SMV_REGERR, .SMV_REGERRCNT, .BAL_REGERR, .BAL_REGERRCNT, .MEM_REGERR, .MEM_REGERRCNT,
   .YRD_REGERR, .YRD_REGERRCNT, .LNK_REGERR, .LNK_REGERRCNT, .ING_REGERR, .ING_REGERRCNT, .FXG_REGERR, .FXG_REGERRCNT,
   .PRT_REGERR, .PRT_REGERRCNT, .SNP_REGERR, .SNP_REGERRCNT, .HSP_REGERR, .HSP_REGERRCNT]

/-- Every register of the device. -/
def Reg.all : List Reg := Reg.all0 ++ Reg.all1 ++ Reg.all2 ++ Reg.all3 ++ Reg.all4

/-- A field by its register and bits. -/
structure Fld where
  reg : Reg
  hi : Nat
  lo : Nat
  deriving DecidableEq, Repr

/-! The fields by the name `<REGISTER>_<FIELD>`. -/
namespace F
def MGT_PARTID_PART : Fld := ⟨.MGT_PARTID, 31, 16⟩
def MGT_PARTID_VARIANT : Fld := ⟨.MGT_PARTID, 15, 12⟩
def MGT_PARTID_STEPPING : Fld := ⟨.MGT_PARTID, 11, 8⟩
def MGT_PARTID_TILES_OK : Fld := ⟨.MGT_PARTID, 6, 0⟩
def MGT_PARTCAP_PKG_W_MAX : Fld := ⟨.MGT_PARTCAP, 31, 16⟩
def MGT_PARTCAP_CORE_MHZ_MAX : Fld := ⟨.MGT_PARTCAP, 15, 0⟩
def MGT_TILEMAP_LO_INSVC : Fld := ⟨.MGT_TILEMAP_LO, 31, 0⟩
def MGT_TILEMAP_HI_INSVC : Fld := ⟨.MGT_TILEMAP_HI, 31, 0⟩
def MGT_BOOTSTAT_STARTS : Fld := ⟨.MGT_BOOTSTAT, 31, 16⟩
def MGT_BOOTSTAT_DLFULL : Fld := ⟨.MGT_BOOTSTAT, 9, 9⟩
def MGT_BOOTSTAT_DLLOST : Fld := ⟨.MGT_BOOTSTAT, 8, 8⟩
def MGT_BOOTSTAT_AUTHFAIL : Fld := ⟨.MGT_BOOTSTAT, 7, 7⟩
def MGT_BOOTSTAT_FALLBACK : Fld := ⟨.MGT_BOOTSTAT, 6, 6⟩
def MGT_BOOTSTAT_QUICK : Fld := ⟨.MGT_BOOTSTAT, 5, 5⟩
def MGT_BOOTSTAT_IMAGE : Fld := ⟨.MGT_BOOTSTAT, 4, 4⟩
def MGT_BOOTSTAT_STAGE : Fld := ⟨.MGT_BOOTSTAT, 3, 0⟩
def MGT_BOOTIMG_SEQ : Fld := ⟨.MGT_BOOTIMG, 31, 0⟩
def MGT_HBMCFG_INSVC : Fld := ⟨.MGT_HBMCFG, 31, 16⟩
def MGT_HBMCFG_UNITS : Fld := ⟨.MGT_HBMCFG, 8, 0⟩
def MGT_HBMTAKE_TAKE : Fld := ⟨.MGT_HBMTAKE, 15, 0⟩
def MGT_RPTPTR_FIRST : Fld := ⟨.MGT_RPTPTR, 13, 8⟩
def MGT_RPTPTR_NEXT : Fld := ⟨.MGT_RPTPTR, 5, 0⟩
def MGT_FUSESEC_KEYPRG : Fld := ⟨.MGT_FUSESEC, 14, 11⟩
def MGT_FUSESEC_KEYREV : Fld := ⟨.MGT_FUSESEC, 10, 7⟩
def MGT_FUSESEC_SVN : Fld := ⟨.MGT_FUSESEC, 6, 0⟩
def MGT_DEVID_LO_DEVID : Fld := ⟨.MGT_DEVID_LO, 31, 0⟩
def MGT_DEVID_HI_DEVID : Fld := ⟨.MGT_DEVID_HI, 31, 0⟩
def MGT_DLCNT_COUNT : Fld := ⟨.MGT_DLCNT, 10, 0⟩
def MGT_PWRCFG_TJ_THR : Fld := ⟨.MGT_PWRCFG, 23, 16⟩
def MGT_PWRCFG_CAPMHZ : Fld := ⟨.MGT_PWRCFG, 11, 0⟩
def MGT_PWRSTAT_TRIP : Fld := ⟨.MGT_PWRSTAT, 31, 31⟩
def MGT_PWRSTAT_FLOOR : Fld := ⟨.MGT_PWRSTAT, 30, 30⟩
def MGT_PWRSTAT_UV : Fld := ⟨.MGT_PWRSTAT, 29, 29⟩
def MGT_PWRSTAT_THROTTLE : Fld := ⟨.MGT_PWRSTAT, 28, 28⟩
def MGT_PWRSTAT_LIMIT : Fld := ⟨.MGT_PWRSTAT, 27, 27⟩
def MGT_PWRSTAT_UVRAIL : Fld := ⟨.MGT_PWRSTAT, 23, 20⟩
def MGT_PWRSTAT_CORE_MHZ : Fld := ⟨.MGT_PWRSTAT, 11, 0⟩
def MGT_PWRNOW_PEAK_W : Fld := ⟨.MGT_PWRNOW, 31, 16⟩
def MGT_PWRNOW_AVG_W : Fld := ⟨.MGT_PWRNOW, 15, 0⟩
def MGT_PWRSTEPS_UP : Fld := ⟨.MGT_PWRSTEPS, 31, 16⟩
def MGT_PWRSTEPS_DOWN : Fld := ⟨.MGT_PWRSTEPS, 15, 0⟩
def MGT_THERM_HOTMIN : Fld := ⟨.MGT_THERM, 31, 16⟩
def MGT_THERM_HOTTILE : Fld := ⟨.MGT_THERM, 13, 8⟩
def MGT_THERM_TJMAX : Fld := ⟨.MGT_THERM, 7, 0⟩
def MGT_RAIL_MV : Fld := ⟨.MGT_RAIL, 31, 16⟩
def MGT_RAIL_DECIAMP : Fld := ⟨.MGT_RAIL, 15, 0⟩
def MGT_GREGERR_ERR : Fld := ⟨.MGT_GREGERR, 31, 31⟩
def MGT_GREGERR_CAUSE : Fld := ⟨.MGT_GREGERR, 25, 22⟩
def MGT_GREGERR_REQ : Fld := ⟨.MGT_GREGERR, 21, 19⟩
def MGT_GREGERR_OFFSET : Fld := ⟨.MGT_GREGERR, 18, 2⟩
def MGT_GREGERRCNT_COUNT : Fld := ⟨.MGT_GREGERRCNT, 31, 0⟩
def MGT_RPT_WORD : Fld := ⟨.MGT_RPT, 31, 0⟩
def MGT_TILEROLE_TILE : Fld := ⟨.MGT_TILEROLE, 29, 24⟩
def MGT_TILEROLE_LINKIDX : Fld := ⟨.MGT_TILEROLE, 19, 16⟩
def MGT_TILEROLE_HALF : Fld := ⟨.MGT_TILEROLE, 12, 12⟩
def MGT_TILEROLE_STACK : Fld := ⟨.MGT_TILEROLE, 11, 8⟩
def MGT_TILEROLE_BOOTMASTER : Fld := ⟨.MGT_TILEROLE, 5, 5⟩
def MGT_TILEROLE_BOOTCAND : Fld := ⟨.MGT_TILEROLE, 4, 4⟩
def MGT_TILEROLE_PADDOCK : Fld := ⟨.MGT_TILEROLE, 3, 3⟩
def MGT_TILEROLE_PCIE : Fld := ⟨.MGT_TILEROLE, 2, 2⟩
def MGT_TILEROLE_LANES : Fld := ⟨.MGT_TILEROLE, 1, 1⟩
def MGT_TILEROLE_HBM : Fld := ⟨.MGT_TILEROLE, 0, 0⟩
def MGT_SLPCFG_PGATE : Fld := ⟨.MGT_SLPCFG, 16, 16⟩
def MGT_SLPCFG_IDLE_US : Fld := ⟨.MGT_SLPCFG, 15, 0⟩
def MGT_SLPSTAT_LASTWAKE : Fld := ⟨.MGT_SLPSTAT, 6, 4⟩
def MGT_SLPSTAT_STATE : Fld := ⟨.MGT_SLPSTAT, 2, 0⟩
def MGT_WAKETIME_LO_TIME_LO : Fld := ⟨.MGT_WAKETIME_LO, 31, 0⟩
def MGT_WAKETIME_HI_TIME_HI : Fld := ⟨.MGT_WAKETIME_HI, 31, 0⟩
def MGT_WAKECNT_SLEEPS : Fld := ⟨.MGT_WAKECNT, 31, 16⟩
def MGT_WAKECNT_WAKES : Fld := ⟨.MGT_WAKECNT, 15, 0⟩
def MGT_CLKSTAT_CHANGING : Fld := ⟨.MGT_CLKSTAT, 12, 12⟩
def MGT_CLKSTAT_CORE_MHZ : Fld := ⟨.MGT_CLKSTAT, 11, 0⟩
def MGT_TJ_MAX : Fld := ⟨.MGT_TJ, 15, 8⟩
def MGT_TJ_NOW : Fld := ⟨.MGT_TJ, 7, 0⟩
def ARR_CTL_STATE : Fld := ⟨.ARR_CTL, 3, 2⟩
def ARR_CTL_PENDING_EN : Fld := ⟨.ARR_CTL, 1, 1⟩
def ARR_CTL_EN : Fld := ⟨.ARR_CTL, 0, 0⟩
def ARR_QCTL_QEN : Fld := ⟨.ARR_QCTL, 3, 0⟩
def ARR_QSTAT_FENCEWAIT : Fld := ⟨.ARR_QSTAT, 31, 28⟩
def ARR_QSTAT_Q3 : Fld := ⟨.ARR_QSTAT, 23, 18⟩
def ARR_QSTAT_Q2 : Fld := ⟨.ARR_QSTAT, 17, 12⟩
def ARR_QSTAT_Q1 : Fld := ⟨.ARR_QSTAT, 11, 6⟩
def ARR_QSTAT_Q0 : Fld := ⟨.ARR_QSTAT, 5, 0⟩
def ARR_CUR_BUSY : Fld := ⟨.ARR_CUR, 31, 31⟩
def ARR_CUR_QUEUE : Fld := ⟨.ARR_CUR, 30, 29⟩
def ARR_CUR_STREAM : Fld := ⟨.ARR_CUR, 13, 0⟩
def ARR_ERRSTAT_ERR : Fld := ⟨.ARR_ERRSTAT, 31, 31⟩
def ARR_ERRSTAT_CODE : Fld := ⟨.ARR_ERRSTAT, 25, 22⟩
def ARR_ERRSTAT_STREAM : Fld := ⟨.ARR_ERRSTAT, 21, 8⟩
def ARR_ERRSTAT_QUEUE : Fld := ⟨.ARR_ERRSTAT, 1, 0⟩
def ARR_ERRCNT_COUNT : Fld := ⟨.ARR_ERRCNT, 31, 0⟩
def ARR_BUSYCNT_COUNT : Fld := ⟨.ARR_BUSYCNT, 31, 0⟩
def ARR_MACCNT_COUNT : Fld := ⟨.ARR_MACCNT, 31, 0⟩
def ARR_FENCECNT_COUNT : Fld := ⟨.ARR_FENCECNT, 31, 0⟩
def ARR_FILLCNT_COUNT : Fld := ⟨.ARR_FILLCNT, 31, 0⟩
def ARR_HALOCNT_COUNT : Fld := ⟨.ARR_HALOCNT, 31, 0⟩
def ARR_SPILLCNT_COUNT : Fld := ⟨.ARR_SPILLCNT, 31, 0⟩
def ARR_FREQCNT_COUNT : Fld := ⟨.ARR_FREQCNT, 31, 0⟩
def ARR_CVCTL_CLR : Fld := ⟨.ARR_CVCTL, 2, 2⟩
def ARR_CVCTL_ALL : Fld := ⟨.ARR_CVCTL, 1, 1⟩
def ARR_CVCTL_EN : Fld := ⟨.ARR_CVCTL, 0, 0⟩
def ARR_CVSEL_STREAM : Fld := ⟨.ARR_CVSEL, 29, 16⟩
def ARR_CVSEL_LAYER : Fld := ⟨.ARR_CVSEL, 15, 0⟩
def ARR_CVCNT_COUNT : Fld := ⟨.ARR_CVCNT, 31, 0⟩
def ARR_CVSSE_LO_SSE_LO : Fld := ⟨.ARR_CVSSE_LO, 31, 0⟩
def ARR_CVSSE_HI_SSE_HI : Fld := ⟨.ARR_CVSSE_HI, 31, 0⟩
def ARR_CVSSX_LO_SSX_LO : Fld := ⟨.ARR_CVSSX_LO, 31, 0⟩
def ARR_CVSSX_HI_SSX_HI : Fld := ⟨.ARR_CVSSX_HI, 31, 0⟩
def ARR_CVSAT_COUNT : Fld := ⟨.ARR_CVSAT, 31, 0⟩
def ARR_CVNAN_COUNT : Fld := ⟨.ARR_CVNAN, 31, 0⟩
def ARR_BRSTAT_VIOL : Fld := ⟨.ARR_BRSTAT, 24, 24⟩
def ARR_BRSTAT_STREAM : Fld := ⟨.ARR_BRSTAT, 21, 8⟩
def ARR_BRSTAT_LASTVIOL : Fld := ⟨.ARR_BRSTAT, 7, 0⟩
def ARR_BRREF_COUNT : Fld := ⟨.ARR_BRREF, 31, 0⟩
def ARR_BRSAT_COUNT : Fld := ⟨.ARR_BRSAT, 31, 0⟩
def SFU_CTL_STATE : Fld := ⟨.SFU_CTL, 3, 2⟩
def SFU_CTL_PENDING_EN : Fld := ⟨.SFU_CTL, 1, 1⟩
def SFU_CTL_EN : Fld := ⟨.SFU_CTL, 0, 0⟩
def SFU_STAT_FUSED : Fld := ⟨.SFU_STAT, 31, 31⟩
def SFU_STAT_ITEM : Fld := ⟨.SFU_STAT, 30, 30⟩
def SFU_STAT_FUNC : Fld := ⟨.SFU_STAT, 29, 27⟩
def SFU_STAT_COMPAT : Fld := ⟨.SFU_STAT, 26, 26⟩
def SFU_STAT_STREAM : Fld := ⟨.SFU_STAT, 13, 0⟩
def SFU_MPRES_INUSE : Fld := ⟨.SFU_MPRES, 31, 16⟩
def SFU_MPRES_VALID : Fld := ⟨.SFU_MPRES, 15, 0⟩
def SFU_ERRSTAT_ERR : Fld := ⟨.SFU_ERRSTAT, 31, 31⟩
def SFU_ERRSTAT_CODE : Fld := ⟨.SFU_ERRSTAT, 25, 22⟩
def SFU_ERRSTAT_STREAM : Fld := ⟨.SFU_ERRSTAT, 21, 8⟩
def SFU_ERRCNT_COUNT : Fld := ⟨.SFU_ERRCNT, 31, 0⟩
def SFU_EVALCNT_COUNT : Fld := ⟨.SFU_EVALCNT, 31, 0⟩
def SFU_COMPATCNT_COUNT : Fld := ⟨.SFU_COMPATCNT, 31, 0⟩
def SFU_NANCNT_COUNT : Fld := ⟨.SFU_NANCNT, 31, 0⟩
def SFU_STALLCNT_COUNT : Fld := ⟨.SFU_STALLCNT, 31, 0⟩
def ECE_CTL_STATE : Fld := ⟨.ECE_CTL, 3, 2⟩
def ECE_CTL_PENDING_EN : Fld := ⟨.ECE_CTL, 1, 1⟩
def ECE_CTL_EN : Fld := ⟨.ECE_CTL, 0, 0⟩
def ECE_LANECFG_PHYMASK : Fld := ⟨.ECE_LANECFG, 15, 8⟩
def ECE_LANECFG_NPHY : Fld := ⟨.ECE_LANECFG, 3, 0⟩
def ECE_TSET_PINNED : Fld := ⟨.ECE_TSET, 15, 8⟩
def ECE_TSET_VALID : Fld := ⟨.ECE_TSET, 7, 0⟩
def ECE_INFLIGHT_ITEMS : Fld := ⟨.ECE_INFLIGHT, 4, 0⟩
def ECE_ERRSTAT_ERR : Fld := ⟨.ECE_ERRSTAT, 31, 31⟩
def ECE_ERRSTAT_CODE : Fld := ⟨.ECE_ERRSTAT, 25, 22⟩
def ECE_ERRSTAT_STREAM : Fld := ⟨.ECE_ERRSTAT, 21, 8⟩
def ECE_ERRLOC_PLOT : Fld := ⟨.ECE_ERRLOC, 31, 16⟩
def ECE_ERRLOC_FRAME : Fld := ⟨.ECE_ERRLOC, 15, 0⟩
def ECE_ERRCNT_COUNT : Fld := ⟨.ECE_ERRCNT, 31, 0⟩
def ECE_ESCCNT_COUNT : Fld := ⟨.ECE_ESCCNT, 31, 0⟩
def ECE_STEPCNT_COUNT : Fld := ⟨.ECE_STEPCNT, 31, 0⟩
def ECE_TSETPROG_PROG_ID : Fld := ⟨.ECE_TSETPROG, 15, 0⟩
def ECE_LSCSEL_SLOT : Fld := ⟨.ECE_LSCSEL, 7, 0⟩
def ECE_LSCCTL_HOLD : Fld := ⟨.ECE_LSCCTL, 0, 0⟩
def ECE_LSCCMD_RCRESET : Fld := ⟨.ECE_LSCCMD, 1, 1⟩
def ECE_LSCCMD_KEYREQ : Fld := ⟨.ECE_LSCCMD, 0, 0⟩
def ECE_LSCLIVE0_FRAME : Fld := ⟨.ECE_LSCLIVE0, 31, 0⟩
def ECE_LSCLIVE1_SHDPEND : Fld := ⟨.ECE_LSCLIVE1, 26, 26⟩
def ECE_LSCLIVE1_QD : Fld := ⟨.ECE_LSCLIVE1, 25, 20⟩
def ECE_LSCLIVE1_QK : Fld := ⟨.ECE_LSCLIVE1, 19, 14⟩
def ECE_LSCLIVE1_KEYPEND : Fld := ⟨.ECE_LSCLIVE1, 11, 11⟩
def ECE_LSCLIVE1_CONCEAL : Fld := ⟨.ECE_LSCLIVE1, 10, 10⟩
def ECE_LSCLIVE1_SINCEKEY : Fld := ⟨.ECE_LSCLIVE1, 9, 0⟩
def ECE_RCSTAT_FILLED : Fld := ⟨.ECE_RCSTAT, 25, 25⟩
def ECE_RCSTAT_CLAMP : Fld := ⟨.ECE_RCSTAT, 24, 24⟩
def ECE_RCSTAT_LASTBYTES : Fld := ⟨.ECE_RCSTAT, 23, 0⟩
def ECE_LSCCNT_CLAMPS : Fld := ⟨.ECE_LSCCNT, 31, 16⟩
def ECE_LSCCNT_REFCNT : Fld := ⟨.ECE_LSCCNT, 15, 0⟩
def ECE_LSCW0_LTR_EVERY : Fld := ⟨.ECE_LSCW0, 29, 22⟩
def ECE_LSCW0_KEYINT : Fld := ⟨.ECE_LSCW0, 21, 12⟩
def ECE_LSCW0_CHROMA : Fld := ⟨.ECE_LSCW0, 10, 9⟩
def ECE_LSCW0_BITS : Fld := ⟨.ECE_LSCW0, 8, 4⟩
def ECE_LSCW0_RETURN_EN : Fld := ⟨.ECE_LSCW0, 3, 3⟩
def ECE_LSCW0_DIR : Fld := ⟨.ECE_LSCW0, 2, 2⟩
def ECE_LSCW0_PROFILE : Fld := ⟨.ECE_LSCW0, 1, 0⟩
def ECE_LSCW1_HEIGHT : Fld := ⟨.ECE_LSCW1, 31, 16⟩
def ECE_LSCW1_WIDTH : Fld := ⟨.ECE_LSCW1, 15, 0⟩
def ECE_LSCW1_RATE : Fld := ⟨.ECE_LSCW1, 6, 4⟩
def ECE_LSCW1_CHANNELS : Fld := ⟨.ECE_LSCW1, 3, 0⟩
def ECE_LSCW2_DEC_WAIT : Fld := ⟨.ECE_LSCW2, 31, 24⟩
def ECE_LSCW2_RFR_RPT : Fld := ⟨.ECE_LSCW2, 23, 16⟩
def ECE_LSCW2_KEYRATIO : Fld := ⟨.ECE_LSCW2, 15, 8⟩
def ECE_LSCW2_RC_MODE : Fld := ⟨.ECE_LSCW2, 7, 6⟩
def ECE_LSCW2_QIDX : Fld := ⟨.ECE_LSCW2, 5, 0⟩
def ECE_LSCW3_TARGET : Fld := ⟨.ECE_LSCW3, 31, 0⟩
def ECE_LSCW4_RECON_EN : Fld := ⟨.ECE_LSCW4, 17, 17⟩
def ECE_LSCW4_TAP_EN : Fld := ⟨.ECE_LSCW4, 16, 16⟩
def ECE_LSCW4_QMAX : Fld := ⟨.ECE_LSCW4, 13, 8⟩
def ECE_LSCW4_QMIN : Fld := ⟨.ECE_LSCW4, 5, 0⟩
def ECE_LSCW5_POOL_LO : Fld := ⟨.ECE_LSCW5, 31, 0⟩
def ECE_LSCW6_POOL_HI : Fld := ⟨.ECE_LSCW6, 7, 0⟩
def ECE_LSCW7_PROG_ID : Fld := ⟨.ECE_LSCW7, 15, 0⟩
def ECE_OSFSTAT_REFUSED : Fld := ⟨.ECE_OSFSTAT, 31, 31⟩
def ECE_OSFSTAT_NOHDR : Fld := ⟨.ECE_OSFSTAT, 30, 30⟩
def ECE_OSFSTAT_HGEN : Fld := ⟨.ECE_OSFSTAT, 15, 0⟩
def ECE_OSFCNT0_CRCERR : Fld := ⟨.ECE_OSFCNT0, 31, 16⟩
def ECE_OSFCNT0_ORPHAN : Fld := ⟨.ECE_OSFCNT0, 15, 0⟩
def ECE_OSFCNT1_REFUSED : Fld := ⟨.ECE_OSFCNT1, 31, 16⟩
def ECE_OSFCNT1_SKIPPED : Fld := ⟨.ECE_OSFCNT1, 15, 0⟩
def ECE_OSFCNT2_WITHHELD : Fld := ⟨.ECE_OSFCNT2, 31, 16⟩
def ECE_OSFCNT2_HDRS : Fld := ⟨.ECE_OSFCNT2, 15, 0⟩
def ECE_TAPCFG_LATONLY : Fld := ⟨.ECE_TAPCFG, 8, 8⟩
def ECE_TAPCFG_TAPMASK : Fld := ⟨.ECE_TAPCFG, 7, 0⟩
def ECE_TAPSTAT_READYFRAME : Fld := ⟨.ECE_TAPSTAT, 31, 0⟩
def ECE_TAPCNT_LOST : Fld := ⟨.ECE_TAPCNT, 31, 16⟩
def ECE_TAPCNT_READY : Fld := ⟨.ECE_TAPCNT, 15, 0⟩
def SCE_CTL_STATE : Fld := ⟨.SCE_CTL, 3, 2⟩
def SCE_CTL_PENDING_EN : Fld := ⟨.SCE_CTL, 1, 1⟩
def SCE_CTL_EN : Fld := ⟨.SCE_CTL, 0, 0⟩
def SCE_STAT_BUSY : Fld := ⟨.SCE_STAT, 31, 31⟩
def SCE_STAT_DIR : Fld := ⟨.SCE_STAT, 30, 30⟩
def SCE_STAT_CODEC : Fld := ⟨.SCE_STAT, 29, 28⟩
def SCE_STAT_STREAM : Fld := ⟨.SCE_STAT, 13, 0⟩
def SCE_ERRSTAT_ERR : Fld := ⟨.SCE_ERRSTAT, 31, 31⟩
def SCE_ERRSTAT_CODE : Fld := ⟨.SCE_ERRSTAT, 25, 22⟩
def SCE_ERRSTAT_STREAM : Fld := ⟨.SCE_ERRSTAT, 21, 8⟩
def SCE_ERRLOC_ROW : Fld := ⟨.SCE_ERRLOC, 31, 16⟩
def SCE_ERRLOC_FRAME : Fld := ⟨.SCE_ERRLOC, 15, 0⟩
def SCE_ERRCNT_COUNT : Fld := ⟨.SCE_ERRCNT, 31, 0⟩
def SCE_PICCNT_COUNT : Fld := ⟨.SCE_PICCNT, 31, 0⟩
def SCE_SWCNT_COUNT : Fld := ⟨.SCE_SWCNT, 31, 0⟩
def SCE_BUSYCNT_COUNT : Fld := ⟨.SCE_BUSYCNT, 31, 0⟩
def SCE_SSEL_SLOT : Fld := ⟨.SCE_SSEL, 7, 0⟩
def SCE_SCTL_HOLD : Fld := ⟨.SCE_SCTL, 0, 0⟩
def SCE_SCMD_RCRESET : Fld := ⟨.SCE_SCMD, 1, 1⟩
def SCE_SCMD_KEYREQ : Fld := ⟨.SCE_SCMD, 0, 0⟩
def SCE_SLIVE0_FRAME : Fld := ⟨.SCE_SLIVE0, 31, 0⟩
def SCE_SLIVE1_SHDPEND : Fld := ⟨.SCE_SLIVE1, 31, 31⟩
def SCE_SLIVE1_QPB : Fld := ⟨.SCE_SLIVE1, 30, 25⟩
def SCE_SLIVE1_QPP : Fld := ⟨.SCE_SLIVE1, 24, 19⟩
def SCE_SLIVE1_QPI : Fld := ⟨.SCE_SLIVE1, 18, 13⟩
def SCE_SLIVE1_KEYPEND : Fld := ⟨.SCE_SLIVE1, 12, 12⟩
def SCE_SLIVE1_CONCEAL : Fld := ⟨.SCE_SLIVE1, 11, 11⟩
def SCE_SLIVE1_REFUSED : Fld := ⟨.SCE_SLIVE1, 10, 10⟩
def SCE_SLIVE1_SINCEKEY : Fld := ⟨.SCE_SLIVE1, 9, 0⟩
def SCE_RCSTAT_FILLED : Fld := ⟨.SCE_RCSTAT, 25, 25⟩
def SCE_RCSTAT_CLAMP : Fld := ⟨.SCE_RCSTAT, 24, 24⟩
def SCE_RCSTAT_LASTBYTES : Fld := ⟨.SCE_RCSTAT, 23, 0⟩
def SCE_SCNT_CLAMPS : Fld := ⟨.SCE_SCNT, 31, 16⟩
def SCE_SCNT_REFCNT : Fld := ⟨.SCE_SCNT, 15, 0⟩
def SCE_SCNT2_MISSREF : Fld := ⟨.SCE_SCNT2, 31, 16⟩
def SCE_SCNT2_LOSTREG : Fld := ⟨.SCE_SCNT2, 15, 0⟩
def SCE_SW0_IDRINT : Fld := ⟨.SCE_SW0, 29, 20⟩
def SCE_SW0_GOPLEN : Fld := ⟨.SCE_SW0, 19, 16⟩
def SCE_SW0_GOPMODE : Fld := ⟨.SCE_SW0, 15, 14⟩
def SCE_SW0_STATS_EN : Fld := ⟨.SCE_SW0, 13, 13⟩
def SCE_SW0_CAVLC : Fld := ⟨.SCE_SW0, 12, 12⟩
def SCE_SW0_BITS : Fld := ⟨.SCE_SW0, 11, 8⟩
def SCE_SW0_CHROMA : Fld := ⟨.SCE_SW0, 7, 6⟩
def SCE_SW0_RFR_KIND : Fld := ⟨.SCE_SW0, 5, 4⟩
def SCE_SW0_DIR : Fld := ⟨.SCE_SW0, 2, 2⟩
def SCE_SW0_CODEC : Fld := ⟨.SCE_SW0, 1, 0⟩
def SCE_SW1_HEIGHT : Fld := ⟨.SCE_SW1, 31, 16⟩
def SCE_SW1_WIDTH : Fld := ⟨.SCE_SW1, 15, 0⟩
def SCE_SW2_RFR_RPT : Fld := ⟨.SCE_SW2, 31, 24⟩
def SCE_SW2_BRATIO : Fld := ⟨.SCE_SW2, 19, 16⟩
def SCE_SW2_KEYRATIO : Fld := ⟨.SCE_SW2, 15, 8⟩
def SCE_SW2_RC_MODE : Fld := ⟨.SCE_SW2, 7, 6⟩
def SCE_SW2_QP : Fld := ⟨.SCE_SW2, 5, 0⟩
def SCE_SW3_TARGET : Fld := ⟨.SCE_SW3, 31, 0⟩
def SCE_SW4_NOUT : Fld := ⟨.SCE_SW4, 27, 24⟩
def SCE_SW4_SLICEROWS : Fld := ⟨.SCE_SW4, 19, 16⟩
def SCE_SW4_QPMAX : Fld := ⟨.SCE_SW4, 13, 8⟩
def SCE_SW4_QPMIN : Fld := ⟨.SCE_SW4, 5, 0⟩
def SCE_SW5_POOL_LO : Fld := ⟨.SCE_SW5, 31, 12⟩
def SCE_SW6_STSIZE : Fld := ⟨.SCE_SW6, 31, 24⟩
def SCE_SW6_STBASE_HI : Fld := ⟨.SCE_SW6, 23, 16⟩
def SCE_SW6_POOLN : Fld := ⟨.SCE_SW6, 15, 8⟩
def SCE_SW6_POOL_HI : Fld := ⟨.SCE_SW6, 7, 0⟩
def SCE_SW7_STBASE_LO : Fld := ⟨.SCE_SW7, 31, 12⟩
def SMV_CTL_STATE : Fld := ⟨.SMV_CTL, 3, 2⟩
def SMV_CTL_PENDING_EN : Fld := ⟨.SMV_CTL, 1, 1⟩
def SMV_CTL_EN : Fld := ⟨.SMV_CTL, 0, 0⟩
def SMV_TAGS_PEAK : Fld := ⟨.SMV_TAGS, 27, 16⟩
def SMV_TAGS_INUSE : Fld := ⟨.SMV_TAGS, 11, 0⟩
def SMV_TAGSTALL_COUNT : Fld := ⟨.SMV_TAGSTALL, 31, 0⟩
def SMV_HBMSPLIT_READ : Fld := ⟨.SMV_HBMSPLIT, 11, 8⟩
def SMV_HBMSPLIT_WRITE : Fld := ⟨.SMV_HBMSPLIT, 7, 4⟩
def SMV_HBMSPLIT_REMOTE : Fld := ⟨.SMV_HBMSPLIT, 3, 0⟩
def SMV_ERRSTAT_ERR : Fld := ⟨.SMV_ERRSTAT, 31, 31⟩
def SMV_ERRSTAT_CODE : Fld := ⟨.SMV_ERRSTAT, 25, 22⟩
def SMV_ERRSTAT_STREAM : Fld := ⟨.SMV_ERRSTAT, 21, 8⟩
def SMV_ERRCNT_COUNT : Fld := ⟨.SMV_ERRCNT, 31, 0⟩
def SMV_CQSTALL_COUNT : Fld := ⟨.SMV_CQSTALL, 31, 0⟩
def SMV_RESIDENT_ITEMS : Fld := ⟨.SMV_RESIDENT, 16, 0⟩
def SMV_QCFG_BURST : Fld := ⟨.SMV_QCFG, 31, 28⟩
def SMV_QCFG_OUTST : Fld := ⟨.SMV_QCFG, 23, 16⟩
def SMV_QCFG_CREDITS : Fld := ⟨.SMV_QCFG, 15, 8⟩
def SMV_QCFG_LOGDEPTH : Fld := ⟨.SMV_QCFG, 4, 0⟩
def SMV_QBASE_LO_BASE_LO : Fld := ⟨.SMV_QBASE_LO, 31, 12⟩
def SMV_QBASE_HI_BASE_HI : Fld := ⟨.SMV_QBASE_HI, 7, 0⟩
def SMV_QSTG_STG : Fld := ⟨.SMV_QSTG, 25, 12⟩
def SMV_QTAIL_TAIL : Fld := ⟨.SMV_QTAIL, 31, 0⟩
def SMV_QHEAD_HEAD : Fld := ⟨.SMV_QHEAD, 31, 0⟩
def SMV_SQBASE_LO_BASE_LO : Fld := ⟨.SMV_SQBASE_LO, 31, 12⟩
def SMV_SQBASE_HI_BASE_HI : Fld := ⟨.SMV_SQBASE_HI, 7, 0⟩
def SMV_SQCFG_EN : Fld := ⟨.SMV_SQCFG, 7, 7⟩
def SMV_SQCFG_LOGSIZE : Fld := ⟨.SMV_SQCFG, 4, 0⟩
def SMV_SQTAIL_TAIL : Fld := ⟨.SMV_SQTAIL, 31, 0⟩
def SMV_SQHEAD_HEAD : Fld := ⟨.SMV_SQHEAD, 31, 0⟩
def SMV_CQBASE_LO_BASE_LO : Fld := ⟨.SMV_CQBASE_LO, 31, 12⟩
def SMV_CQBASE_HI_BASE_HI : Fld := ⟨.SMV_CQBASE_HI, 7, 0⟩
def SMV_CQCFG_VECTOR : Fld := ⟨.SMV_CQCFG, 15, 8⟩
def SMV_CQCFG_EN : Fld := ⟨.SMV_CQCFG, 7, 7⟩
def SMV_CQCFG_LOGSIZE : Fld := ⟨.SMV_CQCFG, 4, 0⟩
def SMV_CQHEAD_HEAD : Fld := ⟨.SMV_CQHEAD, 31, 0⟩
def SMV_CQTAIL_TAIL : Fld := ⟨.SMV_CQTAIL, 31, 0⟩
def SMV_ERBASE_LO_BASE_LO : Fld := ⟨.SMV_ERBASE_LO, 31, 12⟩
def SMV_ERBASE_HI_BASE_HI : Fld := ⟨.SMV_ERBASE_HI, 7, 0⟩
def SMV_ERCFG_VECTOR : Fld := ⟨.SMV_ERCFG, 15, 8⟩
def SMV_ERCFG_EN : Fld := ⟨.SMV_ERCFG, 7, 7⟩
def SMV_ERCFG_LOGSIZE : Fld := ⟨.SMV_ERCFG, 4, 0⟩
def SMV_ERHEAD_HEAD : Fld := ⟨.SMV_ERHEAD, 31, 0⟩
def SMV_ERTAIL_TAIL : Fld := ⟨.SMV_ERTAIL, 31, 0⟩
def SMV_ERDROP_COUNT : Fld := ⟨.SMV_ERDROP, 31, 0⟩
def SMV_SSEL_SLOT : Fld := ⟨.SMV_SSEL, 7, 0⟩
def SMV_SLIVE0_STATE : Fld := ⟨.SMV_SLIVE0, 31, 30⟩
def SMV_SLIVE0_FPW : Fld := ⟨.SMV_SLIVE0, 29, 29⟩
def SMV_SLIVE0_INFLIGHT : Fld := ⟨.SMV_SLIVE0, 16, 0⟩
def SMV_SLIVE1_HIGH : Fld := ⟨.SMV_SLIVE1, 31, 0⟩
def SMV_SCOND0_POISON : Fld := ⟨.SMV_SCOND0, 31, 16⟩
def SMV_SCOND0_MISSREF : Fld := ⟨.SMV_SCOND0, 15, 0⟩
def SMV_SCOND1_CONCEAL : Fld := ⟨.SMV_SCOND1, 31, 16⟩
def SMV_SCOND1_SHORT : Fld := ⟨.SMV_SCOND1, 15, 0⟩
def SMV_SCOND2_LONG : Fld := ⟨.SMV_SCOND2, 31, 16⟩
def SMV_SCOND2_FILLED : Fld := ⟨.SMV_SCOND2, 15, 0⟩
def SMV_SCOND3_FAILWR : Fld := ⟨.SMV_SCOND3, 31, 16⟩
def SMV_SCOND3_DUP : Fld := ⟨.SMV_SCOND3, 15, 0⟩
def BAL_CTL_YCMPEN : Fld := ⟨.BAL_CTL, 1, 1⟩
def BAL_CTL_CMPEN : Fld := ⟨.BAL_CTL, 0, 0⟩
def BAL_ERRSTAT_ERR : Fld := ⟨.BAL_ERRSTAT, 31, 31⟩
def BAL_ERRSTAT_CODE : Fld := ⟨.BAL_ERRSTAT, 25, 22⟩
def BAL_ERRSTAT_BLOCK : Fld := ⟨.BAL_ERRSTAT, 21, 0⟩
def BAL_ERRCNT_COUNT : Fld := ⟨.BAL_ERRCNT, 31, 0⟩
def BAL_CLSCNT_COUNT : Fld := ⟨.BAL_CLSCNT, 31, 0⟩
def BAL_RMWCNT_COUNT : Fld := ⟨.BAL_RMWCNT, 31, 0⟩
def BAL_YSAVED_COUNT : Fld := ⟨.BAL_YSAVED, 31, 0⟩
def MEM_WSCFG_SPARE : Fld := ⟨.MEM_WSCFG, 7, 7⟩
def MEM_WSCFG_REPLACED : Fld := ⟨.MEM_WSCFG, 5, 0⟩
def MEM_WSECC_UNCORR : Fld := ⟨.MEM_WSECC, 31, 16⟩
def MEM_WSECC_CORR : Fld := ⟨.MEM_WSECC, 15, 0⟩
def MEM_WCCTL_INVALL : Fld := ⟨.MEM_WCCTL, 0, 0⟩
def MEM_WCHIT_COUNT : Fld := ⟨.MEM_WCHIT, 31, 0⟩
def MEM_WCMISS_COUNT : Fld := ⟨.MEM_WCMISS, 31, 0⟩
def MEM_WCINV_REFETCH : Fld := ⟨.MEM_WCINV, 31, 16⟩
def MEM_WCINV_INV : Fld := ⟨.MEM_WCINV, 15, 0⟩
def MEM_WCSERVE_LO_HASH : Fld := ⟨.MEM_WCSERVE_LO, 31, 0⟩
def MEM_WCSERVE_HI_HASH : Fld := ⟨.MEM_WCSERVE_HI, 31, 0⟩
def MEM_HBMSTAT_TEMP : Fld := ⟨.MEM_HBMSTAT, 23, 16⟩
def MEM_HBMSTAT_TRAIN : Fld := ⟨.MEM_HBMSTAT, 3, 2⟩
def MEM_HBMSTAT_UP : Fld := ⟨.MEM_HBMSTAT, 1, 1⟩
def MEM_HBMSTAT_PRESENT : Fld := ⟨.MEM_HBMSTAT, 0, 0⟩
def MEM_HBMECC_UNCORR : Fld := ⟨.MEM_HBMECC, 31, 16⟩
def MEM_HBMECC_CORR : Fld := ⟨.MEM_HBMECC, 15, 0⟩
def MEM_HBMSCRUB_PASSES : Fld := ⟨.MEM_HBMSCRUB, 31, 0⟩
def MEM_ERRSTAT_ERR : Fld := ⟨.MEM_ERRSTAT, 31, 31⟩
def MEM_ERRSTAT_CODE : Fld := ⟨.MEM_ERRSTAT, 25, 22⟩
def MEM_ERRSTAT_WHERE : Fld := ⟨.MEM_ERRSTAT, 21, 0⟩
def MEM_ERRCNT_COUNT : Fld := ⟨.MEM_ERRCNT, 31, 0⟩
def YRD_STAT_EDGEUP : Fld := ⟨.YRD_STAT, 19, 16⟩
def YRD_STAT_DETOUR : Fld := ⟨.YRD_STAT, 1, 1⟩
def YRD_STAT_IDLE : Fld := ⟨.YRD_STAT, 0, 0⟩
def YRD_QCTL_ESC : Fld := ⟨.YRD_QCTL, 3, 3⟩
def YRD_QCTL_DONE : Fld := ⟨.YRD_QCTL, 2, 2⟩
def YRD_QCTL_BUSY : Fld := ⟨.YRD_QCTL, 1, 1⟩
def YRD_QCTL_REQ : Fld := ⟨.YRD_QCTL, 0, 0⟩
def YRD_ERRSTAT_ERR : Fld := ⟨.YRD_ERRSTAT, 31, 31⟩
def YRD_ERRSTAT_CODE : Fld := ⟨.YRD_ERRSTAT, 25, 22⟩
def YRD_ERRSTAT_PORT : Fld := ⟨.YRD_ERRSTAT, 2, 0⟩
def YRD_ERRCNT_COUNT : Fld := ⟨.YRD_ERRCNT, 31, 0⟩
def YRD_EDGEEVT_LASTING : Fld := ⟨.YRD_EDGEEVT, 31, 16⟩
def YRD_EDGEEVT_TRANSIENT : Fld := ⟨.YRD_EDGEEVT, 15, 0⟩
def YRD_REPLAY_COUNT : Fld := ⟨.YRD_REPLAY, 31, 0⟩
def YRD_ABSORB_COUNT : Fld := ⟨.YRD_ABSORB, 31, 0⟩
def YRD_FLIT_COUNT : Fld := ⟨.YRD_FLIT, 31, 0⟩
def YRD_RT_VIA : Fld := ⟨.YRD_RT, 11, 11⟩
def YRD_RT_INTER : Fld := ⟨.YRD_RT, 10, 5⟩
def YRD_RT_OUT : Fld := ⟨.YRD_RT, 2, 0⟩
def LNK_CTL_STATE : Fld := ⟨.LNK_CTL, 3, 2⟩
def LNK_CTL_PENDING_EN : Fld := ⟨.LNK_CTL, 1, 1⟩
def LNK_CTL_EN : Fld := ⟨.LNK_CTL, 0, 0⟩
def LNK_QUADCFG_FEC25_1 : Fld := ⟨.LNK_QUADCFG, 9, 9⟩
def LNK_QUADCFG_FEC25_0 : Fld := ⟨.LNK_QUADCFG, 8, 8⟩
def LNK_QUADCFG_MODE1 : Fld := ⟨.LNK_QUADCFG, 7, 4⟩
def LNK_QUADCFG_MODE0 : Fld := ⟨.LNK_QUADCFG, 3, 0⟩
def LNK_LANESTAT_LOCK : Fld := ⟨.LNK_LANESTAT, 23, 16⟩
def LNK_LANESTAT_UP : Fld := ⟨.LNK_LANESTAT, 15, 8⟩
def LNK_LANESTAT_INSVC : Fld := ⟨.LNK_LANESTAT, 7, 0⟩
def LNK_ERRSTAT_ERR : Fld := ⟨.LNK_ERRSTAT, 31, 31⟩
def LNK_ERRSTAT_CODE : Fld := ⟨.LNK_ERRSTAT, 25, 22⟩
def LNK_ERRSTAT_STREAM : Fld := ⟨.LNK_ERRSTAT, 21, 8⟩
def LNK_ERRSTAT_PORT : Fld := ⟨.LNK_ERRSTAT, 6, 0⟩
def LNK_ERRCNT_COUNT : Fld := ⟨.LNK_ERRCNT, 31, 0⟩
def LNK_RXDROP_COUNT : Fld := ⟨.LNK_RXDROP, 31, 0⟩
def LNK_FECCNT_UNCORR : Fld := ⟨.LNK_FECCNT, 31, 16⟩
def LNK_FECCNT_CORR : Fld := ⟨.LNK_FECCNT, 15, 0⟩
def LNK_FLOWS_USED : Fld := ⟨.LNK_FLOWS, 11, 0⟩
def LNK_LRETRY_COUNT : Fld := ⟨.LNK_LRETRY, 31, 0⟩
def LNK_PATHEVT_LASTING : Fld := ⟨.LNK_PATHEVT, 31, 16⟩
def LNK_PATHEVT_TRANSIENT : Fld := ⟨.LNK_PATHEVT, 15, 0⟩
def LNK_SSEL_SLOT : Fld := ⟨.LNK_SSEL, 7, 0⟩
def LNK_SW0_DSCP : Fld := ⟨.LNK_SW0, 20, 15⟩
def LNK_SW0_PORT : Fld := ⟨.LNK_SW0, 14, 8⟩
def LNK_SW0_PEER : Fld := ⟨.LNK_SW0, 7, 2⟩
def LNK_SW0_EGKIND : Fld := ⟨.LNK_SW0, 1, 0⟩
def LNK_SW1_UDPPORT : Fld := ⟨.LNK_SW1, 31, 16⟩
def LNK_SW1_DSTREAM : Fld := ⟨.LNK_SW1, 13, 0⟩
def LNK_SCNT_ALTPATH : Fld := ⟨.LNK_SCNT, 31, 16⟩
def LNK_SCNT_FAILED : Fld := ⟨.LNK_SCNT, 15, 0⟩
def LNK_MVCFG_E2E : Fld := ⟨.LNK_MVCFG, 31, 16⟩
def LNK_MVCFG_UDPPORT : Fld := ⟨.LNK_MVCFG, 15, 8⟩
def LNK_MVCFG_RELOAD : Fld := ⟨.LNK_MVCFG, 7, 7⟩
def LNK_MVCFG_EN : Fld := ⟨.LNK_MVCFG, 6, 6⟩
def LNK_MVCFG_DEVNUM : Fld := ⟨.LNK_MVCFG, 3, 0⟩
def LNK_MVPEER_LO_BASE_LO : Fld := ⟨.LNK_MVPEER_LO, 31, 12⟩
def LNK_MVPEER_HI_BASE_HI : Fld := ⟨.LNK_MVPEER_HI, 7, 0⟩
def LNK_MVSTAT_NOMASTER : Fld := ⟨.LNK_MVSTAT, 2, 2⟩
def LNK_MVSTAT_CONFLICT : Fld := ⟨.LNK_MVSTAT, 1, 1⟩
def LNK_MVSTAT_MASTER : Fld := ⟨.LNK_MVSTAT, 0, 0⟩
def LNK_PTPCFG_VLAN : Fld := ⟨.LNK_PTPCFG, 31, 20⟩
def LNK_PTPCFG_DOMAIN : Fld := ⟨.LNK_PTPCFG, 19, 12⟩
def LNK_PTPCFG_TRANSPORT : Fld := ⟨.LNK_PTPCFG, 11, 9⟩
def LNK_PTPCFG_ROLE : Fld := ⟨.LNK_PTPCFG, 8, 7⟩
def LNK_PTPCFG_PORT : Fld := ⟨.LNK_PTPCFG, 6, 0⟩
def LNK_PTPSTAT_LOCKED : Fld := ⟨.LNK_PTPSTAT, 31, 31⟩
def LNK_PTPSTAT_STEPPED : Fld := ⟨.LNK_PTPSTAT, 30, 30⟩
def LNK_PTPSTAT_UTCOFS : Fld := ⟨.LNK_PTPSTAT, 15, 0⟩
def LNK_PTPOFS_OFS : Fld := ⟨.LNK_PTPOFS, 31, 0⟩
def LNK_PUBCTL_RELOAD : Fld := ⟨.LNK_PUBCTL, 1, 1⟩
def LNK_PUBCTL_EN : Fld := ⟨.LNK_PUBCTL, 0, 0⟩
def LNK_PUBBASE_LO_BASE_LO : Fld := ⟨.LNK_PUBBASE_LO, 31, 12⟩
def LNK_PUBBASE_HI_BASE_HI : Fld := ⟨.LNK_PUBBASE_HI, 7, 0⟩
def LNK_HWSEL_FUNC : Fld := ⟨.LNK_HWSEL, 6, 0⟩
def LNK_HWE_LO_HBASE_LO : Fld := ⟨.LNK_HWE_LO, 31, 12⟩
def LNK_HWE_LO_EN : Fld := ⟨.LNK_HWE_LO, 0, 0⟩
def LNK_HWE_HI_HBASE_HI : Fld := ⟨.LNK_HWE_HI, 31, 0⟩
def LNK_APER_LO_BASE_LO : Fld := ⟨.LNK_APER_LO, 31, 12⟩
def LNK_APER_HI_BASE_HI : Fld := ⟨.LNK_APER_HI, 7, 0⟩
def LNK_PCISTAT_NUMVF : Fld := ⟨.LNK_PCISTAT, 31, 16⟩
def LNK_PCISTAT_WIDTH : Fld := ⟨.LNK_PCISTAT, 15, 8⟩
def LNK_PCISTAT_GEN : Fld := ⟨.LNK_PCISTAT, 7, 4⟩
def LNK_PCISTAT_DLUP : Fld := ⟨.LNK_PCISTAT, 0, 0⟩
def LNK_LBLCTL_RELOAD : Fld := ⟨.LNK_LBLCTL, 1, 1⟩
def LNK_LBLCTL_EN : Fld := ⟨.LNK_LBLCTL, 0, 0⟩
def LNK_LBLBASE_LO_BASE_LO : Fld := ⟨.LNK_LBLBASE_LO, 31, 12⟩
def LNK_LBLBASE_HI_BASE_HI : Fld := ⟨.LNK_LBLBASE_HI, 7, 0⟩
def LNK_LBLCNT0_LABELS : Fld := ⟨.LNK_LBLCNT0, 31, 16⟩
def LNK_LBLCNT0_UNMATCHED : Fld := ⟨.LNK_LBLCNT0, 15, 0⟩
def LNK_LBLCNT1_UNPARSED : Fld := ⟨.LNK_LBLCNT1, 31, 16⟩
def LNK_LBLCNT1_SECURED : Fld := ⟨.LNK_LBLCNT1, 15, 0⟩
def ING_CTL_STATE : Fld := ⟨.ING_CTL, 3, 2⟩
def ING_CTL_PENDING_EN : Fld := ⟨.ING_CTL, 1, 1⟩
def ING_CTL_EN : Fld := ⟨.ING_CTL, 0, 0⟩
def ING_SSEL_SLOT : Fld := ⟨.ING_SSEL, 7, 0⟩
def ING_SCTL_HOLD : Fld := ⟨.ING_SCTL, 0, 0⟩
def ING_SLIVE0_UNITS : Fld := ⟨.ING_SLIVE0, 31, 0⟩
def ING_SCNT0_LATEPKT : Fld := ⟨.ING_SCNT0, 31, 16⟩
def ING_SCNT0_LOSTPKT : Fld := ⟨.ING_SCNT0, 15, 0⟩
def ING_SCNT1_OVERRUN : Fld := ⟨.ING_SCNT1, 31, 16⟩
def ING_SCNT1_DISCARD : Fld := ⟨.ING_SCNT1, 15, 0⟩
def ING_SW0_VLAN : Fld := ⟨.ING_SW0, 27, 16⟩
def ING_SW0_SSRCEN : Fld := ⟨.ING_SW0, 14, 14⟩
def ING_SW0_RTCPMUX : Fld := ⟨.ING_SW0, 13, 13⟩
def ING_SW0_PADMODE : Fld := ⟨.ING_SW0, 12, 11⟩
def ING_SW0_PORT : Fld := ⟨.ING_SW0, 10, 4⟩
def ING_SW0_IKIND : Fld := ⟨.ING_SW0, 3, 0⟩
def ING_SW1_AUWAIT : Fld := ⟨.ING_SW1, 31, 24⟩
def ING_SW1_PT : Fld := ⟨.ING_SW1, 22, 16⟩
def ING_SW1_UDPPORT : Fld := ⟨.ING_SW1, 15, 0⟩
def ING_SW2_SSRC : Fld := ⟨.ING_SW2, 31, 0⟩
def ING_SW3_TSOFF : Fld := ⟨.ING_SW3, 31, 0⟩
def ING_SW4_NSLOT : Fld := ⟨.ING_SW4, 27, 20⟩
def ING_SW4_SLOTKIB : Fld := ⟨.ING_SW4, 19, 0⟩
def FXG_CTL_STATE : Fld := ⟨.FXG_CTL, 3, 2⟩
def FXG_CTL_PENDING_EN : Fld := ⟨.FXG_CTL, 1, 1⟩
def FXG_CTL_EN : Fld := ⟨.FXG_CTL, 0, 0⟩
def FXG_HDSEL_HOLD : Fld := ⟨.FXG_HDSEL, 8, 8⟩
def FXG_HDSEL_SLOT : Fld := ⟨.FXG_HDSEL, 7, 0⟩
def FXG_HDSTAT_NOTAP : Fld := ⟨.FXG_HDSTAT, 3, 3⟩
def FXG_HDSTAT_SHAPE : Fld := ⟨.FXG_HDSTAT, 2, 2⟩
def FXG_HDSTAT_SRCGONE : Fld := ⟨.FXG_HDSTAT, 1, 1⟩
def FXG_HDSTAT_ALARM : Fld := ⟨.FXG_HDSTAT, 0, 0⟩
def FXG_HDGEN_GEN : Fld := ⟨.FXG_HDGEN, 31, 0⟩
def FXG_HDCNT_LOST : Fld := ⟨.FXG_HDCNT, 31, 16⟩
def FXG_HDCNT_UNCERT : Fld := ⟨.FXG_HDCNT, 15, 0⟩
def FXG_HDW0_DECIM : Fld := ⟨.FXG_HDW0, 31, 24⟩
def FXG_HDW0_PUB : Fld := ⟨.FXG_HDW0, 20, 20⟩
def FXG_HDW0_SRC : Fld := ⟨.FXG_HDW0, 13, 0⟩
def FXG_HDW1_CHAN : Fld := ⟨.FXG_HDW1, 21, 16⟩
def FXG_HDW1_PROG_ID : Fld := ⟨.FXG_HDW1, 15, 0⟩
def FXG_HDW2_DSWID : Fld := ⟨.FXG_HDW2, 15, 0⟩
def FXG_HDW3_THRESH : Fld := ⟨.FXG_HDW3, 31, 0⟩
def FXG_HDW4_FRBASE_LO : Fld := ⟨.FXG_HDW4, 31, 12⟩
def FXG_HDW5_FRPAGES : Fld := ⟨.FXG_HDW5, 31, 16⟩
def FXG_HDW5_FRBASE_HI : Fld := ⟨.FXG_HDW5, 7, 0⟩
def FXG_ADPSTAT_REASON : Fld := ⟨.FXG_ADPSTAT, 7, 4⟩
def FXG_ADPSTAT_STATE : Fld := ⟨.FXG_ADPSTAT, 1, 0⟩
def FXG_ADPSTEP_STEP : Fld := ⟨.FXG_ADPSTEP, 31, 0⟩
def FXG_ADPLOSS_LOSS : Fld := ⟨.FXG_ADPLOSS, 31, 0⟩
def PRT_ISEL_INST : Fld := ⟨.PRT_ISEL, 5, 0⟩
def PRT_ICMD_GO : Fld := ⟨.PRT_ICMD, 31, 31⟩
def PRT_ICMD_ZERO : Fld := ⟨.PRT_ICMD, 8, 8⟩
def PRT_ICMD_OP : Fld := ⟨.PRT_ICMD, 1, 0⟩
def PRT_ISTAT_STATE : Fld := ⟨.PRT_ISTAT, 31, 30⟩
def PRT_ISTAT_PENDDES : Fld := ⟨.PRT_ISTAT, 29, 29⟩
def PRT_ISTAT_ESC : Fld := ⟨.PRT_ISTAT, 28, 28⟩
def PRT_ISTAT_EPOCH : Fld := ⟨.PRT_ISTAT, 7, 0⟩
def PRT_ITILES_LO_TILES : Fld := ⟨.PRT_ITILES_LO, 31, 0⟩
def PRT_ITILES_HI_TILES : Fld := ⟨.PRT_ITILES_HI, 31, 0⟩
def PRT_IFLIGHT_COUNT : Fld := ⟨.PRT_IFLIGHT, 17, 0⟩
def PRT_ILAST_CAUSE : Fld := ⟨.PRT_ILAST, 19, 16⟩
def PRT_ILAST_TIME_US : Fld := ⟨.PRT_ILAST, 15, 0⟩
def PRT_IRSTCNT_MERGED : Fld := ⟨.PRT_IRSTCNT, 31, 16⟩
def PRT_IRSTCNT_RESETS : Fld := ⟨.PRT_IRSTCNT, 15, 0⟩
def PRT_ERRSTAT_ERR : Fld := ⟨.PRT_ERRSTAT, 31, 31⟩
def PRT_ERRSTAT_CODE : Fld := ⟨.PRT_ERRSTAT, 25, 22⟩
def PRT_ERRSTAT_TILE : Fld := ⟨.PRT_ERRSTAT, 13, 8⟩
def PRT_ERRSTAT_INST : Fld := ⟨.PRT_ERRSTAT, 5, 0⟩
def PRT_ERRCNT_COUNT : Fld := ⟨.PRT_ERRCNT, 31, 0⟩
def PRT_ESC_EVT : Fld := ⟨.PRT_ESC, 31, 31⟩
def PRT_ESC_SRC : Fld := ⟨.PRT_ESC, 30, 28⟩
def PRT_ESC_TILE : Fld := ⟨.PRT_ESC, 13, 8⟩
def PRT_ESC_INST : Fld := ⟨.PRT_ESC, 5, 0⟩
def PRT_ESCCFG_VECTOR : Fld := ⟨.PRT_ESCCFG, 7, 0⟩
def PRT_PKGRST_KEY : Fld := ⟨.PRT_PKGRST, 31, 16⟩
def PRT_PKGRST_GO : Fld := ⟨.PRT_PKGRST, 0, 0⟩
def PRT_MOWN_VALID0 : Fld := ⟨.PRT_MOWN, 7, 7⟩
def PRT_MOWN_VALID1 : Fld := ⟨.PRT_MOWN, 15, 15⟩
def PRT_MOWN_VALID2 : Fld := ⟨.PRT_MOWN, 23, 23⟩
def PRT_MOWN_VALID3 : Fld := ⟨.PRT_MOWN, 31, 31⟩
def PRT_MOWN_INST0 : Fld := ⟨.PRT_MOWN, 5, 0⟩
def PRT_MOWN_INST1 : Fld := ⟨.PRT_MOWN, 13, 8⟩
def PRT_MOWN_INST2 : Fld := ⟨.PRT_MOWN, 21, 16⟩
def PRT_MOWN_INST3 : Fld := ⟨.PRT_MOWN, 29, 24⟩
def PRT_TOWN_EPOCH : Fld := ⟨.PRT_TOWN, 15, 8⟩
def PRT_TOWN_ASSIGNED : Fld := ⟨.PRT_TOWN, 6, 6⟩
def PRT_TOWN_INST : Fld := ⟨.PRT_TOWN, 5, 0⟩
def PRT_TRST_BUSY : Fld := ⟨.PRT_TRST, 1, 1⟩
def PRT_TRST_GO : Fld := ⟨.PRT_TRST, 0, 0⟩
def PRT_ERST_ENG : Fld := ⟨.PRT_ERST, 7, 0⟩
def SNP_CTL_GATED : Fld := ⟨.SNP_CTL, 4, 4⟩
def SNP_CTL_LATE : Fld := ⟨.SNP_CTL, 3, 3⟩
def SNP_CTL_HELD : Fld := ⟨.SNP_CTL, 2, 2⟩
def SNP_CTL_VIEW : Fld := ⟨.SNP_CTL, 1, 1⟩
def SNP_CTL_ARM : Fld := ⟨.SNP_CTL, 0, 0⟩
def SNP_TRIG_GO : Fld := ⟨.SNP_TRIG, 0, 0⟩
def SNP_SRC_OUTEN : Fld := ⟨.SNP_SRC, 4, 4⟩
def SNP_SRC_THR : Fld := ⟨.SNP_SRC, 3, 3⟩
def SNP_SRC_ERR : Fld := ⟨.SNP_SRC, 2, 2⟩
def SNP_SRC_WR : Fld := ⟨.SNP_SRC, 1, 1⟩
def SNP_SRC_PIN : Fld := ⟨.SNP_SRC, 0, 0⟩
def SNP_LAST_LO_T : Fld := ⟨.SNP_LAST_LO, 31, 0⟩
def SNP_LAST_HI_T : Fld := ⟨.SNP_LAST_HI, 31, 0⟩
def SNP_CAUSE_TILE : Fld := ⟨.SNP_CAUSE, 9, 4⟩
def SNP_CAUSE_SRC : Fld := ⟨.SNP_CAUSE, 3, 0⟩
def SNP_ERRMASK_BLK : Fld := ⟨.SNP_ERRMASK, 14, 0⟩
def SNP_THADDR_OFS : Fld := ⟨.SNP_THADDR, 23, 2⟩
def SNP_THVAL_VAL : Fld := ⟨.SNP_THVAL, 31, 0⟩
def SNP_CNT_MISSED : Fld := ⟨.SNP_CNT, 31, 16⟩
def SNP_CNT_LATCHES : Fld := ⟨.SNP_CNT, 15, 0⟩
def SNP_DGSEL_SLOT : Fld := ⟨.SNP_DGSEL, 7, 0⟩
def SNP_DGCFG_PAGES : Fld := ⟨.SNP_DGCFG, 31, 16⟩
def SNP_DGCFG_EN : Fld := ⟨.SNP_DGCFG, 0, 0⟩
def SNP_DGBASE_LO_BASE_LO : Fld := ⟨.SNP_DGBASE_LO, 31, 12⟩
def SNP_DGBASE_HI_BASE_HI : Fld := ⟨.SNP_DGBASE_HI, 7, 0⟩
def SNP_DBGADDR_ADDR : Fld := ⟨.SNP_DBGADDR, 25, 2⟩
def SNP_DBGDATA_DATA : Fld := ⟨.SNP_DBGDATA, 31, 0⟩
def HSP_STAT_OPEN : Fld := ⟨.HSP_STAT, 31, 31⟩
def HSP_STAT_TAINT : Fld := ⟨.HSP_STAT, 30, 30⟩
def HSP_STAT_SCOPE : Fld := ⟨.HSP_STAT, 29, 25⟩
def HSP_STAT_REMAIN : Fld := ⟨.HSP_STAT, 21, 11⟩
def HSP_STAT_LOCKOUT : Fld := ⟨.HSP_STAT, 10, 4⟩
def HSP_STAT_FAILS : Fld := ⟨.HSP_STAT, 3, 0⟩
def HSP_CMD_PWSET : Fld := ⟨.HSP_CMD, 4, 4⟩
def HSP_CMD_PWSUBMIT : Fld := ⟨.HSP_CMD, 3, 3⟩
def HSP_CMD_SUBMIT : Fld := ⟨.HSP_CMD, 2, 2⟩
def HSP_CMD_CLOSE : Fld := ⟨.HSP_CMD, 1, 1⟩
def HSP_CMD_CHAL : Fld := ⟨.HSP_CMD, 0, 0⟩
def HSP_REQ_MINUTES : Fld := ⟨.HSP_REQ, 31, 16⟩
def HSP_REQ_SCOPE : Fld := ⟨.HSP_REQ, 4, 0⟩
def HSP_NONCE_NONCE : Fld := ⟨.HSP_NONCE, 31, 0⟩
def HSP_RESP_MAC : Fld := ⟨.HSP_RESP, 31, 0⟩
def HSP_PW_PW : Fld := ⟨.HSP_PW, 31, 0⟩
def HSP_PWLEN_LEN : Fld := ⟨.HSP_PWLEN, 6, 0⟩
def HSP_ACT_GO : Fld := ⟨.HSP_ACT, 31, 31⟩
def HSP_ACT_OP : Fld := ⟨.HSP_ACT, 19, 16⟩
def HSP_ACT_ARG : Fld := ⟨.HSP_ACT, 9, 0⟩
def HSP_LAST_STATUS : Fld := ⟨.HSP_LAST, 15, 0⟩
def HSP_CNT_DBGWR : Fld := ⟨.HSP_CNT, 31, 16⟩
def HSP_CNT_DENIED : Fld := ⟨.HSP_CNT, 15, 0⟩
def MGT_REGERR_ERR : Fld := ⟨.MGT_REGERR, 31, 31⟩
def MGT_REGERR_CAUSE : Fld := ⟨.MGT_REGERR, 25, 22⟩
def MGT_REGERR_REQ : Fld := ⟨.MGT_REGERR, 21, 19⟩
def MGT_REGERR_OFFSET : Fld := ⟨.MGT_REGERR, 18, 2⟩
def MGT_REGERRCNT_COUNT : Fld := ⟨.MGT_REGERRCNT, 31, 0⟩
def ARR_REGERR_ERR : Fld := ⟨.ARR_REGERR, 31, 31⟩
def ARR_REGERR_CAUSE : Fld := ⟨.ARR_REGERR, 25, 22⟩
def ARR_REGERR_REQ : Fld := ⟨.ARR_REGERR, 21, 19⟩
def ARR_REGERR_OFFSET : Fld := ⟨.ARR_REGERR, 18, 2⟩
def ARR_REGERRCNT_COUNT : Fld := ⟨.ARR_REGERRCNT, 31, 0⟩
def SFU_REGERR_ERR : Fld := ⟨.SFU_REGERR, 31, 31⟩
def SFU_REGERR_CAUSE : Fld := ⟨.SFU_REGERR, 25, 22⟩
def SFU_REGERR_REQ : Fld := ⟨.SFU_REGERR, 21, 19⟩
def SFU_REGERR_OFFSET : Fld := ⟨.SFU_REGERR, 18, 2⟩
def SFU_REGERRCNT_COUNT : Fld := ⟨.SFU_REGERRCNT, 31, 0⟩
def ECE_REGERR_ERR : Fld := ⟨.ECE_REGERR, 31, 31⟩
def ECE_REGERR_CAUSE : Fld := ⟨.ECE_REGERR, 25, 22⟩
def ECE_REGERR_REQ : Fld := ⟨.ECE_REGERR, 21, 19⟩
def ECE_REGERR_OFFSET : Fld := ⟨.ECE_REGERR, 18, 2⟩
def ECE_REGERRCNT_COUNT : Fld := ⟨.ECE_REGERRCNT, 31, 0⟩
def SCE_REGERR_ERR : Fld := ⟨.SCE_REGERR, 31, 31⟩
def SCE_REGERR_CAUSE : Fld := ⟨.SCE_REGERR, 25, 22⟩
def SCE_REGERR_REQ : Fld := ⟨.SCE_REGERR, 21, 19⟩
def SCE_REGERR_OFFSET : Fld := ⟨.SCE_REGERR, 18, 2⟩
def SCE_REGERRCNT_COUNT : Fld := ⟨.SCE_REGERRCNT, 31, 0⟩
def SMV_REGERR_ERR : Fld := ⟨.SMV_REGERR, 31, 31⟩
def SMV_REGERR_CAUSE : Fld := ⟨.SMV_REGERR, 25, 22⟩
def SMV_REGERR_REQ : Fld := ⟨.SMV_REGERR, 21, 19⟩
def SMV_REGERR_OFFSET : Fld := ⟨.SMV_REGERR, 18, 2⟩
def SMV_REGERRCNT_COUNT : Fld := ⟨.SMV_REGERRCNT, 31, 0⟩
def BAL_REGERR_ERR : Fld := ⟨.BAL_REGERR, 31, 31⟩
def BAL_REGERR_CAUSE : Fld := ⟨.BAL_REGERR, 25, 22⟩
def BAL_REGERR_REQ : Fld := ⟨.BAL_REGERR, 21, 19⟩
def BAL_REGERR_OFFSET : Fld := ⟨.BAL_REGERR, 18, 2⟩
def BAL_REGERRCNT_COUNT : Fld := ⟨.BAL_REGERRCNT, 31, 0⟩
def MEM_REGERR_ERR : Fld := ⟨.MEM_REGERR, 31, 31⟩
def MEM_REGERR_CAUSE : Fld := ⟨.MEM_REGERR, 25, 22⟩
def MEM_REGERR_REQ : Fld := ⟨.MEM_REGERR, 21, 19⟩
def MEM_REGERR_OFFSET : Fld := ⟨.MEM_REGERR, 18, 2⟩
def MEM_REGERRCNT_COUNT : Fld := ⟨.MEM_REGERRCNT, 31, 0⟩
def YRD_REGERR_ERR : Fld := ⟨.YRD_REGERR, 31, 31⟩
def YRD_REGERR_CAUSE : Fld := ⟨.YRD_REGERR, 25, 22⟩
def YRD_REGERR_REQ : Fld := ⟨.YRD_REGERR, 21, 19⟩
def YRD_REGERR_OFFSET : Fld := ⟨.YRD_REGERR, 18, 2⟩
def YRD_REGERRCNT_COUNT : Fld := ⟨.YRD_REGERRCNT, 31, 0⟩
def LNK_REGERR_ERR : Fld := ⟨.LNK_REGERR, 31, 31⟩
def LNK_REGERR_CAUSE : Fld := ⟨.LNK_REGERR, 25, 22⟩
def LNK_REGERR_REQ : Fld := ⟨.LNK_REGERR, 21, 19⟩
def LNK_REGERR_OFFSET : Fld := ⟨.LNK_REGERR, 18, 2⟩
def LNK_REGERRCNT_COUNT : Fld := ⟨.LNK_REGERRCNT, 31, 0⟩
def ING_REGERR_ERR : Fld := ⟨.ING_REGERR, 31, 31⟩
def ING_REGERR_CAUSE : Fld := ⟨.ING_REGERR, 25, 22⟩
def ING_REGERR_REQ : Fld := ⟨.ING_REGERR, 21, 19⟩
def ING_REGERR_OFFSET : Fld := ⟨.ING_REGERR, 18, 2⟩
def ING_REGERRCNT_COUNT : Fld := ⟨.ING_REGERRCNT, 31, 0⟩
def FXG_REGERR_ERR : Fld := ⟨.FXG_REGERR, 31, 31⟩
def FXG_REGERR_CAUSE : Fld := ⟨.FXG_REGERR, 25, 22⟩
def FXG_REGERR_REQ : Fld := ⟨.FXG_REGERR, 21, 19⟩
def FXG_REGERR_OFFSET : Fld := ⟨.FXG_REGERR, 18, 2⟩
def FXG_REGERRCNT_COUNT : Fld := ⟨.FXG_REGERRCNT, 31, 0⟩
def PRT_REGERR_ERR : Fld := ⟨.PRT_REGERR, 31, 31⟩
def PRT_REGERR_CAUSE : Fld := ⟨.PRT_REGERR, 25, 22⟩
def PRT_REGERR_REQ : Fld := ⟨.PRT_REGERR, 21, 19⟩
def PRT_REGERR_OFFSET : Fld := ⟨.PRT_REGERR, 18, 2⟩
def PRT_REGERRCNT_COUNT : Fld := ⟨.PRT_REGERRCNT, 31, 0⟩
def SNP_REGERR_ERR : Fld := ⟨.SNP_REGERR, 31, 31⟩
def SNP_REGERR_CAUSE : Fld := ⟨.SNP_REGERR, 25, 22⟩
def SNP_REGERR_REQ : Fld := ⟨.SNP_REGERR, 21, 19⟩
def SNP_REGERR_OFFSET : Fld := ⟨.SNP_REGERR, 18, 2⟩
def SNP_REGERRCNT_COUNT : Fld := ⟨.SNP_REGERRCNT, 31, 0⟩
def HSP_REGERR_ERR : Fld := ⟨.HSP_REGERR, 31, 31⟩
def HSP_REGERR_CAUSE : Fld := ⟨.HSP_REGERR, 25, 22⟩
def HSP_REGERR_REQ : Fld := ⟨.HSP_REGERR, 21, 19⟩
def HSP_REGERR_OFFSET : Fld := ⟨.HSP_REGERR, 18, 2⟩
def HSP_REGERRCNT_COUNT : Fld := ⟨.HSP_REGERRCNT, 31, 0⟩
end F

end Sys2Proof.Machine
end

