-- ==== Sys2Proof/Machine/State.lean ====
section
/-! DEFINITION. The state of the package: the register file, memory with its poison marks and Bale classes, the stream,
instance and tile contexts, the package's own context, what has left through its outputs, and the queue of commands. -/
namespace Sys2Proof.Machine

/-- Why the machine would fault: nothing in this model does; every command has an effect that the spec gives. -/
inductive Fault where
  deriving DecidableEq, Repr

/-- Why a command is refused. -/
inductive Refusal where
  /-- Raised by an arm of the dispatch whose command has no meaning yet; safe, since nothing is claimed of it. -/
  | notModelled (mnemonic : String)
  deriving DecidableEq, Repr

/-! ## Registers -/

/-- A register of a tile (64 stands for the package and its boot master, R517) with its index: the entry, slot,
instance, head, function, or the select copy of a requester. -/
structure RegKey where
  reg : Reg
  tile : Nat
  ix : Nat
  deriving DecidableEq, Repr

/-- The place of a register in the file. (DESIGN CHOICE, log entry 31) -/
def RegKey.code (k : RegKey) : Nat := (k.reg.ctorIdx * 128 + k.tile % 128) * 65536 + k.ix % 65536

/-- The tile number under which the package's own registers stand. -/
def pkgTile : Nat := 64

/-- The word a register holds after reset (R532): the tabled value of each field. -/
def resetWord (r : Reg) : Word := r.fields.foldl (fun w f => setBits w f.hi f.lo f.reset) 0

/-- The bits of a register that belong to a field; the others are reserved and read zero (R18). -/
def implMask (r : Reg) : Word := r.fields.foldl (fun w f => w ||| maskOf f.hi f.lo) 0

/-! ## Requests, records and windows (chapter 11) -/

/-- A completion record (R318); `kind` 0 REQUEST, 1 WORK, 2 LATE. `PHASE` is set when the record is written. -/
structure Cpl where
  ptime : Nat := 0
  digest : Nat := 0
  seq : Nat := 0
  stream : Nat := 0
  status : Nat := 0
  orig : Nat := 0
  inst : Nat := 0
  epoch : Nat := 0
  kind : Nat := 0
  deriving DecidableEq, Repr, Inhabited

/-- One entry of a replay window (R316): the request, its record once it has completed, and the origins of duplicates
that wait for it (R317). -/
structure WinEntry where
  seq : Nat
  digest : Nat
  done : Option Cpl := none
  dups : List Origin := []
  deriving DecidableEq, Repr

/-- A replay window (R316): the highest sequence number accepted and the entries. -/
structure Window where
  high : Option Nat := none
  entries : List WinEntry := []
  deriving DecidableEq, Repr, Inhabited

/-- A request that was accepted and has not completed. -/
structure LiveReq where
  origin : Origin
  opc : Nat
  ctl : Bool
  stream : Nat
  epoch : Nat
  seq : Nat
  deriving DecidableEq, Repr

/-- A piece of a buffer that one transfer moves (R330), with its place in the item's data. -/
structure Piece where
  addr : Nat
  len : Nat
  bale : Bool
  off : Nat
  deriving DecidableEq, Repr

/-- Data that a read brought: its place in the item's data, the bytes, and its poisoned granules by their number in the
item's data. -/
structure Got where
  off : Nat
  data : List Byte
  bad : List Nat
  deriving DecidableEq, Repr

/-- A work item of a stream, from its enqueue until it has completed and its writes are acknowledged (R335). It is
named by the tile, queue and slot counter that hold it; queue 20 holds the barriers of `BARRIER` requests and queue 21 those
that firmware inserts between stages (R308). `req` is the request that completes with it; `no` counts the stream's barriers. -/
structure LiveItem where
  tile : Nat
  q : Nat
  slot : Nat
  flags : Nat := 0
  req : Option LiveReq := none
  writes : Nat := 0
  done : Bool := false
  no : Nat := 0
  deriving DecidableEq, Repr

/-- A work-item slot on chip (R322). For a transfer item: the pieces of its source and destination still to be issued,
what has been read, the bytes still to be written, the digest source, and whether a `LATE` record has been sent. -/
structure Item where
  q : Nat
  slot : Nat
  stream : Nat := 0
  engine : Nat := 0
  flags : Nat := 0
  frame : Nat := 0
  seq : Nat := 0
  epoch : Nat := 0
  payload : List Byte := []
  rsvd : Bool := false
  started : Bool := false
  resolved : Bool := false
  reads : List Piece := []
  got : List Got := []
  writes : List Piece := []
  outData : List Byte := []
  bad : List Nat := []
  status : Nat := 0
  late : Bool := false
  deriving DecidableEq, Repr, Inhabited

/-- A transfer in flight under one transaction tag (R332). `fetch` marks a burst of work-item slots (R324), `host` a read
of host memory; `off` is its place in the item's data. -/
structure Xfer where
  tag : Nat
  q : Nat
  slot : Nat := 0
  stream : Nat := 0
  inst : Nat := 0
  epoch : Nat := 0
  write : Bool := false
  fetch : Bool := false
  host : Bool := false
  remote : Bool := false
  posted : Bool := false
  addr : Nat
  len : Nat
  off : Nat := 0
  data : List Byte := []
  bad : List Nat := []
  bale : Bool := false
  deriving DecidableEq, Repr

/-- What a ring took when it was enabled (R344), and the turn of its counter. -/
structure RingCfg where
  on : Bool := false
  log : Nat := 0
  base : Nat := 0
  deriving DecidableEq, Repr, Inhabited

/-- A record that waits for room in a completion ring (R320). -/
structure CqRec where
  r : Nat
  cpl : Cpl
  deriving DecidableEq, Repr

/-! ## Memory (chapter 13) -/

/-- A line of a weight-cache slice: its line number (address / 256), whether its miss fill is still on the way, and the
tiles that wait for it (R404). -/
structure WcLine where
  line : Nat
  filling : Bool := false
  waiters : List Nat := []
  refetch : Bool := false
  deriving DecidableEq, Repr

/-! ## Instances and programs (chapters 03 and 14) -/

/-- One record of a Bridle section or of an analytics graph section (R101, R102). -/
structure Rec where
  typ : Nat
  data : List Byte
  deriving DecidableEq, Repr

/-- A cut of a mapping section: the tile that runs it and its 64-byte descriptor, ranks rewritten (R214, R440). -/
structure PCut where
  tile : Nat
  desc : List Byte
  deriving DecidableEq, Repr

/-- What a head program declares (R170, R172, R187): the taps it reads with the shape it expects of each (rows, columns,
channels), the bytes of its features, whether it detects anomalies, whether it is a Bridle graph, and its adaptation record. -/
structure HeadInfo where
  taps : List (Nat × Nat × Nat × Nat) := []
  featLen : Nat := 0
  detector : Bool := false
  adapt : List Byte := []
  tail : List (Nat × Nat × List Nat × List Nat) := []
  deriving DecidableEq, Repr

/-- A loaded program of an instance (R103): its Bridle profile (none without a Bridle section), its digest, the records
of its Bridle or graph section, the cuts of its mapping section, the tiles of its overlays (R340), what it declares as a head, and
its tap reservation: for each tap a tile, an offset in its working store, and the bytes of both copies (R165). -/
structure Prog where
  id : Nat
  profile : Option Nat := none
  digest : List Byte := []
  recs : List Rec := []
  cuts : List PCut := []
  overlays : List Nat := []
  head : Option HeadInfo := none
  tapSpace : List (Nat × Nat × Nat × Nat) := []
  deriving DecidableEq, Repr

/-- What an instance holds beside its registers: its control window, the requests it has accepted and not completed, its
programs, the tiles that run an overlay, when its reset began, and whether a reset or destroy is being carried out. -/
structure Inst where
  ctl : Window := {}
  reqs : List LiveReq := []
  progs : List Prog := []
  overlays : List Nat := []
  resetAt : Nat := 0
  destroying : Bool := false
  zero : Bool := false
  creating : Bool := false
  flr : Bool := false
  deriving DecidableEq, Repr, Inhabited

/-! ## The compute array and the special function unit (chapters 07 and 09) -/

/-- A cut work item in the array (R222): the item, its program and cut, the next block to start and how many are done, the
sides whose halo has arrived (0 to 3: N, S, W, E), whether its microprogram failed both loads (R266), whether a block was
poisoned, and the elements and scale codes stored so far, each keyed by its canonical place (R497). -/
structure CutRun where
  q : Nat
  slot : Nat
  stream : Nat
  frame : Nat
  prog : Nat
  cut : Nat
  next : Nat := 0
  done : Nat := 0
  halos : List Nat := []
  microBad : Bool := false
  bad : Bool := false
  outs : List (Nat × Nat) := []
  scales : List (Nat × Nat) := []
  deriving DecidableEq, Repr

/-- A block that computes or drains (R223), with the cycles it holds the array. -/
structure ArrBlock where
  q : Nat
  slot : Nat
  block : Nat
  cycles : Nat
  deriving DecidableEq, Repr

/-- The row fence of the band that a producing cut writes (R218): the stream and frame it counts for and the rows
stored. -/
structure Fence where
  prog : Nat
  cut : Nat
  stream : Nat
  frame : Nat
  rows : Nat
  deriving DecidableEq, Repr

/-- A halo that has arrived for a cut of a program (R217, R218): the stream and frame it is of, and its side. -/
structure HaloIn where
  prog : Nat
  cut : Nat
  stream : Nat
  frame : Nat
  side : Nat
  deriving DecidableEq, Repr

/-- A resident microprogram (R266): the program and record it comes from, in its entry, and when it was last used. -/
structure Micro where
  entry : Nat
  prog : Nat
  recIx : Nat
  used : Nat := 0
  deriving DecidableEq, Repr

/-- What a stream keeps of a completed cut until its frame's digest records are written (R498). -/
structure DigCut where
  frame : Nat
  ch : Nat
  cut : Nat
  outs : List (Nat × Nat) := []
  scales : List (Nat × Nat) := []
  bad : Bool := false
  deriving DecidableEq, Repr

/-! ## Movon (chapter 12) -/

/-- One path of a peer entry (R375). -/
structure MvPathCfg where
  port : Nat := 0
  vlan : Nat := 0
  udp : Nat := 0
  mac : Nat := 0
  addr : Nat := 0
  deriving DecidableEq, Repr, Inhabited

/-- A frame sent and not acknowledged (R376): its `LSEQ`, message, fragment offset and bytes, how often it has been
sent again, and its DSCP. -/
structure MvTx where
  lseq : Nat
  msg : Nat
  foff : Nat
  bytes : List Byte
  tries : Nat := 0
  dscp : Nat := 0
  deriving DecidableEq, Repr

/-- The link layer of one path (R376 to R378). -/
structure MvLink where
  up : Bool := true
  tx : Nat := 0
  rx : Nat := 0
  unacked : List MvTx := []
  held : List MvFrame := []
  probes : Nat := 0
  deriving DecidableEq, Repr, Inhabited

/-- What a message stands for at its sender: nothing more, a transfer's write under a tag, a link-transmit item, or a
directory request. -/
inductive MvCtx where
  | plain | xfer (t tag : Nat) | item (t q slot : Nat) | egress (id : Nat) | dir (op name : Nat)
  deriving DecidableEq, Repr

/-- A message that waits for its `RESP` (R379, R380). -/
structure MvMsg where
  id : Nat
  mtype : Nat
  path : Nat
  inst : Nat
  epoch : Nat
  stream : Nat
  payload : List Byte
  poison : Bool := false
  again : Bool := false
  ctx : MvCtx := .plain
  dscp : Nat := 0
  deriving DecidableEq, Repr

/-- A message received in part: its identifier, its bytes so far, and whether a fragment was poisoned. -/
structure MvPart where
  msg : Nat
  bytes : List Byte
  poison : Bool := false
  deriving DecidableEq, Repr

/-- A peer (R375, R381): its entry, the link layer of its paths, the messages sent to it, the message identifiers last
received with the `RESP` payload answered, and the messages not yet whole. -/
structure MvPeer where
  kind : Nat := 0
  enc : Nat := 0
  mgmt : Bool := false
  mask : Nat := 0
  paths : List MvPathCfg := []
  links : List MvLink := []
  msgs : List MvMsg := []
  seen : List (Nat × List Byte) := []
  parts : List MvPart := []
  deriving DecidableEq, Repr, Inhabited

/-! ## The entropy coding engine (chapter 04) -/

/-- A work item in the ECE (R122): what its descriptor names, the payload or the symbols it read, and the groups whose
means and indices the latent path has released to a decode item; of a decode item `syms` are those decoded so far. -/
structure EceRun where
  slot : Nat
  dec : Bool
  stream : Nat
  frame : Nat
  plot : Nat
  cap : Nat
  addr : Nat
  inst : Nat
  prog : Nat
  bad : Bool := false
  payload : List Byte := []
  syms : List (Int × Int × Nat) := []
  released : Nat := 0
  deriving DecidableEq, Repr

/-- A table set of an ECE (R115): its number, the program it holds, whether it is still loading, and when it was last
used. -/
structure TSet where
  ix : Nat
  inst : Nat
  prog : Nat
  loading : Bool := false
  used : Nat := 0
  deriving DecidableEq, Repr

/-! ## The learned codec and the OSF stream (chapters 02 and 05) -/

/-- One buffer of a reference pool and its marks (R54). -/
structure PoolBuf where
  cur : Bool := false
  refS : Bool := false
  refL : Bool := false
  frame : Nat := 0
  deriving DecidableEq, Repr, Inhabited

/-- How far one plot of a frame has come: not coded or not arrived, coded, withheld; arrived, decoded, missing. -/
inductive PlotPhase where
  | waiting | coded | withheld | arrived | decoded | missing
  deriving DecidableEq, Repr, Inhabited

/-- One plot (or Campion channel) of a frame, with its payload; for Campion also its symbols as values, means and scale
indices in coding order. -/
structure PlotSt where
  ix : Nat
  phase : PlotPhase := .waiting
  payload : List Byte := []
  bad : Bool := false
  zeroed : Bool := false
  syms : List (Int × Int × Nat) := []
  deriving DecidableEq, Repr

/-- The shape a learned-codec stream runs in (R45 to R55, R138). -/
structure LscShape where
  prog : Nat := 0
  profile : Nat := 0
  width : Nat := 0
  height : Nat := 0
  channels : Nat := 0
  rate : Nat := 0
  bits : Nat := 0
  chroma : Nat := 0
  latch : Nat := 0
  hypch : Nat := 0
  nref : Nat := 1
  deriving DecidableEq, Repr, Inhabited

/-- A frame of a learned-codec stream, or a Campion plot, from its boundary (in a decoder, its unit) until it completes:
what its unit says, the rate controller's state (R62), the plots, and how far it has come; of a Campion plot, how many 20 ms frames
of each channel have their ŷ in the reference pool (`refRows`), and which tap frames have become ready (`tapped`). -/
structure LscFrame where
  frame : Nat
  key : Bool
  keyAt : Nat := 0
  hgen : Nat := 0
  ptime : Nat := 0
  ltr : Bool := false
  incond : Nat := 0
  refS : Nat := 0xFFFFFFFF
  refL : Nat := 0xFFFFFFFF
  shape : LscShape := {}
  nrow : Nat := 0
  mode : Nat := 0
  lo : Nat := 0
  hi : Nat := 63
  start : List Nat := []
  target : Nat := 0
  ended : Bool := true
  exempt : Bool := false
  q : List (List Nat) := []
  clamped : Bool := false
  plots : List PlotSt := []
  fill : Nat := 0
  begun : Bool := false
  closed : Bool := false
  pathDone : Bool := false
  drop : Bool := false
  emitted : Bool := false
  event : Bool := false
  join : Bool := false
  sts : List Nat := []
  final : Option Nat := none
  hdr : List Byte := []
  newHdr : Bool := false
  rate : Nat := 0
  refDone : Bool := false
  recon : List (List Byte) := []
  refRows : List Nat := []
  tapped : List (Nat × Nat) := []
  srcConds : List Nat := []
  digest : Nat := 0
  taken : List Nat := []
  pics : List Nat := []
  deriving DecidableEq, Repr, Inhabited

/-- The refresh request a decoder has outstanding (R74, R155). -/
structure Refresh where
  frame : Nat
  reason : Nat
  count : Nat
  deriving DecidableEq, Repr

/-- An input that a stage of the stream hands to the learned encoder: its package time, its conditions as `INCOND` bits,
its codes of class 0x02, how many frames it holds, and the input item or the decoded picture's buffer it stands in. -/
structure LscInput where
  ptime : Nat
  incond : Nat
  conds : List Nat
  frames : Nat := 1
  done : Nat := 0
  item : Option Nat := none
  pic : Option Nat := none
  after : Option Nat := none
  deriving DecidableEq, Repr

/-- A frame of a retained tap (R165): the tap, the source frame, the key latent it depends on, its rows, columns and
channels, its values in the tap's layout, which of the tap's two copies holds it, and where that stands. -/
structure TapFrame where
  tap : Nat
  frame : Nat
  keyAt : Nat := 0
  dims : Nat × Nat × Nat := (0, 0, 0)
  bytes : List Byte := []
  bad : Bool := false
  turn : Nat := 0
  place : Option Nat := none
  deriving DecidableEq, Repr

/-- Units that wait for a link-transmit item (R365): their frame, their bytes, and the slot of their item once it has one. -/
structure Egress where
  frame : Nat
  bytes : List Byte
  poison : Bool := false
  slot : Option Nat := none
  msg : Option Nat := none
  deriving DecidableEq, Repr

/-- The learned-codec state of a stream slot. -/
structure Lsc where
  pool : List PoolBuf := []
  frames : List LscFrame := []
  inputs : List LscInput := []
  shape : LscShape := {}
  struct : Bool := false
  held : Bool := false
  started : Bool := false
  nextFrame : Nat := 0
  sinceTrue : Nat := 0
  lastKey : Nat := 0
  lastHdr : List Byte := []
  hgen : Nat := 0
  body : Option (List Byte) := none
  refused : Option Nat := none
  joined : Bool := false
  lastUnit : Option Nat := none
  keyed : Bool := false
  lastGood : Nat := 0xFFFFFFFF
  rfr : Option Refresh := none
  encStream : Nat := 0
  fromPeer : Option Nat := none
  campQ : List Nat := []
  outOff : Nat := 0
  taps : List TapFrame := []
  deriving DecidableEq, Repr, Inhabited

/-! ## Analytics heads (chapter 06) -/

/-- A weight tensor of a head's tail (R188, R246): its rows and columns, its master weights and the learned scale of each row as BF16
codes, the two moments as codes with the code of each block of 32, and what inference reads: a code for each row and the
weights. -/
structure TailTensor where
  rows : Nat
  cols : Nat
  w : List Nat := []
  s : List Nat := []
  m : List Nat := []
  mc : List Nat := []
  v : List Nat := []
  vc : List Nat := []
  code : List Nat := []
  q : List Nat := []
  deriving DecidableEq, Repr

/-- A source frame whose evaluation is due or runs: its number, its package time, whether the head's state was cleared for
it, the codes of its completion and `INCOND`, and the bytes of the taps read. -/
structure HeadRun where
  frame : Nat
  ptime : Nat := 0
  cleared : Bool := false
  conds : List Nat := []
  taps : List (Nat × List Byte) := []
  bad : Bool := false
  gen : Nat := 0
  weights : List TailTensor := []
  deriving DecidableEq, Repr

/-- An adaptation window (R185) with its request, the package time at which it opened, the steps it has taken, its samples, and how
many labels of its history found no pair (R186). -/
structure AdaptWin where
  desc : List Byte
  req : LiveReq
  opened : Option Nat := none
  steps : Nat := 0
  validating : Bool := false
  train : List (List Byte) := []
  valid : List (List Byte) := []
  unpaired : Nat := 0
  deriving DecidableEq, Repr

/-- What a source frame's completion said, for the heads that read it: the first frame and how many a Campion plot
holds, package time and codes (R173). -/
structure SrcFrame where
  frame : Nat
  n : Nat := 1
  ptime : Nat
  conds : List Nat
  deriving DecidableEq, Repr

/-- The state of a head (R170 to R192): the last frame it came to and the last whose taps its state has seen, the evaluation that
runs, its evaluations since it opened and those that were written to its ring, its messages, and its weights: those in use, the
previous generation's and a candidate's. -/
structure Head where
  last : Option Nat := none
  seen : Option Nat := none
  run : Option HeadRun := none
  seq : Nat := 0
  evals : Nat := 0
  msgs : Nat := 0
  hasPrev : Bool := false
  gen : Nat := 0
  weights : List TailTensor := []
  prevW : List TailTensor := []
  cand : List TailTensor := []
  hist : Nat := 0
  wins : List AdaptWin := []
  deriving DecidableEq, Repr, Inhabited

/-! ## The standard codec engine (chapter 10) -/

/-- The settings that an input picture is coded under (R282, R289 to R292). -/
structure SceSet where
  codec : Nat := 0
  bits : Nat := 8
  chroma : Nat := 1
  width : Nat := 0
  height : Nat := 0
  gopmode : Nat := 0
  goplen : Nat := 1
  mode : Nat := 0
  qp : Nat := 32
  lo : Nat := 0
  hi : Nat := 51
  target : Nat := 0
  keyratio : Nat := 16
  bratio : Nat := 2
  stats : Bool := false
  cavlc : Bool := false
  slicerows : Nat := 0
  deriving DecidableEq, Repr, Inhabited

/-- A picture of an SCE stream, from the moment it is taken in: its number in input order, its input item with the place
of its data, its type (0 key, 1 P, 2 B, 3 other intra), whether a structural field changed at its boundary, its settings, how
many pictures an encoder's picture follows its key picture by and the input numbers of the pictures it refers to (R287), the
tile and slot of its work item, and once it is begun its number in coding order, its buffer, its conditions, whether it
opens an event of R295 or follows one, what its header says, and its picture order count. -/
structure ScePic where
  n : Nat := 0
  item : Nat := 0
  off : Nat := 0
  len : Nat := 0
  ptime : Nat := 0
  incond : Nat := 0
  conds : List Nat := []
  typ : Nat := 1
  struct : Bool := false
  set : SceSet := {}
  since : Nat := 0
  refs : List Nat := []
  place : Option (Nat × Nat) := none
  frame : Nat := 0
  buf : Nat := 0
  event : Bool := false
  concealed : Bool := false
  hdr : Option SceHdr := none
  poc : Int := 0
  deriving DecidableEq, Repr, Inhabited

/-- A frame buffer and its marks (R284), with the picture it holds: its number, package time, conditions and digest, its input
number (encoder), its `frame_num`, long-term index, picture order count, whether it still waits to be output and owes a
completion, its format and whether film grain is applied to its output (decoder), and the number of the barrier whose completion releases it (R286). -/
structure SceBuf where
  cur : Bool := false
  refS : Bool := false
  refL : Bool := false
  out : Bool := false
  frame : Nat := 0
  ptime : Nat := 0
  conds : List Nat := []
  digest : Nat := 0
  n : Nat := 0
  frameNum : Nat := 0
  longIdx : Nat := 0
  poc : Int := 0
  wait : Bool := false
  owed : Bool := false
  seq : SceSeq := {}
  grain : Bool := false
  outAt : Option Nat := none
  deriving DecidableEq, Repr, Inhabited

/-- The SCE state of a stream: its pool, the pictures in coding order whose coding has not begun, the open mini-GOP, the
picture in progress, the counts of its boundaries, and what a decoder's headers leave (R280, R294): the buffers of the AV1 slots
filled since the last key frame, the count and `frame_num` of the previous reference, whether a picture has been decoded, and
whether RASL pictures are discarded. -/
structure Sce where
  pool : List SceBuf := []
  queue : List ScePic := []
  gop : List ScePic := []
  run : Option ScePic := none
  nextIn : Nat := 0
  nextFrame : Nat := 0
  sinceTrue : Nat := 0
  started : Bool := false
  held : Bool := false
  last : SceSet := {}
  rfr : Option Nat := none
  stOff : Nat := 0
  slots : List (Option Nat) := []
  prevPoc : Int := 0
  prevNum : Option Nat := none
  decoded : Bool := false
  skipRasl : Bool := false
  deriving DecidableEq, Repr, Inhabited

/-! ## Ingest (chapter 12) -/

/-- A piece of a NAL unit in an open access unit: the packet it came in, its place there, and whether it is the unit's first
and last piece. -/
structure IngNal where
  seq : Nat
  ord : Nat
  first : Bool
  last : Bool
  data : List Byte
  deriving DecidableEq, Repr

/-- An open access unit, raw frame or plot (R358 to R361): its RTP timestamp, block number or first sample index, package time,
its first and marked packets, the size and format of its leader, its lines or samples by number, its NAL pieces, the packets
received, and the padding and picture shape (width, height, bits, chroma) in force at its start. -/
structure IngUnit where
  key : Nat
  ptime : Nat
  seq0 : Nat := 0
  marker : Option Nat := none
  leader : Option (Nat × Nat × Nat × Nat) := none
  parts : List (Nat × List Byte) := []
  nals : List IngNal := []
  pkts : List Nat := []
  pad : Nat := 0
  shape : Nat × Nat × Nat × Nat := (0, 0, 0, 0)
  deriving DecidableEq, Repr

/-- The ingest state of a stream: the open units, oldest first, the next input slot, the last unit closed, the last
sequence number of a closed unit, the flow entry (none, in use, or disabled by a reset; R356, R429), the input slots in use
with the queue slots that consume them, and the inputs that wait for room in their queue (R323, R364). -/
structure Ing where
  units : List IngUnit := []
  next : Nat := 0
  closed : Option Nat := none
  lastSeq : Option Nat := none
  flow : Nat := 0
  used : List (Nat × Nat) := []
  ready : List (List Byte) := []
  deriving DecidableEq, Repr, Inhabited

/-! ## Publication, labels and the stream directory (chapters 06 and 12) -/

/-- A field of a published DataSet, by the type of its Variant (R178): a Float as its FP32 code, a Boolean or a UInt32. -/
inductive PubField where
  | float (code : Nat)
  | boolean (b : Bool)
  | uint32 (v : Nat)
  deriving DecidableEq, Repr

/-- A publish channel as it was read (R367), with the count of its messages. -/
structure PubChan where
  ix : Nat
  port : Nat
  inst : Nat
  en : Bool
  ipv6 : Bool
  dscp : Nat
  vlan : Nat
  udp : Nat
  pubId : Nat
  wgId : Nat
  dst : Nat
  seq : Nat := 0
  deriving DecidableEq, Repr

/-- A label binding as it was read (R182), with the labels it has given. -/
structure LblBind where
  ix : Nat
  proto : Nat
  typ : Nat
  inst : Nat
  src : Nat
  addr : Nat
  unit : Nat
  fc : Nat
  scale : Nat
  offset : Nat
  ring : Nat
  pages : Nat
  seq : Nat := 0
  deriving DecidableEq, Repr

/-- A Modbus request that a response can pair with (R183). -/
structure MbReq where
  tuple : Nat
  tid : Nat
  server : Nat
  unit : Nat
  fc : Nat
  addr : Nat
  count : Nat
  answered : Bool := false
  deriving DecidableEq, Repr

/-- A name of the stream directory (R386). -/
structure DirEnt where
  name : Nat
  dev : Nat
  stream : Nat
  inst : Nat
  deriving DecidableEq, Repr

/-! ## Start-up, power, the Yard and Hasp (chapters 13, 15, 16 and 17) -/

/-- An entry of the defect list (R465). -/
structure DefEnt where
  kind : Nat
  tile : Nat
  index : Nat := 0
  stage : Nat := 9
  start : Nat := 0
  deriving DecidableEq, Repr

/-- A copy of the defect list on the flash, with its generation (R465). -/
structure DlCopy where
  gen : Nat
  ents : List DefEnt := []
  deriving DecidableEq, Repr

/-- A copy of the start counter on the flash, with its generation (R464): the starts, and those since the last full test. -/
structure CntCopy where
  gen : Nat
  starts : Nat
  sinceFull : Nat
  deriving DecidableEq, Repr

/-- A copy of the saved training settings (R463): its header and, of the settings, the units they are of: each half-stack with
its serving tile, and the lanes. (DESIGN CHOICE, log entry 64) -/
structure TrainCopy where
  gen : Nat
  devid : Nat
  linkdig : List Byte
  temps : List Nat
  halves : List (Nat × Nat) := []
  lanes : List Nat := []
  deriving DecidableEq, Repr

/-- What outlives the loss of power: the fuses with the Hasp store, once the part has been started, and what the device
itself writes on the configuration flash: the copies of the start counter, of the defect list and of the training settings. -/
structure Perm where
  fuses : Option Fuses := none
  cnt : List CntCopy := []
  dl : List DlCopy := []
  train : List TrainCopy := []
  deriving DecidableEq, Repr, Inhabited

/-- What the always-on domain keeps through package resets: the pins `PWR_GOOD_AON` and `PWR_GOOD` and the `MASTER_SEL` strap,
whether S0 has completed, the stage that completes next (9: running, 10: halted), when it began, the image that a fallback
excludes (R454), whether a package reset began this start, so that its first record is that of S1 (R468), and whether it goes on
after a failure in S7, the escalation records with source, instance and tile (R438), the
packets in flight at the package reset (R439), and until when Hasp refuses attempts (R508). -/
structure AonSt where
  pgAon : Bool := false
  pg : Bool := false
  masterSel : Bool := false
  s0 : Bool := false
  next : Nat := 0
  stageAt : Nat := 0
  exclude : Option Nat := none
  anew : Bool := false
  fall : Bool := false
  escs : List (Nat × Nat × Nat) := []
  inflight : Nat := 0
  lockUntil : Nat := 0
  deriving DecidableEq, Repr, Inhabited

/-- What a start has found (R444 to R464): the chosen image, the defect list in force, the units trained in full, the stack
temperatures it met, the training copy it uses, and the tiles whose firmware failed in S7, which the tile maps still show (R5,
R32, R461). -/
structure Boot where
  image : List Byte := []
  dl : List DefEnt := []
  fullHalves : List Nat := []
  fullLanes : List Nat := []
  temps : List Nat := []
  train : Option TrainCopy := none
  failed : List Nat := []
  deriving DecidableEq, Repr, Inhabited

/-- The routers and the edges out of service, the edges that went down since the last quiesce sequence, and the sequence itself
(R410 to R415): whether it has reached step 3, and whether a further one is due. An edge is named by the lower tile and its port
there (0 N, 2 E). -/
structure Yard where
  routers : List Nat := []
  dead : List (Nat × Nat) := []
  down : List (Nat × Nat) := []
  reached : Bool := false
  again : Bool := false
  deriving DecidableEq, Repr, Inhabited

/-- The limiter and the throttle (R476 to R481): the step of each in MHz, the cap they last met, and how many decisions in a
row found the power low, the power above the limit at 600 MHz, and the package cool. -/
structure Pwr where
  lim : Nat := 0
  thr : Nat := 0
  cap : Nat := 0
  low : Nat := 0
  floor : Nat := 0
  cool : Nat := 0
  deriving DecidableEq, Repr, Inhabited

/-- Hasp (R506, R509): a nonce is live, and until when it is open. -/
structure Hasp where
  nonce : Bool := false
  until_ : Nat := 0
  deriving DecidableEq, Repr, Inhabited

/-! ## The contexts of a stream slot, a tile and the package -/

/-- The context of a stream slot (R306) beside its registers, keyed by the stream ID. -/
structure Stream where
  inst : Nat := 0
  epoch : Nat := 0
  stages : Nat := 0
  cplcfg : Nat := 0
  xfq : Nat := 0
  seed : Nat := 0
  tiles : Nat := 0
  iblist : Nat := 0
  oblist : Nat := 0
  window : Window := {}
  items : List LiveItem := []
  closeReq : Option LiveReq := none
  barriers : Nat := 0
  digs : List DigCut := []
  digSeq : Nat := 0
  lsc : Lsc := {}
  sce : Sce := {}
  ing : Ing := {}
  egress : List Egress := []
  name : Nat := 0
  head : Head := {}
  srcs : List SrcFrame := []
  deriving DecidableEq, Repr, Inhabited

/-- The context of a tile beside its registers: what its engines hold. -/
structure Tile where
  items : List Item := []
  xfers : List Xfer := []
  cqWait : List CqRec := []
  erWait : List Cpl := []
  sqRing : List RingCfg := [{}, {}, {}, {}]
  cqRing : List RingCfg := [{}, {}, {}, {}]
  erRing : RingCfg := {}
  qBase : List Nat := []
  wc : List WcLine := []
  runs : List CutRun := []
  blocks : List ArrBlock := []
  fences : List Fence := []
  halosIn : List HaloIn := []
  micro : List Micro := []
  ece : List EceRun := []
  tsets : List TSet := []
  sceHeld : Option Nat := none
  sceBusy : Option Nat := none
  wake : Option Nat := none
  deriving DecidableEq, Repr, Inhabited

/-- The package's own context. -/
structure Pkg where
  /-- The pending latch time, its sources, and the tile of the first tile-local source (R501, R502). -/
  snapT : Option Nat := none
  snapSrc : Nat := 0
  snapTile : Option Nat := none
  /-- The Movon peers by endpoint number, and the identifier of the next message (R373, R375). -/
  peers : List (Nat × MvPeer) := []
  nextMsg : Nat := 0
  /-- The publish channels and label bindings as last read (R182, R367), the Modbus requests that can still pair (R183), and
  the names that this device holds as cascade master (R386). -/
  pubs : List PubChan := []
  lbls : List LblBind := []
  mbs : List MbReq := []
  names : List DirEnt := []
  /-- The completion records that `CPL` messages brought, with the endpoint each came from (R382). -/
  cpls : List (Nat × Cpl) := []
  /-- The IP interfaces of the ports (R349), and the device that the image names as cascade master (R384). -/
  ifaces : List NetIface := []
  masterDev : Nat := 0
  /-- The part of the measured offset that is still to be slewed (R352). -/
  ptpSlew : Int := 0
  /-- Consecutive Sync intervals with an offset within 1,000 ns (R352). -/
  ptpGood : Nat := 0
  /-- A Yard quiesce sequence or a package-reset drain withholds injection credits (R414, R439). -/
  held : Bool := false
  /-- A requested package reset drains (R439), and `SNAP_OUT` is high (R501). -/
  drain : Bool := false
  snapOut : Bool := false
  yard : Yard := {}
  pwr : Pwr := {}
  hasp : Hasp := {}
  boot : Boot := {}
  aonSt : AonSt := {}
  perm : Perm := {}
  deriving DecidableEq, Repr, Inhabited

/-- What leaves the package. (DESIGN CHOICE, log entry 145) -/
inductive Emission where
  /-- An MSI-X message of function `fn`, numbered as `LNK_HWSEL` numbers it: 0–63 the instance, 64 the physical function. -/
  | msix (fn vector : Nat)
  /-- A Movon frame to an endpoint on one of its paths (R373): the address that it is sent to, its MAC or that of the next hop, and
  its DSCP (R349, R389). -/
  | movon (peer path via dscp : Nat) (bytes : List Byte)
  /-- A write into host memory through the window of function `fn` (R371). -/
  | hostWrite (fn addr : Nat) (data : List Byte) (poison : Bool)
  /-- A read of host memory under a tag of a tile, answered by HOST_READ_COMPLETION. -/
  | hostRead (t tag fn addr len : Nat)
  /-- The answer to a register access or a host access. -/
  | reply (q : Requester) (data : Nat) (status : Nat)
  /-- The bytes of a memory read, with its poison mark. -/
  | data (q : Requester) (a : Nat) (bytes : List Byte) (poison : Bool)
  /-- Units of a learned decoder for the encoder of its stream, where it came by `INPUT` (R74). -/
  | osf (id : Nat) (bytes : List Byte)
  /-- An OPC UA PubSub message (R177, R178): the channel that it goes to with its PublisherId, WriterGroupId, addresses, VLAN and
  group sequence number, the DataSetMessage's writer, sequence number, DateTime and status, and its fields as Variants. -/
  | publish (chan : PubChan) (dsw seq time status : Nat) (fields : List PubField)
  /-- An access unit as RTP packets out of a port to the first path of an endpoint, by its next hop (R349, R365). -/
  | rtp (peer port via udp dscp : Nat) (packets : List (List Byte))
  /-- An RTCP receiver report of a stream: alone (0), or with a PLI (1) or a FIR (2) (R297, R366). -/
  | rtcp (id kind : Nat)
  /-- A Rinsyn key request to the encoding peer of a decoder (R297). -/
  | keyReq (id : Nat)
  /-- A PTP message out of the PTP port, in a domain over a transport (R351): 0 a two-step Sync, 1 a Delay_Req, 2 a Delay_Resp, 3 an
  Announce with priority1 128 and clockClass 248. -/
  | ptp (port kind domain transport : Nat)
  /-- An answer to ARP, Neighbour Discovery or echo on an interface of a port (R349). -/
  | answer (port vlan : Nat)
  /-- A weight line to the tile that reads it (R404). -/
  | line (t a : Nat) (bytes : List Byte) (poison : Bool)
  /-- A function level reset of virtual function `k` is complete (R423). -/
  | flrDone (k : Nat)
  deriving DecidableEq, Repr

/-- The state of the package.  Every list but `pending` and `out` is a sorted map whose unlisted keys read as the value
stated: a register as its reset word, a byte as 0, a Bale class as ZERO, a context as the empty one.
(DESIGN CHOICE, log entry 30) -/
structure State where
  /-- The commands that wait, first in, first out. -/
  pending : List Instr
  /-- The words last written to the registers, by software or hardware. -/
  regs : List (RegKey × Word)
  /-- The words in force of registers whose written word waits for a boundary (R529). -/
  force : List (RegKey × Option Word)
  /-- The `_HI` words latched for a requester by its read of `_LO` (R531); the index is the requester's copy. -/
  latch : List (RegKey × Option Word)
  /-- What is left of counters that count in units of 256. -/
  resid : List (RegKey × Nat)
  /-- The register words a snapshot copied (R499). -/
  snap : List (RegKey × Option Word)
  /-- Device memory: HBM and working stores (R390); an unlisted byte reads 0. -/
  mem : List Host.Cell
  /-- The poisoned 64-byte granules, by number (R338). -/
  poison : List (Nat × Bool)
  /-- The Bale class of each 256-byte HBM block, by number (R392). -/
  bale : List (Nat × Nat)
  streams : List (Nat × Stream)
  insts : List (Nat × Inst)
  tiles : List (Nat × Tile)
  pkg : Pkg
  /-- What has left the package, oldest first. -/
  out : List Emission
  /-- Package time in ns (R351). -/
  now : Nat
  /-- Time since the always-on domain started, in ns. -/
  aon : Nat
  /-- The model's own field: how many free values have been drawn (an undefined value is the opaque function of this). -/
  draws : Nat
  deriving DecidableEq, Repr

/-- The package as power arrives: every register at its reset word, memory listing nothing, no context.
(DESIGN CHOICE, log entry 30) -/
def State.reset : State where
  pending := []
  regs := []
  force := []
  latch := []
  resid := []
  snap := []
  mem := []
  poison := []
  bale := []
  streams := []
  insts := []
  tiles := []
  pkg := {}
  out := []
  now := 0
  aon := 0
  draws := 0

/-- A byte that nothing has written reads 0. (DESIGN CHOICE, log entry 29) -/
def memDefault : Byte := 0

/-- The class of a block that nothing has written: ZERO, as S5 leaves every block (R458). (DESIGN CHOICE, log entry 29) -/
def baleDefault : Nat := 0

/-- Memory is in its canonical form: addresses strictly rising, no entry equal to what an unlisted address reads as. -/
def Memory.wf (m : List Host.Cell) : Bool := mapWf id (fun _ => memDefault) m

/-! ## Reading the state -/

/-- The word last written to a register. -/
def State.reg (s : State) (r : Reg) (t ix : Nat) : Word := mapGet RegKey.code (resetWord r) s.regs ⟨r, t, ix⟩

/-- The word in force of a register: the last written one unless that waits for a boundary. -/
def State.liveReg (s : State) (r : Reg) (t ix : Nat) : Word :=
  (mapGet RegKey.code none s.force ⟨r, t, ix⟩).getD (s.reg r t ix)

/-- A field as last written. -/
def State.get (s : State) (f : Fld) (t ix : Nat) : Nat := getBits (s.reg f.reg t ix) f.hi f.lo

/-- A field in force. -/
def State.live (s : State) (f : Fld) (t ix : Nat) : Nat := getBits (s.liveReg f.reg t ix) f.hi f.lo

/-- The context of a stream. -/
def State.stream (s : State) (n : Nat) : Stream := mapGet id {} s.streams n

/-- The context of an instance. -/
def State.inst (s : State) (n : Nat) : Inst := mapGet id {} s.insts n

/-- The context of a tile. -/
def State.tile (s : State) (t : Nat) : Tile := mapGet id {} s.tiles t

/-- One byte of device memory. -/
def State.byte (s : State) (a : Nat) : Byte := mapGet id memDefault s.mem a

/-- `n` bytes of device memory. -/
def State.bytes (s : State) (a n : Nat) : List Byte := (List.range n).map fun i => s.byte (a + i)

/-- The poison mark of the granule of an address. -/
def State.poisoned (s : State) (a : Nat) : Bool := mapGet id false s.poison (a / 64)

/-- Some granule of a range is poisoned. -/
def State.poisonedIn (s : State) (a n : Nat) : Bool :=
  n != 0 && (List.range ((a + n - 1) / 64 - a / 64 + 1)).any fun i => s.poisoned (a + 64 * i)

/-- The Bale class of the block of an address. -/
def State.baleClass (s : State) (a : Nat) : Nat := mapGet id baleDefault s.bale (a / 256)

end Sys2Proof.Machine
end

