-- ==== Sys2Proof/Machine/Geometry.lean ====
section
/-! DEFINITION. The geometry of a learned-codec stream: its padded picture, plots, block rows, latent grid, reference pool and
Campion frames (R43, R45, R46, R55). -/
namespace Sys2Proof.Machine

/-- The padded size, in luma pixels. -/
def pad64 (v : Nat) : Nat := cdiv v 64 * 64

namespace LscShape

/-- A Campion stream. -/
def camp (h : LscShape) : Bool := h.profile == 2

/-- The side of a plot in luma pixels (R45). -/
def plotPx (h : LscShape) : Nat := if 720 ≤ h.height then 256 else 128

/-- The plot columns and rows. -/
def pcols (h : LscShape) : Nat := cdiv (pad64 h.width) h.plotPx
def prows (h : LscShape) : Nat := cdiv (pad64 h.height) h.plotPx

/-- The plots of a frame, or the channels of a Campion plot. -/
def nplots (h : LscShape) : Nat := if h.camp then h.channels else h.pcols * h.prows

/-- The block rows of a frame (R46); a full Campion plot has 50 frames. -/
def brows (h : LscShape) : Nat := if h.camp then 50 else pad64 h.height / 64

/-- The latent grid: rows and columns. -/
def latH (h : LscShape) : Nat := pad64 h.height / 16
def latW (h : LscShape) : Nat := pad64 h.width / 16

/-- The buffers of the pool and the bytes of one (R55). -/
def bufs (h : LscShape) : Nat := if h.nref = 2 then 3 else 2
def bufBytes (h : LscShape) : Nat := if h.camp then 1280 else h.latH * h.latW * h.latch * 2
def poolBytes (h : LscShape) : Nat := h.bufs * h.bufBytes * (if h.camp then h.channels else 1)

/-- The samples of a Campion 20 ms frame of one channel (R43). -/
def frameSamples (h : LscShape) : Nat := 10 * [32, 48, 64, 96, 192].getD h.rate 32

/-- The rows and columns of a plot on a grid of `div` luma pixels: first and end. -/
def plotRows (h : LscShape) (p div : Nat) : Nat × Nat :=
  let a := p / h.pcols * h.plotPx
  (a / div, min (a + h.plotPx) (pad64 h.height) / div)
def plotCols (h : LscShape) (p div : Nat) : Nat × Nat :=
  let a := p % h.pcols * h.plotPx
  (a / div, min (a + h.plotPx) (pad64 h.width) / div)

end LscShape

end Sys2Proof.Machine
end

