-- ==== Sys2Proof/Machine/Bridle.lean ====
section
/-! DEFINITION. Bridle conformance arithmetic (chapter 03): rescale, element-wise operations, function tables, GDN,
pooling, resampling and the field of the number-theoretic transform, each as the spec's normative pseudocode
or formula states it, over exact integers narrowed where the spec narrows. -/
namespace Sys2Proof.Machine

/-- The 48-bit accumulator's reading of a stored partial word: the sign extension of bits [47:0] (R85). -/
def partialValue (w : Nat) : Int := toSigned 48 w

/-- An accumulator: the bias and every product term, exactly (R84). -/
def accumulate (bias : Int) (terms : List (Int × Int)) : Int :=
  terms.foldl (fun a t => a + t.1 * t.2) bias

/-- Round half up by a right shift (R86). -/
def rshiftRhu (v : Int) (s : Nat) : Int :=
  if s = 0 then v else (v + (2 ^ (s - 1) : Nat)) / ((2 ^ s : Nat) : Int)

/-- The value of a rescale before its clamp (R86). -/
def rescaleRaw (v : Int) (m s : Nat) (z : Int) : Int := rshiftRhu (v * m) s + z

/-- Rescale with saturation, the only one in a layer (R86). -/
def rescale (v : Int) (m s : Nat) (z lo hi : Int) : Int := clampInt (rescaleRaw v m s z) lo hi

/-- Whether the clamp of R86 moved the value: what `ARR_BRSAT` counts (R107). -/
def rescaleSat (v : Int) (m s : Nat) (z lo hi : Int) : Bool :=
  decide (rescaleRaw v m s z < lo) || decide (hi < rescaleRaw v m s z)

/-- One entry of a `RESCALE` record (R102). -/
structure RescaleEntry where
  m : Nat
  s : Nat
  z : Int
  lo : Int
  hi : Int
  deriving DecidableEq, Repr

/-- The entry read from its 16 bytes. -/
def RescaleEntry.parse (bs : List Byte) : RescaleEntry :=
  ⟨leAt bs 0 2, leAt bs 2 1, toSigned 16 (leAt bs 4 2), toSigned 32 (leAt bs 8 4), toSigned 32 (leAt bs 12 4)⟩

/-- Rescale by an entry. -/
def RescaleEntry.app (e : RescaleEntry) (v : Int) : Int := rescale v e.m e.s e.z e.lo e.hi

/-- Element-wise add (R88): `e` gives Ma, S, Z and the bounds, `mb` the second multiplier. -/
def elemAdd (e : RescaleEntry) (mb : Nat) (a b : Int) : Int :=
  clampInt (rshiftRhu (a * e.m + b * mb) e.s + e.z) e.lo e.hi

/-- Element-wise multiply (R88). -/
def elemMul (e : RescaleEntry) (a b : Int) : Int := clampInt (rshiftRhu (a * b * e.m) e.s + e.z) e.lo e.hi

/-- Requantise (R88). -/
def requant (e : RescaleEntry) (a : Int) : Int := e.app a

/-- Function table evaluation (R90). -/
def tableEval (u : Int) (t : List Int) : Int :=
  let p := (u + 32768).toNat
  let i := p / 64
  let f : Int := (p % 64 : Nat)
  let ti := t.getD i 0
  ti + ((t.getD (i + 1) 0 - ti) * f + 32) / 64

/-- The largest integer whose square does not exceed `n`. -/
def isqrt (n : Nat) : Nat := Nat.sqrt n

/-- The seed table of the reciprocal square root (R92). -/
def rsqSeed (k : Nat) : Nat := isqrt (2 ^ 37 / (2 * k + 129))

/-- The narrowed square of a GDN input (R93). -/
def gdnSquare (p : Nat) (x : Int) : Nat :=
  let sq := (x * x).toNat
  let rnd := if p = 0 then 0 else 2 ^ (p - 1)
  min ((sq + rnd) / 2 ^ p) 65535

/-- The weighted sum of a GDN channel (R91, R94): it may be cut in any way, for it is exact. -/
def gdnSum (beta : Nat) (gamma q : List Nat) : Nat :=
  (gamma.zip q).foldl (fun s gq => s + gq.1 * gq.2) beta

/-- One Newton step on the reciprocal square root, in UQ2.30 (R93). -/
def newtonStep (m r : Nat) : Nat :=
  let t1 := r * r / 2 ^ 30
  let t2 := m * t1 / 2 ^ 32
  let t3 := 3 * 2 ^ 30 - t2
  r * t3 / 2 ^ 31

/-- The normalised mantissa and its even exponent (R93). -/
def gdnNorm (s : Nat) : Nat × Int :=
  let e := Nat.log2 s
  let n : Int := if e % 2 = 0 then 30 - (e : Int) else 31 - (e : Int)
  (if 0 ≤ n then s * 2 ^ n.toNat else s / 2 ^ (-n).toNat, n)

/-- The reciprocal square root after two Newton steps (R93). -/
def gdnRecip (m : Nat) : Nat := newtonStep m (newtonStep m (rsqSeed (m / 2 ^ 24 - 64) * 2 ^ 16))

/-- The value and the shift that the last step of a GDN (`inverse` false) or IGDN layer hands to the rescale (R93). -/
def gdnScaled (inverse : Bool) (so : Nat) (x : Int) (s : Nat) : Int × Nat :=
  let (m, n) := gdnNorm s
  let r := gdnRecip m
  if inverse then (x * ((m * r / 2 ^ 32 : Nat) : Int), ((so : Int) + 14 + n / 2).toNat)
  else (x * (r : Int), ((so : Int) + 46 - n / 2).toNat)

/-- One output of a GDN or IGDN layer from its completed weighted sum (R93). -/
def gdnOutput (inverse : Bool) (so mul : Nat) (z : Int) (x : Int) (s : Nat) : Int :=
  let v := gdnScaled inverse so x s
  rescale v.1 mul v.2 z (-32768) 32767

/-- The parameters of a `GDNPAR` record (R91, R102). -/
structure GdnPar where
  c : Nat
  p : Nat
  so : Nat
  beta : List Nat
  gamma : List (List Nat)
  m : List Nat
  z : List Int
  deriving DecidableEq, Repr

/-- The record's parameters from its payload; γ stands row by row, γ_ij at i × C + j. (DEDUCED, log entry 155) -/
def GdnPar.parse (bs : List Byte) : GdnPar :=
  let c := leAt bs 0 2
  let b0 := 4 + 4 * c
  let m0 := b0 + c * c
  { c := c, p := leAt bs 2 1, so := leAt bs 3 1
    beta := (List.range c).map fun i => leAt bs (4 + 4 * i) 4
    gamma := (List.range c).map fun i => (List.range c).map fun j => leAt bs (b0 + i * c + j) 1
    m := (List.range c).map fun i => leAt bs (m0 + 4 * i) 2
    z := (List.range c).map fun i => toSigned 16 (leAt bs (m0 + 4 * i + 2) 2) }

/-- One position of a GDN or IGDN layer: all channels (R93). -/
def gdnPosition (par : GdnPar) (inverse : Bool) (x : List Int) : List Int :=
  let q := x.map (gdnSquare par.p)
  (List.range par.c).map fun i =>
    gdnOutput inverse par.so (par.m.getD i 0) (par.z.getD i 0) (x.getD i 0)
      (gdnSum (par.beta.getD i 0) (par.gamma.getD i []) q)

/-- The prime of the number-theoretic transform (R96). -/
def nttPrime : Nat := 2 ^ 64 - 2 ^ 32 + 1

/-- A signed value as a residue (R96). -/
def nttIn (v : Int) : Nat := (v % (nttPrime : Int)).toNat

/-- A result residue as a signed value (R96). -/
def nttOut (r : Nat) : Int := if r ≤ (nttPrime - 1) / 2 then (r : Int) else (r : Int) - (nttPrime : Int)

/-- The accumulator of a frequency-path output: the residues of the product terms summed modulo p, and the bias added
after the inverse transform (R95, R96). -/
def nttAccumulate (bias : Int) (terms : List (Int × Int)) : Int :=
  nttOut (terms.foldl (fun a t => (a + nttIn t.1 * nttIn t.2) % nttPrime) 0) + bias

/-- Average pooling of the sum of `n` values (R97). -/
def avgPool (sum : Int) (n : Nat) : Int := (2 * sum + n) / (2 * (n : Int))

/-- One output of bilinear up-sampling by `f` along one dimension (R98); `a` reads the replicated input. -/
def upBilin1 (f w : Nat) (a : Nat → Int) (o : Nat) : Int :=
  let num : Int := 2 * (o : Int) + 1 - f
  let i0 := num / (2 * f : Nat)
  let ph := num - i0 * (2 * f : Nat)
  let cl (i : Int) : Nat := (clampInt i 0 ((w : Int) - 1)).toNat
  let a0 := a (cl i0)
  let a1 := a (cl (i0 + 1))
  a0 + ((a1 - a0) * ph + f) / ((2 * f : Nat) : Int)

/-- The two weights of the table of violation codes are exclusive of other pairs: the operand pairs of R82, and the
largest number of product terms each permits (none where the pair is not permitted). Formats by their `FMT` code. -/
def bridlePairLimit (fmtIn fmtW : Nat) : Option Nat :=
  if fmtW = 0 ∨ fmtW = 2 then
    if fmtIn ≤ 3 then some (2 ^ 32) else if fmtIn = 4 then some (2 ^ 25) else none
  else none

/-- The range of a Bridle format (R81); the format table is R229's. -/
def intRange : Nat → Option (Int × Int)
  | 0 => some (-8, 7)
  | 1 => some (0, 15)
  | 2 => some (-128, 127)
  | 3 => some (0, 255)
  | 4 => some (-32768, 32767)
  | 5 => some (-2147483648, 2147483647)
  | _ => none

end Sys2Proof.Machine
end

