-- ==== Sys2Proof/Config.lean ====
section
/-! DEFINITION. What the spec leaves open: free values.  Each is an opaque constant with no body, so that nothing can be
proved of its value; applied to the state's draw counter it is a fresh value, applied to operands it is one unknown
function of them. -/
namespace Sys2Proof.Config

/-- An undefined byte: the content of a poisoned granule, of data that a fault spoiled. (DESIGN CHOICE, log entry 28) -/
opaque freeByte : Nat → Byte

/-- An undefined number. (DESIGN CHOICE, log entry 28) -/
opaque freeNat : Nat → Nat

/-- The smallest Bale class a coding reaches for a block that is not all zero (R393, R394): how a block is coded is not
specified; reduced to 1, 2 or 3. (DESIGN CHOICE, log entry 57) -/
opaque baleClass : List Byte → Nat

/-- Which of the sixteen lines of a weight-cache set its pseudo-LRU gives up (R404). (DESIGN CHOICE, log entry 58) -/
opaque wcVictim : List Nat → Nat

/-- What host memory holds at an address at some time: the host's own content, read by an engine through the window.
(DESIGN CHOICE, log entry 59) -/
opaque hostByte : Nat → Nat → Byte

/-- The order in which the conversion unit sums (R247): a key of each element. (DESIGN CHOICE, log entry 56) -/
opaque sumOrder : Nat → Nat

/-- The native hyperbolic tangent and logistic function (R259, R260) where the spec bounds their error and gives no value:
a code for each FP32 input code, which the function holds to its bounds and its order. (DESIGN CHOICE, log entry 55) -/
opaque sfuTanh : Nat → Nat
opaque sfuLogistic : Nat → Nat

/-- How far a floating-point transform (R208) rounds away from the exact sum, in steps: of the codes of the operands and of
the weights that meet them, and of the output's place. (DESIGN CHOICE, log entry 56) -/
opaque fftRound : List Nat → Nat → Int

/-! ## Analytics heads (chapter 06): what a head program computes is the program's own -/

/-- Byte `i` of the features that a program's trunk forms (R172): of the program's digest, the head's state and the taps.
(DESIGN CHOICE, log entry 53) -/
opaque headFeature : List Byte → Nat → List (Nat × List Byte) → Nat → Byte

/-- The state that a head keeps after an evaluation (R171). (DESIGN CHOICE, log entry 53) -/
opaque headState : List Byte → Nat → List (Nat × List Byte) → Nat

/-- The output of a program's tail (R172), an FP32 code: of the program's digest, the codes of its rows and weights, tensor by tensor,
and the features. (DESIGN CHOICE, log entry 53) -/
opaque headValue : List Byte → List (List Nat × List Nat) → List Byte → Nat

/-- What the backward pass of one optimiser step gives (R188), as FP32 codes: the gradient of an element of a tensor, accumulated over
the batch, and the trained value of a row's learned scale. Both are of the program's digest, the codes that inference reads, the
batch, the number of tiles (R189), the tensor and the element or row. (DESIGN CHOICE, log entry 54) -/
opaque tailGrad : List Byte → List (List Nat × List Nat) → List (List Byte) → Nat → Nat → Nat → Nat
opaque tailScale : List Byte → List (List Nat × List Nat) → List (List Byte) → Nat → Nat → Nat → Nat

/-- The mean loss of a tail over validation samples (R191), an FP32 code. (DESIGN CHOICE, log entry 54) -/
opaque adaptLoss : List Byte → List (List Nat × List Nat) → List (List Byte) → Nat

/-! ## Program binaries (R100, R103): the `.utg` container's own layout is not given, and these say what it holds -/

/-- The bytes of the Bridle section, where the binary has one. (DESIGN CHOICE, log entry 51) -/
opaque utgBridle : List Byte → Option (List Byte)

/-- The digest that Utgiec recorded beside the Bridle section. (DESIGN CHOICE, log entry 51) -/
opaque utgDigest : List Byte → List Byte

/-- The records of the graph section, as types and payloads. -/
opaque utgGraph : List Byte → List (Nat × List Byte)

/-- The cut descriptors of the mapping section, each with the rank of the tile that runs it (R440). -/
opaque utgMapping : List Byte → List (Nat × List Byte)

/-- The ranks that run an overlay (R340). -/
opaque utgOverlays : List Byte → List Nat

/-- What a head program declares (R170, R172, R187): its taps with their shapes, the bytes of its features, whether it
detects anomalies, and its adaptation record. -/
opaque utgHead : List Byte → Option (List (Nat × Nat × Nat × Nat) × Nat × Bool × List Byte)

/-- The tensors of a head program's tail (R172): rows, columns, master weights as BF16 codes, and the E8M0 code of each row
(R246). (DESIGN CHOICE, log entry 51) -/
opaque utgTail : List Byte → List (Nat × Nat × List Nat × List Nat)

/-- The tap reservation (R165): each tap with the rank of the tile that holds its two copies, their offset in the working store, and
their bytes. (DESIGN CHOICE, log entry 51) -/
opaque utgTapSpace : List Byte → List (Nat × Nat × Nat × Nat)

/-- Part of the graph is placed in host memory (R38). -/
opaque utgNeedsHost : List Byte → Bool

/-- The records keep what Utgiec's listing fixes for a profile beyond what this manual lists (R39, R42).
(DESIGN CHOICE, log entry 52) -/
opaque profileFits : Nat → List (Nat × List Byte) → Bool

/-! ## The stream directory (R386): names are the site's, and the layout of a `DIR` message is not given -/

/-- The 64-bit name that a site gives a stream; 0 for none. (DESIGN CHOICE, log entry 60) -/
opaque streamName : Nat → Nat

/-- The bytes of a `DIR` message: of its operation (0 register, 1 remove, 2 lookup, 3 claim), name, device, stream and instance.
(DESIGN CHOICE, log entry 60) -/
opaque dirBytes : Nat → Nat → Nat → Nat → Nat → List Byte

/-- The bytes that answer a lookup with a binding: of its device, stream and instance. (DESIGN CHOICE, log entry 60) -/
opaque dirAnswer : Nat → Nat → Nat → List Byte

/-! ## The configuration image (R449 to R453): the layouts of some sections are not given -/

/-- The port MAC addresses and IP interfaces of `NETCFG` (R349). (DESIGN CHOICE, log entry 61) -/
opaque imgIfaces : List Byte → List NetIface

/-- The declared instances of `INSTANCES`: the ID, the tiles by rank, the HBM units. (DESIGN CHOICE, log entry 61) -/
opaque imgInstances : List Byte → List (Nat × List Nat × List Nat)

/-- The programs of `PROGRAMS`: the instance, the `PROG_ID`, the binary. (DESIGN CHOICE, log entry 61) -/
opaque imgPrograms : List Byte → List (Nat × Nat × List Byte)

/-- The streams of `STREAMS`: the instance, the `OPEN` payload, and the settings words that it takes, each with its offset in the
home tile's window. -/
opaque imgStreams : List Byte → List (Nat × List Byte × List (Nat × Nat))

/-- The initial `LNK_PTPCFG` and `LNK_MVCFG` of `PTP`. -/
opaque imgPtp : List Byte → Nat × Nat

/-- `MINTILES`, `DEVNUM` and `MASTERDEV` of a `PKGCFG` section in the W3208 layout, and the quad modes and FEC of its
`LINKCFG` (R453). -/
opaque w3208Pkg : List Byte → Nat × Nat × Nat
opaque w3208Link : List Byte → List (Nat × Nat)

/-- Where in the boot master's working store the tables of an image are placed (R451): the page of the label, publish and peer
table. (DESIGN CHOICE, log entry 62) -/
opaque tablePage : Nat → Nat

/-- A 16-byte nonce of the true random number generator (R506). (DESIGN CHOICE, log entry 63) -/
opaque nonce : Nat → List Byte

/-- What the coding tools below the slice headers give (R280, R299), each a function of what it is given alone. An encoder's:
the slice data of a row, from the tools, the picture's type, its samples, the frame buffers it refers to, the rows before it and
the QPs up to it; a sample of the reconstruction, a byte of the motion-vector area and a 16 × 16 block, from the same and all
QPs. (DEDUCED, log entry 88) -/
opaque sceRow : SceTools → Nat → List Byte → List (List Byte) → List (List Byte) → List Nat → List Byte
opaque sceRecon : SceTools → Nat → List Byte → List (List Byte) → List Nat → Nat → Nat
opaque sceMotion : SceTools → Nat → List Byte → List (List Byte) → List Nat → Nat → Byte
opaque sceBlock : SceTools → Nat → List Byte → List (List Byte) → List Nat → Nat → SceBlock

/-- The raw bytes of a parameter set of a NAL unit type, and those of a slice header: from the tools, and for a slice the
picture's type, its distance from the key picture, the slice's first row and its QP. (DEDUCED, log entry 88) -/
opaque sceParams : SceTools → Nat → List Byte
opaque sceSliceHead : SceTools → Nat → Nat → Nat → Nat → List Byte

/-- A decoder's: how many units of a slice its data gives before it fails a syntax check; a sample of the picture, a byte of
its motion-vector area and a 16 × 16 block, from the headers, the access unit and the frame buffers of the reference lists; and
a sample with film grain applied. (DEDUCED, log entry 88) -/
opaque sceGoodUnits : SceHdr → List Byte → Nat → Nat
opaque sceSample : SceHdr → List Byte → List (List Byte) → Nat → Nat
opaque sceDecMotion : SceHdr → List Byte → List (List Byte) → Nat → Byte
opaque sceDecBlock : SceHdr → List Byte → List (List Byte) → Nat → SceBlock
opaque sceGrain : List Byte → Nat → Nat → Nat

end Sys2Proof.Config
end

