-- ==== Sys2Proof/Machine/Formats.lean ====
section
/-! DEFINITION. Number formats and their arithmetic (R229 to R241): codes and exact values, conversion with its rounding
modes and saturation, FP32 operations rounded once, the floating-point accumulator of R234, and the packing of R233.  A
value is exact: a sign and a rational magnitude, or an infinity, or NaN. -/
namespace Sys2Proof.Machine

/-- A numeric value: NaN, an infinity, or a sign with a magnitude (a zero keeps its sign, R232). -/
inductive Num where
  | nan
  | inf (neg : Bool)
  | fin (neg : Bool) (mag : Rat)
  deriving DecidableEq, Repr

/-- The layout of a format (R229): an integer of so many bits, or a floating-point format with exponent bits, trailing
bits, bias, the largest finite magnitude, whether it has infinities, and the NaN the device writes (R231). -/
inductive Fmt where
  | int (bits : Nat) (signed : Bool)
  | flt (bits ebits mbits bias : Nat) (inf : Bool) (nan : Option Nat)
  deriving DecidableEq, Repr

/-- The formats by their code (R229); 0xE (E8M0) is a scale and 0xF is reserved. -/
def fmtOf : Nat → Option Fmt
  | 0x0 => some (.int 4 true) | 0x1 => some (.int 4 false) | 0x2 => some (.int 8 true) | 0x3 => some (.int 8 false)
  | 0x4 => some (.int 16 true) | 0x5 => some (.int 32 true)
  | 0x6 => some (.flt 4 2 1 1 false none) | 0x7 => some (.flt 6 2 3 1 false none) | 0x8 => some (.flt 6 3 2 3 false none)
  | 0x9 => some (.flt 8 4 3 7 false (some 0x7F)) | 0xA => some (.flt 8 5 2 15 true (some 0x7F))
  | 0xB => some (.flt 16 5 10 15 true (some 0x7E00)) | 0xC => some (.flt 16 8 7 127 true (some 0x7FC0))
  | 0xD => some (.flt 32 8 23 127 true (some 0x7FC00000))
  | _ => none

/-- The bits of a format's element. -/
def Fmt.width : Fmt → Nat
  | .int b _ => b
  | .flt b _ _ _ _ _ => b

/-- FP32 and BF16. -/
def fmtF32 : Fmt := .flt 32 8 23 127 true (some 0x7FC00000)
def fmtBf16 : Fmt := .flt 16 8 7 127 true (some 0x7FC0)

/-- Two to an integer power. -/
def pow2 (e : Int) : Rat := if 0 ≤ e then (2 ^ e.toNat : Nat) else 1 / ((2 ^ (-e).toNat : Nat) : Rat)

/-- floor(log2 x) of a positive rational (R234). -/
def lg (x : Rat) : Int :=
  let e : Int := (Nat.log2 x.num.natAbs : Int) - (Nat.log2 x.den : Int)
  if x < pow2 e then e - 1 else e

/-- The largest finite magnitude of a floating-point layout: FP8 E4M3 keeps the code below its NaN. -/
def maxFinite (ebits mbits bias : Nat) (inf : Bool) (nan : Option Nat) : Rat :=
  if inf then (2 - pow2 (-(mbits : Int))) * pow2 ((2 ^ ebits : Nat) - 2 - bias : Int)
  else if nan.isSome then (2 - 2 * pow2 (-(mbits : Int))) * pow2 ((2 ^ ebits : Nat) - 1 - bias : Int)
  else (2 - pow2 (-(mbits : Int))) * pow2 ((2 ^ ebits : Nat) - 1 - bias : Int)

/-- The value of a code (R230, R231). -/
def Fmt.value (f : Fmt) (c : Nat) : Num :=
  match f with
  | .int b s =>
    let v : Int := if s then toSigned b c else ((c % 2 ^ b : Nat) : Int)
    .fin (decide (v < 0)) (v.natAbs : Rat)
  | .flt b eb mb bias inf nan =>
    let s := bitOf c (b - 1)
    let e := bitsOf c (b - 2) mb
    let m := c % 2 ^ mb
    if e = 2 ^ eb - 1 ∧ inf then (if m = 0 then .inf s else .nan)
    else if e = 2 ^ eb - 1 ∧ m = 2 ^ mb - 1 ∧ nan.isSome then .nan
    else if e = 0 then .fin s ((m : Rat) * pow2 (1 - (bias : Int) - mb))
    else .fin s ((1 + (m : Rat) * pow2 (-(mb : Int))) * pow2 ((e : Int) - bias))

/-- A magnitude rounded to a multiple of the quantum (R238): 1 to nearest even, 2 truncated, 3 stochastic with the
16-bit value `r`; a multiple is exact in every mode. -/
def roundQ (x q : Rat) (rnd r : Nat) : Nat :=
  let k := (x / q).floor.toNat
  let f := x / q - k
  if f = 0 then k
  else match rnd with
    | 1 => if f < 1 / 2 then k else if 1 / 2 < f then k + 1 else if k % 2 = 0 then k else k + 1
    | 3 => if 65536 ≤ (f * 65536).floor.toNat + r then k + 1 else k
    | _ => k

/-- What a conversion gives: the code, whether it saturated, and whether a NaN was written as zero (R241). -/
structure Conv where
  code : Nat
  sat : Bool := false
  nanZero : Bool := false
  deriving DecidableEq, Repr

/-- The code of a magnitude `k × quantum` with its sign in a floating-point layout. -/
def fltCode (b mb bias : Nat) (neg : Bool) (e : Int) (k : Nat) : Nat :=
  let s := b2n neg * 2 ^ (b - 1)
  if k < 2 ^ mb then s + k
  else if k < 2 ^ (mb + 1) then s + ((e + bias).toNat * 2 ^ mb + (k - 2 ^ mb))
  else s + (e + bias + 1).toNat * 2 ^ mb

/-- The signed rational of a finite value. -/
def sgn (neg : Bool) (x : Rat) : Rat := if neg then -x else x

/-- The code of a value in a format (R238, R241). `keepFinite` is the exception of R245: a finite value never becomes
infinite. -/
def Fmt.convert (f : Fmt) (rnd r : Nat) (keepFinite : Bool) (v : Num) : Conv :=
  match f with
  | .int b s =>
    let lo : Int := if s then -((2 ^ (b - 1) : Nat) : Int) else 0
    let hi : Int := if s then ((2 ^ (b - 1) : Nat) : Int) - 1 else ((2 ^ b : Nat) : Int) - 1
    match v with
    | .nan => { code := 0, nanZero := true }
    | .inf n => { code := ofSigned b (if n then lo else hi), sat := true }
    | .fin n x =>
      let k : Int := if n then -(roundQ x 1 rnd r : Int) else (roundQ x 1 rnd r : Int)
      if sgn n x < lo then { code := ofSigned b lo, sat := true }
      else if (hi : Rat) < sgn n x then { code := ofSigned b hi, sat := true }
      else { code := ofSigned b k }
  | .flt b eb mb bias inf nan =>
    let mx := maxFinite eb mb bias inf nan
    let top (neg : Bool) : Nat :=
      let e := lg mx
      fltCode b mb bias neg e (mx / pow2 (e - mb)).floor.toNat
    let infCode (neg : Bool) : Nat := b2n neg * 2 ^ (b - 1) + (2 ^ eb - 1) * 2 ^ mb
    match v with
    | .nan => match nan with
      | some c => { code := c }
      | none => { code := 0, nanZero := true }
    | .inf n => if inf then { code := infCode n } else { code := top n, sat := true }
    | .fin n x =>
      if x = 0 then { code := b2n n * 2 ^ (b - 1) }
      else
        let e := max (lg x) (1 - (bias : Int))
        let q := pow2 (e - mb)
        let k := roundQ x q rnd r
        if (k : Rat) * q ≤ mx then
          { code := fltCode b mb bias n e k, sat := decide (mx < x) && (keepFinite || !(inf && rnd == 1)) }
        else if inf && rnd == 1 && !keepFinite then { code := infCode n }
        else { code := top n, sat := true }

/-! ## FP32 operations, rounded once to nearest even -/

/-- A value rounded to FP32. -/
def rne32 (v : Num) : Num := fmtF32.value (fmtF32.convert 1 0 false v).code

/-- A finite value from a signed rational; a zero takes the sign given. -/
def ofRat (zeroNeg : Bool) (x : Rat) : Num := if x = 0 then .fin zeroNeg 0 else .fin (decide (x < 0)) (if x < 0 then -x else x)

/-- The sign of a value. -/
def Num.neg? : Num → Bool
  | .nan => false
  | .inf n => n
  | .fin n _ => n

/-- A value with its sign changed. -/
def Num.negate : Num → Num
  | .nan => .nan
  | .inf n => .inf (!n)
  | .fin n x => .fin (!n) x

/-- The magnitude of a value. -/
def Num.abs : Num → Num
  | .nan => .nan
  | .inf _ => .inf false
  | .fin _ x => .fin false x

/-- The exact product, with the special cases of R235. -/
def Num.mul : Num → Num → Num
  | .nan, _ => .nan
  | _, .nan => .nan
  | .inf a, .inf b => .inf (a != b)
  | .inf a, .fin b y => if y = 0 then .nan else .inf (a != b)
  | .fin a x, .inf b => if x = 0 then .nan else .inf (a != b)
  | .fin a x, .fin b y => .fin (a != b) (x * y)

/-- The exact sum; a zero sum of opposite signs is +0. -/
def Num.add : Num → Num → Num
  | .nan, _ => .nan
  | _, .nan => .nan
  | .inf a, .inf b => if a = b then .inf a else .nan
  | .inf a, .fin _ _ => .inf a
  | .fin _ _, .inf b => .inf b
  | .fin a x, .fin b y => ofRat (a && b) (sgn a x + sgn b y)

def fadd (a b : Num) : Num := rne32 (a.add b)
def fsub (a b : Num) : Num := rne32 (a.add b.negate)
def fmul (a b : Num) : Num := rne32 (a.mul b)
def ffma (a b c : Num) : Num := rne32 ((a.mul b).add c)

/-- The quotient, rounded once. -/
def fdiv (a b : Num) : Num :=
  match a, b with
  | .nan, _ => .nan
  | _, .nan => .nan
  | .inf _, .inf _ => .nan
  | .inf n, .fin m _ => .inf (n != m)
  | .fin n _, .inf m => .fin (n != m) 0
  | .fin n x, .fin m y => if y = 0 then (if x = 0 then .nan else .inf (n != m)) else rne32 (.fin (n != m) (x / y))

/-- 1 / sqrt of a value, correctly rounded (R261, R264). -/
def frsq (a : Num) : Num :=
  match a with
  | .nan => .nan
  | .inf true => .nan
  | .inf false => .fin false 0
  | .fin n x =>
    if x = 0 then .inf false
    else if n then .nan
    else
      let l := lg x
      -- 1/sqrt x lies in [2^e, 2^(e+1)]
      let e0 : Int := -((l + 1) / 2)
      let e := if 1 < x * pow2 (2 * e0) then e0 - 1 else if x * pow2 (2 * e0 + 2) ≤ 1 then e0 + 1 else e0
      let q := pow2 (e - 23)
      let k := Nat.sqrt (1 / (x * q * q)).floor.toNat
      let mid := ((2 * k + 1 : Nat) : Rat)
      let t := mid * mid * q * q * x / 4
      let k' := if 1 < t then k else if t < 1 then k + 1 else if k % 2 = 0 then k else k + 1
      .fin false ((if (k : Rat) * k * q * q * x = 1 then (k : Rat) else k') * q)

/-- The largest integer not above a value (R264). -/
def ffloor (a : Num) : Num :=
  match a with
  | .fin n x => if x = 0 then .fin n x else ofRat n ((sgn n x).floor : Rat)
  | v => v

/-- a < b; false with a NaN. Zeros compare equal. -/
def Num.lt : Num → Num → Bool
  | .nan, _ => false
  | _, .nan => false
  | .inf a, .inf b => a && !b
  | .inf a, .fin _ _ => a
  | .fin _ _, .inf b => !b
  | .fin a x, .fin b y => decide (sgn a x < sgn b y)

/-- The lesser value (R264): NaN when either is NaN; −0 is less than +0. -/
def fmin (a b : Num) : Num :=
  if a = .nan ∨ b = .nan then .nan else if a.lt b then a else if b.lt a then b else if a.neg? then a else b

/-- The greater value (R264). -/
def fmax (a b : Num) : Num :=
  if a = .nan ∨ b = .nan then .nan else if a.lt b then b else if b.lt a then a else if a.neg? then b else a

/-! ## The floating-point accumulator (R234, R235) -/

/-- One K-chunk added to an FP32 accumulator: the special values first, then the products aligned to the largest
magnitude, each truncated toward zero, the exact sum rounded once. -/
def chunkAdd (acc : Num) (p : List Num) : Num :=
  let all := acc :: p
  if all.any (· == .nan) then .nan
  else if all.any (· == .inf false) && all.any (· == .inf true) then .nan
  else if all.any (· == .inf false) then .inf false
  else if all.any (· == .inf true) then .inf true
  else
    let mags := all.filterMap fun v => match v with | .fin _ x => if x = 0 then none else some (lg x) | _ => none
    match mags.max? with
    | none => .fin (all.all Num.neg?) 0
    | some e =>
      let q := pow2 (max (e - 23) (-149))
      let t := p.map fun v => match v with | .fin n x => sgn n ((x / q).floor * q) | _ => 0
      let a := match acc with | .fin n x => sgn n x | _ => 0
      rne32 (ofRat false (a + t.sum))

/-! ## Packing (R233) -/

/-- Elements of `w` bits as bytes, little-endian, the last byte or byte triple filled with zeros. -/
def packCodes (w : Nat) (cs : List Nat) : List Byte :=
  let n := if w = 6 then cdiv cs.length 4 * 3 else cdiv (cs.length * w) 8
  toLe n (cs.foldr (fun c a => c % 2 ^ w + 2 ^ w * a) 0)

/-- `n` elements of `w` bits read from bytes. -/
def unpackCodes (w n : Nat) (bs : List Byte) : List Nat :=
  let v := leNat bs
  (List.range n).map fun i => v / 2 ^ (w * i) % 2 ^ w

/-- The bytes that `n` elements of `w` bits take. -/
def packedLen (w n : Nat) : Nat := if w = 6 then cdiv n 4 * 3 else cdiv (n * w) 8

/-! ## Stochastic rounding (R189, R239) -/

/-- The counter mix of R189, in wrapping 64-bit arithmetic. -/
def mix (seed ctr : Nat) : Nat :=
  let z := (seed + (ctr + 1) * 0x9E3779B97F4A7C15) % 2 ^ 64
  let z := (z ^^^ (z / 2 ^ 30)) * 0xBF58476D1CE4E5B9 % 2 ^ 64
  let z := (z ^^^ (z / 2 ^ 27)) * 0x94D049BB133111EB % 2 ^ 64
  z ^^^ (z / 2 ^ 31)

/-- The random bits of an element (R189): seed, tensor number, step or frame number, row-major index. (DEDUCED, log entry 76) -/
def srBits (seed tensor n index : Nat) : Nat :=
  mix (mix seed ((tensor * 2 ^ 40) % 2 ^ 64 ||| (n % 2 ^ 40))) index

/-- The 16-bit value of a stochastic conversion: bits [63:48] (R239). -/
def srR (seed tensor n index : Nat) : Nat := srBits seed tensor n index / 2 ^ 48

/-! ## Converting a run of elements -/

/-- What converting a run gives: the codes, the exact values before and after, the saturations and the NaNs written as
zero. -/
structure ConvRun where
  codes : List Nat
  pairs : List (Num × Num)
  sats : Nat
  nans : Nat
  deriving DecidableEq, Repr

/-- Elements converted from one format to another (R237, R238, R241), each with its own random value (R239).
(DEDUCED, log entry 76) -/
def convertRun (src dst : Fmt) (rnd seed tensor n idx0 : Nat) (codes : List Nat) : ConvRun :=
  let rs := codes.zipIdx.map fun e =>
    let v := src.value e.1
    let c := dst.convert rnd (srR seed tensor n (idx0 + e.2)) false v
    (c, v)
  { codes := rs.map (·.1.code), pairs := rs.map fun e => (e.2, dst.value e.1.code),
    sats := (rs.filter (·.1.sat)).length, nans := (rs.filter (·.1.nanZero)).length }

/-- Binary64. -/
def fmtF64 : Fmt := .flt 64 11 52 1023 true (some 0x7FF8000000000000)

/-- A binary64 sum carried as its code, rounded to nearest even. -/
def add64 (acc : Nat) (v : Num) : Nat := (fmtF64.convert 1 0 false ((fmtF64.value acc).add v)).code

/-- The squared error of one element (R247), rounded to FP32; nothing where a value is not finite. -/
def sqErr (p : Num × Num) : Option Num :=
  match p with
  | (.fin a x, .fin b y) => let d := sgn a x - sgn b y; some (rne32 (.fin false (d * d)))
  | _ => none

/-- The squared value of one element (R247). -/
def sqVal (p : Num × Num) : Option Num :=
  match p with
  | (.fin _ x, .fin _ _) => some (rne32 (.fin false (x * x)))
  | _ => none

end Sys2Proof.Machine
end

