-- ==== Sys2Proof/Machine/Sfu.lean ====
section
/-! DEFINITION. The functions of the special function unit (R253 to R270): the function record, native and W3208 forms of
the built-in functions, RMS normalisation, microprograms, and the rates of R267 and R268. -/
namespace Sys2Proof.Machine

/-! ## FP32 codes -/

/-- The value of an FP32 code. -/
def f32 (c : Nat) : Num := fmtF32.value c

/-- The code of a value in FP32. -/
def f32code (v : Num) : Nat := (fmtF32.convert 1 0 false v).code

/-- A whole number as a value. -/
def Num.ofNat (n : Nat) : Num := .fin false n

/-- A signed whole number as a value. -/
def Num.ofInt (i : Int) : Num := .fin (decide (i < 0)) (i.natAbs : Rat)

/-- The signed rational of a finite value; 0 otherwise. -/
def Num.rat : Num → Rat
  | .fin n x => sgn n x
  | _ => 0

/-! ## The function record (R253) -/

/-- An `SFUPAR` record. -/
structure SfuPar where
  func : Nat
  compat : Nat
  alpha : Nat
  beta : Nat
  lo : Nat
  hi : Nat
  grec : Nat
  mrec : Nat
  rsvd : Bool
  deriving DecidableEq, Repr

/-- The record read from its 32 bytes. -/
def SfuPar.parse (b : List Byte) : SfuPar :=
  ⟨leAt b 0 1, leAt b 1 1, leAt b 4 4, leAt b 8 4, leAt b 12 4, leAt b 16 4, leAt b 20 4, leAt b 24 4,
   leAt b 2 2 != 0 || leAt b 28 4 != 0⟩

/-- An FP32 code that is finite. -/
def f32finite (c : Nat) : Bool := match f32 c with | .fin _ _ => true | _ => false

/-- An FP32 code that is finite and not zero. -/
def f32nonzero (c : Nat) : Bool := match f32 c with | .fin _ x => decide (x ≠ 0) | _ => false

/-- The record keeps R253 to R255, but for the records it names. -/
def SfuPar.ok (p : SfuPar) : Bool :=
  !p.rsvd && decide (1 ≤ p.func) && decide (p.func ≤ 5) && decide (p.compat ≤ 1) && f32nonzero p.alpha && f32nonzero p.beta &&
  !(p.compat == 1 && p.func == 5) && (p.func == 3 || p.grec == 0xFFFFFFFF) && (p.func == 4 || p.mrec == 0xFFFFFFFF) &&
  (match p.func with
   | 5 => f32 p.lo != .nan && f32 p.hi != .nan && !(f32 p.hi).lt (f32 p.lo)
   | 3 => f32finite p.lo && (Num.fin false 0).lt (f32 p.lo) && p.hi == 0
   | _ => p.lo == 0 && p.hi == 0)

/-! ## The W3208 functions (R270) -/

/-- `W`[k]: the FP32 value nearest 1 / (1 + e^−(k/8 − 16)). -/
def w3208Table : List Nat :=
  [0x33F1AADC, 0x3408EC2B, 0x341B274F, 0x342FCFDF, 0x3447389A, 0x3461BF40, 0x347FCE10, 0x3490EEB7,
   0x34A43AE2, 0x34BA18D3, 0x34D2E020, 0x34EEF406, 0x3507627D, 0x35196936, 0x352DD660, 0x3544FBCB,
   0x355F362C, 0x357CEE8E, 0x358F4DFE, 0x35A262AB, 0x35B801BB, 0x35D081C7, 0x35EC44EF, 0x3605DD32,
   0x3617B013, 0x362BE27E, 0x3642C557, 0x365CB447, 0x367A172D, 0x368DB1DD, 0x36A08FA6, 0x36B5F082,
   0x36CE2A0F, 0x36E99D53, 0x37045C20, 0x3715FBB4, 0x3729F3FB, 0x374094EF, 0x375A3931, 0x37774772,
   0x378C1A08, 0x379EC172, 0x37B3E4AD, 0x37CBD85F, 0x37E6FC72, 0x3802DECC, 0x38144B7C, 0x38280A10,
   0x383E6997, 0x3857C3A8, 0x38747DC5, 0x388A857A, 0x389CF6C3, 0x38B1DC95, 0x38C98A97, 0x38E45F95,
   0x3901637B, 0x39129D34, 0x392621E6, 0x393C3FAC, 0x39554F03, 0x3971B42D, 0x3988F05F, 0x399B2AB1] ++
  [0x39AFD1EF, 0x39C738A9, 0x39E1BC65, 0x39FFC713, 0x3A10E859, 0x3A243093, 0x3A3A092D, 0x3A52C94B,
   0x3A6ED39C, 0x3A874BED, 0x3A994A41, 0x3AADAC60, 0x3AC4C351, 0x3ADEEAC6, 0x3AFC8A7D, 0x3B0F0BE8,
   0x3B220BBC, 0x3B378FC2, 0x3B4FECC9, 0x3B6B82A6, 0x3B855ECA, 0x3B970BE5, 0x3BAB0D97, 0x3BC1B1A4,
   0x3BDB4FB4, 0x3BF84A82, 0x3C0C8895, 0x3C1F104D, 0x3C340294, 0x3C4BAE1F, 0x3C666B21, 0x3C824E1F,
   0x3C9357D1, 0x3CA69009, 0x3CBC3B0A, 0x3CD4A486, 0x3CF02034, 0x3D07852A, 0x3D18E414, 0x3D2C642E,
   0x3D4241A2, 0x3D5ABD73, 0x3D761D6B, 0x3D8A55EB, 0x3D9B5B89, 0x3DAE4868, 0x3DC34695, 0x3DDA8099,
   0x3DF420A9, 0x3E0827C7, 0x3E1799AF, 0x3E287701, 0x3E3ACDC2, 0x3E4EA820, 0x3E640B81, 0x3E7AF791,
   0x3E89B2B1, 0x3E96A358, 0x3EA442B1, 0x3EB2819D, 0x3EC14D03, 0x3ED08E01, 0x3EE02A67, 0x3EF00553] ++
  [0x3F000000, 0x3F07FD56, 0x3F0FEACD, 0x3F17B900, 0x3F1F597F, 0x3F26BF31, 0x3F2DDEA8, 0x3F34AE54,
   0x3F3B26A8, 0x3F41421C, 0x3F46FD20, 0x3F4C55F8, 0x3F514C90, 0x3F55E240, 0x3F5A1994, 0x3F5DF60E,
   0x3F617BEB, 0x3F64AFED, 0x3F67972D, 0x3F6A36F3, 0x3F6C948F, 0x3F6EB543, 0x3F709E29, 0x3F725429,
   0x3F73DBE6, 0x3F7539BD, 0x3F7671BF, 0x3F7787AD, 0x3F787EFE, 0x3F795ADC, 0x3F7A1E28, 0x3F7ACB80,
   0x3F7B6541, 0x3F7BED8F, 0x3F7C6653, 0x3F7CD148, 0x3F7D2FF6, 0x3F7D83BF, 0x3F7DCDDE, 0x3F7E0F6B,
   0x3F7E4961, 0x3F7E7C9D, 0x3F7EA9E5, 0x3F7ED1E8, 0x3F7EF542, 0x3F7F147D, 0x3F7F3013, 0x3F7F4870,
   0x3F7F5DF4, 0x3F7F70F4, 0x3F7F81BB, 0x3F7F908B, 0x3F7F9D9E, 0x3F7FA92A, 0x3F7FB35B, 0x3F7FBC5A,
   0x3F7FC44B, 0x3F7FCB4E, 0x3F7FD17E, 0x3F7FD6F4, 0x3F7FDBC6, 0x3F7FE007, 0x3F7FE3C8, 0x3F7FE719] ++
  [0x3F7FEA06, 0x3F7FEC9B, 0x3F7FEEE2, 0x3F7FF0E5, 0x3F7FF2AB, 0x3F7FF43C, 0x3F7FF59E, 0x3F7FF6D6,
   0x3F7FF7EA, 0x3F7FF8DD, 0x3F7FF9B4, 0x3F7FFA71, 0x3F7FFB18, 0x3F7FFBAC, 0x3F7FFC2E, 0x3F7FFCA1,
   0x3F7FFD06, 0x3F7FFD60, 0x3F7FFDAF, 0x3F7FFDF5, 0x3F7FFE32, 0x3F7FFE68, 0x3F7FFE98, 0x3F7FFEC2,
   0x3F7FFEE8, 0x3F7FFF09, 0x3F7FFF26, 0x3F7FFF3F, 0x3F7FFF56, 0x3F7FFF6A, 0x3F7FFF7C, 0x3F7FFF8B,
   0x3F7FFF99, 0x3F7FFFA5, 0x3F7FFFB0, 0x3F7FFFB9, 0x3F7FFFC1, 0x3F7FFFC9, 0x3F7FFFCF, 0x3F7FFFD5,
   0x3F7FFFDA, 0x3F7FFFDF, 0x3F7FFFE2, 0x3F7FFFE6, 0x3F7FFFE9, 0x3F7FFFEC, 0x3F7FFFEE, 0x3F7FFFF0,
   0x3F7FFFF2, 0x3F7FFFF4, 0x3F7FFFF5, 0x3F7FFFF6, 0x3F7FFFF8, 0x3F7FFFF9, 0x3F7FFFF9, 0x3F7FFFFA,
   0x3F7FFFFB, 0x3F7FFFFB, 0x3F7FFFFC, 0x3F7FFFFC, 0x3F7FFFFD, 0x3F7FFFFD, 0x3F7FFFFE, 0x3F7FFFFE] ++
  [0x3F7FFFFE]

/-- Entry k of the table. -/
def w3208At (k : Nat) : Num := f32 (w3208Table.getD k 0)

/-- Rounding to BF16. -/
def bf16 (v : Num) : Num := fmtBf16.value (fmtBf16.convert 1 0 false v).code

/-- `w_sig32`. -/
def wSig32 (x : Num) : Num :=
  if x = .nan then .nan
  else if !(Num.ofInt (-16)).lt x then w3208At 0
  else if !x.lt (Num.ofInt 16) then w3208At 256
  else
    let p := fmul (fadd x (Num.ofInt 16)) (Num.ofInt 8)
    let i := min p.rat.floor.toNat 255
    let f := fsub p (Num.ofNat i)
    fadd (w3208At i) (fmul f (fsub (w3208At (i + 1)) (w3208At i)))

/-- `w_logistic`. -/
def wLogistic (x : Num) : Num := bf16 (wSig32 x)

/-- `w_tanh`. -/
def wTanh (x : Num) : Num := bf16 (fsub (fmul (Num.ofInt 2) (wSig32 (fmul (Num.ofInt 2) x))) (Num.ofInt 1))

/-! ## The native functions (R259, R260) -/

/-- e^x in steps of 2^−256, for x from 0 to 256: the series of e^(x/256), squared eight times. -/
def expFix (x : Rat) : Nat :=
  let one := 2 ^ 256
  let t := (x * (2 ^ 248 : Nat)).floor.toNat
  let sum := ((List.range 64).foldl (fun (a : Nat × Nat) i => let d := a.2 * t / one / (i + 1); (a.1 + d, d)) (one, one)).1
  repeatN (fun y => y * y / one) 8 sum

/-- tanh x for x above 0. -/
def tanhRat (x : Rat) : Rat :=
  let e := expFix (2 * x)
  ((e - 2 ^ 256 : Nat) : Rat) / (e + 2 ^ 256 : Nat)

/-- 1 / (1 + e^−x). -/
def logisticRat (neg : Bool) (x : Rat) : Rat :=
  let e := expFix x
  ((if neg then 2 ^ 256 else e : Nat) : Rat) / (e + 2 ^ 256 : Nat)

/-- The FP32 codes of positive values within `b` ulp of an exact one (R260): the least and the greatest. -/
def ulpBand (v b : Rat) : Nat × Nat :=
  let d := b * pow2 (max (lg v) (-126) - 23)
  let down (y : Rat) : Nat := if y ≤ 0 then 0 else (fmtF32.convert 2 0 false (.fin false y)).code
  let c := down (v - d)
  (if v - d ≤ 0 ∨ f32 c = .fin false (v - d) then c else c + 1, down (v + d))

/-- A non-decreasing function held to a band at each place: the largest of its free codes up to `n`, each within its place's
band. Every function that R259 and R260 admit has this form. -/
def bandMax (start : Nat) (raw : Nat → Nat) (band : Nat → Nat × Nat) (n : Nat) : Nat :=
  (List.range (n + 1)).foldl (fun m i => max m (min (max (raw i) (band i).1) (band i).2)) start

/-- The positive value of an FP32 code. -/
def posRat (c : Nat) : Rat := (f32 c).rat

/-- The band of `TANH` at an input code from that of 2^−12 to below that of 9.5 (R260); no value passes the greatest that the
next range admits. -/
def tanhBand (c : Nat) : Nat × Nat :=
  let x := posRat c
  let b := ulpBand (tanhRat x) (if x < 1 / 2 then 3 / 2 else if x < 4 then 2 else 1)
  (b.1, min (min b.2 0x3F800000) (if x < 4 then (ulpBand (tanhRat 4) 1).2 else 0x3F800000))

/-- The band of `LOGISTIC` at an input code (R260), for inputs from −104 to below 0 and from above 0 to below 17.5. -/
def logisticBand (neg : Bool) (c : Nat) : Nat × Nat :=
  let x := posRat c
  let b := ulpBand (logisticRat neg x) (if neg ∧ 175 / 2 < x then 1 else if x ≤ 1 / 4096 then 1 else 2)
  let next := if !neg then 0x3F800000
    else if 175 / 2 < x then (ulpBand (logisticRat true (175 / 2)) 2).2
    else if 1 / 4096 < x then (ulpBand (logisticRat true (1 / 4096)) 1).2 else 0x3F000000
  (b.1, min b.2 (min next (if neg then 0x3F000000 else 0x3F800000)))

/-- Native `TANH`: odd, the input itself below 2^−12, ±1 from 9.5 up, and between them non-decreasing within the bounds of
R260. (DESIGN CHOICE, log entry 55) -/
def tanhNative (u : Num) : Num :=
  match u with
  | .nan => .nan
  | .inf n => .fin n 1
  | .fin n x =>
    if x < 1 / 4096 then .fin n x
    else if 19 / 2 ≤ x then .fin n 1
    else
      let c0 := 0x39800000
      let v := f32 (bandMax (c0 - 1) (fun i => Config.sfuTanh (c0 + i)) (fun i => tanhBand (c0 + i)) (f32code (.fin false x) - c0))
      if n then v.negate else v

/-- Native `LOGISTIC`: 0 below −104, 1 from 17.5 up, 0.5 at 0, and between them non-decreasing within the bounds of R260.
(DESIGN CHOICE, log entry 55) -/
def logisticNative (u : Num) : Num :=
  match u with
  | .nan => .nan
  | .inf n => if n then .fin false 0 else .fin false 1
  | .fin n x =>
    if x = 0 then .fin false (1 / 2)
    else if n ∧ 104 < x then .fin false 0
    else if !n ∧ 35 / 2 ≤ x then .fin false 1
    else
      let c := f32code (.fin false x)
      if n then
        let c0 := 0x42D00000
        f32 (bandMax 0 (fun i => Config.sfuLogistic (2 ^ 31 + c0 - i)) (fun i => logisticBand true (c0 - i)) (c0 - c))
      else f32 (bandMax 0x3F000000 (fun i => Config.sfuLogistic (1 + i)) (fun i => logisticBand false (1 + i)) (c - 1))

/-- `LOGISTIC` under `COMPAT`. (DESIGN CHOICE, log entry 55) -/
def sfuLogistic (compat : Nat) (u : Num) : Num := if compat = 1 then wLogistic u else logisticNative u

/-- `TANH` under `COMPAT`. (DESIGN CHOICE, log entry 55) -/
def sfuTanh (compat : Nat) (u : Num) : Num := if compat = 1 then wTanh u else tanhNative u

/-! ## RMS normalisation (R261, R270) -/

/-- A list cut into pieces of `n`. -/
def chunksOf {α : Type} (n : Nat) (l : List α) : List (List α) :=
  (List.range (cdiv l.length n)).map fun i => (l.drop (n * i)).take n

/-- A value is an infinity or NaN. -/
def Num.special : Num → Bool
  | .fin _ _ => false
  | _ => true

/-- Native `RMSNORM` of one position: one that holds an infinity or NaN gives NaN in every channel.
(DEDUCED, log entry 154) -/
def rmsNative (u g : List Num) (eps : Num) : List Num :=
  if u.any Num.special then u.map fun _ => .nan else
  let sq := (chunksOf 256 u).map fun c => (c ++ List.replicate (256 - c.length) (.fin false 0)).map fun x => x.mul x
  let s := sq.foldl chunkAdd (.fin false 0)
  let r := frsq (fadd (fdiv s (Num.ofNat u.length)) eps)
  (u.zip g).map fun e => fmul (fmul e.1 r) e.2

/-- W3208 `RMSNORM` of one position. -/
def rmsW3208 (u g : List Num) (eps : Num) : List Num :=
  let s := u.foldl (fun a x => fadd a (fmul x x)) (.fin false 0)
  let r := frsq (fadd (fmul s (fdiv (Num.ofNat 1) (Num.ofNat u.length))) eps)
  (u.zip g).map fun e => bf16 (fmul (fmul e.1 r) e.2)

/-! ## Microprograms (R262 to R265) -/

/-- An `SFUMICRO` record: its steps, constants and table. -/
structure MicroRec where
  steps : List Nat
  k : List Nat
  t : List Nat
  deriving DecidableEq, Repr

/-- `n` little-endian words from an offset. -/
def wordsAt (b : List Byte) (o n : Nat) : List Nat := (List.range n).map fun i => leAt b (o + 4 * i) 4

/-- The record read from its bytes. -/
def MicroRec.parse (b : List Byte) : MicroRec :=
  let ns := leAt b 0 2
  let nk := leAt b 2 2
  ⟨wordsAt b 8 ns, wordsAt b (8 + 4 * ns) nk, wordsAt b (8 + 4 * ns + 4 * nk) (leAt b 4 2)⟩

/-- One step keeps R262 to R264. -/
def microStepOk (m : MicroRec) (w : Nat) : Bool :=
  let op := bitsOf w 31 27
  let ki := bitsOf w 13 8
  decide (1 ≤ op) && decide (op ≤ 0x11) && bitsOf w 7 0 == 0 && (!bitOf w 14 || decide (ki < m.k.length)) &&
  (op != 0x0E || (bitOf w 14 && decide (ki ≤ 62) && decide (ki + 1 < m.k.length) && m.t != []))

/-- A record's bytes keep R262. -/
def microOk (b : List Byte) : Bool :=
  let m := MicroRec.parse b
  let ns := leAt b 0 2
  let nk := leAt b 2 2
  let nt := leAt b 4 2
  decide (1 ≤ ns) && decide (ns ≤ 64) && decide (nk ≤ 64) && (nt == 0 || nt == 257) && leAt b 6 2 == 0 &&
  b.length == 8 + 4 * (ns + nk + nt) && m.steps.all (microStepOk m) && (m.k ++ m.t).all fun c => f32 c != .nan

/-- `TLU` (R265). -/
def tlu (a lo s : Num) (t : List Nat) : Num :=
  if a = .nan then .nan
  else
    let p := fmul (fsub a lo) s
    let p := if (Num.fin false 0).lt p then p else .fin false 0
    let p := if (Num.ofNat 256).lt p then Num.ofNat 256 else p
    let i := min p.rat.floor.toNat 255
    let ti := f32 (t.getD i 0)
    fadd ti (fmul (fsub p (Num.ofNat i)) (fsub (f32 (t.getD (i + 1) 0)) ti))

/-- `LDEXP`: n is B truncated toward zero and held between −300 and 300. -/
def ldexp (a b : Num) : Num :=
  match b with
  | .nan => .nan
  | .inf n => rne32 (a.mul (.fin false (pow2 (if n then -300 else 300))))
  | .fin n x => rne32 (a.mul (.fin false (pow2 (clampInt (if n then -(x.floor) else x.floor) (-300) 300))))

/-- One step of a microprogram on the registers of a lane (R263, R264). -/
def microStep (m : MicroRec) (compat : Nat) (r : List Num) (w : Nat) : List Num :=
  let g (i : Nat) : Num := r.getD i .nan
  let a := g (bitsOf w 23 21)
  let b := if bitOf w 14 then f32 (m.k.getD (bitsOf w 13 8) 0) else g (bitsOf w 20 18)
  let c := g (bitsOf w 17 15)
  let v : Num := match bitsOf w 31 27 with
    | 0x01 => fadd a b
    | 0x02 => fsub a b
    | 0x03 => fmul a b
    | 0x04 => ffma a b c
    | 0x05 => fmin a b
    | 0x06 => fmax a b
    | 0x07 => a.abs
    | 0x08 => a.negate
    | 0x09 => ffloor a
    | 0x0A => ldexp a b
    | 0x0B => if a.lt (.fin false 0) then b else c
    | 0x0C => fdiv (Num.ofNat 1) a
    | 0x0D => frsq a
    | 0x0E => tlu a b (f32 (m.k.getD (bitsOf w 13 8 + 1) 0)) m.t
    | 0x0F => b
    | 0x10 => sfuLogistic compat a
    | _ => sfuTanh compat a
  setAt r (bitsOf w 26 24) v

/-- A microprogram run on one element. -/
def microRun (m : MicroRec) (compat : Nat) (u : Num) : Num :=
  ((m.steps.foldl (microStep m compat) (u :: List.replicate 7 (.fin false 0))).getD 0 .nan)

/-! ## One function step (R256 step 3) -/

/-- v = f(u) for the values of one position; `g` and `m` are the records it names. -/
def sfuEval (p : SfuPar) (g : List Num) (m : MicroRec) (u : List Num) : List Num :=
  match p.func with
  | 1 => u.map (sfuTanh p.compat)
  | 2 => u.map (sfuLogistic p.compat)
  | 3 => if p.compat = 1 then rmsW3208 u g (f32 p.lo) else rmsNative u g (f32 p.lo)
  | 4 => u.map (microRun m p.compat)
  | _ => u.map fun x => if x = .nan then .nan else fmin (fmax x (f32 p.lo)) (f32 p.hi)

/-- The steps of a function for each element (R267); `RMSNORM` is counted by position. -/
def sfuSteps (p : SfuPar) (m : MicroRec) : Nat :=
  match p.func with
  | 1 => if p.compat = 1 then 3 else 1
  | 2 => if p.compat = 1 then 2 else 1
  | 4 => m.steps.length + (if p.compat = 1 then
      (m.steps.filter fun w => bitsOf w 31 27 == 0x10).length + 2 * (m.steps.filter fun w => bitsOf w 31 27 == 0x11).length else 0)
  | _ => 1

/-- The cycles in which a function evaluates `n` elements of positions of `c` channels (R267). -/
def sfuCycles (p : SfuPar) (m : MicroRec) (n c : Nat) : Nat :=
  if p.func = 3 then n / (if c = 0 then 1 else c) * (2 * cdiv c 256 + 4) else cdiv (n * sfuSteps p m) 256

/-- The cycles in which a fused function drains a block of `b` outputs (R268). (DEDUCED, log entry 72) -/
def drainCycles (p : SfuPar) (m : MicroRec) (b c : Nat) : Nat :=
  if p.func = 3 then b / (if c = 0 then 1 else c) * (2 * cdiv c 256 + 4)
  else
    let n := sfuSteps p m
    if n ≤ 4 then cdiv b 64 else cdiv (b * n) 256

end Sys2Proof.Machine
end

