-- ==== Sys2Proof/Machine/Layer.lean ====
section
/-! DEFINITION. Layer and cut descriptors (R200 to R222): their fields, the records they name, which rows and columns a cut
owns and reads, the checks of R225 and R105 that the descriptors alone decide, and the cycles of R206, R207, R209
and R540. -/
namespace Sys2Proof.Machine

/-! ## Descriptors -/

/-- A layer descriptor (R200). `dil` is the vertical dilation (`DH`), `diw` the horizontal one (`DW`). -/
structure Layer where
  op : Nat
  bridle : Bool
  diag : Bool
  fpath : Nat
  rnd : Nat
  path : Nat
  fmtIn : Nat
  fmtW : Nat
  fmtOut : Nat
  padMode : Nat
  inH : Nat
  inW : Nat
  cin : Nat
  cout : Nat
  groups : Nat
  kh : Nat
  kw : Nat
  sh : Nat
  sw : Nat
  dil : Nat
  diw : Nat
  factor : Nat
  pt : Nat
  pb : Nat
  pl : Nat
  pr : Nat
  padVal : Nat
  outH : Nat
  outW : Nat
  wrec : Nat
  brec : Nat
  rrec : Nat
  arec : Nat
  src0 : Nat
  src1 : Nat
  n0 : Nat
  sl0 : Nat
  rsvd : Bool
  deriving DecidableEq, Repr, Inhabited

/-- The descriptor read from its 64 bytes. -/
def Layer.parse (b : List Byte) : Layer :=
  let f := leAt b 1 1
  { op := leAt b 0 1, bridle := bitOf f 0, diag := bitOf f 1, fpath := bitsOf f 3 2, rnd := bitsOf f 5 4, path := bitsOf f 7 6,
    fmtIn := bitsOf (leAt b 2 1) 3 0, fmtW := bitsOf (leAt b 2 1) 7 4, fmtOut := bitsOf (leAt b 3 1) 3 0,
    padMode := bitsOf (leAt b 3 1) 5 4, inH := leAt b 4 2, inW := leAt b 6 2, cin := leAt b 8 2, cout := leAt b 10 2,
    groups := leAt b 12 2, kh := leAt b 14 1, kw := leAt b 15 1, sh := bitsOf (leAt b 16 1) 3 0, sw := bitsOf (leAt b 16 1) 7 4,
    dil := leAt b 17 1, diw := leAt b 18 1, factor := leAt b 19 1, pt := leAt b 20 1, pb := leAt b 21 1, pl := leAt b 22 1,
    pr := leAt b 23 1, padVal := leAt b 24 2, outH := leAt b 26 2, outW := leAt b 28 2, wrec := leAt b 32 4,
    brec := leAt b 36 4, rrec := leAt b 40 4, arec := leAt b 44 4, src0 := leAt b 48 4, src1 := leAt b 52 4,
    n0 := leAt b 56 2, sl0 := leAt b 58 2,
    rsvd := bitsOf (leAt b 3 1) 7 6 != 0 || leAt b 30 2 != 0 || leAt b 60 4 != 0 || b.length != 64 }

/-- A cut descriptor (R214), with the tile that runs it. -/
structure Cut where
  tile : Nat
  layer : Nat
  mode : Nat
  role : Nat
  npart : Nat
  queue : Nat
  row0 : Nat
  nrow : Nat
  col0 : Nat
  ncol : Nat
  och0 : Nat
  noch : Nat
  ich0 : Nat
  nich : Nat
  inAddr : Nat
  outAddr : Nat
  haloAddr : Nat
  ht : Nat
  hb : Nat
  hl : Nat
  hr : Nat
  srcN : Nat
  srcS : Nat
  srcW : Nat
  srcE : Nat
  stripe : Nat
  lbrows : Nat
  lbAddr : Nat
  dst : Nat
  spill : Nat
  rsvd : Bool
  deriving DecidableEq, Repr, Inhabited

/-- The descriptor read from its 64 bytes. -/
def Cut.parse (p : PCut) : Cut :=
  let b := p.desc
  { tile := p.tile, layer := leAt b 0 4, mode := leAt b 4 1, role := leAt b 5 1, npart := leAt b 6 1, queue := leAt b 7 1,
    row0 := leAt b 8 2, nrow := leAt b 10 2, col0 := leAt b 12 2, ncol := leAt b 14 2, och0 := leAt b 16 2, noch := leAt b 18 2,
    ich0 := leAt b 20 2, nich := leAt b 22 2, inAddr := leAt b 24 4, outAddr := leAt b 28 4, haloAddr := leAt b 32 4,
    ht := leAt b 36 1, hb := leAt b 37 1, hl := leAt b 38 1, hr := leAt b 39 1, srcN := leAt b 40 1, srcS := leAt b 41 1,
    srcW := leAt b 42 1, srcE := leAt b 43 1, stripe := leAt b 44 2, lbrows := leAt b 46 2, lbAddr := leAt b 48 4,
    dst := leAt b 52 1, spill := leAt b 56 8, rsvd := leAt b 53 3 != 0 || b.length != 64 }

/-- The modes and roles of R214 and R215. -/
def cutWhole : Nat := 0
def cutStripe : Nat := 1
def cutSpill : Nat := 2
def roleComplete : Nat := 0
def rolePartial : Nat := 1
def roleFinal : Nat := 2

/-- The tile that receives a cut's output. -/
def Cut.dstTile (c : Cut) : Nat := if c.dst = 0xFF then c.tile else c.dst

/-- A cut names a range of channels, rows and columns. -/
def Cut.hasRow (c : Cut) (r : Nat) : Bool := decide (c.row0 ≤ r) && decide (r < c.row0 + c.nrow)
def Cut.hasCol (c : Cut) (q : Nat) : Bool := decide (c.col0 ≤ q) && decide (q < c.col0 + c.ncol)

/-- No record, and the special sources of R202. -/
def recNone : Nat := 0xFFFFFFFF
def srcPicture : Nat := 0xFFFFFFF0
def srcRefShort : Nat := 0xFFFFFFF1
def srcRefLong : Nat := 0xFFFFFFF2
def srcAnchors : Nat := 0xFFFFFFF3
def srcChroma : Nat := 0xFFFFFFF4
def srcTap : Nat := 0xFFFFFFF5

/-- Record types (R102, R243, R253, R262). -/
def recLayer : Nat := 1
def recWeights : Nat := 2
def recBias : Nat := 3
def recRescale : Nat := 4
def recGdn : Nat := 5
def recTable : Nat := 6
def recGain : Nat := 7
def recIgain : Nat := 8
def recCdf : Nat := 9
def recCost : Nat := 10
def recHscale : Nat := 11
def recTap : Nat := 12
def recQspec : Nat := 0x10
def recSfu : Nat := 0x11
def recMicro : Nat := 0x12

/-- A record of a program. -/
def Prog.record (p : Prog) (i : Nat) : Option Rec := p.recs[i]?

/-- The bytes of a record of a type. -/
def Prog.recData (p : Prog) (typ i : Nat) : Option (List Byte) :=
  (p.record i).bind fun r => if r.typ = typ then some r.data else none

/-- The layer of a `LAYER` record. -/
def Prog.layer (p : Prog) (i : Nat) : Option Layer := (p.recData recLayer i).map Layer.parse

/-- A cut of the mapping section. -/
def Prog.cut (p : Prog) (i : Nat) : Option Cut := p.cuts[i]?.map Cut.parse

/-- The cuts of a layer, with their numbers. -/
def Prog.cutsOf (p : Prog) (layer : Nat) : List (Nat × Cut) :=
  p.cuts.zipIdx.filterMap fun e => let c := Cut.parse e.1; if c.layer = layer then some (e.2, c) else none

/-- A codec program (R101). -/
def Prog.codec (p : Prog) : Bool := match p.profile with | some k => decide (k ≤ 3) | none => false

/-- The `QSPEC` that governs a layer (R243). -/
def Prog.qspec (p : Prog) (layer : Nat) : Option (List Byte) :=
  (p.recs.find? fun r => r.typ == recQspec && leAt r.data 0 4 == layer).map (·.data)

/-- The granularity and the tensor scale of a layer's output. -/
def Prog.ogran (p : Prog) (layer : Nat) : Nat := (p.qspec layer).elim 0 fun d => leAt d 5 1
def Prog.ots (p : Prog) (layer : Nat) : Nat := (p.qspec layer).elim 0x3F800000 fun d => leAt d 16 4

/-- The granularity, codes and tensor scale of a layer's weights. -/
def Prog.wgran (p : Prog) (layer : Nat) : Nat := (p.qspec layer).elim 0 fun d => leAt d 4 1
def Prog.wts (p : Prog) (layer : Nat) : Nat := (p.qspec layer).elim 0x3F800000 fun d => leAt d 12 4
def Prog.wcodes (p : Prog) (layer : Nat) : List Byte :=
  ((p.qspec layer).bind fun d => p.record (leAt d 8 4)).elim [] (·.data)

/-! ## Operations -/

/-- Windowed operations, and those that pad (R200, R212, R213). -/
def opWindow (op : Nat) : Bool := op == 0 || op == 2 || op == 3
def opPads (op : Nat) : Bool := opWindow op || op == 0x0E

/-- Operations with a factor. -/
def opFactor (op : Nat) : Bool := decide (0x0A ≤ op) && decide (op ≤ 0x0D)

/-- Operations with a rescale of R86 in Bridle form. -/
def opRescale (op : Nat) : Bool := op == 0 || op == 6 || op == 7 || op == 8

/-- Integer formats, and the width of a format code. -/
def fmtInt (f : Nat) : Bool := decide (f ≤ 5)
def fmtWidth (f : Nat) : Nat := (fmtOf f).elim 8 Fmt.width

/-- The K lanes of an operand pair (R197); none where the pair is not executed. -/
def lanes (a w : Nat) : Option Nat :=
  if (a = 0 ∨ a = 1) ∧ w = 0 then some 256
  else if a = 6 ∧ w = 6 then some 256
  else if a ≤ 3 ∧ (w = 0 ∨ w = 2) then some 128
  else if 6 ≤ a ∧ a ≤ 0xA ∧ 6 ≤ w ∧ w ≤ 0xA then some 128
  else if a = 4 ∧ (w = 0 ∨ w = 2) then some 32
  else if (a = 0xB ∨ a = 0xC) ∧ (w = 0xB ∨ w = 0xC ∨ (6 ≤ w ∧ w ≤ 0xA)) then some 64
  else if a = 0xD ∧ w = 0xD then some 16
  else none

/-- The groups of a layer: those of a convolution, else one. -/
def Layer.g (l : Layer) : Nat := if l.op = 0 then max 1 l.groups else 1
def Layer.gin (l : Layer) : Nat := l.cin / l.g
def Layer.gout (l : Layer) : Nat := l.cout / l.g

/-- The channels that the first source's buffer holds: those of the producing layer; a special source has those that the
layer takes. -/
def Prog.srcCh (p : Prog) (l : Layer) (src : Nat) : Nat :=
  match p.layer src with
  | some m => m.cout
  | none => if src = l.src0 then l.sl0 + l.n0 else l.cin - l.n0

/-- The format of a source (R237): the producing layer's `FMT_OUT`; references and anchors are ŷ, INT16 (R55, R99). The
spec gives no format for the picture, its chroma and a tap as inputs: they are read in `FMT_IN`. (DEDUCED, log entry 65) -/
def Prog.srcFmt (p : Prog) (l : Layer) (src : Nat) : Nat :=
  match p.layer src with
  | some m => m.fmtOut
  | none => if src = srcRefShort ∨ src = srcRefLong ∨ src = srcAnchors then 4 else l.fmtIn

/-- The granularity and the tensor scale of a source (R243): those of its producer; a special source is unscaled. -/
def Prog.srcGran (p : Prog) (src : Nat) : Nat := if (p.layer src).isSome then p.ogran src else 0
def Prog.srcTs (p : Prog) (src : Nat) : Nat := if (p.layer src).isSome then p.ots src else 0x3F800000

/-- The tensor scale S_Ta of a layer's activations (R244): that of the source its channels begin with. Where its two sources
have different ones, the spec does not say which. (DEDUCED, log entry 71) -/
def Prog.actTs (p : Prog) (l : Layer) : Nat := p.srcTs (if l.n0 = 0 then l.src1 else l.src0)

/-- The channels of the second operand of an element-wise operation start at 0 of `SRC1`. -/
def Layer.two (l : Layer) : Bool := l.op == 6 || l.op == 7

/-! ## What a cut owns and reads (R211, R216, R220) -/

/-- The input rows (or columns) of a cut's own band, in one dimension: of outputs `o0` to `o0 + n − 1` of `osz`, with
stride `s` and padding `p`, of an input of `isz`. Bands are cut evenly; the last holds the rest of the map.
(DEDUCED, log entry 68) -/
def ownSpan (l : Layer) (o0 n isz osz s p : Nat) : Nat × Nat :=
  let f := max 1 l.factor
  let (a, b) :=
    if l.op = 0x0B ∨ l.op = 0x0C ∨ l.op = 0x0D then (o0 / f, cdiv (o0 + n) f)
    else if l.op = 0x0E then (o0 - p, o0 + n - p)
    else if l.op = 0x0A then (o0 * f, (o0 + n) * f)
    else if opWindow l.op then (o0 * s, (o0 + n) * s)
    else (o0, o0 + n)
  (min a isz, if osz ≤ o0 + n then isz else min b isz)

/-- The own rows and columns of a cut. -/
def Layer.rows (l : Layer) (c : Cut) : Nat × Nat := ownSpan l c.row0 c.nrow l.inH l.outH l.sh l.pt
def Layer.cols (l : Layer) (c : Cut) : Nat × Nat := ownSpan l c.col0 c.ncol l.inW l.outW l.sw l.pl

/-- The halo a cut needs: above, below, left, right (R216). -/
def haloNeed (l : Layer) (c : Cut) : List Nat :=
  let r := l.rows c
  let q := l.cols c
  if c.role = roleFinal then [0, 0, 0, 0]
  else if opWindow l.op then
    [if c.mode = cutStripe ∨ c.row0 = 0 then 0 else l.pt,
     if c.mode = cutStripe ∨ l.outH ≤ c.row0 + c.nrow then 0 else l.dil * (l.kh - 1) + 1 - l.pt - l.sh,
     if c.col0 = 0 then 0 else l.pl,
     if l.outW ≤ c.col0 + c.ncol then 0 else l.diw * (l.kw - 1) + 1 - l.pl - l.sw]
  else if l.op = 0x0D then
    [b2n (r.1 != 0 && c.mode != cutStripe), b2n (decide (r.2 < l.inH) && c.mode != cutStripe), b2n (q.1 != 0),
     b2n (decide (q.2 < l.inW))]
  else [0, 0, 0, 0]

/-- The line-buffer rows of a striped cut (R220). -/
def lbRows (l : Layer) : Nat := if opWindow l.op then l.dil * (l.kh - 1) + 1 - l.sh else 0

/-- The bytes of one position of `c` channels, and of a row of `w` positions (R215). -/
def posBytes (f c : Nat) : Nat := packedLen (fmtWidth f) c
def rowBytes (f c w : Nat) : Nat := cdiv (posBytes f c * w) 64 * 64

/-- The number of scale groups of a position of `c` channels under a granularity (R242), and the bytes of a row of the scale
plane (R245). -/
def groupsOf (gran c : Nat) : Nat := if gran = 0 then 0 else if gran = 1 then 1 else c / 32
def scaleRow (gran c w : Nat) : Nat := cdiv (groupsOf gran c * w) 64 * 64

/-- The blocks of a cut: rows in order, then positions, then groups of up to 64 channels (R199). (DEDUCED, log entry 69) -/
def blockCount (c : Cut) : Nat := c.nrow * cdiv c.ncol 256 * cdiv c.noch 64

/-- The row, the first column and how many, and the first channel and how many, of a block. -/
structure BlockAt where
  row : Nat
  q0 : Nat
  nq : Nat
  k0 : Nat
  nk : Nat
  deriving DecidableEq, Repr

/-- Block number `i` of a cut. (DEDUCED, log entry 69) -/
def blockOf (c : Cut) (i : Nat) : BlockAt :=
  let g := cdiv c.noch 64
  let p := cdiv c.ncol 256
  let gi := i % g
  let pi := i / g % p
  let ri := i / (g * p)
  ⟨c.row0 + ri, c.col0 + 256 * pi, min 256 (c.ncol - 256 * pi), c.och0 + 64 * gi, min 64 (c.noch - 64 * gi)⟩

/-- The outputs that are stored when a block is done: its own, or, where the output stage needs a whole position (`whole`), every
channel of its positions with their last group and nothing before (R245, R256). (DEDUCED, log entry 69) -/
def storedOf (whole : Bool) (c : Cut) (b : BlockAt) : Option BlockAt :=
  if !whole then some b else if b.k0 + b.nk = c.och0 + c.noch then some { b with k0 := c.och0, nk := c.noch } else none

/-- The bottom input row and the top one that an output row reads of the first source, before padding (R213, R216). -/
def inRows (l : Layer) (r : Nat) : Int × Int :=
  let f : Int := max 1 l.factor
  if opWindow l.op then ((r : Int) * l.sh - l.pt, (r : Int) * l.sh - l.pt + l.dil * (l.kh - 1))
  else if l.op = 0x0A then ((r : Int) * f, (r : Int) * f + f - 1)
  else if l.op = 0x0B ∨ l.op = 0x0C then ((r : Int) / f, (r : Int) / f)
  else if l.op = 0x0D then ((2 * (r : Int) + 1 - f) / (2 * f), (2 * (r : Int) + 1 - f) / (2 * f) + 1)
  else if l.op = 0x0E then ((r : Int) - l.pt, (r : Int) - l.pt)
  else (r, r)

/-! ## Cycles (R206, R207, R209, R540) -/

/-- The input rows that one output row reads. -/
def Layer.rowSpan (l : Layer) : Nat := let s := inRows l 0; (s.2 - s.1).toNat + 1

/-- The rows of `SRC1` that a cut reads, and the columns (R211, R217): those of its outputs where `SRC1` stands at output
resolution, else the input rows that its outputs read. -/
def Layer.span1 (l : Layer) (o0 n isz k s p d : Nat) : Nat × Nat :=
  if l.op = 0x0A ∨ l.two then (o0, o0 + n)
  else
    let t : Layer := { l with kh := k, sh := s, pt := p, dil := d }
    let a := (inRows t o0).1
    let b := (inRows t (o0 + n - 1)).2
    ((clampInt a 0 isz).toNat, (clampInt (b + 1) 0 isz).toNat)
def Layer.rows1 (l : Layer) (c : Cut) : Nat × Nat := l.span1 c.row0 c.nrow l.inH l.kh l.sh l.pt l.dil
def Layer.cols1 (l : Layer) (c : Cut) : Nat × Nat := l.span1 c.col0 c.ncol l.inW l.kw l.sw l.pl l.diw

/-- The groups that a cut's channels touch. -/
def groupsIn (l : Layer) (c : Cut) : Nat :=
  if c.noch = 0 then 0 else (c.och0 + c.noch - 1) / max 1 l.gout - c.och0 / max 1 l.gout + 1

/-- The transform tiles of a frequency-path cut (R209). -/
def transformTiles (l : Layer) (c : Cut) : Nat := cdiv c.nrow (129 - l.kh) * cdiv c.ncol (129 - l.kw)

/-- The input channels a cut reduces over. -/
def redCh (l : Layer) (c : Cut) : Nat := if c.role = rolePartial then c.nich else l.gin

/-- The cycles in which the blocks of a cut hold the array. A `FINAL` cut, for which no figure is given, takes one position
a cycle for each 64 channels. `sfu` gives those of `TABLE` and `SFUFN`. (DEDUCED, log entry 72) -/
def cutCycles (l : Layer) (c : Cut) (sfu : Nat) : Nat :=
  let p := c.nrow * c.ncol
  let g64 := cdiv c.noch 64
  let k := max 1 ((lanes l.fmtIn l.fmtW).getD 1)
  if c.role = roleFinal then p * g64
  else if l.op = 0 then
    if l.fpath ≠ 0 then
      let t := transformTiles l c
      t * 512 * (redCh l c + c.noch) +
        (if l.fpath = 1 then t * 16384 * redCh l c * c.noch / 512 else t * 8320 * redCh l c * c.noch / 256)
    else if l.diag then c.nrow * cdiv c.ncol 64 * cdiv (groupsIn l c) k * l.gout * l.kh * l.kw * l.gin
    else if l.g = 1 then p * cdiv (l.kh * l.kw * redCh l c) k * g64
    else groupsIn l c * p * cdiv (l.kh * l.kw * redCh l c) k * cdiv l.gout 64
  else if l.op = 4 ∨ l.op = 5 then p * cdiv l.cin 32 * cdiv l.cin 64
  else if l.op = 2 ∨ l.op = 3 then p * g64 * l.kh * l.kw
  else if l.op = 0x0D then 2 * p * g64
  else if l.op = 0x0B then p * cdiv (c.noch + (if c.och0 = 0 then l.cin - l.factor * l.factor * l.cout else 0)) 64
  else if l.op = 9 ∨ l.op = 0x0F then sfu
  else p * g64

/-- The multiply-accumulates that the layer's definition gives a cut (R228). -/
def cutMacs (l : Layer) (c : Cut) : Nat :=
  let p := c.nrow * c.ncol * c.noch
  if c.role = roleFinal then 0
  else if l.op = 0 then p * l.kh * l.kw * redCh l c
  else if l.op = 4 ∨ l.op = 5 then p * (if c.role = rolePartial then c.nich else l.cin)
  else 0

/-! ## Checks (R105, R200 to R225, R240, R244, R245, R257) -/

/-- The output size that the layer's input gives (R203, R211, R212). -/
def Layer.outSize (l : Layer) (isz : Nat) (p0 p1 d k s : Nat) : Option Nat :=
  let f := max 1 l.factor
  if opWindow l.op then
    (if s = 0 ∨ isz + p0 + p1 < d * (k - 1) + 1 then none else some ((isz + p0 + p1 - d * (k - 1) - 1) / s + 1))
  else if l.op = 0x0A then (if isz % f = 0 then some (isz / f) else none)
  else if opFactor l.op then some (isz * f)
  else if l.op = 0x0E then some (isz + p0 + p1)
  else some isz

/-- A field that the operation does not use is not zero (R200). Record indices and `SRC1` that are not used name no
record. -/
def Layer.unused (l : Layer) (codec : Bool) : Bool :=
  (l.op != 0 && (l.diag || l.fpath != 0 || l.fmtW != 0)) ||
  (l.op != 0 && l.op != 0x0F && l.groups != 0) ||
  (!opWindow l.op && (l.dil != 0 || l.diw != 0)) ||
  (!opWindow l.op && l.op != 0x0F && (l.kh != 0 || l.kw != 0 || l.sh != 0 || l.sw != 0)) ||
  (!opPads l.op && (l.pt != 0 || l.pb != 0 || l.pl != 0 || l.pr != 0 || l.padMode != 0 || l.padVal != 0)) ||
  (!opFactor l.op && l.factor != 0) || (!codec && l.path != 0) ||
  (l.wrec != recNone && l.wrec != 0 && l.op != 0) ||
  (l.bridle && l.brec != recNone && l.brec != 0 && l.op != 0) ||
  (l.bridle && l.rrec != recNone && l.rrec != 0 && !opRescale l.op)

/-- An operation that has an auxiliary record of its own, beside a fused function: GDN, IGDN, `TABLE`, `SFUFN`, and those with a
rescale, whose M a gain record may give (R59, R87). -/
def opAux (op : Nat) : Bool := op == 4 || op == 5 || op == 9 || op == 0x0F || opRescale op

/-- `AREC` names a record, and not the SFU's parameters, in a layer whose operation uses none (R200). -/
def Prog.auxUnused (p : Prog) (l : Layer) : Bool :=
  !opAux l.op && l.arec != recNone && l.arec != 0 && (p.recData recSfu l.arec).isNone

/-- The rescale entries of a layer (R88, R102). -/
def Prog.rescales (p : Prog) (l : Layer) : List RescaleEntry :=
  if !opRescale l.op then [] else
  ((p.recData recRescale l.rrec).elim [] fun d => (List.range (d.length / 16)).map fun i =>
    RescaleEntry.parse ((d.drop (16 * i)).take 16))

/-- The same format, or an exact widening in a Bridle layer: sign extension from INT4 or INT8, zero extension from UINT4 or
UINT8, into a wider format of R81 (R240). -/
def widens (a b : Nat) : Bool :=
  a == b || (a == 0 && (b == 2 || b == 4 || b == 5)) || (a == 1 && (b == 2 || b == 3 || b == 4 || b == 5)) ||
  (a == 2 && (b == 4 || b == 5)) || (a == 3 && (b == 4 || b == 5))

/-- The product terms of one output. -/
def Layer.terms (l : Layer) : Nat := l.kh * l.kw * l.gin

/-- The violation codes of R105 that a descriptor with `BRIDLE` = 1 has; `load` adds those of the loader alone. -/
def Prog.bridleViols (p : Prog) (l : Layer) (load : Bool) : List Nat :=
  let fo := intRange l.fmtOut
  let rs := p.rescales l
  let gd := (p.recData recGdn l.arec)
  let srcs := [l.src0, l.src1].filter (· != recNone)
  [if !fmtInt l.fmtIn || !fmtInt l.fmtOut || (l.op == 0 && bridlePairLimit l.fmtIn l.fmtW == none) ||
      ((l.op == 4 || l.op == 5 || l.op == 9) && (l.fmtIn != 4 || l.fmtOut != 4)) || (l.op == 7 && l.fmtIn == 5) ||
      ((l.op == 2 || l.op == 3 || opFactor l.op || l.op == 0x0E) && l.fmtIn != l.fmtOut) ||
      srcs.any (fun r => !widens (p.srcFmt l r) l.fmtIn) then 1 else 0,
   if load && ((p.recData recWeights l.wrec).elim false fun d =>
      let w := fmtWidth l.fmtW
      l.op == 0 && (unpackCodes w (d.length * 8 / w) d).any (· == 2 ^ (w - 1))) then 2 else 0,
   if l.op == 0 && ((bridlePairLimit l.fmtIn l.fmtW).elim false fun n => decide (n < l.terms)) then 3 else 0,
   if rs.any fun e => decide (47 < e.s) then 4 else 0,
   if rs.zipIdx.any (fun e => (l.op != 6 || decide (e.2 < l.cout)) &&
      (decide (e.1.hi < e.1.lo) || fo.elim true fun b => decide (e.1.lo < b.1) || decide (b.2 < e.1.hi))) then 5 else 0,
   if (l.op == 4 || l.op == 5) && gd.elim false (fun d =>
      let c := leAt d 0 2
      (List.range (min c 512)).any (fun i => leAt d (4 + 4 * i) 4 == 0) || decide (512 < c) || decide (30 < leAt d 2 1) ||
        decide (15 < leAt d 3 1)) then 6 else 0,
   if load && l.op == 9 && (p.recData recTable l.arec).elim true (fun d => d.length != 2050) then 7 else 0,
   if decide (64 < l.kh) || decide (64 < l.kw) ||
      (l.fpath != 0 && (l.sh != 1 || l.sw != 1 || l.dil != 1 || l.diw != 1)) then 8 else 0,
   if l.rnd != 0 || l.fpath == 2 || l.op == 0x0F || (p.recData recSfu l.arec).isSome then 9 else 0].filter (· != 0)

/-- `BLOCK32` and scaled inputs of a layer (R244); the SFU's own operation takes scaled codes of any format (R257). -/
def Prog.scaleBad (p : Prog) (i : Nat) (l : Layer) : Bool :=
  let gr := [l.src0, l.src1].map p.srcGran
  let ts := [l.src0, l.src1].map p.srcTs
  let wg := p.wgran i
  !l.bridle &&
  ((((l.op == 0 && l.fmtIn == 0xD) || (fmtInt l.fmtIn && l.op != 0x0F)) &&
      (gr.any (· != 0) || ts.any (· != 0x3F800000) || wg != 0)) ||
   ((gr.contains 2 || wg == 2) && l.gin % 32 != 0))

/-- The layer codes of R225 that fail, but for `BRIDLE`. A kernel above 9 × 9 without a transform path shows `FPATH` alone, and
with `BRIDLE` = 0 the FP32 values of `RREC` stand in a `RESCALE` or a `BIAS` record. (DEDUCED, log entry 156) -/
def Prog.layerCodes (p : Prog) (i : Nat) (l : Layer) : List Nat :=
  let s0 := p.srcCh l l.src0
  let s1 := p.srcCh l l.src1
  let rest := l.cin - l.n0
  let f2 := l.factor * l.factor
  let sfu := p.recData recSfu l.arec
  let resOk := if l.bridle then (!opRescale l.op || (p.rescales l).length == (if l.op = 6 then 2 else 1) * l.cout)
    else l.rrec == recNone || (p.record l.rrec).elim false fun r => (r.typ == recRescale || r.typ == recBias) && r.data.length == 4 * l.cout
  let srcOk (s : Nat) : Bool := (p.layer s).isSome || (decide (srcPicture ≤ s) && decide (s ≤ srcTap))
  [if l.op == 1 || decide (0x0F < l.op) || l.fpath == 3 || l.path == 3 || l.rsvd || l.unused p.codec || p.auxUnused l ||
      (!l.bridle && l.rnd == 0) then 1 else 0,
   if l.g == 0 || l.cin % l.g != 0 || l.cout % l.g != 0 || (l.op == 0 && l.groups == 0) ||
      l.outSize l.inH l.pt l.pb l.dil l.kh l.sh != some l.outH || l.outSize l.inW l.pl l.pr l.diw l.kw l.sw != some l.outW ||
      l.outH == 0 || l.outW == 0 || l.inH == 0 || l.inW == 0 || l.cin == 0 || l.cout == 0 ||
      decide (16384 < l.inH) || decide (16384 < l.inW) || decide (16384 < l.cin) || decide (16384 < l.cout) ||
      decide (s0 < l.sl0 + l.n0) || decide (l.cin < l.n0) ||
      (if l.two then !((l.n0 == l.cin && l.cin == l.cout) || (l.n0 == l.cout && rest == l.cout)) || decide (s1 < l.cout)
       else decide (0 < rest) && (l.src1 == recNone || decide (s1 < rest))) ||
      (if l.op = 0x0A then l.cout != f2 * l.n0 + rest else if l.op = 0x0B then decide (l.cin < f2 * l.cout)
       else l.op != 0 && !l.two && l.cin != l.cout) ||
      (l.op == 0x0F && (l.kh != 1 || l.kw != 1 || l.sh != 1 || l.sw != 1 || l.groups != 1 || l.src1 != recNone ||
        l.wrec != recNone || l.brec != recNone || sfu.isNone)) then 2 else 0,
   if (opWindow l.op && (l.kh == 0 || l.kw == 0 || l.sh == 0 || l.sw == 0 || l.dil == 0 || l.diw == 0 || decide (64 < l.kh) ||
        decide (64 < l.kw) || decide (8 < l.sh) || decide (8 < l.sw) || decide (16 < l.dil) || decide (16 < l.diw))) ||
      ((l.op == 2 || l.op == 3) && (decide (8 < l.kh) || decide (8 < l.kw) || l.dil != 1 || l.diw != 1)) ||
      (l.op == 0 && (l.fpath == 1 || l.fpath == 2) && (l.sh != 1 || l.sw != 1 || l.dil != 1 || l.diw != 1)) ||
      (opFactor l.op && l.factor != 2 && l.factor != 4 && l.factor != 8) then 3 else 0,
   if decide (64 < l.pt) || decide (64 < l.pb) || decide (64 < l.pl) || decide (64 < l.pr) ||
      (l.padMode == 2 && (decide (l.inH ≤ max l.pt l.pb) || decide (l.inW ≤ max l.pl l.pr))) then 4 else 0,
   if l.diag && (decide (8 < l.gin) || decide (8 < l.gout) || l.gin == 0 || l.gout == 0) then 5 else 0,
   if l.op == 0 && (((decide (9 < l.kh) || decide (9 < l.kw)) != (l.fpath != 0)) ||
      (l.fpath != 0 && (l.groups != 1 || l.diag)) ||
      (l.fpath == 1 && !(fmtInt l.fmtIn && fmtInt l.fmtW)) ||
      (l.fpath == 2 && (fmtInt l.fmtIn || fmtInt l.fmtW || l.bridle))) then 6 else 0,
   if (l.op == 0 && lanes l.fmtIn l.fmtW == none) || fmtOf l.fmtIn == none || fmtOf l.fmtOut == none || p.scaleBad i l ||
      (!l.bridle && (l.op == 4 || l.op == 5 || l.op == 9) && l.fmtIn != 4) then 7 else 0,
   if !srcOk l.src0 || !(l.src1 == recNone || srcOk l.src1) || (l.two && l.src1 == recNone) ||
      (l.op == 0 && (p.recData recWeights l.wrec).elim true fun d =>
        d.length != packedLen (fmtWidth l.fmtW) (l.cout * l.kh * l.kw * l.gin)) ||
      (l.op == 0 && l.bridle && (p.recData recBias l.brec).elim true fun d => d.length != 4 * l.cout) ||
      (!l.bridle && l.brec != recNone && (p.recData recBias l.brec).elim true fun d => d.length != 4 * l.cout) || !resOk ||
      ((l.op == 4 || l.op == 5) && (p.recData recGdn l.arec).elim true fun d => leAt d 0 2 != l.cin) ||
      (l.op == 9 && (p.recData recTable l.arec).isNone) ||
      (opRescale l.op && l.arec != recNone && l.arec != 0 &&
        sfu.isNone && (p.recData recGain l.arec).isNone && (p.recData recIgain l.arec).isNone) then 8 else 0].filter (· != 0)

/-- The layer's `SFUPAR` record, when it names one. -/
def Prog.sfuPar (p : Prog) (l : Layer) : Option SfuPar := (p.recData recSfu l.arec).map SfuPar.parse

/-- The output stage needs every channel of a position at once (R245, R256). -/
def Prog.wholePos (p : Prog) (i : Nat) (l : Layer) : Bool := p.ogran i == 1 || (p.sfuPar l).elim false fun q => q.func == 3

/-- The rows of the input and of the output that a cut's buffers hold: its band, one stripe of it, or, in mode `SPILL`, those of
two blocks (R220, R221). -/
def heldIn (l : Layer) (c : Cut) : Nat :=
  let r := l.rows c
  if c.mode = cutStripe then min (r.2 - r.1) (c.stripe * max 1 l.sh)
  else if c.mode = cutSpill then min (r.2 - r.1) (2 * l.rowSpan) else r.2 - r.1
def heldOut (c : Cut) : Nat :=
  if c.mode = cutStripe then min c.nrow c.stripe else if c.mode = cutSpill then min c.nrow 2 else c.nrow

/-- The bytes of a row of the first source with its row of the scale plane, of a row of `SRC1` where a special source stands
behind the band, and of a row of the output. -/
def Prog.inPitch (p : Prog) (l : Layer) : Nat :=
  let ch := p.srcCh l l.src0
  rowBytes (p.srcFmt l l.src0) ch l.inW + scaleRow (p.srcGran l.src0) ch l.inW
def Prog.inPitch1 (p : Prog) (l : Layer) : Nat :=
  if l.src1 = srcPicture ∨ l.src1 = srcChroma ∨ l.src1 = srcTap then
    rowBytes (p.srcFmt l l.src1) (p.srcCh l l.src1) (if l.op = 0x0A ∨ l.two then l.outW else l.inW) else 0
def Prog.outPitch (p : Prog) (i : Nat) (l : Layer) : Nat := rowBytes l.fmtOut l.cout l.outW + scaleRow (p.ogran i) l.cout l.outW

/-- The bytes of a cut's input in memory: the band with its scale plane, and a special second source behind it. -/
def Prog.inBytes (p : Prog) (l : Layer) (c : Cut) : Nat :=
  let r := l.rows1 c
  heldIn l c * p.inPitch l + (if c.mode = cutStripe then heldIn l c else r.2 - r.1) * p.inPitch1 l

/-- The output of a cut, and the second one of a `D2S` cut, each with its bytes, wherever it goes. -/
def Prog.outBuffers (p : Prog) (i : Nat) (l : Layer) (c : Cut) : List (Nat × Nat) :=
  let rem := if l.op = 0x0B ∧ c.och0 = 0 then l.cin - l.factor * l.factor * l.cout else 0
  [(c.outAddr, if c.role = rolePartial then c.nrow * c.ncol * c.noch * 8 else heldOut c * p.outPitch i l),
   (c.lbAddr, if 0 < rem ∧ c.mode ≠ cutStripe then
      ((c.row0 + c.nrow - 1) / l.factor + 1 - c.row0 / l.factor) * rowBytes l.fmtOut rem l.inW else 0)]

/-- The buffers of a cut on its own tile: offsets and bytes (R219 to R221). (DEDUCED, log entry 73) -/
def Prog.cutBuffers (p : Prog) (i : Nat) (l : Layer) (c : Cut) : List (Nat × Nat) :=
  let r := l.rows c
  let ch := p.srcCh l l.src0
  ([if c.role = roleFinal then (c.haloAddr, c.npart * (c.nrow * c.ncol * c.noch) * 8)
    else (c.haloAddr, (c.ht + c.hb) * p.inPitch l +
      (r.2 - r.1) * (c.hl + c.hr) * (posBytes (p.srcFmt l l.src0) ch + groupsOf (p.srcGran l.src0) ch)),
    (c.inAddr, if c.role = roleFinal ∧ l.op = 0 then 0 else p.inBytes l c),
    (c.lbAddr, if c.mode = cutStripe then c.lbrows * p.inPitch l else 0)] ++
    (if c.dstTile = c.tile then p.outBuffers i l c else [])) |>.filter fun b => b.2 != 0

/-- Two buffers of a list overlap. -/
def overlap : List (Nat × Nat) → Bool
  | [] => false
  | b :: bs => bs.any (fun d => decide (b.1 < d.1 + d.2) && decide (d.1 < b.1 + b.2)) || overlap bs

/-- The rows and columns that a cut reads of `SRC1` were not all produced onto its tile (R217). -/
def Prog.src1Missing (p : Prog) (l : Layer) (c : Cut) : Bool :=
  if (p.layer l.src1).isNone ∨ c.role = roleFinal then false
  else
    let ps := (p.cutsOf l.src1).map (·.2) |>.filter fun d => d.role != rolePartial && d.dstTile == c.tile
    let r := l.rows1 c
    let q := l.cols1 c
    (List.range (r.2 - r.1)).any fun i => (List.range (q.2 - q.1)).any fun j =>
      !ps.any fun d => d.hasRow (r.1 + i) && d.hasCol (q.1 + j)

/-- The cut codes of R225 that fail, but for those that need the tile and the instance. -/
def Prog.cutCodes (p : Prog) (i : Nat) (l : Layer) (c : Cut) : List Nat :=
  let need := haloNeed l c
  let hs := [(c.ht, c.srcN), (c.hb, c.srcS), (c.hl, c.srcW), (c.hr, c.srcE)]
  let nb := (p.cutsOf c.layer).map (·.2)
  let og := p.ogran i
  let bufs := p.cutBuffers i l c
  let conv := l.op == 0 || l.op == 4 || l.op == 5
  [if decide (2 < c.mode) || decide (2 < c.role) || c.rsvd then 1 else 0,
   if c.nrow == 0 || c.ncol == 0 || c.noch == 0 || decide (l.outH < c.row0 + c.nrow) || decide (l.outW < c.col0 + c.ncol) ||
      decide (l.cout < c.och0 + c.noch) || (c.role != 0 && !conv) ||
      (if c.role = rolePartial then c.nich == 0 || decide (l.cin < c.ich0 + c.nich) else c.ich0 != 0 || c.nich != l.cin) ||
      (if c.role = roleFinal then decide (c.npart < 2) || decide (64 < c.npart) else c.npart != 0) ||
      (if c.mode = cutStripe then c.stripe == 0 || decide (1024 < c.stripe) || c.lbrows != lbRows l || c.ht != 0 || c.hb != 0
       else c.stripe != 0) ||
      ((hs.zip need).any fun e => decide (e.1.1 < e.2) || (e.2 != 0 && e.1.2 == 0xFF)) ||
      ([(c.ht, c.srcN), (c.hb, c.srcS)].any fun e => e.1 != 0 && nb.any fun d =>
        d.tile == e.2 && d.hasCol c.col0 && (decide (d.hl < c.hl) || decide (d.hr < c.hr))) ||
      p.src1Missing l c || (og == 1 && (decide (256 < l.cout) || c.noch != l.cout)) ||
      (og == 2 && (l.cout % 32 != 0 || c.och0 % 32 != 0 || c.noch % 32 != 0)) ||
      ((p.sfuPar l).elim false fun q => q.func == 3 && c.noch != l.cout) then 9 else 0,
   if (bufs ++ p.outBuffers i l c).any (fun b => b.2 != 0 && (b.1 % 64 != 0 || decide (2 ^ 26 < b.1 + b.2))) || overlap bufs ||
      c.inAddr % 64 != 0 || c.outAddr % 64 != 0 || c.haloAddr % 64 != 0 || c.lbAddr % 64 != 0 ||
      (c.mode == cutSpill && c.spill % 64 != 0) || decide (2 ^ 40 ≤ c.spill) then 10 else 0,
   if l.op == 0 && l.fpath != 0 &&
      decide (2 ^ 26 < redCh l c * c.noch * (if l.fpath = 1 then 131072 else 66560) + 2 * redCh l c * 16384 * 8 +
        (bufs.map (·.2)).sum) then 12 else 0].filter (· != 0)

end Sys2Proof.Machine
end

