-- ==== Sys2Proof/Machine/Ops.lean ====
section
/-! DEFINITION. Effects.  A command's meaning is a list of primitive effects, computed from the state and applied in
order; `seq` joins steps so that each one reads the state the earlier ones left.  Everything a command can do is one of
the constructors of `Eff`, so what no effect can do (touch the queue, list a default byte, set a reserved bit) no
command does. -/
namespace Sys2Proof.Machine

/-- A key names a register of tile `t`, or index `ix`: the file is addressed modulo its sizes. -/
def RegKey.inTile (k : RegKey) (t : Nat) : Bool := k.tile % 128 == t % 128
def RegKey.atIx (k : RegKey) (ix : Nat) : Bool := k.ix % 65536 == ix % 65536

/-- The primitive effects. (DEDUCED, log entry 2) -/
inductive Eff where
  /-- Hardware or software sets a field. -/
  | fld (f : Fld) (t ix v : Nat)
  /-- A whole register word is set; its reserved bits stay zero. -/
  | word (r : Reg) (t ix : Nat) (w : Word)
  /-- The registers chosen return to their reset words, and nothing of them waits for a boundary. -/
  | resetRegs (p : RegKey → Bool)
  /-- The word in force stays in force while a new one is written (R529). -/
  | hold (r : Reg) (t ix : Nat)
  /-- The written words of the registers chosen come into force. -/
  | apply (p : RegKey → Bool)
  /-- A `_HI` word is latched for a requester, or its latch is spent (R531). -/
  | latch (r : Reg) (t copy : Nat) (w : Option Word)
  /-- Every latched `_HI` word is gone. -/
  | unlatch
  /-- A counter in units of `unit` advances by `n` single events. -/
  | countU (f : Fld) (t ix unit n : Nat)
  /-- The snapshot copy of a tile is replaced (R499). -/
  | snapshot (t : Nat) (l : List (RegKey × Word))
  /-- Bytes of device memory. -/
  | mem (a : Nat) (bs : List Byte)
  /-- A range of device memory returns to zero. -/
  | memZero (a n : Nat)
  /-- The poison mark of one granule, by number. -/
  | poison (g : Nat) (b : Bool)
  /-- The poison marks of a range of granules are cleared. -/
  | unpoison (lo hi : Nat)
  /-- The Bale class of one block, by number. -/
  | bale (b c : Nat)
  | stream (id : Nat) (f : Stream → Stream)
  | inst (n : Nat) (f : Inst → Inst)
  | tile (t : Nat) (f : Tile → Tile)
  | pkg (f : Pkg → Pkg)
  /-- Something leaves the package. -/
  | emit (e : Emission)
  /-- `n` free values are used up. -/
  | draw (n : Nat)
  /-- Package time is set, modulo 2^64 (R11). -/
  | setNow (n : Nat)
  /-- Time passes, in ns. -/
  | tick (n : Nat)
  /-- The always-on clock starts. -/
  | startAon

/-- Store a register word, without its reserved bits. -/
def State.setReg (s : State) (r : Reg) (t ix : Nat) (w : Word) : State :=
  { s with regs := mapPut RegKey.code (resetWord r) s.regs ⟨r, t, ix⟩ (w &&& implMask r) }

/-- Store a byte. -/
def State.setByte (s : State) (a : Nat) (b : Byte) : State := { s with mem := mapPut id memDefault s.mem a b }

/-- Store bytes at rising addresses. -/
def State.setBytes (s : State) (a : Nat) : List Byte → State
  | [] => s
  | b :: bs => (s.setByte a b).setBytes (a + 1) bs

/-- What one effect does. -/
def Eff.run (s : State) : Eff → State
  | .fld f t ix v => s.setReg f.reg t ix (setBits (s.reg f.reg t ix) f.hi f.lo v)
  | .word r t ix w => s.setReg r t ix w
  | .resetRegs p => { s with regs := mapDrop p s.regs, force := mapDrop p s.force, resid := mapDrop p s.resid }
  | .hold r t ix =>
    { s with force := mapPut RegKey.code none s.force ⟨r, t, ix⟩ (some (s.liveReg r t ix)) }
  | .apply p => { s with force := mapDrop p s.force }
  | .latch r t c w => { s with latch := mapPut RegKey.code none s.latch ⟨r, t, c⟩ w }
  | .unlatch => { s with latch := [] }
  | .countU f t ix unit n =>
    let k : RegKey := ⟨f.reg, t, ix * 2 + b2n (f.lo != 0)⟩
    let u := mapGet RegKey.code 0 s.resid k + n
    let s := s.setReg f.reg t ix (setBits (s.reg f.reg t ix) f.hi f.lo
      (satAdd (2 ^ (f.hi + 1 - f.lo) - 1) (s.get f t ix) (u / unit)))
    { s with resid := mapPut RegKey.code 0 s.resid k (u % unit) }
  | .snapshot t l =>
    { s with snap := l.foldl (fun m e => mapPut RegKey.code none m e.1 (some e.2)) (mapDrop (fun k => k.inTile t) s.snap) }
  | .mem a bs => s.setBytes a bs
  | .memZero a n => { s with mem := mapDrop (fun k => decide (a ≤ k) && decide (k < a + n)) s.mem }
  | .poison g b => { s with poison := mapPut id false s.poison g b }
  | .unpoison lo hi => { s with poison := mapDrop (fun k => decide (lo ≤ k) && decide (k < hi)) s.poison }
  | .bale b c => { s with bale := mapPut id baleDefault s.bale b c }
  | .stream n f => { s with streams := mapPut id {} s.streams n (f (s.stream n)) }
  | .inst n f => { s with insts := mapPut id {} s.insts n (f (s.inst n)) }
  | .tile t f => { s with tiles := mapPut id {} s.tiles t (f (s.tile t)) }
  | .pkg f => { s with pkg := f s.pkg }
  | .emit e => { s with out := s.out ++ [e] }
  | .draw n => { s with draws := s.draws + n }
  | .setNow n => { s with now := n % 2 ^ 64 }
  | .tick n => { s with now := (s.now + n) % 2 ^ 64, aon := s.aon + n }
  | .startAon => { s with aon := 0 }

/-- What a list of effects does, in order. -/
def State.run (s : State) (es : List Eff) : State := es.foldl Eff.run s

/-! ## Steps -/

/-- A step of a meaning: the effects it has in a state. (DEDUCED, log entry 2) -/
abbrev Act := State → List Eff

/-- The state after a step. -/
def State.then (s : State) (a : Act) : State := s.run (a s)

namespace Act

/-- Nothing happens. -/
def none : Act := fun _ => []

/-- The effects listed happen. -/
def eff (es : List Eff) : Act := fun _ => es

/-- One step after another; each reads what the earlier ones left. (DEDUCED, log entry 2) -/
def seq : List Act → Act
  | [] => Act.none
  | a :: as => fun s => a s ++ seq as (s.then a)

/-- A step under a condition. -/
def when (c : Bool) (a : Act) : Act := if c then a else Act.none

/-- A step chosen by the state it starts in. -/
def read (f : State → Act) : Act := fun s => f s s

/-- One step for each entry of a list, in order. -/
def each {α : Type} (l : List α) (f : α → Act) : Act := seq (l.map f)

/-- A step on what an option holds. -/
def opt {α : Type} (o : Option α) (f : α → Act) : Act :=
  match o with
  | some a => f a
  | Option.none => Act.none

end Act

/-! ## Fields, counters and errors -/

/-- Set a field of a tile's register. -/
def setF (f : Fld) (t v : Nat) : Act := .eff [.fld f t 0 v]

/-- Set a field of an indexed register. -/
def setFx (f : Fld) (t ix v : Nat) : Act := .eff [.fld f t ix v]

/-- The largest value of a field. -/
def Fld.maxVal (f : Fld) : Nat := 2 ^ (f.hi + 1 - f.lo) - 1

/-- A counter advances by `n` and stays at its largest value (R524). -/
def countX (f : Fld) (t ix n : Nat) : Act := fun s => [.fld f t ix (satAdd f.maxVal (s.get f t ix) n)]

/-- A counter of a tile advances. -/
def count (f : Fld) (t n : Nat) : Act := countX f t 0 n

/-- A counter in units of 256 advances by `n` single events. -/
def count256 (f : Fld) (t n : Nat) : Act := .eff [.countU f t 0 256 n]

/-- A counter in units of `unit` advances by `n` single events. -/
def countUnit (f : Fld) (t unit n : Nat) : Act := .eff [.countU f t 0 unit n]

/-- A block's error register takes an error: `ERR` set, the fields given, and the count advanced. -/
def blockErr (err code : Fld) (cnt : Fld) (t c : Nat) (more : List (Fld × Nat)) : Act := .seq
  [.eff (.fld err t 0 1 :: .fld code t 0 c :: more.map fun e => .fld e.1 t 0 e.2), count cnt t 1]

/-- The stream mover records an error (R342, R344). (DEDUCED, log entry 10) -/
def smvErr (t code stream : Nat) : Act :=
  blockErr F.SMV_ERRSTAT_ERR F.SMV_ERRSTAT_CODE F.SMV_ERRCNT_COUNT t code [(F.SMV_ERRSTAT_STREAM, stream)]

/-- Something leaves the package. -/
def emit (e : Emission) : Act := .eff [.emit e]

/-! ## Streams, instances and tiles -/

/-- The home tile of a stream (R19). -/
def homeOf (id : Nat) : Nat := id / 256 % 64

/-- The slot of a stream (R19). -/
def slotOf (id : Nat) : Nat := id % 256

/-- A field of a stream's slot. -/
def State.sget (s : State) (f : Fld) (id : Nat) : Nat := s.get f (homeOf id) (slotOf id)

/-- A setting of a stream's slot that is in force. -/
def State.slive (s : State) (f : Fld) (id : Nat) : Nat := s.live f (homeOf id) (slotOf id)

/-- Set a field of a stream's slot. -/
def setS (f : Fld) (id v : Nat) : Act := setFx f (homeOf id) (slotOf id) v

/-- A counter of a stream's slot advances. -/
def countS (f : Fld) (id n : Nat) : Act := countX f (homeOf id) (slotOf id) n

/-- Slot states (R306). -/
def slotClosed : Nat := 0
def slotOpen : Nat := 1
def slotClosing : Nat := 2

/-- The state of a slot (R306). -/
def State.slotState (s : State) (id : Nat) : Nat := s.sget F.SMV_SLIVE0_STATE id

/-- A stream is open. -/
def State.isOpen (s : State) (id : Nat) : Bool := s.slotState id == slotOpen

/-- A stream is open or closing. -/
def State.isLive (s : State) (id : Nat) : Bool := s.slotState id == slotOpen || s.slotState id == slotClosing

/-- Instance states (R421). -/
def instFree : Nat := 0
def instActive : Nat := 1
def instResetting : Nat := 2
def instDestroying : Nat := 3

/-- The state of an instance (R421). -/
def State.instState (s : State) (n : Nat) : Nat := s.get F.PRT_ISTAT_STATE pkgTile n

/-- The epoch of an instance (R425). -/
def State.epoch (s : State) (n : Nat) : Nat := s.get F.PRT_ISTAT_EPOCH pkgTile n

/-- The tile set an instance's `PRT_ITILES` registers name. -/
def State.itiles (s : State) (n : Nat) : Nat :=
  s.get F.PRT_ITILES_LO_TILES pkgTile n + 2 ^ 32 * s.get F.PRT_ITILES_HI_TILES pkgTile n

/-- The tiles an instance holds, lowest first: none while it is free (R419, R421). -/
def State.tilesOf (s : State) (n : Nat) : List Nat :=
  if s.instState n == instFree then [] else bitList 64 (s.itiles n)

/-- The instance that holds a tile (`PRT_TOWN`, R441). -/
def State.owner (s : State) (t : Nat) : Option Nat :=
  if s.get F.PRT_TOWN_ASSIGNED t 0 = 1 then some (s.get F.PRT_TOWN_INST t 0) else none

/-- The tiles in service (R32), without those that a start has lost after its maps were fixed (R461). (DEDUCED, log entry 133) -/
def State.inService (s : State) (t : Nat) : Bool :=
  decide (t < 64) && !s.pkg.boot.failed.contains t && bitOf (s.get F.MGT_TILEMAP_LO_INSVC pkgTile 0 + 2 ^ 32 * s.get F.MGT_TILEMAP_HI_INSVC pkgTile 0) t

/-- An instance's lowest-numbered tile. -/
def State.firstTile (s : State) (n : Nat) : Nat := (s.tilesOf n).headD 0

/-- A change of a stream's context. -/
def updS (id : Nat) (f : Stream → Stream) : Act := .eff [.stream id f]

/-- A change of an instance's context. -/
def updI (n : Nat) (f : Inst → Inst) : Act := .eff [.inst n f]

/-- A change of a tile's context. -/
def updT (t : Nat) (f : Tile → Tile) : Act := .eff [.tile t f]

/-- A change of the package's context. -/
def updP (f : Pkg → Pkg) : Act := .eff [.pkg f]

end Sys2Proof.Machine
end

