-- ==== Sys2Proof/Machine/Routes.lean ====
section
/-! DEFINITION. The Yard's edges and the routes between tiles (R407, R410). -/
namespace Sys2Proof.Machine

/-- The ports of a router: 0 N, 1 S, 2 E, 3 W, 4 local (R418). -/
def portLocal : Nat := 4

/-- The port at the far end of an edge. -/
def farPort : Nat → Nat
  | 0 => 1 | 1 => 0 | 2 => 3 | _ => 2

/-- The tile at the far end of a port's edge; none on the package edge. -/
def neighbour (t port : Nat) : Option Nat :=
  match port with
  | 0 => if t < 56 then some (t + 8) else none
  | 1 => if 8 ≤ t ∧ t < 64 then some (t - 8) else none
  | 2 => if t < 64 ∧ t % 8 < 7 then some (t + 1) else none
  | 3 => if t < 64 ∧ 0 < t % 8 then some (t - 1) else none
  | _ => none

/-- The name of a port's edge: the lower tile and its port there. -/
def edgeOf (t port : Nat) : Option (Nat × Nat) :=
  (neighbour t port).map fun u => if t ≤ u then (t, port) else (u, farPort port)

/-- Every edge of the package. -/
def allEdges : List (Nat × Nat) := (List.range 64).flatMap fun t => [0, 2].filterMap fun p => (neighbour t p).map fun _ => (t, p)

/-- The first port of the X-then-Y path from a tile to another. -/
def xyPort (s d : Nat) : Nat :=
  if s % 8 < d % 8 then 2 else if d % 8 < s % 8 then 3 else if s / 8 < d / 8 then 0 else if d / 8 < s / 8 then 1 else portLocal

/-- The X-then-Y path from a tile to another crosses no router and no edge out of service, within `n` hops. -/
def xyClear (y : Yard) : Nat → Nat → Nat → Bool
  | 0, _, _ => false
  | n + 1, s, d =>
    if y.routers.contains s then false
    else if s = d then true
    else match neighbour s (xyPort s d), edgeOf s (xyPort s d) with
      | some u, some e => !y.dead.contains e && xyClear y n u d
      | _, _ => false

/-- The route from a tile to another (R410): its first port and the intermediate tile; none when there is no route.
(DEDUCED, log entry 118) -/
def route (y : Yard) (s d : Nat) : Option (Nat × Option Nat) :=
  if xyClear y 15 s d then some (xyPort s d, none)
  else ((List.range 64).find? fun i => !y.routers.contains i && xyClear y 15 s i && xyClear y 15 i d).map fun i => (xyPort s i, some i)

/-- The ports that a packet leaves by on the X-then-Y path from a tile to another, within `n` hops. -/
def xyPorts : Nat → Nat → Nat → List (Nat × Nat)
  | 0, _, _ => []
  | n + 1, s, d => if s = d then [] else (s, xyPort s d) :: (neighbour s (xyPort s d)).elim [] fun u => xyPorts n u d

/-- The ports that a packet leaves by from a tile to another: those of its route, and the local port at its end (R410). -/
def yardPorts (y : Yard) (s d : Nat) : List (Nat × Nat) :=
  match route y s d with
  | none => []
  | some r => (r.2.elim (xyPorts 14 s d) fun i => xyPorts 14 s i ++ xyPorts 14 i d) ++ [(d, portLocal)]

end Sys2Proof.Machine
end

