-- ==== Sys2Proof/Machine/Memory.lean ====
section
/-! DEFINITION. Device memory: the address map (R390, R514), the HBM ports (R391, R459), instance memory (R420), writes
with their poison marks, Bale classes and weight-cache invalidations (R338, R392 to R396, R405), as every
engine makes them. -/
namespace Sys2Proof.Machine

/-! ## The address map -/

/-- The end of HBM: 288 GiB (R390). -/
def hbmEnd : Nat := 288 * 2 ^ 30

/-- The first byte of the working stores, and the size of one (R390). -/
def wsBase : Nat := 0x6000000000
def wsSize : Nat := 0x4000000

/-- The first byte of the host window and the end of it (R371). -/
def hostBase : Nat := 0xC000000000
def hostEnd : Nat := 0xD000000000

/-- An HBM address (R390). -/
def isHbm (a : Nat) : Bool := decide (a < hbmEnd)

/-- The tile whose working store holds an address (R390). -/
def wsTile (a : Nat) : Option Nat :=
  if wsBase ≤ a ∧ a < wsBase + 64 * wsSize then some ((a - wsBase) / wsSize) else none

/-- An address of the host window (R371). -/
def isHost (a : Nat) : Bool := decide (hostBase ≤ a) && decide (a < hostEnd)

/-- The ports in service, lowest first (R459). -/
def State.ports (s : State) : List Nat := bitList 16 (s.get F.MGT_HBMCFG_INSVC pkgTile 0)

/-- The port of an HBM address with every port in service (R391). -/
def hbmPort (a : Nat) : Nat :=
  ((List.range 7).foldl (fun h i => h ^^^ bitsOf a (16 + 4 * i + 3) (16 + 4 * i)) (bitsOf a 15 12)) % 16

/-- The address within its port with every port in service (R391). -/
def hbmLocal (a : Nat) : Nat := a / 2 ^ 16 * 2 ^ 12 + a % 2 ^ 12

/-- The port of an HBM address: R391, or the degraded map of R459. -/
def State.portOf (s : State) (a : Nat) : Nat :=
  if s.ports.length = 16 ∨ s.ports.length = 0 then hbmPort a else s.ports.getD (a / 2 ^ 12 % s.ports.length) 0

/-- The address within its port: R391, or the degraded map of R459. -/
def State.localOf (s : State) (a : Nat) : Nat :=
  if s.ports.length = 16 ∨ s.ports.length = 0 then hbmLocal a
  else a / 2 ^ 12 / s.ports.length * 2 ^ 12 + a % 2 ^ 12

/-- The memory-attached tile of a port (R391). -/
def tileOfPort (p : Nat) : Nat := if p < 8 then p else 48 + p

/-- The tile that serves a port: its own, or the other tile of the stack by takeover (R457). -/
def State.servingTile (s : State) (p : Nat) : Nat :=
  if bitOf (s.get F.MGT_HBMTAKE_TAKE pkgTile 0) p then tileOfPort (p ^^^ 1) else tileOfPort p

/-- The tile that serves an HBM address. -/
def State.hbmTile (s : State) (a : Nat) : Nat := s.servingTile (s.portOf a)

/-- The end of the reachable HBM (R459): 18 GiB for each port in service. (DEDUCED, log entry 143) -/
def State.hbmReach (s : State) : Nat := s.ports.length * 18 * 2 ^ 30

/-- The owner of an HBM unit (R426). -/
def State.unitOwner (s : State) (u : Nat) : Option Nat :=
  let w := s.reg .PRT_MOWN pkgTile (u / 4)
  let j := u % 4
  if getBits w (8 * j + 7) (8 * j + 7) = 1 then some (getBits w (8 * j + 5) (8 * j)) else none

/-- The host base behind entry `e` of a function's host window, when the entry is enabled and the host has enabled the
function (R371). Functions are numbered as `LNK_HWSEL` numbers them: 0 to 63 the instance, 64 the package manager.
(DEDUCED, log entry 144) -/
def State.hostEntry (s : State) (fn e : Nat) : Option Nat :=
  if s.get F.LNK_HWE_LO_EN 48 (fn * 4 + e) = 1 ∧ (fn = 64 ∨ fn < s.get F.LNK_PCISTAT_NUMVF 48 0) then
    some (s.get F.LNK_HWE_LO_HBASE_LO 48 (fn * 4 + e) * 2 ^ 12 + s.get F.LNK_HWE_HI_HBASE_HI 48 (fn * 4 + e) * 2 ^ 32)
  else none

/-- The host address behind a host-window address of a function (R371). -/
def State.hostAddr (s : State) (fn a : Nat) : Option Nat :=
  (s.hostEntry fn ((a - hostBase) / 2 ^ 34)).map (· + (a - hostBase) % 2 ^ 34)

/-- The function that serves an instance (R419), as `LNK_HWSEL` numbers it, and that of the package manager. -/
def fnOf (n : Nat) : Nat := n
def fnPm : Nat := 64

/-- Every HBM unit from the one of `a` to the one of `a + len - 1` belongs to the instance and is reachable. -/
def State.hbmOwned (s : State) (n a len : Nat) : Bool :=
  decide (a + len ≤ s.hbmReach) && decide (0 < len) &&
  (List.range ((a + len - 1) / 2 ^ 30 - a / 2 ^ 30 + 1)).all fun i => s.unitOwner (a / 2 ^ 30 + i) == some n

/-- The whole range is memory of the instance at this moment (R420): its working stores, its HBM units, its host window.
(DEDUCED, log entry 144) -/
def State.inMem (s : State) (n a len : Nat) : Bool :=
  if isHbm a then s.hbmOwned n a len
  else match wsTile a with
    | some t => wsTile (a + len - 1) == some t && decide (0 < len) && s.owner t == some n
    | none =>
      isHost a && isHost (a + len - 1) && decide (0 < len) &&
      (List.range ((a + len - 1 - hostBase) / 2 ^ 34 - (a - hostBase) / 2 ^ 34 + 1)).all fun i =>
        (s.hostEntry (fnOf n) ((a - hostBase) / 2 ^ 34 + i)).isSome

/-- The range is device memory of the instance, not its host window. (DEDUCED, log entry 144) -/
def State.inDev (s : State) (n a len : Nat) : Bool := !isHost a && s.inMem n a len

/-- The range is device memory of the package, whoever owns it: reachable HBM or a working store in service. -/
def State.isDevice (s : State) (a len : Nat) : Bool :=
  decide (0 < len) && (if isHbm a then decide (a + len ≤ s.hbmReach)
    else match wsTile a with
      | some t => wsTile (a + len - 1) == some t && s.inService t
      | none => false)

/-- Where the tap copies stand that the streams of an instance, but for one, retain: address and bytes (R165).
(DEDUCED, log entry 153) -/
def State.tapSpace (s : State) (n own : Nat) : List (Nat × Nat) :=
  s.streams.flatMap fun e =>
    if e.2.inst = n ∧ e.1 ≠ own ∧ s.isLive e.1 ∧ bitOf e.2.stages 2 ∧ s.slive F.ECE_LSCW4_TAP_EN e.1 = 1 then
      ((s.inst n).progs.find? (·.id == s.slive F.ECE_LSCW7_PROG_ID e.1)).elim [] fun p =>
        (p.tapSpace.filter fun w => bitOf (s.slive F.ECE_TAPCFG_TAPMASK e.1) w.1).map fun w =>
          (wsBase + w.2.1 * wsSize + w.2.2.1, w.2.2.2)
    else []

/-- Every tap of a mask is in the tap reservation of the slot's program, where that program is loaded (R165).
(DEDUCED, log entry 153) -/
def State.tapsReserved (s : State) (kt ix v : Nat) : Bool :=
  let id := kt * 256 + ix
  let n := if s.isLive id then some (s.stream id).inst else s.owner kt
  match n.bind fun n => (s.inst n).progs.find? (·.id == s.get F.ECE_LSCW7_PROG_ID kt ix) with
  | none => true
  | some p => (bitList 8 v).all fun b => p.tapSpace.any (·.1 == b)

/-- A range written by an item of stream `own` would touch a tap copy of another stream: those are read-only to it (R168).
(DEDUCED, log entry 153) -/
def State.hitsTaps (s : State) (n own a len : Nat) : Bool :=
  len != 0 && (s.tapSpace n own).any fun w => decide (a < w.1 + w.2) && decide (w.1 < a + len)

/-! ## Writes -/

/-- `n` free bytes. (DESIGN CHOICE, log entry 28) -/
def State.freeBytes (s : State) (n : Nat) : List Byte := (List.range n).map fun i => Config.freeByte (s.draws + i)

/-- The granules that a range touches. -/
def granules (a n : Nat) : List Nat := if n = 0 then [] else (List.range ((a + n - 1) / 64 - a / 64 + 1)).map (a / 64 + ·)

/-- The 256-byte blocks that a range touches. -/
def blocks (a n : Nat) : List Nat := if n = 0 then [] else (List.range ((a + n - 1) / 256 - a / 256 + 1)).map (a / 256 + ·)

/-- Poison after a write (R338): the granules that `pz` names are marked; a clean granule that the write replaces wholly
loses its mark, and one it replaces in part keeps it. -/
def poisonWrite (a n : Nat) (pz : Nat → Bool) : Act := .eff <| (granules a n).filterMap fun g =>
  if pz g then some (.poison g true)
  else if a ≤ 64 * g ∧ 64 * g + 64 ≤ a + n then some (.poison g false) else none

/-- The smallest class that holds a block (R392, R393): ZERO for zeros, else what the coding reaches.
(DESIGN CHOICE, log entry 57) -/
def smallestClass (bs : List Byte) : Nat :=
  if bs.all (· == 0) then 0 else 1 + Config.baleClass bs % 3

/-- The class a block gets once a write has reached memory (R393, R395, R396), and its counts. (DESIGN CHOICE, log entry 57) -/
def baleBlock (a n : Nat) (ask : Bool) (b : Nat) : Act := fun s =>
  let whole := decide (a ≤ 256 * b) && decide (256 * b + 256 ≤ a + n)
  let t := s.hbmTile (256 * b)
  let old := mapGet id baleDefault s.bale b
  let bad := s.poisonedIn (256 * b) 256
  let en := s.get F.BAL_CTL_CMPEN t 0 == 1
  let cls :=
    if bad then 3
    else if whole then (if ask && en then smallestClass (s.bytes (256 * b) 256) else 3)
    else if old = 3 then 3 else smallestClass (s.bytes (256 * b) 256)
  let merged := !whole && old != 3
  .bale b cls :: ((if whole || merged then [Eff.countU F.BAL_CLSCNT_COUNT t cls 256 1] else []) ++
    (if merged then countX F.BAL_RMWCNT_COUNT t 0 1 s else []))

/-! ## Injection coding (R397) -/

/-- The granules that a block of a class crosses an edge as (R392, R408). -/
def classGranules : Nat → Nat
  | 0 => 0 | 1 => 1 | 2 => 2 | _ => 4

/-- The tile whose router an access reaches: that of the HBM port, or of the working store. -/
def State.blockTile (s : State) (a : Nat) : Option Nat := if isHbm a then some (s.hbmTile a) else wsTile a

/-- The class that a local port gives a block it injects: `YCMPEN` has it coded, a poisoned block stays `RAW` (R396, R397). -/
def State.injectClass (s : State) (t : Nat) (bs : List Byte) (pz : Bool) : Nat :=
  if s.get F.BAL_CTL_YCMPEN t 0 = 1 ∧ !pz then smallestClass bs else 3

/-- A packet of `g` granules of a block goes from tile `u` to tile `t` (R408): the granules that coding saved count at the port that
injects it (R397), and one data flit on each port of its route, where it carries any (R418). (DEDUCED, log entry 152) -/
def yardPacket (u t g : Nat) : Act := fun s =>
  if u = t then []
  else (if g < 4 then [.countU F.BAL_YSAVED_COUNT u 0 256 (4 - g)] else []) ++
    (if g = 0 then [] else (yardPorts s.pkg.yard u t).map fun e => .countU F.YRD_FLIT_COUNT e.1 e.2 256 1)

/-- A range covers a block. -/
def wholeIn (a n b : Nat) : Bool := decide (a ≤ 256 * b) && decide (256 * b + 256 ≤ a + n)

/-- Data leaves tile `t` for device memory, a packet for each block: its local port codes the whole ones. -/
def yardSend (t a : Nat) (bs : List Byte) (pz : Bool) : Act := fun s =>
  Act.each (blocks a bs.length) (fun b => .opt (s.blockTile (256 * b)) fun u =>
    yardPacket t u (if wholeIn a bs.length b then classGranules (s.injectClass t ((bs.drop (256 * b - a)).take 256) pz) else 4)) s

/-- The class in which the port at tile `u` forwards a block that it serves: its stored form where that is below `RAW`, else what
the local port codes. -/
def State.forwardClass (s : State) (u b : Nat) : Nat :=
  let stored := if isHbm (256 * b) then mapGet id baleDefault s.bale b else 3
  if s.poisonedIn (256 * b) 256 then 3 else if stored = 3 then s.injectClass u (s.bytes (256 * b) 256) false else stored

/-- Device memory is read for tile `t`: the port that serves each block sends a packet of it. -/
def yardReturn (t a n : Nat) : Act := fun s =>
  Act.each (blocks a n) (fun b => .opt (s.blockTile (256 * b)) fun u =>
    .when (u != t) fun s => yardPacket u t (if wholeIn a n b then classGranules (s.forwardClass u b) else 4) s) s

/-- Ranges, each joined to the one before it where it follows on. -/
def joinRanges : List (Nat × Nat) → List (Nat × Nat)
  | [] => []
  | e :: es => match joinRanges es with
    | [] => [e]
    | f :: fs => if e.1 + e.2 = f.1 then (e.1, e.2 + f.2) :: fs else e :: f :: fs

/-- The tile at which a requester's accesses enter the Yard: a core's own, or that of the PCIe link. -/
def requesterTile : Requester → Option Nat
  | .fw c => some (c / 4) | .pf | .vf _ => some 48 | _ => none

/-- The slice of a hash value (R403): the tile whose `MEM_WCSERVE` names it. -/
def State.wcSlice (s : State) (h : Nat) : Nat :=
  ((List.range 64).find? fun t =>
    bitOf (s.get F.MEM_WCSERVE_LO_HASH t 0 + 2 ^ 32 * s.get F.MEM_WCSERVE_HI_HASH t 0) h).getD h

/-- The hash of a line address (R403). -/
def wcHash (a : Nat) : Nat := (List.range 6).foldl (fun h i => h ^^^ (a / 256 / 64 ^ i % 64)) 0

/-- The slice that may hold an address. -/
def State.wcTile (s : State) (a : Nat) : Nat := s.wcSlice (wcHash a)

/-- A write invalidates the line it touches in the slice that holds it (R405); a line still on its way from HBM stays
expected. -/
def wcInvalidate (b : Nat) : Act := fun s =>
  let t := s.wcTile (256 * b)
  if (s.tile t).wc.any fun l => l.line == b && !l.filling then
    [.tile t fun c => { c with wc := c.wc.filter fun l => l.line != b || l.filling }, .countU F.MEM_WCINV_INV t 0 256 1]
  else []

/-- A write of bytes to device memory, with the poison of its granules, Bale classes and invalidations. -/
def memWriteG (a : Nat) (bs : List Byte) (pz : Nat → Bool) (ask : Bool) : Act := .seq
  [.eff [.mem a bs], poisonWrite a bs.length pz,
   .when (isHbm a) (.each (blocks a bs.length) fun b => .seq [baleBlock a bs.length ask b, wcInvalidate b])]

/-- A write that an engine of tile `t` makes, poisoned as a whole or not at all: it crosses the Yard where another tile serves it. -/
def memWriteFrom (t a : Nat) (bs : List Byte) (pz ask : Bool) : Act :=
  .seq [yardSend t a bs pz, memWriteG a bs (fun _ => pz) ask]

/-- A write that is poisoned as a whole or not at all. -/
def memWrite (a : Nat) (bs : List Byte) (pz ask : Bool) : Act := memWriteG a bs (fun _ => pz) ask

/-- Zeros over a range of a working store, with its poison marks cleared. -/
def wsZero (a n : Nat) : Act := .eff [.memZero a n, .unpoison (a / 64) ((a + n + 63) / 64)]

/-- Zeros over an HBM range; every block is then class ZERO (R458). -/
def hbmZero (lo hi : Nat) : Act := fun s =>
  .memZero lo (hi - lo) :: .unpoison (lo / 64) (hi / 64) ::
    (s.bale.filterMap fun e => if lo ≤ 256 * e.1 ∧ 256 * e.1 < hi then some (.bale e.1 0) else none)

/-- A memory block records an error (R417). -/
def memErr (t code where_ : Nat) : Act :=
  blockErr F.MEM_ERRSTAT_ERR F.MEM_ERRSTAT_CODE F.MEM_ERRCNT_COUNT t code [(F.MEM_ERRSTAT_WHERE, where_)]

/-- A Bale engine records an error (R416). -/
def balErr (t code block : Nat) : Act :=
  blockErr F.BAL_ERRSTAT_ERR F.BAL_ERRSTAT_CODE F.BAL_ERRCNT_COUNT t code [(F.BAL_ERRSTAT_BLOCK, block)]

/-- The content of a range is lost to an error: free bytes, every granule poisoned (R338). -/
def spoil (a n : Nat) : Act := fun s =>
  [.mem a (s.freeBytes n), .draw n] ++ (granules a n).map fun g => Eff.poison g true

end Sys2Proof.Machine
end

