-- ==== Sys2Proof/Machine/Compute.lean ====
section
/-! DEFINITION. What a block of a cut computes (R199 to R215, R233 to R256): the elements it reads, from its band, its halo
area, its line buffer or the outputs produced onto its tile; the accumulators; and the output stage. -/
namespace Sys2Proof.Machine

/-- A cut that runs: its program, layer and cut, the stream's rounding seed, the item's frame, the quality index of a
latent row (R59), the anchors that the output at a row and column reads at a row, column and channel (R49), the stream's shape,
the short-term (false) or long-term (true) reference latent at a row, column and channel, where it is there yet (R57), and the
element that a layer of a decoder's latents has at a row, column and channel while memory does not hold it (R129). -/
structure RunCx where
  p : Prog
  li : Nat
  l : Layer
  c : Cut
  seed : Nat := 0
  frame : Nat := 0
  qs : List Nat := []
  anch : Nat → Nat → Nat → Nat → Nat → Int × Bool := fun _ _ _ _ _ => (0, false)
  shape : Option LscShape := none
  ref : Bool → Nat → Nat → Nat → Option (Int × Bool) := fun _ _ _ _ => some (0, false)
  lat : Nat → Nat → Nat → Nat → Option (Int × Bool) := fun _ _ _ _ => none

/-! ## Where elements lie -/

/-- The address of an offset of a tile's working store. -/
def wsAddr (t off : Nat) : Nat := wsBase + t * wsSize + off

/-- Element `i` of `w` bits at an address: its code, and whether its granule is poisoned. -/
def State.elem (s : State) (a w i : Nat) : Nat × Bool :=
  let b0 := w * i / 8
  let n := (w * i + w - 1) / 8 - b0 + 1
  (leNat (s.bytes (a + b0) n) / 2 ^ (w * i % 8) % 2 ^ w, s.poisonedIn (a + b0) n)

/-- The first input row of the window of the stripe that output row `ro` belongs to (R220). (DEDUCED, log entry 73) -/
def stripeBase (x : RunCx) (ro : Nat) : Int :=
  let k := (ro - x.c.row0) / max 1 x.c.stripe
  (inRows x.l (x.c.row0 + k * x.c.stripe)).1

/-- The format, the channels and the row pitch of the first source's buffer, and the row of its scale plane. -/
def RunCx.f0 (x : RunCx) : Nat := x.p.srcFmt x.l x.l.src0
def RunCx.ch0 (x : RunCx) : Nat := x.p.srcCh x.l x.l.src0
def RunCx.pit0 (x : RunCx) : Nat := rowBytes x.f0 x.ch0 x.l.inW
def RunCx.sc0 (x : RunCx) : Nat := scaleRow (x.p.srcGran x.l.src0) x.ch0 x.l.inW

/-- A plane of the first source's buffers: its bytes a position and a row, and how far past the start of the band, of the halo
area and of the line buffer it begins. -/
structure Plane where
  unit : Nat
  pitch : Nat
  band : Nat := 0
  halo : Nat := 0
  line : Nat := 0

/-- The rows of the band in memory, the bytes of its elements and of the halo area's, and its bytes in all. -/
def RunCx.bandRows (x : RunCx) : Nat :=
  let r := x.l.rows x.c
  if x.c.mode = cutStripe then heldIn x.l x.c else r.2 - r.1
def RunCx.bandBytes (x : RunCx) : Nat := x.bandRows * x.pit0
def RunCx.haloBytes (x : RunCx) : Nat :=
  let r := x.l.rows x.c
  (x.c.ht + x.c.hb) * x.pit0 + (r.2 - r.1) * (x.c.hl + x.c.hr) * posBytes x.f0 x.ch0
def RunCx.inTotal (x : RunCx) : Nat :=
  let r := x.l.rows1 x.c
  x.bandRows * x.p.inPitch x.l + (if x.c.mode = cutStripe then x.bandRows else r.2 - r.1) * x.p.inPitch1 x.l

/-- The plane of the elements, and that of the scale codes behind them (R245). -/
def RunCx.elems (x : RunCx) : Plane := { unit := posBytes x.f0 x.ch0, pitch := x.pit0 }
def RunCx.codes (x : RunCx) : Plane :=
  { unit := groupsOf (x.p.srcGran x.l.src0) x.ch0, pitch := x.sc0, band := x.bandBytes, halo := x.haloBytes,
    line := x.c.lbrows * x.pit0 }

/-- Where a striped cut keeps window row `i` of a stripe, counted from the window's first row: the first `LBROWS` in the line
buffer, the new rows in the band (R220). -/
def RunCx.windowRow (x : RunCx) (a : Plane) (i : Nat) : Nat :=
  let c := x.c
  if i < c.lbrows then wsAddr c.tile c.lbAddr + a.line + i * a.pitch else wsAddr c.tile c.inAddr + a.band + (i - c.lbrows) * a.pitch

/-- Where a position of the first source is held in a plane: the address of its row, and the column's place in it. The own band
is at `IN_ADDR` (or `SPILL`), halo rows and then halo columns are in the halo area, and a striped cut keeps its window in the line
buffer and the stripe's new rows. -/
def place0 (x : RunCx) (a : Plane) (ro r q : Nat) : Nat :=
  let unit := a.unit
  let pitch := a.pitch
  let c := x.c
  let rs := x.l.rows c
  let cs := x.l.cols c
  let own := (if c.mode = cutSpill then c.spill else wsAddr c.tile c.inAddr) + a.band
  let halo := wsAddr c.tile c.haloAddr + a.halo
  if c.mode = cutStripe ∧ cs.1 ≤ q ∧ q < cs.2 then x.windowRow a ((r : Int) - stripeBase x ro).toNat + q * unit
  else if r < rs.1 then halo + (r + c.ht - rs.1) * pitch + q * unit
  else if rs.2 ≤ r then halo + (c.ht + (r - rs.2)) * pitch + q * unit
  else
    let side := halo + (c.ht + c.hb) * pitch + (r - rs.1) * (c.hl + c.hr) * unit
    if q < cs.1 then side + (q + c.hl - cs.1) * unit
    else if cs.2 ≤ q then side + (c.hl + (q - cs.2)) * unit
    else own + (r - rs.1) * pitch + q * unit

/-- The cut of the same layer that holds a position of the first source in its band or halo: this one, or another. -/
def RunCx.holder (x : RunCx) (r q : Nat) : RunCx :=
  let rs := x.l.rows x.c
  let cs := x.l.cols x.c
  if rs.1 - x.c.ht ≤ r ∧ r < rs.2 + x.c.hb ∧ cs.1 - x.c.hl ≤ q ∧ q < cs.2 + x.c.hr then x
  else match (x.p.cutsOf x.li).find? fun e =>
      let rs := x.l.rows e.2
      let cs := x.l.cols e.2
      e.2.role != roleFinal && decide (rs.1 ≤ r) && decide (r < rs.2) && decide (cs.1 ≤ q) && decide (q < cs.2) with
    | some e => { x with c := e.2 }
    | none => x

/-- The position that a source is read at: the encoder pads its picture by replicating the last column and row (R45). -/
def RunCx.picPos (x : RunCx) (src r q : Nat) : Nat × Nat :=
  match x.shape with
  | some h =>
    if h.camp ∨ (src ≠ srcPicture ∧ src ≠ srcChroma) then (r, q)
    else
      let f := if src = srcChroma ∧ h.chroma = 1 then 2 else 1
      (min r (h.height / f - 1), min q (h.width / f - 1))
  | none => (r, q)

/-- One element of the first source. (DEDUCED, log entry 65) -/
def State.el0 (s : State) (x : RunCx) (ro r q k : Nat) : Nat × Bool :=
  let e := x.picPos x.l.src0 r q
  let y := if e = (r, q) then x else x.holder e.1 e.2
  s.elem (place0 y y.elems ro e.1 e.2) (fmtWidth x.f0) k

/-! ## Where outputs lie -/

/-- The address of a cut's output, and the pitch of its rows. -/
def RunCx.outBase (x : RunCx) : Nat := if x.c.mode = cutSpill then x.c.spill + x.inTotal else wsAddr x.c.dstTile x.c.outAddr
def RunCx.outPitch (x : RunCx) : Nat := rowBytes x.l.fmtOut x.l.cout x.l.outW

/-- The rows of the output buffer, past which its scale plane begins (R245). (DEDUCED, log entry 68) -/
def RunCx.outRows (x : RunCx) : Nat := if x.c.mode = cutStripe then min x.c.nrow x.c.stripe else x.c.nrow

/-- The striped cut whose input stripe a striped cut's output is: it reads, on the receiving tile, where this one writes
(R220). -/
def RunCx.taker (x : RunCx) : Option RunCx :=
  if x.c.mode ≠ cutStripe then none
  else x.p.cuts.findSome? fun e =>
    let d := Cut.parse e
    if d.mode = cutStripe ∧ d.tile = x.c.dstTile ∧ d.inAddr = x.c.outAddr then
      (x.p.layer d.layer).bind fun m => if m.src0 = x.li then some { x with li := d.layer, l := m, c := d } else none
    else none

/-- Where an output row stands, and its row of the scale plane. A stripe that another striped cut takes stands where that one
reads it: its first rows in the line buffer, the others in turn in its band. (DEDUCED, log entry 73) -/
def RunCx.rowAddr (x : RunCx) (r : Nat) (scale : Bool) : Nat :=
  match x.taker with
  | some y =>
    let i := r + y.l.pt - y.c.row0 * y.l.sh
    y.windowRow (if scale then y.codes else y.elems)
      (if i < y.c.lbrows then i else y.c.lbrows + (i - y.c.lbrows) % max 1 (y.c.stripe * y.l.sh))
  | none =>
    let i := if x.c.mode = cutStripe then (r - x.c.row0) % max 1 x.c.stripe else r - x.c.row0
    x.outBase + (if scale then x.outRows * x.outPitch + i * scaleRow (x.p.ogran x.li) x.l.cout x.l.outW else i * x.outPitch)

/-- The address of a position's channel vector in a cut's output, and of its scale codes. -/
def RunCx.outAt (x : RunCx) (r q : Nat) : Nat := x.rowAddr r false + q * posBytes x.l.fmtOut x.l.cout
def RunCx.scaleAt (x : RunCx) (r q : Nat) : Nat := x.rowAddr r true + q * groupsOf (x.p.ogran x.li) x.l.cout

/-- The cut that produced an element of `SRC1` onto this tile (R217). (DEDUCED, log entry 65) -/
def RunCx.maker1 (x : RunCx) (r q k : Nat) : Option RunCx :=
  (x.p.layer x.l.src1).bind fun m =>
    (((x.p.cutsOf x.l.src1).map (·.2)).find? fun d => d.role != rolePartial && d.dstTile == x.c.tile && d.hasRow r && d.hasCol q &&
      decide (d.och0 ≤ k) && decide (k < d.och0 + d.noch)).map fun d => { x with li := x.l.src1, l := m, c := d }

/-- Where a position of a special second source stands: behind the band, from the first row that the cut reads of it. -/
def RunCx.special1 (x : RunCx) (r q : Nat) : Nat :=
  let r0 := (x.l.rows1 x.c).1
  (if x.c.mode = cutSpill then x.c.spill else wsAddr x.c.tile x.c.inAddr) + x.bandRows * x.p.inPitch x.l +
    (if x.c.mode = cutStripe then (r - r0) % max 1 x.bandRows else r - r0) * x.p.inPitch1 x.l +
    q * posBytes (x.p.srcFmt x.l x.l.src1) (x.p.srcCh x.l x.l.src1)

/-- One element of the second source. (DEDUCED, log entry 65) -/
def State.el1 (s : State) (x : RunCx) (r q k : Nat) : Nat × Bool :=
  let w := fmtWidth (x.p.srcFmt x.l x.l.src1)
  if (x.p.layer x.l.src1).isNone then
    let e := x.picPos x.l.src1 r q
    s.elem (x.special1 e.1 e.2) w k
  else match x.maker1 r q k with
    | some y => s.elem (y.outAt r q) w k
    | none => (0, false)

/-- The E8M0 code of the group of a channel of a source, and whether its granule is poisoned; 127 where the source is not
scaled (R242, R245). -/
def State.scaleCode (s : State) (x : RunCx) (first : Bool) (ro r q k : Nat) : Nat × Bool :=
  let g := x.p.srcGran (if first then x.l.src0 else x.l.src1)
  if g = 0 then (127, false)
  else
    let i := if g = 1 then 0 else k / 32
    let a := if first then some (place0 x x.codes ro r q + i) else (x.maker1 r q k).map fun y => y.scaleAt r q + i
    a.elim (127, false) fun a => ((s.byte a).toNat, s.poisoned a)

/-! ## What an output reads -/

/-- The index that padding reads of a dimension of `n` (R213); none where it reads the padding value. -/
def padIx (n mode : Nat) (i : Int) : Option Nat :=
  if 0 ≤ i ∧ i < n then some i.toNat
  else if mode = 2 then some (if i < 0 then (-i).toNat else (2 * ((n : Int) - 1) - i).toNat)
  else if mode = 3 then some (if i < 0 then 0 else n - 1)
  else none

/-- One operand an output reads: of the layer's input channels (0) or of the second operand (1), its row, column and
channel. -/
structure ReadAt where
  op : Nat
  r : Int
  q : Int
  k : Nat
  deriving DecidableEq, Repr

/-- The two positions and the phase of bilinear up-sampling (R98). -/
def bilinAt (f n o : Nat) : Nat × Nat × Int :=
  let num : Int := 2 * (o : Int) + 1 - f
  let i0 := num / (2 * f : Nat)
  let cl (i : Int) : Nat := (clampInt i 0 ((n : Int) - 1)).toNat
  (cl i0, cl (i0 + 1), num - i0 * (2 * f : Nat))

/-- The operands of output channel `k` at a position, in the order in which the operation takes them: for a convolution,
tap-major (R203). -/
def reads (l : Layer) (c : Cut) (r q k : Nat) : List ReadAt :=
  let win (chs : List Nat) : List ReadAt :=
    (List.range l.kh).flatMap fun a => (List.range l.kw).flatMap fun b => chs.map fun i =>
      ⟨0, (r : Int) * l.sh - l.pt + a * l.dil, (q : Int) * l.sw - l.pl + b * l.diw, i⟩
  let part (i : Nat) : Bool := c.role != rolePartial || (decide (c.ich0 ≤ i) && decide (i < c.ich0 + c.nich))
  let f := max 1 l.factor
  if l.op = 0 ∧ c.role = roleFinal then []
  else if l.op = 0 then win (((List.range l.gin).map fun i => k / max 1 l.gout * l.gin + i).filter part)
  else if l.op = 2 ∨ l.op = 3 then win [k]
  else if l.op = 4 ∨ l.op = 5 then
    (if c.role = roleFinal then [⟨0, r, q, k⟩] else ((List.range l.cin).filter part).map fun i => ⟨0, r, q, i⟩)
  else if l.two then [⟨0, r, q, k⟩, ⟨1, r, q, k⟩]
  else if l.op = 0x0A then
    (if k < f * f * l.n0 then
      [⟨0, (r * f + k / max 1 l.n0 / f : Nat), (q * f + k / max 1 l.n0 % f : Nat), k % max 1 l.n0⟩]
     else [⟨1, r, q, k - f * f * l.n0⟩])
  else if l.op = 0x0B then [⟨0, (r / f : Nat), (q / f : Nat), (r % f * f + q % f) * l.cout + k⟩]
  else if l.op = 0x0C then [⟨0, (r / f : Nat), (q / f : Nat), k⟩]
  else if l.op = 0x0D then
    let br := bilinAt f l.inH r
    let bq := bilinAt f l.inW q
    [⟨0, br.1, bq.1, k⟩, ⟨0, br.1, bq.2.1, k⟩, ⟨0, br.2.1, bq.1, k⟩, ⟨0, br.2.1, bq.2.1, k⟩]
  else if l.op = 0x0E then [⟨0, (r : Int) - l.pt, (q : Int) - l.pl, k⟩]
  else [⟨0, r, q, k⟩]

/-- A value read: its value in `FMT_IN`, the code of its scale group, its tensor scale, whether its granule is poisoned,
and what its conversion on the load path did (R237): its real value before and after. -/
structure Operand where
  v : Num
  e : Nat := 127
  ts : Nat := 0x3F800000
  bad : Bool := false
  conv : Option (Num × Num × Conv) := none
  deriving DecidableEq, Repr

/-- The whole number of a value. -/
def Num.int (v : Num) : Int := v.rat.floor

/-- The real value of an operand, scales included (R242). (DEDUCED, log entry 71) -/
def Operand.real (o : Operand) : Num :=
  if o.e = 255 then .nan else (o.v.mul (.fin false (pow2 ((o.e : Int) - 127)))).mul (f32 o.ts)

/-- A code of a source as an operand of the layer: in `FMT_IN` as it stands, or converted under `RND`, which for a Bridle layer
is an exact widening (R237, R240). -/
def loadOp (x : RunCx) (f ix code : Nat) (o : Operand) : Operand :=
  match fmtOf f, fmtOf x.l.fmtIn with
  | some a, some b =>
    if f = x.l.fmtIn then { o with v := b.value code }
    else
      let c := b.convert (max 1 x.l.rnd) (srR x.seed (x.li % 2 ^ 24) x.frame ix) false (a.value code)
      let t := { o with v := b.value c.code }
      { t with conv := some ({ o with v := a.value code }.real, t.real, c) }
  | _, _ => { o with v := .nan }

/-- The latent path's windowed layers treat a plot edge as a picture edge (R47): the position that an output reads lies in
another plot. A layer's grid stands to the padded picture as its map to the latent's. -/
def RunCx.offPlot (x : RunCx) (ro qo r q : Nat) : Bool :=
  match x.shape with
  | some h =>
    let side (n pad : Nat) : Nat := max 1 (h.plotPx * n / max 1 pad)
    !h.camp && x.p.codec && x.l.path == 1 && opWindow x.l.op &&
      (r / side x.l.inH (pad64 h.height) != ro / side x.l.outH (pad64 h.height) ||
       q / side x.l.inW (pad64 h.width) != qo / side x.l.outW (pad64 h.width))
  | none => false

/-- One operand (R200, R202, R213): a channel of `SRC0` from `SL0`, or of `SRC1` after the first `N0`. -/
def State.operand (s : State) (x : RunCx) (ro qo : Nat) (a : ReadAt) : Operand :=
  let l := x.l
  let fin := (fmtOf l.fmtIn).getD (.int 8 true)
  match padIx l.inH l.padMode a.r, padIx l.inW l.padMode a.q with
  | some r, some q =>
    let first := decide (a.op = 0 ∧ a.k < l.n0)
    let src := if first then l.src0 else l.src1
    let k := if first then l.sl0 + a.k else if a.op = 0 then a.k - l.n0 else a.k
    let f := x.p.srcFmt l src
    let ix := (r * l.inW + q) * x.p.srcCh l src + k
    if x.offPlot ro qo r q then { v := fin.value 0 }
    else if src = srcAnchors then
      let o := x.anch ro qo r q k
      loadOp x f ix (ofSigned 16 o.1) { v := .nan, bad := o.2 }
    else if src = srcRefShort ∨ src = srcRefLong then
      let o := (x.ref (src == srcRefLong) r q k).getD (0, false)
      loadOp x f ix (ofSigned 16 o.1) { v := .nan, bad := o.2 }
    else match x.lat src r q k with
      | some o => loadOp x f ix (ofSigned (fmtWidth f) o.1) { v := .nan, bad := o.2 }
      | none =>
        let c := if first then s.el0 x ro r q k else s.el1 x r q k
        let e := s.scaleCode x first ro r q k
        loadOp x f ix c.1 { v := .nan, e := e.1, ts := x.p.srcTs src, bad := c.2 || e.2 }
  | _, _ => { v := fin.value (if l.padMode = 1 then l.padVal % 2 ^ fin.width else 0) }

/-! ## Accumulators -/

/-- Weight `i` of a layer, and the code of its scale group (R204, R242). -/
def weightAt (x : RunCx) (o i : Nat) : Num × Nat :=
  let w := fmtWidth x.l.fmtW
  let n := o * x.l.kh * x.l.kw * x.l.gin + i
  let d := (x.p.recData recWeights x.l.wrec).getD []
  let b0 := w * n / 8
  let code := leAt d b0 ((w * n + w - 1) / 8 - b0 + 1) / 2 ^ (w * n % 8) % 2 ^ w
  let row := x.l.kh * x.l.kw * x.l.gin
  let g := x.p.wgran x.li
  let e := if g = 0 then 127 else leAt (x.p.wcodes x.li) (if g = 1 then o else o * cdiv row 32 + i / 32) 1
  (((fmtOf x.l.fmtW).getD (.int 8 true)).value code, e)

/-- The places of the weights that a cut's operands meet, in the operands' order. -/
def weightIx (l : Layer) (c : Cut) (k : Nat) : List Nat :=
  (List.range (l.kh * l.kw)).flatMap fun tap => ((List.range l.gin).filter fun i =>
    let ch := k / max 1 l.gout * l.gin + i
    c.role != rolePartial || (decide (c.ich0 ≤ ch) && decide (ch < c.ich0 + c.nich))).map fun i => tap * l.gin + i

/-- One FP32 of a record, by channel. -/
def Prog.f32At (p : Prog) (i ch : Nat) (d : Num) : Num := (p.record i).elim d fun r => f32 (leAt r.data (4 * ch) 4)

/-- The integer bias of a channel; only the first partial sum has it (R85, R215). (DEDUCED, log entry 71) -/
def biasOf (x : RunCx) (k : Nat) : Int :=
  if x.l.bridle ∧ (x.c.role ≠ rolePartial ∨ x.c.ich0 = 0) then
    (x.p.recData recBias x.l.brec).elim 0 fun d => toSigned 32 (leAt d (4 * k) 4)
  else 0

/-- What a floating-point transform gives for products whose direct sum is `d` (R208): a special value as direct convolution
has it, else the exact sum moved by a free number of steps, at most 28 for each product: one for each of the butterfly stages of a
128 × 128 transform and its inverse. (DESIGN CHOICE, log entry 56) -/
def fftSum (ps : List Num) (key : List Nat) (ix : Nat) (d : Num) : Num :=
  match d with
  | .fin _ _ =>
    let mags := ps.filterMap fun v => if v.rat = 0 then none else some (lg v.abs.rat)
    let m : Int := 28 * ps.length
    rne32 (ofRat false ((ps.map Num.rat).sum + clampInt (Config.fftRound key ix) (-m) m * pow2 (max (mags.max?.getD (-149) - 23) (-149))))
  | v => v

/-- The accumulator of a convolution output: exact in integer layers (R84, R96); chunk by chunk in floating-point ones
(R198, R234, R244), one product at a time in the diagonal mapping (R207), and a transform's free rounding (R208). -/
def convAcc (x : RunCx) (ops : List Operand) (k ix : Nat) : Num :=
  let ws := (weightIx x.l x.c k).map (weightAt x k)
  if fmtInt x.l.fmtIn then
    let ts := (ops.zip ws).map fun e => (e.1.v.int, e.2.1.int)
    Num.ofInt (if x.l.fpath = 1 then nttAccumulate (biasOf x k) ts else accumulate (biasOf x k) ts)
  else
    let scaled := x.l.fmtIn != 0xD
    let ps := (ops.zip ws).map fun e =>
      let p := e.1.v.mul e.2.1
      if !scaled then p
      else if e.1.e = 255 ∨ e.2.2 = 255 then .nan
      else p.mul (.fin false (pow2 ((e.1.e : Int) - 127 + ((e.2.2 : Int) - 127))))
    let n := if x.l.diag then 1 else max 1 ((lanes x.l.fmtIn x.l.fmtW).getD 1)
    let acc := (chunksOf n ps).foldl (fun a c => chunkAdd a (c ++ List.replicate (n - c.length) (.fin false 0))) (.fin false 0)
    if x.l.fpath = 2 then fftSum ps ((ops.map fun o => f32code o.v) ++ ws.map fun w => f32code w.1) ix acc else acc

/-- The GDN parameters of a layer. -/
def gdnOf (x : RunCx) : GdnPar := GdnPar.parse ((x.p.recData recGdn x.l.arec).getD [])

/-- The weighted sum of a GDN channel over the operands of this cut (R93, R94). -/
def gdnAcc (x : RunCx) (ops : List Operand) (k : Nat) : Nat :=
  let g := gdnOf x
  let lo := if x.c.role = rolePartial then x.c.ich0 else 0
  gdnSum (if x.c.role = rolePartial ∧ x.c.ich0 ≠ 0 then 0 else g.beta.getD k 0) ((g.gamma.getD k []).drop lo)
    (ops.map fun o => gdnSquare g.p o.v.int)

/-- The address of a partial word: of buffer `i` of a `FINAL` cut, or of a `PARTIAL` cut's output (R215). -/
def partialAddr (c : Cut) (base i r q k : Nat) : Nat :=
  base + i * (c.nrow * c.ncol * c.noch * 8) + (((r - c.row0) * c.ncol + (q - c.col0)) * c.noch + (k - c.och0)) * 8

/-- The partial words of one output, and whether one is poisoned. -/
def State.partials (s : State) (c : Cut) (r q k : Nat) : List Nat × Bool :=
  let as := (List.range c.npart).map fun i => partialAddr c (wsAddr c.tile c.haloAddr) i r q k
  (as.map fun a => leNat (s.bytes a 8), as.any fun a => s.poisonedIn a 8)

/-- What one output's reduction gives before the output stage: the accumulator, or the value the operation forms. Bilinear
up-sampling of an INT32 map runs exactly, its intermediate values not narrowed. (DEDUCED, log entry 157) -/
def State.accOf (s : State) (x : RunCx) (r q k : Nat) (ops : List Operand) : Num :=
  let l := x.l
  let ints := ops.map fun o => o.v.int
  let v (i : Nat) : Num := (ops.getD i { v := .nan }).real
  let wi := fmtInt l.fmtIn
  if x.c.role = roleFinal then
    let ws := (s.partials x.c r q k).1
    if l.op = 0 ∧ !wi then
      (match ws.map fun w => f32 (w % 2 ^ 32) with
       | [] => .fin false 0
       | a :: as => as.foldl fadd a)
    else Num.ofInt ((ws.map partialValue).sum)
  else match l.op with
    | 0x00 => convAcc x ops k ((r * l.outW + q) * l.cout + k)
    | 0x02 => if wi then Num.ofInt (ints.tail.foldl max (ints.headD 0)) else
        (ops.tail.map Operand.real).foldl fmax (v 0)
    | 0x03 => if wi then Num.ofInt (avgPool ints.sum ints.length)
        else fmul ((ops.map fun o => rne32 o.real).foldl fadd (.fin false 0)) (rne32 (.fin false (1 / (ints.length : Rat))))
    | 0x04 => Num.ofInt (gdnAcc x ops k)
    | 0x05 => Num.ofInt (gdnAcc x ops k)
    | 0x06 => if wi then Num.ofInt (ints.getD 0 0 + ints.getD 1 0) else fadd (rne32 (v 0)) (rne32 (v 1))
    | 0x07 => if wi then Num.ofInt (ints.getD 0 0 * ints.getD 1 0) else fmul (rne32 (v 0)) (rne32 (v 1))
    | 0x09 => Num.ofInt (tableEval (ints.getD 0 0)
        (((x.p.recData recTable l.arec).elim [] fun d => (List.range 1025).map fun i => toSigned 16 (leAt d (2 * i) 2))))
    | 0x0D =>
      let f := max 1 l.factor
      let pr := (bilinAt f l.inH r).2.2
      let pq := (bilinAt f l.inW q).2.2
      if wi then
        let lp (a b ph : Int) : Int := a + ((b - a) * ph + f) / ((2 * f : Nat) : Int)
        Num.ofInt (lp (lp (ints.getD 0 0) (ints.getD 1 0) pq) (lp (ints.getD 2 0) (ints.getD 3 0) pq) pr)
      else
        let lp (a b : Num) (ph : Int) : Num := fadd a (fmul (fsub b a) (rne32 (.fin false ((ph : Rat) / (2 * f : Nat)))))
        lp (lp (rne32 (v 0)) (rne32 (v 1)) pq) (lp (rne32 (v 2)) (rne32 (v 3)) pq) pr
    | 0x0F => { ops.getD 0 { v := .nan } with v := rne32 (ops.getD 0 { v := .nan }).v }.real
    | _ => v 0

/-! ## The output stage -/

/-- The block row of a latent row: four rows of video, one 20 ms frame of Campion (R46). -/
def RunCx.qRow (x : RunCx) (r : Nat) : Nat := if x.p.profile = some 2 then r else r / 4

/-- The rescale entry of an output channel; the gain vector's entry takes the place of M where the layer names a gain
record (R59, R87). -/
def rescaleOf (x : RunCx) (rs : List RescaleEntry) (r k : Nat) : RescaleEntry :=
  let e := rs.getD k ⟨0, 0, 0, 0, 0⟩
  match (x.p.recData recGain x.l.arec).or (x.p.recData recIgain x.l.arec) with
  | some d => { e with m := leAt d (2 * (x.qs.getD (x.qRow r) 0 * (d.length / 128) + k)) 2 }
  | none => e

/-- A Bridle output: its value and whether the clamp moved it (R86, R88, R93). -/
def bridleOut (x : RunCx) (rs : List RescaleEntry) (r k : Nat) (acc : Num) (ops : List Operand) : Int × Bool :=
  let e := rescaleOf x rs r k
  let a := (ops.getD 0 { v := .nan }).v.int
  let b := (ops.getD 1 { v := .nan }).v.int
  match x.l.op with
  | 0x00 => (e.app acc.int, rescaleSat acc.int e.m e.s e.z e.lo e.hi)
  | 0x06 =>
    let mb := (rs.getD (x.l.cout + k) ⟨0, 0, 0, 0, 0⟩).m
    let t := rshiftRhu (a * e.m + b * mb) e.s + e.z
    (elemAdd e mb a b, decide (t < e.lo) || decide (e.hi < t))
  | 0x07 =>
    let t := rshiftRhu (a * b * e.m) e.s + e.z
    (elemMul e a b, decide (t < e.lo) || decide (e.hi < t))
  | 0x08 => (requant e a, rescaleSat a e.m e.s e.z e.lo e.hi)
  | 0x04 | 0x05 =>
    let g := gdnOf x
    let xk := (if x.c.role = roleFinal then a else (ops.getD k { v := .nan }).v.int)
    let v := gdnScaled (x.l.op == 5) g.so xk acc.int.toNat
    (rescale v.1 (g.m.getD k 0) v.2 (g.z.getD k 0) (-32768) 32767,
     rescaleSat v.1 (g.m.getD k 0) v.2 (g.z.getD k 0) (-32768) 32767)
  | _ => (acc.int, false)

/-- What a block makes: the elements' codes by position and then channel, the scale codes by position and group, and the
counts of the conversion unit, the rescale and the SFU. -/
structure BlockOut where
  codes : List Nat := []
  scales : List Nat := []
  sat : Nat := 0
  conv : ConvRun := ⟨[], [], 0, 0⟩
  evals : Nat := 0
  nans : Nat := 0
  bad : Bool := false

/-- The FP32 values that the output stage of a layer with `BRIDLE` = 0 converts, for one position (R204, R256, R257), and
the NaNs that its function made. `acc` is the accumulator of each channel. (DEDUCED, log entry 71) -/
def stageVals (x : RunCx) (ks : List Nat) (acc : List Num) : List Num × Nat :=
  let l := x.l
  let plain := l.brec == recNone && l.rrec == recNone || (l.brec == 0 && l.rrec == 0 && l.op != 0)
  let fp := l.op == 0 && !fmtInt l.fmtIn
  let hasB := l.brec != recNone && (l.brec != 0 || l.op == 0) && !(fp && x.c.role == roleFinal)
  let hasR := l.rrec != recNone && (l.rrec != 0 || l.op == 0)
  let t := (acc.zip ks).map fun e =>
    if plain ∧ l.op ≠ 0 then (if (x.p.sfuPar l).isSome ∨ x.p.ogran x.li ≠ 0 then rne32 e.1 else e.1)
    else
      let a := rne32 e.1
      let a := if fp ∧ l.fmtIn ≠ 0xD then fmul (fmul a (f32 (x.p.actTs l))) (f32 (x.p.wts x.li)) else a
      let a := if hasB then fadd a (x.p.f32At l.brec e.2 (.fin false 0)) else a
      if hasR then fmul a (x.p.f32At l.rrec e.2 (.fin false 1)) else a
  match x.p.sfuPar l with
  | none => (t, 0)
  | some p =>
    let u := t.map fun v => fmul (f32 p.alpha) v
    let g := ks.map fun k => x.p.f32At p.grec k (.fin false 1)
    let m := MicroRec.parse ((x.p.recData recMicro p.mrec).getD [])
    let v := sfuEval p g m u
    (v.map fun a => fmul (f32 p.beta) a, if p.func = 3 ∧ u.any (· == .nan) then 0
      else ((u.zip v).filter fun e => e.2 == .nan && e.1 != .nan).length)

/-- emax of an element format (R245). -/
def emaxOf : Nat → Int
  | 0 => 2 | 1 => 3 | 2 => 6 | 3 => 7 | 4 => 14 | 5 => 30 | 6 => 2 | 7 => 2 | 8 => 4 | 9 => 8 | 0xA => 15 | 0xB => 15 | _ => 127

/-- One scale group of outputs converted (R245): its code and its elements. -/
def scaleGroup (fo : Nat) (rnd ots : Nat) (ys : List Num) (rs : List Nat) : Nat × List Conv × List (Num × Num) :=
  let f := (fmtOf fo).getD fmtF32
  let us := ys.map fun y => fdiv y (f32 ots)
  let a := (us.map Num.abs).foldl fmax (.fin false 0)
  match a with
  | .fin _ m =>
    let e : Nat := if m = 0 then 127 else (clampInt (lg m - emaxOf fo + 127) 0 254).toNat
    let sc := pow2 ((e : Int) - 127)
    let cs := (us.zip rs).map fun p => f.convert rnd p.2 true (p.1.mul (.fin false (1 / sc)))
    (e, cs, (ys.zip cs).map fun p => (p.1, ((f.value p.2.code).mul (.fin false sc)).mul (f32 ots)))
  | _ =>
    let cs := us.map fun _ => f.convert rnd 0 true .nan
    (255, cs, (ys.zip cs).map fun p => (p.1, f.value p.2.code))

/-- A run of conversions that have been made. -/
def convRunOf (l : List (Num × Num × Conv)) : ConvRun :=
  ⟨l.map (·.2.2.code), l.map fun e => (e.1, e.2.1), (l.filter (·.2.2.sat)).length, (l.filter (·.2.2.nanZero)).length⟩

/-- The conversions of a position's operands on the load path, each operand once (R237). (DEDUCED, log entry 76) -/
def State.loadRun (s : State) (x : RunCx) (r q : Nat) (ks : List Nat) : ConvRun :=
  if [x.l.src0, x.l.src1].all fun a => x.p.srcFmt x.l a == x.l.fmtIn then ⟨[], [], 0, 0⟩
  else convRunOf ((ks.flatMap (reads x.l x.c r q)).dedup.filterMap fun a => (s.operand x r q a).conv)

/-- One run of conversions after another. -/
def ConvRun.append (a b : ConvRun) : ConvRun := ⟨a.codes ++ b.codes, a.pairs ++ b.pairs, a.sats + b.sats, a.nans + b.nans⟩

/-- One position of a block: its codes, scale codes and counts. -/
def State.posOut (s : State) (x : RunCx) (rs : List RescaleEntry) (r q : Nat) (ks : List Nat) : BlockOut :=
  let l := x.l
  let ops := ks.map fun k => (reads l x.c r q k).map (s.operand x r q)
  let lc := s.loadRun x r q ks
  let bad := ops.any (·.any (·.bad)) || (x.c.role == roleFinal && ks.any fun k => (s.partials x.c r q k).2)
  let accs := (ks.zip ops).map fun e => s.accOf x r q e.1 e.2
  if x.c.role = rolePartial then
    let first := !l.bridle && l.op == 0 && x.c.ich0 == 0 && l.brec != recNone
    { codes := (ks.zip accs).map fun e => if fmtInt l.fmtIn then ofSigned 64 e.2.int
        else f32code (if first then fadd e.2 (x.p.f32At l.brec e.1 (.fin false 0)) else e.2), conv := lc, bad := bad }
  else if l.bridle then
    let os := (ks.zip (accs.zip ops)).map fun e => bridleOut x rs r e.1 e.2.1 e.2.2
    { codes := os.map fun o => ofSigned (fmtWidth l.fmtOut) o.1, sat := (os.filter (·.2)).length, conv := lc, bad := bad }
  else
    let accs := if l.op = 4 ∨ l.op = 5 then (ks.zip (accs.zip ops)).map fun e => Num.ofInt (bridleOut x rs r e.1 e.2.1 e.2.2).1 else accs
    let ys := stageVals x ks accs
    let rnds := ks.map fun k => srR x.seed (x.li % 2 ^ 24) x.frame ((r * l.outW + q) * l.cout + k)
    let fo := (fmtOf l.fmtOut).getD fmtF32
    let g := x.p.ogran x.li
    let out := if g = 0 then
        let cs := (ys.1.zip rnds).map fun e => fo.convert l.rnd e.2 false e.1
        [(127, cs, (ys.1.zip cs).map fun e => (e.1, fo.value e.2.code))]
      else ((chunksOf (if g = 1 then max 1 ks.length else 32) ys.1).zip (chunksOf (if g = 1 then max 1 ks.length else 32) rnds)).map
        fun e => scaleGroup l.fmtOut l.rnd (x.p.ots x.li) e.1 e.2
    let cs := out.flatMap (·.2.1)
    let n := if (x.p.sfuPar l).isSome then ks.length else 0
    { codes := cs.map (·.code), scales := if g = 0 then [] else out.map (·.1),
      conv := lc.append ⟨cs.map (·.code), out.flatMap (·.2.2), (cs.filter (·.sat)).length, (cs.filter (·.nanZero)).length⟩,
      evals := n, nans := ys.2, bad := bad }

/-- A block: its positions in order. (DEDUCED, log entry 70) -/
def State.blockOut (s : State) (x : RunCx) (b : BlockAt) : BlockOut :=
  let rs := x.p.rescales x.l
  let ks := (List.range b.nk).map (b.k0 + ·)
  ((List.range b.nq).map fun i => s.posOut x rs b.row (b.q0 + i) ks).foldl (fun a o =>
    { codes := a.codes ++ o.codes, scales := a.scales ++ o.scales, sat := a.sat + o.sat,
      conv := a.conv.append o.conv,
      evals := a.evals + o.evals, nans := a.nans + o.nans, bad := a.bad || o.bad }) {}

/-- The bytes that codes from element `k0` take in a vector of `n` elements at `a`: what shares their first byte, and elements
behind them, are kept; the unused bits behind the last element are zero (R233). -/
def State.mergeCodes (s : State) (a w n k0 : Nat) (cs : List Nat) : Nat × List Byte :=
  let b0 := w * k0 / 8
  let sh := w * k0 % 8
  let top := sh + w * cs.length
  let last := decide (n ≤ k0 + cs.length)
  let len := if last then packedLen w n - b0 else cdiv top 8
  let old := leNat (s.bytes (a + b0) len)
  (a + b0, toLe len (old % 2 ^ sh + 2 ^ sh * cs.foldr (fun c m => c % 2 ^ w + 2 ^ w * m) 0 + (if last then 0 else old / 2 ^ top * 2 ^ top)))

end Sys2Proof.Machine
end

