-- ==== Sys2Proof/Machine/Rans.lean ====
section
/-! DEFINITION. The rANS coder of the entropy coding engine: residuals, escapes, the steps of a symbol, the encoder and
the decoder, as the normative pseudocode of R118 defines them (R108 to R121). -/
namespace Sys2Proof.Machine

/-- A CDF table of a program (R110, R112): its offset and its cumulative frequencies; `COST` beside it (R113). -/
structure CdfTable where
  off : Int
  cdf : List Nat
  cost : List Nat
  deriving DecidableEq, Repr

/-- The number of symbols, escape included. -/
def CdfTable.nsym (t : CdfTable) : Nat := t.cdf.length

/-- The largest residual coded within the table (R110). -/
def CdfTable.h (t : CdfTable) : Int := t.off + t.nsym - 2

/-- The cumulative frequency of symbol `j`, with `CDF[NSYM]` taken as 65,536 (R110). -/
def CdfTable.cum (t : CdfTable) (j : Nat) : Nat := t.cdf.getD j 65536

/-- The frequency of symbol `j` (R110). -/
def CdfTable.freq (t : CdfTable) (j : Nat) : Nat := t.cum (j + 1) - t.cum j

/-- The rounded mean (R108). -/
def rmean (mu : Int) : Int := (mu + 8) / 16

/-- The value an escaped residual is mapped to (R111). -/
def escapeMap (t : CdfTable) (d : Int) : Nat :=
  if t.h < d then (2 * (d - t.h - 1)).toNat else (2 * (t.off - 1 - d) + 1).toNat

/-- The inverse of the escape mapping (R111). -/
def escapeInv (t : CdfTable) (u : Nat) : Int :=
  if u % 2 = 0 then t.h + 1 + (u / 2 : Nat) else t.off - 1 - ((u - 1) / 2 : Nat)

/-- Whether a residual is an escape (R110). -/
def isEscape (t : CdfTable) (d : Int) : Bool := !(decide (t.off ≤ d) && decide (d ≤ t.h))

/-- The coding steps (c, f) of one symbol in decode order (R118). -/
def ransSteps (t : CdfTable) (v mu : Int) : List (Nat × Nat) :=
  let d := v - rmean mu
  if isEscape t d then
    let u := escapeMap t d
    let k := Nat.log2 (u + 1)
    (t.cum (t.nsym - 1), t.freq (t.nsym - 1))
      :: List.replicate k (0, 32768) ++ [(32768, 32768)]
      ++ (if k = 0 then [] else [((u + 1 - 2 ^ k) * 2 ^ (16 - k), 2 ^ (16 - k))])
  else
    let j := (d - t.off).toNat
    [(t.cum j, t.freq j)]

/-- The cost of a symbol in 1/256 bit (R61, R113). -/
def symbolCost (t : CdfTable) (v mu : Int) : Nat :=
  let d := v - rmean mu
  if isEscape t d then
    t.cost.getD (t.nsym - 1) 0 + 256 * (2 * Nat.log2 (escapeMap t d + 1) + 1)
  else t.cost.getD (d - t.off).toNat 0

/-- One encoder step on a state: the word written, if any, and the new state (R118). -/
def encStep (s : Nat) (cf : Nat × Nat) : List Nat × Nat :=
  let (w, s1) := if cf.2 * 65536 ≤ s then ([s % 65536], s / 65536) else ([], s)
  (w, (s1 / cf.2) * 65536 + s1 % cf.2 + cf.1)

/-- The encoder's working state: the eight lane states and the word stack, last written first. -/
structure EncState where
  x : List Nat
  stk : List Nat
  deriving DecidableEq, Repr

/-- Encode the steps of one symbol, in reverse, on its lane. -/
def encSymbol (e : EncState) (lane : Nat) (steps : List (Nat × Nat)) : EncState :=
  let r := steps.foldr (fun cf (a : List Nat × Nat) => let o := encStep a.2 cf; (o.1 ++ a.1, o.2))
    (([] : List Nat), e.x.getD lane 0)
  ⟨e.x.set lane r.2, r.1 ++ e.stk⟩

/-- A symbol to code: its value, mean and table. -/
structure EcSym where
  v : Int
  mu : Int
  t : Nat
  deriving DecidableEq, Repr

/-- The word stream of a payload (R118): symbols in reverse order, the lanes flushed, last written first. -/
def encodeWords (tabs : List CdfTable) (syms : List EcSym) : List Nat :=
  let st := syms.zipIdx.foldr
    (fun (p : EcSym × Nat) e => encSymbol e (p.2 % 8) (ransSteps (tabs.getD p.1.t ⟨0, [], []⟩) p.1.v p.1.mu))
    ⟨List.replicate 8 0x10000, []⟩
  (st.x.map fun s => [s / 65536, s % 65536]).flatten ++ st.stk

/-- A payload: each word least significant byte first (R119). -/
def payloadBytes (ws : List Nat) : List Byte := (ws.map (toLe 2)).flatten

/-- The words of a payload. -/
def payloadWords : List Byte → List Nat
  | a :: b :: bs => (a.toNat + 256 * b.toNat) :: payloadWords bs
  | _ => []

/-- The decoder's working state: lane states and the words not yet read. -/
structure DecState where
  x : List Nat
  rest : List Nat
  deriving DecidableEq, Repr

/-- Renormalise a state, reading one word if it is needed; the failure is code 1 (R118). -/
def decRenorm (s : Nat) (rest : List Nat) : Except Nat (Nat × List Nat) :=
  if s < 0x10000 then
    match rest with
    | [] => .error 1
    | w :: ws => .ok (s * 65536 + w, ws)
  else .ok (s, rest)

/-- Read `k` bypass bits (R118). -/
def decBypass (s : Nat) (rest : List Nat) (k : Nat) : Except Nat (Nat × Nat × List Nat) :=
  let slot := s % 65536
  let b := slot / 2 ^ (16 - k)
  match decRenorm (2 ^ (16 - k) * (s / 65536) + slot - b * 2 ^ (16 - k)) rest with
  | .error e => .error e
  | .ok (s', r') => .ok (b, s', r')

/-- Count the prefix zeros of an escape; more than 16 is failure 5 (R118). -/
def decPrefix : Nat → Nat → Nat → List Nat → Except Nat (Nat × Nat × List Nat)
  | 0, _, _, _ => .error 5
  | fuel + 1, k, s, rest =>
    match decBypass s rest 1 with
    | .error e => .error e
    | .ok (b, s', r') => if b = 1 then .ok (k, s', r') else decPrefix fuel (k + 1) s' r'

/-- Decode one symbol on its lane (R118). -/
def decSymbol (t : CdfTable) (mu : Int) (lane : Nat) (d : DecState) : Except Nat (Int × DecState) :=
  let s := d.x.getD lane 0
  let slot := s % 65536
  let j := (t.cdf.filter fun c => c ≤ slot).length - 1
  match decRenorm (t.freq j * (s / 65536) + slot - t.cum j) d.rest with
  | .error e => .error e
  | .ok (s1, r1) =>
    let fin (res : Int) (s' : Nat) (r' : List Nat) : Except Nat (Int × DecState) :=
      let v := rmean mu + res
      if v < -32768 ∨ 32767 < v then .error 5 else .ok (v, ⟨d.x.set lane s', r'⟩)
    if j < t.nsym - 1 then fin (t.off + j) s1 r1
    else
      match decPrefix 17 0 s1 r1 with
      | .error e => .error e
      | .ok (k, s2, r2) =>
        if k = 0 then fin (escapeInv t 0) s2 r2
        else
          match decBypass s2 r2 k with
          | .error e => .error e
          | .ok (b, s3, r3) => fin (escapeInv t (2 ^ k - 1 + b)) s3 r3

/-- Decode the symbols from number `i`, each with its mean and table. -/
def decSymbols (tabs : List CdfTable) : List (Int × Nat) → Nat → DecState → Except Nat (List Int × DecState)
  | [], _, d => .ok ([], d)
  | mt :: rest, i, d =>
    match decSymbol (tabs.getD mt.2 ⟨0, [], []⟩) mt.1 (i % 8) d with
    | .error e => .error e
    | .ok (v, d') =>
      match decSymbols tabs rest (i + 1) d' with
      | .error e => .error e
      | .ok (vs, d'') => .ok (v :: vs, d'')

/-- The values of the symbols that are decoded before a failure. -/
def decPrefixOf (tabs : List CdfTable) : List (Int × Nat) → Nat → DecState → List Int
  | [], _, _ => []
  | mt :: rest, i, d =>
    match decSymbol (tabs.getD mt.2 ⟨0, [], []⟩) mt.1 (i % 8) d with
    | .error _ => []
    | .ok (v, d') => v :: decPrefixOf tabs rest (i + 1) d'

/-- The eight initial lane states of a word stream. -/
def initStates (ws : List Nat) : List Nat :=
  (List.range 8).map fun l => ws.getD (2 * l) 0 * 65536 + ws.getD (2 * l + 1) 0

/-- Decode a payload: the values, or the code of the consistency failure (R118, R121). -/
def decodePayload (tabs : List CdfTable) (mts : List (Int × Nat)) (bs : List Byte) : Except Nat (List Int) :=
  if bs.length % 2 ≠ 0 ∨ bs.length < 32 then .error 4
  else
    let ws := payloadWords bs
    let x := initStates ws
    if x.any (· < 0x10000) then .error 3
    else
      match decSymbols tabs mts 0 ⟨x, ws.drop 16⟩ with
      | .error e => .error e
      | .ok (vs, d) =>
        if d.x.any (· ≠ 0x10000) then .error 3
        else if d.rest ≠ [] then .error 2
        else .ok vs

/-- The values of a payload as INT16 little-endian, in coding order (R123). -/
def int16Bytes (vs : List Int) : List Byte := (vs.map fun v => toLe 2 (ofSigned 16 v)).flatten

/-- The coding steps of each logical lane over a list of symbols, from number `i` (R117, R124). -/
def laneSteps (tabs : List CdfTable) (syms : List EcSym) : List Nat :=
  (List.range 8).map fun l =>
    (syms.zipIdx.filter fun p => p.2 % 8 = l).foldl
      (fun a p => a + (ransSteps (tabs.getD p.1.t ⟨0, [], []⟩) p.1.v p.1.mu).length) 0

/-- Coding steps of all lanes. -/
def totalSteps (tabs : List CdfTable) (syms : List EcSym) : Nat := (laneSteps tabs syms).sum

/-- Symbols coded as escapes (R132). -/
def escapeCount (tabs : List CdfTable) (syms : List EcSym) : Nat :=
  (syms.filter fun s => isEscape (tabs.getD s.t ⟨0, [], []⟩) (s.v - rmean s.mu)).length

/-- Steps a physical lane carries when `p` are in service: logical lane l runs on lane l mod p (R126). -/
def physSteps (p : Nat) (lanes : List Nat) : List Nat :=
  (List.range p).map fun q => ((lanes.zipIdx.filter fun e => e.2 % p = q).map (·.1)).sum

/-- Cycles an encode work item occupies the ECE (R124, R126). -/
def encodeCycles (p : Nat) (tabs : List CdfTable) (syms : List EcSym) : Nat :=
  32 + (physSteps p (laneSteps tabs syms)).foldl max 0

/-- The rate-control law (R62) for a frame of `n` rows: the quality indices of its first `m` rows and whether a clamp
occurred among them. -/
def rateControl (n m : Nat) (target : Int) (qs lo hi : Int) (rowcost : List Nat) : List Int × Bool :=
  let step (st : List Int × Int × Int × Bool) (r : Nat) : List Int × Int × Int × Bool :=
    let (acc, cum, q, cl) := st
    if 4 ≤ r then
      let k := r - 4
      let cum := cum + (rowcost.getD k 0 : Nat)
      let used := truncDiv (cum + 2047) 2048
      let share := truncDiv (target * (k + 1)) n
      let d := truncDiv (-((used - share) * 64)) (target - share)
      let d := if r < n - n / 4 then clampInt d (-4) 4 else d
      let nq := q + d
      let cl := cl || decide (nq < lo) || decide (hi < nq)
      let nq := if nq < lo then lo else if hi < nq then hi else nq
      (acc ++ [nq], cum, nq, cl)
    else (acc ++ [q], cum, q, cl)
  let r := (List.range m).foldl step ([], 0, clampInt qs lo hi, false)
  (r.1, r.2.2.2)

end Sys2Proof.Machine
end

