-- ==== Sys2Proof/Machine/Latent.lean ====
section
/-! DEFINITION. The latents of a learned-codec stream: the geometry of its frames (R45, R46, R55), where the program's layers
keep ŷ, ẑ, the means and the scale indices, the coding order of a plot (R49, R116), and the rate controller (R59 to R66). -/
namespace Sys2Proof.Machine

/-! ## Programs -/

/-- A loaded program of an instance. -/
def State.prog (s : State) (n id : Nat) : Option Prog := (s.inst n).progs.find? (·.id == id)

/-- The `LAYER` records of a program, with their indices. -/
def Prog.layers (p : Prog) : List (Nat × Layer) :=
  p.recs.zipIdx.filterMap fun e => if e.1.typ = recLayer then some (e.2, Layer.parse e.1.data) else none

/-- The first record of a type. -/
def Prog.firstRec (p : Prog) (typ : Nat) : List Byte := ((p.recs.find? (·.typ == typ)).map (·.data)).getD []

/-- The latent channels: a gain vector has one entry for each (R102). -/
def Prog.latch (p : Prog) : Nat := (p.firstRec recGain).length / 128

/-- The hyperprior channels: `HSCALE` has one entry for each (R102). -/
def Prog.hypch (p : Prog) : Nat := (p.firstRec recHscale).length

/-- The references of a delta frame: two for Peony, one for Aster and Campion, and for a custom graph two when a layer reads
the long-term one (R40, R138). -/
def Prog.nref (p : Prog) : Nat :=
  if p.profile = some 1 then 2
  else if p.profile = some 3 ∧ p.layers.any (fun e => e.2.src0 == srcRefLong || e.2.src1 == srcRefLong) then 2 else 1

/-- The layer whose rescale gives ŷ (a7): the one that reads the gain vectors (R59, R99). -/
def Prog.yLayer (p : Prog) : Option Nat :=
  (p.layers.find? fun e => (p.recData recGain e.2.arec).isSome).map (·.1)

/-- The layer whose rescale gives ẑ (h2): the other encoder layer that the latent path reads. -/
def Prog.zLayer (p : Prog) : Option Nat :=
  (p.layers.find? fun e => e.2.path == 0 && p.yLayer != some e.1 &&
    p.layers.any fun d => d.2.path == 1 && (d.2.src0 == e.1 || d.2.src1 == e.1)).map (·.1)

/-- The layer that gives the means and scale indices (p7): the last of the latent path. -/
def Prog.pLayer (p : Prog) : Option Nat := (p.layers.reverse.find? fun e => e.2.path == 1).map (·.1)

/-- The CDF table of a scale index with its costs (R112, R113). -/
def Prog.table (p : Prog) (t : Nat) : CdfTable :=
  let d := ((p.recs.find? fun r => r.typ == recCdf && leAt r.data 0 1 == t).map (·.data)).getD []
  let c := ((p.recs.find? fun r => r.typ == recCost && leAt r.data 0 1 == t).map (·.data)).getD []
  let n := leAt d 2 2
  { off := toSigned 16 (leAt d 4 2), cdf := (List.range n).map fun i => leAt d (8 + 2 * i) 2,
    cost := (List.range n).map fun i => leAt c (8 + 2 * i) 2 }

/-- The 64 tables. -/
def Prog.tables (p : Prog) : List CdfTable := (List.range 64).map p.table

/-- The scale index of a hyperprior channel (R109). -/
def Prog.hscale (p : Prog) (k : Nat) : Nat := leAt (p.firstRec recHscale) k 1

/-- The shape that a program gives settings. -/
def Prog.shape (p : Prog) (width height channels rate bits chroma : Nat) : LscShape :=
  let k := p.profile.getD 4
  { prog := p.id, profile := k, width := if k = 2 then 0 else width, height := if k = 2 then 0 else height,
    channels := if k = 2 then channels else 0, rate := if k = 2 then rate else 0, bits := bits, chroma := chroma,
    latch := p.latch, hypch := p.hypch, nref := p.nref }

/-! ## Table sets (R115) -/

/-- A set is pinned: an open stream that this ECE serves names its program. -/
def State.tsetPinned (s : State) (t : Nat) (e : TSet) : Bool :=
  s.streams.any fun x => s.isOpen x.1 && bitOf x.2.stages 2 && bitOf x.2.tiles t && x.2.inst == e.inst &&
    s.slive F.ECE_LSCW7_PROG_ID x.1 == e.prog

/-- `ECE_TSET` and `ECE_TSETPROG` show the sets. -/
def syncTsets (t : Nat) : Act := fun s =>
  let l := (s.tile t).tsets
  [.fld F.ECE_TSET_VALID t 0 (maskList ((l.filter fun e => !e.loading).map (·.ix))),
   .fld F.ECE_TSET_PINNED t 0 (maskList ((l.filter (s.tsetPinned t)).map (·.ix)))] ++
  l.map fun e => .fld F.ECE_TSETPROG_PROG_ID t e.ix e.prog

/-- The sets that are pinned change when a stream opens or closes and when its program changes. -/
def syncPins : Act := fun s => Act.each ((s.tiles.filter fun t => !t.2.tsets.isEmpty).map (·.1)) syncTsets s

/-! ## The coding order of a plot (R49, R116) -/

/-- A symbol: of ẑ or of ŷ, at a row, column and channel; in Campion the row is 50 times the audio channel plus the 20 ms
frame of the plot, and the column is the position. -/
structure SymAt where
  z : Bool
  r : Nat
  q : Nat
  k : Nat
  deriving DecidableEq, Repr

/-- The numbers from `a` below `b`. -/
def span (a b : Nat) : List Nat := (List.range (b - a)).map (a + ·)

/-- The groups of a plot, in coding order: ẑ, then the anchors and the non-anchors of each block row. -/
def plotGroups (h : LscShape) (nrow p : Nat) : List (List SymAt) :=
  if h.camp then
    ((span (50 * p) (50 * p + nrow)).flatMap fun f => (span 0 2).flatMap fun x => (span 0 h.hypch).map fun k => ⟨true, f, x, k⟩) ::
    (span (50 * p) (50 * p + nrow)).flatMap fun f => [0, 1].map fun par =>
      (span 0 10).flatMap fun x => ((span 0 h.latch).filter fun k => (x + k) % 2 == par).map fun k => ⟨false, f, x, k⟩
  else
    let zr := h.plotRows p 64
    let zq := h.plotCols p 64
    let yq := h.plotCols p 16
    ((span zr.1 zr.2).flatMap fun r => (span zq.1 zq.2).flatMap fun q => (span 0 h.hypch).map fun k => ⟨true, r, q, k⟩) ::
    (span zr.1 zr.2).flatMap fun j => [0, 1].map fun par =>
      (span (4 * j) (4 * j + 4)).flatMap fun r =>
        ((span yq.1 yq.2).filter fun q => (r + q) % 2 == par).flatMap fun q => (span 0 h.latch).map fun k => ⟨false, r, q, k⟩

/-- The block row that group `g` of a plot belongs to, on the picture's grid; the ẑ group belongs to none. -/
def groupRow (h : LscShape) (p g : Nat) : Option Nat :=
  if g = 0 then none else some ((if h.camp then 50 * p else (h.plotRows p 64).1) + (g - 1) / 2)

/-- The symbols of a block row over the whole width (R61). -/
def rowSyms (h : LscShape) (r : Nat) : List SymAt :=
  if h.camp then
    ((span 0 2).flatMap fun x => (span 0 h.hypch).map fun k => ⟨true, r, x, k⟩) ++
    ((span 0 10).flatMap fun x => (span 0 h.latch).map fun k => ⟨false, r, x, k⟩)
  else
    ((span 0 (h.latW / 4)).flatMap fun q => (span 0 h.hypch).map fun k => ⟨true, r, q, k⟩) ++
    ((span (4 * r) (4 * r + 4)).flatMap fun y => (span 0 h.latW).flatMap fun q => (span 0 h.latch).map fun k => ⟨false, y, q, k⟩)

/-! ## Where the tensors lie -/

/-- The cut of a layer whose output holds a position, and its place in the map. A map smaller than the grid holds one plot,
or one 20 ms frame, at a time. -/
def Prog.cutAt (p : Prog) (li r q k : Nat) : Option (RunCx × Nat × Nat) :=
  (p.layer li).bind fun l =>
    let r := r % max 1 l.outH
    let q := q % max 1 l.outW
    ((p.cutsOf li).find? fun e => e.2.role != rolePartial && e.2.hasRow r && e.2.hasCol q && decide (e.2.och0 ≤ k) &&
      decide (k < e.2.och0 + e.2.noch)).map fun e => ({ p := p, li := li, l := l, c := e.2 }, r, q)

/-- The integer that a code of an integer format stands for. -/
def intCode (fmt code : Nat) : Int := match fmtOf fmt with | some f => (f.value code).rat.floor | none => 0

/-- An element of a layer's output: its value and whether it is poisoned; none where no cut holds it. (DEDUCED, log entry 78) -/
def State.tensor (s : State) (p : Prog) (li r q k : Nat) : Option (Int × Bool) :=
  (p.cutAt li r q k).map fun e =>
    let v := s.elem (e.1.outAt e.2.1 e.2.2) (fmtWidth e.1.l.fmtOut) k
    (intCode e.1.l.fmtOut v.1, v.2)

/-- An element of a layer's output is written, with a poison mark or without. -/
def putTensor (p : Prog) (li r q k : Nat) (v : Int) (bad : Bool) : Act := fun s =>
  match p.cutAt li r q k with
  | none => []
  | some e =>
    let w := fmtWidth e.1.l.fmtOut
    let m := s.mergeCodes (e.1.outAt e.2.1 e.2.2) w e.1.l.cout k [ofSigned w v]
    memWrite m.1 m.2 bad false s

/-- The rows stored of a cut for a stream's frame, as its fence counts them; the fences of an instance stand with the tile
that the cut's output goes to. -/
def State.fenceRows (s : State) (t prog cut stream frame : Nat) : Nat :=
  ((s.tile t).fences.find? fun f => f.prog == prog && f.cut == cut && f.stream == stream && f.frame == frame).elim 0 (·.rows)

/-- The item that writes row `r` of a frame's map: a Campion map holds the 20 ms frames of its own height. -/
def itemFrame (h : LscShape) (frame r outH : Nat) : Nat := if h.camp then frame + r % 50 / max 1 outH * outH else frame

/-- A row of a layer's output has been stored for a frame by every cut that holds a part of it. -/
def State.rowStored (s : State) (p : Prog) (h : LscShape) (id frame li r : Nat) : Bool :=
  match p.layer li with
  | none => false
  | some l =>
    let m := r % max 1 l.outH
    let cs := (p.cutsOf li).filter fun e => e.2.role != rolePartial && e.2.hasRow m
    cs != [] && cs.all fun e =>
      decide (m - e.2.row0 < s.fenceRows e.2.dstTile p.id e.1 id (itemFrame h frame r l.outH))

/-- The layer that gives the reconstruction (s7): the last of the synthesis. (DEDUCED, log entry 78) -/
def Prog.sLayer (p : Prog) : Option Nat := (p.layers.reverse.find? fun e => e.2.path == 2).map (·.1)

/-- The layers of ŷ, ẑ and the means, where the program has them all. (DEDUCED, log entry 78) -/
def Prog.tensors (p : Prog) : Option (Nat × Nat × Nat) :=
  p.yLayer.bind fun y => p.zLayer.bind fun z => p.pLayer.map fun m => (y, z, m)

/-- The mean and the scale index of a symbol, and whether what gives them is poisoned (R99, R109). -/
def State.model (s : State) (p : Prog) (m : Nat) (a : SymAt) : Option (Int × Nat × Bool) :=
  if a.z then some (0, p.hscale a.k, false)
  else (s.tensor p m a.r a.q a.k).bind fun mu => (s.tensor p m a.r a.q (p.latch + a.k)).map fun t =>
    (mu.1, t.1.toNat, mu.2 || t.2)

/-- A symbol with its value, mean and scale index, and whether any of them is poisoned; none while a value has no place. -/
def State.symbol (s : State) (p : Prog) (w : Nat × Nat × Nat) (a : SymAt) : Option ((Int × Int × Nat) × Bool) :=
  (s.tensor p (if a.z then w.2.1 else w.1) a.r a.q a.k).bind fun v => (s.model p w.2.2 a).map fun m =>
    ((v.1, m.1, m.2.1), v.2 || m.2.2)

/-- All of a list, or none. -/
def allSome {α β : Type} (f : α → Option β) : List α → Option (List β)
  | [] => some []
  | a :: as => (f a).bind fun b => (allSome f as).map (b :: ·)

/-- The means, indices and values of a block row are in memory for a frame. -/
def State.rowReady (s : State) (p : Prog) (h : LscShape) (id frame : Nat) (w : Nat × Nat × Nat) (r : Nat) : Bool :=
  if h.camp then [w.1, w.2.1, w.2.2].all fun l => s.rowStored p h id frame l r
  else s.rowStored p h id frame w.2.1 r && (span (4 * r) (4 * r + 4)).all fun y =>
    s.rowStored p h id frame w.1 y && s.rowStored p h id frame w.2.2 y

/-! ## Rate control (R59 to R62) -/

/-- The symbols of a channel's plot of a Campion frame. -/
def LscFrame.campSyms (f : LscFrame) : Nat := f.nrow * (2 * f.shape.hypch + 10 * f.shape.latch)

/-- A channel of a Campion plot has had its turn of the latent path: it is coded, decoded or withheld, or lost with its means
known. -/
def LscFrame.turned (f : LscFrame) (p : PlotSt) : Bool := match p.phase with
  | .waiting | .arrived => false
  | .missing => p.zeroed && decide (f.campSyms ≤ p.syms.length)
  | _ => true

/-- The channel of a Campion plot whose latent path runs: the channels take their turns in order. (DEDUCED, log entry 79) -/
def LscFrame.channel (f : LscFrame) : Nat := if f.shape.camp then (f.plots.takeWhile f.turned).length else 0

/-- The channel of a Campion plot whose synthesis runs. (DEDUCED, log entry 79) -/
def LscFrame.synChannel (f : LscFrame) : Nat := if f.ended then f.recon.length / max 1 f.nrow else 0

/-- The frame of a stream that a frame number belongs to: a Campion plot holds its 20 ms frames. -/
def State.lscFrame (s : State) (id frame : Nat) : Option LscFrame :=
  (s.stream id).lsc.frames.find? fun f =>
    if f.shape.camp then decide ((frame + 2 ^ 32 - f.frame) % 2 ^ 32 < 50) else f.frame == frame

/-- The quality indices of a frame's block rows, as the array reads them (R59). -/
def State.frameQs (s : State) (id frame : Nat) : List Nat :=
  (s.lscFrame id frame).elim [] fun f => (f.q.getD f.channel []).drop ((frame + 2 ^ 32 - f.frame) % 2 ^ 32)

/-- The plot that a place of the ẑ grid or of the ŷ grid lies in. -/
def LscShape.plotAt (h : LscShape) (z : Bool) (r q : Nat) : Nat :=
  let n := max 1 (h.plotPx / (if z then 64 else 16))
  r / n * h.pcols + q / n

/-- A symbol of plot `ix` as a decoder has it: of a decoded plot as stored, or as kept for Campion; zero of one that is lost; of
one whose decode runs, what the ECE has decoded; none before that. -/
def State.decSym (s : State) (p : Prog) (w : Nat × Nat × Nat) (id : Nat) (f : LscFrame) (ix : Nat) (a : SymAt) : Option (Int × Bool) :=
  let kept (l : List (Int × Int × Nat)) (bad : Bool) : Option (Int × Bool) :=
    (((plotGroups f.shape f.nrow ix).flatten.zip l).find? fun g => g.1 == a).map fun g => (g.2.1, bad)
  (f.plots.find? (·.ix == ix)).bind fun g => match g.phase with
    | .missing => some (0, false)
    | .decoded => if f.shape.camp then kept g.syms false else s.tensor p (if a.z then w.2.1 else w.1) a.r a.q a.k
    | _ => ((s.tiles.flatMap fun t => t.2.ece).find? fun e => e.dec && e.stream == id && e.frame == f.frame && e.plot == ix).bind
        fun e => kept e.syms e.bad

/-- The element of the ẑ or ŷ layer that a decoder's layers read where the working store does not hold it: decoded values become
visible in memory only when their payload has passed its last check (R129), and a Campion map holds one channel at a time. -/
def State.latAt (s : State) (p : Prog) (id frame li r q k : Nat) : Option (Int × Bool) :=
  match s.lscFrame id frame, p.tensors with
  | some f, some w =>
    let z := li == w.2.1
    if s.slive F.ECE_LSCW0_DIR id = 0 ∨ (li ≠ w.1 ∧ !z) then none
    else if f.shape.camp then
      let c := if z then f.channel else f.synChannel
      some ((s.decSym p w id f c ⟨z, 50 * c + (frame + 2 ^ 32 - f.frame) % 2 ^ 32 + r, q, k⟩).getD (0, false))
    else
      let ix := f.shape.plotAt z r q
      if f.plots.any fun g => g.ix == ix && g.phase == .decoded then none
      else some ((s.decSym p w id f ix ⟨z, r, q, k⟩).getD (0, false))
  | _, _ => none

/-- The decoded anchor that the output at row `ro` and column `qo` of a layer reads at row `r`, column `q` and channel `k`:
zero at a non-anchor, outside the plot, and below the block row (R49, R202). An encoder's anchors are its ŷ as stored; a
decoder's are those that the ECE has decoded of the plot. -/
def State.anchorAt (s : State) (p : Prog) (id frame ro qo r q k : Nat) : Int × Bool :=
  match s.lscFrame id frame, p.tensors with
  | some f, some w =>
    let h := f.shape
    let n := h.plotPx / 16
    let base := (frame + 2 ^ 32 - f.frame) % 2 ^ 32
    let ix := if h.camp then f.channel else h.plotAt false r q
    let row := if h.camp then 50 * f.channel + base + r else r
    let inside := if h.camp then decide (r ≤ ro) && (q + k) % 2 == 0
      else decide (r / 4 ≤ ro / 4) && r / n == ro / n && q / n == qo / n && (r + q) % 2 == 0
    if !inside then (0, false)
    else if s.slive F.ECE_LSCW0_DIR id = 0 then
      if s.rowStored p h id f.frame w.1 row then (s.tensor p w.1 row q k).getD (0, false) else (0, false)
    else (s.decSym p w id f ix ⟨false, row, q, k⟩).getD (0, false)
  | _, _ => (0, false)

/-! ## The reference pool (R54 to R58) -/

/-- The pool's base address. -/
def State.lscPool (s : State) (id : Nat) : Nat := s.sget F.ECE_LSCW5_POOL_LO id + 2 ^ 32 * s.sget F.ECE_LSCW6_POOL_HI id

/-- Where a Campion channel's ŷ of the `j`-th 20 ms frame of a plot stands: two buffers a channel take their turns (R55).
(DEDUCED, log entry 159) -/
def State.campBuf (s : State) (id c j : Nat) : Nat := s.lscPool id + (2 * c + j % 2) * 1280

/-- A value of a pool buffer: INT16 in [row][column][channel] order (R55). -/
def State.poolElem (s : State) (a i : Nat) : Int × Bool := (toSigned 16 (leNat (s.bytes (a + 2 * i) 2)), s.poisonedIn (a + 2 * i) 2)

/-- The reference latent that a frame's layers read (R50, R57, R58, R72): the values of the pool buffer that has the mark and holds
the frame the unit names; zero in a key latent and for a reference that is not in the pool. In Campion it is the channel's ŷ of
the 20 ms frame before, zero for the first of a plot; none where that has not been coded yet. (DEDUCED, log entry 159) -/
def State.refAt (s : State) (id frame : Nat) (long : Bool) (r q k : Nat) : Option (Int × Bool) :=
  match s.lscFrame id frame with
  | none => some (0, false)
  | some f =>
    let h := f.shape
    if h.camp then
      let j := (frame + 2 ^ 32 - f.frame) % 2 ^ 32 + r
      if long ∨ j = 0 ∨ f.plots.any (fun g => g.ix == f.channel && g.phase == .missing) then some (0, false)
      else if f.refRows.getD f.channel 0 < j then none
      else some (s.poolElem (s.campBuf id f.channel (j - 1)) (q * h.latch + k))
    else
      let n := if long then f.refL else f.refS
      match (if f.key then none else (s.stream id).lsc.pool.findIdx? fun b => (if long then b.refL else b.refS) && b.frame == n) with
      | none => some (0, false)
      | some j => some (s.poolElem (s.lscPool id + j * h.bufBytes) ((r * h.latW + q) * h.latch + k))

/-- A change of a stream's learned-codec state. -/
def updLsc (id : Nat) (f : Lsc → Lsc) : Act := updS id fun x => { x with lsc := f x.lsc }

/-- A change of one frame. -/
def updFrame (id frame : Nat) (g : LscFrame → LscFrame) : Act :=
  updLsc id fun l => { l with frames := l.frames.map fun f => if f.frame = frame then g f else f }

/-- The ŷ of a 20 ms frame of the channel that is being coded is in its pool buffer: `j` counts the plot's frames. -/
def putCampRef (id : Nat) (f : LscFrame) (j : Nat) (vs : List (Int × Bool)) : Act := fun s =>
  Act.seq [memWriteFrom (homeOf id) (s.campBuf id f.channel j) (vs.flatMap fun v => toLe 2 (ofSigned 16 v.1)) (vs.any (·.2)) true,
    updFrame id f.frame fun f => { f with
      refRows := setAt (f.refRows ++ List.replicate (f.channel + 1 - f.refRows.length) 0) f.channel (j + 1) }] s

/-- The next 20 ms frame of a Campion channel whose ŷ is stored goes to its pool buffer. -/
def campPool (id frame : Nat) : Act := fun s =>
  match s.lscFrame id frame with
  | none => []
  | some f => match (s.prog (s.stream id).inst f.shape.prog).bind fun p => p.tensors.map fun w => (p, w) with
    | none => []
    | some e =>
      let j := f.refRows.getD f.channel 0
      let row := 50 * f.channel + j
      if !f.shape.camp ∨ f.nrow ≤ j ∨ !s.rowStored e.1 f.shape id f.frame e.2.1 row then []
      else match allSome (fun a : Nat × Nat => s.tensor e.1 e.2.1 row a.1 a.2) ((span 0 10).flatMap fun q => (span 0 f.shape.latch).map fun k => (q, k)) with
        | none => []
        | some vs => putCampRef id f j vs s

/-! ## The context of a cut, and what it stores -/

/-- The context in which a cut of a program runs. -/
def State.runCx (s : State) (n prog cut stream frame : Nat) : Option RunCx :=
  (s.prog n prog).bind fun p => (p.cut cut).bind fun c => (p.layer c.layer).map fun l =>
    { p := p, li := c.layer, l := l, c := c, seed := (s.stream stream).seed, frame := frame, qs := s.frameQs stream frame,
      anch := s.anchorAt p stream frame, shape := if p.codec then (s.lscFrame stream frame).map (·.shape) else none,
      ref := s.refAt stream frame, lat := s.latAt p stream frame }

/-- One position of a block is stored. -/
def putPos (x : RunCx) (b : BlockAt) (q : Nat) (codes scales : List Nat) (bad : Bool) : Act := fun s =>
  if x.c.role = rolePartial then
    memWrite (partialAddr x.c (wsAddr x.c.dstTile x.c.outAddr) 0 b.row q b.k0) ((codes.map (toLe 8)).flatten) bad false s
  else
    let m := s.mergeCodes (x.outAt b.row q) (fmtWidth x.l.fmtOut) x.l.cout b.k0 codes
    let sa := x.scaleAt b.row q + (if x.p.ogran x.li = 2 then b.k0 / 32 else 0)
    Act.seq [memWrite m.1 m.2 bad false,
      .when (!scales.isEmpty) (memWrite sa (scales.map fun c => BitVec.ofNat 8 c) bad false)] s

/-- A block is stored, position by position. -/
def putBlock (x : RunCx) (b : BlockAt) (o : BlockOut) (bad : Bool) : Act :=
  let ns := if b.nq = 0 then 0 else o.scales.length / b.nq
  .each (List.range b.nq) fun i => putPos x b (b.q0 + i) ((o.codes.drop (i * b.nk)).take b.nk) ((o.scales.drop (i * ns)).take ns) bad

/-- What a poisoned block holds is not specified (R79): free codes in place of those computed. (DESIGN CHOICE, log entry 28) -/
def State.spoilt (s : State) (x : RunCx) (o : BlockOut) : BlockOut :=
  let w := if x.c.role = rolePartial then 64 else fmtWidth x.l.fmtOut
  let free (l : List Nat) (i0 w : Nat) : List Nat := (List.range l.length).map fun i => Config.freeNat (s.draws + i0 + i) % 2 ^ w
  { o with codes := free o.codes 0 w, scales := free o.scales o.codes.length 8 }

/-! ## The context layers in two passes (R49, R124) -/

/-- The layers of the latent path, in record order: all, or those whose output depends on the anchors. -/
def Prog.contextLayers (p : Prog) (all : Bool) : List Nat :=
  p.layers.foldl (fun l e =>
    if e.2.path == 1 && (all || [e.2.src0, e.2.src1].any fun a => a == srcAnchors || l.contains a) then l ++ [e.1] else l) []

/-- One position of a cut's output is made again. -/
def remakeAt (x : RunCx) (r q : Nat) : Act := fun s =>
  let b : BlockAt := { row := r, q0 := q, nq := 1, k0 := x.c.och0, nk := x.c.noch }
  let o := s.blockOut x b
  Act.seq [putBlock x b (if o.bad then s.spoilt x o else o) o.bad, .when o.bad (.eff [.draw (o.codes.length + o.scales.length)])] s

/-- The context of a layer that reads no anchor of its output's own block row. -/
def RunCx.bare (x : RunCx) (camp : Bool) : RunCx :=
  { x with anch := fun ro qo r q k => if (if camp then r == ro else r / 4 == ro / 4) then (0, false) else x.anch ro qo r q k }

/-- Layers of the latent path make again what they have stored of plot `ix` in the block rows from `j0` below `j1`. The means of a
block row's anchors are made before its anchors are decoded (`bare`), those of its other symbols from the decoded anchors.
(DEDUCED, log entry 160) -/
def remake (p : Prog) (id : Nat) (f : LscFrame) (ix j0 j1 : Nat) (all bare : Bool) : Act :=
  .each (p.contextLayers all) fun li => .opt (p.layer li) fun l =>
    let h := f.shape
    let uy := max 1 (pad64 h.height / max 1 l.outH)
    let ux := max 1 (pad64 h.width / max 1 l.outW)
    let rows := if h.camp then span j0 j1 else span (64 * j0 / uy) (64 * j1 / uy)
    let cols := if h.camp then span 0 l.outW else span (h.plotCols ix ux).1 (h.plotCols ix ux).2
    .each (((p.cutsOf li).filter fun e => e.2.role == rolePartial) ++ (p.cutsOf li).filter fun e => e.2.role != rolePartial) fun e =>
      .each rows fun r => .read fun s =>
        let m := r % max 1 l.outH
        let fr := itemFrame h f.frame r l.outH
        .opt (s.runCx (s.stream id).inst p.id e.1 id fr) fun x =>
          .when (e.2.hasRow m && decide (m - e.2.row0 < s.fenceRows e.2.dstTile p.id e.1 id fr))
            (.each (cols.filter e.2.hasCol) (remakeAt (if bare then x.bare h.camp else x) m))

/-- An anchor of the checkerboard (R43, R49). -/
def SymAt.anchor (camp : Bool) (a : SymAt) : Bool := !a.z && (if camp then a.q + a.k else a.r + a.q) % 2 == 0

/-- The state in which the anchors of a block row take their means: the context layers made without the row's own anchors. -/
def State.bareRow (s : State) (p : Prog) (id : Nat) (f : LscFrame) (j : Nat) : State :=
  s.then (.each (f.plots.filter fun g => !f.shape.camp || g.ix == j / 50) fun g =>
    let rs := if f.shape.camp then (j, j + 1) else f.shape.plotRows g.ix 64
    .when (decide (rs.1 ≤ j) && decide (j < rs.2)) (remake p id f g.ix j (j + 1) false true))

/-- The symbols of a block row that an encoder codes, each with its mean and index; none while a value has no place. -/
def State.rowSymbols (s : State) (p : Prog) (w : Nat × Nat × Nat) (id : Nat) (f : LscFrame) (j : Nat) (l : List SymAt) :
    Option (List ((Int × Int × Nat) × Bool)) :=
  let b := s.bareRow p id f j
  allSome (fun a => (if a.anchor f.shape.camp then b else s).symbol p w a) l

/-! ## Costs and quality indices (R61, R62) -/

/-- The cost of a block row in 1/256 bit (R61). -/
def State.rowCost (s : State) (p : Prog) (f : LscFrame) (id : Nat) (w : Nat × Nat × Nat) (r : Nat) : Nat :=
  ((s.rowSymbols p w id f r (rowSyms f.shape r)).getD []).foldl (fun a e => a + symbolCost (p.table e.1.2.2) e.1.1 e.1.2.1) 0

/-- The known costs of the leading rows. -/
def State.rowCosts (s : State) (p : Prog) (f : LscFrame) (id : Nat) (w : Nat × Nat × Nat) : List Nat :=
  let r0 := if f.shape.camp then 50 * f.channel else 0
  ((span r0 (r0 + f.nrow)).takeWhile (s.rowReady p f.shape id f.frame w)).map (s.rowCost p f id w)

/-- The rows of a frame, or of a channel of a Campion plot, that the rate controller has decided, given the costs known
(R62), and whether a clamp occurred among them. A Campion plot runs the law with N = 50 and the full plot's T, since its rows are
decided before a key request can cut it short; what is left of a plot that is cut short only loses its last rows.
(DESIGN CHOICE, log entry 162) -/
def LscFrame.rowsBy (f : LscFrame) (c : Nat) (costs : List Nat) : List Nat × Bool :=
  let n := if f.shape.camp then 50 else f.nrow
  let st := f.start.getD c 0
  if f.mode = 0 then (List.replicate n st, false)
  else
    let r := rateControl n (min n (costs.length + 4)) f.target st f.lo f.hi costs
    (r.1.map Int.toNat, r.2)

/-- The rate controller goes on when the costs of more rows are known. -/
def rateStep (id frame : Nat) : Act := fun s =>
  match s.lscFrame id frame with
  | none => []
  | some f =>
    if f.mode = 0 ∨ f.pathDone then []
    else match (s.prog (s.stream id).inst f.shape.prog).bind fun p => p.tensors.map fun w => (p, w) with
      | none => []
      | some e =>
        let d := f.rowsBy f.channel (s.rowCosts e.1 f id e.2)
        updFrame id f.frame (fun f => { f with
          q := setAt (f.q ++ List.replicate (f.channel + 1 - f.q.length) []) f.channel d.1,
          clamped := f.clamped || d.2 }) s

/-! ## What a decoder's ECE stores (R124, R218) -/

/-- The rows of a cut's band that a decoder's ECE has filled count on the band's fence: of ẑ those whose plots have their ẑ
group decoded, of ŷ those whose plots are decoded or missing. -/
def decFences (id frame : Nat) : Act := fun s =>
  match s.lscFrame id frame with
  | none => []
  | some f => match (s.prog (s.stream id).inst f.shape.prog).bind fun p => p.tensors.map fun w => (p, w) with
    | none => []
    | some (p, w) =>
      let h := f.shape
      let runs := (s.tiles.flatMap fun t => t.2.ece).filter fun e => e.dec && e.stream == id && e.frame == f.frame
      let settledAs (g : PlotSt) : Bool := g.phase == .decoded || (g.phase == .missing && g.zeroed)
      let done (z : Bool) (r : Nat) : Bool :=
        if h.camp then (f.plots.find? fun g => g.ix == (if z then f.channel else f.synChannel)).elim true fun g =>
          settledAs g || (z && runs.any fun e => e.plot == g.ix && decide (0 < e.released))
        else f.plots.all fun g =>
          let rs := h.plotRows g.ix (if z then 64 else 16)
          !(decide (rs.1 ≤ r) && decide (r < rs.2)) || settledAs g || (z && runs.any fun e => e.plot == g.ix && decide (0 < e.released))
      Act.each [(true, w.2.1), (false, w.1)] (fun l =>
        .each ((p.cutsOf l.2).filter fun e => e.2.role != rolePartial) fun e =>
          let n := ((span e.2.row0 (e.2.row0 + e.2.nrow)).takeWhile (done l.1)).length
          let hh := max 1 ((p.layer l.2).elim 1 (·.outH))
          let frames := if h.camp then ((span 0 f.nrow).filter (· % hh == 0)).map (f.frame + ·) else [f.frame]
          updT e.2.dstTile fun c => { c with
            fences := (c.fences.filter fun x => !(x.prog == p.id && x.cut == e.1)) ++ frames.map fun k => ⟨p.id, e.1, id, k, n⟩ }) s

/-- The means of a channel's plot of Campion that is lost are kept as its rows are made: those of the zero latent, in every row.
(DEDUCED, log entry 160) -/
def lostMeans (id frame : Nat) : Act := fun s =>
  match s.lscFrame id frame with
  | none => []
  | some f => match (s.prog (s.stream id).inst f.shape.prog).bind fun p => p.tensors.map fun w => (p, w) with
    | none => []
    | some (p, w) =>
      let h := f.shape
      let c := f.channel
      match f.plots.find? fun g => g.ix == c && g.phase == .missing && g.zeroed with
      | none => []
      | some g => match ((span (50 * c) (50 * c + f.nrow)).filter (s.rowStored p h id f.frame w.2.2)).getLast? with
        | none => []
        | some r =>
          let kept := (g.syms.length - 2 * h.hypch * f.nrow) / max 1 (10 * h.latch)
          match allSome (s.model p w.2.2) (((plotGroups h f.nrow c).drop (1 + 2 * (r - 50 * c))).take 2).flatten with
          | none => []
          | some ms => Act.seq [updFrame id f.frame fun f => { f with plots := f.plots.map fun g => if g.ix = c then
              { g with syms := g.syms ++ (List.replicate (r - 50 * c + 1 - kept) (ms.map fun m => ((0 : Int), m.1, m.2.1))).flatten } else g },
              decFences id f.frame] s

/-! ## Latent taps (R163 to R167) -/

/-- The elements of a map in [row][column][channel] order, each in `w` bytes, and whether any is poisoned. -/
def State.tapMap (s : State) (p : Prog) (li rows cols k0 ks w : Nat) : Option (List Byte × Bool) :=
  (allSome (fun a : Nat × Nat × Nat => s.tensor p li a.1 a.2.1 a.2.2)
    ((span 0 rows).flatMap fun r => (span 0 cols).flatMap fun q => (span k0 (k0 + ks)).map fun k => (r, q, k))).map
    fun l => (l.flatMap fun e => toLe w (ofSigned (8 * w) e.1), l.any (·.2))

/-- The declaration of a tap of a custom program (R164). -/
def Prog.tapDecl (p : Prog) (tap : Nat) : Option Nat :=
  (p.recs.find? fun r => r.typ == recTap && leAt r.data 0 1 == tap).map fun r => leAt r.data 4 4

/-- The bytes of a layer's output in [row][column][channel] order, each position packed. -/
def State.layerBytes (s : State) (p : Prog) (li : Nat) (l : Layer) : Option (List Byte × Bool) :=
  let n := posBytes l.fmtOut l.cout
  (allSome (fun a : Nat × Nat => p.cutAt li a.1 a.2 0) ((span 0 l.outH).flatMap fun r => (span 0 l.outW).map fun q => (r, q))).map
    fun es => (es.flatMap fun e => s.bytes (e.1.outAt e.2.1 e.2.2) n, es.any fun e => s.poisonedIn (e.1.outAt e.2.1 e.2.2) n)

/-- The layer behind a tap, and the rows its map has. -/
def Prog.tapLayer (p : Prog) (h : LscShape) (w : Nat × Nat × Nat) (tap : Nat) : Option (Nat × Nat) :=
  match tap with
  | 0 => some (w.1, h.latH)
  | 1 => some (w.2.1, h.latH / 4)
  | 2 | 3 => some (w.2.2, h.latH)
  | _ => (p.tapDecl tap).bind fun li => (p.layer li).map fun l => (li, l.outH)

/-- The content of a tap frame of video. -/
def State.tapContent (s : State) (p : Prog) (h : LscShape) (w : Nat × Nat × Nat) (tap : Nat) : Option (List Byte × Bool) :=
  match tap with
  | 0 => s.tapMap p w.1 h.latH h.latW 0 h.latch 2
  | 1 => s.tapMap p w.2.1 (h.latH / 4) (h.latW / 4) 0 h.hypch 2
  | 2 => s.tapMap p w.2.2 h.latH h.latW 0 h.latch 2
  | 3 => s.tapMap p w.2.2 h.latH h.latW h.latch h.latch 1
  | _ => (p.tapDecl tap).bind fun li => (p.layer li).bind fun l => s.layerBytes p li l

/-- A learned-codec stream decodes. -/
def State.isDecoding (s : State) (id : Nat) : Bool := s.slive F.ECE_LSCW0_DIR id == 1

/-- The taps that a stream retains. -/
def State.tapsOf (s : State) (id : Nat) : List Nat :=
  if s.slive F.ECE_LSCW4_TAP_EN id = 1 then bitList 8 (s.slive F.ECE_TAPCFG_TAPMASK id) else []

/-- The rows, columns and channels of a tap. -/
def Prog.tapDims (p : Prog) (h : LscShape) (tap : Nat) : Nat × Nat × Nat :=
  if h.camp then (h.channels, if tap = 1 then 2 else 10, if tap = 1 then h.hypch else h.latch)
  else match tap with
    | 1 => (h.latH / 4, h.latW / 4, h.hypch)
    | 0 | 2 | 3 => (h.latH, h.latW, h.latch)
    | _ => ((p.tapDecl tap).bind p.layer).elim (0, 0, 0) fun l => (l.outH, l.outW, l.cout)

/-- A tap frame becomes ready (R165, R166): it is in one of the tap's two copies, which take their turns, where the program's tap
reservation has them, half of the reserved bytes each. (DEDUCED, log entry 153) -/
def putTap (id tap frame keyAt : Nat) (dims : Nat × Nat × Nat) (bytes : List Byte) (bad : Bool) : Act := fun s =>
  let x := s.stream id
  let turn := ((x.lsc.taps.filter (·.tap == tap)).getLast?).elim 0 fun t => 1 - t.turn
  let place := ((s.prog x.inst (s.slive F.ECE_LSCW7_PROG_ID id)).bind fun p => p.tapSpace.find? (·.1 == tap)).map fun w =>
    wsAddr w.2.1 (w.2.2.1 + turn * (w.2.2.2 / 2))
  Act.seq [.opt place fun a => memWrite a bytes bad false,
    updLsc id fun l => { l with taps := l.taps ++ [⟨tap, frame, keyAt, dims, bytes, bad, turn, place⟩] },
    setS F.ECE_TAPSTAT_READYFRAME id frame, countS F.ECE_TAPCNT_READY id 1] s

/-- The content of a tap frame that is readable, and whether it is poisoned: its copy in the working store, where it has one. -/
def State.tapRead (s : State) (t : TapFrame) : List Byte × Bool :=
  t.place.elim (t.bytes, t.bad) fun a => (s.bytes a t.bytes.length, s.poisonedIn a t.bytes.length)

/-- The taps of a video frame among `taps` whose values are complete become ready; `force` where the caller knows they
are. -/
def tapStep (id frame : Nat) (taps : List Nat) (force : Bool) : Act := fun s =>
  match s.lscFrame id frame with
  | none => []
  | some f =>
    if f.shape.camp then []
    else match (s.prog (s.stream id).inst f.shape.prog).bind fun p => p.tensors.map fun w => (p, w) with
      | none => []
      | some e => Act.each ((s.tapsOf id).filter fun n => taps.contains n &&
          !((s.stream id).lsc.taps.any fun t => t.tap == n && t.frame == frame) &&
          (force || (e.1.tapLayer f.shape e.2 n).elim false fun l => (span 0 l.2).all (s.rowStored e.1 f.shape id f.frame l.1)))
          (fun n => fun s => match s.tapContent e.1 f.shape e.2 n with
            | some c => putTap id n frame f.keyAt (e.1.tapDims f.shape n) c.1 c.2 s
            | none => []) s

/-- The symbols of an audio channel's ŷ in one 20 ms frame of a plot, [position][channel]. -/
def PlotSt.gridY (p : PlotSt) (h : LscShape) (nrow j : Nat) : List (Int × Int × Nat) :=
  let ys := (p.syms.drop (2 * h.hypch * nrow + 10 * h.latch * j)).take (10 * h.latch)
  let order : List (Nat × Nat) := [0, 1].flatMap fun par => (span 0 10).flatMap fun x =>
    ((span 0 h.latch).filter fun k => (x + k) % 2 == par).map fun k => (x, k)
  ((order.zip ys).mergeSort fun a b => a.1.1 * h.latch + a.1.2 ≤ b.1.1 * h.latch + b.1.2).map (·.2)

/-- A tap of one 20 ms frame of a Campion plot, all channels. -/
def LscFrame.campTap (f : LscFrame) (tap j : Nat) : List Byte := f.plots.flatMap fun p => match tap with
  | 1 => ((p.syms.drop (2 * f.shape.hypch * j)).take (2 * f.shape.hypch)).flatMap fun v => toLe 2 (ofSigned 16 v.1)
  | 0 => (p.gridY f.shape f.nrow j).flatMap fun v => toLe 2 (ofSigned 16 v.1)
  | 2 => (p.gridY f.shape f.nrow j).flatMap fun v => toLe 2 (ofSigned 16 v.2.1)
  | _ => (p.gridY f.shape f.nrow j).flatMap fun v => toLe 1 v.2.2

/-- The values of the channel whose turn it is, as its rows stand in the working store, and whether one is poisoned. -/
def State.campRowTap (s : State) (p : Prog) (h : LscShape) (w : Nat × Nat × Nat) (tap row : Nat) : Option (List Byte × Bool) :=
  let li := if tap = 0 then w.1 else if tap = 1 then w.2.1 else w.2.2
  let n := if tap = 3 then 1 else 2
  (allSome (fun a : Nat × Nat => s.tensor p li row a.1 a.2) ((span 0 (if tap = 1 then 2 else 10)).flatMap fun q =>
    (span (if tap = 3 then h.latch else 0) (if tap = 3 then 2 * h.latch else if tap = 1 then h.hypch else h.latch)).map fun k =>
      (q, k))).map fun l => (l.flatMap fun e => toLe n (ofSigned (8 * n) e.1), l.any (·.2))

/-- The tap frames of a Campion plot, one for each 20 ms frame, of all channels (R166): an encoder's as the last channel's layers
complete for it, a decoder's once every plot is decoded. -/
def tapCampion (id frame : Nat) : Act := fun s =>
  match s.lscFrame id frame with
  | none => []
  | some f => match (s.prog (s.stream id).inst f.shape.prog).bind fun p => p.tensors.map fun w => (p, w) with
    | none => []
    | some (p, w) =>
      let h := f.shape
      let c := f.channel
      let row (t j : Nat) : Option (List Byte × Bool) :=
        if !h.camp then none
        else if h.channels ≤ c then some (f.campTap t j, false)
        else if s.isDecoding id ∨ c + 1 ≠ h.channels ∨
            !s.rowStored p h id f.frame (if t = 0 then w.1 else if t = 1 then w.2.1 else w.2.2) (50 * c + j) then none
        else (s.campRowTap p h w t (50 * c + j)).map fun e =>
          ({ f with plots := f.plots.take c }.campTap t j ++ e.1, e.2)
      Act.each (((span 0 f.nrow).flatMap fun j => ((s.tapsOf id).filter (· < 4)).map fun t => (t, j)).filter fun e => !f.tapped.contains e)
        (fun e => .opt (row e.1 e.2) fun b => .seq
          [putTap id e.1 ((f.frame + e.2) % 2 ^ 32) f.frame (p.tapDims h e.1) b.1 b.2,
           updFrame id f.frame fun f => { f with tapped := f.tapped ++ [e] }]) s

end Sys2Proof.Machine
end

