-- ==== Sys2Proof/Machine/Recon.lean ====
section
/-! DEFINITION. Reconstructions (R45, R58, R539): where the synthesis leaves its samples, and how they stand in an output
buffer: a plane of luma, then one of interleaved chroma, rows on 64-byte boundaries, as decoded pictures stand in one. -/
namespace Sys2Proof.Machine

/-- The channels that a depth-to-space cut leaves at input resolution (R211). -/
def RunCx.rest (x : RunCx) : Nat := x.l.cin - max 1 x.l.factor * max 1 x.l.factor * x.l.cout

/-- Where a position's vector of those channels is stored. -/
def RunCx.restAt (x : RunCx) (r q : Nat) : Nat :=
  wsAddr x.c.dstTile x.c.lbAddr + (r - x.c.row0 / max 1 x.l.factor) * rowBytes x.l.fmtOut x.rest x.l.inW +
    q * posBytes x.l.fmtOut x.rest

/-- A chroma sample of a 4:2:0 reconstruction. -/
def State.restSample (s : State) (p : Prog) (li r q k : Nat) : Option (Int × Bool) :=
  (p.layer li).bind fun l =>
    let f := max 1 l.factor
    ((p.cutsOf li).find? fun e => e.2.role != rolePartial && e.2.och0 == 0 && e.2.hasRow (r * f) && e.2.hasCol (q * f)).map
      fun e =>
        let x : RunCx := { p := p, li := li, l := l, c := e.2 }
        let v := s.elem (x.restAt r q) (fmtWidth l.fmtOut) k
        (intCode l.fmtOut v.1, v.2)

/-- One row of samples, each in `w` bytes, and whether any is poisoned. -/
def sampleRow (w : Nat) (l : List (Int × Bool)) : List Byte × Bool := (l.flatMap fun e => toLe w (ofSigned (8 * w) e.1), l.any (·.2))

/-- The rows of a picture's reconstruction, cropped to its size (R45). -/
def State.reconRows (s : State) (p : Prog) (h : LscShape) : Option (List (List Byte × Bool)) :=
  p.sLayer.bind fun li =>
    let w := if h.bits ≤ 8 then 1 else 2
    let row (f : Nat × Nat → Option (Int × Bool)) (n : Nat) (ks : List Nat) : Option (List Byte × Bool) :=
      (allSome f ((span 0 n).flatMap fun q => ks.map fun k => (q, k))).map (sampleRow w)
    (allSome (fun r => row (fun e => s.tensor p li r e.1 e.2) h.width [0]) (span 0 h.height)).bind fun y =>
      (if h.chroma = 0 then some []
       else if h.chroma = 1 then
        allSome (fun r => row (fun e => s.restSample p li r e.1 e.2) (h.width / 2) [0, 1]) (span 0 (h.height / 2))
       else allSome (fun r => row (fun e => s.tensor p li r e.1 e.2) h.width [1, 2]) (span 0 h.height)).map fun c => y ++ c

/-- The samples of one 20 ms frame of an audio channel. (DEDUCED, log entry 79) -/
def State.campRow (s : State) (p : Prog) (h : LscShape) (r : Nat) : Option (List Byte) :=
  p.sLayer.bind fun li => (p.layer li).bind fun l =>
    (allSome (fun e : Nat × Nat => s.tensor p li r e.1 e.2)
      ((span 0 l.outW).flatMap fun q => (span 0 l.cout).map fun k => (q, k))).map fun v => (sampleRow (h.bits / 8) v).1

/-- The next 20 ms frame of a Campion plot's reconstruction is kept once it is stored; the channels take their turns. -/
def reconStep (id frame : Nat) : Act := fun s =>
  match s.lscFrame id frame with
  | none => []
  | some f =>
    if !f.shape.camp then []
    else
      let c := f.synChannel
      let r := 50 * c + (f.recon.length - c * f.nrow)
      match s.prog (s.stream id).inst f.shape.prog with
      | none => []
      | some p =>
        if f.shape.channels * f.nrow ≤ f.recon.length ∨ !(p.sLayer.elim false fun li => s.rowStored p f.shape id f.frame li r) then []
        else match s.campRow p f.shape r with
          | some b => Act.seq [updFrame id f.frame fun f => { f with recon := f.recon ++ [b] },
            .when (s.isDecoding id && (f.recon.length + 1) % max 1 f.nrow == 0) (decFences id f.frame)] s
          | none => []

/-- The reconstruction of a frame is complete in memory. -/
def State.reconDone (s : State) (p : Prog) (f : LscFrame) (id : Nat) : Bool :=
  if f.shape.camp then decide (f.shape.channels * f.nrow ≤ f.recon.length)
  else p.sLayer.elim false fun li => (span 0 ((p.layer li).elim 0 (·.outH))).all (s.rowStored p f.shape id f.frame li)

/-- A frame's reconstruction as it stands in an output buffer, without its row padding, and whether it is poisoned. -/
def State.recon (s : State) (p : Prog) (f : LscFrame) : List Byte × List Byte × Bool :=
  if f.shape.camp then (f.recon.flatten, f.recon.flatten, false)
  else match s.reconRows p f.shape with
    | none => ([], [], false)
    | some rs =>
      (rs.flatMap fun r => r.1 ++ List.replicate (cdiv r.1.length 64 * 64 - r.1.length) 0, rs.flatMap (·.1), rs.any (·.2))

end Sys2Proof.Machine
end

