-- ==== Sys2Proof/Machine/Access.lean ====
section
/-! DEFINITION. Register access: where a register is found (R514, R516, R517, R530), who reaches it (R469, R504, R517 to
R520, R30), and how a refused access is recorded (R535). -/
namespace Sys2Proof.Machine

/-! ## Where registers are -/

/-- The block at an offset of a tile window (R516). -/
def blkAt (o : Nat) : Option Blk :=
  match o / 0x80000 with
  | 0 => some .MGT | 2 => some .ARR | 3 => some .SFU | 4 => some .ECE | 5 => some .SCE | 6 => some .SMV
  | 7 => some .BAL | 8 => some .MEM | 9 => some .YRD | 10 => some .LNK | 11 => some .ING | 12 => some .FXG
  | 13 => some .PRT | 14 => some .SNP | 15 => some .HSP | _ => none

/-- The register at an offset of a block, with the entry it names (R537). -/
def locate (b : Blk) (off : Nat) : Option (Reg × Nat) :=
  Reg.all.findSome? fun r =>
    let p := r.place
    if p.blk = b ∧ p.off ≤ off then
      (if p.count = 1 then (if off = p.off then some (r, 0) else none)
       else if (off - p.off) % p.stride = 0 ∧ (off - p.off) / p.stride < p.count then some (r, (off - p.off) / p.stride)
       else none)
    else none

/-- The field of a select register that names the slot, instance or function (R530). -/
def selField : Reg → Fld
  | .ECE_LSCSEL => F.ECE_LSCSEL_SLOT | .SCE_SSEL => F.SCE_SSEL_SLOT | .SMV_SSEL => F.SMV_SSEL_SLOT
  | .LNK_SSEL => F.LNK_SSEL_SLOT | .ING_SSEL => F.ING_SSEL_SLOT | .FXG_HDSEL => F.FXG_HDSEL_SLOT
  | .SNP_DGSEL => F.SNP_DGSEL_SLOT | .PRT_ISEL => F.PRT_ISEL_INST | _ => F.LNK_HWSEL_FUNC

/-- The tile number under which a register of the window of tile `t` stands; none where the register acts on another
tile (R517). -/
def State.keyTile (s : State) (r : Reg) (t : Nat) : Option Nat :=
  match r.place.home with
  | .tile => some t
  | .pkg => if t = pkgTile ∨ s.get F.MGT_TILEROLE_BOOTMASTER t 0 = 1 then some pkgTile else none
  | .fixed u => if t = u then some u else none

/-- The index a requester's access reaches: the entry the offset names, or what its own select names (R530). -/
def State.keyIx (s : State) (q : Requester) (r : Reg) (t e : Nat) : Nat :=
  match r.place.ix with
  | .none => 0
  | .addr => e
  | .sel sr => s.get (selField sr) t q.copy
  | .selAddr sr => s.get (selField sr) t q.copy * r.place.count + e
  | .select => q.copy

/-- The boot master's tile (R29). -/
def State.bootTile (s : State) : Nat := ((List.range 64).find? fun t => s.get F.MGT_TILEROLE_BOOTMASTER t 0 == 1).getD 0

/-! ## Refused accesses -/

/-- The error register of a block, and its count (R535). -/
def Blk.errReg : Blk → Reg × Reg
  | .GLB => (.MGT_GREGERR, .MGT_GREGERRCNT) | .MGT => (.MGT_REGERR, .MGT_REGERRCNT)
  | .ARR => (.ARR_REGERR, .ARR_REGERRCNT) | .SFU => (.SFU_REGERR, .SFU_REGERRCNT)
  | .ECE => (.ECE_REGERR, .ECE_REGERRCNT) | .SCE => (.SCE_REGERR, .SCE_REGERRCNT)
  | .SMV => (.SMV_REGERR, .SMV_REGERRCNT) | .BAL => (.BAL_REGERR, .BAL_REGERRCNT)
  | .MEM => (.MEM_REGERR, .MEM_REGERRCNT) | .YRD => (.YRD_REGERR, .YRD_REGERRCNT)
  | .LNK => (.LNK_REGERR, .LNK_REGERRCNT) | .ING => (.ING_REGERR, .ING_REGERRCNT)
  | .FXG => (.FXG_REGERR, .FXG_REGERRCNT) | .PRT => (.PRT_REGERR, .PRT_REGERRCNT)
  | .SNP => (.SNP_REGERR, .SNP_REGERRCNT) | .HSP => (.HSP_REGERR, .HSP_REGERRCNT)

/-- The causes of R535. -/
def causeRange : Nat := 1
def causeState : Nat := 2
def causeRsvd : Nat := 3
def causeUndef : Nat := 4
def causeWidth : Nat := 5
def causeAccess : Nat := 6
def causeTable : Nat := 7

/-- A refusal is recorded in the block's error register: the lowest cause of the access, and the count advanced by the
number of refusals (R535). The package's own registers stand in their block of the boot master's window. -/
def regErr (b : Blk) (t : Nat) (q : Requester) (off : Nat) (causes : List Nat) : Act := fun s =>
  match causes.min? with
  | none => []
  | some c =>
    let r := b.errReg
    let t := if b = .HSP ∨ b = .GLB then pkgTile else if t = pkgTile then s.bootTile else t
    [.fld ⟨r.1, 31, 31⟩ t 0 1, .fld ⟨r.1, 25, 22⟩ t 0 c, .fld ⟨r.1, 21, 19⟩ t 0 q.code,
     .fld ⟨r.1, 18, 2⟩ t 0 (off / 4),
     .fld ⟨r.2, 31, 0⟩ t 0 (satAdd (2 ^ 32 - 1) (s.get ⟨r.2, 31, 0⟩ t 0) causes.length)]

/-- A refusal at a register. -/
def regErrAt (r : Reg) (t : Nat) (q : Requester) (cause : Nat) : Act := fun s =>
  regErr r.place.blk t q (r.place.off) [cause] s

/-! ## Who reaches what -/

/-- How an access meets its register: it is carried out; it reads zero and discards its write without a record (R30,
R517); it is refused and recorded (R520, R535); Hasp refuses it (R504); or it completes with `ST_BAD_DESC` (R370, R518). -/
inductive Reach where
  | ok | silent | refused | locked | fail
  deriving DecidableEq, Repr

/-- The instance of a virtual function (R369). -/
def instOfVf (k : Nat) : Nat := k - 1

/-- A block and offset a virtual function reaches in a tile of its instance (R520). (DEDUCED, log entry 24) -/
def vfReaches (b : Blk) (off : Nat) : Bool :=
  match b with
  | .ARR | .SFU | .ECE | .SCE | .SMV | .FXG => true
  | .ING => decide (0x10000 ≤ off)
  | .LNK => decide (0x10000 ≤ off) && decide (off ≤ 0x10018)
  | .SNP => decide (0x100 ≤ off) && decide (off ≤ 0x10C)
  | _ => false

/-- The management register set (R469), with the error registers of every block (R535). -/
def mgtSet (b : Blk) (off : Nat) : Bool :=
  match b with
  | .GLB => decide (off < 0x100) || (decide (0x10000 ≤ off) && decide (off < 0x10800))
  | .MGT => decide (off < 0x1000)
  | _ => off == 0xFF0 || off == 0xFF4

/-- Hasp is open with a scope bit (R509). -/
def State.haspScope (s : State) (bit : Nat) : Bool :=
  s.get F.HSP_STAT_OPEN pkgTile 0 == 1 && bitOf (s.get F.HSP_STAT_SCOPE pkgTile 0) bit

/-- What Hasp keeps closed (R504, R509, R510): the JTAG port without scope JTAG, the raw window without scope VIEW, and
`HSP_ACT` without scope ACT or DEFECT. (DEDUCED, log entry 24) -/
def State.haspAllows (s : State) (q : Requester) (b : Blk) (off : Nat) : Bool :=
  (q != .jtag || s.haspScope 0) &&
  (!(b == .SNP && (off == 0x200 || off == 0x204)) || s.haspScope 1) &&
  (!(b == .HSP && off == 0x84) || s.haspScope 3 || s.haspScope 2)

/-- The stage in progress (R445). -/
def State.stage (s : State) : Nat := s.get F.MGT_BOOTSTAT_STAGE pkgTile 0

/-- A tile window that answers: one of a tile in service, or any until S2 has found which are (R32, R455).
(DEDUCED, log entry 23) -/
def State.windowUp (s : State) (t : Nat) : Bool :=
  s.pkg.aonSt.s0 && (t == pkgTile || s.inService t || (decide (t < 64) && s.get F.MGT_PARTID_TILES_OK pkgTile 0 == 0))

/-- The management register set answers I3C: the package's registers from S0, and the boot master's own from its election.
(DEDUCED, log entry 24) -/
def State.i3cUp (s : State) (b : Blk) : Bool :=
  b == .GLB || (List.range 64).any fun t => s.get F.MGT_TILEROLE_BOOTMASTER t 0 == 1

/-- How an access of a requester to an offset of a block of tile `t` (64: the package-global region) is met. Nothing answers
before S0; the host's functions and Movon reach registers from S9 (R444, R469). (DEDUCED, log entry 23) -/
def State.reach (s : State) (q : Requester) (t : Nat) (b : Blk) (off : Nat) (write : Bool) : Reach :=
  if !s.windowUp t then .fail
  else if !s.haspAllows q b off then .locked
  else match q with
    | .fw c =>
      if t = pkgTile then (if write then .fail else .ok)
      else if s.owner t = none ∨ s.owner t ≠ s.owner (c / 4) then .fail
      else if write ∧ (b = .PRT ∨ b = .HSP) then .refused else .ok
    | .vf k =>
      if t = pkgTile ∨ s.owner t ≠ some (instOfVf k) ∨ s.stage ≠ 9 then .fail
      else if vfReaches b off then .ok else .refused
    | .movon => if mgtSet b off ∧ s.stage = 9 then .ok else .fail
    | .i3c => if mgtSet b off ∧ s.i3cUp b then .ok else .fail
    | .pf => if s.stage = 9 then .ok else .fail
    | .hw => .refused
    | _ => .ok

/-- The tile carries an interface of the link block: lanes, the Paddock lane, PCIe or management Ethernet (R387).
(DEDUCED, log entry 25) -/
def State.hasLnk (s : State) (t : Nat) : Bool :=
  s.get F.MGT_TILEROLE_LANES t 0 == 1 || s.get F.MGT_TILEROLE_PADDOCK t 0 == 1 || s.get F.MGT_TILEROLE_PCIE t 0 == 1 ||
  s.get F.MGT_TILEROLE_BOOTCAND t 0 == 1

/-- The tile has the bonding that the block's registers at an offset need (R30, R536). The error registers of a block that is held
in reset read zero with its others, though refusals at the per-stream registers of the block are recorded in them.
(DESIGN CHOICE, log entry 161) -/
def State.bonded (s : State) (t : Nat) (b : Blk) (off : Nat) : Bool :=
  match b with
  | .LNK => decide (0x10000 ≤ off) || s.hasLnk t
  | .MEM => !(decide (0x30 ≤ off) && decide (off < 0x40)) || s.get F.MGT_TILEROLE_HBM t 0 == 1
  | .SMV => off != 0xC || s.get F.MGT_TILEROLE_HBM t 0 == 1
  | .ING => decide (0x10000 ≤ off) || s.get F.MGT_TILEROLE_LANES t 0 == 1
  | _ => true

/-- Hasp refuses an access: it reads zero or discards its write, `HSP_LAST` records `ST_LOCKED`, the refusal is counted
and recorded with cause ACCESS (R504, R535). -/
def lockedAct (b : Blk) (t : Nat) (q : Requester) (off : Nat) : Act := .seq
  [setF F.HSP_LAST_STATUS pkgTile 0x0501, count F.HSP_CNT_DENIED pkgTile 1, regErr b t q off [causeAccess],
   emit (.reply q 0 0x0501)]

/-- The key tile and index that an access reaches; none where it is turned away. (DEDUCED, log entry 25) -/
def State.lands (s : State) (q : Requester) (t : Nat) (r : Reg) (e : Nat) (write : Bool) : Option (Nat × Nat) :=
  if s.reach q t r.place.blk (r.place.off + e * r.place.stride) write = .ok ∧
      (t = pkgTile ∨ s.bonded t r.place.blk (r.place.off + e * r.place.stride) = true) then
    (s.keyTile r t).map fun kt => (kt, s.keyIx q r kt e)
  else none

/-- The access of a requester to a register, with its index, or how it is turned away. `k` carries it out at the key
tile and index. -/
def accessReg (q : Requester) (t : Nat) (r : Reg) (e : Nat) (write : Bool) (k : Nat → Nat → Act) : Act := fun s =>
  let b := r.place.blk
  let off := r.place.off + e * r.place.stride
  match s.reach q t b off write with
  | .fail => emit (.reply q 0 0x0104) s
  | .locked => lockedAct b t q off s
  | .refused => Act.seq [regErr b t q off [causeAccess], emit (.reply q 0 0)] s
  | .silent => emit (.reply q 0 0) s
  | .ok =>
    if t ≠ pkgTile ∧ !s.bonded t b off then emit (.reply q 0 0) s
    else match s.keyTile r t with
      | none => emit (.reply q 0 0) s
      | some kt => k kt (s.keyIx q r kt e) s

/-- A write that has a row of its own: the access is judged, then the write is carried out. -/
def writeReg (q : Requester) (t : Nat) (r : Reg) (e : Nat) (k : Nat → Nat → Act) : Act := accessReg q t r e true k

end Sys2Proof.Machine
end

