-- ==== Sys2Proof/Machine/Watch.lean ====
section
/-! DEFINITION. Snapshot triggers (R500 to R502) and the end of a command: when a command makes the error bit of a
watched block rise, or carries a watched counter over its threshold, the boot master takes the trigger at once. -/
namespace Sys2Proof.Machine

/-- The error bits of a block (R500, R535), in the block order of `SNP_ERRMASK` (R512). -/
def blockErrBits : List (List Fld) :=
  [[⟨.MGT_REGERR, 31, 31⟩],
   [⟨.ARR_ERRSTAT, 31, 31⟩, ⟨.ARR_REGERR, 31, 31⟩],
   [⟨.SFU_ERRSTAT, 31, 31⟩, ⟨.SFU_REGERR, 31, 31⟩],
   [⟨.ECE_ERRSTAT, 31, 31⟩, ⟨.ECE_REGERR, 31, 31⟩],
   [⟨.SCE_ERRSTAT, 31, 31⟩, ⟨.SCE_REGERR, 31, 31⟩],
   [⟨.SMV_ERRSTAT, 31, 31⟩, ⟨.SMV_REGERR, 31, 31⟩],
   [⟨.BAL_ERRSTAT, 31, 31⟩, ⟨.BAL_REGERR, 31, 31⟩],
   [⟨.MEM_ERRSTAT, 31, 31⟩, ⟨.MEM_REGERR, 31, 31⟩],
   [⟨.YRD_ERRSTAT, 31, 31⟩, ⟨.YRD_REGERR, 31, 31⟩],
   [⟨.LNK_ERRSTAT, 31, 31⟩, ⟨.LNK_REGERR, 31, 31⟩],
   [⟨.ING_REGERR, 31, 31⟩],
   [⟨.FXG_REGERR, 31, 31⟩],
   [⟨.PRT_ERRSTAT, 31, 31⟩, ⟨.PRT_REGERR, 31, 31⟩],
   [⟨.SNP_REGERR, 31, 31⟩],
   [⟨.HSP_REGERR, 31, 31⟩]]

/-- The key tile of a register as tile `t` shows it: the package's registers are the boot master's. -/
def State.shownAt (s : State) (r : Reg) (t : Nat) : Nat := (s.keyTile r t).getD t

/-- An error bit of a watched block of tile `t` rose from `s` to `u`. (DEDUCED, log entry 142) -/
def errRose (s u : State) (t : Nat) : Bool :=
  let m := s.get F.SNP_ERRMASK_BLK t 0
  (blockErrBits.zipIdx.any fun e => bitOf m e.2 && e.1.any fun f =>
    s.get f (s.shownAt f.reg t) 0 == 0 && u.get f (u.shownAt f.reg t) 0 == 1)

/-- The register that the threshold of a tile names (R500), in the package manager's view of a selected slot. -/
def State.thReg (s : State) (t : Nat) : Option RegKey :=
  let o := 4 * s.get F.SNP_THADDR_OFS t 0
  if o = 0 then none
  else match blkAt o with
    | none => none
    | some b => match locate b (o % 0x80000) with
      | none => none
      | some (r, e) =>
        if r.fields.any (fun f => f.acc == .rc && f.coll == .mrg) then
          (s.keyTile r t).map fun kt => ⟨r, kt, s.keyIx .pm r kt e⟩
        else none

/-- The watched counter of tile `t` passed its threshold from `s` to `u`. -/
def thPassed (s u : State) (t : Nat) : Bool :=
  match s.thReg t with
  | none => false
  | some k =>
    let v := s.get F.SNP_THVAL_VAL t 0
    decide ((s.reg k.reg k.tile k.ix).toNat < v) && decide (v ≤ (u.reg k.reg k.tile k.ix).toNat)

/-- The sources of `SNP_SRC` (R512). -/
def srcPin : Nat := 1
def srcWr : Nat := 2
def srcErr : Nat := 4
def srcThr : Nat := 8

/-- A trigger reaches the boot master with its event time (R501, R502): it joins a pending latch whose T it does not
pass; else it starts a latch 2,000 ns after the event when every tile in service is armed, and is counted as missed
otherwise. (DEDUCED, log entry 142) -/
def trigger (src : Nat) (tile : Option Nat) (ev : Nat) : Act := fun s =>
  match s.pkg.snapT with
  | some T =>
    if ev ≤ T then
      [.pkg fun p => { p with snapSrc := p.snapSrc ||| src, snapTile := p.snapTile.or tile }]
    else count F.SNP_CNT_MISSED pkgTile 1 s
  | none =>
    if (List.range 64).all fun t => !s.inService t || s.get F.SNP_CTL_ARM t 0 == 1 then
      [.pkg fun p => { p with snapT := some (ev + 2000), snapSrc := src, snapTile := tile }]
    else count F.SNP_CNT_MISSED pkgTile 1 s

/-- The triggers that a command from `s` to the present state raises. Nothing is watched while `SNP_SRC` enables neither
error events nor thresholds. (DEDUCED, log entry 142) -/
def snapWatch (s : State) : Act :=
  let e := s.get F.SNP_SRC_ERR pkgTile 0 == 1
  let h := s.get F.SNP_SRC_THR pkgTile 0 == 1
  .when (e || h) fun u =>
    Act.each (List.range 64) (fun t => .seq
      [.when (e && errRose s u t) (trigger srcErr (some t) s.now),
       .when (h && thPassed s u t) (trigger srcThr (some t) s.now)]) u

/-- The meaning of a command that is the step `a`: a next state, always. (DEDUCED, log entry 1) -/
def done (a : Act) (s : State) : Host.Outcome State Fault Refusal := .next (s.then (.seq [a, snapWatch s]))

end Sys2Proof.Machine
end

