-- ==== Sys2Proof/Machine/Records.lean ====
section
/-! DEFINITION. Outgoing Movon messages (R373 to R380), completion records and their rings (R318 to R321, R371), and the
completion of accepted requests with their replay windows (R316, R317). -/
namespace Sys2Proof.Machine

/-- The link block records an error (R387). -/
def lnkErr (t code stream port : Nat) : Act :=
  blockErr F.LNK_ERRSTAT_ERR F.LNK_ERRSTAT_CODE F.LNK_ERRCNT_COUNT t code
    [(F.LNK_ERRSTAT_STREAM, stream), (F.LNK_ERRSTAT_PORT, port)]

/-! ## Sending Movon messages -/

/-- A peer's state. -/
def State.peer (s : State) (e : Nat) : MvPeer := mapGet id {} s.pkg.peers e

/-- A change of a peer. -/
def updPeer (e : Nat) (f : MvPeer → MvPeer) : Act :=
  updP fun p => { p with peers := mapPut id {} p.peers e (f (mapGet id {} p.peers e)) }

/-- A change of one link of a peer. -/
def updLink (e p : Nat) (f : MvLink → MvLink) : Act :=
  updPeer e fun r => { r with links := setAt r.links p (f (r.links.getD p {})) }

/-- The message types of R374. -/
def mtReq : Nat := 1
def mtCpl : Nat := 2
def mtOsf : Nat := 3
def mtWrite : Nat := 4
def mtResp : Nat := 5
def mtLate : Nat := 6
def mtDir : Nat := 7
def mtProbe : Nat := 8
def mtLinkAck : Nat := 9

/-- The bytes of a Movon frame (R373): the header, big-endian, the fragment and the CRC-32C over both.
(DEDUCED, log entry 107) -/
def mvBytes (mtype flags path lseq lack src dst inst epoch msgid msglen foff stream : Nat) (frag : List Byte) : List Byte :=
  let b := toBe 1 1 ++ toBe 1 mtype ++ toBe 1 flags ++ toBe 1 path ++ toBe 4 lseq ++ toBe 4 lack ++ toBe 1 src ++
    toBe 1 dst ++ toBe 1 inst ++ toBe 1 epoch ++ toBe 4 msgid ++ toBe 4 msglen ++ toBe 4 foff ++ toBe 2 stream ++
    toBe 2 frag.length ++ frag
  b ++ toBe 4 (crc32c b)

/-- This device's endpoint number (R383). -/
def State.devNum (s : State) : Nat := s.get F.LNK_MVCFG_DEVNUM pkgTile 0

/-- The fragments of a message: 8,192 bytes each but the last, and one empty fragment of an empty message (R373).
(DEDUCED, log entry 107) -/
def fragments (p : List Byte) : List (Nat × List Byte) :=
  (List.range (max 1 (cdiv p.length 8192))).map fun i => (8192 * i, (p.drop (8192 * i)).take 8192)

/-- The interface of a port and VLAN (R349). -/
def State.iface (s : State) (port vlan : Nat) : Option NetIface := s.pkg.ifaces.find? fun i => i.port == port && i.vlan == vlan

/-- Where a datagram to an address is sent: to a destination on the link itself, else to the interface's gateway (R349). -/
def nextHop (i : NetIface) (v6 : Bool) (dst : Nat) : Nat :=
  if v6 then (if dst / 2 ^ (128 - i.len6) = i.ip6 / 2 ^ (128 - i.len6) then dst else i.gw6)
  else if dst / 2 ^ (32 - i.len4) = i.ip4 / 2 ^ (32 - i.len4) then dst else i.gw4

/-- The address that the frames of a path of a peer are sent to, from a port. -/
def State.hopFrom (s : State) (e p port : Nat) : Nat :=
  let r := s.peer e
  let c := r.paths.getD p {}
  if r.enc = 0 then c.mac else (s.iface port c.vlan).elim c.addr fun i => nextHop i (r.enc == 2) c.addr

/-- The address that the frames of a path of a peer are sent to. -/
def State.pathVia (s : State) (e p : Nat) : Nat := s.hopFrom e p ((s.peer e).paths.getD p {}).port

/-- The frames of a message go out on a path, and each is kept until it is acknowledged (R376). -/
def mvPut (e path : Nat) (m : MvMsg) : Act := .each (fragments m.payload) fun f => .read fun s =>
  let l := (s.peer e).links.getD path {}
  let bs := mvBytes m.mtype (b2n m.poison) path l.tx l.rx s.devNum e m.inst m.epoch m.id m.payload.length f.1 m.stream f.2
  .seq [updLink e path fun l => { l with tx := (l.tx + 1) % 2 ^ 32, unacked := l.unacked ++ [⟨l.tx, m.id, f.1, bs, 0, m.dscp⟩] },
        emit (.movon e path (s.pathVia e path) m.dscp bs)]

/-- The lowest-numbered path of a peer that is up, other than those given (R380). -/
def State.pathUp (s : State) (e : Nat) (not : List Nat) : Option Nat :=
  (List.range (s.peer e).paths.length).find? fun p => ((s.peer e).links.getD p {}).up && !not.contains p

/-- A message is sent to an endpoint (R379, R380) and waits for its `RESP`, unless it is of a type that nothing answers.
With Movon off, the peer off or no path up it is not sent, and `fail` says what then happens (`ST_LINK_DOWN`). -/
def mvSendAs (dscp e mtype inst epoch stream : Nat) (payload : List Byte) (poison : Bool) (ctx : MvCtx) (fail : Act) : Act :=
  fun s =>
    let r := s.peer e
    match (if s.get F.LNK_MVCFG_EN pkgTile 0 = 1 ∧ r.kind ≠ 0 then s.pathUp e [] else none) with
    | none => fail s
    | some path =>
      let m : MvMsg := ⟨s.pkg.nextMsg, mtype, path, inst, epoch, stream, payload, poison, false, ctx, dscp⟩
      Act.seq [updP fun p => { p with nextMsg := (p.nextMsg + 1) % 2 ^ 32 },
        .when (mtype != mtResp && mtype != mtProbe && mtype != mtLinkAck)
          (updPeer e fun r => { r with msgs := r.msgs ++ [m] }),
        mvPut e path m] s

/-- A message under DSCP 0. -/
def mvSend (e mtype inst epoch stream : Nat) (payload : List Byte) (poison : Bool) (ctx : MvCtx) (fail : Act) : Act :=
  mvSendAs 0 e mtype inst epoch stream payload poison ctx fail

/-! ## Records -/

/-- The bytes of a completion record (R318). -/
def Cpl.bytes (c : Cpl) (phase : Bool) : List Byte :=
  toLe 8 c.ptime ++ toLe 8 c.digest ++ toLe 4 c.seq ++ toLe 2 c.stream ++ toLe 2 c.status ++ toLe 2 c.orig ++
    toLe 1 c.inst ++ toLe 1 c.epoch ++ toLe 1 c.kind ++ toLe 1 (b2n phase) ++ [0, 0]

/-- A record read from its bytes (R318). -/
def Cpl.parse (b : List Byte) : Cpl :=
  { ptime := leAt b 0 8, digest := leAt b 8 8, seq := leAt b 16 4, stream := leAt b 20 2 % 2 ^ 14, status := leAt b 22 2,
    orig := leAt b 24 2, inst := leAt b 26 1 % 64, epoch := leAt b 27 1, kind := leAt b 28 1 }

/-- Bytes go to an address for an instance: into device memory, or through its host window (R371); an access through a
disabled entry is not carried out and records `HOSTWIN`. -/
def putBytes (n a : Nat) (bs : List Byte) (pz : Bool) : Act := fun s =>
  if isHost a then
    match s.hostAddr (fnOf n) a with
    | some h => emit (.hostWrite (fnOf n) h bs pz) s
    | none => lnkErr 48 7 0 0 s
  else if s.inMem n a bs.length then memWrite a bs pz false s else []

/-- The free-running counters of R320. -/
def cnt32 (v : Nat) : Nat := v % 2 ^ 32

/-- `PHASE` (R320): 1 on the first pass through the ring after it is enabled, inverted at each wrap. -/
def phaseOf (log tail : Nat) : Bool := tail / 2 ^ log % 2 == 0

/-- The instance that a tile's rings serve (R320); 0 when the tile is unassigned. -/
def State.instOfTile (s : State) (t : Nat) : Nat := (s.owner t).getD 0

/-- Room in a completion ring; a disabled one takes nothing. (DEDUCED, log entry 21) -/
def State.cqRoom (s : State) (t r : Nat) : Bool :=
  ((s.tile t).cqRing.getD r {}).on &&
  decide (cnt32 (s.get F.SMV_CQTAIL_TAIL t r + 2 ^ 32 - s.get F.SMV_CQHEAD_HEAD t r) < 2 ^ ((s.tile t).cqRing.getD r {}).log)

/-- An entry is written to a completion ring, and the write that makes the ring non-empty sends its vector (R320, R371). -/
def cqWrite (t r : Nat) (c : Cpl) : Act := fun s =>
  let g := (s.tile t).cqRing.getD r {}
  let tail := s.get F.SMV_CQTAIL_TAIL t r
  let n := s.instOfTile t
  Act.seq [putBytes n (g.base + 32 * (tail % 2 ^ g.log)) (c.bytes (phaseOf g.log tail)) false,
    setFx F.SMV_CQTAIL_TAIL t r (cnt32 (tail + 1)),
    .when (tail == s.get F.SMV_CQHEAD_HEAD t r) (emit (.msix (fnOf n) (s.get F.SMV_CQCFG_VECTOR t r)))] s

/-- A record is due to a completion ring: written at once while nothing waits and the ring has room; it waits, with no loss,
while the ring is full (R320) or disabled. -/
def cqPush (t r : Nat) (c : Cpl) : Act := fun s =>
  if (s.tile t).cqWait.any (·.r == r) || !s.cqRoom t r then
    updT t (fun x => { x with cqWait := x.cqWait ++ [⟨r, c⟩] }) s
  else cqWrite t r c s

/-- Room in an error ring. (DEDUCED, log entry 21) -/
def State.erRoom (s : State) (t : Nat) : Bool :=
  (s.tile t).erRing.on &&
  decide (cnt32 (s.get F.SMV_ERTAIL_TAIL t 0 + 2 ^ 32 - s.get F.SMV_ERHEAD_HEAD t 0) < 2 ^ (s.tile t).erRing.log)

/-- An entry is written to an error ring (R321, R371). -/
def erWrite (t : Nat) (c : Cpl) : Act := fun s =>
  let g := (s.tile t).erRing
  let tail := s.get F.SMV_ERTAIL_TAIL t 0
  let n := s.instOfTile t
  Act.seq [putBytes n (g.base + 32 * (tail % 2 ^ g.log)) (c.bytes (phaseOf g.log tail)) false,
    setF F.SMV_ERTAIL_TAIL t (cnt32 (tail + 1)),
    .when (tail == s.get F.SMV_ERHEAD_HEAD t 0) (emit (.msix (fnOf n) (s.get F.SMV_ERCFG_VECTOR t 0)))] s

/-- The tile that holds the error ring of an instance: its lowest-numbered one in service (R321). -/
def State.erTile (s : State) (n : Nat) : Nat := ((s.tilesOf n).filter s.inService).headD 0

/-- A `LATE` record that forms at tile `h` goes to the instance's error ring (R321): written while nothing waits at the tile and
there is room, held by the tile up to 64 in order, and discarded beyond them with `ERDROP`. (DEDUCED, log entry 21) -/
def erPush (h n : Nat) (c : Cpl) : Act := fun s =>
  let t := s.erTile n
  if s.tilesOf n = [] then []
  else if (s.tile h).erWait = [] ∧ s.erRoom t then erWrite t c s
  else if (s.tile h).erWait.length < 64 then updT h (fun x => { x with erWait := x.erWait ++ [c] }) s
  else Act.seq [count F.SMV_ERDROP_COUNT t 1, smvErr h 7 c.stream] s

/-- `COMPLETION_RECORD_WRITE`: the oldest record that waits for ring `r` is written once there is room (R320). -/
def completionRecordWriteX (t r : Nat) : Act := fun s =>
  match (s.tile t).cqWait.find? (·.r == r) with
  | none => []
  | some w =>
    if s.cqRoom t r then Act.seq [updT t fun x => { x with cqWait := x.cqWait.erase w }, cqWrite t r w.cpl] s
    else []

/-- `ERROR_RING_WRITE`: the oldest `LATE` record that a tile holds is written to its instance's ring once there is room
(R321). -/
def errorRingWriteX (t : Nat) : Act := fun s =>
  let h := s.erTile (s.instOfTile t)
  match (s.tile t).erWait with
  | [] => []
  | c :: cs => if s.erRoom h then Act.seq [updT t fun x => { x with erWait := cs }, erWrite h c] s else []

/-! ## Windows and the completion of requests -/

/-- The window of a request: the instance's control window, or the stream's (R312). -/
def State.window (s : State) (n : Nat) (ctl : Bool) (stream : Nat) : Window :=
  if ctl then (s.inst n).ctl else (s.stream stream).window

/-- A change of a window. -/
def updW (n : Nat) (ctl : Bool) (stream : Nat) (f : Window → Window) : Act :=
  if ctl then updI n fun x => { x with ctl := f x.ctl } else updS stream fun x => { x with window := f x.window }

/-- A record goes back where its request came from (R319). -/
def deliver (o : Origin) (c : Cpl) : Act :=
  match o with
  | .ring t r => cqPush t r c
  | .movon peer _ => mvSend peer mtCpl c.inst c.epoch c.stream (c.bytes true) false .plain .none
  | .image => .none

/-- The record of a replayed duplicate (R317). (DEDUCED, log entry 11) -/
def Cpl.replay (c : Cpl) : Cpl := { c with status := 0x0001, orig := c.status }

/-- An accepted request completes (R316, R317, R319): its record is formed and stored in its window, goes to its origin,
and is replayed to the duplicates that waited. -/
def completeReq (n : Nat) (r : LiveReq) (status stream digest : Nat) : Act := fun s =>
  let c : Cpl := ⟨s.now, digest, r.seq, stream, status, 0, n, r.epoch, 0⟩
  let dups := ((s.window n r.ctl r.stream).entries.find? (·.seq == r.seq)).elim [] (·.dups)
  Act.seq [updI n fun x => { x with reqs := x.reqs.erase r },
    updW n r.ctl r.stream fun w => { w with entries := w.entries.map fun e =>
      if e.seq = r.seq then { e with done := some c, dups := [] } else e },
    deliver r.origin c, .each dups fun o => deliver o c.replay] s

/-- A request that something holds completes with it, unless a fault has completed it before (R319, R340). -/
def completeHeld (n : Nat) (r : LiveReq) (status stream digest : Nat) : Act := fun s =>
  Act.when ((s.inst n).reqs.contains r) (completeReq n r status stream digest) s

/-- A `WORK` record of a completed unit goes to the stream's ring when `WORKCPL` is set (R309, R319). -/
def workRecord (id frame status digest : Nat) : Act := fun s =>
  let x := s.stream id
  if bitOf x.cplcfg 2 then
    cqPush (homeOf id) (x.cplcfg % 4) ⟨s.now, digest, frame, id, status, 0, x.inst, x.epoch, 1⟩ s
  else []

/-! ## Status precedence and condition counters -/

/-- The rank of a status (R24): lower outranks higher. (DEDUCED, log entry 149) -/
def statusRank (st : Nat) : Nat :=
  let c := st / 256
  let k := st % 256
  (match c with | 5 => 0 | 4 => 1 | 1 => 2 | 3 => 3 | 2 => 4 | _ => 5) * 1000 +
    (if c = 2 then (match k with | 1 => 0 | 3 => 1 | 2 => 2 | 4 => 3 | 5 => 4 | 6 => 5 | _ => 100 + k) else k)

/-- The one status that an operation reports of the conditions that apply (R24); `ST_OK` where none does.
(DEDUCED, log entry 149) -/
def pickStatus (l : List Nat) : Nat :=
  l.foldl (fun a b => if a = 0 then b else if b = 0 then a else if statusRank b < statusRank a then b else a) 0

/-- The condition counter of a class 0x02 status (R341). (DEDUCED, log entry 87) -/
def condCounter : Nat → Option Fld
  | 0x0201 => some F.SMV_SCOND0_POISON | 0x0202 => some F.SMV_SCOND1_CONCEAL | 0x0204 => some F.SMV_SCOND1_SHORT
  | 0x0205 => some F.SMV_SCOND2_LONG | 0x0206 => some F.SMV_SCOND2_FILLED | _ => none

/-- Every condition of an operation advances its counter once, reported or outranked (R341); a missing reference is
counted once for each event, where the event is found. (DEDUCED, log entry 87) -/
def countConditions (id : Nat) (l : List Nat) : Act :=
  .each l.dedup fun st => .opt (condCounter st) fun f => countS f id 1

/-- `COMPLETION_RECORD_WRITE`. -/
def execCompletionRecordWrite (t r : Nat) (s : State) : Host.Outcome State Fault Refusal :=
  done (completionRecordWriteX t r) s

/-- `ERROR_RING_WRITE`. -/
def execErrorRingWrite (t : Nat) (s : State) : Host.Outcome State Fault Refusal := done (errorRingWriteX t) s

end Sys2Proof.Machine
end

