-- ==== Sys2Proof/Machine/Buffers.lean ====
section
/-! DEFINITION. Block lists (R329): checking them, cutting a range of the buffer they describe into transfers (R330), and
reading and writing such a buffer. -/
namespace Sys2Proof.Machine

/-- One block of a buffer. -/
structure Block where
  addr : Nat
  len : Nat
  bale : Bool := false
  deriving DecidableEq, Repr

/-- What a block list turns out to be: its blocks, broken (R329), or read poisoned (R338). -/
inductive BlockList where
  | ok (l : List Block)
  | bad
  | poisoned
  deriving DecidableEq, Repr

/-- A block list at an address, for an instance (R329, R515). -/
def State.blockList (s : State) (n a : Nat) : BlockList :=
  if !s.inDev n a 16 then .bad
  else if s.poisonedIn a 16 then .poisoned
  else
    let c := leNat (s.bytes a 4)
    if c = 0 ∨ 4096 < c ∨ leNat (s.bytes (a + 4) 4) ≠ 0 ∨ !s.inDev n a (16 + 16 * c) then .bad
    else if s.poisonedIn a (16 + 16 * c) then .poisoned
    else
      let es := (List.range c).map fun i =>
        (leNat (s.bytes (a + 16 + 16 * i) 8), leNat (s.bytes (a + 24 + 16 * i) 4), leNat (s.bytes (a + 28 + 16 * i) 4))
      let ok := es.all fun e => decide (e.1 < 2 ^ 41) && decide (e.1 % 64 = 0) && decide (e.2.2 = 0) &&
        decide (e.2.1 % 64 = 0) && decide (64 ≤ e.2.1) && decide (e.2.1 ≤ 16777216) && s.inMem n (e.1 % 2 ^ 40) e.2.1
      if ok && leNat (s.bytes (a + 8) 8) == (es.map (·.2.1)).sum then
        .ok (es.map fun e => ⟨e.1 % 2 ^ 40, e.2.1, bitOf e.1 40⟩)
      else .bad

/-- The bytes a buffer holds. -/
def blocksLen (l : List Block) : Nat := (l.map (·.len)).sum

/-- A contiguous range cut at 4 KiB boundaries (R330). -/
def cut4k (a n : Nat) (b : Bool) : List Block :=
  if n = 0 then [] else
    (List.range ((a + n - 1) / 4096 - a / 4096 + 1)).map fun i =>
      let lo := max a ((a / 4096 + i) * 4096)
      ⟨lo, min (a + n) ((a / 4096 + i + 1) * 4096) - lo, b⟩

/-- The transfers of a range of a buffer: cut at block boundaries and at 4 KiB boundaries (R330). -/
def pieces : List Block → Nat → Nat → List Block
  | [], _, _ => []
  | b :: bs, off, len =>
    if b.len ≤ off then pieces bs (off - b.len) len
    else
      let k := min len (b.len - off)
      cut4k (b.addr + off) k b.bale ++ pieces bs 0 (len - k)

/-- The bytes an engine reads at a piece: device memory, or host memory through the window, whose content is the host's
and so free here. -/
def State.pieceBytes (s : State) (p : Block) : List Byte :=
  if isHost p.addr then (List.range p.len).map fun i => Config.hostByte (p.addr + i) s.draws else s.bytes p.addr p.len

/-- The bytes of a range of a buffer. -/
def State.readBuf (s : State) (l : List Block) (off len : Nat) : List Byte :=
  ((pieces l off len).map s.pieceBytes).flatten

/-- Some granule of a range of a buffer is poisoned. -/
def State.bufPoisoned (s : State) (l : List Block) (off len : Nat) : Bool :=
  (pieces l off len).any fun p => s.poisonedIn p.addr p.len

/-- Bytes of an instance's engine on tile `t` reach one piece. -/
def piecePut (t n : Nat) (p : Block) (bs : List Byte) (pz ask : Bool) : Act :=
  if isHost p.addr then putBytes n p.addr bs pz else memWriteFrom t p.addr bs pz (ask || p.bale)

/-- Bytes written into pieces in turn. -/
def putPieces (t n : Nat) (pz ask : Bool) : List Block → List Byte → Act
  | [], _ => .none
  | p :: ps, bs => .seq [piecePut t n p (bs.take p.len) pz ask, putPieces t n pz ask ps (bs.drop p.len)]

/-- Bytes written into a range of a buffer by an engine of tile `t` that asks for Bale form where `ask` says so (R393). -/
def writeBuf (t n : Nat) (l : List Block) (off : Nat) (bs : List Byte) (pz ask : Bool) : Act :=
  putPieces t n pz ask (pieces l off bs.length) bs

/-- A range of a buffer comes to an engine of tile `t` over the Yard (R397). -/
def yardBuf (t : Nat) (l : List Block) (off len : Nat) : Act :=
  .each ((pieces l off len).filter fun p => !isHost p.addr) fun p => yardReturn t p.addr p.len

end Sys2Proof.Machine
end

