-- ==== Sys2Proof/Machine/Smv.lean ====
section
/-! DEFINITION. The stream mover (R322 to R338): resident queues and their bursts, work items and their checks,
transfers with their tags and credits, barriers and posted writes. -/
namespace Sys2Proof.Machine

/-! ## Tiles, queues and the in-flight count -/

/-- The local domain of a tile runs: in service, awake (R485), not in a tile reset (R436), and its clocks not stopped by a
thermal trip (R482). -/
def State.tileRuns (s : State) (t : Nat) : Bool :=
  s.inService t && s.get F.MGT_SLPSTAT_STATE t 0 == 0 && s.get F.PRT_TRST_BUSY t 0 == 0 && s.get F.MGT_PWRSTAT_TRIP pkgTile 0 == 0

/-- The function state of a block (R427). -/
def ctlState : Engine → Fld
  | .arr => F.ARR_CTL_STATE | .sfu => F.SFU_CTL_STATE | .ece => F.ECE_CTL_STATE | .sce => F.SCE_CTL_STATE
  | .smv => F.SMV_CTL_STATE | .ing => F.ING_CTL_STATE | .lnk => F.LNK_CTL_STATE | .fxg => F.FXG_CTL_STATE

/-- The function states of R427. -/
def fnOff : Nat := 0
def fnEnabling : Nat := 1
def fnOn : Nat := 2
def fnDisabling : Nat := 3

/-- A block of a running tile is ON. -/
def State.isOn (s : State) (b : Engine) (t : Nat) : Bool := s.tileRuns t && s.get (ctlState b) t 0 == fnOn

/-- The depth of a resident queue (R323); 0 when the queue is off. -/
def State.qDepth (s : State) (t q : Nat) : Nat :=
  let l := s.get F.SMV_QCFG_LOGDEPTH t q
  if l = 0 then 0 else 2 ^ l

/-- The slots of a queue that have been produced and not fetched. -/
def State.qResident (s : State) (t q : Nat) : Nat :=
  cnt32 (s.get F.SMV_QTAIL_TAIL t q + 2 ^ 32 - s.get F.SMV_QHEAD_HEAD t q)

/-- The items of a queue that are on chip. -/
def State.qItems (s : State) (t q : Nat) : List Item := (s.tile t).items.filter (·.q == q)

/-- The address of a slot of a resident queue. -/
def State.qSlotAddr (s : State) (t q slot : Nat) : Nat :=
  (s.tile t).qBase.getD q 0 + 64 * (slot % s.qDepth t q)

/-- The stream whose in-flight count holds the item of a slot. -/
def State.liveOf (s : State) (t q slot : Nat) : Option Nat :=
  (s.streams.find? fun e => e.2.items.any fun i => i.tile == t && i.q == q && i.slot == slot).map (·.1)

/-- The items and writes of a stream in flight (R335, R344). -/
def Stream.inFlight (x : Stream) : Nat := (x.items.filter fun i => !i.done).length + (x.items.map (·.writes)).sum

/-- `INFLIGHT` shows the count, and what is done and acknowledged leaves the context. -/
def syncLive (id : Nat) : Act := .seq
  [updS id fun x => { x with items := x.items.filter fun i => !i.done || i.writes != 0 },
   .read fun s => setS F.SMV_SLIVE0_INFLIGHT id (min (2 ^ 17 - 1) (s.stream id).inFlight)]

/-- An item joins the in-flight count of its stream; a barrier is counted. -/
def addLive (id : Nat) (i : LiveItem) : Act :=
  updS id fun x => { x with items := x.items ++ [{ i with no := x.barriers }], barriers := x.barriers + b2n (bitOf i.flags 0) }

/-- A change of one live item. -/
def updLive (id t q slot : Nat) (f : LiveItem → LiveItem) : Act :=
  updS id fun x => { x with items := x.items.map fun i => if i.tile = t ∧ i.q = q ∧ i.slot = slot then f i else i }

/-- A change of one item on chip. -/
def updItem (t q slot : Nat) (f : Item → Item) : Act :=
  updT t fun x => { x with items := x.items.map fun i => if i.q = q ∧ i.slot = slot then f i else i }

/-- An item leaves the chip. -/
def dropItem (t q slot : Nat) : Act :=
  updT t fun x => { x with items := x.items.filter fun i => !(i.q == q && i.slot == slot) }

/-- `SMV_RESIDENT` shows the items resident in the tile's queues (R344). -/
def syncResident (t : Nat) : Act := fun s =>
  setF F.SMV_RESIDENT_ITEMS t ((List.range 20).map fun q => if s.qDepth t q = 0 then 0 else s.qResident t q).sum s

/-- The items of an instance live on: the request that waits for an item completes with it (R314). -/
def finishLive (id t q slot : Nat) (status digest : Nat) : Act := fun s =>
  let x := s.stream id
  let rs := (x.items.filter fun i => i.tile == t && i.q == q && i.slot == slot).filterMap (·.req)
  Act.seq [updLive id t q slot fun i => { i with done := true, req := none },
    .each rs fun r => completeHeld x.inst r status id digest, syncLive id] s

/-- A work item completes: it leaves the chip, writes its `WORK` record when `CPL` asks for it and it is not posted
(R322, R336), advances the counters of its conditions, completes its request, and leaves the in-flight count. -/
def finishItem (t : Nat) (it : Item) (status digest : Nat) (conds : List Nat) : Act := fun s =>
  Act.seq [dropItem t it.q it.slot,
    .when (bitOf it.flags 3 && !bitOf it.flags 2) (workRecord it.stream it.frame status digest),
    countConditions it.stream conds,
    .opt (s.liveOf t it.q it.slot) fun id => finishLive id t it.q it.slot status digest] s

/-! ## Putting an item into a resident queue -/

/-- The queue is full, or off (R323). -/
def State.qFull (s : State) (t q : Nat) : Bool := decide (s.qDepth t q ≤ s.qResident t q)

/-- The bytes of a work-item slot (R322). -/
def slotBytes (stream engine flags frame seq epoch : Nat) (payload : List Byte) : List Byte :=
  toLe 2 stream ++ toLe 1 engine ++ toLe 1 flags ++ toLe 4 frame ++ toLe 4 seq ++ toLe 1 epoch ++ [0, 0, 0] ++
    (payload ++ List.replicate 48 0).take 48

/-- A producer writes a slot and advances the tail (R323); the item joins its stream's in-flight count. -/
def enqueue (t q id : Nat) (bs : List Byte) (flags : Nat) (req : Option LiveReq) : Act := fun s =>
  let tail := s.get F.SMV_QTAIL_TAIL t q
  Act.seq [memWrite (s.qSlotAddr t q tail) bs false false, setFx F.SMV_QTAIL_TAIL t q (cnt32 (tail + 1)),
    syncResident t,
    addLive id { tile := t, q := q, slot := tail, flags := flags, req := req },
    syncLive id] s

/-- `QUEUE_TAIL_WRITE`: a producer has written slots and advances the tail (R323); each new slot's item joins the
in-flight count of the stream it names. -/
def queueTailWriteX (q : Requester) (t k value : Nat) : Act := writeReg q t .SMV_QTAIL k fun t k => fun s =>
  let old := s.get F.SMV_QTAIL_TAIL t k
  let n := min (cnt32 (value + 2 ^ 32 - old)) (s.qDepth t k)
  Act.seq [setFx F.SMV_QTAIL_TAIL t k value, syncResident t,
    .each (List.range n) fun i => .read fun s =>
      let slot := cnt32 (old + i)
      let a := s.qSlotAddr t k slot
      let id := leNat (s.bytes a 2) % 2 ^ 14
      .when (s.isOpen id) (.seq
        [addLive id { tile := t, q := k, slot := slot, flags := leNat (s.bytes (a + 3) 1) }, syncLive id])] s

/-- A queue takes its base from its base registers (R531). -/
def takeQBase (t k : Nat) : Act := fun s =>
  let b := s.get F.SMV_QBASE_LO_BASE_LO t k * 2 ^ 12 + s.get F.SMV_QBASE_HI_BASE_HI t k * 2 ^ 32
  [.tile t fun x => { x with qBase := setAt (x.qBase ++ List.replicate (20 - x.qBase.length) 0) k b }]

/-- `QCFG_WRITE` (R323, R344): refused whole with `QCFG` while the queue holds items or when the resident depths would sum
to more than 65,536; a `LOGDEPTH` outside 0 and 6 to 16 leaves that field and records RANGE; `OUTST` is written only in
RA6 to RA15, `CREDITS` only in run-ahead queues. A write that turns the queue on takes its base (R531). -/
def qcfgWriteX (q : Requester) (t k value : Nat) : Act := writeReg q t .SMV_QCFG k fun t k => fun s =>
  let v := BitVec.ofNat 32 value
  let old := s.reg .SMV_QCFG t k
  let ld := getBits v 4 0
  let ldOk := ld == getBits old 4 0 || ld == 0 || (decide (6 ≤ ld) && decide (ld ≤ 16))
  let ld' := if ldOk then ld else getBits old 4 0
  let depth (q' : Nat) : Nat := if q' = k then (if ld' = 0 then 0 else 2 ^ ld') else s.qDepth t q'
  if decide (65536 < ((List.range 20).map depth).sum) || s.qResident t k != 0 || s.qItems t k != [] then smvErr t 8 0 s
  else
    let w := setBits old 31 28 (getBits v 31 28)
    let w := if 6 ≤ k ∧ k ≤ 15 then setBits w 23 16 (getBits v 23 16) else w
    let w := if k ≤ 15 then setBits w 15 8 (getBits v 15 8) else w
    let w := setBits w 4 0 ld'
    Act.seq [.eff [.word .SMV_QCFG t k w],
      .when (ld' != 0) (takeQBase t k),
      regErr .SMV t q (0x100 + 0x20 * k) ((if ldOk then [] else [causeRange]) ++
        (if v &&& ~~~implMask .SMV_QCFG = 0 then [] else [causeRsvd]))] s

/-! ## Tags and limits (R325, R332) -/

/-- The first tag of a queue's class and how many it has: 8 reserved for each main-path class, 2,008 shared. -/
def tagClass (q : Nat) : Nat × Nat :=
  if q ≤ 3 then (0, 8) else if q = 4 then (8, 8) else if q = 16 then (16, 8) else if q = 5 then (24, 8)
  else if q = 17 then (32, 8) else (40, 2008)

/-- A free tag for a queue, the lowest. (DEDUCED, log entry 146) -/
def State.freeTag (s : State) (t q : Nat) : Option Nat :=
  (List.range (tagClass q).2).findSome? fun i =>
    let g := (tagClass q).1 + i
    if (s.tile t).xfers.any (·.tag == g) then none else some g

/-- The transfers outstanding that count against a queue's limit, and the limit (R325): the array's four queues share
theirs. -/
def State.underLimit (s : State) (t q : Nat) : Bool :=
  let mine := (s.tile t).xfers.filter fun x => if q ≤ 3 then decide (x.q ≤ 3) else x.q == q
  let lim := if 6 ≤ q ∧ q ≤ 15 then (let o := s.get F.SMV_QCFG_OUTST t q; if o = 0 then 256 else o) else 8
  decide (mine.length < lim)

/-- The staging credits a queue has left, in units of 4 KiB (R326): each read in flight or held takes one.
(DEDUCED, log entry 146) -/
def State.creditsLeft (s : State) (t q : Nat) : Nat :=
  s.get F.SMV_QCFG_CREDITS t q -
    (((s.tile t).xfers.filter fun x => x.q == q && !x.write && !x.fetch).length + ((s.qItems t q).map (·.got.length)).sum)

/-- `SMV_TAGS` shows the tags in use and their peak (R344). -/
def syncTags (t : Nat) : Act := fun s =>
  let n := ((s.tile t).xfers.filter fun x => decide (x.tag < 2048)).length
  [.fld F.SMV_TAGS_INUSE t 0 n, .fld F.SMV_TAGS_PEAK t 0 (max n (s.get F.SMV_TAGS_PEAK t 0))]

/-- A transfer takes its tag. -/
def putXfer (t : Nat) (x : Xfer) : Act := .seq [updT t fun c => { c with xfers := c.xfers ++ [x] }, syncTags t]

/-- A transfer leaves its tag (R332). -/
def freeXfer (t tag : Nat) : Act := .seq [updT t fun c => { c with xfers := c.xfers.filter (·.tag != tag) }, syncTags t]

/-- Issue goes on: the mover is ON and injection is not withheld (R344, R414). -/
def State.smvIssues (s : State) (t : Nat) : Bool := s.isOn .smv t && !s.pkg.held

/-! ## Bursts (R324) -/

/-- The slots of the next burst: at most `BURST`, at most what lies between head and tail. -/
def State.burstLen (s : State) (t q : Nat) : Nat :=
  let b := s.get F.SMV_QCFG_BURST t q
  min (if b = 0 then 16 else b) (s.qResident t q)

/-- `QUEUE_BURST_FETCH`: a burst is read when the on-chip buffer of 16 slots has room for all of it, a tag is free and
the queue may have one more transfer outstanding (R324, R325); a run-ahead queue with no credits takes no items (R344). -/
def queueBurstFetchX (t k : Nat) : Act := fun s =>
  let n := s.burstLen t k
  if !s.smvIssues t ∨ s.qDepth t k = 0 ∨ n = 0 ∨ !s.underLimit t k ∨ (k ≤ 15 ∧ s.get F.SMV_QCFG_CREDITS t k = 0) ∨
      (s.tile t).xfers.any (fun x => x.fetch && x.q == k) ∨
      16 < n + ((s.qItems t k).filter fun i => !i.started).length then []
  else match s.freeTag t k with
    | none => []
    | some tag =>
      let n0 := s.instOfTile t
      putXfer t { tag := tag, q := k, slot := s.get F.SMV_QHEAD_HEAD t k, inst := n0, epoch := s.epoch n0, fetch := true,
                  addr := s.qSlotAddr t k (s.get F.SMV_QHEAD_HEAD t k), len := 64 * n } s

/-- A work item from its slot (R322). -/
def parseItem (q slot : Nat) (bs : List Byte) : Item :=
  { q := q, slot := slot, stream := leAt bs 0 2 % 2 ^ 14, engine := leAt bs 2 1, flags := leAt bs 3 1,
    frame := leAt bs 4 4, seq := leAt bs 8 4, epoch := leAt bs 12 1, payload := (bs.drop 16).take 48,
    rsvd := leAt bs 0 2 / 2 ^ 14 != 0 || leAt bs 3 1 / 16 != 0 || leAt bs 13 3 != 0 }

/-- A slot arrives on chip. One read poisoned is discarded unrun: it writes no `WORK` record, leaves the in-flight count
of the stream that enqueued it, completes what awaits it with `ST_POISON`, and is recorded with stream 0 (R338). -/
def takeSlot (t q slot : Nat) : Act := fun s =>
  let a := s.qSlotAddr t q slot
  if s.poisonedIn a 64 then
    Act.seq [smvErr t 5 0, .opt (s.liveOf t q slot) fun id => finishLive id t q slot 0x0201 0] s
  else updT t (fun x => { x with items := x.items ++ [parseItem q slot (s.bytes a 64)] }) s

/-- A burst has arrived: its slots come on chip in order and the head advances. -/
def fetchDone (t : Nat) (x : Xfer) : Act := .seq
  [.each (List.range (x.len / 64)) fun i => takeSlot t x.q (cnt32 (x.slot + i)),
   setFx F.SMV_QHEAD_HEAD t x.q (cnt32 (x.slot + x.len / 64)), syncResident t]

/-! ## Checking an item (R322, R325, R331) -/

/-- The engine that a queue serves (R325). -/
def queueEngine (q : Nat) : Nat :=
  if q ≤ 3 then 0 else if q = 4 then 1 else if q = 5 then 4 else if q ≤ 15 then 3 else if q = 16 then 2 else 5

/-- The fields of a transfer payload (R331). -/
structure XferDesc where
  src : Nat
  soff : Nat
  dst : Nat
  doff : Nat
  len : Nat
  sfmt : Nat
  dfmt : Nat
  rnd : Nat
  zero : Bool
  peer : Nat
  tensor : Nat
  rsvd : Bool
  deriving DecidableEq, Repr

/-- A transfer payload read (R331). -/
def XferDesc.parse (p : List Byte) : XferDesc :=
  { src := leAt p 0 8 % 2 ^ 40, soff := leAt p 8 8, dst := leAt p 16 8 % 2 ^ 40, doff := leAt p 24 8, len := leAt p 32 4,
    sfmt := leAt p 36 1 % 16, dfmt := leAt p 36 1 / 16, rnd := leAt p 37 1 % 4, zero := bitOf (leAt p 37 1) 2,
    peer := leAt p 38 1, tensor := leAt p 40 4 % 2 ^ 24,
    rsvd := leAt p 0 8 / 2 ^ 40 != 0 || leAt p 16 8 / 2 ^ 40 != 0 || leAt p 37 1 / 8 != 0 || leAt p 39 1 != 0 ||
      leAt p 40 4 / 2 ^ 24 != 0 || leAt p 44 4 != 0 }

/-- The elements that a transfer converts. -/
def XferDesc.elems (d : XferDesc) (f : Fmt) : Nat := d.len * 8 / f.width

/-- A transfer payload keeps the rules of R331. -/
def XferDesc.ok (d : XferDesc) (posted : Bool) : Bool :=
  !d.rsvd && d.soff % 64 == 0 && d.doff % 64 == 0 && d.len % 64 == 0 && decide (64 ≤ d.len) && decide (d.len ≤ 2 ^ 31) &&
  (d.peer == 0xFF || (decide (d.peer ≤ 15) && posted && d.doff == 0)) &&
  match fmtOf d.sfmt, fmtOf d.dfmt with
  | some f, some _ => if d.sfmt = d.dfmt then d.rnd == 0 else decide (1 ≤ d.rnd) && d.elems f % 64 == 0
  | _, _ => false

/-- The payload of an item suits its engine (R322). -/
def Item.payloadOk (i : Item) : Bool :=
  match i.engine with
  | 0 => leAt i.payload 2 2 == 0 && (i.payload.drop 8).all (· == 0)
  | 2 => leAt i.payload 2 2 == i.stream && leAt i.payload 4 4 == i.frame && (i.payload.drop 32).all (· == 0)
  | 3 => (XferDesc.parse i.payload).ok (bitOf i.flags 2)
  | _ => true

/-- The header and payload of an item keep the table of R322, also those of a barrier (R18), and it stands in a queue of its
engine (R325). -/
def Item.ok (i : Item) : Bool :=
  !i.rsvd && decide (i.engine ≤ 5) && i.engine == queueEngine i.q && i.payloadOk

/-- The stream of an item belongs to the tile's instance and is open or closing, and the item's epoch is current. -/
def State.itemStatus (s : State) (t : Nat) (i : Item) : Nat :=
  let n := (s.stream i.stream).inst
  if !s.isLive i.stream ∨ s.owner t ≠ some n then 0x0104
  else if s.epoch n ≠ i.epoch ∨ s.instState n ≠ instActive then 0x0401
  else if !i.ok then 0x0104 else 0

/-- The most recent barrier issued before an item has completed, when the item waits for it (R335). -/
def State.waitDone (s : State) (i : Item) (t : Nat) : Bool :=
  !bitOf i.flags 1 ||
  (((s.stream i.stream).items.takeWhile fun l => !(l.tile == t && l.q == i.q && l.slot == i.slot)).filter
    fun l => bitOf l.flags 0).all (·.done)

/-! ## Transfers -/

/-- Pieces with their places in the item's data. -/
def placed (l : List Block) : List Piece :=
  (l.foldl (fun (a : List Piece × Nat) b => (a.1 ++ [⟨b.addr, b.len, b.bale, a.2⟩], a.2 + b.len)) ([], 0)).1

/-- The bytes that a transfer writes. -/
def XferDesc.outLen (d : XferDesc) : Nat :=
  match fmtOf d.sfmt, fmtOf d.dfmt with
  | some f, some g => if d.sfmt = d.dfmt then d.len else packedLen g.width (d.elems f)
  | _, _ => d.len

/-- What resolving a transfer item finds: its pieces, or the status and code it fails with (R168, R329, R338).
(DEDUCED, log entry 143) -/
def State.resolveXfer (s : State) (n own : Nat) (d : XferDesc) : Except (Nat × Nat) (List Piece × List Piece) :=
  let side (a off len : Nat) : Except (Nat × Nat) (List Piece) :=
    match s.blockList n a with
    | .bad => .error (0x0104, 3)
    | .poisoned => .error (0x0201, 5)
    | .ok l => if off + len ≤ blocksLen l then .ok (placed (pieces l off len)) else .error (0x0104, 2)
  match (if d.zero then .ok [] else side d.src d.soff d.len) with
  | .error e => .error e
  | .ok r =>
    if d.peer ≠ 0xFF then .ok (r, placed (cut4k d.dst d.outLen false))
    else match side d.dst d.doff d.outLen with
      | .error e => .error e
      | .ok w => if w.any fun p => s.hitsTaps n own p.addr p.len then .error (0x0104, 2) else .ok (r, w)

/-- The first poisoned item of an errant one: it completes with its status and records its code. -/
def refuseItem (t : Nat) (i : Item) (status code : Nat) : Act := .seq
  [smvErr t code i.stream, finishItem t i status 0 (if status = 0x0201 then [0x0201] else [])]

/-- The fetch side resolves a transfer item: its lists are checked at their first use, and its reads are known (R326,
R329). -/
def resolveItem (t : Nat) (i : Item) : Act := fun s =>
  let st := s.itemStatus t i
  if st ≠ 0 then (if st = 0x0104 then refuseItem t i st 2 s else finishItem t i st 0 [] s)
  else if bitOf i.flags 0 then updItem t i.q i.slot (fun x => { x with resolved := true }) s
  else match s.resolveXfer (s.stream i.stream).inst i.stream (XferDesc.parse i.payload) with
    | .error e => refuseItem t i e.1 e.2 s
    | .ok (r, w) => updItem t i.q i.slot (fun x => { x with resolved := true, reads := r, writes := w }) s

/-- One read of an item is issued (R326): a read of host memory goes out through the host window (R371). -/
def issueRead (t tag : Nat) (i : Item) (p : Piece) : Act := fun s =>
  let n := (s.stream i.stream).inst
  let x : Xfer := { tag := tag, q := i.q, slot := i.slot, stream := i.stream, inst := n, epoch := i.epoch,
                    addr := p.addr, len := p.len, off := p.off }
  let pop := updItem t i.q i.slot fun y => { y with reads := y.reads.erase p }
  if isHost p.addr then
    match s.hostAddr (fnOf n) p.addr with
    | some h => Act.seq [pop, putXfer t { x with host := true }, emit (.hostRead t tag (fnOf n) h p.len)] s
    | none => Act.seq [lnkErr 48 7 i.stream 0, refuseItem t i 0x0104 3] s
  else Act.seq [pop, putXfer t x] s

/-- A write of a stream has failed at its target (R335, R337): the stream context keeps it, and the first failed transfer
of a posted item sends one `LATE` record with its address to the instance's error ring. -/
def writeFailed (t : Nat) (x : Xfer) (status : Nat) : Act := fun s =>
  let it := (s.tile t).items.find? fun i => i.q == x.q && i.slot == x.slot
  Act.seq [setS F.SMV_SLIVE0_FPW x.stream 1,
    .when (x.posted && !(it.elim false (·.late)) && !x.remote)
      (.seq [smvErr t 6 x.stream,
        erPush t x.inst ⟨s.now, x.addr, it.elim 0 (·.seq), x.stream, status, 0, x.inst, x.epoch, 2⟩]),
    updItem t x.q x.slot fun i => { i with late := true, status := pickStatus [i.status, status] }] s

/-- A transfer item is finished when nothing of it is left to issue or in flight; a posted one had its request completed
when the last write was issued (R336). (DEDUCED, log entry 147) -/
def settleItem (t q slot : Nat) : Act := fun s =>
  match (s.tile t).items.find? fun i => i.q == q && i.slot == slot with
  | none => []
  | some i =>
    if i.engine = 3 ∧ i.started ∧ i.writes = [] ∧ !((s.tile t).xfers.any fun x => x.q == q && x.slot == slot && !x.fetch) then
      let bad := decide (i.bad ≠ [])
      let st := pickStatus [i.status, if bad then 0x0201 else 0]
      Act.seq [.when bad (smvErr t 5 i.stream),
        finishItem t i st (crc64 i.outData) (if bad then [0x0201] else [])] s
    else []

/-- A write's tag is freed and its count leaves the stream's in-flight count. -/
def writeSettled (t : Nat) (x : Xfer) : Act := .seq
  [freeXfer t x.tag, updLive x.stream t x.q x.slot fun i => { i with writes := i.writes - 1 }, syncLive x.stream,
   settleItem t x.q x.slot]

/-- The epoch of an operation has been advanced, or its instance is being reset (R431). -/
def State.stale (s : State) (n e : Nat) : Bool := s.epoch n != e || s.instState n != instActive

/-- An operation of an advanced epoch leaves the instance's in-flight count (R431). -/
def leaveFlight (n : Nat) : Act := fun s => setFx F.PRT_IFLIGHT_COUNT pkgTile n (s.get F.PRT_IFLIGHT_COUNT pkgTile n - 1) s

/-- A write completes: applied in its target when that is the instance's memory, failed otherwise; a transfer that fails
writes none of its bytes (R330, R337). -/
def writeDone (t : Nat) (x : Xfer) (status : Nat) : Act := fun s =>
  if s.stale x.inst x.epoch then Act.seq [freeXfer t x.tag, leaveFlight x.inst] s
  else if status = 0 ∧ !x.remote ∧ !s.inMem x.inst x.addr x.len then
    Act.seq [writeFailed t x 0x0104, writeSettled t x] s
  else if status = 0 ∨ status = 0x0002 then
    Act.seq [.when (!x.remote)
        (if isHost x.addr then putBytes x.inst x.addr x.data (x.bad != [])
         else .seq [yardSend t x.addr x.data (x.bad != []),
           memWriteG x.addr x.data (fun g => x.bad.contains (g - x.addr / 64 + x.off / 64)) x.bale]),
      writeSettled t x] s
  else Act.seq [writeFailed t x status, writeSettled t x] s

/-- One write of an item is issued: within the package, or as a Movon `WRITE` to a cascade device (R331, R374). -/
def issueWrite (t tag : Nat) (i : Item) (p : Piece) : Act := fun s =>
  let n := (s.stream i.stream).inst
  let d := XferDesc.parse i.payload
  let bad := i.bad.filter fun g => p.off / 64 ≤ g ∧ g < (p.off + p.len + 63) / 64
  let x : Xfer := { tag := tag, q := i.q, slot := i.slot, stream := i.stream, inst := n, epoch := i.epoch, write := true,
                    remote := d.peer != 0xFF, posted := bitOf i.flags 2, addr := p.addr, len := p.len, off := p.off,
                    data := (i.outData.drop p.off).take p.len, bad := bad, bale := p.bale }
  let last := i.writes.length ≤ 1
  Act.seq [updItem t i.q i.slot fun y => { y with writes := y.writes.erase p },
    putXfer t x, updLive i.stream t i.q i.slot fun l => { l with writes := l.writes + 1 }, syncLive i.stream,
    .when (decide last && bitOf i.flags 2)
      (.opt (s.liveOf t i.q i.slot) fun id => finishLive id t i.q i.slot 0 (crc64 i.outData)),
    .when x.remote (mvSend d.peer mtWrite n i.epoch i.stream (toLe 8 p.addr ++ x.data) (bad != []) (.xfer t tag)
      (writeDone t { x with remote := false } 0x0301))] s

/-- `TRANSFER_ISSUE`: a queue issues its next transfer once its limit, its credits and a tag allow (R326, R332): a write
of an item that executes, else the first read still due in queue order, resolving its item first. -/
def transferIssueX (t k : Nat) : Act := fun s =>
  if !s.smvIssues t then []
  else match (s.qItems t k).find? fun i => i.engine == 3 && !i.resolved && !i.started with
    | some i => if (s.qItems t k).all fun j => j.resolved || j.slot == i.slot || decide (i.slot ≤ j.slot) then resolveItem t i s else []
    | none =>
      if !s.underLimit t k then []
      else match s.freeTag t k with
        | none => []
        | some tag =>
          match (s.qItems t k).find? fun i => i.started && i.writes != [] with
          | some i => match i.writes with
            | p :: _ => issueWrite t tag i p s
            | [] => []
          | none => match (s.qItems t k).find? fun i => i.reads != [] with
            | some i => match i.reads with
              | p :: _ => if s.creditsLeft t k = 0 then [] else issueRead t tag i p s
              | [] => []
            | none => []

/-- Data of a read arrives and is staged with the marks of its granules (R338). -/
def readDone (t : Nat) (x : Xfer) (data : List Byte) (bad : List Nat) : Act := .seq
  [freeXfer t x.tag, updItem t x.q x.slot fun i => { i with got := i.got ++ [⟨x.off, data, bad⟩] }]

/-- The poisoned granules of a range of device memory, numbered from the item's offset. -/
def State.badGranules (s : State) (a n off : Nat) : List Nat :=
  (granules a n).filterMap fun g => if mapGet id false s.poison g then some (g - a / 64 + off / 64) else none

/-- A transfer ends with a status: a burst comes on chip; the data of a read is staged, or its failure is kept; a write is
settled. What belongs to an advanced epoch is discarded and leaves the in-flight count (R431). -/
def endXfer (t : Nat) (x : Xfer) (status : Nat) (data : Option (List Byte × Bool)) : Act := fun s =>
  if x.fetch then (if s.stale x.inst x.epoch then freeXfer t x.tag s else Act.seq [freeXfer t x.tag, yardReturn t x.addr x.len, fetchDone t x] s)
  else if x.write then writeDone t x status s
  else if s.stale x.inst x.epoch then Act.seq [freeXfer t x.tag, leaveFlight x.inst] s
  else if status = 0 then
    match data with
    | some d => readDone t x d.1 (if d.2 then (granules 0 x.len).map (· + x.off / 64) else []) s
    | none => Act.seq [yardReturn t x.addr x.len, readDone t x (s.bytes x.addr x.len) (s.badGranules x.addr x.len x.off)] s
  else Act.seq [freeXfer t x.tag,
    .read fun s => .opt ((s.tile t).items.find? fun i => i.q == x.q && i.slot == x.slot) fun i => finishItem t i status 0 []] s

/-- `TRANSFER_COMPLETE`: a transfer's data returns, or its write is acknowledged or fails, and its tag is freed (R332).
Host reads end by the host's completion or its timeout, remote writes by their `RESP`. -/
def transferCompleteX (t tag status : Nat) : Act := fun s =>
  match (s.tile t).xfers.find? (·.tag == tag) with
  | none => []
  | some x => if x.host ∨ (x.write ∧ x.remote) then [] else endXfer t x status none s

/-! ## Dispatch, barriers, overlays and Foxglove items -/

/-- The block an engine number names. -/
def engineBlock : Nat → Engine
  | 0 => .arr | 1 => .sce | 2 => .ece | 3 => .smv | 4 => .lnk | _ => .fxg

/-- The conversion unit's statistics after a run (R247, R250): saturations and NaNs while `EN`, the rest when the run is
the selected one. The sums are formed in an order that the spec leaves open. (DEDUCED, log entries 76, 148) -/
def convStats (t stream layer : Nat) (c : ConvRun) : Act := fun s =>
  if s.get F.ARR_CVCTL_EN t 0 = 0 then []
  else
    let sel := s.get F.ARR_CVCTL_ALL t 0 = 1 ∨
      (s.get F.ARR_CVSEL_STREAM t 0 = stream ∧ s.get F.ARR_CVSEL_LAYER t 0 = layer % 2 ^ 16)
    let ps := (c.pairs.zipIdx.mergeSort fun a b =>
      decide (Config.sumOrder (s.draws + a.2) ≤ Config.sumOrder (s.draws + b.2))).map (·.1)
    let sse := (ps.filterMap sqErr).foldl add64 (s.get F.ARR_CVSSE_LO_SSE_LO t 0 + 2 ^ 32 * s.get F.ARR_CVSSE_HI_SSE_HI t 0)
    let ssx := (ps.filterMap sqVal).foldl add64 (s.get F.ARR_CVSSX_LO_SSX_LO t 0 + 2 ^ 32 * s.get F.ARR_CVSSX_HI_SSX_HI t 0)
    [.fld F.ARR_CVSAT_COUNT t 0 (satAdd (2 ^ 32 - 1) (s.get F.ARR_CVSAT_COUNT t 0) c.sats),
     .fld F.ARR_CVNAN_COUNT t 0 (satAdd (2 ^ 32 - 1) (s.get F.ARR_CVNAN_COUNT t 0) c.nans)] ++
    (if sel then [.countU F.ARR_CVCNT_COUNT t 0 256 c.codes.length,
      .fld F.ARR_CVSSE_LO_SSE_LO t 0 (sse % 2 ^ 32), .fld F.ARR_CVSSE_HI_SSE_HI t 0 (sse / 2 ^ 32),
      .fld F.ARR_CVSSX_LO_SSX_LO t 0 (ssx % 2 ^ 32), .fld F.ARR_CVSSX_HI_SSX_HI t 0 (ssx / 2 ^ 32),
      .draw c.codes.length] else [])

/-- The staged bytes of an item in order. -/
def Item.staged (i : Item) : List Byte :=
  ((i.got.mergeSort fun a b => decide (a.off ≤ b.off)).map (·.data)).flatten

/-- The destination granules that hold an element from a poisoned source granule (R338). -/
def convBad (sw dw n : Nat) (bad : List Nat) : List Nat :=
  (List.range (cdiv (packedLen dw n) 64)).filter fun g =>
    (List.range n).any fun e => decide (dw * e / 8 / 64 ≤ g) && decide (g ≤ (dw * e + dw - 1) / 8 / 64) &&
      bad.any fun b => decide (sw * e / 8 / 64 ≤ b) && decide (b ≤ (sw * e + sw - 1) / 8 / 64)

/-- A transfer item starts: it copies, converts under R238 and R241 with the stream's seed (R239), or writes zeros; its
staging credits return (R326). -/
def startXfer (t : Nat) (i : Item) : Act := fun s =>
  let d := XferDesc.parse i.payload
  let bad := (i.got.map (·.bad)).flatten
  match fmtOf d.sfmt, fmtOf d.dfmt with
  | some f, some g =>
    let n := d.elems f
    let c : ConvRun :=
      if d.zero ∨ d.sfmt = d.dfmt then ⟨[], [], 0, 0⟩
      else convertRun f g d.rnd (s.stream i.stream).seed d.tensor i.frame (d.doff * 8 / g.width) (unpackCodes f.width n i.staged)
    let data := if d.zero then List.replicate d.outLen 0 else if d.sfmt = d.dfmt then i.staged else packCodes g.width c.codes
    let ob := if d.zero then [] else if d.sfmt = d.dfmt then bad else convBad f.width g.width n bad
    Act.seq [updItem t i.q i.slot fun x => { x with started := true, got := [], outData := data, bad := ob },
      .when (!d.zero && d.sfmt != d.dfmt) (convStats t i.stream 0xFFFF c)] s
  | _, _ => []

/-- The items of a queue in flight in its engine. -/
def State.threads (s : State) (t q : Nat) : Nat := ((s.qItems t q).filter (·.started)).length

/-- An item can be handed to its engine: its wait is over, its inputs have arrived, its engine is ON, and a multithreaded
queue has a thread free (R326 to R328, R335). -/
def State.canStart (s : State) (t : Nat) (i : Item) : Bool :=
  s.waitDone i t &&
  (bitOf i.flags 0 ||
   ((i.engine != 3 || (i.resolved && i.reads.isEmpty &&
      !((s.tile t).xfers.any fun x => x.q == i.q && x.slot == i.slot && !x.write && !x.fetch))) &&
    s.isOn (engineBlock i.engine) t && (decide (i.q ≤ 15) || decide (s.threads t i.q < 16))))

/-- `ARR_QSTAT` shows the items of each queue in the array (R228). -/
def syncQstat (t : Nat) : Act := fun s =>
  let n (q : Nat) : Nat := min 63 ((s.qItems t q).filter (·.started)).length
  [.fld F.ARR_QSTAT_Q0 t 0 (n 0), .fld F.ARR_QSTAT_Q1 t 0 (n 1), .fld F.ARR_QSTAT_Q2 t 0 (n 2), .fld F.ARR_QSTAT_Q3 t 0 (n 3)]

/-- A posted item is issued: its `SUBMIT` completes, and the item stays in flight (R314, R336). (DEDUCED, log entry 147) -/
def ackPosted (id t q slot : Nat) : Act := fun s =>
  let x := s.stream id
  let rs := (x.items.filter fun i => i.tile == t && i.q == q && i.slot == slot).filterMap (·.req)
  Act.seq [updLive id t q slot fun i => { i with req := none }, .each rs fun r => completeHeld x.inst r 0 id 0] s

/-- One item is handed to its engine, or ends before it: a broken one with `ST_BAD_DESC`, one of an old epoch with
`ST_INSTANCE_RESET`; a barrier item leaves the queue and completes by itself (R322, R335). -/
def handItem (t : Nat) (i : Item) : Act := fun s =>
  let st := s.itemStatus t i
  if st = 0x0104 then refuseItem t i st 2 s
  else if st ≠ 0 then finishItem t i st 0 [] s
  else if bitOf i.flags 0 then dropItem t i.q i.slot s
  else if i.engine = 3 then Act.seq [startXfer t i, settleItem t i.q i.slot] s
  else Act.seq [updItem t i.q i.slot fun x => { x with started := true }, syncQstat t,
    .when (bitOf i.flags 2) (.opt (s.liveOf t i.q i.slot) fun id => ackPosted id t i.q i.slot)] s

/-- The item a queue would hand over next: a run-ahead queue in order, a multithreaded one the oldest that is ready
(R326, R327). -/
def State.nextItem (s : State) (t q : Nat) : Option Item :=
  let w := (s.qItems t q).filter fun i => !i.started
  if q ≤ 15 then (match w with
    | i :: _ => if s.itemStatus t i != 0 || s.canStart t i then some i else none
    | [] => none)
  else w.find? fun i => s.itemStatus t i != 0 || s.canStart t i

/-- `ITEM_DISPATCH`: the next item whose inputs have all arrived is handed to its engine (R326, R327). -/
def itemDispatchX (t k : Nat) : Act := fun s =>
  if !s.isOn .smv t then [] else match s.nextItem t k with
    | some i => handItem t i s
    | none => []

/-- The oldest barrier of a stream, when every item issued before it has completed and every write of those items has been
acknowledged or has failed (R335). -/
def State.barrierDue (s : State) (id : Nat) : Option LiveItem :=
  let l := (s.stream id).items
  match l.find? fun i => bitOf i.flags 0 && !i.done with
  | none => none
  | some b => if (l.takeWhile fun i => !(bitOf i.flags 0 && !i.done)).all fun i => i.done && i.writes == 0 then some b else none

/-- `BARRIER_COMPLETE`: the oldest barrier of a stream completes, with `ST_FAILED_PRIOR_WRITE` when a write has failed
since the previous one, which it clears and counts (R335, R341). -/
def barrierCompleteX (id : Nat) : Act := fun s =>
  match s.barrierDue id with
  | none => []
  | some b =>
    let st := if s.sget F.SMV_SLIVE0_FPW id = 1 then 0x0303 else 0
    let it := (s.tile b.tile).items.find? fun i => i.q == b.q && i.slot == b.slot
    Act.seq [.when (st != 0) (countS F.SMV_SCOND3_FAILWR id 1), setS F.SMV_SLIVE0_FPW id 0,
      dropItem b.tile b.q b.slot,
      .opt it fun i => .when (bitOf i.flags 3) (workRecord id i.frame st 0),
      finishLive id b.tile b.q b.slot st 0] s

/-- `OVERLAY_ACCESS_FAULT`: firmware stops the overlay of instance `n` on tile `t`, and the requests it has outstanding
through ring pair 3 complete with `ST_BAD_DESC` (R340). -/
def overlayAccessFaultX (t n : Nat) : Act := fun s =>
  if !(s.inst n).overlays.contains t then []
  else Act.seq [updI n fun x => { x with overlays := x.overlays.filter (· != t) },
    .each ((s.inst n).reqs.filter fun r => r.origin == .ring t 3) fun r => completeReq n r 0x0104 r.stream 0] s

/-- `FXG_ITEM_COMPLETE`: a Foxglove item that firmware or an overlay took completes with the status and digest its owner
gives it (R327, R539). -/
def fxgItemCompleteX (t k slot status digest : Nat) : Act := fun s =>
  match (s.qItems t k).find? fun i => i.slot == slot && i.started && i.engine == 5 && !(k == 17 && leAt i.payload 0 1 == 0x49 && (s.stream i.stream).stages / 2 % 4 != 0) with
  | some i => finishItem t i status digest (if status / 256 = 2 then [status] else []) s
  | none => []

/-! ## The commands -/

/-- `QUEUE_TAIL_WRITE`. -/
def execQueueTailWrite (q : Requester) (t k value : Nat) (s : State) : Host.Outcome State Fault Refusal :=
  done (queueTailWriteX q t k value) s

/-- `QUEUE_BURST_FETCH`. -/
def execQueueBurstFetch (t k : Nat) (s : State) : Host.Outcome State Fault Refusal := done (queueBurstFetchX t k) s

/-- `TRANSFER_ISSUE`. (DEDUCED, log entry 146) -/
def execTransferIssue (t k : Nat) (s : State) : Host.Outcome State Fault Refusal := done (transferIssueX t k) s

/-- `ITEM_DISPATCH`. -/
def execItemDispatch (t k : Nat) (s : State) : Host.Outcome State Fault Refusal := done (itemDispatchX t k) s

/-- `OVERLAY_ACCESS_FAULT`. -/
def execOverlayAccessFault (t n : Nat) (s : State) : Host.Outcome State Fault Refusal := done (overlayAccessFaultX t n) s

/-- `FXG_ITEM_COMPLETE`. -/
def execFxgItemComplete (t k slot status digest : Nat) (s : State) : Host.Outcome State Fault Refusal :=
  done (fxgItemCompleteX t k slot status digest) s

end Sys2Proof.Machine
end

