-- ==== Sys2Proof/Machine/Array.lean ====
section
/-! DEFINITION. The compute array (R218 to R228, R266, R498): items and their checks, blocks, fences, halos, stripes,
microprogram residency, and layer digests. -/
namespace Sys2Proof.Machine

/-! ## Programs, runs and contexts -/

/-- The context of a running cut. -/
def State.cxOf (s : State) (r : CutRun) : Option RunCx := s.runCx (s.stream r.stream).inst r.prog r.cut r.stream r.frame

/-- The number of blocks of a cut. -/
def RunCx.blocks (x : RunCx) : Nat := blockCount x.c

/-- Block `i` of a cut, and what is stored when it is done. -/
def RunCx.block (x : RunCx) (i : Nat) : BlockAt := blockOf x.c i
def RunCx.stored (x : RunCx) (b : BlockAt) : Option BlockAt := storedOf (x.c.role != rolePartial && x.p.wholePos x.li x.l) x.c b

/-- The elements and the microprogram of a layer's function. -/
def RunCx.micro (x : RunCx) : Option Nat := (x.p.sfuPar x.l).bind fun q => if q.func = 4 then some q.mrec else none
def RunCx.microRec (x : RunCx) : MicroRec := MicroRec.parse ((x.micro.bind fun m => x.p.recData recMicro m).getD [])

/-- The cut's work uses the SFU (R251): a function of its own or fused, a table, or the maxima of R245. -/
def RunCx.usesSfu (x : RunCx) : Bool :=
  x.l.op == 9 || x.l.op == 0x0F || (x.c.role != rolePartial && ((x.p.sfuPar x.l).isSome || x.p.ogran x.li != 0))

/-- The cycles of the cut (R206 to R209, R267, R540). -/
def RunCx.cycles (x : RunCx) : Nat :=
  let n := x.c.nrow * x.c.ncol * x.c.noch
  cutCycles x.l x.c (match x.p.sfuPar x.l with
    | some q => sfuCycles q x.microRec n x.c.noch
    | none => cdiv n 128)

/-- The share of a total that block `i` of `n` has. -/
def share (total n i : Nat) : Nat := total * (i + 1) / max 1 n - total * i / max 1 n

/-- The cycles in which block `i` holds the array: the formula of R206 or R540 for the block itself where the cut's is the sum over
its blocks, else a share of the cut's. (DEDUCED, log entry 72) -/
def RunCx.blockCycles (x : RunCx) (i : Nat) : Nat :=
  let b := x.block i
  if (x.l.op = 0 ∧ x.c.role ≠ roleFinal ∧ (x.l.fpath ≠ 0 ∨ x.l.diag ∨ x.l.g ≠ 1)) ∨ x.l.op = 4 ∨ x.l.op = 5 ∨ x.l.op = 9 ∨ x.l.op = 0x0B ∨
      x.l.op = 0x0F then share x.cycles x.blocks i
  else cutCycles x.l { x.c with row0 := b.row, nrow := 1, col0 := b.q0, ncol := b.nq, och0 := b.k0, noch := b.nk } 0

/-! ## Status -/

/-- The array records a refusal or poison (R225). -/
def arrErr (t code stream q : Nat) : Act :=
  blockErr F.ARR_ERRSTAT_ERR F.ARR_ERRSTAT_CODE F.ARR_ERRCNT_COUNT t code
    [(F.ARR_ERRSTAT_STREAM, stream), (F.ARR_ERRSTAT_QUEUE, q)]

/-- The SFU records an error (R272). -/
def sfuErr (t code stream : Nat) : Act :=
  blockErr F.SFU_ERRSTAT_ERR F.SFU_ERRSTAT_CODE F.SFU_ERRCNT_COUNT t code [(F.SFU_ERRSTAT_STREAM, stream)]

/-- The cut that a block belongs to. -/
def State.runOf (s : State) (t : Nat) (b : ArrBlock) : Option CutRun := (s.tile t).runs.find? fun r => r.q == b.q && r.slot == b.slot

/-- What the SFU does for a tile's blocks: the block of a function or table that runs, and the function that a draining block's
output stage evaluates. One block drains while a younger one computes (R223, R274). -/
def State.sfuItem (s : State) (t : Nat) : Option (CutRun × RunCx) :=
  (s.tile t).blocks.getLast?.bind fun b => (s.runOf t b).bind fun r => (s.cxOf r).bind fun x =>
    if x.l.op = 9 ∨ x.l.op = 0x0F then some (r, x) else none
def State.sfuDrain (s : State) (t : Nat) : Option (CutRun × RunCx) :=
  match (s.tile t).blocks with
  | b :: _ :: _ => (s.runOf t b).bind fun r => (s.cxOf r).bind fun x =>
      if (x.p.sfuPar x.l).isSome ∧ x.l.op ≠ 9 ∧ x.l.op ≠ 0x0F ∧ x.c.role ≠ rolePartial then some (r, x) else none
  | _ => none

/-- `ARR_CUR` shows the block that computes, `SFU_STAT` the work of the SFU. -/
def syncCur (t : Nat) : Act := fun s =>
  let item := s.sfuItem t
  let drain := s.sfuDrain t
  let par := (item.or drain).bind fun e => e.2.p.sfuPar e.2.l
  (match ((s.tile t).blocks.getLast?).bind (s.runOf t) with
   | none => [.word .ARR_CUR t 0 0]
   | some r => [.fld F.ARR_CUR_BUSY t 0 1, .fld F.ARR_CUR_QUEUE t 0 r.q, .fld F.ARR_CUR_STREAM t 0 r.stream]) ++
  [.fld F.SFU_STAT_FUSED t 0 (b2n drain.isSome), .fld F.SFU_STAT_ITEM t 0 (b2n item.isSome),
   .fld F.SFU_STAT_FUNC t 0 (par.elim 0 (·.func)), .fld F.SFU_STAT_COMPAT t 0 (b2n (par.elim false fun q => q.compat == 1)),
   .fld F.SFU_STAT_STREAM t 0 ((item.or drain).elim 0 (·.1.stream))]

/-- `SFU_MPRES` shows the entries that hold a microprogram and those that serve a block (R274). -/
def syncMpres (t : Nat) : Act := fun s =>
  let c := s.tile t
  let use := c.micro.filter fun m => c.blocks.any fun b => c.runs.any fun r => r.q == b.q && r.slot == b.slot &&
    r.prog == m.prog && (s.cxOf r).elim false fun x => x.micro == some m.recIx
  [.fld F.SFU_MPRES_VALID t 0 (maskList (c.micro.map (·.entry))), .fld F.SFU_MPRES_INUSE t 0 (maskList (use.map (·.entry)))]

/-- A change of a running cut. -/
def updRun (t q slot : Nat) (f : CutRun → CutRun) : Act :=
  updT t fun c => { c with runs := c.runs.map fun r => if r.q = q ∧ r.slot = slot then f r else r }

/-! ## Items (R225) -/

/-- The request that waits for a posted item completes when the item is issued (R336). -/
def postLive (id t q slot : Nat) : Act := fun s =>
  let x := s.stream id
  let rs := (x.items.filter fun i => i.tile == t && i.q == q && i.slot == slot).filterMap (·.req)
  Act.seq [updLive id t q slot fun i => { i with req := none }, .each rs fun r => completeHeld x.inst r 0 id 0] s

/-- The bytes of a cut's output in memory, its scale plane included. -/
def RunCx.outTotal (x : RunCx) : Nat :=
  if x.c.role = rolePartial then x.c.nrow * x.c.ncol * x.c.noch * 8 else x.outRows * x.p.outPitch x.li x.l

/-- What a cut writes, as addresses and bytes: its output and its own buffers but the input band and the partial words that it
reads. -/
def RunCx.writes (x : RunCx) : List (Nat × Nat) :=
  let c := x.c
  (x.outBase, x.outTotal) :: ((x.p.cutBuffers x.li x.l c).filter fun b => b.1 != c.inAddr && !(c.role == roleFinal && b.1 == c.haloAddr)).map fun b =>
    (wsAddr c.tile b.1, b.2)

/-- The codes of R225 that a cut fails on tile `t` for stream `own` of instance `n`, `BRIDLE` not among them, and its
violations of R105. A tap copy that it would write is a buffer outside what it may use (R168). -/
def State.cutChecks (s : State) (n own t : Nat) (x : RunCx) : List Nat × List Nat :=
  let c := x.c
  let tiles := c.dstTile :: ([(c.ht, c.srcN), (c.hb, c.srcS), (c.hl, c.srcW), (c.hr, c.srcE)].filterMap fun e =>
    if e.1 ≠ 0 ∧ e.2 ≠ 0xFF then some e.2 else none)
  (x.p.layerCodes x.li x.l ++ x.p.cutCodes x.li x.l c ++
    (if c.tile ≠ t then [9] else []) ++
    (if c.mode = cutSpill ∧ !s.inDev n (c.spill % 2 ^ 40) (x.inTotal + x.outTotal) then [10] else []) ++
    (if x.writes.any fun w => s.hitsTaps n own w.1 w.2 then [10] else []) ++
    (if tiles.all fun u => s.inService u && s.owner u == some n then [] else [11]),
   if x.l.bridle then x.p.bridleViols x.l false else [])

/-- An array item is refused (R107, R225): it writes nothing and completes with `ST_BAD_DESC`. Any refused descriptor with
`BRIDLE` = 1 shows in the Bridle registers, with violation 0 where it failed no check of R105. (DEDUCED, log entry 158) -/
def refuseCut (t : Nat) (i : Item) (bridle : Bool) (codes viols : List Nat) : Act := .seq
  [arrErr t ((codes ++ if viols = [] then [] else [14]).min?.getD 0) i.stream i.q,
   .when bridle (.seq [.eff [.fld F.ARR_BRSTAT_VIOL t 0 1, .fld F.ARR_BRSTAT_LASTVIOL t 0 (viols.min?.getD 0),
     .fld F.ARR_BRSTAT_STREAM t 0 i.stream], count F.ARR_BRREF_COUNT t 1]),
   finishItem t i 0x0104 0 [], syncQstat t]

/-! ## Fences (R218) -/

/-- The cuts of a layer whose fences cover rows of this tile's input, and how many of their rows must be stored, for the
input rows `lo` to `hi`. (DEDUCED, log entry 66) -/
def needRows (x : RunCx) (layer : Nat) (lo hi : Nat) (part : Bool) : List (Nat × Cut × Nat) :=
  (x.p.cutsOf layer).filterMap fun e =>
    let d := e.2
    if (d.role == rolePartial) = part ∧ (d.dstTile = x.c.tile ∨ (d.mode = cutSpill ∧ x.c.mode = cutSpill)) ∧
        d.row0 ≤ hi ∧ lo < d.row0 + d.nrow then
      some (e.1, d, min (hi + 1) (d.row0 + d.nrow) - d.row0)
    else none

/-- Every fence that a block's rows need covers them. (DEDUCED, log entry 66) -/
def State.fencesCover (s : State) (x : RunCx) (r : CutRun) (row : Nat) : Bool :=
  let own := x.l.rows x.c
  let sp := inRows x.l row
  let lo := (clampInt sp.1 own.1 own.2).toNat
  let hi := (clampInt sp.2 own.1 ((own.2 : Int) - 1)).toNat
  let at1 := x.l.span1 row 1 x.l.inH x.l.kh x.l.sh x.l.pt x.l.dil
  let ok (l : List (Nat × Cut × Nat)) : Bool := l.all fun e =>
    decide (e.2.2 ≤ s.fenceRows e.2.1.dstTile r.prog e.1 r.stream r.frame)
  let src1 := if x.l.src1 = recNone ∨ at1.2 ≤ at1.1 then [] else needRows x x.l.src1 at1.1 (at1.2 - 1) false
  if x.c.role = roleFinal then ok (needRows x x.li row row true) &&
    (x.l.op == 0 || ok (needRows x x.l.src0 lo hi false))
  else ok (needRows x x.l.src0 lo hi false) && ok src1

/-- The sides (0 to 3: N, S, W, E) of the halo that a block reads. -/
def haloSides (x : RunCx) (b : BlockAt) : List Nat :=
  let rs := x.l.rows x.c
  let cs := x.l.cols x.c
  let sp := inRows x.l b.row
  let tr : Layer := { x.l with sh := x.l.sw, pt := x.l.pl, dil := x.l.diw, kh := x.l.kw }
  let q0 := (inRows tr b.q0).1
  let q1 := (inRows tr (b.q0 + b.nq - 1)).2
  if x.c.role = roleFinal then []
  else [if sp.1 < rs.1 ∧ 0 < rs.1 ∧ x.c.ht ≠ 0 then some 0 else none,
        if (rs.2 : Int) ≤ sp.2 ∧ rs.2 < x.l.inH ∧ x.c.hb ≠ 0 then some 1 else none,
        if q0 < cs.1 ∧ 0 < cs.1 ∧ x.c.hl ≠ 0 then some 2 else none,
        if (cs.2 : Int) ≤ q1 ∧ cs.2 < x.l.inW ∧ x.c.hr ≠ 0 then some 3 else none].filterMap id

/-- A cut reads what another cut of the program writes. -/
def Prog.readsCut (p : Prog) (reader writer : Cut) : Bool :=
  if writer.role = rolePartial then reader.layer == writer.layer && reader.role == roleFinal && reader.tile == writer.dstTile
  else (p.layer reader.layer).elim false fun l => l.src0 == writer.layer || l.src1 == writer.layer

/-- The work item of a queue slot, on chip or still in its ring. -/
def State.itemAt (s : State) (t q slot : Nat) : Item :=
  ((s.qItems t q).find? fun i => i.slot == slot).getD (parseItem q slot (s.bytes (s.qSlotAddr t q slot) 64))

/-- The first rows, among those still to be read, that a running cut's next block reads of each source. -/
def RunCx.nextRows (y : RunCx) (u : CutRun) : List (Nat × Int) :=
  let r := (y.block u.done).row
  [(y.l.src0, (inRows y.l r).1), (y.l.src1, ((y.l.span1 r 1 y.l.inH y.l.kh y.l.sh y.l.pt y.l.dil).1 : Nat))]

/-- A running cut still has to read what the row `row` of a striped output would overwrite: of a stripe that it takes as its own
input, the row that stood in the same place (R220); else the row one stripe before. (DEDUCED, log entry 74) -/
def RunCx.stillReads (y : RunCx) (u : CutRun) (x : RunCx) (row : Nat) : Bool :=
  decide (u.done < y.blocks) &&
  (if y.c.mode = cutStripe ∧ y.c.tile = x.c.dstTile ∧ y.c.inAddr = x.c.outAddr ∧ y.l.src0 = x.li then
    let i := row + y.l.pt - y.c.row0 * y.l.sh
    let k := (i - y.c.lbrows) / max 1 (y.c.stripe * y.l.sh)
    decide (y.c.lbrows ≤ i) && decide ((y.block u.done).row < y.c.row0 + k * y.c.stripe)
   else (y.nextRows u).any fun e => e.1 == x.li && decide (e.2 ≤ (row : Int) - x.c.stripe))

/-- A producing cut waits (R218): for the items, on chip or in their rings, that read for another frame the band it writes, and
for the running cuts that have still to read the row of the stripe it would overwrite. (DEDUCED, log entry 74) -/
def State.producerWaits (s : State) (x : RunCx) (r : CutRun) (row : Nat) : Bool :=
  let ts := s.tilesOf (s.stream r.stream).inst
  let old := (s.tile x.c.dstTile).fences.find? fun f => f.prog == r.prog && f.cut == r.cut
  let reader (cut : Nat) : Bool := (x.p.cut cut).elim false fun d => x.p.readsCut d x.c
  (old.elim false fun f => (f.stream != r.stream || f.frame != r.frame) &&
    (s.stream f.stream).items.any fun l => !l.done && decide (l.q ≤ 3) &&
      (let i := s.itemAt l.tile l.q l.slot
       i.engine == 0 && i.frame == f.frame && leAt i.payload 0 2 == r.prog && reader (leAt i.payload 4 4))) ||
  (x.c.mode == cutStripe && ts.any fun t => (s.tile t).runs.any fun u =>
    u.stream == r.stream && u.frame == r.frame && u.prog == r.prog && reader u.cut &&
      (s.cxOf u).elim false fun y => y.stillReads u x row)

/-- A reference latent that the row of a block reads is not in the pool yet. -/
def RunCx.refWaits (x : RunCx) (b : BlockAt) : Bool :=
  [x.l.src0, x.l.src1].any fun a => (a == srcRefShort || a == srcRefLong) &&
    (let sp := x.l.span1 b.row 1 x.l.inH x.l.kh x.l.sh x.l.pt x.l.dil
     (span sp.1 sp.2).any fun r => (x.ref (a == srcRefLong) r 0 0).isNone)

/-- The decoded anchors that the row of a block reads are not there yet: an encoder's ŷ through the block row, and in a decoder the
groups before it of every plot that it crosses (R49, R124). (DEDUCED, log entry 160) -/
def State.anchWaits (s : State) (x : RunCx) (r : CutRun) (b : BlockAt) : Bool :=
  match (if x.l.src0 = srcAnchors ∨ x.l.src1 = srcAnchors then s.lscFrame r.stream r.frame else none), x.p.tensors with
  | some f, some w =>
    let h := f.shape
    let base := (r.frame + 2 ^ 32 - f.frame) % 2 ^ 32
    let runs := (s.tiles.flatMap fun t => t.2.ece).filter fun e => e.dec && e.stream == r.stream && e.frame == f.frame
    let there (g : PlotSt) (j : Nat) : Bool := g.phase == .decoded || (g.phase == .missing && g.zeroed) ||
      runs.any fun e => e.plot == g.ix && decide (2 * j + 1 ≤ e.released)
    if !s.isDecoding r.stream then
      !((if h.camp then [50 * f.channel + base + b.row] else span 0 (4 * (b.row / 4) + 4)).all (s.rowStored x.p h r.stream f.frame w.1))
    else !(f.plots.all fun g =>
      if h.camp then g.ix != f.channel || there g (base + b.row)
      else
        let rs := h.plotRows g.ix 64
        !(decide (rs.1 ≤ b.row / 4) && decide (b.row / 4 < rs.2)) || there g (b.row / 4 - rs.1))
  | _, _ => false

/-- How the head item of a queue stands: nothing to start, waiting on a fence or halo, waiting otherwise, or ready. -/
inductive QHead where
  | none | fence | wait | ready (r : CutRun) (x : RunCx) (b : BlockAt)

/-- The head item of a queue (R222): the first that has a block left. (DEDUCED, log entry 74) -/
def State.qHead (s : State) (t q : Nat) : QHead :=
  match (s.tile t).runs.find? fun r => r.q == q && (s.cxOf r).elim false fun x => decide (r.next < x.blocks) with
  | Option.none => .none
  | some r => match s.cxOf r with
    | Option.none => .none
    | some x =>
      let b := x.block r.next
      if !((haloSides x b).all r.halos.contains) || !s.fencesCover x r b.row || s.producerWaits x r b.row then .fence
      else if x.refWaits b || s.anchWaits x r b then .wait
      else if x.usesSfu && !s.isOn .sfu t then .wait
      else if (x.p.recData recGain x.l.arec).isSome && (s.lscFrame r.stream r.frame).isSome && decide (x.qs.length ≤ x.qRow b.row) then .wait
      else if (x.micro.elim false fun m => !r.microBad && !((s.tile t).micro.any fun e => e.prog == r.prog && e.recIx == m)) then .wait
      else .ready r x b

/-- `FENCEWAIT` shows the queues whose head item waits on a fence (R228). -/
def syncFence (t : Nat) : Act := fun s =>
  [.fld F.ARR_QSTAT_FENCEWAIT t 0 (maskList ((List.range 4).filter fun q => match s.qHead t q with | .fence => true | _ => false))]

/-- `FENCEWAIT` of every tile of an instance: a fence that advances, or a halo or an item that arrives, can release items
anywhere in it. -/
def syncFences (n : Nat) : Act := fun s => Act.each (s.tilesOf n) syncFence s

/-- `ARR_ITEM_START`: the next item that the stream mover has handed to a queue is checked; a cut of another queue is
refused under R325. -/
def arrItemStartX (t q : Nat) : Act := fun s =>
  match (s.qItems t q).find? fun i => i.started && i.engine == 0 && !((s.tile t).runs.any fun r => r.q == q && r.slot == i.slot) with
  | none => []
  | some i =>
    if !s.isOn .arr t then []
    else
      let n := (s.stream i.stream).inst
      let pid := leAt i.payload 0 2
      let cut := leAt i.payload 4 4
      match s.runCx n pid cut i.stream i.frame with
      | none => refuseCut t i false [8] [] s
      | some x =>
        if x.c.queue ≠ q then Act.seq [refuseItem t i 0x0104 2, syncQstat t] s
        else
          let ck := s.cutChecks n i.stream t x
          if ck.1 ≠ [] ∨ ck.2 ≠ [] then refuseCut t i x.l.bridle ck.1 ck.2 s
          else
            let run : CutRun := { q := q, slot := i.slot, stream := i.stream, frame := i.frame, prog := pid, cut := cut }
            Act.seq [updT t fun c => { c with runs := c.runs ++ [run] },
            .when (bitOf i.flags 2) (.opt (s.liveOf t q i.slot) fun id => postLive id t q i.slot), syncQstat t, syncFence t] s

/-- `ARR_BLOCK_START`: at a block boundary the array takes the next block of the highest-priority enabled queue whose head
item can start; a block run while a higher queue waits on a fence counts as fill (R222). One block may drain meanwhile
(R223). (DEDUCED, log entry 70) -/
def arrBlockStartX (t : Nat) : Act := fun s =>
  if !s.isOn .arr t ∨ 2 ≤ (s.tile t).blocks.length then []
  else
    let qs := (List.range 4).filter fun q => bitOf (s.get F.ARR_QCTL_QEN t 0) q
    match qs.findSome? fun q => match s.qHead t q with | .ready r x _ => some (q, r, x) | _ => none with
    | none => syncFence t s
    | some (q, r, x) =>
      let fill := qs.any fun h => decide (h < q) && match s.qHead t h with | .fence => true | _ => false
      let stamp := (((s.tile t).micro.map (·.used)).max?).getD 0 + 1
      Act.seq [updRun t q r.slot fun r => { r with next := r.next + 1 },
        updT t fun c => { c with
          blocks := c.blocks ++ [⟨q, r.slot, r.next, x.blockCycles r.next⟩],
          micro := c.micro.map fun e => if e.prog = r.prog ∧ x.micro = some e.recIx then { e with used := stamp } else e },
        .when fill (count F.ARR_FILLCNT_COUNT t 1), syncCur t, syncMpres t, syncFence t] s

/-! ## Storing a block (R215, R218, R224) -/

/-- The fence of the cut's band counts the rows stored for its frame (R218). -/
def advanceFence (x : RunCx) (r : CutRun) (rows : Nat) : Act :=
  updT x.c.dstTile fun c => { c with fences := (c.fences.filter fun f => !(f.prog == r.prog && f.cut == r.cut)) ++
    [⟨r.prog, r.cut, r.stream, r.frame, rows⟩] }

/-- The canonical place of an element (R497). -/
def canonKey (r q k : Nat) : Nat := (r * 2 ^ 16 + q) * 2 ^ 16 + k

/-- A block's elements, and its scale codes, with their canonical places. -/
def keyed (b : BlockAt) (codes : List Nat) (n : Nat) (k0 : Nat) : List (Nat × Nat) :=
  codes.zipIdx.map fun e => (canonKey b.row (b.q0 + e.2 / max 1 n) (k0 + e.2 % max 1 n), e.1)

/-- The line buffer takes the rows that the next stripe shares with this one, with their scale codes (R220).
(DEDUCED, log entry 73) -/
def turnStripe (x : RunCx) : Act := fun s =>
  Act.each [x.elems, x.codes] (fun a =>
    let rows := (List.range x.c.lbrows).map fun j =>
      let o := x.windowRow a (j + x.c.stripe * x.l.sh)
      (j, s.bytes o a.pitch, s.poisonedIn o a.pitch)
    Act.each rows fun e => memWrite (x.windowRow a e.1) e.2.1 e.2.2 false) s

/-- The second output of a `D2S` cut: the channels that leave at input resolution (R211), converted as the first output is, each
with its own random value (R239). (DEDUCED, log entry 75) -/
def secondOutput (t stream : Nat) (x : RunCx) : Act := fun s =>
  let f := max 1 x.l.factor
  let fo := (fmtOf x.l.fmtOut).getD fmtF32
  if x.l.op ≠ 0x0B ∨ x.c.och0 ≠ 0 ∨ x.rest = 0 then []
  else
    let r0 := x.c.row0 / f
    let q0 := x.c.col0 / f
    let rows := (List.range ((x.c.row0 + x.c.nrow - 1) / f + 1 - r0)).map (r0 + ·)
    let cols := (List.range ((x.c.col0 + x.c.ncol - 1) / f + 1 - q0)).map (q0 + ·)
    Act.each (rows.flatMap fun r => cols.map fun q => (r, q)) (fun e => fun s =>
      let os := (List.range x.rest).map fun k => s.operand x x.c.row0 e.2 ⟨0, e.1, e.2, f * f * x.l.cout + k⟩
      let cs := os.zipIdx.map fun o => (o.1.real, fo.convert (max 1 x.l.rnd)
        (srR x.seed (x.li % 2 ^ 24) x.frame ((e.1 * x.l.inW + e.2) * x.rest + o.2)) false o.1.real)
      let bad := os.any (·.bad)
      let codes := if bad then (List.range cs.length).map fun i => Config.freeNat (s.draws + i) else cs.map (·.2.code)
      Act.seq [memWrite (x.restAt e.1 e.2) (packCodes (fmtWidth x.l.fmtOut) codes) bad false,
        .when bad (.eff [.draw cs.length]),
        .when (!x.l.bridle) (convStats t stream x.li (convRunOf (os.filterMap (·.conv)) |>.append
          (convRunOf (cs.map fun c => (c.1, fo.value c.2.code, c.2)))))] s) s

/-- The bytes of elements in canonical order, with their scale codes (R497). (DEDUCED, log entry 75) -/
def canonBytes (fmt : Nat) (part : Bool) (outs scales : List (Nat × Nat)) : List Byte :=
  let sort (l : List (Nat × Nat)) : List Nat := (l.mergeSort fun a b => decide (a.1 ≤ b.1)).map (·.2)
  if part then ((sort outs).map (toLe 8)).flatten
  else packCodes (fmtWidth fmt) (sort outs) ++ (sort scales).map fun c => BitVec.ofNat 8 c

/-! ## Layer digests (R497, R498) -/

/-- The cuts of a program whose output is digested in a stream's direction: a decoder runs no encoder layer, and one with
`LATONLY` only the latent path (R200). (DEDUCED, log entry 75) -/
def Prog.digestCuts (p : Prog) (dec latOnly : Bool) : List (Nat × Cut) :=
  p.cuts.zipIdx.filterMap fun e =>
    let c := Cut.parse e.1
    let path := (p.layer c.layer).elim 0 (·.path)
    if c.role = rolePartial ∨ (p.codec ∧ dec ∧ (path = 0 ∨ (latOnly ∧ path ≠ 1))) then none else some (e.2, c)

/-- One record of a layer's digest. -/
def digestRecord (id frame layer ch seq digest : Nat) (bad bridle : Bool) : List Byte :=
  toLe 4 frame ++ toLe 4 layer ++ toLe 8 digest ++ toLe 2 id ++ toLe 1 ch ++ toLe 1 (b2n bad + 2 * b2n bridle) ++
    toLe 4 seq ++ List.replicate 8 0

/-- The records of a frame, layer by layer, written circularly to the stream's digest ring. -/
def writeDigests (id prog frame ch : Nat) (cuts : List (Nat × Cut)) : Act := fun s =>
  let x := s.stream id
  match s.prog x.inst prog with
  | none => []
  | some p =>
    let base := s.sget F.SNP_DGBASE_LO_BASE_LO id * 2 ^ 12 + s.sget F.SNP_DGBASE_HI_BASE_HI id * 2 ^ 32
    let slots := max 1 (s.sget F.SNP_DGCFG_PAGES id * 128)
    let layers := ((cuts.map (·.2.layer)).dedup.mergeSort fun a b => decide (a ≤ b))
    Act.each layers (fun l => fun s =>
      let x := s.stream id
      let ds := x.digs.filter fun d => d.frame == frame && d.ch == ch && (cuts.any fun c => c.1 == d.cut && c.2.layer == l)
      let ly := (p.layer l).getD default
      let dg := crc64 (canonBytes ly.fmtOut false (ds.flatMap (·.outs)) (ds.flatMap (·.scales)))
      Act.seq [putBytes x.inst (base + 32 * (x.digSeq % slots))
          (digestRecord id frame l ch x.digSeq dg (ds.any (·.bad)) ly.bridle) false,
        updS id fun x => { x with digSeq := (x.digSeq + 1) % 2 ^ 32 }] s) s

/-- A cut of a stream has completed: while digests are enabled its output is kept, and the records of the frame are written
once its last layer has completed. A Campion frame's channels are digested one after another. -/
def keepDigest (r : CutRun) : Act := fun s =>
  let id := r.stream
  let x := s.stream id
  if s.slive F.SNP_DGCFG_EN id ≠ 1 then updS id (fun x => { x with digs := [] }) s
  else match s.prog x.inst r.prog with
    | none => []
    | some p =>
      let need := p.digestCuts (s.slive F.ECE_LSCW0_DIR id == 1) (s.slive F.ECE_TAPCFG_LATONLY id == 1)
      let ch := if p.profile = some 2 then (x.digs.filter fun d => d.frame == r.frame && d.cut == r.cut).length else 0
      Act.seq [updS id fun x => { x with digs := x.digs ++ [⟨r.frame, ch, r.cut, r.outs, r.scales, r.bad⟩] },
        .read fun s =>
          let ds := (s.stream id).digs.filter fun d => d.frame == r.frame && d.ch == ch
          .when (need.all fun c => ds.any fun d => d.cut == c.1) (.seq [writeDigests id r.prog r.frame ch need,
            .when (p.profile != some 2) (updS id fun x => { x with digs := x.digs.filter fun d => d.frame != r.frame })])] s

/-! ## Blocks and cuts end -/

/-- What the block added to the counters (R107, R228, R274). -/
def countBlock (t : Nat) (x : RunCx) (r : CutRun) (k : ArrBlock) (b : BlockAt) (o : BlockOut) : Act := fun s =>
  let n := x.blocks
  let i := k.block
  let freq := if x.l.op = 0 ∧ x.l.fpath ≠ 0 ∧ x.c.role ≠ roleFinal then transformTiles x.l x.c * (redCh x.l x.c + x.c.noch) else 0
  let spill := if x.c.mode = cutSpill then x.bandBytes + x.c.nrow * x.outPitch else 0
  let par := x.p.sfuPar x.l
  let el := if x.l.op = 9 then b.nq * b.nk else o.evals
  let after := (s.tile t).blocks.find? fun e => !(e.q == k.q && e.slot == k.slot && e.block == k.block)
  let stall := match par, after with
    | some q, some e => if x.l.op = 0x0F ∨ x.c.role = rolePartial then 0 else drainCycles q x.microRec (b.nq * b.nk) b.nk - e.cycles
    | _, _ => 0
  Act.seq [count256 F.ARR_BUSYCNT_COUNT t k.cycles, countUnit F.ARR_MACCNT_COUNT t (2 ^ 20) (share (cutMacs x.l x.c) n i),
    count F.ARR_FREQCNT_COUNT t (share freq n i), countUnit F.ARR_SPILLCNT_COUNT t 4096 (share spill n i),
    count F.ARR_BRSAT_COUNT t (if x.l.bridle then o.sat else 0),
    .when (o.conv.codes != []) (convStats t r.stream x.li o.conv),
    count256 F.SFU_EVALCNT_COUNT t el, count256 F.SFU_COMPATCNT_COUNT t (if par.elim false fun q => q.compat == 1 then o.evals else 0),
    count F.SFU_NANCNT_COUNT t o.nans, count256 F.SFU_STALLCNT_COUNT t stall] s

/-- The last block of a cut has been stored: the item completes with its digest (R224, R539). -/
def finishCut (t : Nat) (x : RunCx) (r : CutRun) : Act := fun s =>
  let st := if r.bad then 0x0201 else 0
  let dg := crc64 (canonBytes x.l.fmtOut (x.c.role == rolePartial) r.outs r.scales)
  Act.seq [secondOutput t r.stream x, .when (x.c.role != rolePartial) (keepDigest r),
    updT t fun c => { c with runs := c.runs.filter fun u => !(u.q == r.q && u.slot == r.slot) },
    .opt ((s.tile t).items.find? fun i => i.q == r.q && i.slot == r.slot) fun i =>
      finishItem t i st dg (if r.bad then [0x0201] else []),
    syncQstat t] s

/-- The taps of a frame become ready as their layers complete; in a decoder those of ŷ, ẑ and p7 only once every plot has been
decoded or is lost (R166). -/
def frameTaps (id frame : Nat) : Act := fun s =>
  let all := !s.isDecoding id || (s.lscFrame id frame).elim false fun f => f.closed && f.plots.all fun p => p.phase == .decoded || p.phase == .missing
  Act.seq [tapStep id frame ((if all then [0, 1, 2, 3] else []) ++ [4, 5, 6, 7]) false, tapCampion id frame] s

/-- The positions of a block that is stored beyond tile `t` cross the Yard (R397): as one range where the block has all their
channels, else position by position. -/
def yardBlock (t : Nat) (x : RunCx) (b : BlockAt) (bad : Bool) : Act := fun s =>
  let a := x.outAt b.row b.q0
  let n := posBytes x.l.fmtOut x.l.cout
  if x.c.role = rolePartial then []
  else if b.nk = x.l.cout then yardSend t a (s.bytes a (b.nq * n)) bad s
  else
    let o := posBytes x.l.fmtOut b.k0
    let m := posBytes x.l.fmtOut b.nk
    Act.each (List.range b.nq) (fun i => yardSend t (a + i * n + o) (s.bytes (a + i * n + o) m) bad) s

/-- `ARR_BLOCK_DONE`: the oldest block that drains is stored, its fence advances with the last block of a row, and the cut
completes after its last block. A block that read poison is written as poisoned (R224). (DEDUCED, log entry 70) -/
def arrBlockDoneX (t : Nat) : Act := fun s =>
  match (s.tile t).blocks with
  | [] => []
  | k :: rest =>
    match (s.tile t).runs.find? fun r => r.q == k.q && r.slot == k.slot with
    | none => Act.seq [updT t fun c => { c with blocks := rest }, syncCur t] s
    | some r => match s.cxOf r with
      | none => Act.seq [updT t fun c => { c with blocks := rest }, syncCur t] s
      | some x =>
        let own := x.block k.block
        let b := (x.stored own).getD { own with nk := 0 }
        let o := s.blockOut x b
        let read := o.bad || (x.stored own).isNone && (s.blockOut x own).bad
        let bad := read || r.microBad
        let o := if bad then s.spoilt x o else o
        let rowEnd := (x.block (k.block + 1)).row != b.row || k.block + 1 == x.blocks
        let stripeEnd := x.c.mode == cutStripe && rowEnd && (b.row + 1 - x.c.row0) % max 1 x.c.stripe == 0 && k.block + 1 != x.blocks
        let ng := if b.nq = 0 then 1 else o.scales.length / b.nq
        let n := (s.stream r.stream).inst
        Act.seq [putBlock x b o bad, yardBlock t x b bad, .when bad (.eff [.draw (o.codes.length + o.scales.length)]), countBlock t x r k b o,
          .when read (.seq [arrErr t 13 r.stream r.q,
            .when (x.usesSfu && x.c.role != rolePartial) (sfuErr t 1 r.stream)]),
          updRun t r.q r.slot fun u => { u with
            done := u.done + 1, bad := u.bad || bad, outs := u.outs ++ keyed b o.codes b.nk b.k0,
            scales := u.scales ++ keyed b o.scales ng (if x.p.ogran x.li = 2 then b.k0 / 32 else 0) },
          updT t fun c => { c with blocks := rest },
          .when rowEnd (advanceFence x r (b.row + 1 - x.c.row0)), .when stripeEnd (turnStripe x),
          .when (rowEnd && x.p.codec && x.p.yLayer == some x.li) (campPool r.stream r.frame),
          .when (rowEnd && x.p.codec && x.p.pLayer == some x.li) (lostMeans r.stream r.frame),
          .when (rowEnd && x.p.codec) (rateStep r.stream r.frame),
          .when (rowEnd && x.p.codec) (frameTaps r.stream r.frame),
          .when (rowEnd && x.p.sLayer == some x.li) (reconStep r.stream r.frame),
          .read fun s => .opt ((s.tile t).runs.find? fun u => u.q == r.q && u.slot == r.slot) fun u =>
            .when (decide (x.blocks ≤ u.done)) (finishCut t x u),
          syncCur t, syncMpres t, syncFences n] s

/-! ## Halos (R216, R217) -/

/-- The cut of the same layer on a tile that holds input row `r`. (DEDUCED, log entry 67) -/
def haloCut (x : RunCx) (t r : Nat) : Option Cut :=
  ((x.p.cutsOf x.li).map (·.2)).find? fun d =>
    let rs := x.l.rows d
    d.tile == t && d.role != roleFinal && decide (rs.1 ≤ r) && decide (r < rs.2)

/-- The halo positions of a side: rows above and below span the cut's own columns and its column halos.
(DEDUCED, log entry 67) -/
def haloPositions (x : RunCx) (side : Nat) : List (Nat × Nat) :=
  let c := x.c
  let rs := x.l.rows c
  let cs := x.l.cols c
  let span (a n : Nat) : List Nat := (List.range n).map (a + ·)
  let grid (rl ql : List Nat) : List (Nat × Nat) := rl.flatMap fun r => ql.map fun q => (r, q)
  let wide := (span (cs.1 - c.hl) (cs.2 + c.hr - (cs.1 - c.hl))).filter (· < x.l.inW)
  match side with
  | 0 => grid (span (rs.1 - c.ht) (rs.1 - (rs.1 - c.ht))) wide
  | 1 => grid ((span rs.2 c.hb).filter (· < x.l.inH)) wide
  | 2 => grid (span rs.1 (rs.2 - rs.1)) (span (cs.1 - c.hl) (cs.1 - (cs.1 - c.hl)))
  | _ => grid (span rs.1 (rs.2 - rs.1)) ((span cs.2 c.hr).filter (· < x.l.inW))

/-- The tile that supplies a side. (DEDUCED, log entry 67) -/
def haloSource (c : Cut) : Nat → Nat
  | 0 => c.srcN
  | 1 => c.srcS
  | 2 => c.srcW
  | _ => c.srcE

/-- The source of a side has stored the rows, and its own column halo where corners come through it (R217, R218). -/
def State.haloReady (s : State) (x : RunCx) (r : CutRun) (side : Nat) : Bool :=
  let src := haloSource x.c side
  let ps := haloPositions x side
  ps.all fun e => match haloCut x src e.1 with
    | none => false
    | some d =>
      let y : RunCx := { x with c := d }
      (needRows y x.l.src0 e.1 e.1 false).all (fun f => decide (f.2.2 ≤ s.fenceRows f.2.1.dstTile r.prog f.1 r.stream r.frame)) &&
      (let cs := x.l.cols d
       let need := if e.2 < cs.1 then some 2 else if cs.2 ≤ e.2 then some 3 else none
       need.elim true fun sd => (s.tile src).halosIn.any fun h => h.stream == r.stream && h.frame == r.frame && h.prog == r.prog &&
        h.side == sd && (x.p.cut h.cut).elim false fun c => c.layer == x.li)

/-- `HALO_ARRIVAL`: the halo of a side of the first item of a queue that still needs it arrives over the Yard, with its
marks, and its fence advances (R217, R218). -/
def haloArrivalX (t q side : Nat) : Act := fun s =>
  match (s.tile t).runs.find? fun r => r.q == q && !r.halos.contains side &&
      (s.cxOf r).elim false fun x => decide (side < 4) && haloPositions x side != [] with
  | none => []
  | some r => match s.cxOf r with
    | none => []
    | some x =>
      if !s.haloReady x r side then []
      else
        let src := haloSource x.c side
        let ps := haloPositions x side
        let from_ := ps.filterMap fun e => (haloCut x src e.1).map fun d =>
          (place0 { x with c := d } x.elems d.row0 e.1 e.2, x.elems.unit)
        Act.seq [.each (joinRanges from_) fun e => yardReturn t e.1 e.2,
          .each ps fun e => .opt (haloCut x src e.1) fun d => .read fun s =>
            let y : RunCx := { x with c := d }
            .each [(x.elems, y.elems), (x.codes, y.codes)] fun pl =>
              let a := place0 y pl.2 d.row0 e.1 e.2
              .when (pl.1.unit != 0) (memWrite (place0 x pl.1 x.c.row0 e.1 e.2) (s.bytes a pl.1.unit) (s.poisonedIn a pl.1.unit) false),
          countUnit F.ARR_HALOCNT_COUNT t 64 (ps.length * (x.elems.unit + x.codes.unit)),
          updRun t q r.slot fun r => { r with halos := r.halos ++ [side] },
          updT t fun c => { c with halosIn := (c.halosIn.filter fun h => !(h.prog == r.prog && h.cut == r.cut) ||
            (h.stream == r.stream && h.frame == r.frame)) ++ [⟨r.prog, r.cut, r.stream, r.frame, side⟩] },
          syncFences (s.stream r.stream).inst] s

/-! ## Microprograms and statistics -/

/-- A microprogram takes an entry: a free one, else that of the least recently used that serves no block (R266).
(DEDUCED, log entry 77) -/
def microPlace (l : List Micro) (busy : List Nat) : Option (Nat × List Micro) :=
  match (List.range 16).find? fun j => !(l.any (·.entry == j)) with
  | some j => some (j, l)
  | none =>
    let c := l.filter fun m => !busy.contains m.entry
    match c.foldl (fun (a : Option Micro) m => match a with | none => some m | some b => if m.used < b.used then some m else a) none with
    | none => none
    | some v => some (v.entry, l.filter (· != v))

/-- `SFU_MICRO_LOAD_DONE`: the microprogram that the first waiting item of a queue needs has loaded, with `fails` loads that
did not pass their check: none, one (counted as transient), or both, which poisons the cut (R266). (DEDUCED, log entry 77) -/
def sfuMicroLoadDoneX (t q fails : Nat) : Act := fun s =>
  match (s.tile t).runs.find? fun r => r.q == q && !r.microBad && (s.cxOf r).elim false fun x =>
      x.micro.elim false fun m => !((s.tile t).micro.any fun e => e.prog == r.prog && e.recIx == m) with
  | none => []
  | some r =>
    if 2 ≤ fails then Act.seq [sfuErr t 2 r.stream, updRun t q r.slot fun r => { r with microBad := true }] s
    else match (s.cxOf r).bind (·.micro) with
      | none => []
      | some m =>
        let stamp := (((s.tile t).micro.map (·.used)).max?).getD 0 + 1
        Act.seq [.when (fails == 1) (sfuErr t 3 r.stream),
          updT t fun c => match microPlace c.micro (bitList 16 (s.get F.SFU_MPRES_INUSE t 0)) with
            | none => c
            | some (j, l) => { c with micro := l ++ [⟨j, r.prog, m, stamp⟩] },
          syncMpres t] s

/-- The conversion statistics are cleared (R248). -/
def cvClear (t : Nat) : Act := .eff [.resetRegs fun k => k.inTile t &&
    [Reg.ARR_CVCNT, .ARR_CVSSE_LO, .ARR_CVSSE_HI, .ARR_CVSSX_LO, .ARR_CVSSX_HI, .ARR_CVSAT, .ARR_CVNAN].contains k.reg,
  .fld F.ARR_CVCTL_CLR t 0 0]

/-- `ARR_CVCTL_CLR`. (DEDUCED, log entry 148) -/
def arrCvctlClrX (q : Requester) (t : Nat) : Act := writeReg q t .ARR_CVCTL 0 fun t _ => cvClear t

/-! ## The commands -/

/-- `ARR_ITEM_START`. -/
def execArrItemStart (t q : Nat) (s : State) : Host.Outcome State Fault Refusal := done (arrItemStartX t q) s

/-- `ARR_BLOCK_START`. -/
def execArrBlockStart (t : Nat) (s : State) : Host.Outcome State Fault Refusal := done (arrBlockStartX t) s

/-- `ARR_BLOCK_DONE`. -/
def execArrBlockDone (t : Nat) (s : State) : Host.Outcome State Fault Refusal := done (arrBlockDoneX t) s

/-- `HALO_ARRIVAL`. -/
def execHaloArrival (t q side : Nat) (s : State) : Host.Outcome State Fault Refusal := done (haloArrivalX t q side) s

/-- `SFU_MICRO_LOAD_DONE`. -/
def execSfuMicroLoadDone (t q fails : Nat) (s : State) : Host.Outcome State Fault Refusal := done (sfuMicroLoadDoneX t q fails) s

/-- `ARR_CVCTL_CLR`. -/
def execArrCvctlClr (q : Requester) (t : Nat) (s : State) : Host.Outcome State Fault Refusal := done (arrCvctlClrX q t) s

end Sys2Proof.Machine
end

