-- ==== Sys2Proof/Machine/Sha.lean ====
section
/-! DEFINITION. The SHA-2 family (FIPS 180-4) and HMAC-SHA-256 (RFC 2104). The spec names SHA-256 for the program digest (R100),
the training settings (R463) and Hasp (R506, R507), and SHA-384 for the check of a configuration image (R450). One construction over
a record of parameters gives both; its constants are worked out from the roots of the first primes, which is how the standard defines
them. -/
namespace Sys2Proof.Machine

/-- The primes below `m`, smallest first: each number that no prime before it divides. -/
def primesBelow (m : Nat) : List Nat :=
  (List.range' 2 (m - 2)).foldl (fun ps c => if ps.any fun p => c % p == 0 then ps else ps ++ [c]) []

/-- The integer part of the `k`-th root of `x`, for a root below 2^`n`: its bits are tried from the highest down. -/
def rootBelow (k x n : Nat) : Nat :=
  (List.range n).foldl (fun r i => let c := r + 2 ^ (n - 1 - i); if c ^ k ≤ x then c else r) 0

/-- The first `w` bits of the fraction of the `k`-th root of `p`, for a root below 2^8. -/
def rootFraction (k w p : Nat) : Nat := rootBelow k (p * 2 ^ (k * w)) (w + 8) % 2 ^ w

/-- What tells one function of the family from another: the word's bits, the rounds, the rotations of the two functions of a
round and of the two of the schedule (the last distance of which is a shift), the initial value and the words of the digest. -/
structure Sha2 where
  word : Nat
  rounds : Nat
  mixA : List Nat
  mixE : List Nat
  far : List Nat × Nat
  near : List Nat × Nat
  start : List Nat
  out : Nat
  deriving DecidableEq, Repr

/-- SHA-256: the initial value comes from the square roots of the first eight primes. -/
def sha256Params : Sha2 :=
  { word := 32, rounds := 64, mixA := [2, 13, 22], mixE := [6, 11, 25], far := ([7, 18], 3), near := ([17, 19], 10)
    start := (primesBelow 20).map (rootFraction 2 32), out := 8 }

/-- SHA-384: the initial value comes from the square roots of the ninth to the sixteenth prime. -/
def sha384Params : Sha2 :=
  { word := 64, rounds := 80, mixA := [28, 34, 39], mixE := [14, 18, 41], far := ([1, 8], 7), near := ([19, 61], 6)
    start := ((primesBelow 54).drop 8).map (rootFraction 2 64), out := 6 }

/-- The round constants: the fractions of the cube roots of the first primes, one for each round. -/
def Sha2.constants (f : Sha2) : List Nat := ((primesBelow 410).take f.rounds).map (rootFraction 3 f.word)

/-- The exclusive or of the rotations of a word to the right by each of the distances. -/
def Sha2.spin (f : Sha2) (ds : List Nat) (x : Nat) : Nat :=
  ds.foldl (fun a d => a ^^^ (x / 2 ^ d + x % 2 ^ d * 2 ^ (f.word - d))) 0

/-- One word more of the schedule, in front of the words so far (the newest first). -/
def Sha2.extend (f : Sha2) (w : List Nat) : List Nat :=
  let x := w.getD 14 0
  let y := w.getD 1 0
  (w.getD 15 0 + (f.spin f.far.1 x ^^^ x / 2 ^ f.far.2) + w.getD 6 0 + (f.spin f.near.1 y ^^^ y / 2 ^ f.near.2)) % 2 ^ f.word :: w

/-- The schedule of a block of sixteen words. -/
def Sha2.schedule (f : Sha2) (b : List Nat) : List Nat := (repeatN f.extend (f.rounds - 16) b.reverse).reverse

/-- The two histories of four words that a round shifts, the newest word first. -/
structure Sha2Regs where
  as : List Nat
  es : List Nat
  deriving DecidableEq, Repr

/-- One round, under its constant and its word of the schedule: each history takes one word in and gives its oldest up. -/
def Sha2.round (f : Sha2) (v : Sha2Regs) (kw : Nat × Nat) : Sha2Regs :=
  let a := v.as.getD 0 0
  let b := v.as.getD 1 0
  let e := v.es.getD 0 0
  let g := v.es.getD 2 0
  let choice := g ^^^ (e &&& (v.es.getD 1 0 ^^^ g))
  let majority := (a &&& b) ||| (v.as.getD 2 0 &&& (a ||| b))
  let t := v.es.getD 3 0 + f.spin f.mixE e + choice + kw.1 + kw.2
  { as := (t + f.spin f.mixA a + majority) % 2 ^ f.word :: v.as.take 3
    es := (v.as.getD 3 0 + t) % 2 ^ f.word :: v.es.take 3 }

/-- The chaining value after one block. -/
def Sha2.absorb (f : Sha2) (h : List Nat) (b : List Byte) : List Nat :=
  let n := f.word / 8
  let w := f.schedule ((List.range 16).map fun i => beAt b (n * i) n)
  let v := (f.constants.zip w).foldl f.round ⟨h.take 4, h.drop 4⟩
  (h.zip (v.as ++ v.es)).map fun e => (e.1 + e.2) % 2 ^ f.word

/-- The message with a one bit, zeros and its length in bits in two words, in whole blocks of sixteen words. -/
def Sha2.padded (f : Sha2) (m : List Byte) : List Byte :=
  let n := f.word / 4
  m ++ 0x80 :: List.replicate ((15 * n - 1 - m.length % (8 * n)) % (8 * n)) 0 ++ toBe n (8 * m.length)

/-- The digest of a message. -/
def Sha2.digest (f : Sha2) (m : List Byte) : List Byte :=
  let p := f.padded m
  let n := 2 * f.word
  let h := (List.range (p.length / n)).foldl (fun h i => f.absorb h ((p.drop (n * i)).take n)) f.start
  (h.take f.out).flatMap (toBe (f.word / 8))

/-- SHA-256. -/
def sha256 (m : List Byte) : List Byte := sha256Params.digest m

/-- SHA-384. (PRESUMED, log entry 50) -/
def sha384 (m : List Byte) : List Byte := sha384Params.digest m

/-- HMAC-SHA-256. -/
def hmac256 (key m : List Byte) : List Byte :=
  let short := if 64 < key.length then sha256 key else key
  let under := fun (c : Byte) => (short ++ List.replicate (64 - short.length) 0).map (c ^^^ ·)
  sha256 (under 0x5C ++ sha256 (under 0x36 ++ m))

end Sys2Proof.Machine
end

