-- ==== Sys2Proof/Machine/Ecdsa.lean ====
section
/-! DEFINITION. The verification of ECDSA over P-384 (FIPS 186-4), which the check of a configuration image uses (R450). -/
namespace Sys2Proof.Machine

/-- The field prime, the order of the group, and the coefficient `b`; the coefficient `a` is -3. -/
def p384P : Nat := 2 ^ 384 - 2 ^ 128 - 2 ^ 96 + 2 ^ 32 - 1
def p384N : Nat := 0xffffffffffffffffffffffffffffffffffffffffffffffffc7634d81f4372ddf581a0db248b0a77aecec196accc52973
def p384B : Nat := 0xb3312fa7e23ee7e4988e056be3f82d19181d9c6efe8141120314088f5013875ac656398d8a2ed19d2a85c8edd3ec2aef

/-- The base point. -/
def p384G : Nat × Nat :=
  (0xaa87ca22be8b05378eb1c71ef320ad746e1d3b628ba79b9859f741e082542a385502f25dbf55296c3a545e3872760ab7,
   0x3617de4a96262c6f5d9e98bf9292dc29f8f41dbd289a147ce9da3113b5f0b8c00a60b1ce1d7e819d7a431d7c90ea0e5f)

/-- A power modulo `m`, over `n` bits of the exponent. -/
def powMod (m : Nat) : Nat → Nat → Nat → Nat
  | 0, _, _ => 1
  | n + 1, b, e => (if e % 2 = 1 then b else 1) * powMod m n (b * b % m) (e / 2) % m

/-- The inverse modulo a prime. (PRESUMED, log entry 50) -/
def invMod (m a : Nat) : Nat := powMod m 384 (a % m) (m - 2)

/-- A point of the curve in Jacobian coordinates: (x, y, z) stands for (x / z², y / z³), and z = 0 for the point at infinity. -/
structure EcPoint where
  x : Nat
  y : Nat
  z : Nat
  deriving DecidableEq, Repr

/-- The point at infinity. -/
def EcPoint.infinity : EcPoint := ⟨1, 1, 0⟩

/-- A difference modulo the field prime. -/
def ecSub (a b : Nat) : Nat := (a + (p384P - b)) % p384P

/-- A point added to itself, with the curve's coefficient `a` = -3. -/
def ecDouble (q : EcPoint) : EcPoint :=
  if q.z = 0 ∨ q.y = 0 then .infinity
  else
    let p := p384P
    let d := q.z * q.z % p
    let g := q.y * q.y % p
    let b := q.x * g % p
    let a := 3 * (ecSub q.x d * (q.x + d)) % p
    let x := ecSub (a * a % p) (8 * b % p)
    ⟨x, ecSub (a * ecSub (4 * b % p) x % p) (8 * (g * g) % p), 2 * q.y * q.z % p⟩

/-- The sum of two points. -/
def ecAdd (a b : EcPoint) : EcPoint :=
  if a.z = 0 then b
  else if b.z = 0 then a
  else
    let p := p384P
    let za := a.z * a.z % p
    let zb := b.z * b.z % p
    let ua := a.x * zb % p
    let ub := b.x * za % p
    let sa := a.y * (b.z * zb % p) % p
    let sb := b.y * (a.z * za % p) % p
    if ua = ub then (if sa = sb then ecDouble a else .infinity)
    else
      let h := ecSub ub ua
      let r := ecSub sb sa
      let hh := h * h % p
      let hhh := h * hh % p
      let v := ua * hh % p
      let x := ecSub (ecSub (r * r % p) hhh) (2 * v % p)
      ⟨x, ecSub (r * ecSub v x % p) (sa * hhh % p), a.z * b.z % p * h % p⟩

/-- The multiple k of a point, k below 2^n. -/
def ecMul : Nat → Nat → EcPoint → EcPoint
  | 0, _, _ => .infinity
  | n + 1, k, q => let r := ecMul n (k / 2) (ecDouble q); if k % 2 = 1 then ecAdd q r else r

/-- The affine x coordinate of a point other than the point at infinity. -/
def EcPoint.affineX (q : EcPoint) : Nat := q.x * invMod p384P (q.z * q.z) % p384P

/-- A point lies on the curve. -/
def onCurve (x y : Nat) : Bool :=
  decide (x < p384P) && decide (y < p384P) && (y * y) % p384P == (x * x * x + (p384P - 3) * x + p384B) % p384P

/-- A signature (r, s) of a digest verifies under a public key. (PRESUMED, log entry 50) -/
def ecdsaOk (key : Nat × Nat) (e r s : Nat) : Bool :=
  let n := p384N
  onCurve key.1 key.2 && decide (1 ≤ r) && decide (r < n) && decide (1 ≤ s) && decide (s < n) &&
  let w := invMod n s
  let q := ecAdd (ecMul 384 (e % n * w % n) ⟨p384G.1, p384G.2, 1⟩) (ecMul 384 (r * w % n) ⟨key.1, key.2, 1⟩)
  q.z != 0 && q.affineX % n == r

end Sys2Proof.Machine
end

