-- ==== Sys2Proof/Machine/Image.lean ====
section
/-! DEFINITION. The configuration image (R449 to R453), and what the package manager writes on the configuration flash: the
defect list (R465, R466), the saved training settings (R463) and the start counter (R464). -/
namespace Sys2Proof.Machine

/-! ## The image (R449, R451) -/

/-- An image: its header, its sections by type, and the bytes that its signature covers with the signature block. -/
structure Img where
  ver : Nat
  seq : Nat
  svn : Nat
  slot : Nat
  quick : Bool
  commit : Bool
  sects : List (Nat × List Byte)
  signed : List Byte
  sig : List Byte
  deriving DecidableEq, Repr

/-- The section types. -/
def sectPkg : Nat := 1
def sectLink : Nat := 2
def sectNet : Nat := 3
def sectLarkspur : Nat := 4
def sectFoxglove : Nat := 5
def sectInstances : Nat := 6
def sectPrograms : Nat := 7
def sectStreams : Nat := 8
def sectPeers : Nat := 9
def sectPublish : Nat := 10
def sectLabels : Nat := 11
def sectPtp : Nat := 12

/-- The section of a type. -/
def Img.sect (i : Img) (typ : Nat) : Option (List Byte) := (i.sects.find? (·.1 == typ)).map (·.2)

/-- The W3208 layout (R453). -/
def Img.w3208 (i : Img) : Bool := i.ver == 1

/-- Entries of the section table: type, offset, length, and whether the reserved bytes are zero. -/
def imgTable (b : List Byte) : List (Nat × Nat × Nat × Bool) := (List.range (leAt b 6 2)).map fun i =>
  (leAt b (32 + 16 * i) 2, leAt b (36 + 16 * i) 4, leAt b (40 + 16 * i) 4,
   leAt b (34 + 16 * i) 2 == 0 && leAt b (44 + 16 * i) 4 == 0)

/-- Two sections of a table do not overlap. -/
def sectApart (a b : Nat × Nat × Nat × Bool) : Bool := decide (a.2.1 + a.2.2.1 ≤ b.2.1) || decide (b.2.1 + b.2.2.1 ≤ a.2.1)

/-- Every two entries of a list are related. -/
def pairwiseB {α : Type} (r : α → α → Bool) : List α → Bool
  | [] => true
  | a :: l => l.all (r a) && pairwiseB r l

/-- Step 1 of R450: the header obeys R449, every section lies within `LENGTH` without overlapping another, and the types keep
R451. The lengths that R451 and R452 give `PKGCFG` and `LINKCFG` are held to. -/
def imgHeaderOk (b : List Byte) : Bool :=
  let ver := leAt b 4 2
  let n := leAt b 6 2
  let len := leAt b 12 4
  let tab := imgTable b
  let types := tab.map (·.1)
  leAt b 0 4 == 0x47464357 && (ver == 1 || ver == 2) && decide (1 ≤ n) && decide (n ≤ 32) && len % 256 == 0 &&
  decide (32 + 16 * n ≤ len) && decide (len ≤ 29359616) && decide (len + 256 ≤ b.length) && decide (leAt b 16 4 ≤ 64) &&
  decide (leAt b 20 1 ≤ 3) && decide (leAt b 21 1 < 4) && ((b.drop 22).take 10).all (· == 0) &&
  (tab.all fun e => e.2.2.2 && decide (1 ≤ e.1) && decide (e.1 ≤ if ver = 1 then 8 else 12) && e.2.1 % 16 == 0 &&
    decide (e.2.1 + e.2.2.1 ≤ len) &&
    (e.1 != sectPkg || e.2.2.1 == if ver = 1 then 8 else 16) && (ver == 1 || e.1 != sectLink || e.2.2.1 == 41)) &&
  pairwiseB sectApart tab && pairwiseB (fun a c => a != c) types &&
  [sectPkg, sectLarkspur, sectFoxglove].all types.contains

/-- An image read. -/
def parseImg (b : List Byte) : Option Img :=
  if !imgHeaderOk b then none
  else
    let len := leAt b 12 4
    some { ver := leAt b 4 2, seq := leAt b 8 4, svn := leAt b 16 4, slot := leAt b 20 1, quick := bitOf (leAt b 21 1) 0,
           commit := bitOf (leAt b 21 1) 1, sects := (imgTable b).map fun e => (e.1, (b.drop e.2.1).take e.2.2.1),
           signed := b.take len, sig := (b.drop len).take 256 }

/-- Steps 2 to 4 of R450 against the fuses. -/
def Img.signedOk (i : Img) (f : Fuses) : Bool :=
  let dig := f.keydig.getD i.slot []
  let key := i.sig.take 97
  dig.any (· != 0) && !bitOf f.keyrev i.slot && sha384 key == dig &&
  leAt key 0 1 == 4 && ((i.sig.drop 97).take 15).all (· == 0) && (i.sig.drop 208).all (· == 0) &&
  ecdsaOk (beAt key 1 48, beAt key 49 48) (beNat (sha384 i.signed)) (beAt i.sig 112 48) (beAt i.sig 160 48) &&
  decide (f.svn ≤ i.svn)

/-- An image that passes R450. -/
def validImg (f : Fuses) (b : List Byte) : Option Img := (parseImg b).filter fun i => i.signedOk f

/-- The choice of R450 among the valid images, other than the one that a fallback excludes: the number of the image and the
image. (DEDUCED, log entry 128) -/
def chooseImg (f : Fuses) (images : List (List Byte)) (exclude : Option Nat) : Option (Nat × Img) :=
  let v (k : Nat) : Option Img := if exclude = some k then none else (images[k]?).bind (validImg f)
  match v 0, v 1 with
  | some a, some b => if a.seq < b.seq then some (1, b) else some (0, a)
  | some a, none => some (0, a)
  | none, some b => some (1, b)
  | none, none => none

/-- The package settings (R452). -/
structure PkgCfg where
  mintiles : Nat
  minports : Nat
  rd : Nat
  wr : Nat
  rm : Nat
  devnum : Nat
  master : Nat
  fullevery : Nat
  revoke : Nat
  deriving DecidableEq, Repr

/-- A value that an image gives a setting, refused where it is outside the setting's range: the setting keeps its default (R18).
(DEDUCED, log entry 134) -/
def taken (lo hi dflt v : Nat) : Nat := if lo ≤ v ∧ v ≤ hi then v else dflt

/-- `PKGCFG`, of either layout (R452, R453); three weights that do not keep R452 leave the default 5:3:2. (DEDUCED, log entry 134) -/
def Img.pkgCfg (i : Img) : PkgCfg :=
  let b := (i.sect sectPkg).getD []
  let c : PkgCfg :=
    if i.w3208 then
      let w := Config.w3208Pkg b
      ⟨w.1, 1, 5, 3, 2, w.2.1, w.2.2, 0, 0⟩
    else ⟨leAt b 0 1, leAt b 1 1, leAt b 2 1, leAt b 3 1, leAt b 4 1, leAt b 5 1, leAt b 6 1, leAt b 7 1, leAt b 8 1⟩
  let w := if 1 ≤ c.rd ∧ 1 ≤ c.wr ∧ 1 ≤ c.rm ∧ c.rd + c.wr + c.rm = 10 then (c.rd, c.wr, c.rm) else (5, 3, 2)
  ⟨taken 1 64 1 c.mintiles, taken 1 16 1 c.minports, w.1, w.2.1, w.2.2, taken 0 15 0 c.devnum, taken 0 15 0 c.master, c.fullevery,
   taken 0 15 0 c.revoke⟩

/-- The modes and FEC of the 20 quads and the FEC of the Paddock lane (R451, R453, R368); a reserved mode leaves its quad `OFF`, and
a reserved FEC is none (R18). (DEDUCED, log entry 134) -/
def Img.links (i : Img) : List (Nat × Nat) × Nat :=
  let quads (f : Nat → Nat × Nat) : List (Nat × Nat) := (List.range 20).map fun q => (taken 0 8 0 (f q).1, taken 0 1 0 (f q).2)
  match i.sect sectLink with
  | none => (quads fun _ => (0, 0), 0)
  | some b =>
    if i.w3208 then (quads fun q => if q < 8 then (Config.w3208Link b).getD q (0, 0) else (0, 0), 0)
    else (quads fun q => (leAt b q 1, leAt b (20 + q) 1), taken 0 1 0 (leAt b 40 1))

/-! ## What the package manager writes on the flash -/

/-- A change of what outlives the loss of power. -/
def updPerm (f : Perm → Perm) : Act := updP fun p => { p with perm := f p.perm }

/-- The copy in force of two: the one with the higher generation (R465). -/
def newest {α : Type} (gen : α → Nat) : List α → Option α
  | [] => none
  | a :: l => match newest gen l with
    | none => some a
    | some b => if gen a < gen b then some b else some a

/-- A copy is written over the one with the lower generation, one generation higher (R463, R466). -/
def writeCopy {α : Type} (gen : α → Nat) (mk : Nat → α) : List α → List α
  | [] => [mk 1]
  | [a] => [a, mk (gen a + 1)]
  | a :: b :: _ => if gen a ≤ gen b then [mk (gen b + 1), b] else [a, mk (gen a + 1)]

/-- The defect list in force on the flash. (DEDUCED, log entry 130) -/
def Perm.defects (p : Perm) : List DefEnt := (newest DlCopy.gen p.dl).elim [] (·.ents)

/-- The starts so far, and those since the last full test, by the copy in force of the start counter (R464). -/
def Perm.starts (p : Perm) : Nat := (newest CntCopy.gen p.cnt).elim 0 (·.starts)
def Perm.sinceFull (p : Perm) : Nat := (newest CntCopy.gen p.cnt).elim 0 (·.sinceFull)

/-- Entries are appended (R466): the whole list goes into the older copy; what does not fit into 1,024 entries is not entered,
and `DLFULL` is set. `MGT_DLCNT` follows the list until the start is over (R532). (DEDUCED, log entries 117, 130) -/
def dlAppend (l : List DefEnt) : Act := fun s =>
  let old := s.pkg.perm.defects
  let new := l.filter fun e => !old.any fun d => d.kind == e.kind && d.tile == e.tile && d.index == e.index
  if new = [] then []
  else
    let room := 1024 - old.length
    Act.seq [.when (decide (room < new.length)) (setF F.MGT_BOOTSTAT_DLFULL pkgTile 1),
      .when (room != 0) (updPerm fun p => { p with dl := writeCopy DlCopy.gen (fun g => ⟨g, old ++ new.take room⟩) p.dl }),
      .when (decide (s.pkg.aonSt.next < 9)) fun s => setF F.MGT_DLCNT_COUNT pkgTile s.pkg.perm.defects.length s] s

/-- An entry found in a stage of this start. -/
def State.defect (s : State) (kind tile index stage : Nat) : DefEnt := ⟨kind, tile, index, stage, s.pkg.perm.starts⟩

/-- The kinds of R465. -/
def defTile : Nat := 1
def defRouter : Nat := 2
def defBank : Nat := 3
def defLane : Nat := 4
def defEdge : Nat := 5
def defHalf : Nat := 6
def defSerdes : Nat := 7

end Sys2Proof.Machine
end

