-- ==== Sys2Proof/Machine/Adapt.lean ====
section
/-! DEFINITION. One optimiser step of an adaptation window (R188, R189, R246): gradients, moments, master weights, learned scales
and the weights that inference reads. -/
namespace Sys2Proof.Machine

/-! ## Stored groups (R245, R246) -/

/-- FP32 values, row-major in rows of `cols`, as they are stored in a format with one E8M0 code for each group of `g` elements of a
row, with stochastic rounding (R188, R189): the elements' codes and the groups'. -/
def storeGroups (fmt seed tensor n cols g : Nat) (ys : List Num) : List Nat × List Nat :=
  let rows := chunksOf (max 1 cols) ys.zipIdx
  let out := (rows.flatMap (chunksOf (max 1 g))).map fun l =>
    scaleGroup fmt 3 0x3F800000 (l.map (·.1)) (l.map fun e => srR seed tensor n e.2)
  (out.flatMap fun o => o.2.1.map (·.code), out.map (·.1))

/-- The values of stored groups, with S_T = 1.0 (R242, R246). -/
def readGroups (fmt cols g : Nat) (codes scales : List Nat) : List Num :=
  let f := (fmtOf fmt).getD fmtF32
  let per := cdiv cols (max 1 g)
  codes.zipIdx.map fun e =>
    let s := scales.getD (e.2 / max 1 cols * per + e.2 % max 1 cols / max 1 g) 127
    if s = 255 then .nan else (f.value e.1).mul (.fin false (pow2 ((s : Int) - 127)))

/-! ## The weights of a tail -/

/-- The code that a learned scale gives its row (R246): it is rounded to the nearest integer, ties to even. A scale that is not
finite gives a free code. (DESIGN CHOICE, log entry 54) -/
def scaleCodeOf (s : Nat) : Nat :=
  match fmtBf16.value s with
  | .fin neg x =>
    let k : Int := roundQ x 1 1 0
    (clampInt ((if neg then -k else k) + 127) 0 254).toNat
  | _ => Config.freeNat s % 255

/-- The learned scale that a code starts from: e − 127 (R246). -/
def scaleInit (e : Nat) : Nat := (fmtBf16.convert 1 0 false (ofRat false (((e : Int) - 127 : Int) : Rat))).code

/-- The inference weights of a tensor requantised from its master weights (R188). (DEDUCED, log entry 54) -/
def TailTensor.requant (wfmt : Nat) (t : TailTensor) : TailTensor :=
  let code := t.s.map scaleCodeOf
  let f := (fmtOf wfmt).getD fmtF32
  { t with
    code := code,
    q := t.w.zipIdx.map fun e =>
      (f.convert 1 0 true ((fmtBf16.value e.1).mul (.fin false (pow2 (127 - (code.getD (e.2 / max 1 t.cols) 127 : Int)))))).code }

/-- A tensor as a head that opens starts from it: moments of zero, and scales of the program's codes (R192, R246). -/
def TailTensor.start (wfmt : Nat) (rows cols : Nat) (w code : List Nat) : TailTensor :=
  let n := rows * cdiv cols 32
  TailTensor.requant wfmt
    { rows := rows, cols := cols, w := w, s := code.map scaleInit, m := List.replicate (rows * cols) 0, mc := List.replicate n 127,
      v := List.replicate (rows * cols) 0, vc := List.replicate n 127 }

/-- What inference reads of a tail: the codes of the rows and of the elements, tensor by tensor, and never the learned scales
(R246). -/
def inference (ts : List TailTensor) : List (List Nat × List Nat) := ts.map fun t => (t.code, t.q)

/-- Every master weight is finite (R191). -/
def mastersFinite (ts : List TailTensor) : Bool :=
  ts.all fun t => t.w.all fun c => match fmtBf16.value c with | .fin _ _ => true | _ => false

/-! ## A step -/

/-- The square root in FP32, correctly rounded. -/
def fsqrt (a : Num) : Num :=
  match a with
  | .fin neg x =>
    if x = 0 then a
    else if neg then .nan
    else
      let n := (x * pow2 400).floor.toNat
      let k := Nat.sqrt n
      rne32 (.fin false ((if k * k = n then ((2 * k : Nat) : Rat) else ((2 * k + 1 : Nat) : Rat)) * pow2 (-201)))
  | .inf false => a
  | _ => .nan

/-- The adaptation record of a program (R187). -/
structure AdaptRec where
  lr : Num
  beta1 : Num
  beta2 : Num
  eps : Num
  wdecay : Num
  mfmt : Nat
  wfmt : Nat

/-- An adaptation record read. -/
def AdaptRec.parse (b : List Byte) : AdaptRec :=
  ⟨f32 (leAt b 0 4), f32 (leAt b 4 4), f32 (leAt b 8 4), f32 (leAt b 12 4), f32 (leAt b 16 4), leAt b 26 1, leAt b 27 1⟩

/-- A moment or a weight is corrected for its step: its value over 1 − β^n. -/
def corrected (x beta : Num) (n : Nat) : Num := fdiv x (rne32 (ofRat false (1 - beta.rat ^ n)))

/-- What the backward pass gives a step (R188): of the program, what inference reads, the batch and the number of tiles, the
accumulated FP32 gradient of an element of a tensor, and the trained value of a row's learned scale, both FP32 codes. -/
structure Backward where
  grad : Nat → Nat → Nat
  scale : Nat → Nat → Nat

/-- One tensor after step `n` (R188): its gradients, its moments, its master weights and learned scales are stored in turn, each with
stochastic rounding, and its inference weights are made again. The arithmetic between stores is FP32. (DEDUCED, log entry 54) -/
def TailTensor.step (a : AdaptRec) (b : Backward) (seed n i : Nat) (t : TailTensor) : TailTensor :=
  let k := t.rows * t.cols
  let gs := storeGroups 0xA seed i n t.cols t.cols ((List.range k).map fun e => f32 (b.grad i e))
  let g := readGroups 0xA t.cols t.cols gs.1 gs.2
  let one : Num := .fin false 1
  let blend (beta : Num) (old : List Num) (new : List Num) : List Num :=
    (old.zip new).map fun e => fadd (fmul beta e.1) (fmul (fsub one beta) e.2)
  let ms := storeGroups a.mfmt seed i n t.cols 32 (blend a.beta1 (readGroups a.mfmt t.cols 32 t.m t.mc) g)
  let vs := storeGroups a.mfmt seed i n t.cols 32 (blend a.beta2 (readGroups a.mfmt t.cols 32 t.v t.vc) (g.map fun x => fmul x x))
  let mh := (readGroups a.mfmt t.cols 32 ms.1 ms.2).map fun x => corrected x a.beta1 n
  let vh := (readGroups a.mfmt t.cols 32 vs.1 vs.2).map fun x => corrected x a.beta2 n
  let w := (t.w.zip (mh.zip vh)).zipIdx.map fun e =>
    let old := fmtBf16.value e.1.1
    let d := fmul a.lr (fadd (fdiv e.1.2.1 (fadd (fsqrt e.1.2.2) a.eps)) (fmul a.wdecay old))
    (fmtBf16.convert 3 (srR seed i n e.2) false (fsub old d)).code
  let s := (List.range t.rows).map fun r => (fmtBf16.convert 3 (srR seed i n r) false (f32 (b.scale i r))).code
  TailTensor.requant a.wfmt { t with w := w, s := s, m := ms.1, mc := ms.2, v := vs.1, vc := vs.2 }

/-- The tail after step `n`. -/
def adaptStep (a : AdaptRec) (b : Backward) (seed n : Nat) (ts : List TailTensor) : List TailTensor :=
  ts.zipIdx.map fun t => t.1.step a b seed n t.2

end Sys2Proof.Machine
end

