-- ==== Sys2Proof/Machine/Heads.lean ====
section
/-! DEFINITION. What a codec stream does to the analytics heads that read it: which evaluations are due (R171), and which are
lost (R167). -/
namespace Sys2Proof.Machine

/-- The heads that read a source stream (R170, R174). -/
def State.headsOf (s : State) (src : Nat) : List Nat :=
  (s.streams.filter fun e => bitOf e.2.stages 3 && s.isOpen e.1 && s.sget F.FXG_HDW0_SRC e.1 == src &&
    e.2.inst == (s.stream src).inst && s.sget F.FXG_HDSTAT_SRCGONE e.1 == 0).map (·.1)

/-- A change of a head's state. -/
def updHead (id : Nat) (f : Head → Head) : Act := updS id fun x => { x with head := f x.head }

/-- What a head's program declares. -/
def State.headInfo (s : State) (id : Nat) : HeadInfo :=
  ((s.prog (s.stream id).inst (s.sget F.FXG_HDW1_PROG_ID id)).bind (·.head)).getD {}

/-- The taps that a head reads. -/
def State.headTaps (s : State) (id : Nat) : List Nat := (s.headInfo id).taps.map (·.1)

/-- A head evaluates a source frame of this number (R171). -/
def State.headDue (s : State) (id frame : Nat) : Bool := frame % max 1 (s.slive F.FXG_HDW0_DECIM id) == 0

/-- Every tap that a head reads is ready for a frame. -/
def State.headReady (s : State) (id src frame : Nat) : Bool :=
  (s.headTaps id).all fun t => (s.stream src).lsc.taps.any fun f => f.tap == t && f.frame == frame

/-- A head has not come to a frame yet. (DEDUCED, log entry 94) -/
def Head.before (h : Head) (frame : Nat) : Bool :=
  h.last.elim true fun l => decide (1 ≤ (frame + 2 ^ 32 - l) % 2 ^ 32) && decide ((frame + 2 ^ 32 - l) % 2 ^ 32 < 2 ^ 31)

/-- An evaluation is lost: it writes no output and completes with `ST_TAP_LOST` (R167), and counts among the head's evaluations
(R176). -/
def loseEval (id src frame : Nat) : Act := .seq
  [updHead id fun h => { h with last := some frame, seq := h.seq + 1, run := h.run.filter (·.frame != frame) },
   countS F.FXG_HDCNT_LOST id 1, countS F.ECE_TAPCNT_LOST src 1, workRecord id frame 0x0403 0]

/-- The tap frames before frame `lo` are no longer readable: what has not finished reading them is lost (R167). -/
def dropTaps (src lo : Nat) : Act := fun s =>
  let old (k : Nat) : Bool := decide (1 ≤ (lo + 2 ^ 32 - k) % 2 ^ 32) && decide ((lo + 2 ^ 32 - k) % 2 ^ 32 < 2 ^ 31)
  let ks := (((s.stream src).lsc.taps.map (·.frame)).filter old).dedup
  Act.seq [.each ks fun k => .each (s.headsOf src) fun h => .read fun s =>
      let x := (s.stream h).head
      .when (x.run.elim false (·.frame == k) || (s.headTaps h != [] && s.headDue h k && x.before k && s.headReady h src k))
        (loseEval h src k),
    updLsc src fun l => { l with taps := l.taps.filter fun t => !old t.frame }] s

/-- The source begins a frame that a head is due on: `NOTAP` says whether it lacks a retained tap (R171). -/
def noteTaps (src frame : Nat) : Act := fun s =>
  Act.each ((s.headsOf src).filter fun h => s.headDue h frame) (fun h =>
    setS F.FXG_HDSTAT_NOTAP h (b2n (!((s.headTaps h).all (s.tapsOf src).contains)))) s

/-- A source frame has completed: its package time and the class 0x02 codes of its completion with those that `INCOND`
records (R173). The last eight are kept. -/
def srcDone (src frame n ptime : Nat) (conds : List Nat) (incond : Nat) : Act :=
  let inc := [(0, 0x0202), (1, 0x0204), (2, 0x0205), (3, 0x0206)].filterMap fun e => if bitOf incond e.1 then some e.2 else none
  updS src fun x => { x with
    srcs := (x.srcs ++ [(⟨frame, n, ptime, (conds.filter fun c => c / 256 == 2) ++ inc⟩ : SrcFrame)]).drop (x.srcs.length - 7) }

end Sys2Proof.Machine
end

