-- ==== Sys2Proof/Machine/Inputs.lean ====
section
/-! DEFINITION. What enters and leaves a stream: the input items of a first stage (R314, R364), the output buffer, and the
units and access units that wait for a link-transmit item (R365). -/
namespace Sys2Proof.Machine

/-! ## Input items -/

/-- The stages of R308. -/
def stIng : Nat := 0
def stSce : Nat := 1
def stLsc : Nat := 2
def stHead : Nat := 3
def stEgress : Nat := 4
def stXfer : Nat := 5

/-- An input in the queue of a first stage: its place in the input buffer, package time, conditions as `INCOND` bits, the
codes of class 0x02 that ingest gave it, and how many 20 ms frames an audio input holds. -/
structure InputItem where
  incond : Nat := 0
  frames : Nat := 1
  len : Nat := 0
  off : Nat := 0
  ptime : Nat := 0
  conds : List Nat := []
  deriving DecidableEq, Repr

/-- The payload that carries an input. -/
def InputItem.bytes (i : InputItem) : List Byte :=
  [0x49] ++ toLe 1 i.incond ++ toLe 2 i.frames ++ toLe 4 i.len ++ toLe 8 i.off ++ toLe 8 i.ptime ++
    (i.conds.take 4).flatMap (toLe 2)

/-- An input read from its payload. -/
def InputItem.parse (b : List Byte) : InputItem :=
  ⟨leAt b 1 1, leAt b 2 2, leAt b 4 4, leAt b 8 8, leAt b 16 8, ((List.range 4).map fun i => leAt b (24 + 2 * i) 2).filter (· != 0)⟩

/-- The queue that holds the inputs of a stream. (DEDUCED, log entry 15) -/
def inputQueue : Nat := 17

/-- The inputs of a stream that its first stage may take, in order. -/
def State.inputItems (s : State) (id : Nat) : List Item :=
  (s.qItems (homeOf id) inputQueue).filter fun i => i.started && i.stream == id && leAt i.payload 0 1 == 0x49

/-- The first stage has consumed an input: its item and its `INPUT` request complete, and its slot is free (R314, R364). -/
def finishInput (id slot : Nat) (conds : List Nat) : Act := fun s =>
  match (s.qItems (homeOf id) inputQueue).find? fun i => i.slot == slot && i.stream == id with
  | some i => finishItem (homeOf id) i (pickStatus conds) 0 [] s
  | none => []

/-! ## Output -/

/-- Output goes from tile `t` to the stream's output buffer, each piece after the one before it; a piece that does not fit before
the end goes to the start. (DEDUCED, log entry 81) -/
def putOutput (t id : Nat) (bs : List Byte) (pz ask : Bool) : Act := fun s =>
  let x := s.stream id
  match (if x.oblist = 0 then BlockList.bad else s.blockList x.inst x.oblist) with
  | .ok l =>
    let cap := blocksLen l
    if cap < bs.length then []
    else
      let off := if x.lsc.outOff + bs.length ≤ cap then x.lsc.outOff else 0
      Act.seq [writeBuf t x.inst l off bs pz ask, updLsc id fun l => { l with outOff := off + bs.length }] s
  | _ => []

/-! ## Between stages (R35, R308) -/

/-- The pseudo-queue of the barriers that firmware inserts between stages. (DESIGN CHOICE, log entry 167) -/
def stageQueue : Nat := 21

/-- Firmware inserts a barrier between two stages of a frame: behind the items of the stage that produced, ahead of the inputs of
later frames (R308). (DESIGN CHOICE, log entry 167) -/
def stageBarrier (id : Nat) : Act := .seq
  [updS id fun x =>
    let later (i : LiveItem) : Bool := i.q == inputQueue && !i.done
    let b : LiveItem := { tile := homeOf id, q := stageQueue, slot := x.barriers, flags := 1, no := x.barriers }
    { x with items := x.items.takeWhile (!later ·) ++ b :: x.items.dropWhile (!later ·), barriers := x.barriers + 1 },
   syncLive id]

/-- A stage barrier has completed. -/
def State.stageDone (s : State) (id no : Nat) : Bool :=
  !(s.stream id).items.any fun i => i.q == stageQueue && i.no == no && !i.done

/-- The stage that consumes decoded pictures is done with them: its barrier will release their buffers (R286). -/
def releasePics (id : Nat) (l : List Nat) : Act := fun s =>
  if l = [] then []
  else
    let no := (s.stream id).barriers
    Act.seq [stageBarrier id, updS id fun x =>
      let pool := x.sce.pool.zipIdx.map fun b => if l.contains b.2 then { b.1 with outAt := some no } else b.1
      { x with sce := { x.sce with pool := pool } }] s

/-- The queue of link-transmit items, and its engine (R325). -/
def egressQueue : Nat := 5
def engLink : Nat := 4

/-- A change of the first entry that satisfies `p`. -/
def mapFirst {α : Type} (p : α → Bool) (f : α → α) : List α → List α
  | [] => []
  | a :: as => if p a then f a :: as else a :: mapFirst p f as

/-- What waits to be sent gets its link-transmit item, in order, while the queue has room (R323, R365); the item waits for the
barrier behind the stage before it (R308). (DEDUCED, log entry 22) -/
def egressPump (id : Nat) : Act := fun s =>
  let t := homeOf id
  Act.each ((s.stream id).egress.filter fun e => e.slot.isNone) (fun e => fun s =>
    if s.qFull t egressQueue ∨ s.owner t ≠ some (s.stream id).inst then []
    else
      let slot := s.get F.SMV_QTAIL_TAIL t egressQueue
      Act.seq [enqueue t egressQueue id (slotBytes id engLink 10 e.frame 0 (s.stream id).epoch []) 10 none,
        updS id fun x => { x with egress := mapFirst (·.slot.isNone) (fun g => { g with slot := some slot }) x.egress }] s) s

/-- A stream sends through its `EGRESS` stage what `kind` says (R365). -/
def State.sends (s : State) (id kind : Nat) : Bool :=
  bitOf (s.stream id).stages stEgress && s.slive F.LNK_SW0_EGKIND id == kind

/-- The units of a frame leave: through `EGRESS`, or to the output buffer. (DEDUCED, log entry 80) -/
def unitsOut (id frame : Nat) (bs : List Byte) : Act := fun s =>
  if bs = [] then []
  else if s.sends id 0 then
    Act.seq [stageBarrier id, updS id fun x => { x with egress := x.egress ++ [(⟨frame, bs, false, none, none⟩ : Egress)] }, egressPump id] s
  else putOutput (homeOf id) id bs false false s

end Sys2Proof.Machine
end

