-- ==== Sys2Proof/Machine/Osf.lean ====
section
/-! DEFINITION. Ordor stream units (R133 to R159): how an encoder writes them and how a decoder finds and checks them. -/
namespace Sys2Proof.Machine

/-! ## Writing units -/

/-- The unit types of R134. -/
def osfHeader : Nat := 1
def osfKey : Nat := 2
def osfDelta : Nat := 3
def osfPlot : Nat := 4
def osfRefresh : Nat := 5

/-- A unit: the common header, the body and the CRC-32C over both (R133, R135). -/
def osfUnit (typ stream hgen frame : Nat) (body : List Byte) : List Byte :=
  let b := toBe 2 0x4F44 ++ toBe 1 typ ++ toBe 1 0 ++ toBe 4 (20 + body.length) ++ toBe 2 (stream % 2 ^ 14) ++ toBe 2 hgen ++
    toBe 4 frame ++ body
  b ++ toBe 4 (crc32c b)

/-- The body of a stream header (R138). (DEDUCED, log entry 80) -/
def headerBody (h : LscShape) (keyint : Nat) (digest : List Byte) : List Byte :=
  toBe 2 0x0100 ++ toBe 1 h.profile ++ toBe 1 h.nref ++ toBe 2 (if h.camp then 50 else keyint) ++ toBe 1 h.bits ++
    toBe 1 (if h.camp then 0 else h.chroma) ++ toBe 2 h.width ++ toBe 2 h.height ++ toBe 1 h.channels ++ toBe 1 h.rate ++
    toBe 2 h.latch ++ toBe 2 h.hypch ++ toBe 2 0 ++ (digest ++ List.replicate 32 0).take 32

/-- `INCOND` of a frame with its withheld plots (R142, R144). -/
def LscFrame.incondOut (f : LscFrame) : Nat :=
  f.incond % 16 + (if f.plots.any fun p => p.phase == .withheld then 16 else 0)

/-- The body of a frame unit (R140, R141). -/
def frameBody (f : LscFrame) : List Byte :=
  toBe 8 f.ptime ++ toBe 1 (b2n f.ltr) ++ toBe 1 f.incondOut ++ toBe 2 f.nrow ++ toBe 2 f.plots.length ++ toBe 2 0 ++
    toBe 4 (if f.key then 0xFFFFFFFF else f.refS) ++
    toBe 4 (if f.key ∨ f.shape.nref ≠ 2 then 0xFFFFFFFF else f.refL) ++ toBe 4 f.fill ++
    (f.q.flatMap fun r => (r.take f.nrow).map fun v => BitVec.ofNat 8 v) ++ List.replicate f.fill 0

/-- The body of a plot payload unit (R143). -/
def plotBody (p : PlotSt) : List Byte :=
  let w := p.phase == .withheld
  toBe 2 p.ix ++ toBe 1 (b2n w) ++ toBe 1 0 ++ (if w then toBe 4 0 else toBe 4 p.payload.length ++ p.payload)

/-- The units of a frame in emission order: its frame unit and its plots (R145). -/
def frameUnits (id : Nat) (f : LscFrame) : List Byte :=
  osfUnit (if f.key then osfKey else osfDelta) id f.hgen f.frame (frameBody f) ++
    f.plots.flatMap fun p => osfUnit osfPlot id f.hgen f.frame (plotBody p)

/-- A refresh request (R155). -/
def refreshUnit (enc hgen frame lastGood reason count : Nat) : List Byte :=
  osfUnit osfRefresh enc hgen frame (toBe 4 lastGood ++ toBe 1 reason ++ toBe 1 (min 255 count) ++ toBe 2 0)

/-! ## Reading units -/

/-- A unit that passed R148. -/
structure Osf where
  typ : Nat
  stream : Nat
  hgen : Nat
  frame : Nat
  raw : List Byte
  deriving DecidableEq, Repr

/-- An extension unit (R134, R159). -/
def Osf.ext (u : Osf) : Bool := decide (0x80 ≤ u.typ) && decide (u.typ ≤ 0xFE)

/-- A frame unit. -/
def Osf.isFrame (u : Osf) : Bool := u.typ == osfKey || u.typ == osfDelta

/-- A field of a unit, by its offset. -/
def Osf.at (u : Osf) (o n : Nat) : Nat := beAt u.raw o n

/-- The base length of a unit's type, where the fields that set it are there (R136); `camp` says whether the header in force
is of a Campion stream, which decides NQ (R141). -/
def osfBase (camp : Bool) (b : List Byte) : Option Nat :=
  let t := beAt b 2 1
  if t = osfHeader then some 72
  else if t = osfRefresh then some 28
  else if t = osfPlot then (if b.length < 24 then none else some (28 + beAt b 20 4))
  else if t = osfKey ∨ t = osfDelta then
    if b.length < 48 then none
    else some (48 + beAt b 26 2 * (if camp then beAt b 28 2 else 1) + beAt b 40 4)
  else some 20

/-- The `LENGTH` at the start of some bytes meets R136. -/
def osfLenOk (camp : Bool) (b : List Byte) : Bool :=
  decide (8 ≤ b.length) &&
  let n := beAt b 4 4
  decide (20 ≤ n) && decide (n ≤ 16777216) && match osfBase camp b with | some m => decide (m ≤ n) | none => false

/-- The unit at the start of some bytes, when it passes R148. -/
def osfAt (camp : Bool) (b : List Byte) : Option Osf :=
  let n := beAt b 4 4
  if beAt b 0 2 = 0x4F44 ∧ osfLenOk camp b ∧ n ≤ b.length ∧ crc32c (b.take (n - 4)) = beAt b (n - 4) 4 then
    some ⟨beAt b 2 1, beAt b 8 2 % 2 ^ 14, beAt b 10 2, beAt b 12 4, b.take n⟩
  else none

/-- The position of the next 0x4F44 in some bytes. (DEDUCED, log entry 84) -/
def osfScan : List Byte → Option (List Byte)
  | a :: b :: bs => if a = 0x4F ∧ b = 0x44 then some (a :: b :: bs) else osfScan (b :: bs)
  | _ => none

/-- The units of a message or input (R148): each candidate in turn, none for one that fails. Past a failed unit the next is
taken `LENGTH` bytes on where a `SYNC` stands there, and else the rest is scanned. `fuel` bounds the candidates by the
bytes. NQ of R136 is that of the header last seen, accepted or not, and of video before any. (DEDUCED, log entries 84 and 163) -/
def osfSplit : Nat → Bool → Bool → List Byte → List (Option Osf)
  | 0, _, _, _ => []
  | fuel + 1, camp, scanned, b =>
    if b = [] then []
    else match osfAt camp b with
      | some u => some u :: osfSplit fuel (if u.typ = osfHeader then u.at 18 1 == 2 else camp) false (b.drop u.raw.length)
      | none =>
        let rest := b.drop (beAt b 4 4)
        none :: (if !scanned && osfLenOk camp b && beAt rest 0 2 == 0x4F44 && decide (2 ≤ rest.length) then
            osfSplit fuel camp false rest
          else match osfScan (b.drop 1) with
            | some c => osfSplit fuel camp true c
            | none => [])

/-- Frame `a` is later than frame `b` (R147). -/
def frameLater (a b : Nat) : Bool :=
  let d := (a + 2 ^ 32 - b) % 2 ^ 32
  decide (1 ≤ d) && decide (d < 2 ^ 31)

/-- The body of a header without its reserved bytes, which a decoder ignores (R137, R151). -/
def Osf.body (u : Osf) : List Byte := (u.raw.drop 16).take 18 ++ [0, 0] ++ (u.raw.drop 36).take 32

/-- An even luma size within the limits of R77. -/
def sizeOk (v : Nat) : Bool := decide (64 ≤ v) && decide (v ≤ 8192) && v % 2 == 0

/-- The limits of R77 on the sample formats of a profile. -/
def formatOk (profile bits chroma : Nat) : Bool :=
  match profile with
  | 0 => chroma == 1 && (bits == 8 || bits == 10)
  | 2 => bits == 16 || bits == 24
  | _ => decide (chroma ≤ 2) && decide (8 ≤ bits) && decide (bits ≤ 16)

/-- Step 1 of R150: the version, and every defined field within R138. -/
def Osf.headerOk (u : Osf) : Bool :=
  let p := u.at 18 1
  let nref := u.at 19 1
  let latch := u.at 30 2
  let hypch := u.at 32 2
  u.at 16 1 == 1 && decide (p ≤ 3) && formatOk p (u.at 22 1) (u.at 23 1) &&
  (if p = 2 then
    nref == 1 && latch == 64 && hypch == 32 && u.at 20 2 == 50 && u.at 23 1 == 0 && u.at 24 2 == 0 && u.at 26 2 == 0 &&
      decide (1 ≤ u.at 28 1) && decide (u.at 28 1 ≤ 8) && decide (u.at 29 1 ≤ 4)
  else
    decide (1 ≤ u.at 20 2) && decide (u.at 20 2 ≤ 1024) && sizeOk (u.at 24 2) && sizeOk (u.at 26 2) && u.at 28 1 == 0 &&
      u.at 29 1 == 0 &&
      match p with
      | 0 => nref == 1 && latch == 192 && hypch == 128
      | 1 => nref == 2 && latch == 256 && hypch == 192
      | _ => (nref == 1 || nref == 2) && decide (8 ≤ latch) && decide (latch ≤ 320) && decide (8 ≤ hypch) && decide (hypch ≤ 256))

/-- The shape a header gives. -/
def Osf.shape (u : Osf) (prog : Nat) : LscShape :=
  { prog := prog, profile := u.at 18 1, width := u.at 24 2, height := u.at 26 2, channels := u.at 28 1, rate := u.at 29 1,
    bits := u.at 22 1, chroma := u.at 23 1, latch := u.at 30 2, hypch := u.at 32 2, nref := u.at 19 1 }

/-- The quality indices that a frame unit carries, channel by channel (R141). -/
def Osf.qidx (u : Osf) (h : LscShape) : List (List Nat) :=
  let n := u.at 26 2
  (List.range (if h.camp then u.at 28 2 else 1)).map fun c => ((u.raw.drop (44 + c * n)).take n).map (·.toNat)

/-- A frame unit is valid (R152). -/
def Osf.frameOk (u : Osf) (h : LscShape) : Bool :=
  let none32 := 0xFFFFFFFF
  let key := u.typ == osfKey
  let ltr := u.at 24 1 % 2
  (u.qidx h).all (·.all fun v => decide (v ≤ 63)) &&
  (if h.camp then key && decide (1 ≤ u.at 26 2) && decide (u.at 26 2 ≤ 50) else u.at 26 2 == h.brows) &&
  u.at 28 2 == h.nplots && (h.nref == 2 || ltr == 0) &&
  (if key then u.at 32 4 == none32 && u.at 36 4 == none32 && ltr == (if h.nref = 2 then 1 else 0)
   else u.at 32 4 != none32 && (u.at 36 4 != none32) == (h.nref == 2))

/-- A plot unit keeps R143: a payload of an even length from 32 bytes, or none when it is withheld. -/
def Osf.plotOk (u : Osf) : Bool :=
  if u.at 18 1 % 2 = 1 then u.at 20 4 == 0 else decide (32 ≤ u.at 20 4) && u.at 20 4 % 2 == 0

end Sys2Proof.Machine
end

