-- ==== Sys2Proof/Machine/Lsc.lean ====
section
/-! DEFINITION. The learned-codec encoder (chapters 02 and 05): frame boundaries, key latents and key requests, the reference
pool, the units it emits, and the completion of its frames. -/
namespace Sys2Proof.Machine

/-! ## Settings and their shadow (R68 to R70, R77, R529, R538) -/

/-- A learned-codec encoder or decoder that is open or closing. -/
def State.isLscEnc (s : State) (id : Nat) : Bool :=
  s.isLive id && bitOf (s.stream id).stages stLsc && s.slive F.ECE_LSCW0_DIR id == 0
def State.isLscDec (s : State) (id : Nat) : Bool :=
  s.isLive id && bitOf (s.stream id).stages stLsc && s.slive F.ECE_LSCW0_DIR id == 1

/-- The shadowed words of the learned codec's settings. -/
def lscRegs : List Reg := [.ECE_LSCW0, .ECE_LSCW1, .ECE_LSCW2, .ECE_LSCW3, .ECE_LSCW4, .ECE_LSCW5, .ECE_LSCW6, .ECE_LSCW7,
  .ECE_TAPCFG]

/-- The words of a slot that wait for a boundary. -/
def State.shadowed (s : State) (id : Nat) (rs : List Reg) : List Reg :=
  rs.filter fun r => (mapGet RegKey.code none s.force ⟨r, homeOf id, slotOf id⟩).isSome

/-- Words of a slot come into force. -/
def applyRegs (id : Nat) (rs : List Reg) : Act :=
  .eff [.apply fun k => k.inTile (homeOf id) && k.atIx (slotOf id) && rs.contains k.reg]

/-- `SNP_DGCFG.EN` comes into force at the boundary of the first stage among `SCE`, `LSC` and `HEAD` (R529). -/
def digestBoundary (id stage : Nat) : Act := fun s =>
  Act.when ([stSce, stLsc, stHead].find? (bitOf (s.stream id).stages) == some stage) (applyRegs id [.SNP_DGCFG]) s

/-- A codec program (`PROFILE` 0 to 3 of R101). -/
def Prog.isCodec (p : Prog) : Bool := p.profile.elim false fun k => decide (k ≤ 3)

/-- The shape that settings give a program's stream. -/
def Prog.shapeBy (p : Prog) (g : Fld → Nat) : LscShape :=
  p.shape (g F.ECE_LSCW1_WIDTH) (g F.ECE_LSCW1_HEIGHT) (g F.ECE_LSCW1_CHANNELS) (g F.ECE_LSCW1_RATE) (g F.ECE_LSCW0_BITS)
    (g F.ECE_LSCW0_CHROMA)

/-- The joined limits of an encoder's settings (R77, R538). -/
def State.lscEncOk (s : State) (n id : Nat) (g : Fld → Nat) : Bool :=
  let k := g F.ECE_LSCW0_PROFILE
  let t := g F.ECE_LSCW3_TARGET
  match s.prog n (g F.ECE_LSCW7_PROG_ID) with
  | none => false
  | some p =>
    p.profile == some k && decide (g F.ECE_LSCW4_QMIN ≤ g F.ECE_LSCW2_QIDX) &&
    decide (g F.ECE_LSCW2_QIDX ≤ g F.ECE_LSCW4_QMAX) && formatOk k (g F.ECE_LSCW0_BITS) (g F.ECE_LSCW0_CHROMA) &&
    (if k = 2 then decide (1 ≤ g F.ECE_LSCW1_CHANNELS) && decide (g F.ECE_LSCW1_CHANNELS ≤ 8) && decide (g F.ECE_LSCW1_RATE ≤ 4)
     else sizeOk (g F.ECE_LSCW1_WIDTH) && sizeOk (g F.ECE_LSCW1_HEIGHT)) &&
    (g F.ECE_LSCW2_RC_MODE == 0 ||
      (if k = 2 then decide (6000 ≤ t) && decide (t ≤ 64000) else decide (64 ≤ t) && decide (t ≤ 16777215))) &&
    s.inMem n (s.lscPool id) (p.shapeBy g).poolBytes

/-- `KEYINT` in force, 0 standing for 1,024 (R77). -/
def State.keyInt (s : State) (id : Nat) : Nat :=
  let k := s.slive F.ECE_LSCW0_KEYINT id
  if k = 0 then 1024 else k

/-! ## Key requests (R52, R63) -/

/-- A key request is accepted (R52). -/
def keyRequest (id : Nat) : Act := .seq [countS F.ECE_LSCCNT_REFCNT id 1, setS F.ECE_LSCLIVE1_KEYPEND id 1]

/-- A command written to an encoder slot; in any other slot it is refused with cause STATE (R71, R530).
(DEDUCED, log entry 38) -/
def lscCommand (q : Requester) (t : Nat) (f : Fld) (a : Nat → Act) : Act := writeReg q t .ECE_LSCCMD 0 fun t ix => fun s =>
  let id := t * 256 + ix
  if s.isLscEnc id then Act.seq [setS f id 1, a id] s else regErrAt .ECE_LSCCMD t q causeState s

/-- `LSC_KEYREQ`. (DEDUCED, log entry 35) -/
def lscKeyreqX (q : Requester) (t : Nat) : Act := lscCommand q t F.ECE_LSCCMD_KEYREQ keyRequest

/-- `LSC_RCRESET`: both start indices become `QIDX` at the next boundary (R63). -/
def lscRcresetX (q : Requester) (t : Nat) : Act := lscCommand q t F.ECE_LSCCMD_RCRESET fun _ => .none

/-! ## The reference pool (R54 to R57) -/

/-- A pool of a shape with every buffer `FREE`. -/
def poolFresh (h : LscShape) : List PoolBuf := List.replicate h.bufs {}

/-- A buffer without a mark. -/
def PoolBuf.free (b : PoolBuf) : Bool := !b.cur && !b.refS && !b.refL

/-- One `FREE` buffer is marked `CUR` (R56). -/
def poolBegin (l : List PoolBuf) : List PoolBuf := mapFirst PoolBuf.free (fun _ => { cur := true }) l

/-- The marks when the latent path of a frame completes (R56, R57). -/
def poolDone (key ltr : Bool) (frame : Nat) (l : List PoolBuf) : List PoolBuf := l.map fun b =>
  if b.cur then { refS := true, refL := ltr, frame := frame }
  else if !key && b.refL && !ltr then { b with refS := false }
  else {}

/-- The marks at the boundary of a 20 ms frame of Campion: what the frame before it leaves in `CUR` becomes `REF_S`, and its former
place is free for the frame that begins (R56). (DEDUCED, log entry 159) -/
def poolTurn (prev : Nat) (l : List PoolBuf) : List PoolBuf :=
  poolBegin (if l.any (·.cur) then l.map fun b => if b.cur then { refS := true, frame := prev } else {} else l)

/-- The `CUR` buffer of a frame that is given up becomes `FREE`. -/
def poolDrop (l : List PoolBuf) : List PoolBuf := l.map fun b => if b.cur then {} else b

/-- The frame in the buffer with a mark; 0xFFFFFFFF where none has it. -/
def poolFrame (p : PoolBuf → Bool) (l : List PoolBuf) : Nat := (l.find? p).elim 0xFFFFFFFF (·.frame)

/-! ## Emission (R139 to R145) -/

/-- The coded payload bytes of a frame. -/
def LscFrame.coded (f : LscFrame) : Nat := (f.plots.map (·.payload.length)).sum

/-- The target of a frame, or of each channel of a Campion plot (R61, R66). -/
def LscFrame.goal (f : LscFrame) : Nat := if f.shape.camp then f.rate * f.nrow / 400 else f.target

/-- The filler of a frame (R65, R66, R141). -/
def LscFrame.filler (f : LscFrame) : Nat :=
  let lo := cdiv (f.goal * 49) 50
  if f.mode ≠ 1 ∨ f.drop then 0
  else if f.shape.camp then (f.plots.map fun p => lo - p.payload.length).sum
  else lo - f.coded

/-- Every plot of a frame has been coded or withheld. -/
def LscFrame.settled (f : LscFrame) : Bool := f.plots.all fun p => p.phase == .coded || p.phase == .withheld

/-- The units of one frame leave, its header first where R139 calls for one that has not just gone out. A dropped frame has
no unit (R144); a header with a new body goes out all the same. (DEDUCED, log entry 80) -/
def emitFrame (id : Nat) (f : LscFrame) : Act := fun s =>
  let f := { f with fill := f.filler }
  let hdr := f.hdr != [] && (s.stream id).lsc.lastHdr != f.hdr && (!f.drop || f.newHdr)
  let units := if f.drop then [] else frameUnits id f
  Act.seq [.when hdr (.seq [countS F.ECE_OSFCNT2_HDRS id 1, setS F.ECE_OSFSTAT_HGEN id f.hgen]),
    .when (!f.drop) (countS F.ECE_OSFCNT2_WITHHELD id (f.plots.filter fun p => p.phase == .withheld).length),
    updLsc id fun l => { l with lastHdr := if !f.drop then [] else if hdr then f.hdr else l.lastHdr },
    updFrame id f.frame fun g => { g with emitted := true, fill := f.fill, digest := crc64 units },
    unitsOut id f.frame ((if hdr then f.hdr else []) ++ units)] s

/-- Frames leave in frame order, each once all its plots are settled (R145). -/
def emitFrames (id : Nat) : Act := fun s =>
  Act.each (((s.stream id).lsc.frames.takeWhile fun f => f.emitted || (f.ended && f.settled)).filter fun f => !f.emitted)
    (emitFrame id) s

/-- An encoder stream opens: its pool, its start indices, and the header of stream open (R55, R63, R139). -/
def lscEncOpen (id : Nat) : Act := fun s =>
  match s.prog (s.stream id).inst (s.sget F.ECE_LSCW7_PROG_ID id) with
  | none => []
  | some p =>
    let h := p.shapeBy (s.sget · id)
    let body := headerBody h (s.keyInt id) p.digest
    let hdr := osfUnit osfHeader id 0 0 body
    let q := s.sget F.ECE_LSCW2_QIDX id
    Act.seq [updLsc id fun _ => { shape := h, pool := poolFresh h, body := some body, lastHdr := hdr },
      setS F.ECE_LSCLIVE1_QK id q, setS F.ECE_LSCLIVE1_QD id q, countS F.ECE_OSFCNT2_HDRS id 1, unitsOut id 0 hdr] s

/-! ## Frame boundaries (R51 to R53, R67 to R69) -/

/-- The input that the next frame takes: what is left of the one begun, else the next that a stage handed over, once the barrier
between the stages has completed (R35). -/
def State.lscInput (s : State) (id : Nat) : Option LscInput :=
  let l := (s.stream id).lsc
  match l.inputs with
  | i :: _ => if i.after.elim true (s.stageDone id) then some i else none
  | [] => if bitOf (s.stream id).stages stSce then none else ((s.inputItems id).find? fun it => !(l.frames.any fun f => f.taken.contains it.slot)).map fun it =>
      let i := InputItem.parse it.payload
      { ptime := i.ptime, incond := i.incond, conds := i.conds, frames := max 1 i.frames, item := some it.slot }

/-- What is left of an input after one frame, and the item and the decoded picture it then is done with. -/
def LscInput.take (i : LscInput) (rest : List LscInput) : List LscInput × List Nat × List Nat :=
  if i.frames ≤ i.done + 1 then (rest, i.item.toList, i.pic.toList) else ({ i with done := i.done + 1 } :: rest, [], [])

/-- The shadow at an encoder's boundary: it applies whole when the joined limits hold for it, and is held back otherwise,
recorded once with the lowest word of the set (R68, R538). (DEDUCED, log entry 39) -/
def lscEncShadow (id : Nat) : Act := fun s =>
  let pend := s.shadowed id lscRegs
  let hold := s.sget F.ECE_LSCCTL_HOLD id = 1
  let ok := s.lscEncOk (s.stream id).inst id (s.sget · id)
  let applies := !decide hold && pend != [] && ok
  let rc := s.sget F.ECE_LSCCMD_RCRESET id == 1 || (applies && pend.contains .ECE_LSCW2)
  Act.seq [
    .when applies (.seq [applyRegs id lscRegs, setS F.ECE_LSCLIVE1_SHDPEND id 0, updLsc id fun l => { l with held := false }, syncPins]),
    .when (!decide hold && pend != [] && !ok && !(s.stream id).lsc.held)
      (.seq [.opt pend.head? fun r => regErrAt r (homeOf id) .hw causeRange, updLsc id fun l => { l with held := true }]),
    digestBoundary id stLsc,
    .when rc (.read fun s =>
      let q := s.slive F.ECE_LSCW2_QIDX id
      .seq [setS F.ECE_LSCCMD_RCRESET id 0, setS F.ECE_LSCLIVE1_QK id q, setS F.ECE_LSCLIVE1_QD id q,
        updLsc id fun l => { l with campQ := [] }])] s

/-- A frame or a Campion plot begins. -/
def encBegin (id : Nat) (i : LscInput) : Act := fun s =>
  let x := s.stream id
  let l := x.lsc
  match s.prog x.inst (s.slive F.ECE_LSCW7_PROG_ID id) with
  | none => []
  | some p =>
    let h := p.shapeBy (s.slive · id)
    let struct := h != l.shape
    let keyint := s.keyInt id
    let key := !l.started || h.camp || struct || s.sget F.ECE_LSCLIVE1_KEYPEND id == 1 ||
      decide (keyint - 1 ≤ s.sget F.ECE_LSCLIVE1_SINCEKEY id)
    let since := if key then 0 else l.sinceTrue + 1
    let pool := if struct then poolFresh h else l.pool
    let le := s.slive F.ECE_LSCW0_LTR_EVERY id
    let mode := s.slive F.ECE_LSCW2_RC_MODE id
    let qidx := s.slive F.ECE_LSCW2_QIDX id
    let qmax := s.slive F.ECE_LSCW4_QMAX id
    let goal := s.slive F.ECE_LSCW3_TARGET id
    let body := headerBody h keyint p.digest
    let isNew := key && l.body != some body
    let hgen := if isNew && l.body.isSome then (l.hgen + 1) % 2 ^ 16 else l.hgen
    let tk := i.take l.inputs.tail
    let start := if h.camp then (span 0 h.channels).map fun c => if mode = 0 then qidx else l.campQ.getD c qidx
      else [if mode = 0 then qidx else if key then s.sget F.ECE_LSCLIVE1_QK id else s.sget F.ECE_LSCLIVE1_QD id]
    let f : LscFrame :=
      { frame := l.nextFrame, key := key, keyAt := if key then l.nextFrame else l.lastKey, hgen := hgen,
        ptime := i.ptime + 20000000 * i.done,
        ltr := h.nref == 2 && (key || (decide (0 < le) && since % max 1 le == 0)), incond := i.incond,
        refS := if key then 0xFFFFFFFF else poolFrame (·.refS) pool,
        refL := if key ∨ h.nref ≠ 2 then 0xFFFFFFFF else poolFrame (·.refL) pool, shape := h,
        nrow := if h.camp then 1 else h.brows, mode := mode, lo := s.slive F.ECE_LSCW4_QMIN id,
        hi := if mode = 1 then qmax else min qmax qidx, start := start,
        target := if h.camp then goal * 50 / 400 else if key then goal * s.slive F.ECE_LSCW2_KEYRATIO id / 4 else goal,
        rate := goal, ended := !h.camp, plots := (span 0 h.nplots).map fun n => { ix := n }, begun := true, closed := true,
        refDone := true, hdr := if key then osfUnit osfHeader id hgen l.nextFrame body else [], newHdr := isNew,
        srcConds := i.conds, taken := tk.2.1, pics := tk.2.2 }
    let f := { f with q := (List.range start.length).map fun c => (f.rowsBy c []).1 }
    Act.seq [updLsc id fun l => { l with
        shape := h, pool := if h.camp then poolTurn ((l.nextFrame + 2 ^ 32 - 1) % 2 ^ 32) pool else poolBegin pool, started := true, nextFrame := (l.nextFrame + 1) % 2 ^ 32, sinceTrue := since,
        lastKey := f.keyAt, hgen := hgen, body := if key then some body else l.body, inputs := tk.1, frames := l.frames ++ [f] },
      .when key (.seq [setS F.ECE_LSCLIVE1_KEYPEND id 0, setS F.ECE_LSCCMD_KEYREQ id 0]),
      setS F.ECE_LSCLIVE0_FRAME id f.frame, setS F.ECE_LSCLIVE1_SINCEKEY id (min 1023 since),
      dropTaps id ((f.frame + 2 ^ 32 - 1) % 2 ^ 32), noteTaps id f.frame] s

/-- The next 20 ms frame of a Campion plot begins. -/
def encContinue (id : Nat) (f : LscFrame) (i : LscInput) : Act := fun s =>
  let l := (s.stream id).lsc
  let tk := i.take l.inputs.tail
  Act.seq [updLsc id fun l => { l with
      nextFrame := (l.nextFrame + 1) % 2 ^ 32, sinceTrue := f.nrow, inputs := tk.1,
      pool := poolTurn ((l.nextFrame + 2 ^ 32 - 1) % 2 ^ 32) l.pool },
    updFrame id f.frame fun f => { f with
      nrow := f.nrow + 1, incond := f.incond ||| i.incond, srcConds := (f.srcConds ++ i.conds).dedup, taken := f.taken ++ tk.2.1, pics := f.pics ++ tk.2.2 },
    setS F.ECE_LSCLIVE0_FRAME id l.nextFrame, setS F.ECE_LSCLIVE1_SINCEKEY id f.nrow,
    dropTaps id ((l.nextFrame + 2 ^ 32 - 1) % 2 ^ 32), noteTaps id l.nextFrame] s

/-- `LSC_ENC_FRAME_BOUNDARY`: an encoder begins a frame once it has input and a `FREE` buffer. In Campion each 20 ms frame
begins so; a plot ends after 50, or at once for a key request, and is then exempt from R64 (R53). -/
def lscEncFrameBoundaryX (id : Nat) : Act := fun s =>
  if !s.isLscEnc id then []
  else match s.lscInput id with
    | none => []
    | some i =>
      match (s.stream id).lsc.frames.find? fun f => !f.ended with
      | some f =>
        if f.nrow < 50 ∧ s.sget F.ECE_LSCLIVE1_KEYPEND id = 0 then encContinue id f i s
        else Act.seq [updFrame id f.frame fun f => { f with ended := true, exempt := decide (f.nrow < 50) }, emitFrames id,
          lscEncShadow id, encBegin id i] s
      | none =>
        if (s.stream id).lsc.pool.any (·.cur) && !(s.stream id).lsc.shape.camp then []
        else Act.seq [lscEncShadow id, encBegin id i] s

/-! ## The latent path completes (R56, R58) -/

/-- The ŷ that a frame leaves in its buffer (R55). -/
def State.poolContent (s : State) (f : LscFrame) (e : Prog × Nat × Nat × Nat) : List Byte × Bool :=
  (s.tapMap e.1 e.2.1 f.shape.latH f.shape.latW 0 f.shape.latch 2).getD ([], false)

/-- The `CUR` buffer takes the ŷ of a frame whose latent path has completed, and the marks change (R55 to R57). In Campion the ŷ is
there already, and the marks change only while no later plot has begun. -/
def pathPool (id : Nat) (f : LscFrame) (e : Prog × Nat × Nat × Nat) : Act := fun s =>
  let l := (s.stream id).lsc
  if f.shape.camp then
    Act.when ((l.frames.getLast?).elim false (·.frame == f.frame))
      (updLsc id fun l => { l with pool := poolDone true false ((f.frame + f.nrow + 2 ^ 32 - 1) % 2 ^ 32) l.pool }) s
  else
    let c := s.poolContent f e
    Act.seq [.opt (l.pool.findIdx? (·.cur)) fun j => memWriteFrom (homeOf id) (s.lscPool id + j * c.1.length) c.1 c.2 true,
      updLsc id fun l => { l with pool := poolDone f.key f.ltr f.frame l.pool }] s

/-- The values of a frame's latent path are all there. -/
def State.pathReady (s : State) (id : Nat) (f : LscFrame) (e : Prog × Nat × Nat × Nat) : Bool :=
  if f.shape.camp then f.ended && decide (f.shape.channels ≤ f.channel)
  else if s.isLscDec id then
    f.closed && f.begun && (f.plots.all fun p => p.phase == .decoded || p.phase == .missing) &&
      (span 0 f.shape.latH).all (s.rowStored e.1 f.shape id f.frame e.2.2.2)
  else (span 0 f.shape.brows).all (s.rowReady e.1 f.shape id f.frame e.2)

/-- `LSC_LATENT_PATH_DONE`: the latent path of the oldest frame whose has not completed does: ŷ is in the pool, the marks
change, the taps are ready, and the input has been consumed. -/
def lscLatentPathDoneX (id : Nat) : Act := fun s =>
  let x := s.stream id
  match x.lsc.frames.find? fun f => !f.pathDone && f.final.isNone with
  | none => []
  | some f => match (s.prog x.inst f.shape.prog).bind fun p => p.tensors.map fun w => (p, w) with
    | none => []
    | some e =>
      if !s.pathReady id f e then []
      else
        Act.seq [pathPool id f e,
          if f.shape.camp then tapCampion id f.frame else tapStep id f.frame [0, 1, 2, 3] true,
          updFrame id f.frame fun f => { f with pathDone := true },
          .each f.taken fun k => finishInput id k f.srcConds] s

/-! ## An encoder's frame completes (R63 to R65) -/

/-- A frame carries a clamp event (R64, R66). -/
def LscFrame.clampEvent (f : LscFrame) : Bool :=
  f.mode != 0 && !f.exempt && (f.clamped ||
    (if f.shape.camp then f.plots.any fun p => decide (f.goal * 51 < p.payload.length * 50)
     else decide (f.goal * 51 < f.coded * 50)))

/-- The quality index of the last block row of a channel. -/
def LscFrame.lastQ (f : LscFrame) (c : Nat) : Option Nat := (f.q.getD c [])[f.nrow - 1]?

/-- The conditions that a frame's completion carries: its own and, where its first stage is this one, those that ingest gave
its input (R364). -/
def State.frameConds (s : State) (id : Nat) (f : LscFrame) : List Nat :=
  f.sts ++ (if bitOf (s.stream id).stages stSce then [] else f.srcConds)

/-- `LSC_FRAME_COMPLETE`: the oldest frame of an encoder completes once its units have left, its latent path has run and,
with `RECON_EN`, its reconstruction is written. -/
def lscFrameCompleteX (id : Nat) : Act := fun s =>
  if !s.isLscEnc id then []
  else match (s.stream id).lsc.frames with
    | [] => []
    | f :: rest =>
      let rec_ := s.slive F.ECE_LSCW4_RECON_EN id == 1 && !f.sts.contains 0x0404
      match s.prog (s.stream id).inst f.shape.prog with
      | none => []
      | some p =>
        if !f.emitted ∨ !f.pathDone ∨ (rec_ ∧ !s.reconDone p f id) then []
        else
          let conds := s.frameConds id f
          let st := pickStatus conds
          let r := s.recon p f
          Act.seq [setS F.ECE_RCSTAT_FILLED id (b2n (f.fill != 0)), setS F.ECE_RCSTAT_LASTBYTES id (min (2 ^ 24 - 1) f.coded),
            .when f.clampEvent (.seq [setS F.ECE_RCSTAT_CLAMP id 1, countS F.ECE_LSCCNT_CLAMPS id 1]),
            if f.shape.camp then updLsc id fun l => { l with
                campQ := (List.range f.shape.channels).map fun c => (f.lastQ c).getD (f.start.getD c 0) }
              else .opt (f.lastQ 0) fun q => setS (if f.key then F.ECE_LSCLIVE1_QK else F.ECE_LSCLIVE1_QD) id q,
            .when rec_ (putOutput (homeOf id) id r.1 r.2.2 false),
            countConditions id conds, workRecord id f.frame st f.digest,
            srcDone id f.frame (if f.shape.camp then f.nrow else 1) f.ptime conds f.incondOut,
            updLsc id fun l => { l with frames := rest }, releasePics id f.pics, egressPump id] s

/-! ## The commands -/

/-- `LSC_ENC_FRAME_BOUNDARY`. -/
def execLscEncFrameBoundary (id : Nat) (s : State) : Host.Outcome State Fault Refusal := done (lscEncFrameBoundaryX id) s

/-- `LSC_LATENT_PATH_DONE`. -/
def execLscLatentPathDone (id : Nat) (s : State) : Host.Outcome State Fault Refusal := done (lscLatentPathDoneX id) s

/-- `LSC_FRAME_COMPLETE`. -/
def execLscFrameComplete (id : Nat) (s : State) : Host.Outcome State Fault Refusal := done (lscFrameCompleteX id) s

/-- `LSC_KEYREQ`. -/
def execLscKeyreq (q : Requester) (t : Nat) (s : State) : Host.Outcome State Fault Refusal := done (lscKeyreqX q t) s

/-- `LSC_RCRESET`. -/
def execLscRcreset (q : Requester) (t : Nat) (s : State) : Host.Outcome State Fault Refusal := done (lscRcresetX q t) s

end Sys2Proof.Machine
end

