-- ==== Sys2Proof/Machine/LscDec.lean ====
section
/-! DEFINITION. The learned-codec decoder (chapters 02 and 05): the units it receives, its headers and the refused state, its
frames from their units to their completion, missing references, concealment and refresh requests. -/
namespace Sys2Proof.Machine

/-! ## Refresh requests (R74, R155, R156) -/

/-- The reasons of R155. -/
def rsMissingRef : Nat := 1
def rsPlotLost : Nat := 2
def rsJoin : Nat := 3

/-- A refresh request goes upstream: a new one, or a repeat of the last with its reason. Without `RETURN_EN`, and in the
refused state, none is sent. (DEDUCED, log entry 82) -/
def sendRefresh (id frame reason : Nat) (isNew : Bool) : Act := fun s =>
  let x := s.stream id
  let l := x.lsc
  if l.refused.isSome ∨ s.slive F.ECE_LSCW0_RETURN_EN id = 0 then []
  else
    let r : Refresh := if isNew then ⟨frame, reason, 1⟩ else ⟨frame, l.rfr.elim reason (·.reason), l.rfr.elim 0 (·.count) + 1⟩
    let u := refreshUnit l.encStream (s.sget F.ECE_OSFSTAT_HGEN id) frame l.lastGood r.reason r.count
    Act.seq [updLsc id fun l => { l with rfr := some r }, countS F.ECE_LSCCNT_REFCNT id 1,
      match l.fromPeer with
      | some e => mvSend e mtOsf x.inst x.epoch l.encStream u false .plain .none
      | none => emit (.osf id u)] s

/-- A frame unit that passed R148 may make the last request due again (R74). Repeats end at a key unit that is accepted: one that is
discarded as an orphan brings no key latent. (DEDUCED, log entries 82 and 163) -/
def repeatRefresh (id frame : Nat) : Act := fun s =>
  let n := s.slive F.ECE_LSCW2_RFR_RPT id
  match (s.stream id).lsc.rfr with
  | none => []
  | some r =>
    if n ≠ 0 ∧ frameLater frame r.frame ∧ n ≤ (frame + 2 ^ 32 - r.frame) % 2 ^ 32 then sendRefresh id frame r.reason false s
    else []

/-! ## The oldest frame (R72, R73, R129, R153) -/

/-- A frame's one event of missing references and plots: counted, and a refresh request sent at once. -/
def decEvent (id : Nat) (f : LscFrame) (reason : Nat) : Act := .seq
  [updFrame id f.frame fun f => { f with event := true }, countS F.SMV_SCOND0_MISSREF id 1,
   sendRefresh id f.frame (if f.join then rsJoin else reason) true]

/-- A delta frame names a reference that no marked buffer of the pool holds. -/
def LscFrame.refMissing (f : LscFrame) (pool : List PoolBuf) : Bool :=
  !f.key && ([f.refS] ++ (if f.shape.nref = 2 then [f.refL] else [])).any fun r =>
    !(pool.any fun b => (b.refS || b.refL) && b.frame == r)

/-- The zero latent takes the place of a plot that is missing, and the latent path makes again what it has stored of the plot: what
it gives does not depend on how far a decode that failed had run (R129). -/
def zeroPlot (id : Nat) (f : LscFrame) (e : Prog × Nat × Nat × Nat) (p : PlotSt) : Act :=
  let camp := f.shape.camp
  let groups := plotGroups f.shape f.nrow p.ix
  let rs := if camp then (50 * p.ix, 50 * p.ix + f.nrow) else f.shape.plotRows p.ix 64
  .seq [.when (!camp) (.each groups.flatten fun a => putTensor e.1 (if a.z then e.2.2.1 else e.2.1) a.r a.q a.k 0 false),
    updFrame id f.frame fun f => { f with plots := f.plots.map fun g =>
      if g.ix = p.ix then { g with zeroed := true, syms := if camp then (groups.headD []).map fun a => (0, 0, e.1.hscale a.k) else [] }
      else g },
    decFences id f.frame,
    .when (!camp || p.ix == f.channel) (.seq [remake e.1 id f p.ix rs.1 rs.2 true false, lostMeans id f.frame]),
    .read fun s => syncFences (s.stream id).inst]

/-- The oldest frame of a decoder goes on: its references are looked up, its missing plots are taken as zero, and its event is
raised. Frames complete in order, since each one's references are the values of those before it. (DEDUCED, log entry 83) -/
def decAdvance (id : Nat) : Act := fun s =>
  match (s.stream id).lsc.frames.head? with
  | none => []
  | some f =>
    if f.final.isSome then []
    else match (s.prog (s.stream id).inst f.shape.prog).bind fun p => p.tensors.map fun w => (p, w) with
      | none => []
      | some e => Act.seq [
          .when (!f.refDone) (.seq [updFrame id f.frame fun f => { f with refDone := true },
            .when (f.refMissing (s.stream id).lsc.pool && !f.event) (decEvent id f rsMissingRef)]),
          .each (f.plots.filter fun p => p.phase == .missing && !p.zeroed) (zeroPlot id f e),
          .read fun s => .when ((s.stream id).lsc.frames.head?.elim false fun g =>
            !g.event && g.plots.any fun p => p.phase == .missing) (decEvent id f rsPlotLost)] s

/-- The open frame of a decoder (R149). (DEDUCED, log entry 83) -/
def Lsc.openFrame (l : Lsc) : Option LscFrame := l.frames.find? fun f => !f.closed && f.final.isNone

/-- A frame closes: its plots that have not arrived are missing (R73). (DEDUCED, log entry 83) -/
def closeFrame (id : Nat) : Act := fun s =>
  match (s.stream id).lsc.openFrame with
  | none => []
  | some f => Act.seq [updFrame id f.frame fun f => { f with closed := true, plots := f.plots.map fun p =>
      if p.phase = .waiting then { p with phase := .missing } else p }, decAdvance id] s

/-! ## Units (R148 to R152, R159) -/

/-- A unit is an orphan (R149). -/
def orphan (id : Nat) : Act := countS F.ECE_OSFCNT0_ORPHAN id 1

/-- A header fails R150: a record says so, and the decoder is in the refused state. -/
def refuseHeader (id frame status : Nat) : Act := .seq
  [updLsc id fun l => { l with refused := some status }, setS F.ECE_OSFSTAT_REFUSED id 1, countS F.ECE_OSFCNT1_REFUSED id 1,
   workRecord id frame status 0]

/-- A header (R150, R151). -/
def decHeader (id : Nat) (u : Osf) : Act := fun s =>
  Act.seq [updLsc id fun l => { l with encStream := u.stream },
    .when (s.sget F.ECE_LSCCTL_HOLD id == 0) (.seq [applyRegs id [.ECE_LSCW7], syncPins,
      .read fun s => .when (s.shadowed id lscRegs == []) (setS F.ECE_LSCLIVE1_SHDPEND id 0)]),
    .read fun s =>
      let n := (s.stream id).inst
      let pid := s.slive F.ECE_LSCW7_PROG_ID id
      if !u.headerOk then refuseHeader id u.frame 0x0104
      else match (s.prog n pid).filter fun p => p.isCodec && p.digest == (u.raw.drop 36).take 32 with
        | none => refuseHeader id u.frame 0x0106
        | some p =>
          let h := u.shape pid
          if p.profile ≠ some h.profile ∨ p.nref ≠ h.nref ∨ p.latch ≠ h.latch ∨ p.hypch ≠ h.hypch ∨
              !s.inMem n (s.lscPool id) h.poolBytes then refuseHeader id u.frame 0x0104
          else .seq [
            .when ((s.stream id).lsc.body != some u.body) (.seq [
              updLsc id fun l => { l with pool := poolFresh h, keyed := false },
              setS F.ECE_LSCW0_PROFILE id h.profile, setS F.ECE_LSCW0_BITS id h.bits, setS F.ECE_LSCW0_CHROMA id h.chroma,
              if h.camp then .seq [setS F.ECE_LSCW1_RATE id h.rate, setS F.ECE_LSCW1_CHANNELS id h.channels]
              else .seq [setS F.ECE_LSCW1_HEIGHT id h.height, setS F.ECE_LSCW1_WIDTH id h.width]]),
            updLsc id fun l => { l with shape := h, body := some u.body, hgen := u.hgen, refused := none },
            setS F.ECE_OSFSTAT_REFUSED id 0, setS F.ECE_OSFSTAT_NOHDR id 0, setS F.ECE_OSFSTAT_HGEN id u.hgen,
            countS F.ECE_OSFCNT2_HDRS id 1]] s

/-- A frame unit waits for its turn to complete with a status and no decode. -/
def finalFrame (id : Nat) (u : Osf) (st : Nat) : Act := updLsc id fun l => { l with
  frames := l.frames ++ [{ frame := u.frame, key := u.typ == osfKey, hgen := u.hgen, closed := true, final := some st }] }

/-- A key or delta unit (R149, R152). The request outstanding ends with a key unit that is accepted (R74; log entry 163). -/
def decFrame (id : Nat) (u : Osf) : Act := fun s =>
  let l := (s.stream id).lsc
  if u.hgen ≠ l.hgen ∨ l.lastUnit.elim false (fun k => !frameLater u.frame k) then orphan id s
  else
    let key := u.typ == osfKey
    let f : LscFrame :=
      { frame := u.frame, key := key, hgen := u.hgen, ptime := u.at 16 8, ltr := u.at 24 1 % 2 == 1, incond := u.at 25 1,
        refS := u.at 32 4, refL := u.at 36 4, shape := l.shape, nrow := u.at 26 2, q := u.qidx l.shape,
        plots := (span 0 (u.at 28 2)).map fun n => { ix := n }, join := !key && !l.keyed }
    Act.seq [updLsc id fun l => { l with lastUnit := some u.frame, encStream := u.stream }, closeFrame id,
      if u.frameOk l.shape then .seq [
        updLsc id fun l => { l with frames := l.frames ++ [f], keyed := l.keyed || key, rfr := if key then none else l.rfr },
        decAdvance id]
      else finalFrame id u 0x0104] s

/-- A plot payload unit (R143, R144, R149, R152). -/
def decPlot (id : Nat) (u : Osf) (pz : Bool) : Act := fun s =>
  let p := u.at 16 2
  match (s.stream id).lsc.openFrame with
  | none => orphan id s
  | some f =>
    if f.frame ≠ u.frame ∨ f.hgen ≠ u.hgen ∨ !(f.plots.any fun g => g.ix == p && g.phase == .waiting) then orphan id s
    else if !u.plotOk then []
    else
      let w := u.at 18 1 % 2 == 1
      let n := u.at 20 4
      Act.seq [updLsc id fun l => { l with encStream := u.stream },
        .when w (countS F.ECE_OSFCNT2_WITHHELD id 1),
        updFrame id f.frame fun f => { f with plots := f.plots.map fun g =>
          if g.ix = p then (if w then { g with phase := .missing }
            else { g with phase := .arrived, payload := (u.raw.drop 24).take n, bad := pz }) else g },
        .read fun s => .when ((s.stream id).lsc.openFrame.elim false fun f => f.plots.all fun g => g.phase != .waiting)
          (updFrame id f.frame fun f => { f with closed := true }),
        decAdvance id] s

/-- A unit that passed R148 reaches a decoder. Where two rules speak of the same unit: an extension unit counts as skipped, never as
an orphan, and calls for no `JOIN`, before a header too (R159 over R151); and in the refused state frame units complete with the
refusal's status whether or not a header was ever accepted (R150 over R151). (DEDUCED, log entry 163) -/
def decUnit (id : Nat) (pz : Bool) (u : Osf) : Act := fun s =>
  let l := (s.stream id).lsc
  if !s.isOpen id then []
  else if u.ext then countS F.ECE_OSFCNT1_SKIPPED id 1 s
  else if u.typ = osfHeader then decHeader id u s
  else match l.refused with
    | some st =>
      if u.isFrame then Act.seq [countS F.ECE_OSFCNT1_REFUSED id 1, closeFrame id, finalFrame id u st] s
      else if u.typ = osfPlot then countS F.ECE_OSFCNT1_REFUSED id 1 s
      else orphan id s
    | none =>
      if s.sget F.ECE_OSFSTAT_NOHDR id = 1 then
        if !l.joined then Act.seq [orphan id, updLsc id fun l => { l with joined := true, encStream := u.stream },
          sendRefresh id u.frame rsJoin true] s
        else Act.seq [orphan id, .when u.isFrame (repeatRefresh id u.frame)] s
      else if u.typ = osfPlot then decPlot id u pz s
      else if u.isFrame then Act.seq [decFrame id u, repeatRefresh id u.frame] s
      else orphan id s

/-- A unit reaches an encoder: a `REFRESH` that names an open encoder of the same home tile is a key request (R156). -/
def encUnit (id : Nat) (u : Osf) : Act := fun s =>
  if u.typ = osfRefresh ∧ homeOf u.stream = homeOf id ∧ s.isOpen u.stream ∧ s.isLscEnc u.stream then keyRequest u.stream s
  else orphan id s

/-- The units of a message or an input reach a stream (R148); `peer` is where they came from over Movon. -/
def osfRx (id : Nat) (peer : Option Nat) (pz : Bool) (bs : List Byte) : Act := fun s =>
  let l := (s.stream id).lsc
  let dec := s.isLscDec id
  if !dec && !s.isLscEnc id then []
  else
    let camp := dec && s.sget F.ECE_OSFSTAT_NOHDR id == 0 && l.shape.camp
    Act.seq [.when dec (updLsc id fun l => { l with fromPeer := peer }),
      .each (osfSplit bs.length camp false bs) fun u => match u with
        | none => countS F.ECE_OSFCNT0_CRCERR id 1
        | some u => if dec then decUnit id pz u else encUnit id u] s

/-- A decoder stream opens: no header yet (R151, R162). -/
def lscDecOpen (id : Nat) : Act := .seq [updLsc id fun _ => {}, setS F.ECE_OSFSTAT_NOHDR id 1]

/-! ## Boundaries and completion -/

/-- `LSC_DEC_FRAME_BOUNDARY`: entropy decoding of the oldest frame's first plot begins, or the frame closed without one
(R67). The shadow applies unless it is held, and a `FREE` buffer becomes `CUR`. In the refused state there is no boundary (R150).
`SINCEKEY` counts the frames that have begun since the last key latent: a frame whose unit never arrived does not count.
(DEDUCED, log entry 163) -/
def lscDecFrameBoundaryX (id : Nat) : Act := fun s =>
  let l := (s.stream id).lsc
  match l.frames.head? with
  | none => []
  | some f =>
    if !s.isLscDec id ∨ l.refused.isSome ∨ f.final.isSome ∨ f.begun ∨ !f.refDone ∨ !(f.closed || f.plots.any fun p => p.phase == .arrived) then []
    else
      let since := if f.key then 0 else l.sinceTrue + 1
      let keyAt := if f.key then f.frame else l.lastKey
      Act.seq [.when (s.sget F.ECE_LSCCTL_HOLD id == 0) (.seq [applyRegs id lscRegs, setS F.ECE_LSCLIVE1_SHDPEND id 0, syncPins]),
        digestBoundary id stLsc,
        updLsc id fun l => { l with
          pool := if f.shape.camp then poolTurn ((f.frame + 2 ^ 32 - 1) % 2 ^ 32) l.pool else poolBegin l.pool, sinceTrue := since, lastKey := keyAt },
        updFrame id f.frame fun f => { f with begun := true, keyAt := keyAt },
        setS F.ECE_LSCLIVE0_FRAME id f.frame, setS F.ECE_LSCLIVE1_SINCEKEY id (min 1023 since),
        dropTaps id ((f.frame + 2 ^ 32 - 1) % 2 ^ 32),
        .each (span 0 (if f.shape.camp then f.nrow else 1)) fun j => noteTaps id ((f.frame + j) % 2 ^ 32)] s

/-- `DEC_WAIT_EXPIRY`: `DEC_WAIT` milliseconds have passed since the open frame's unit arrived (R73). -/
def decWaitExpiryX (id : Nat) : Act := fun s =>
  if s.isLscDec id ∧ s.slive F.ECE_LSCW2_DEC_WAIT id ≠ 0 then closeFrame id s else []

/-- The oldest frame leaves a decoder, and the next goes on. -/
def dropFrame (id : Nat) : Act := .seq [updLsc id fun l => { l with frames := l.frames.tail }, decAdvance id]

/-- What a decoder's frame gives out: the bytes of its output buffer, those that its digest covers (R539), and whether they
are poisoned. With `LATONLY` it is ŷ, and nothing is written (R179). (DEDUCED, log entry 81) -/
def State.decOutput (s : State) (latOnly : Bool) (p : Prog) (f : LscFrame) : List Byte × List Byte × Bool :=
  if !latOnly then s.recon p f
  else if f.shape.camp then ([], (span 0 f.nrow).flatMap (f.campTap 0), false)
  else match p.tensors with
    | none => ([], [], false)
    | some w => match s.tapMap p w.1 f.shape.latH f.shape.latW 0 f.shape.latch 2 with
      | none => ([], [], false)
      | some c => ([], c.1, c.2)

/-- `LSC_DEC_FRAME_COMPLETE`: the oldest frame of a decoder completes. A frame with an event completes with
`ST_MISSING_REF` and starts concealment; a key latent without one ends it; the frames between complete with `ST_CONCEALED`
(R72). -/
def lscDecFrameCompleteX (id : Nat) : Act := fun s =>
  if !s.isLscDec id then []
  else match (s.stream id).lsc.frames.head? with
    | none => []
    | some f => match f.final with
      | some st => Act.seq [workRecord id f.frame st 0, dropFrame id] s
      | none => match s.prog (s.stream id).inst f.shape.prog with
        | none => []
        | some p =>
          let latOnly := s.sget F.ECE_TAPCFG_LATONLY id == 1
          if !f.pathDone ∨ (!latOnly ∧ !s.reconDone p f id) then []
          else
            let o := s.decOutput latOnly p f
            let was := s.sget F.ECE_LSCLIVE1_CONCEAL id == 1
            let now_ := f.event || (was && !f.key)
            let conds := f.sts ++ (if f.event then [0x0203] else if now_ then [0x0202] else []) ++ (if o.2.2 then [0x0201] else [])
            let st := pickStatus conds
            Act.seq [setS F.ECE_LSCLIVE1_CONCEAL id (b2n now_), setS F.ECE_RCSTAT_LASTBYTES id (min (2 ^ 24 - 1) f.coded),
              .when (o.1 != []) (putOutput (homeOf id) id o.1 o.2.2 false),
              .when (st == 0) (updLsc id fun l => { l with lastGood := f.frame }),
              countConditions id conds, workRecord id f.frame st (crc64 o.2.1),
              srcDone id f.frame (if f.shape.camp then f.nrow else 1) f.ptime conds f.incond, dropFrame id] s

/-! ## The commands -/

/-- `LSC_DEC_FRAME_BOUNDARY`. -/
def execLscDecFrameBoundary (id : Nat) (s : State) : Host.Outcome State Fault Refusal := done (lscDecFrameBoundaryX id) s

/-- `DEC_WAIT_EXPIRY`. -/
def execDecWaitExpiry (id : Nat) (s : State) : Host.Outcome State Fault Refusal := done (decWaitExpiryX id) s

/-- `LSC_DEC_FRAME_COMPLETE`. -/
def execLscDecFrameComplete (id : Nat) (s : State) : Host.Outcome State Fault Refusal := done (lscDecFrameCompleteX id) s

end Sys2Proof.Machine
end

