-- ==== Sys2Proof/Machine/Ece.lean ====
section
/-! DEFINITION. The entropy coding engine (chapter 04): its table sets, its work items, and what becomes of a plot whose payload
is coded, decoded, withheld or lost. -/
namespace Sys2Proof.Machine

/-! ## Descriptors (R122) -/

/-- The queue of ECE work items. -/
def eceQueue : Nat := 16

/-- An ECE work descriptor (R122). -/
structure EceDesc where
  op : Nat
  stream : Nat
  frame : Nat
  plot : Nat
  cap : Nat
  addr : Nat
  rsvd : Bool
  deriving DecidableEq, Repr

/-- A descriptor read. (DEDUCED, log entry 85) -/
def EceDesc.parse (b : List Byte) : EceDesc :=
  { op := leAt b 0 1, stream := leAt b 2 2 % 2 ^ 14, frame := leAt b 4 4, plot := leAt b 8 2, cap := leAt b 12 4,
    addr := leAt b 16 8 % 2 ^ 40,
    rsvd := leAt b 1 1 != 0 || leAt b 2 2 / 2 ^ 14 != 0 || leAt b 10 2 != 0 || leAt b 16 8 / 2 ^ 40 != 0 || leAt b 28 4 != 0 }

/-- The plot a descriptor names, of the stream's frames that have not completed. -/
def State.eceTarget (s : State) (d : EceDesc) : Option (LscFrame × PlotSt) :=
  ((s.stream d.stream).lsc.frames.find? fun f => f.frame == d.frame && f.final.isNone).bind fun f =>
    (f.plots.find? (·.ix == d.plot)).map fun p => (f, p)

/-- The tile's ECE serves a stream: it is a learned codec of this direction that runs on the tile. -/
def State.eceServes (s : State) (t : Nat) (d : EceDesc) : Bool :=
  bitOf (s.stream d.stream).tiles t && (if d.op = 1 then s.isLscDec d.stream else s.isLscEnc d.stream)

/-- A descriptor names a frame that has not begun: its item waits for it (R124). -/
def State.eceFuture (s : State) (d : EceDesc) : Bool :=
  let l := (s.stream d.stream).lsc
  if d.op = 0 then decide ((d.frame + 2 ^ 32 - l.nextFrame) % 2 ^ 32 < 2 ^ 31) else l.lastUnit.elim true (frameLater d.frame)

/-- A descriptor names a plot of the grid that can still be coded, in a buffer of the instance, which an encoder may write (R168).
(DEDUCED, log entry 85) -/
def State.eceOk (s : State) (t : Nat) (d : EceDesc) : Bool :=
  !d.rsvd && decide (d.op ≤ 1) && s.eceServes t d &&
  (d.cap == 0 || s.inDev (s.stream d.stream).inst d.addr d.cap) &&
  (d.op != 0 || !s.hitsTaps (s.stream d.stream).inst d.stream d.addr d.cap) &&
  (if s.eceFuture d then decide (d.plot < (s.stream d.stream).lsc.shape.nplots)
   else (s.eceTarget d).elim false fun e =>
    if d.op = 0 then e.2.phase == .waiting else e.2.phase == .waiting || e.2.phase == .arrived)

/-! ## Errors (R127 to R132) -/

/-- The ECE records an error with the item's stream, plot and frame. -/
def eceErr (t code : Nat) (d : EceDesc) : Act :=
  blockErr F.ECE_ERRSTAT_ERR F.ECE_ERRSTAT_CODE F.ECE_ERRCNT_COUNT t code
    [(F.ECE_ERRSTAT_STREAM, d.stream), (F.ECE_ERRLOC_PLOT, d.plot), (F.ECE_ERRLOC_FRAME, d.frame % 2 ^ 16)]

/-- A change of one plot of a frame. -/
def updPlot (id frame ix : Nat) (g : PlotSt → PlotSt) : Act :=
  updFrame id frame fun f => { f with plots := f.plots.map fun p => if p.ix = ix then g p else p }

/-- A frame's completion carries a status. (DEDUCED, log entry 149) -/
def noteStatus (id frame st : Nat) : Act := updFrame id frame fun f => { f with sts := f.sts ++ [st] }

/-- An encoder's plot has no payload: it is withheld (R115, R128, R144) and a key request is accepted at that instant. -/
def withholdPlot (id frame ix st : Nat) : Act := .seq
  [updPlot id frame ix fun p => { p with phase := .withheld, payload := [] }, noteStatus id frame st, keyRequest id, emitFrames id]

/-- A decoder's plot is decoded from the zero latent (R73, R129). -/
def losePlot (id frame ix : Nat) : Act := .seq
  [updPlot id frame ix fun p => { p with phase := .missing }, decAdvance id]

/-- `RESULT_LEN` in the item's slot (R122). -/
def putResultLen (t slot n : Nat) : Act := fun s => memWrite (s.qSlotAddr t eceQueue slot + 40) (toLe 4 n) false false s

/-! ## Table sets (R115) -/

/-- `ECE_INFLIGHT` shows the items in flight. -/
def syncEce (t : Nat) : Act := fun s => setF F.ECE_INFLIGHT_ITEMS t (s.tile t).ece.length s

/-- The set of a program. -/
def State.tset (s : State) (t n prog : Nat) : Option TSet := (s.tile t).tsets.find? fun e => e.inst == n && e.prog == prog

/-- The place of a new set: an empty one, else that of the unpinned set least recently used. -/
def State.tsetPlace (s : State) (t : Nat) : Option Nat :=
  let l := (s.tile t).tsets
  match (List.range 8).find? fun i => l.all (·.ix != i) with
  | some i => some i
  | none => ((l.filter fun e => !s.tsetPinned t e && !e.loading).mergeSort fun a b => decide (a.used ≤ b.used)).head?.map (·.ix)

/-- A program's set starts to load into a place. -/
def tsetLoad (t n prog ix : Nat) : Act := .seq
  [updT t fun c => { c with tsets := c.tsets.filter (·.ix != ix) ++ [⟨ix, n, prog, true, 0⟩] }, syncTsets t]

/-- A set has been used. -/
def tsetUse (t n prog : Nat) : Act := updT t fun c =>
  let k := ((c.tsets.map (·.used)).max?).getD 0 + 1
  { c with tsets := c.tsets.map fun e => if e.inst = n ∧ e.prog = prog then { e with used := k } else e }

/-- The table sets of a program leave an ECE with the program. (DEDUCED, log entry 101) -/
def tsetDrop (t : Nat) (p : TSet → Bool) : Act := .seq
  [updT t fun c => { c with tsets := c.tsets.filter fun e => !p e }, syncTsets t]

/-- `ECE_TSET_LOAD_DONE`: the set that has been loading longest is resident. -/
def eceTsetLoadDoneX (t : Nat) : Act := fun s =>
  match (s.tile t).tsets.find? (·.loading) with
  | none => []
  | some e => Act.seq [updT t fun c => { c with tsets := c.tsets.map fun g => if g.ix = e.ix then { g with loading := false } else g },
      syncTsets t] s

/-! ## Items start (R115, R122, R124) -/

/-- The item and its program: what an item that is checked runs on. -/
structure EceCx where
  it : Item
  d : EceDesc
  f : LscFrame
  pl : PlotSt
  n : Nat
  p : Prog
  w : Nat × Nat × Nat

/-- An item that names a plot, with its program. -/
def State.eceCx (s : State) (it : Item) : Option EceCx :=
  let d := EceDesc.parse it.payload
  let n := (s.stream d.stream).inst
  (s.eceTarget d).bind fun e => (s.prog n e.1.shape.prog).bind fun p => p.tensors.map fun w => ⟨it, d, e.1, e.2, n, p, w⟩

/-- The symbols of an item's plot, group by group. -/
def EceCx.groups (x : EceCx) : List (List SymAt) := plotGroups x.f.shape x.f.nrow x.d.plot

/-- What an item waits for is there: an encode item needs the values of all its groups, a decode item its payload, in the
oldest frame, at whose boundary entropy decoding began. The channels of a Campion plot take their turns. -/
def State.ecePresent (s : State) (x : EceCx) : Bool :=
  let id := x.d.stream
  if x.f.shape.camp ∧ x.d.plot ≠ x.f.channel then false
  else if x.d.op = 0 then
    x.f.ended && ((List.range x.groups.length).filterMap (groupRow x.f.shape x.d.plot)).all (s.rowReady x.p x.f.shape id x.f.frame x.w)
  else x.f.begun && x.f.refDone && x.pl.phase == .arrived && (s.stream id).lsc.frames.head?.elim false (·.frame == x.f.frame)

/-- An item completes without a run. (DEDUCED, log entry 85) -/
def eceRefuse (t : Nat) (it : Item) (status : Nat) : Act := .seq
  [.when ((EceDesc.parse it.payload).op != 1) (putResultLen t it.slot 0), finishItem t it status 0 []]

/-- All eight sets are pinned: the item completes, and its plot is withheld or lost (R115). -/
def eceNoSet (t : Nat) (x : EceCx) : Act := .seq
  [eceErr t 8 x.d, eceRefuse t x.it 0x0402,
   if x.d.op = 0 then withholdPlot x.d.stream x.f.frame x.d.plot 0x0402 else losePlot x.d.stream x.f.frame x.d.plot]

/-- The item's run begins: what it reads is read now. -/
def eceBegin (t : Nat) (x : EceCx) : Act := fun s =>
  let r : EceRun := { slot := x.it.slot, dec := x.d.op == 1, stream := x.d.stream, frame := x.f.frame, plot := x.d.plot, cap := x.d.cap,
                      addr := x.d.addr, inst := x.n, prog := x.p.id }
  let r := if x.d.op = 1 then { r with payload := s.bytes x.d.addr x.d.cap, bad := x.pl.bad || s.poisonedIn x.d.addr x.d.cap }
    else match allSome (fun g => s.rowSymbols x.p x.w x.d.stream x.f ((groupRow x.f.shape x.d.plot g.2).getD 0) g.1) x.groups.zipIdx with
      | some l => { r with syms := l.flatten.map (·.1), bad := l.flatten.any (·.2) }
      | none => { r with bad := true }
  Act.seq [tsetUse t x.n x.p.id, updT t fun c => { c with ece := c.ece ++ [r] }, syncEce t] s

/-- What becomes of an item whose inputs are there: it begins; its program's tables start to load; or there is no place for them.
None while its tables load, which delays no other item (R115). -/
def State.eceTake (s : State) (t : Nat) (x : EceCx) : Option Act :=
  match s.tset t x.n x.p.id with
  | some e => if e.loading then none else some (eceBegin t x)
  | none => match s.tsetPlace t with
    | some i => some (tsetLoad t x.n x.p.id i)
    | none => if (s.tile t).tsets.all (s.tsetPinned t) then some (eceNoSet t x) else none

/-- An item of one direction starts: the first in the queue's order that can. One with a bad descriptor completes; one whose
program's tables are not resident causes their load and waits for it. -/
def eceStartX (dec : Bool) (t : Nat) : Act := fun s =>
  if !s.isOn .ece t ∨ 16 ≤ (s.tile t).ece.length then []
  else
    let mine := (s.qItems t eceQueue).filter fun i => i.started && !((s.tile t).ece.any (·.slot == i.slot)) &&
      (leAt i.payload 0 1 == 1) == dec
    match mine.find? fun i => !s.eceOk t (EceDesc.parse i.payload) with
    | some i => eceRefuse t i 0x0104 s
    | none => (((mine.filterMap s.eceCx).filter s.ecePresent).findSome? (s.eceTake t)).elim [] fun a => a s

/-! ## Encoding (R117 to R119, R123, R127, R128) -/

/-- The symbols of a run. -/
def EceRun.ecSyms (r : EceRun) : List EcSym := r.syms.map fun e => ⟨e.1, e.2.1, e.2.2⟩

/-- The descriptor of a run, for its errors. -/
def EceRun.desc (r : EceRun) : EceDesc := ⟨b2n r.dec, r.stream, r.frame, r.plot, r.cap, r.addr, false⟩

/-- A run leaves the ECE. -/
def eceEnd (t slot : Nat) : Act := .seq [updT t fun c => { c with ece := c.ece.filter (·.slot != slot) }, syncEce t]

/-- The item of a run completes. -/
def eceFinish (t : Nat) (r : EceRun) (status digest : Nat) (conds : List Nat) : Act := fun s =>
  Act.seq [eceEnd t r.slot,
    .opt ((s.qItems t eceQueue).find? (·.slot == r.slot)) fun i => finishItem t i status digest conds] s

/-- `ESCCNT` and `STEPCNT` advance by what was coded. -/
def countSteps (t : Nat) (tabs : List CdfTable) (l : List EcSym) : Act := .seq
  [count F.ECE_ESCCNT_COUNT t (escapeCount tabs l), count256 F.ECE_STEPCNT_COUNT t (totalSteps tabs l)]

/-- `ECE_ENCODE_DONE`: the oldest encode item in flight completes. -/
def eceEncodeDoneX (t : Nat) : Act := fun s =>
  match (s.tile t).ece.find? fun r => !r.dec with
  | none => []
  | some r => match s.prog r.inst r.prog with
    | none => eceEnd t r.slot s
    | some p =>
      let tabs := p.tables
      let out := payloadBytes (encodeWords tabs r.ecSyms)
      let keep (g : PlotSt) : PlotSt := { g with syms := if p.profile = some 2 then r.syms else [] }
      if r.bad then
        Act.seq [eceErr t 7 r.desc, putResultLen t r.slot 0, updPlot r.stream r.frame r.plot keep, eceFinish t r 0x0201 0 [0x0201],
          withholdPlot r.stream r.frame r.plot 0x0201] s
      else if r.cap < out.length then
        Act.seq [countSteps t tabs r.ecSyms, eceErr t 6 r.desc, putResultLen t r.slot 0, updPlot r.stream r.frame r.plot keep,
          eceFinish t r 0x0402 0 [], updFrame r.stream r.frame fun f => { f with drop := true },
          withholdPlot r.stream r.frame r.plot 0x0402] s
      else
        Act.seq [countSteps t tabs r.ecSyms, memWriteFrom t (r.addr + r.cap - out.length) out false true, putResultLen t r.slot out.length,
          updPlot r.stream r.frame r.plot fun g => { keep g with phase := .coded, payload := out },
          eceFinish t r 0 (crc64 out) [], emitFrames r.stream] s

/-! ## Decoding (R118, R121, R123, R129) -/

/-- The means and tables of the groups released so far. (DEDUCED, log entry 86) -/
def EceRun.models (r : EceRun) : List (Int × Nat) := r.syms.map (·.2)

/-- The symbols decoded of the groups released so far, or the code of the failure met. -/
def EceRun.decoded (r : EceRun) (tabs : List CdfTable) : Except Nat (List Int) :=
  if r.payload.length % 2 ≠ 0 ∨ r.payload.length < 32 then .error 4
  else
    let ws := payloadWords r.payload
    if (initStates ws).any (· < 0x10000) then .error 3
    else match decSymbols tabs r.models 0 ⟨initStates ws, ws.drop 16⟩ with
      | .error e => .error e
      | .ok (vs, _) => .ok vs

/-- The values of the symbols are those that the coder gives; a payload that fails leaves them zero. -/
def EceRun.refill (r : EceRun) (tabs : List CdfTable) : EceRun :=
  { r with syms := match r.decoded tabs with
      | .ok vs => (vs.zip r.syms).map fun e => (e.1, e.2.2)
      | .error _ => r.syms.map fun e => (0, e.2) }

/-- A group of a decode item is released: the means and indices of its symbols are read, and its symbols decoded. The latent path
reads what it needs of them; all else waits for the last check (R129). -/
def eceRelease (t slot : Nat) (x : EceCx) (r : EceRun) (g : List SymAt) : Act := fun s =>
  match allSome (s.model x.p x.w.2.2) g with
  | none => []
  | some ms =>
    let r' := { r with released := r.released + 1, bad := r.bad || ms.any (·.2.2),
                       syms := r.syms ++ ms.map fun (m : Int × Nat × Bool) => ((0 : Int), m.1, m.2.1) }.refill x.p.tables
    let order := (x.groups.drop (r.released - 1)).take 2
    let ys := order.flatten.zip (r'.syms.drop (r'.syms.length - order.flatten.length))
    Act.seq [updT t fun c => { c with ece := c.ece.map fun e => if e.slot = slot then r' else e },
      .when (r.released == 0) (.seq [decFences r.stream r.frame, syncFences x.n]),
      .when (x.f.shape.camp && decide (0 < r.released) && r.released % 2 == 0)
        (putCampRef r.stream x.f (r.released / 2 - 1) ((span 0 10).flatMap fun q => (span 0 x.f.shape.latch).map fun k =>
          (((ys.find? fun e => e.1.q == q && e.1.k == k).elim 0 (·.2.1)), r'.bad)))] s

/-- The means of a block row are stored for the release of a group; the ẑ group has none. -/
def State.meansStored (s : State) (x : EceCx) (r : EceRun) : Bool :=
  match groupRow x.f.shape x.d.plot r.released with
  | none => true
  | some j => if x.f.shape.camp then s.rowStored x.p x.f.shape r.stream r.frame x.w.2.2 j
      else (span (4 * j) (4 * j + 4)).all (s.rowStored x.p x.f.shape r.stream r.frame x.w.2.2)

/-- `ECE_GROUP_READY`: the next group of a decode item is released once the latent path has stored the means of its block row. For
the non-anchors it makes them from the anchors that the ECE has decoded (R49, R124). (DEDUCED, log entries 86 and 160) -/
def eceGroupReadyX (t slot : Nat) : Act := fun s =>
  match (s.tile t).ece.find? fun r => r.dec && r.slot == slot with
  | none => []
  | some r => match ((s.qItems t eceQueue).find? (·.slot == slot)).bind s.eceCx with
    | none => []
    | some x => match x.groups[r.released]? with
      | none => []
      | some g =>
        let j := (groupRow x.f.shape x.d.plot r.released).getD 0
        if !s.meansStored x r then []
        else Act.seq [.when (decide (0 < r.released) && r.released % 2 == 0) (remake x.p r.stream x.f x.d.plot j (j + 1) false false),
          eceRelease t slot x r g] s

/-- The symbols that a run decodes before it fails. (DEDUCED, log entry 86) -/
def EceRun.before (r : EceRun) (tabs : List CdfTable) : List EcSym :=
  let ws := payloadWords r.payload
  if r.payload.length % 2 ≠ 0 ∨ r.payload.length < 32 ∨ (initStates ws).any (· < 0x10000) then []
  else ((decPrefixOf tabs r.models 0 ⟨initStates ws, ws.drop 16⟩).zip r.models).map fun e => ⟨e.1, e.2.1, e.2.2⟩

/-- How a decode item ends: not yet, poisoned, with a failure code, or with its values. -/
inductive DecEnd where
  | wait | poison | fail (code : Nat) | ok (vs : List Int)
  deriving DecidableEq, Repr

/-- The end that a run has come to. (DEDUCED, log entry 86) -/
def EceRun.decEnd (r : EceRun) (tabs : List CdfTable) (groups : Nat) : DecEnd :=
  if r.bad then .poison
  else match r.decoded tabs with
    | .error e => .fail e
    | .ok _ => if r.released < groups then .wait
      else match decodePayload tabs r.models r.payload with
        | .error e => .fail e
        | .ok vs => .ok vs

/-- `ECE_DECODE_DONE`: the oldest decode item that has come to an end completes. -/
def eceDecodeDoneX (t : Nat) : Act := fun s =>
  let ends := ((s.tile t).ece.filter (·.dec)).filterMap fun r =>
    ((s.qItems t eceQueue).find? (·.slot == r.slot)).bind s.eceCx |>.map fun x => (r, x, r.decEnd x.p.tables x.groups.length)
  match ends.find? fun e => e.2.2 != .wait with
  | none => []
  | some (r, x, e) =>
    let lost (code st : Nat) : Act := .seq [eceErr t code x.d, eceFinish t r st 0 [st], losePlot r.stream r.frame r.plot,
      frameTaps r.stream r.frame]
    match e with
    | .wait => []
    | .poison => lost 7 0x0201 s
    | .fail c => Act.seq [countSteps t x.p.tables (r.before x.p.tables), lost c 0x0203] s
    | .ok vs =>
      let syms := x.groups.flatten
      let full := (vs.zip r.syms).map fun v => (v.1, v.2.2)
      Act.seq [countSteps t x.p.tables { r with syms := full }.ecSyms,
        .each (syms.zip vs) fun e => putTensor x.p (if e.1.z then x.w.2.1 else x.w.1) e.1.r e.1.q e.1.k e.2 false,
        updPlot r.stream r.frame r.plot fun g => { g with
          phase := .decoded, syms := if x.f.shape.camp then full else [] },
        eceFinish t r 0 (crc64 (int16Bytes vs)) [], decFences r.stream r.frame, syncFences x.n,
        frameTaps r.stream r.frame] s

/-! ## The commands -/

/-- `ECE_ENCODE_START`. -/
def execEceEncodeStart (t : Nat) (s : State) : Host.Outcome State Fault Refusal := done (eceStartX false t) s

/-- `ECE_DECODE_START`. -/
def execEceDecodeStart (t : Nat) (s : State) : Host.Outcome State Fault Refusal := done (eceStartX true t) s

/-- `ECE_ENCODE_DONE`. -/
def execEceEncodeDone (t : Nat) (s : State) : Host.Outcome State Fault Refusal := done (eceEncodeDoneX t) s

/-- `ECE_GROUP_READY`. -/
def execEceGroupReady (t slot : Nat) (s : State) : Host.Outcome State Fault Refusal := done (eceGroupReadyX t slot) s

/-- `ECE_DECODE_DONE`. -/
def execEceDecodeDone (t : Nat) (s : State) : Host.Outcome State Fault Refusal := done (eceDecodeDoneX t) s

/-- `ECE_TSET_LOAD_DONE`. -/
def execEceTsetLoadDone (t : Nat) (s : State) : Host.Outcome State Fault Refusal := done (eceTsetLoadDoneX t) s

end Sys2Proof.Machine
end

