-- ==== Sys2Proof/Machine/Analytics.lean ====
section
/-! DEFINITION. Analytics heads and their adaptation (R170 to R192): evaluations, the feature ring, publication, adaptation
windows, and reverting. -/
namespace Sys2Proof.Machine

/-! ## FP32 values -/

/-- An FP32 code is finite. -/
def finite32 (c : Nat) : Bool := c / 2 ^ 23 % 256 != 255

/-- An FP32 code is a NaN. -/
def nan32 (c : Nat) : Bool := c / 2 ^ 23 % 256 == 255 && c % 2 ^ 23 != 0

/-- One FP32 code is below another; nothing is below or above a NaN. -/
def below32 (a b : Nat) : Bool :=
  let key (c : Nat) : Int := if c / 2 ^ 31 % 2 = 1 then -((c % 2 ^ 31 : Nat) : Int) else ((c % 2 ^ 31 : Nat) : Int)
  !nan32 a && !nan32 b && decide (key a < key b)

/-! ## Evaluations (R171 to R176) -/

/-- The shadowed words of a head's settings (R175). -/
def headRegs : List Reg := [.FXG_HDW0, .FXG_HDW1, .FXG_HDW2, .FXG_HDW3]

/-- The program of a head. -/
def State.headProg (s : State) (id : Nat) : Option Prog :=
  s.prog (s.stream id).inst (s.sget F.FXG_HDW1_PROG_ID id)

/-- The next frame that a head evaluates: the first due one whose taps are ready, of taps since cleared as well (R167). -/
def State.headNext (s : State) (id : Nat) : Option Nat :=
  let src := s.sget F.FXG_HDW0_SRC id
  (((s.stream src).lsc.taps.map (·.frame)).dedup).find? fun k =>
    s.headDue id k && (s.stream id).head.before k && s.headTaps id != [] && s.headReady id src k

/-- The taps of a frame have the shape that the head's program expects (R174). -/
def State.shapeOk (s : State) (id src frame : Nat) : Bool :=
  (s.headInfo id).taps.all fun t => (s.stream src).lsc.taps.any fun f =>
    f.tap == t.1 && f.frame == frame && f.dims == t.2

/-- A head's boundary (R175): its shadow applies unless it is held, and a committed generation comes into use (R191). -/
def headBoundary (id : Nat) : Act := fun s =>
  Act.seq [.when (s.get F.FXG_HDSEL_HOLD (homeOf id) (4096 + slotOf id) == 0) (applyRegs id headRegs),
    digestBoundary id stHead, setS F.FXG_HDGEN_GEN id ((s.stream id).head.gen % 2 ^ 32)] s

/-- `HEAD_EVAL_START`: the next due frame is taken. A head that keeps state clears it when a key latent has passed since the last
frame that its state has seen; taps of another shape end the evaluation with no output and no entry. (DEDUCED, log entry 94) -/
def headEvalStartX (id : Nat) : Act := fun s =>
  let src := s.sget F.FXG_HDW0_SRC id
  let h := (s.stream id).head
  if !s.isOpen id ∨ !bitOf (s.stream id).stages stHead ∨ h.run.isSome ∨ s.sget F.FXG_HDSTAT_SRCGONE id = 1 then []
  else match s.headNext id with
    | none => []
    | some k =>
      let fs := (s.stream src).lsc.taps.filter fun f => f.frame == k && (s.headTaps id).contains f.tap
      let keyAt := (fs.head?).elim k (·.keyAt)
      let clear := h.seen.elim (keyAt == k) fun l => frameLater keyAt l
      if !s.shapeOk id src k then
        Act.seq [headBoundary id, setS F.FXG_HDSTAT_SHAPE id 1, updHead id fun h => { h with last := some k, seq := h.seq + 1 },
          workRecord id k 0x0104 0] s
      else Act.seq [headBoundary id, updHead id fun h => { h with
          last := some k, seen := some k, hist := if clear then 0 else h.hist,
          run := some { frame := k, cleared := clear, taps := fs.map fun f => (f.tap, (s.tapRead f).1), bad := fs.any fun f => (s.tapRead f).2,
                        gen := h.gen, weights := h.weights } }] s

/-- The bytes of a feature-ring entry (R176). -/
def ringEntry (ptime frame gen value status flags seq : Nat) (feats : List Byte) : List Byte :=
  let b := toLe 8 ptime ++ toLe 4 frame ++ toLe 4 gen ++ toLe 4 value ++ toLe 2 status ++ toLe 1 flags ++ [0] ++ toLe 4 seq ++
    toLe 4 0 ++ feats
  b ++ List.replicate (cdiv b.length 64 * 64 - b.length) 0

/-- The bytes of an entry of a head's ring, and how many the ring keeps. -/
def HeadInfo.entry (i : HeadInfo) : Nat := cdiv (32 + i.featLen) 64 * 64
def State.ringCap (s : State) (id : Nat) : Nat := s.sget F.FXG_HDW5_FRPAGES id * 4096 / (s.headInfo id).entry

/-- The base of a head's feature ring. -/
def State.ringBase (s : State) (id : Nat) : Nat :=
  s.sget F.FXG_HDW4_FRBASE_LO id * 2 ^ 12 + s.sget F.FXG_HDW5_FRBASE_HI id * 2 ^ 32

/-- The UTC offset O in seconds (R178). -/
def State.utcOfs (s : State) : Int := toSigned 16 (s.get F.LNK_PTPSTAT_UTCOFS pkgTile 0)

/-- The DateTime of a package time (R178). -/
def State.dateTime (s : State) (ptime : Nat) : Nat :=
  (((ptime : Int) - s.utcOfs * 10 ^ 9) / 100 + 116444736000000000).toNat

/-- The channel that a head publishes on, where it may (R367). -/
def State.pubChan (s : State) (id : Nat) : Option PubChan :=
  if s.get F.LNK_PUBCTL_EN pkgTile 0 = 0 then none
  else s.pkg.pubs.find? fun c => c.ix == s.slive F.FXG_HDW1_CHAN id && c.en && c.inst == (s.stream id).inst

/-- An evaluation is published (R177, R178). -/
def publish (id value status ptime frame gen : Nat) (alarm : Bool) : Act := fun s =>
  if s.slive F.FXG_HDW0_PUB id = 0 then []
  else match s.pubChan id with
    | none => []
    | some c =>
      let h := (s.stream id).head
      let fields := [.float value] ++ (if (s.headInfo id).detector then [.boolean alarm] else []) ++ [.uint32 frame, .uint32 (gen % 2 ^ 32)]
      Act.seq [emit (.publish { c with seq := c.seq % 2 ^ 16 } (s.slive F.FXG_HDW2_DSWID id) (h.msgs % 2 ^ 16) (s.dateTime ptime) status fields),
        updP fun p => { p with pubs := p.pubs.map fun d => if d.ix = c.ix then { d with seq := d.seq + 1 } else d },
        updHead id fun h => { h with msgs := h.msgs + 1 },
        .when (status != 0) (countS F.FXG_HDCNT_UNCERT id 1)] s

/-- `HEAD_EVAL_DONE`: the evaluation completes, once the source frame's completion has said its conditions.
(DEDUCED, log entry 94) -/
def headEvalDoneX (id : Nat) : Act := fun s =>
  let h := (s.stream id).head
  let src := s.sget F.FXG_HDW0_SRC id
  match h.run, s.headProg id with
  | some r, some p => match (s.stream src).srcs.find? fun f => decide ((r.frame + 2 ^ 32 - f.frame) % 2 ^ 32 < f.n) with
    | none => []
    | some f =>
      let i := s.headInfo id
      let feats := (List.range i.featLen).map (Config.headFeature p.digest h.hist r.taps)
      let value := Config.headValue p.digest (inference r.weights) feats % 2 ^ 32
      let conds := f.conds ++ (if r.bad then [0x0201] else [])
      let st := pickStatus conds
      let bad := conds.contains 0x0201 || !finite32 value
      let q := if bad then 0x8000 else if st != 0 then 0x4000 else 0
      let thresh := s.slive F.FXG_HDW3_THRESH id
      let alarm := i.detector && !bad && !nan32 thresh && !below32 value thresh
      let cap := s.ringCap id
      Act.seq [
        .when (decide (0 < cap)) (putBytes (s.stream id).inst (s.ringBase id + h.evals % max 1 cap * i.entry)
          (ringEntry f.ptime r.frame r.gen value st (b2n alarm + 2 * b2n r.cleared) (h.seq % 2 ^ 32) feats) false),
        setS F.FXG_HDSTAT_ALARM id (b2n alarm),
        publish id value q f.ptime r.frame r.gen alarm,
        updHead id fun h => { h with run := none, seq := h.seq + 1, evals := h.evals + 1, hist := Config.headState p.digest h.hist r.taps },
        countConditions id conds, workRecord id r.frame st (crc64 (toLe 4 value ++ feats))] s
  | _, _ => []

/-! ## Adaptation windows (R185, R186) -/

/-- A window descriptor (R185). -/
structure WinDesc where
  head : Nat
  mode : Nat
  bind : Nat
  steps : Nat
  start : Nat
  tiles : Nat
  seed : Nat
  duration : Nat
  hist : Nat
  lag : Nat
  win : Nat
  rsvd : Bool
  deriving DecidableEq, Repr

/-- A window descriptor read. -/
def WinDesc.parse (b : List Byte) : WinDesc :=
  ⟨leAt b 0 2 % 2 ^ 14, leAt b 2 1, leAt b 3 1, leAt b 4 4, leAt b 8 8, leAt b 16 8, leAt b 24 8, leAt b 32 4, leAt b 36 4,
   leAt b 40 4, leAt b 44 2, leAt b 0 2 / 2 ^ 14 != 0 || leAt b 46 2 != 0⟩

/-- Every field of a descriptor is in its range. -/
def WinDesc.ranges (d : WinDesc) : Bool :=
  !d.rsvd && decide (d.mode ≤ 1) && (decide (d.bind ≤ 63) || d.bind == 0xFF) && decide (1 ≤ d.steps) && decide (d.steps ≤ 1000000) &&
  decide (1 ≤ d.duration) && decide (d.duration ≤ 86400) && decide (1 ≤ d.hist) && decide (d.hist ≤ 604800) &&
  decide (d.lag ≤ 86400000) && decide (1 ≤ d.win) && decide (d.win ≤ 60000) && !(d.mode == 0 && d.bind == 0xFF)

/-- The status that an `ADAPT` request is refused with; 0 when its window is queued (R185). One window waits at most, beside one that
runs; a first window whose `START` has come counts as running. (DEDUCED, log entry 96) -/
def State.adaptStatus (s : State) (n id : Nat) (payload : List Byte) : Nat :=
  let d := WinDesc.parse payload
  let x := s.stream id
  let bad := payload.length != 48 || d.head != id || !bitOf x.stages stHead || x.inst != n ||
    (s.headProg id).elim true (fun p => p.profile.isSome) || (s.headInfo id).adapt == [] ||
    s.sget F.FXG_HDW5_FRPAGES id == 0 || !d.ranges ||
    (s.pkg.lbls.any fun b => b.ix == d.bind && b.inst != n) ||
    !((bitList 64 d.tiles).all (s.tilesOf n).contains)
  if bad then 0x0104 else if 2 ≤ x.head.wins.length ∨ x.head.wins.any (fun w => w.opened.isNone && decide (s.now < (WinDesc.parse w.desc).start)) then 0x0402
  else 0

/-- `FXG_ADPSTAT.STATE` shows the head's window. -/
def syncAdapt (id : Nat) : Act := fun s =>
  setS F.FXG_ADPSTAT_STATE id (match (s.stream id).head.wins with
    | [] => 0
    | w :: _ => if w.validating then 3 else if w.opened.isSome then 2 else 1) s

/-- A window is queued. -/
def adaptQueue (id : Nat) (r : LiveReq) (payload : List Byte) : Act := .seq
  [updHead id fun h => { h with wins := h.wins ++ [{ desc := payload, req := r }] }, syncAdapt id]

/-- The entries of a head's feature ring, oldest place first. -/
def State.ringEntries (s : State) (id : Nat) : List (List Byte) :=
  let e := (s.headInfo id).entry
  (List.range (min (s.stream id).head.evals (s.ringCap id))).map fun i => s.bytes (s.ringBase id + i * e) e

/-- The label records that a binding's ring holds (R184). -/
def State.labels (s : State) (bind : Nat) : List (List Byte) :=
  match s.pkg.lbls.find? (·.ix == bind) with
  | none => []
  | some b => (List.range (min b.seq (b.pages * 256))).map fun i => s.bytes (b.ring + 16 * i) 16

/-- The distance of two times. -/
def gap (a b : Int) : Int := if a ≤ b then b - a else a - b

/-- The training and the validation samples of a window that opens, and how many labels stay unpaired (R186). -/
def State.windowPairs (s : State) (id : Nat) (d : WinDesc) : List (List Byte) × List (List Byte) × Nat :=
  let start := if d.start = 0 then s.now else d.start
  let inHist (t : Nat) : Bool := decide (t ≤ start) && decide (start ≤ t + d.hist * 10 ^ 9)
  let es := s.ringEntries id
  let at_ (l : List Byte) : Int := (leAt l 0 8 : Int) - d.lag * 10 ^ 6
  let w : Int := d.win * 10 ^ 6
  let ls := (if d.bind = 0xFF then [] else s.labels d.bind)
  if d.mode = 0 then
    let ls := (ls.filter fun l => inHist (leAt l 0 8)).mergeSort fun a b => decide (leAt a 0 8 ≤ leAt b 0 8)
    let pairs := ls.filterMap fun l =>
      let near := (es.mergeSort fun a b =>
        let ga := gap (leAt a 0 8) (at_ l)
        let gb := gap (leAt b 0 8) (at_ l)
        decide (ga < gb) || (decide (ga = gb) && decide (leAt a 0 8 ≤ leAt b 0 8))).head?
      near.bind fun e => if gap (leAt e 0 8) (at_ l) ≤ w ∧ leAt e 20 2 = 0 then some (l, e) else none
    ((pairs.filter fun p => leAt p.1 12 2 % 8 != 7).map (fun p => p.1 ++ p.2),
     (pairs.filter fun p => leAt p.1 12 2 % 8 == 7).map (fun p => p.1 ++ p.2), ls.length - pairs.length)
  else
    let es := (es.filter fun e => leAt e 20 2 == 0 && inHist (leAt e 0 8) &&
      !(ls.any fun l => leAt l 8 4 % 2 ^ 31 != 0 && decide (gap (leAt e 0 8) (at_ l) ≤ w))).mergeSort
        fun a b => decide (leAt a 0 8 ≤ leAt b 0 8)
    (es.filter fun e => leAt e 24 4 % 8 != 7, es.filter fun e => leAt e 24 4 % 8 == 7, 0)

/-- A change of a head's first window. -/
def updWin (id : Nat) (f : AdaptWin → AdaptWin) : Act :=
  updHead id fun h => { h with wins := mapFirst (fun _ => true) f h.wins }

/-- `ADAPT_WINDOW_OPEN`: the head's first window opens at its `START`, and its samples are drawn. (DEDUCED, log entry 96) -/
def adaptWindowOpenX (id : Nat) : Act := fun s =>
  match (s.stream id).head.wins with
  | [] => []
  | w :: _ =>
    let d := WinDesc.parse w.desc
    if w.opened.isSome ∨ s.now < d.start then []
    else
      let p := s.windowPairs id d
      Act.seq [updWin id fun w => { w with opened := some s.now, train := p.1, valid := p.2.1, unpaired := p.2.2 },
        updHead id fun h => { h with cand := h.weights }, syncAdapt id] s

/-! ## Steps, the end of a window, and its outcome (R188 to R192) -/

/-- `DURATION` has elapsed since a window opened (R190). -/
def State.windowOver (s : State) (w : AdaptWin) : Bool :=
  w.opened.elim false fun t => decide ((WinDesc.parse w.desc).duration * 10 ^ 9 ≤ (s.now + 2 ^ 64 - t) % 2 ^ 64)

/-- The batch size of a head's adaptation record (R187). -/
def State.batch (s : State) (id : Nat) : Nat := leAt (s.headInfo id).adapt 24 2

/-- The pairs of the step after `k` steps: in order, restarting at the oldest (R188). -/
def batchOf (train : List (List Byte)) (k batch : Nat) : List (List Byte) :=
  (List.range batch).filterMap fun i => train[(k * batch + i) % max 1 train.length]?

/-- What the backward pass of a step gives on a batch: free values of what it reads (R188). -/
def backward (p : Prog) (ts : List TailTensor) (batch : List (List Byte)) (tiles : Nat) : Backward :=
  ⟨fun i e => Config.tailGrad p.digest (inference ts) batch tiles i e % 2 ^ 32,
   fun i r => Config.tailScale p.digest (inference ts) batch tiles i r % 2 ^ 32⟩

/-- `ADAPT_STEP_DONE`: one optimiser step of the running window completes; none after its `STEPS` or its `DURATION` (R190). -/
def adaptStepDoneX (id : Nat) : Act := fun s =>
  match (s.stream id).head.wins, s.headProg id with
  | w :: _, some p =>
    let d := WinDesc.parse w.desc
    if w.opened.isNone ∨ w.validating ∨ d.steps ≤ w.steps ∨ s.windowOver w ∨ w.train = [] then []
    else
      let n := s.sget F.FXG_ADPSTEP_STEP id + 1
      Act.seq [setS F.FXG_ADPSTEP_STEP id n,
        updHead id fun h => { h with
          cand := adaptStep (AdaptRec.parse (s.headInfo id).adapt) (backward p h.cand (batchOf w.train w.steps (s.batch id))
            (bitList 64 d.tiles).length) d.seed n h.cand },
        updWin id fun w => { w with steps := w.steps + 1 }] s
  | _, _ => []

/-- `ADAPT_WINDOW_END`: `STEPS` are done or `DURATION` has elapsed, and validation begins (R190). -/
def adaptWindowEndX (id : Nat) : Act := fun s =>
  match (s.stream id).head.wins with
  | w :: _ => if w.opened.isNone ∨ w.validating ∨ (w.steps < (WinDesc.parse w.desc).steps ∧ !s.windowOver w) then [] else
      Act.seq [updWin id fun w => { w with validating := true }, syncAdapt id] s
  | [] => []

/-- The outcomes of `FXG_ADPSTAT.REASON` (R191). -/
def reCommitted : Nat := 1
def reNotBetter : Nat := 2
def reFewPairs : Nat := 3
def reNonfinite : Nat := 4
def reHeadClosed : Nat := 5

/-- A window leaves its head with an outcome and a status. (DEDUCED, log entry 96) -/
def endWindow (id : Nat) (w : AdaptWin) (reason status : Nat) : Act := fun s =>
  Act.seq [updHead id fun h => { h with wins := h.wins.erase w }, setS F.FXG_ADPSTAT_REASON id reason, syncAdapt id,
    completeHeld (s.stream id).inst w.req status id 0] s

/-- `ADAPT_VALIDATION_DONE`: the losses are compared, and the candidate is committed or rejected (R191). Where several conditions
fail, `REASON` shows `FEW_PAIRS` before `NONFINITE` before `NOT_BETTER`. (DESIGN CHOICE, log entry 164) -/
def adaptValidationDoneX (id : Nat) : Act := fun s =>
  let h := (s.stream id).head
  match h.wins, s.headProg id with
  | w :: _, some p =>
    if !w.validating then []
    else
      let cur := Config.adaptLoss p.digest (inference h.weights) w.valid % 2 ^ 32
      let new := Config.adaptLoss p.digest (inference h.cand) w.valid % 2 ^ 32
      let reason := if w.valid.length < 32 ∨ w.train.length < s.batch id then reFewPairs
        else if !finite32 cur ∨ !finite32 new ∨ !mastersFinite h.cand then reNonfinite
        else if below32 new cur then reCommitted else reNotBetter
      Act.seq [setS F.FXG_ADPLOSS_LOSS id new,
        .when (reason == reCommitted) (updHead id fun h => { h with
          prevW := h.weights, hasPrev := true, weights := h.cand, gen := h.gen + 1 }),
        endWindow id w reason (if reason = reCommitted then 0 else 0x0003)] s
  | _, _ => []

/-- A revert restores the previous generation's weights as a new generation (R192); refused with `ST_BAD_DESC` where the
stream is no head or has no previous generation. (DEDUCED, log entry 95) -/
def State.revertStatus (s : State) (n id : Nat) : Nat :=
  if !bitOf (s.stream id).stages stHead ∨ (s.stream id).inst ≠ n ∨ !(s.stream id).head.hasPrev then 0x0104 else 0

/-- The weights of the previous generation come back. (DEDUCED, log entry 95) -/
def revertHead (id : Nat) : Act :=
  updHead id fun h => { h with weights := h.prevW, prevW := h.weights, gen := h.gen + 1 }

/-- A head opens: generation 0, with the weights of its program (R192). -/
def headOpen (id : Nat) : Act := fun s =>
  let i := s.headInfo id
  updHead id (fun h => { h with
    weights := i.tail.map fun t => TailTensor.start (leAt i.adapt 27 1) t.1 t.2.1 t.2.2.1 t.2.2.2 }) s

/-- A head that closes ends its windows (R191). (DEDUCED, log entry 96) -/
def closeHead (id : Nat) : Act := fun s =>
  Act.each (s.stream id).head.wins (fun w => endWindow id w reHeadClosed 0x0003) s

/-- A source that closes leaves its heads open, without a source (R174); what they had not finished reading is lost. -/
def sourceGone (src : Nat) : Act := fun s =>
  Act.each (s.headsOf src) (fun h => .seq
    [.opt ((s.stream h).head.run) (fun r => loseEval h src r.frame), setS F.FXG_HDSTAT_SRCGONE h 1]) s

/-! ## The commands -/

/-- `HEAD_EVAL_START`. -/
def execHeadEvalStart (id : Nat) (s : State) : Host.Outcome State Fault Refusal := done (headEvalStartX id) s

/-- `HEAD_EVAL_DONE`. -/
def execHeadEvalDone (id : Nat) (s : State) : Host.Outcome State Fault Refusal := done (headEvalDoneX id) s

/-- `ADAPT_WINDOW_OPEN`. -/
def execAdaptWindowOpen (id : Nat) (s : State) : Host.Outcome State Fault Refusal := done (adaptWindowOpenX id) s

/-- `ADAPT_STEP_DONE`. -/
def execAdaptStepDone (id : Nat) (s : State) : Host.Outcome State Fault Refusal := done (adaptStepDoneX id) s

/-- `ADAPT_WINDOW_END`. -/
def execAdaptWindowEnd (id : Nat) (s : State) : Host.Outcome State Fault Refusal := done (adaptWindowEndX id) s

/-- `ADAPT_VALIDATION_DONE`. -/
def execAdaptValidationDone (id : Nat) (s : State) : Host.Outcome State Fault Refusal := done (adaptValidationDoneX id) s

end Sys2Proof.Machine
end

