-- ==== Sys2Proof/Machine/Tables.lean ====
section
/-! DEFINITION. The tables that the package reads from its memory (R182, R367, R375): the label bindings of the Paddock port,
the publish channels and the Movon peers; they are read when their `EN` changes from 0 to 1 and on each `RELOAD`. -/
namespace Sys2Proof.Machine

/-- The Paddock tile and the PCIe tile. -/
def paddockTile : Nat := 55
def pcieTile : Nat := 48

/-- A base address in a `_LO` and `_HI` pair. -/
def State.base40 (s : State) (lo hi : Fld) (t ix : Nat) : Nat := s.get lo t ix * 2 ^ 12 + s.get hi t ix * 2 ^ 32

/-- The entries of a table of 64, with those read poisoned left out. -/
def State.table (s : State) (base size : Nat) : List (Nat × List Byte) :=
  (List.range 64).filterMap fun i => if s.poisonedIn (base + size * i) size then none else some (i, s.bytes (base + size * i) size)

/-- Entries that are broken: each sets the error status bit of the block (R535). (DEDUCED, log entry 98) -/
def badEntries (r : Reg) (t n : Nat) (q : Requester) : Act := fun s => regErr r.place.blk t q r.place.off (List.replicate n causeTable) s

/-- What a control word with `EN` and `RELOAD` does when it is written (R182, R367): `EN` takes its value, the table is read
when `EN` rises or `RELOAD` is 1, and reserved bits are recorded. -/
def tableCtl (q : Requester) (t : Nat) (r : Reg) (en : Fld) (v : Nat) (load : Requester → Act) : Act :=
  writeReg q t r 0 fun kt _ => fun s =>
    let e := bitsOf v en.hi en.lo
    Act.seq [.when (BitVec.ofNat 32 v &&& ~~~implMask r != 0) (regErr r.place.blk t q r.place.off [causeRsvd]),
      .when ((e == 1 && s.get en kt 0 == 0) || bitOf v 1) (load q), setF en kt e] s

/-! ## Label bindings (R182) -/

/-- The registers that a type of R182 takes. -/
def lblRegs (typ : Nat) : Nat := if typ = 0 ∨ typ = 1 ∨ typ = 5 then 1 else 2

/-- A label binding read; none when it is off, and `error` when it is broken. -/
def State.lblEntry (s : State) (i : Nat) (b : List Byte) : Option (Except Unit LblBind) :=
  let p := leAt b 0 1
  if p = 0 then none
  else
    let e : LblBind :=
      { ix := i, proto := p, typ := leAt b 1 1, inst := leAt b 2 1 % 64, src := leAt b 4 4, addr := leAt b 8 2,
        unit := leAt b 10 1, fc := leAt b 11 1, scale := leAt b 12 4, offset := leAt b 16 4, ring := leAt b 20 8 % 2 ^ 40,
        pages := leAt b 28 2 }
    let ok := decide (p ≤ 2) && leAt b 2 1 / 64 == 0 && leAt b 3 1 == 0 && leAt b 20 8 / 2 ^ 40 == 0 && e.ring % 4096 == 0 &&
      decide (1 ≤ e.pages) && leAt b 30 2 == 0 &&
      (if p = 1 then decide (e.typ ≤ 7) && (e.fc == 3 || e.fc == 4) else e.typ == 0 && e.fc == 0) &&
      s.inDev e.inst e.ring (4096 * e.pages)
    some (if ok then .ok e else .error ())

/-- The label table is read: every binding counts its labels from 0 (R182, R184). (DEDUCED, log entry 98) -/
def loadLabels (q : Requester) : Act := fun s =>
  let b := s.base40 F.LNK_LBLBASE_LO_BASE_LO F.LNK_LBLBASE_HI_BASE_HI paddockTile 0
  let tab := s.table b 32
  let es := tab.filterMap fun e => s.lblEntry e.1 e.2
  let bad := (64 - tab.length) + (es.filter fun e => match e with | .ok _ => false | .error _ => true).length
  Act.seq [updP fun p => { p with lbls := es.filterMap fun e => match e with | .ok x => some x | .error _ => none },
    .when (bad != 0) (badEntries .LNK_LBLCTL paddockTile bad q)] s

/-- A write to `LNK_LBLCTL`. -/
def lblCtl (q : Requester) (t v : Nat) : Act := tableCtl q t .LNK_LBLCTL F.LNK_LBLCTL_EN v loadLabels

/-- `LABEL_ENABLE`. -/
def labelEnableX (q : Requester) : Act := lblCtl q paddockTile 1

/-- `LABEL_RELOAD`. -/
def labelReloadX (q : Requester) : Act := fun s => lblCtl q paddockTile (2 + s.get F.LNK_LBLCTL_EN paddockTile 0) s

/-! ## Publish channels (R367) -/

/-- A publish channel read; `error` when it holds a reserved value. -/
def pubEntry (i : Nat) (b : List Byte) : Except Unit PubChan :=
  let f := beAt b 2 1
  let c : PubChan :=
    { ix := i, port := beAt b 0 1, inst := beAt b 1 1 % 64, en := bitOf f 0, ipv6 := bitOf f 1, dscp := beAt b 3 1 % 64,
      vlan := beAt b 4 2, udp := beAt b 6 2, pubId := beAt b 8 2, wgId := beAt b 10 2, dst := beAt b 16 16 }
  if (c.port ≤ 79 ∨ c.port = 0xFF) ∧ beAt b 1 1 < 64 ∧ f < 4 ∧ beAt b 3 1 < 64 ∧ beAt b 12 4 = 0 then .ok c else .error ()

/-- The publish table is read. A channel that is enabled and holds a reserved value is off, and is recorded.
(DEDUCED, log entry 98) -/
def loadPubs (q : Requester) : Act := fun s =>
  let b := s.base40 F.LNK_PUBBASE_LO_BASE_LO F.LNK_PUBBASE_HI_BASE_HI pkgTile 0
  let tab := s.table b 32
  let es := (tab.filter fun e => bitOf (beAt e.2 2 1) 0).map fun e => pubEntry e.1 e.2
  let bad := (64 - tab.length) + (es.filter fun e => match e with | .ok _ => false | .error _ => true).length
  Act.seq [updP fun p => { p with pubs := es.filterMap fun e => match e with
      | .ok x => some { x with seq := (p.pubs.find? (·.ix == x.ix)).elim 0 (·.seq) }
      | .error _ => none },
    .when (bad != 0) (badEntries .LNK_PUBCTL s.bootTile bad q)] s

/-- A write to `LNK_PUBCTL`. -/
def pubCtl (q : Requester) (t v : Nat) : Act := tableCtl q t .LNK_PUBCTL F.LNK_PUBCTL_EN v loadPubs

/-- `PUB_ENABLE`. -/
def pubEnableX (q : Requester) : Act := fun s => pubCtl q s.bootTile 1 s

/-- `PUB_RELOAD`. -/
def pubReloadX (q : Requester) : Act := fun s => pubCtl q s.bootTile (2 + s.get F.LNK_PUBCTL_EN pkgTile 0) s

/-! ## Movon peers (R375) -/

/-- A path of a peer entry. -/
def peerPath (b : List Byte) (p : Nat) : MvPathCfg :=
  ⟨beAt b (16 + 28 * p) 1, beAt b (18 + 28 * p) 2, beAt b (20 + 28 * p) 2, beAt b (22 + 28 * p) 6, beAt b (28 + 28 * p) 16⟩

/-- A peer entry read; none when it is off, `error` when it holds a reserved value. -/
def peerEntry (i : Nat) (b : List Byte) : Option (Except Unit MvPeer) :=
  let k := beAt b 0 1
  if k = 0 then none
  else
    let n := beAt b 2 1
    let r : MvPeer :=
      { kind := k, enc := beAt b 1 1, mgmt := beAt b 3 1 == 1, mask := beAt b 4 8,
        paths := (List.range n).map (peerPath b), links := List.replicate n {} }
    let ok := decide (k ≤ 2) && (k != 1 || decide (i ≤ 15)) && decide (r.enc ≤ 2) && decide (1 ≤ n) && decide (n ≤ 4) &&
      decide (beAt b 3 1 ≤ 1) && beAt b 12 4 == 0 &&
      (List.range n).all fun p => (decide (beAt b (16 + 28 * p) 1 ≤ 79) || beAt b (16 + 28 * p) 1 == 0xFF) && beAt b (17 + 28 * p) 1 == 0
    some (if ok then .ok r else .error ())

/-- A peer whose entry reads as before keeps its links, messages and received identifiers. -/
def MvPeer.keep (old new : MvPeer) : MvPeer :=
  if old.kind = new.kind ∧ old.enc = new.enc ∧ old.paths = new.paths then { old with mgmt := new.mgmt, mask := new.mask } else new

/-- The peer table is read. -/
def loadPeers (q : Requester) : Act := fun s =>
  let b := s.base40 F.LNK_MVPEER_LO_BASE_LO F.LNK_MVPEER_HI_BASE_HI pkgTile 0
  let tab := s.table b 128
  let es := tab.filterMap fun e => (peerEntry e.1 e.2).map fun r => (e.1, r)
  let bad := (64 - tab.length) + (es.filter fun e => match e.2 with | .ok _ => false | .error _ => true).length
  Act.seq [updP fun p => { p with peers := es.filterMap fun e => match e.2 with
      | .ok x => some (e.1, (mapGet id {} p.peers e.1).keep x)
      | .error _ => none },
    .when (bad != 0) (badEntries .LNK_MVCFG s.bootTile bad q)] s

/-- A write to `LNK_MVCFG` (R379, R388): an `E2E` below 80 leaves that field and is recorded. -/
def mvCfg (q : Requester) (t v : Nat) : Act := writeReg q t .LNK_MVCFG 0 fun kt _ => fun s =>
  let e2e := bitsOf v 31 16
  Act.seq [.when (bitsOf v 5 4 != 0 || e2e < 80) (regErr .LNK t q Reg.LNK_MVCFG.place.off
      ((if e2e < 80 then [causeRange] else []) ++ (if bitsOf v 5 4 != 0 then [causeRsvd] else []))),
    .when (80 ≤ e2e) (setF F.LNK_MVCFG_E2E kt e2e), setF F.LNK_MVCFG_UDPPORT kt (bitsOf v 15 8),
    .when ((bitOf v 6 && s.get F.LNK_MVCFG_EN kt 0 == 0) || bitOf v 7) (loadPeers q),
    setF F.LNK_MVCFG_EN kt (bitsOf v 6 6)] s

/-- `LNK_MVCFG` as it reads, with `EN` and `RELOAD` as given. -/
def State.mvCfgWord (s : State) (en : Bool) (reload : Bool) : Nat :=
  s.get F.LNK_MVCFG_E2E pkgTile 0 * 2 ^ 16 + s.get F.LNK_MVCFG_UDPPORT pkgTile 0 * 2 ^ 8 + b2n reload * 2 ^ 7 + b2n en * 2 ^ 6

/-- `MOVON_ENABLE`. -/
def movonEnableX (q : Requester) : Act := fun s => mvCfg q s.bootTile (s.mvCfgWord true false) s

/-- `MOVON_RELOAD`. -/
def movonReloadX (q : Requester) : Act := fun s =>
  mvCfg q s.bootTile (s.mvCfgWord (s.get F.LNK_MVCFG_EN pkgTile 0 == 1) true) s

/-! ## The commands -/

/-- `LABEL_ENABLE`. -/
def execLabelEnable (q : Requester) (s : State) : Host.Outcome State Fault Refusal := done (labelEnableX q) s

/-- `LABEL_RELOAD`. -/
def execLabelReload (q : Requester) (s : State) : Host.Outcome State Fault Refusal := done (labelReloadX q) s

/-- `PUB_ENABLE`. -/
def execPubEnable (q : Requester) (s : State) : Host.Outcome State Fault Refusal := done (pubEnableX q) s

/-- `PUB_RELOAD`. -/
def execPubReload (q : Requester) (s : State) : Host.Outcome State Fault Refusal := done (pubReloadX q) s

/-- `MOVON_ENABLE`. -/
def execMovonEnable (q : Requester) (s : State) : Host.Outcome State Fault Refusal := done (movonEnableX q) s

/-- `MOVON_RELOAD`. -/
def execMovonReload (q : Requester) (s : State) : Host.Outcome State Fault Refusal := done (movonReloadX q) s

end Sys2Proof.Machine
end

