-- ==== Sys2Proof/Machine/Ports.lean ====
section
/-! DEFINITION. Ports and link tiles (R28, R346, R347) and the flow entries of ingest streams (R356). -/
namespace Sys2Proof.Machine

/-- The tile of a link index (R28). -/
def linkTile (k : Nat) : Nat := if k < 5 then 8 * (k + 1) else 8 * (k - 4) + 7

/-- The management port's number (R375). -/
def mgmtPort : Nat := 255

/-- The link tile that carries a port; the management port is the boot master's. -/
def State.portTile (s : State) (p : Nat) : Nat := if p = mgmtPort then s.bootTile else linkTile (p / 8)

/-- The lanes of a port in each quad mode (R346); 0 where the mode gives none. -/
def modeLanes : Nat → Nat
  | 1 => 4 | 2 => 2 | 3 => 1 | 4 => 4 | 5 => 2 | 6 => 1 | 7 => 1 | 8 => 1 | _ => 0

/-- The lanes of a port as a mask of its tile's lanes; 0 where no port has that number (R346). -/
def State.portMask (s : State) (p : Nat) : Nat :=
  let n := modeLanes (s.get (if p % 8 < 4 then F.LNK_QUADCFG_MODE0 else F.LNK_QUADCFG_MODE1) (s.portTile p) 0)
  if n = 0 ∨ p % max 1 n ≠ 0 then 0 else (2 ^ n - 1) * 2 ^ (p % 8)

/-- Every lane of a mask is set in a word. -/
def covers (m w : Nat) : Bool := m != 0 && (m &&& w) == m

/-- A port in service: all its lanes are (R347). -/
def State.portInService (s : State) (p : Nat) : Bool :=
  decide (p < 80) && s.inService (s.portTile p) && covers (s.portMask p) (s.get F.LNK_LANESTAT_INSVC (s.portTile p) 0)

/-- A port carries frames: its link is up and its tile's link block is ON. The state names no link of the management port. -/
def State.portUp (s : State) (p : Nat) : Bool :=
  s.isOn .lnk (s.portTile p) &&
  (p == mgmtPort || (s.portInService p && covers (s.portMask p) (s.get F.LNK_LANESTAT_UP (s.portTile p) 0)))

/-! ## Flow entries -/

/-- A flow key (R356). -/
structure FlowKey where
  port : Nat
  vlan : Nat
  udp : Nat
  ssrc : Option Nat
  deriving DecidableEq, Repr

/-- The flow key of a stream's settings. -/
def State.flowKey (s : State) (id : Nat) : FlowKey :=
  ⟨s.sget F.ING_SW0_PORT id, s.sget F.ING_SW0_VLAN id, s.sget F.ING_SW1_UDPPORT id,
   if s.sget F.ING_SW0_SSRCEN id = 1 then some (s.sget F.ING_SW2_SSRC id) else none⟩

/-- The streams that hold a flow entry. -/
def State.flows (s : State) : List Nat := (s.streams.filter fun e => e.2.ing.flow != 0).map (·.1)

/-- The flow entries in use on a link tile. -/
def State.flowsOn (s : State) (t : Nat) : Nat := (s.flows.filter fun id => s.portTile (s.sget F.ING_SW0_PORT id) == t).length

/-- `LNK_FLOWS` shows the entries in use of a link tile. -/
def syncFlows (t : Nat) : Act := fun s => setF F.LNK_FLOWS_USED t (min 2048 (s.flowsOn t)) s

/-- A change of a stream's ingest state. -/
def updIng (id : Nat) (f : Ing → Ing) : Act := updS id fun x => { x with ing := f x.ing }

/-- A stream's flow entry is removed, and its open units with it. -/
def dropFlow (id : Nat) : Act := fun s =>
  if (s.stream id).ing.flow = 0 then []
  else Act.seq [updIng id fun g => { g with flow := 0, units := [] }, syncFlows (s.portTile (s.sget F.ING_SW0_PORT id))] s

end Sys2Proof.Machine
end

