-- ==== Sys2Proof/Machine/Directory.lean ====
section
/-! DEFINITION. The stream directory (R384 to R386): the names the cascade master holds, and the messages of a member. -/
namespace Sys2Proof.Machine

/-- The message is a lookup. -/
def isLookup : DirMsg → Bool
  | .lookup _ => true
  | .register _ _ _ _ | .remove _ | .claim => false

/-- This device is cascade master. -/
def State.isMaster (s : State) : Bool := s.get F.LNK_MVSTAT_MASTER pkgTile 0 == 1

/-- The names that the directory holds at most (R386). -/
def dirCapacity : Nat := 16384

/-- How the master answers a `DIR` message. (DEDUCED, log entry 111) -/
def State.dirStatus (s : State) : DirMsg → Nat
  | .register n _ _ _ => if s.pkg.names.any (·.name == n) ∨ s.pkg.names.length < dirCapacity then 0 else 0x0402
  | .remove _ => 0
  | .lookup n => if s.pkg.names.any (·.name == n) then 0 else 0x0104
  | .claim => 0

/-- What the master appends to the answer: the binding that a lookup finds. -/
def State.dirFound (s : State) : DirMsg → List Byte
  | .lookup n => match s.pkg.names.find? (·.name == n) with
    | some e => Config.dirAnswer e.dev e.stream e.inst
    | none => []
  | _ => []

/-- What a `DIR` message changes at the master: a name has one binding, the last registered. -/
def dirApply (m : DirMsg) : Act := fun s =>
  if s.dirStatus m ≠ 0 then []
  else match m with
    | .register n d st i => updP (fun p => { p with names := p.names.filter (·.name != n) ++ [⟨n, d, st, i⟩] }) s
    | .remove n => updP (fun p => { p with names := p.names.filter (·.name != n) }) s
    | .lookup _ | .claim => []

/-- Device `e` claims mastership (R384): a master with a higher `DEVNUM` sets `CONFLICT` and runs as a member of the other.
(DESIGN CHOICE, log entry 112) -/
def dirClaim (e : Nat) : Act := fun s =>
  if s.isMaster ∧ e < s.devNum then
    Act.seq [setF F.LNK_MVSTAT_CONFLICT pkgTile 1, setF F.LNK_MVSTAT_MASTER pkgTile 0,
      updP fun p => { p with names := [], masterDev := e }] s
  else []

/-- The bytes of a `DIR` message. -/
def dirPayload : DirMsg → List Byte
  | .register n d st i => Config.dirBytes 0 n d st i
  | .remove n => Config.dirBytes 1 n 0 0 0
  | .lookup n => Config.dirBytes 2 n 0 0 0
  | .claim => Config.dirBytes 3 0 0 0 0

/-- A directory message of the device itself goes to the master, which may be the device. (DEDUCED, log entry 168) -/
def dirSend (id : Nat) (op : Nat) (m : DirMsg) : Act := fun s =>
  let x := s.stream id
  if x.name = 0 then []
  else if s.isMaster then dirApply m s
  else mvSend s.pkg.masterDev mtDir x.inst x.epoch id (dirPayload m) false (.dir op x.name) .none s

/-- Firmware registers a stream that it opened with a name, and removes the name (R386). (DEDUCED, log entry 111) -/
def dirRegister (id : Nat) : Act := fun s =>
  dirSend id 0 (.register (s.stream id).name s.devNum id (s.stream id).inst) s
def dirRemove (id : Nat) : Act := fun s => dirSend id 1 (.remove (s.stream id).name) s

end Sys2Proof.Machine
end

