-- ==== Sys2Proof/Machine/Profile.lean ====
section
/-! DEFINITION. The graph that a codec program must be (R39 to R43, R99): the stages that the manual lists for each profile, and
what every codec program keeps. -/
namespace Sys2Proof.Machine

/-! ## Where a layer's input comes from -/

/-- Channels of one source, repeated `up` times in each direction before a layer reads them. -/
structure Feed where
  src : Nat
  first : Nat
  n : Nat
  up : Nat
  deriving DecidableEq, Repr

/-- Operations that pass channels on one by one: requantising and function tables, of which a profile's program carries its
own, and resampling, concatenation and slicing. -/
def opPasses (op : Nat) : Bool := op == 8 || op == 9 || op == 0x0C || op == 0x0E

/-- Channels `a` to `a + n − 1` of a layer's input, in terms of its two sources. -/
def Layer.takes (l : Layer) (a n : Nat) : List (Nat × Nat × Nat) :=
  let n0 := min n (l.n0 - a)
  (if n0 = 0 then [] else [(l.src0, l.sl0 + a, n0)]) ++ if n ≤ n0 then [] else [(l.src1, a + n0 - l.n0, n - n0)]

/-- Where channels of a source come from, through at most `fuel` layers that pass channels on. -/
def Prog.feeds (p : Prog) : Nat → Nat → Nat → Nat → List Feed
  | 0, src, a, n => [⟨src, a, n, 1⟩]
  | fuel + 1, src, a, n => match p.layer src with
    | some l =>
      if opPasses l.op then
        (l.takes a n).flatMap fun t => (p.feeds fuel t.1 t.2.1 t.2.2).map fun f =>
          { f with up := f.up * if l.op = 0x0C then l.factor else 1 }
      else [⟨src, a, n, 1⟩]
    | none => [⟨src, a, n, 1⟩]

/-- Neighbouring channels of one source taken in order count as one. -/
def joinFeeds : List Feed → List Feed
  | [] => []
  | f :: r => match joinFeeds r with
    | [] => [f]
    | g :: t => if f.src = g.src ∧ f.up = g.up ∧ f.first + f.n = g.first then { f with n := f.n + g.n } :: t else f :: g :: t

/-- The whole inputs of a layer. -/
def Prog.inputs (p : Prog) (l : Layer) : List Feed :=
  joinFeeds ((l.takes 0 l.cin).flatMap fun t => p.feeds 8 t.1 t.2.1 t.2.2)

/-! ## Stages -/

/-- What a profile fixes of a stage: its `PATH` mark, operation, kernel and stride, its channels in and out, how many luma rows
one row of its output stands for, and its inputs: the number of an earlier stage or a special source, with the up-sampling
before it. A field of `none` is one that the manual leaves to Utgiec's listing. -/
structure Stage where
  path : Nat
  op : Nat
  k : Option Nat
  s : Nat
  cin : Option Nat
  cout : Option Nat
  down : Nat
  ins : List (Nat × Nat)
  deriving DecidableEq, Repr

/-- The layers that are stages of their own, in stored order. -/
def Prog.mains (p : Prog) : List (Nat × Layer) := p.layers.filter fun e => !opPasses e.2.op

/-- A layer that passes channels on carries the mark of the layers that read it. -/
def Prog.passesOk (p : Prog) : Bool :=
  p.layers.all fun e => !opPasses e.2.op || p.layers.all fun d => !(d.2.src0 == e.1 || d.2.src1 == e.1) || d.2.path == e.2.path

/-- The size of the padded picture as a program has it: that of the layer that reads it. -/
def Prog.picSize (p : Prog) : Option (Nat × Nat) :=
  (p.layers.find? fun e => e.2.src0 == srcPicture).map fun e => (e.2.inH, e.2.inW)

/-- Two lists hold the same entries, in any order: the manual does not say in which order inputs are concatenated.
(DEDUCED, log entry 52) -/
def sameEntries (a b : List (Nat × Nat)) : Bool := a.length == b.length && a.all b.contains && b.all a.contains

/-- A layer is a stage of a picture of `size`. -/
def Prog.isStage (p : Prog) (size : Nat × Nat) (l : Layer) (t : Stage) : Bool :=
  let name (f : Feed) : Nat × Nat := ((p.mains.findIdx? fun m => m.1 == f.src).getD f.src, f.up)
  l.path == t.path && l.op == t.op && l.outH * t.down == size.1 && l.outW * t.down == size.2 &&
  t.cin.elim true (· == l.cin) && t.cout.elim true (· == l.cout) && sameEntries ((p.inputs l).map name) t.ins &&
  (if l.op = 0 then l.sh == t.s && l.sw == t.s && l.g == 1 && l.dil == 1 && l.diw == 1 &&
     t.k.elim true (fun k => l.kh == k && l.kw == k)
   else !opFactor l.op || l.factor == 2)

/-- The stages of Aster (R41), or, with `two`, those of Peony (R42) for `planes` planes' space-to-depth channels: the same
order, a second temporal branch and 320 channels between. Peony's kernels are Utgiec's listing's. (DEDUCED, log entry 52) -/
def videoStages (two : Bool) (c0 : Nat) : List Stage :=
  let k (n : Nat) : Option Nat := if two then none else some n
  let c (n : Nat) : Option Nat := some (if two then 320 else n)
  let lat := if two then 256 else 192
  let hyp := if two then 192 else 128
  let refs := srcRefShort :: if two then [srcRefLong] else []
  let nb := refs.length
  let conv (path kk s ci co down : Nat) (ins : List (Nat × Nat)) : Stage := ⟨path, 0, k kk, s, if two then none else some ci, c co, down, ins⟩
  let norm (path op n down i : Nat) : Stage := ⟨path, op, none, 1, c n, c n, down, [(i, 1)]⟩
  let b := 11 + nb
  [⟨0, 0x0A, none, 1, none, some c0, 2, (srcPicture, 1) :: if c0 = 6 then [(srcChroma, 1)] else []⟩,
   conv 0 5 2 6 192 4 [(0, 1)], norm 0 4 192 4 1, conv 0 5 2 192 192 8 [(1 + 1, 1)], norm 0 4 192 8 3, conv 0 5 2 192 192 16 [(4, 1)],
   { conv 0 3 1 384 lat 16 ((5, 1) :: refs.map (·, 1)) with cout := some lat },
   conv 0 5 2 192 128 32 [(6, 1)], { conv 0 5 2 128 hyp 64 [(7, 1)] with cout := some hyp },
   conv 1 3 1 128 128 32 [(8, 2)], conv 1 3 1 128 256 16 [(9, 2)]] ++
  (refs.map fun r => conv 1 3 1 192 192 16 [(r, 1)]) ++
  [conv 1 3 1 192 192 16 [(srcAnchors, 1)],
   conv 1 1 1 640 512 16 ([(10, 1)] ++ ((List.range nb).map fun i => (11 + i, 1)) ++ [(b, 1)]),
   conv 1 1 1 512 384 16 [(b + 1, 1)], { conv 1 1 1 384 384 16 [(b + 2, 1)] with cout := some (2 * lat) },
   conv 2 3 1 192 192 16 [(6, 1)], norm 2 5 192 16 (b + 4), conv 2 3 1 192 128 8 [(b + 5, 2)], norm 2 5 128 8 (b + 6),
   conv 2 3 1 128 112 4 [(b + 7, 2)], norm 2 5 112 4 (b + 8), { conv 2 3 1 112 c0 2 [(b + 9, 2)] with cout := some c0 },
   ⟨2, 0x0B, none, 1, some c0, some (if c0 = 12 then 3 else 1), 1, [(b + 10, 1)]⟩]

/-- A program's layers are the stages of a video profile. -/
def Prog.hasStages (p : Prog) (ts : List Stage) : Bool :=
  p.picSize.elim false fun size => size.1 % 64 == 0 && size.2 % 64 == 0 && p.passesOk &&
    p.mains.length == ts.length && (p.mains.zip ts).all fun e => p.isStage size e.1.2 e.2

/-- A layer reads a source. -/
def Prog.reads (p : Prog) (src : Nat) : Bool := p.layers.any fun e => e.2.src0 == src || e.2.src1 == src

/-- Campion's analysis and hyper-analysis (R43) over the positions of a 20 ms frame: a folded frame of 160 positions, four
convolutions of kernel 7 and stride 2, each followed by GDN, and the convolution of kernel 5 and stride 5; the temporal
reference is one. The layers between and after are Utgiec's listing's. (DEDUCED, log entry 52) -/
def Prog.campionOk (p : Prog) : Bool :=
  let an := (p.mains.filter (·.2.path == 0))
  let conv (i src : Nat) (l : Layer) (k s w : Nat) : Bool :=
    l.op == 0 && l.g == 1 && l.kh == 1 && l.kw == k && l.sw == s && l.outW == w &&
    (p.inputs l).map (fun f => (f.src, f.up)) == [(if i = 0 then srcPicture else src, 1)]
  let at_ (i : Nat) : Nat × Layer := an.getD i default
  p.passesOk && decide (9 ≤ an.length) &&
  ((List.range 4).all fun i =>
    let c := at_ (2 * i)
    let g := at_ (2 * i + 1)
    conv i (at_ (2 * i - 1)).1 c.2 7 2 (80 / 2 ^ i) && g.2.op == 4 && (p.inputs g.2).map (·.src) == [c.1]) &&
  [2, 3, 4, 6, 12].contains (at_ 0).2.cin && (at_ 0).2.inW == 160 && (at_ 7).2.cout == 64 &&
  (p.zLayer.bind p.layer).elim false (fun l => l.kh == 1 && l.kw == 5 && l.sw == 5 && l.outW == 2 && l.cout == 32) &&
  p.reads srcRefShort && !p.reads srcRefLong && p.latch == 64 && p.hypch == 32

/-- A custom graph keeps R40: its latent at 1/16 and its hyperprior at 1/64 of the padded luma, the channel limits, and one or
two references. -/
def Prog.customOk (p : Prog) : Bool :=
  let at_ (i : Option Nat) (down ch : Nat) : Bool := match p.picSize, i.bind p.layer with
    | some size, some l => l.outH * down == size.1 && l.outW * down == size.2 && l.cout == ch
    | _, _ => false
  decide (p.latch ≤ 320) && decide (p.hypch ≤ 256) && at_ p.yLayer 16 p.latch && at_ p.zLayer 64 p.hypch && p.reads srcRefShort

/-- A program keeps its profile (R39 to R43): what the manual lists, and the rest of Utgiec's listing. -/
def Prog.profileOk (p : Prog) : Bool :=
  Config.profileFits (p.profile.getD 4) (p.recs.map fun r => (r.typ, r.data)) &&
  match p.profile with
  | some 0 => p.hasStages (videoStages false 6) && p.latch == 192 && p.hypch == 128
  | some 1 => [4, 6, 12].any (fun c => p.hasStages (videoStages true c)) && p.latch == 256 && p.hypch == 192
  | some 2 => p.campionOk
  | some 3 => p.customOk
  | _ => true

/-! ## What reaches the entropy coder (R99, R114) -/

/-- ŷ and ẑ are INT16 outputs; of the layer that gives means and scale indices, a mean channel spans INT16 and a scale channel 0
to 63; and the gain and scale tables have an entry for every channel (R59, R99, R102). -/
def Prog.codedOk (p : Prog) : Bool :=
  let wide (i : Option Nat) (ch : Nat) : Bool := (i.bind p.layer).elim false fun l => l.fmtOut == 4 && l.cout == ch
  wide p.yLayer p.latch && wide p.zLayer p.hypch && wide p.pLayer (2 * p.latch) &&
  ((p.pLayer.bind p.layer).elim false fun l => (p.rescales l).zipIdx.all fun e =>
    if e.2 < p.latch then e.1.lo == -32768 && e.1.hi == 32767 else e.1.lo == 0 && e.1.hi == 63) &&
  (p.firstRec recGain).length == 128 * p.latch && (p.firstRec recIgain).length == 128 * p.latch && decide (0 < p.latch) &&
  decide (0 < p.hypch)

end Sys2Proof.Machine
end

