-- ==== Sys2Proof/Machine/Load.lean ====
section
/-! DEFINITION. Loading and unloading programs (R100 to R105, R112 to R114, R164, R187, R243, R255, R262, R325, R440). -/
namespace Sys2Proof.Machine

/-! ## The Bridle section -/

/-- The records of a section, `n` of them, each padded with zeros to 8 bytes; none where the bytes do not hold them (R101). -/
def parseRecs : Nat → List Byte → Option (List Rec)
  | 0, b => if b = [] then some [] else none
  | n + 1, b =>
    let len := leAt b 4 4
    let whole := 8 + cdiv len 8 * 8
    if b.length < whole ∨ leAt b 2 2 ≠ 0 ∨ ((b.take whole).drop (8 + len)).any (· != 0) then none
    else (parseRecs n (b.drop whole)).map fun l => ⟨leAt b 0 2, (b.drop 8).take len⟩ :: l

/-- The profile and the records of a Bridle section whose header keeps R101. -/
def parseBridle (b : List Byte) : Option (Nat × List Rec) :=
  if b.length < 32 ∨ leAt b 0 4 ≠ 0x4C445242 ∨ leAt b 4 2 ≠ 1 ∨ 4 < leAt b 6 1 ∨ leAt b 7 1 ≠ 0 ∨ leAt b 12 4 ≠ 0 ∨
      leAt b 16 8 ≠ b.length ∨ b.length % 8 ≠ 0 ∨ leAt b 24 8 ≠ 0 ∨ b.length < leAt b 8 4 then none
  else (parseRecs (leAt b 8 4) (b.drop 32)).map fun l => (leAt b 6 1, l)

/-- A `CDF` record keeps R112. -/
def cdfOk (d : List Byte) : Bool :=
  let n := leAt d 2 2
  let o := toSigned 16 (leAt d 4 2)
  let c := (List.range n).map fun i => leAt d (8 + 2 * i) 2
  decide (leAt d 0 1 < 64) && leAt d 1 1 == 0 && decide (2 ≤ n) && decide (n ≤ 256) && d.length == 8 + 2 * n &&
  leAt d 6 2 == 0 && decide (-255 ≤ o) && decide (o ≤ 0) && decide (0 ≤ o + n - 2) && c.headD 1 == 0 &&
  (c.zip (c.drop 1)).all fun e => decide (e.1 < e.2)

/-- A codec program's tables keep R112 to R114: one `CDF` and one `COST` record of every index. -/
def tablesOk (rs : List Rec) : Bool :=
  let cs := rs.filter (·.typ == recCdf)
  let ks := rs.filter (·.typ == recCost)
  cs.length == 64 && ks.length == 64 && cs.all (fun r => cdfOk r.data) &&
  (List.range 64).all fun i => cs.any fun c => leAt c.data 0 1 == i &&
    ks.any fun k => k.data.take 8 == c.data.take 8 && k.data.length == c.data.length

/-- A record kept to the layouts of R102 and to the limits of R105 wherever it is used. -/
def recOk (r : Rec) : Bool :=
  if r.typ = recRescale then r.data.length % 16 == 0 && (List.range (r.data.length / 16)).all fun i =>
    let b := (r.data.drop (16 * i)).take 16
    let e := RescaleEntry.parse b
    decide (e.s ≤ 47) && decide (e.lo ≤ e.hi) && leAt b 3 1 == 0 && leAt b 6 2 == 0
  else if r.typ = recHscale then r.data.all fun x => decide (x.toNat ≤ 63)
  else if r.typ = recGdn then
    let c := leAt r.data 0 2
    decide (c ≤ 512) && decide (leAt r.data 2 1 ≤ 30) && decide (leAt r.data 3 1 ≤ 15) && r.data.length == 4 + 4 * c + c * c + 4 * c &&
    (List.range c).all fun i => leAt r.data (4 + 4 * i) 4 != 0
  else if r.typ = recTable then r.data.length == 2050
  else if r.typ = recLayer then r.data.length == 64 && (Layer.parse r.data).bridle
  else decide (1 ≤ r.typ) && decide (r.typ ≤ 0x0C)

/-- A `TAPDECL` record keeps R164. -/
def Prog.tapDeclOk (p : Prog) (d : List Byte) : Bool :=
  d.length == 16 && decide (4 ≤ leAt d 0 1) && decide (leAt d 0 1 ≤ 7) && fmtInt (leAt d 1 1) && decide (1 ≤ leAt d 2 2) &&
  decide (leAt d 2 2 ≤ 512) && decide (leAt d 8 1 ≤ 6) && (d.drop 9).all (· == 0) &&
  (p.layer (leAt d 4 4)).elim false fun l =>
    (l.path == 1 || l.path == 2) && l.fmtOut == leAt d 1 1 && l.cout == leAt d 2 2

/-- A program's `TAPDECL` records: only a custom program has them, at most four, each with its own tap. -/
def Prog.tapDeclsOk (p : Prog) : Bool :=
  let ds := (p.recs.filter (·.typ == recTap)).map (·.data)
  ds == [] || (p.profile == some 3 && decide (ds.length ≤ 4) && ds.all p.tapDeclOk && (ds.map (leAt · 0 1)).dedup.length == ds.length)

/-- The second half of an add layer's rescale entries gives M_b alone (R88). -/
def Prog.addOk (p : Prog) (l : Layer) : Bool :=
  l.op != 6 || ((p.rescales l).drop l.cout).all fun e => e.s == 0 && e.z == 0 && e.lo == 0 && e.hi == 0

/-- The checks of a Bridle section beyond its digest (R102, R105, R114, R164). -/
def Prog.bridleOk (p : Prog) : Bool :=
  p.recs.all recOk && p.layers.all (fun e => p.bridleViols e.2 true == [] && p.addOk e.2) &&
  (if p.codec then tablesOk p.recs && p.tapDeclsOk && p.codedOk && p.profileOk
   else p.recs.all fun r => !(decide (recGain ≤ r.typ) && decide (r.typ ≤ recTap)))

/-! ## The graph section -/

/-- A `QSPEC` record keeps R243 in its program. -/
def Prog.qspecOk (p : Prog) (d : List Byte) : Bool :=
  match p.layer (leAt d 0 4) with
  | none => false
  | some l =>
    let g := leAt d 4 1
    d.length == 32 && !l.bridle && decide (g ≤ 2) && decide (leAt d 5 1 ≤ 2) && leAt d 6 2 == 0 && f32nonzero (leAt d 12 4) &&
    f32nonzero (leAt d 16 4) && (d.drop 20).all (· == 0) &&
    (if g = 0 then leAt d 8 4 == recNone
     else (p.record (leAt d 8 4)).elim false fun r =>
       r.data.length == l.cout * (if g = 1 then 1 else cdiv (l.kh * l.kw * l.gin) 32))

/-- An `SFUPAR` record keeps R255 in its program. -/
def Prog.sfuParOk (p : Prog) (d : List Byte) : Bool :=
  let q := SfuPar.parse d
  d.length == 32 && q.ok &&
  (q.func != 3 || (p.record q.grec).elim false fun r => p.layers.all fun e =>
    !((p.recData recSfu e.2.arec).elim false (· == d)) || r.data.length == 4 * e.2.cout) &&
  (q.func != 4 || (p.recData recMicro q.mrec).elim false microOk)

/-- The checks of a graph section (R243, R255, R262). -/
def Prog.graphOk (p : Prog) : Bool :=
  let qs := (p.recs.filter (·.typ == recQspec)).map (·.data)
  qs.all p.qspecOk && (qs.map (leAt · 0 4)).dedup.length == qs.length &&
  (p.recs.filter (·.typ == recSfu)).all (fun r => p.sfuParOk r.data) &&
  (p.recs.filter (·.typ == recMicro)).all fun r => microOk r.data

/-- An adaptation record keeps R187: `LR` and `EPS` are above 0, the betas 0 to below 1, and `WDECAY` 0 or above, infinity
included; no range is stated for `HUBER`. A NaN is in none of these ranges. -/
def adaptOk (d : List Byte) : Bool :=
  let pos (o : Nat) : Bool := below32 0 (leAt d o 4)
  let nonneg (o : Nat) : Bool := pos o || leAt d o 4 % 2 ^ 31 == 0
  let unit (o : Nat) : Bool := nonneg o && below32 (leAt d o 4) 0x3F800000
  d.length == 32 && pos 0 && unit 4 && unit 8 && pos 12 && nonneg 16 && decide (16 ≤ leAt d 24 2) &&
  decide (leAt d 24 2 ≤ 4096) && (leAt d 26 1 == 2 || leAt d 26 1 == 9) && (leAt d 27 1 == 2 || leAt d 27 1 == 9) && leAt d 28 4 == 0

/-! ## LOADPROG -/

/-- The ranks that a cut descriptor names. -/
def cutRanks (d : List Byte) : List Nat := ([40, 41, 42, 43, 52].map (leAt d · 1)).filter (· != 0xFF)

/-- A cut descriptor with its ranks rewritten to tiles (R440). -/
def rewriteCut (tiles : List Nat) (d : List Byte) : List Byte :=
  [40, 41, 42, 43, 52].foldl (fun d o => if leAt d o 1 = 0xFF then d else setAt d o (BitVec.ofNat 8 (tiles.getD (leAt d o 1) 0))) d

/-- The program that a binary holds on an instance, and the conditions that keep it from loading. Records of a graph section
that stand beside a Bridle section are held to their rules too; there a `QSPEC` names a layer with `BRIDLE` = 1 or none.
(DEDUCED, log entry 100) -/
def State.loadBinary (s : State) (n id : Nat) (b : List Byte) : Prog × List Nat :=
  let tiles := s.tilesOf n
  let map := Config.utgMapping b
  let ov := Config.utgOverlays b
  let graph := (Config.utgGraph b).map fun e => (⟨e.1, e.2⟩ : Rec)
  let head := (Config.utgHead b).map fun h => (⟨h.1, h.2.1, h.2.2.1, h.2.2.2, Config.utgTail b⟩ : HeadInfo)
  let sec := Config.utgBridle b
  let br := sec.bind parseBridle
  let p : Prog := { id := id, profile := br.map (·.1), digest := sec.elim (sha256 b) sha256, recs := br.elim graph (·.2),
                    cuts := map.map fun e => ⟨tiles.getD e.1 0, rewriteCut tiles e.2⟩,
                    overlays := ov.map (tiles.getD · 0), head := head,
                    tapSpace := (Config.utgTapSpace b).map fun e => (e.1, tiles.getD e.2.1 0, e.2.2) }
  let digestOk := sec.elim true fun x => sha256 x == Config.utgDigest b && br.isSome
  let graphOk := { p with recs := graph }.graphOk && (br.isNone || graph.all (·.typ != recQspec))
  let bad := !digestOk || (br.isSome && !p.bridleOk) || !graphOk || head.elim false (fun h => h.adapt != [] && !adaptOk h.adapt) ||
    map.any (fun e => e.2.length != 64 || decide (3 < leAt e.2 7 1))
  let full := (map.any fun e => decide (tiles.length ≤ e.1) || (cutRanks e.2).any fun r => decide (tiles.length ≤ r)) ||
    ov.any (fun r => decide (tiles.length ≤ r)) || p.overlays.any (fun t => (s.inst n).overlays.contains t) ||
    (Config.utgNeedsHost b && s.get F.LNK_PCISTAT_DLUP 48 0 == 0)
  (p, (if bad then [0x0105] else []) ++ if full then [0x0402] else [])

/-- What a `LOADPROG` request loads, or the status that refuses it: of all the conditions that hold, the one of highest
precedence (R24, R104, R314). A binary that cannot be read whole shows no condition of its content. (DEDUCED, log entry 100) -/
def State.loadRequest (s : State) (n : Nat) (pl : List Byte) : Except Nat Prog :=
  let id := leAt pl 8 2
  let desc := if (pl.drop 10).any (· != 0) ∨ 2 ^ 40 ≤ leAt pl 0 8 ∨ (s.prog n id).isSome then [0x0104] else []
  match s.blockList n (leAt pl 0 8) with
  | .bad => .error 0x0104
  | .poisoned => .error (pickStatus (0x0201 :: desc))
  | .ok l =>
    if s.bufPoisoned l 0 (blocksLen l) then .error (pickStatus (0x0201 :: desc))
    else
      let r := s.loadBinary n id (s.readBuf l 0 (blocksLen l))
      if desc ++ r.2 = [] then .ok r.1 else .error (pickStatus (desc ++ r.2))

/-- `LOADPROG`: the program joins its instance, and its overlays start (R103, R340). `k` ends the request with its status.
(DEDUCED, log entry 100) -/
def loadprogRun (n : Nat) (pl : List Byte) (k : Nat → Act) : Act := fun s =>
  match s.loadRequest n pl with
  | .error e => k e s
  | .ok p => Act.seq [updI n fun x => { x with progs := x.progs ++ [p], overlays := x.overlays ++ p.overlays }, k 0] s

/-- A stream that is open or closing names a program of its instance, in force or in its shadow (R104). -/
def State.progNamed (s : State) (n id : Nat) : Bool :=
  s.streams.any fun e => s.isLive e.1 && e.2.inst == n &&
    ((bitOf e.2.stages stLsc && (s.slive F.ECE_LSCW7_PROG_ID e.1 == id || s.sget F.ECE_LSCW7_PROG_ID e.1 == id || e.2.lsc.shape.prog == id)) ||
     (bitOf e.2.stages stHead && s.sget F.FXG_HDW1_PROG_ID e.1 == id))

/-- `UNLOADPROG` (R104): the program, its table sets and microprograms, and its overlays leave the instance.
(DEDUCED, log entry 101) -/
def unloadprogRun (n : Nat) (pl : List Byte) (k : Nat → Act) : Act := fun s =>
  let id := leAt pl 0 2
  if (pl.drop 2).any (· != 0) ∨ s.progNamed n id then k 0x0104 s
  else match s.prog n id with
    | none => k 0x0104 s
    | some p => Act.seq [updI n fun x => { x with progs := x.progs.filter (·.id != id), overlays := x.overlays.filter fun t => !p.overlays.contains t },
        .each (s.tilesOf n) fun t => .seq [tsetDrop t fun e => e.inst == n && e.prog == id,
          updT t fun c => { c with micro := c.micro.filter (·.prog != id), fences := c.fences.filter (·.prog != id), halosIn := c.halosIn.filter (·.prog != id) }, syncMpres t],
        k 0] s

end Sys2Proof.Machine
end

