-- ==== Sys2Proof/Machine/Dpb.lean ====
section
/-! DEFINITION. What firmware derives from a standard's headers (R275, R276, R280, R285, R286, R294): whether a stream is
supported, picture order, references, the pool's new marks, and the output process. -/

/-! ## What a stream declares (R275, R276, R285, R288) -/

namespace Sys2Proof

/-- The codec, sample depths, chroma formats and highest level (in tenths) of a profile (R275). -/
def SceProfile.row : SceProfile → Option (Nat × List Nat × List Nat × Nat)
  | .constrainedBaseline | .main264 | .high264 => some (0, [8], [1], 52)
  | .main265 => some (1, [8], [1], 61)
  | .main10 => some (1, [8, 9, 10], [1], 61)
  | .main422x10 => some (1, [8, 9, 10], [1, 2], 61)
  | .mainAv1 => some (2, [8, 10], [0, 1], 51)
  | .other => none

/-- The SCE decodes a stream: its profile, level and format are those of R275, and it uses nothing of R276. -/
def SceHdr.supported (h : SceHdr) : Bool :=
  h.seq.features.isEmpty && h.seq.profile.row.elim false fun r =>
    r.2.1.contains h.seq.bits && r.2.2.1.contains h.seq.chroma && decide (h.seq.level ≤ r.2.2.2)

/-- A decoder's key picture (R288): an IDR or other IRAP picture, or a frame of type KEY_FRAME. -/
def SceHdr.key (h : SceHdr) : Bool := [ScePicKind.idr, .cra, .bla, .keyFrame].contains h.kind

/-- `PTYPE` of a picture (R293). -/
def SceHdr.typ (h : SceHdr) : Nat :=
  match h.kind with | .idr | .cra | .bla | .keyFrame => 0 | .p => 1 | .b | .rasl => 2 | .intra => 3

/-- The decoded picture buffer of the active sequence (R285). -/
def SceHdr.dpb (codec : Nat) (h : SceHdr) : Nat :=
  match codec with | 0 => h.seq.dpb | 1 => h.seq.dpb + 1 | _ => 8

/-- A picture at which decoding starts: nothing decoded before it is referred to or waits behind it. A CRA picture is one
when it is the first. -/
def SceHdr.starts (first : Bool) (h : SceHdr) : Bool :=
  match h.kind with | .idr | .bla | .keyFrame => true | .cra => first | _ => false

/-- The picture order count: the header's low bits with the high part that follows the previous reference picture's.
(PRESUMED, log entry 165) -/
def SceHdr.poc (h : SceHdr) (first : Bool) (prev : Int) : Int :=
  let lsb : Int := h.pocBits
  let m : Int := h.seq.pocs
  if m = 0 ∨ h.starts first then lsb
  else
    let p := prev % m
    let msb := prev - p
    if lsb < p ∧ m ≤ 2 * (p - lsb) then msb + m + lsb else if p < lsb ∧ m < 2 * (lsb - p) then msb - m + lsb else msb + lsb

end Sys2Proof

namespace Sys2Proof.Machine

/-! ## References (R294) -/

/-- A buffer without a mark, whose picture does not wait to be output (R284). (DEDUCED, log entry 166) -/
def SceBuf.free (b : SceBuf) : Bool := !b.cur && !b.refS && !b.refL && !b.out && !b.wait

/-- The buffer of a reference. -/
def refBuf (pool : List SceBuf) (slots : List (Option Nat)) : SceRef → Option Nat
  | .frameNum n => pool.findIdx? fun b => b.refS && b.frameNum == n
  | .longIdx n => pool.findIdx? fun b => b.refL && b.longIdx == n
  | .poc n => pool.findIdx? fun b => (b.refS || b.refL) && b.poc == n
  | .slot k => slots.getD k none

/-- A decoder finds a missing reference (R294): an entry of a list or of the reference picture set with no picture, an AV1 slot
not filled since the last key frame, or a gap in `frame_num`. (DEDUCED, log entry 166) -/
def missingRefs (codec : Nat) (h : SceHdr) (c : Sce) : Bool :=
  !h.key && ((h.list0 ++ h.list1 ++ if codec = 1 then h.rps.map fun e => SceRef.poc e.1 else []).any
      (fun r => (refBuf c.pool c.slots r).isNone) ||
    (codec == 0 && !h.seq.gaps && c.prevNum.elim false fun q => h.frameNum != q && h.frameNum != (q + 1) % max 1 h.seq.frameNums))

/-! ## The marks of a decoded picture (R286) -/

/-- A buffer is no longer a reference. -/
def SceBuf.unref (b : SceBuf) : SceBuf := { b with refS := false, refL := false }

/-- The sliding window of H.264: with all reference frames in use, the short-term one of the smallest wrapped `frame_num` is
dropped. (PRESUMED, log entry 165) -/
def slideWindow (h : SceHdr) (j : Nat) (pool : List SceBuf) : List SceBuf :=
  let refs := pool.zipIdx.filter fun b => b.2 != j && (b.1.refS || b.1.refL)
  if refs.length < max 1 h.seq.numRefs then pool
  else
    let wrap (b : SceBuf) : Int := if h.frameNum < b.frameNum then (b.frameNum : Int) - h.seq.frameNums else b.frameNum
    match (refs.filter (·.1.refS)).foldl (fun a b => match a with
        | none => some b | some m => if wrap b.1 < wrap m.1 then some b else some m) none with
    | none => pool
    | some m => pool.zipIdx.map fun b => if b.2 = m.2 then b.1.unref else b.1

/-- A memory management operation on the other buffers of the pool. (PRESUMED, log entry 165) -/
def mmcoStep (j : Nat) (pool : List SceBuf) (o : SceMmco) : List SceBuf :=
  pool.zipIdx.map fun e =>
    let b := e.1
    if e.2 = j then b
    else match o with
      | .dropShort n => if b.refS ∧ b.frameNum = n then b.unref else b
      | .dropLong k => if b.refL ∧ b.longIdx = k then b.unref else b
      | .toLong n k => if b.refS ∧ b.frameNum = n then { b with refS := false, refL := true, longIdx := k }
          else if b.refL ∧ b.longIdx = k then b.unref else b
      | .maxLong n => if b.refL ∧ n ≤ b.longIdx then b.unref else b
      | .dropAll => b.unref
      | .selfLong k => if b.refL ∧ b.longIdx = k then b.unref else b

/-- The AV1 slots after a picture. -/
def slotsAfter (h : SceHdr) (j : Nat) (slots : List (Option Nat)) : List (Option Nat) :=
  (List.range 8).map fun k => if bitOf h.refresh k then some j else if h.key then none else slots.getD k none

/-- The marks that firmware derives for the picture in buffer `j` replace those of the pool: the sliding window and memory
management operations of H.264, the reference picture set of HEVC, `refresh_frame_flags` of AV1 (R286).
(PRESUMED, log entry 165) -/
def newMarks (codec : Nat) (h : SceHdr) (first : Bool) (j : Nat) (c : Sce) : List SceBuf :=
  let set (s l : Bool) (ix : Nat) (p : List SceBuf) := p.zipIdx.map fun b =>
    if b.2 = j then { b.1 with refS := s, refL := l, longIdx := ix } else b.1
  match codec with
  | 0 =>
    if h.kind = .idr then set (h.mmco != some [.selfLong 0]) (h.mmco == some [.selfLong 0]) 0 (c.pool.map SceBuf.unref)
    else if !h.isRef then c.pool
    else match h.mmco with
      | none => set true false 0 (slideWindow h j c.pool)
      | some l =>
        let self := l.findSome? fun o => match o with | .selfLong k => some k | _ => none
        set self.isNone self.isSome (self.getD 0) (l.foldl (mmcoStep j) c.pool)
  | 1 =>
    set true false 0 (c.pool.map fun b =>
      if h.starts first then b.unref
      else { b with
        refS := (b.refS || b.refL) && h.rps.any fun e => e.1 == b.poc && !e.2
        refL := (b.refS || b.refL) && h.rps.any fun e => e.1 == b.poc && e.2 })
  | _ =>
    let slots := slotsAfter h j c.slots
    c.pool.zipIdx.map fun b => { b.1 with refS := slots.contains (some b.2), refL := false }

/-! ## The output process (R286, R298) -/

/-- The picture that is output next: the least picture order count of those that wait. -/
def nextOut (pool : List SceBuf) : Option Nat :=
  ((pool.zipIdx.filter (·.1.wait)).foldl (fun a b => match a with
    | none => some b | some m => if b.1.poc < m.1.poc then some b else some m) none).map (·.2)

/-- Pictures are output while there are too many. -/
def bumpOut (more : List SceBuf → Bool) : Nat → List SceBuf → List Nat × List SceBuf
  | 0, pool => ([], pool)
  | n + 1, pool =>
    match (if more pool then nextOut pool else none) with
    | none => ([], pool)
    | some j =>
      let r := bumpOut more n (pool.zipIdx.map fun b => if b.2 = j then { b.1 with wait := false } else b.1)
      (j :: r.1, r.2)

/-- The buffers that hold a picture of the decoded picture buffer, but for one. -/
def dpbHeld (j : Nat) (pool : List SceBuf) : Nat :=
  (pool.zipIdx.filter fun b => b.2 != j && (b.1.refS || b.1.refL || b.1.wait)).length

/-- A change of the buffer that a picture takes. -/
def setBuf (j : Nat) (f : SceBuf → SceBuf) (pool : List SceBuf) : List SceBuf :=
  pool.zipIdx.map fun b => if b.2 = j then f b.1 else b.1

/-- What is output when a picture has been decoded into buffer `j`, and the pool then: at a picture that starts decoding the
pictures before it are output, but for `no_output_of_prior_pics_flag`; H.264 and HEVC output in picture order when the decoded
picture buffer is full, and HEVC when more pictures wait than may be reordered; an AV1 frame is output when it is shown.
(PRESUMED, log entry 165) -/
def outputs (codec : Nat) (h : SceHdr) (first : Bool) (j : Nat) (pool : List SceBuf) : List Nat × List SceBuf :=
  let n := pool.length
  let wait (p : List SceBuf) := setBuf j (fun b => { b with wait := h.shown }) p
  if codec = 2 then (if h.shown then [j] else [], pool)
  else
    let flush := if h.starts first then bumpOut (fun _ => true) n pool else ([], pool)
    let before := if h.noPrior then [] else flush.1
    let full (p : List SceBuf) := decide (max 1 (h.dpb codec) ≤ dpbHeld j p)
    if codec = 0 ∧ !h.isRef then
      let r := bumpOut (fun p => full p && (p.getD j {}).wait) (n + 1) (wait flush.2)
      (before ++ r.1, r.2)
    else
      let r := bumpOut full n flush.2
      let q := bumpOut (fun p => codec == 1 && decide (h.seq.reorder < (p.filter (·.wait)).length)) (n + 1) (wait r.2)
      (before ++ r.1 ++ q.1, q.2)

/-- The buffers whose picture the standard discards: it owes a completion, is no reference, does not wait to be output and is
not output now (R298). -/
def discards (outs : List Nat) (pool : List SceBuf) : List Nat :=
  (pool.zipIdx.filter fun b => b.1.owed && !b.1.refS && !b.1.refL && !b.1.wait && !outs.contains b.2).map (·.2)

end Sys2Proof.Machine
end

