-- ==== Sys2Proof/Machine/SceCode.lean ====
section
/-! DEFINITION. What the SCE codes and decodes: frame buffers (R277, R285), rate control (R289 to R291), the access units of an
encoder (R281, R292), lost regions (R295, R296) and block records (R293). -/
namespace Sys2Proof.Machine

/-! ## Frame buffers (R277, R285) -/

/-- The bytes of a sample. -/
def sampleSize (bits : Nat) : Nat := if bits ≤ 8 then 1 else 2

/-- The bytes of a row of samples, on a 64-byte boundary (R277, R285). (DEDUCED, log entry 92) -/
def picPitch (w bits : Nat) : Nat := cdiv (w * sampleSize bits) 64 * 64

/-- The bytes of the luma plane and of the chroma plane (R285). -/
def lumaBytes (w h bits : Nat) : Nat := picPitch w bits * (cdiv h 64 * 64)
def chromaBytes (w h bits chroma : Nat) : Nat :=
  match chroma with | 1 => lumaBytes w h bits / 2 | 2 => lumaBytes w h bits | _ => 0

/-- The bytes of the motion-vector area (R285). -/
def motionBytes (w h : Nat) : Nat := cdiv w 16 * (cdiv h 64 * 64 / 16) * 16

/-- The size of a frame buffer (R285). (DEDUCED, log entry 92) -/
def sceBufBytes (w h bits chroma : Nat) : Nat :=
  cdiv (lumaBytes w h bits + chromaBytes w h bits chroma + motionBytes w h) 4096 * 4096

/-- The frame buffers of a stream's settings. -/
def SceSet.bufBytes (x : SceSet) : Nat := sceBufBytes x.width x.height x.bits x.chroma
def SceSet.planeBytes (x : SceSet) : Nat := lumaBytes x.width x.height x.bits + chromaBytes x.width x.height x.bits x.chroma

/-- The base of a stream's pool. -/
def State.scePool (s : State) (id : Nat) : Nat :=
  s.sget F.SCE_SW5_POOL_LO id * 2 ^ 12 + s.sget F.SCE_SW6_POOL_HI id * 2 ^ 32

/-- The address of a frame buffer. -/
def State.sceBuf (s : State) (id : Nat) (x : SceSet) (j : Nat) : Nat := s.scePool id + j * x.bufBytes

/-- The rows of chroma of a picture. -/
def chromaRows (h chroma : Nat) : Nat := match chroma with | 1 => h / 2 | 2 => h | _ => 0

/-- The rows of a picture in a frame buffer: luma, then interleaved chroma, each with its row of the planes and its bytes
(R277, R285). -/
def picRows (set : SceSet) (w h bits chroma : Nat) : List (Nat × Nat) :=
  (List.range h).map (fun r => (r, w * sampleSize bits)) ++
    (List.range (chromaRows h chroma)).map fun r => (cdiv set.height 64 * 64 + r, w * sampleSize bits)

/-- The samples of a picture, luma before chroma, and the offset in a frame buffer of one of them. -/
def picSamples (w h chroma : Nat) : Nat := w * (h + chromaRows h chroma)
def sampleAt (set : SceSet) (w h bits i : Nat) : Nat :=
  let r := i / max 1 w
  (if r < h then r else cdiv set.height 64 * 64 + (r - h)) * picPitch set.width set.bits + i % max 1 w * sampleSize bits

/-- The rows of a picture go from the engine of tile `t` into its frame buffer, in Bale form (R393). (DEDUCED, log entry 92) -/
def putPicture (t base pitch : Nat) : List (Nat × Nat) → List Byte → Act
  | [], _ => .none
  | e :: es, bs => .seq [memWriteFrom t (base + e.1 * pitch) (bs.take e.2) false true, putPicture t base pitch es (bs.drop e.2)]

/-- The bytes of a picture in a frame buffer, without padding. -/
def State.picBytes (s : State) (base pitch : Nat) (rows : List (Nat × Nat)) : List Byte :=
  rows.flatMap fun e => s.bytes (base + e.1 * pitch) e.2

/-- A frame buffer that holds the neutral picture with zero motion (R295). -/
def neutralBuf (set : SceSet) (bits : Nat) : List Byte :=
  (List.replicate (set.planeBytes / sampleSize bits) (toLe (sampleSize bits) (2 ^ (bits - 1)))).flatten ++
    List.replicate (motionBytes set.width set.height) 0

/-- What a frame buffer holds. -/
def State.refBytes (s : State) (id : Nat) (set : SceSet) (j : Nat) : List Byte :=
  s.bytes (s.sceBuf id set j) (set.planeBytes + motionBytes set.width set.height)

/-! ## Rate control (R289 to R291) -/

/-- The rate-control law of R291: the QP of each row and whether a clamp occurred. (DEDUCED, log entry 89) -/
def sceRate (n : Nat) (target : Int) (qs lo hi : Int) (rowbytes : List Nat) : List Int × Bool :=
  let step (st : List Int × Int × Int × Bool) (r : Nat) : List Int × Int × Int × Bool :=
    let (acc, used, q, cl) := st
    if 2 ≤ r then
      let k := r - 2
      let used := used + (rowbytes.getD k 0 : Nat)
      let share := truncDiv (target * (k + 1)) n
      let d := truncDiv ((used - share) * 32) (target - share)
      let d := if r < n - n / 4 then clampInt d (-3) 3 else d
      let nq := q + d
      let cl := cl || decide (nq < lo) || decide (hi < nq)
      let nq := if nq < lo then lo else nq
      let nq := if hi < nq then hi else nq
      (acc ++ [nq], used, nq, cl)
    else (acc ++ [q], used, q, cl)
  let r := (List.range n).foldl step ([], 0, clampInt qs lo hi, false)
  (r.1, r.2.2.2)

/-- The rows of a picture: macroblock rows in H.264, CTU rows in HEVC (R290). -/
def SceSet.nrows (x : SceSet) : Nat := cdiv x.height (if x.codec = 0 then 16 else 64)

/-- The target of a picture of a type (R290). -/
def SceSet.goal (x : SceSet) (typ : Nat) : Nat :=
  if typ = 0 then x.target * x.keyratio / 4 else if typ = 2 then x.target * x.bratio / 4 else x.target

/-- The start QP of a type. (DEDUCED, log entry 89) -/
def startQp (typ : Nat) : Fld := if typ = 0 then F.SCE_SLIVE1_QPI else if typ = 2 then F.SCE_SLIVE1_QPB else F.SCE_SLIVE1_QPP

/-- The QPs of a picture's rows, and whether a clamp occurred (R289, R291). -/
def SceSet.qps (x : SceSet) (typ start : Nat) (rowbytes : List Nat) : List Nat × Bool :=
  if x.mode = 0 then (List.replicate x.nrows x.qp, false)
  else
    let lo := if x.mode = 2 then max x.lo x.qp else x.lo
    let r := sceRate x.nrows (x.goal typ) start lo x.hi rowbytes
    (r.1.map Int.toNat, r.2)

/-! ## An encoder's access unit (R277, R281, R291, R292) -/

/-- The tools of an encoder's stream: the table of R281. -/
def SceSet.tools (x : SceSet) : SceTools :=
  { codec := x.codec, bits := x.bits, chroma := x.chroma, width := x.width, height := x.height,
    cabac := x.codec != 0 || !x.cavlc, block := if x.codec = 0 then 16 else 64, cuMin := if x.codec = 0 then 16 else 8,
    tuMin := 4, tuMax := if x.codec = 0 then 8 else 32, transform8 := x.codec == 0, amp := false, deblocking := true,
    sao := x.codec == 1, searchX := 256, searchY := 128, rowsPerSlice := if x.slicerows = 0 then x.nrows else x.slicerows,
    timing := true, fullRange := false, hrd := false, tiles := false, wavefront := false, weighted := false, scalingLists := false }

/-- The slice data of a picture's rows, each coded with the QP that R291 gives it from the rows two and more before it. -/
def SceSet.codeRows (x : SceSet) (typ start : Nat) (src : List Byte) (refs : List (List Byte)) : Nat → List (List Byte) → List (List Byte)
  | 0, rows => rows
  | n + 1, rows =>
    let qs := (x.qps typ start (rows.map List.length)).1.take (rows.length + 1)
    codeRows x typ start src refs n (rows ++ [Config.sceRow x.tools typ src refs rows qs])

/-- A raw byte sequence with the bytes that keep start codes out of it. (PRESUMED, log entry 165) -/
def emulation : Nat → List Byte → List Byte
  | _, [] => []
  | z, b :: bs =>
    if z ≥ 2 ∧ b.toNat ≤ 3 then 3 :: b :: emulation (if b = 0 then 1 else 0) bs
    else b :: emulation (if b = 0 then z + 1 else 0) bs

/-- A NAL unit of the byte-stream format: its start code, its header, its payload (R277). (PRESUMED, log entry 165) -/
def nalUnit (codec typ ref : Nat) (rbsp : List Byte) : List Byte :=
  [0, 0, 0, 1] ++ (if codec = 0 then toLe 1 (ref * 32 + typ) else toLe 1 (typ * 2) ++ [1]) ++ emulation 0 rbsp

/-- The parameter sets that firmware writes before a key picture: SPS and PPS, or VPS, SPS and PPS (R280, R281). -/
def SceSet.paramSets (x : SceSet) : List Byte :=
  (if x.codec = 0 then [7, 8] else [32, 33, 34]).flatMap fun t => nalUnit x.codec t 3 (Config.sceParams x.tools t)

/-- Rows in slices of `n`. -/
def inSlices (n : Nat) : Nat → List (List Byte) → List (Nat × List Byte)
  | _, [] => []
  | k, r :: rs => match inSlices n (k + 1) rs with
    | [] => [(k, r)]
    | (f, bs) :: l => if (k + 1) % max 1 n = 0 then (k, r) :: (f, bs) :: l else (k, r ++ bs) :: l

/-- The access unit of a picture (R277, R281): at a key picture the parameter sets; then its slices, each with a header that
carries the slice QP qp[0] (R291). A key picture is an IDR picture, `IDR_N_LP` in HEVC (R288). (PRESUMED, log entry 165) -/
def SceSet.accessUnit (x : SceSet) (typ since : Nat) (qp0 : Nat) (rows : List (List Byte)) : List Byte :=
  let nal := if x.codec = 0 then (if typ = 0 then 5 else 1) else (if typ = 0 then 20 else 1)
  (if typ = 0 then x.paramSets else []) ++ (inSlices x.tools.rowsPerSlice 0 rows).flatMap fun sl =>
    nalUnit x.codec nal (if typ = 0 then 3 else if typ = 1 then 2 else 1) (Config.sceSliceHead x.tools typ since sl.1 qp0 ++ sl.2)

/-- A filler data NAL unit of `n` bytes, at least the smallest there is (R292). -/
def fillerNal (codec n : Nat) : List Byte :=
  let head : List Byte := if codec = 0 then [0, 0, 1, 0x0C] else [0, 0, 1, 0x4C, 0x01]
  head ++ List.replicate (n - head.length - 1) 0xFF ++ [0x80]

/-- An access unit with its filler (R292). -/
def SceSet.fill (x : SceSet) (typ : Nat) (au : List Byte) : List Byte :=
  let lo := cdiv (x.goal typ * 19) 20
  if x.mode = 1 ∧ au.length < lo then au ++ fillerNal x.codec (lo - au.length) else au

/-- What coding a picture gives: its rows, their QPs, whether a clamp occurred, and its access unit before filler. -/
structure SceCoded where
  qps : List Nat
  clamped : Bool
  au : List Byte

/-- A picture coded from its samples and the frame buffers it refers to (R281, R289 to R291). -/
def SceSet.code (x : SceSet) (typ since start : Nat) (src : List Byte) (refs : List (List Byte)) : SceCoded :=
  let rows := x.codeRows typ start src refs x.nrows []
  let q := x.qps typ start (rows.map List.length)
  ⟨q.1, q.2, x.accessUnit typ since (q.1.getD 0 0) rows⟩

end Sys2Proof.Machine

namespace Sys2Proof
open Machine

/-! ## Lost regions of a decoded picture (R295, R296) -/

/-- The columns of units, and the units, of a picture. -/
def SceHdr.unitCols (h : SceHdr) : Nat := cdiv h.seq.width (max 1 h.seq.unit)
def SceHdr.units (h : SceHdr) : Nat := h.unitCols * cdiv h.seq.height (max 1 h.seq.unit)

/-- The units of a received slice whose data decodes, and whether a syntax check fails in it. -/
def SceHdr.goodUnits (h : SceHdr) (au : List Byte) (k n : Nat) : Nat := min n (Config.sceGoodUnits h au k)

/-- The received slices with their numbers. -/
def SceHdr.numbered (h : SceHdr) : List (Nat × Nat × Nat) := h.slices.zipIdx.map fun e => (e.2, e.1)

/-- A unit that the received slices do not cover, and one at which or behind which a slice fails (R296). -/
def SceHdr.absent (h : SceHdr) (u : Nat) : Bool := !h.slices.any fun e => decide (e.1 ≤ u) && decide (u < e.1 + e.2)
def SceHdr.covered (h : SceHdr) (au : List Byte) (u : Nat) : Bool :=
  h.numbered.any fun e => decide (e.2.1 ≤ u) && decide (u < e.2.1 + h.goodUnits au e.1 e.2.2)

/-- The first unit that is absent, and the first whose slice fails. -/
def SceHdr.firstAbsent (h : SceHdr) : Option Nat := (List.range h.units).find? h.absent
def SceHdr.firstFailed (h : SceHdr) (au : List Byte) : Option Nat :=
  (List.range h.units).find? fun u => !h.absent u && !h.covered au u

/-- The unit that a sample belongs to: the luma sample's, or that of the luma which a chroma sample lies on. -/
def SceHdr.unitOf (h : SceHdr) (i : Nat) : Nat :=
  let w := max 1 h.seq.width
  let r := i / w
  let y := if r < h.seq.height then r else if h.seq.chroma = 1 then 2 * (r - h.seq.height) else r - h.seq.height
  y / max 1 h.seq.unit * h.unitCols + i % w / max 1 h.seq.unit

/-- The sample that a lost unit takes: from the first list-0 reference, else the neutral value (R296). -/
def SceHdr.lostSample (h : SceHdr) (set : SceSet) (ref0 : Option (List Byte)) (i : Nat) : Nat :=
  ref0.elim (2 ^ (h.seq.bits - 1)) fun b => leAt b (sampleAt set h.seq.width h.seq.height h.seq.bits i) (sampleSize h.seq.bits)

/-- The samples of a decoded picture: of each unit that is not lost what the standard gives, each lost one concealed
(R295, R296). -/
def SceHdr.decode (h : SceHdr) (set : SceSet) (au : List Byte) (whole : Bool) (refs : List (List Byte)) (ref0 : Option (List Byte)) :
    List Nat :=
  (List.range (picSamples h.seq.width h.seq.height h.seq.chroma)).map fun i =>
    if whole || !h.covered au (h.unitOf i) then h.lostSample set ref0 i
    else Config.sceSample h au refs i % 2 ^ h.seq.bits

/-! ## Block records (R293) -/

/-- A component's mean, rounded toward zero. -/
def meanToZero (l : List Int) : Int := truncDiv l.sum (max 1 l.length : Nat)

/-- The 8-byte record of a block: its list-0 vector, else its list-1 vector, else an intra block's mark; then the costs, which a
decoder writes as 0xFFFF. -/
def SceBlock.record (b : SceBlock) (enc : Bool) : List Byte :=
  let v := if b.list0 = [] then b.list1 else b.list0
  let comp (f : Int × Int → Int) : List Byte := toLe 2 (if v = [] then 0x8000 else (meanToZero (v.map f) % 65536).toNat)
  comp (·.1) ++ comp (·.2) ++ toLe 2 (if enc then min 0xFFFF b.icost else 0xFFFF) ++
    toLe 2 (if enc then b.pcost.elim 0xFFFF (min 0xFFFF) else 0xFFFF)

/-- The lesser of a block's costs. -/
def SceBlock.cost (b : SceBlock) : Nat := min (min 0xFFFF b.icost) (b.pcost.elim 0xFFFF (min 0xFFFF))

end Sys2Proof

namespace Sys2Proof.Machine

/-- The number of 16 × 16 blocks of a picture. -/
def pictureBlocks (w h : Nat) : Nat := cdiv w 16 * cdiv h 16

/-- The mean QP of blocks, rounded down. -/
def qpMean (l : List Nat) : Nat := l.sum / max 1 l.length

/-- The QPs of an encoder's blocks, each its row's. -/
def SceSet.blockQps (x : SceSet) (qs : List Nat) : List Nat :=
  (List.range (pictureBlocks x.width x.height)).map fun i => qs.getD (i / max 1 (cdiv x.width 16) / if x.codec = 0 then 1 else 4) 0

end Sys2Proof.Machine
end

