-- ==== Sys2Proof/Machine/Sce.lean ====
section
/-! DEFINITION. The standard codec engine (chapter 10): settings and boundaries, group structure, the pool, missing references
and refresh requests, statistics and completions. -/
namespace Sys2Proof.Machine

/-! ## Settings (R275, R282, R283, R287, R305, R538) -/

/-- An SCE encoder or decoder that is open or closing. -/
def State.isSceEnc (s : State) (id : Nat) : Bool :=
  s.isLive id && bitOf (s.stream id).stages stSce && s.slive F.SCE_SW0_DIR id == 0
def State.isSceDec (s : State) (id : Nat) : Bool :=
  s.isLive id && bitOf (s.stream id).stages stSce && s.slive F.SCE_SW0_DIR id == 1

/-- The shadowed words of the SCE's settings. -/
def sceRegs : List Reg := [.SCE_SW0, .SCE_SW1, .SCE_SW2, .SCE_SW3, .SCE_SW4, .SCE_SW5, .SCE_SW6, .SCE_SW7]

/-- A change of a stream's SCE state. -/
def updSce (id : Nat) (f : Sce → Sce) : Act := updS id fun x => { x with sce := f x.sce }

/-- A codec codes or decodes samples of a depth and chroma format (R275). -/
def sceFormat (enc : Bool) (codec bits chroma : Nat) : Bool :=
  (!enc || codec != 2) && [SceProfile.high264, .main265, .main10, .main422x10, .mainAv1].any fun p => p.row.elim false fun r =>
    r.1 == codec && r.2.1.contains bits && r.2.2.1.contains chroma

/-- An encoder's picture keeps the size that its level allows: 36,864 macroblocks at H.264 level 5.2, 35,651,584 luma samples at
HEVC level 6.1 (R275). (PRESUMED, log entry 165) -/
def levelFits (codec w h : Nat) : Bool :=
  if codec = 0 then decide (cdiv w 16 * cdiv h 16 ≤ 36864) else decide (w * h ≤ 35651584)

/-- The base of a stream's statistics ring. -/
def State.sceStats (s : State) (id : Nat) : Nat :=
  s.sget F.SCE_SW7_STBASE_LO id * 2 ^ 12 + s.sget F.SCE_SW6_STBASE_HI id * 2 ^ 32

/-- `IDRINT`, 0 standing for 1,024. -/
def idrOf (v : Nat) : Nat := if v = 0 then 1024 else v

/-- The joined limits of an SCE stream's settings, and the ranges of the fields that have effect (R305, R538). -/
def State.sceOk (s : State) (n id : Nat) (g : Fld → Nat) : Bool :=
  let enc := g F.SCE_SW0_DIR == 0
  let w := g F.SCE_SW1_WIDTH
  let h := g F.SCE_SW1_HEIGHT
  let gl := g F.SCE_SW0_GOPLEN
  let t := g F.SCE_SW3_TARGET
  sceFormat enc (g F.SCE_SW0_CODEC) (g F.SCE_SW0_BITS) (g F.SCE_SW0_CHROMA) && sizeOk w && sizeOk h &&
  decide (2 ≤ g F.SCE_SW6_POOLN) && decide (g F.SCE_SW6_POOLN ≤ 25) &&
  s.inMem n (s.scePool id) (g F.SCE_SW6_POOLN * sceBufBytes w h (g F.SCE_SW0_BITS) (g F.SCE_SW0_CHROMA)) &&
  (!enc ||
    (levelFits (g F.SCE_SW0_CODEC) w h && decide (g F.SCE_SW4_QPMIN ≤ g F.SCE_SW2_QP) && decide (g F.SCE_SW2_QP ≤ g F.SCE_SW4_QPMAX) &&
     (g F.SCE_SW2_RC_MODE == 0 || (decide (64 ≤ t) && decide (t ≤ 16777215))) &&
     (if g F.SCE_SW0_GOPMODE = 0 then gl == 1 else decide (2 ≤ gl) && decide (gl ≤ 8) && idrOf (g F.SCE_SW0_IDRINT) % max 1 gl == 0)))

/-- The settings in force of a stream. -/
def State.sceSet (s : State) (id : Nat) : SceSet :=
  let g := fun f => s.slive f id
  { codec := g F.SCE_SW0_CODEC, bits := g F.SCE_SW0_BITS, chroma := g F.SCE_SW0_CHROMA, width := g F.SCE_SW1_WIDTH,
    height := g F.SCE_SW1_HEIGHT, gopmode := g F.SCE_SW0_GOPMODE, goplen := g F.SCE_SW0_GOPLEN, mode := g F.SCE_SW2_RC_MODE,
    qp := g F.SCE_SW2_QP, lo := g F.SCE_SW4_QPMIN, hi := g F.SCE_SW4_QPMAX, target := g F.SCE_SW3_TARGET,
    keyratio := g F.SCE_SW2_KEYRATIO, bratio := g F.SCE_SW2_BRATIO, stats := g F.SCE_SW0_STATS_EN == 1,
    cavlc := g F.SCE_SW0_CAVLC == 1, slicerows := g F.SCE_SW4_SLICEROWS }

/-- The structural settings agree (R283). -/
def SceSet.sameShape (a b : SceSet) : Bool :=
  a.codec == b.codec && a.bits == b.bits && a.chroma == b.chroma && a.width == b.width && a.height == b.height

/-! ## Key requests and commands (R288, R290) -/

/-- A key request is accepted (R288). -/
def sceKeyRequest (id : Nat) : Act := .seq [countS F.SCE_SCNT_REFCNT id 1, setS F.SCE_SLIVE1_KEYPEND id 1]

/-- A command written to an encoder slot; elsewhere it is refused with cause STATE. (DEDUCED, log entry 38) -/
def sceCommand (q : Requester) (t : Nat) (f : Fld) (a : Nat → Act) : Act := writeReg q t .SCE_SCMD 0 fun t ix => fun s =>
  let id := t * 256 + ix
  if s.isSceEnc id then Act.seq [setS f id 1, a id] s else regErrAt .SCE_SCMD t q causeState s

/-- `SCE_KEYREQ`. (DEDUCED, log entry 35) -/
def sceKeyreqX (q : Requester) (t : Nat) : Act := sceCommand q t F.SCE_SCMD_KEYREQ sceKeyRequest

/-- `SCE_RCRESET`. -/
def sceRcresetX (q : Requester) (t : Nat) : Act := sceCommand q t F.SCE_SCMD_RCRESET fun _ => .none

/-! ## Pictures are taken in (R282, R286 to R288) -/

/-- The shadow at an SCE boundary: it applies whole unless it is held or a joined limit is broken (R282, R538). The answer
to whether the start QPs are set anew goes to `k`. (DEDUCED, log entry 39) -/
def sceShadow (id : Nat) (k : Bool → Act) : Act := fun s =>
  let pend := s.shadowed id sceRegs
  let hold := s.sget F.SCE_SCTL_HOLD id == 1
  let ok := s.sceOk (s.stream id).inst id (s.sget · id)
  let applies := !hold && pend != [] && ok
  Act.seq [
    .when applies (.seq [applyRegs id sceRegs, setS F.SCE_SLIVE1_SHDPEND id 0, updSce id fun x => { x with held := false }]),
    .when (!hold && pend != [] && !ok && !(s.stream id).sce.held)
      (.seq [.opt pend.head? fun r => regErrAt r (homeOf id) .hw causeRange, updSce id fun x => { x with held := true }]),
    digestBoundary id stSce,
    k (s.sget F.SCE_SCMD_RCRESET id == 1 || (applies && pend.contains .SCE_SW2))] s

/-- Pictures between two coded ones, in dyadic order: the middle, the earlier of two, then each half; each refers to the coded
pictures nearest to it on both sides. (DEDUCED, log entry 90) -/
def dyadic : Nat → Nat → Nat → List ScePic → List ScePic
  | 0, _, _, _ => []
  | k + 1, lo, hi, l =>
    let m := (l.length - 1) / 2
    match l[m]? with
    | none => []
    | some p => { p with typ := 2, refs := [lo, hi] } :: (dyadic k lo p.n (l.take m) ++ dyadic k p.n hi (l.drop (m + 1)))

/-- A mini-GOP in coding order: its last picture as the anchor, which refers to the previous anchor, then those before it in
dyadic order (R287). (DEDUCED, log entry 90) -/
def miniGop (prev : Nat) (l : List ScePic) : List ScePic :=
  match l.getLast? with
  | none => []
  | some a => { a with typ := 1, refs := [prev] } :: dyadic l.length prev a.n l.dropLast

/-- The queue of SCE work items. -/
def sceQueue : Nat := 4

/-- The tile whose SCE the stream table assigns to a stream: the lowest of its tiles whose SCE is ON, else the lowest.
(DEDUCED, log entry 93) -/
def State.sceTile (s : State) (id : Nat) : Nat :=
  let l := bitList 64 (s.stream id).tiles
  ((l.find? (s.isOn .sce)).or l.head?).getD (homeOf id)

/-- Firmware queues a work item for the pictures that wait for one, in coding order, while the queue has room.
(DEDUCED, log entry 22) -/
def scePump (id : Nat) : Act := fun s =>
  Act.each ((s.stream id).sce.queue.filter fun p => p.place.isNone) (fun p => fun s =>
    let t := s.sceTile id
    if s.qFull t sceQueue ∨ s.owner t ≠ some (s.stream id).inst then []
    else
      let slot := s.get F.SMV_QTAIL_TAIL t sceQueue
      Act.seq [enqueue t sceQueue id (slotBytes id 1 0 p.n 0 (s.stream id).epoch []) 0 none,
        updSce id fun x => { x with queue := mapFirst (·.place.isNone) (fun g => { g with place := some (t, slot) }) x.queue }] s) s

/-- The pictures of an open mini-GOP go to be coded (R288, R311). (DEDUCED, log entry 90) -/
def sceFlush (id : Nat) : Act := .seq [updSce id fun x => match x.gop with
    | [] => x
    | p :: _ => { x with queue := x.queue ++ miniGop (p.n - 1) x.gop, gop := [] }, scePump id]

/-- A picture taken in takes its place in the coding order (R287, R288). -/
def scePlace (id : Nat) (p : ScePic) : Act :=
  if p.typ = 0 then .seq [sceFlush id, updSce id fun x => { x with queue := x.queue ++ [p] }, scePump id]
  else if p.set.gopmode = 0 then
    .seq [sceFlush id, updSce id fun x => { x with queue := x.queue ++ [{ p with refs := [p.n - 1] }] }, scePump id]
  else .seq [updSce id fun x => { x with gop := x.gop ++ [p] },
    .read fun s => .when (decide (p.set.goplen ≤ (s.stream id).sce.gop.length)) (sceFlush id)]

/-- An encoder takes a picture in: its boundary (R282). -/
def sceTakeEnc (id : Nat) (it : Item) : Act := sceShadow id fun reset => fun s =>
  let c := (s.stream id).sce
  let set := s.sceSet id
  let struct := c.started && !set.sameShape c.last
  let key := !c.started || struct || s.sget F.SCE_SLIVE1_KEYPEND id == 1 ||
    decide (idrOf (s.slive F.SCE_SW0_IDRINT id) - 1 ≤ s.sget F.SCE_SLIVE1_SINCEKEY id)
  let since := if key then 0 else c.sinceTrue + 1
  let i := InputItem.parse it.payload
  let p : ScePic := { n := c.nextIn, item := it.slot, off := i.off, len := i.len, ptime := i.ptime, incond := i.incond, conds := i.conds,
                      typ := if key then 0 else 1, struct := struct, set := set, since := since }
  Act.seq [
    .when reset (.seq [setS F.SCE_SCMD_RCRESET id 0, setS F.SCE_SLIVE1_QPI id set.qp, setS F.SCE_SLIVE1_QPP id set.qp,
      setS F.SCE_SLIVE1_QPB id set.qp]),
    updSce id fun x => { x with nextIn := x.nextIn + 1, started := true, last := set, sinceTrue := since },
    setS F.SCE_SLIVE1_SINCEKEY id (min 1023 since),
    .when key (.seq [setS F.SCE_SLIVE1_KEYPEND id 0, setS F.SCE_SCMD_KEYREQ id 0]),
    scePlace id p] s

/-- The next input of an SCE stream that has not been taken. -/
def State.sceInput (s : State) (id : Nat) : Option Item :=
  let c := (s.stream id).sce
  (s.inputItems id).find? fun i => !((c.queue ++ c.gop ++ c.run.toList).any (·.item == i.slot))

/-- `SCE_INPUT_TAKEN`: the next input is taken into the input queue; of a decoder, firmware queues its access unit. -/
def sceInputTakenX (id : Nat) : Act := fun s =>
  match s.sceInput id with
  | none => scePump id s
  | some it =>
    if s.isSceEnc id then sceTakeEnc id it s
    else if s.isSceDec id then
      let i := InputItem.parse it.payload
      let p : ScePic :=
        { item := it.slot, off := i.off, len := i.len, ptime := i.ptime, incond := i.incond, conds := i.conds }
      Act.seq [updSce id fun x => { x with nextIn := x.nextIn + 1, queue := x.queue ++ [{ p with n := x.nextIn }] }, scePump id] s
    else []

/-! ## Errors, refresh requests and the end of a picture -/

/-- The SCE records an error with its stream, row and picture (R302). -/
def sceErr (t code id row frame : Nat) : Act :=
  blockErr F.SCE_ERRSTAT_ERR F.SCE_ERRSTAT_CODE F.SCE_ERRCNT_COUNT t code
    [(F.SCE_ERRSTAT_STREAM, id), (F.SCE_ERRLOC_ROW, row % 2 ^ 16), (F.SCE_ERRLOC_FRAME, frame % 2 ^ 16)]

/-- A decoder sends a refresh request (R297); one of kind 3 names its stream. (DEDUCED, log entry 169) -/
def sceRefresh (id : Nat) : Act := fun s =>
  let k := s.slive F.SCE_SW0_RFR_KIND id
  if k = 0 ∨ s.sget F.SCE_SLIVE1_REFUSED id = 1 then []
  else Act.seq [updSce id fun x => { x with rfr := some (s.sget F.SCE_SLIVE0_FRAME id) }, countS F.SCE_SCNT_REFCNT id 1,
    emit (if k = 3 then .keyReq id else .rtcp id k)] s

/-- The picture begun makes the last request due again (R297). -/
def sceRepeat (id : Nat) : Act := fun s =>
  let n := s.slive F.SCE_SW2_RFR_RPT id
  match (s.stream id).sce.rfr with
  | none => []
  | some f => if n ≠ 0 ∧ n ≤ (s.sget F.SCE_SLIVE0_FRAME id + 2 ^ 32 - f) % 2 ^ 32 then sceRefresh id s else []

/-- An event of R295 or R296: counted once, and a refresh request sent at once. -/
def sceEvent (id : Nat) : Act :=
  .seq [countS F.SCE_SCNT2_MISSREF id 1, countS F.SMV_SCOND0_MISSREF id 1, setS F.SCE_SLIVE1_CONCEAL id 1, sceRefresh id]

/-- A picture's work item leaves the engine, and its input is done with. -/
def sceRetire (t id : Nat) (p : ScePic) (conds : List Nat) : Act := fun s =>
  Act.seq [.opt p.place fun e => .read fun s =>
      .opt ((s.qItems e.1 sceQueue).find? (·.slot == e.2)) fun i => finishItem e.1 i (pickStatus conds) 0 [],
    finishInput id p.item conds, count F.SCE_PICCNT_COUNT t 1] s

/-- A picture that is not coded or decoded completes with a status. -/
def sceGiveUp (t id : Nat) (p : ScePic) (st : Nat) : Act := .seq
  [countConditions id (p.conds ++ [st]), workRecord id p.frame (pickStatus (p.conds ++ [st])) 0, sceRetire t id p (p.conds ++ [st])]

/-! ## A picture starts (R276, R278, R283, R285, R286) -/

/-- The buffers that a stream's pool needs (R285). -/
def sceNeed (enc : Bool) (set : SceSet) (nout dpb : Nat) : Nat :=
  if enc then (if set.gopmode = 0 then 2 else 6) else dpb + nout + 1

/-- The SCE takes up a stream for a picture of a codec (R278, R302). -/
def sceSwitch (t id codec : Nat) : Act := fun s =>
  let held := (s.tile t).sceHeld
  Act.seq [.when (held.elim false (· != id)) (count F.SCE_SWCNT_COUNT t 1), updT t fun c => { c with sceHeld := some id },
    setF F.SCE_STAT_STREAM t id, setF F.SCE_STAT_DIR t (s.slive F.SCE_SW0_DIR id), setF F.SCE_STAT_CODEC t codec] s

/-- The input data of a picture is poisoned. -/
def State.inputPoisoned (s : State) (id : Nat) (p : ScePic) : Bool :=
  match s.blockList (s.stream id).inst (s.stream id).iblist with
  | .ok l => s.bufPoisoned l p.off p.len
  | .poisoned => true
  | .bad => false

/-- A picture is begun: its number, and the next buffer. -/
def sceBegin (id : Nat) : Act := .seq [updSce id fun x => { x with nextFrame := (x.nextFrame + 1) % 2 ^ 32, queue := x.queue.tail },
  .read fun s => setS F.SCE_SLIVE0_FRAME id (s.stream id).sce.nextFrame]

/-- The picture takes a `FREE` buffer and is in progress. -/
def sceRun (t id : Nat) (p : ScePic) : Act := fun s =>
  let j := ((s.stream id).sce.pool.findIdx? SceBuf.free).getD 0
  Act.seq [updSce id fun x => { x with pool := mapFirst SceBuf.free (fun _ => { cur := true }) x.pool, run := some { p with buf := j } },
    updT t fun c => { c with sceBusy := some id }, setF F.SCE_STAT_BUSY t 1] s

/-- The engine of tile `t` reads a picture's input and the frame buffers it refers to, over the Yard (R397). -/
def sceReads (t id : Nat) (p : ScePic) (refs : List Nat) : Act := fun s =>
  Act.seq [match s.blockList (s.stream id).inst (s.stream id).iblist with
      | .ok l => yardBuf t l p.off p.len
      | _ => .none,
    .each refs fun j => yardReturn t (s.sceBuf id p.set j) (p.set.planeBytes + motionBytes p.set.width p.set.height)] s

/-- The data of a picture's input. -/
def State.sceData (s : State) (id : Nat) (p : ScePic) : List Byte :=
  match s.blockList (s.stream id).inst (s.stream id).iblist with
  | .ok l => s.readBuf l p.off p.len
  | _ => []

/-- An encoder's picture starts. -/
def sceStartEnc (t id : Nat) (p : ScePic) : Act := fun s =>
  let c := (s.stream id).sce
  let p := { p with frame := (c.nextFrame + 1) % 2 ^ 32 }
  Act.seq [sceSwitch t id p.set.codec, sceBegin id,
    .when p.struct (updSce id fun x => { x with pool := x.pool.map fun _ => {} }),
    if s.sget F.SCE_SW6_POOLN id < sceNeed true p.set 0 0 then .seq [sceErr t 5 id 0 p.frame, sceGiveUp t id p 0x0402, scePump id]
    else if s.inputPoisoned id p then .seq [sceErr t 6 id 0 p.frame, sceGiveUp t id p 0x0201, sceKeyRequest id]
    else sceRun t id p] s

/-- A decoded picture is output (R277, R286, R298): its buffer is held for its consumer and its completion is issued. With film
grain the output picture takes another `FREE` buffer, and the reference stays without grain. A learned encoder that follows takes
the picture as its input behind the barrier between the stages. (DEDUCED, log entries 91 and 166) -/
def sceOutput (t id j : Nat) : Act := fun s =>
  let x := s.stream id
  let b := x.sce.pool.getD j {}
  let st := pickStatus b.conds
  let inc := maskList ((if b.conds.contains 0x0202 || b.conds.contains 0x0203 then [0] else []) ++
    (if b.conds.contains 0x0204 then [1] else []) ++ (if b.conds.contains 0x0205 then [2] else []))
  let set := s.sceSet id
  let pitch := picPitch set.width set.bits
  let rows := picRows set b.seq.width b.seq.height b.seq.bits b.seq.chroma
  let bs := s.picBytes (s.sceBuf id set j) pitch rows
  let k := sampleSize b.seq.bits
  let grain := (List.range (bs.length / k)).flatMap fun i => toLe k (Config.sceGrain bs b.frame i % 2 ^ b.seq.bits)
  let o := if b.grain then (x.sce.pool.findIdx? SceBuf.free).getD j else j
  let lsc := s.isLscEnc id
  Act.seq [
    .when (o != j) (putPicture t (s.sceBuf id set o) pitch rows grain),
    updSce id fun c =>
      let held (e : SceBuf) : SceBuf := { e with out := true, outAt := if lsc then none else some x.barriers, seq := b.seq }
      let told (e : SceBuf) : SceBuf := { e with wait := false, owed := false }
      { c with pool := setBuf o held (setBuf j told c.pool) },
    countConditions id b.conds, workRecord id b.frame st (if b.grain then crc64 grain else b.digest),
    .when lsc (.seq [stageBarrier id, updLsc id fun l => { l with
      inputs := l.inputs ++ [{ ptime := b.ptime, incond := inc, conds := [], pic := some o, after := some x.barriers }] }])] s

/-- A decoded picture that is never output completes where the standard discards it (R298). -/
def sceDiscard (id j : Nat) : Act := fun s =>
  let b := (s.stream id).sce.pool.getD j {}
  Act.seq [updSce id fun c => { c with pool := setBuf j (fun e => { e with owed := false }) c.pool },
    countConditions id b.conds, workRecord id b.frame (pickStatus b.conds) b.digest] s

/-- A closing decoder that has nothing left to decode outputs the pictures that wait (R286, R311). (DEDUCED, log entry 166) -/
def sceDrain (id : Nat) : Act := fun s =>
  let c := (s.stream id).sce
  if s.slotState id = slotClosing ∧ s.isSceDec id ∧ c.queue = [] ∧ c.run = none ∧ s.inputItems id = [] then
    let r := bumpOut (fun _ => true) c.pool.length c.pool
    Act.seq [.each r.1 (sceOutput (s.sceTile id) id), .read fun s => .each (discards [] (s.stream id).sce.pool) (sceDiscard id)] s
  else []

/-- The pool of a decoder suffices for a sequence, and its pictures keep the maxima of the settings (R283, R285). -/
def State.sceSuffices (s : State) (id : Nat) (h : SceHdr) : Bool :=
  let set := s.sceSet id
  decide (sceNeed false set (s.sget F.SCE_SW4_NOUT id) (h.dpb set.codec) ≤ s.sget F.SCE_SW6_POOLN id) &&
  decide (h.seq.width ≤ set.width) && decide (h.seq.height ≤ set.height) && decide (h.seq.bits ≤ set.bits) &&
  decide (h.seq.chroma ≤ set.chroma)

/-- A decoder's picture starts: its boundary, and the checks of R276, R283, R285 and R294. (DEDUCED, log entry 88) -/
def sceStartDec (t id : Nat) (p : ScePic) (h : SceHdr) : Act := .seq
  [.read fun s => sceSwitch t id (s.slive F.SCE_SW0_CODEC id), sceShadow id fun _ => fun s =>
  let c := (s.stream id).sce
  let set := s.sceSet id
  let since := if h.key then 0 else c.sinceTrue + 1
  let poc := h.poc (!c.decoded) c.prevPoc
  let p := { p with frame := (c.nextFrame + 1) % 2 ^ 32, set := set, hdr := some h, typ := h.typ, poc := poc }
  let refused := s.sget F.SCE_SLIVE1_REFUSED id == 1
  let begin_ : Act := .seq [sceBegin id, updSce id fun x => { x with sinceTrue := since }, setS F.SCE_SLIVE1_SINCEKEY id (min 1023 since)]
  if !h.supported ∨ (refused ∧ !h.key) then
    Act.seq [begin_, sceErr t 1 id 0 p.frame, setS F.SCE_SLIVE1_REFUSED id 1, updSce id fun x => { x with decoded := false },
      sceGiveUp t id p 0x0104, sceDrain id] s
  else
    let goes : Act := .seq [begin_, .when h.key (.seq [setS F.SCE_SLIVE1_REFUSED id 0,
      updSce id fun x => { x with rfr := none, skipRasl := h.kind == .bla || (h.kind == .cra && !x.decoded) }]), sceRepeat id]
    if h.existing.isSome then
      Act.seq [goes, .opt (h.existing.bind fun k => c.slots.getD k none) (sceOutput t id), sceRetire t id p p.conds, sceDrain id] s
    else if h.kind = .rasl ∧ c.skipRasl then Act.seq [goes, sceRetire t id p p.conds, sceDrain id] s
    else if !s.sceSuffices id h then Act.seq [goes, sceErr t 5 id 0 p.frame, sceGiveUp t id p 0x0402, sceDrain id] s
    else
      let pz := s.inputPoisoned id p
      let miss := missingRefs set.codec h c
      Act.seq [goes, .when pz (.seq [sceErr t 6 id 0 p.frame, countS F.SCE_SCNT2_LOSTREG id 1]),
        .when miss (sceErr t 4 id 0 p.frame), .when (miss || pz) (sceEvent id),
        sceRun t id { p with event := miss || pz, concealed := !h.key && s.sget F.SCE_SLIVE1_CONCEAL id == 1, conds := p.conds ++ if pz then [0x0201] else [] }] s]

/-- A picture is ready when its pool has the buffer it needs (R278, R286): a `FREE` one, and in a decoder fewer than `NOUT`
pictures held for their consumer. (DEDUCED, log entry 166) -/
def State.sceHasBuf (s : State) (id : Nat) (p : ScePic) : Bool :=
  let pool := (s.stream id).sce.pool
  p.struct || pool == [] ||
    (pool.any SceBuf.free && (s.isSceEnc id || decide ((pool.filter (·.out)).length < max 1 (s.sget F.SCE_SW4_NOUT id))))

/-- The picture at the head of its stream that a work item of a tile stands for. -/
def State.scePicOf (s : State) (t : Nat) (i : Item) : Option ScePic :=
  let c := (s.stream i.stream).sce
  if c.run.isSome then none else (c.queue.head?).filter fun p => p.place == some (t, i.slot)

/-- `SCE_PICTURE_START`: the SCE takes its oldest ready picture; of a decoder, firmware has read the headers `h`. -/
def scePictureStartX (t : Nat) (h : SceHdr) : Act := fun s =>
  if !s.isOn .sce t ∨ (s.tile t).sceBusy.isSome then []
  else
    let ready := ((s.qItems t sceQueue).filter (·.started)).filterMap fun i =>
      (s.scePicOf t i).filter (s.sceHasBuf i.stream) |>.map fun p => (i.stream, p)
    match ready with
    | [] => []
    | (id, p) :: _ => if s.isSceEnc id then sceStartEnc t id p s else sceStartDec t id p h s

/-! ## A picture completes (R286, R292 to R300) -/

/-- One entry of the statistics ring. -/
def sceStat (t id : Nat) (p : ScePic) (w h qpavg st bytes cplx : Nat) (blocks : List Byte) : Act := fun s =>
  let size := s.sget F.SCE_SW6_STSIZE id * 65536
  let nb := 8 * (cdiv w 16 * cdiv h 16)
  let e := toLe 8 p.ptime ++ toLe 4 p.frame ++ toLe 1 p.typ ++ toLe 1 qpavg ++ toLe 2 st ++ toLe 4 bytes ++ toLe 2 (cdiv w 16) ++
    toLe 2 (cdiv h 16) ++ toLe 8 cplx ++ List.replicate 32 0 ++ (blocks ++ List.replicate nb 0).take nb
  let len := cdiv e.length 64 * 64
  if !p.set.stats ∨ size < len then []
  else
    let off := if (s.stream id).sce.stOff + len ≤ size then (s.stream id).sce.stOff else 0
    let a := s.sceStats id + off
    let n := (s.stream id).inst
    Act.seq [if isHost a then putBytes n a e false else .when (s.inMem n a len) (memWriteFrom t a e false true), updSce id fun x => { x with stOff := off + len }] s

/-- Cycles that a picture of a size keeps the engine busy (R279). -/
def sceCycles (enc : Bool) (w h chroma : Nat) : Nat :=
  let c := w * h * (if enc then 10 else 5)
  if chroma = 2 then cdiv (c * 4) 9 else cdiv c 3

/-- The engine is free again. -/
def sceIdle (t id cycles : Nat) : Act := .seq
  [updSce id fun x => { x with run := none }, updT t fun c => { c with sceBusy := none }, setF F.SCE_STAT_BUSY t 0,
   count256 F.SCE_BUSYCNT_COUNT t cycles]

/-- Where an access unit goes and whether it fits (R300). -/
def State.auFits (s : State) (id n : Nat) : Bool :=
  s.sends id 1 || (match s.blockList (s.stream id).inst (s.stream id).oblist with | .ok l => decide (n ≤ blocksLen l) | _ => false)

/-- An access unit leaves: through `EGRESS` as RTP, or to the output buffer. -/
def auOut (t id frame : Nat) (bs : List Byte) : Act := fun s =>
  if s.sends id 1 then
    Act.seq [stageBarrier id, updS id fun x => { x with egress := x.egress ++ [(⟨frame, bs, false, none, none⟩ : Egress)] }, egressPump id] s
  else putOutput t id bs false true s

/-- The buffers that an encoder's picture refers to: those of its reference pictures, or in the place of one that was not coded
the last reference. (DEDUCED, log entry 90) -/
def encRefs (p : ScePic) (pool : List SceBuf) : List Nat :=
  let last := ((pool.zipIdx.filter (·.1.refS)).foldl (fun a b => match a with
    | none => some b | some m => if m.1.n < b.1.n then some b else some m) none).map (·.2)
  p.refs.filterMap fun n => (pool.findIdx? fun b => b.refS && b.n == n).or last

/-- The pool after an encoder's picture: it becomes a reference, and of the others those stay that a picture still to be coded
refers to, with the last anchor; a key picture drops all (R286, R287). (DEDUCED, log entry 90) -/
def encMarks (p : ScePic) (rest : List ScePic) (pool : List SceBuf) : List SceBuf :=
  let needed := rest.flatMap (·.refs)
  let anchor := (pool.filter (·.refS)).foldl (fun m b => max m b.n) 0
  pool.map fun b =>
    if b.cur then { b with cur := false, refS := true, n := p.n }
    else { b with refS := b.refS && p.typ != 0 && (needed.contains b.n || (p.typ == 2 && b.n == anchor)) }

/-- An encoder's picture completes. (DEDUCED, log entry 88) -/
def sceDoneEnc (t id : Nat) (p : ScePic) (stall : Nat) : Act := fun s =>
  let x := p.set
  let c := (s.stream id).sce
  let src := s.sceData id p
  let refs := (encRefs p c.pool).map (s.refBytes id x)
  let r := x.code p.typ p.since (s.sget (startQp p.typ) id) src refs
  let au := x.fill p.typ r.au
  let cyc := sceCycles true x.width x.height x.chroma + stall
  if !s.auFits id au.length then
    Act.seq [sceErr t 7 id 0 p.frame, updSce id fun x => { x with pool := x.pool.map fun b => if b.cur then {} else b },
      sceIdle t id cyc, sceGiveUp t id p 0x0402, sceKeyRequest id] s
  else
    let clamp := x.mode != 0 && (r.clamped || decide (x.goal p.typ * 21 < r.au.length * 20))
    let st := pickStatus p.conds
    let base := s.sceBuf id x p.buf
    let k := sampleSize x.bits
    let blocks := (List.range (pictureBlocks x.width x.height)).map (Config.sceBlock x.tools p.typ src refs r.qps)
    Act.seq [sceReads t id p (encRefs p c.pool),
      putPicture t base (picPitch x.width x.bits) (picRows x x.width x.height x.bits x.chroma)
        ((List.range (picSamples x.width x.height x.chroma)).flatMap fun i =>
          toLe k (Config.sceRecon x.tools p.typ src refs r.qps i % 2 ^ x.bits)),
      memWriteFrom t (base + x.planeBytes) ((List.range (motionBytes x.width x.height)).map (Config.sceMotion x.tools p.typ src refs r.qps)) false true,
      updSce id fun c => { c with pool := encMarks p (c.queue ++ c.gop) c.pool },
      .opt r.qps.getLast? fun v => setS (startQp p.typ) id v,
      setS F.SCE_RCSTAT_FILLED id (b2n (au.length != r.au.length)), setS F.SCE_RCSTAT_LASTBYTES id (min (2 ^ 24 - 1) au.length),
      .when clamp (.seq [setS F.SCE_RCSTAT_CLAMP id 1, countS F.SCE_SCNT_CLAMPS id 1]),
      sceStat t id p x.width x.height (qpMean (x.blockQps r.qps)) st au.length (blocks.map SceBlock.cost).sum
        (blocks.flatMap fun b => b.record true),
      auOut t id p.frame au, sceIdle t id cyc, countConditions id p.conds, workRecord id p.frame st (crc64 au),
      sceRetire t id p p.conds, scePump id] s

/-- A decoder's picture completes: what it decodes, its lost regions, the new marks, and what the output process then outputs
and discards (R286, R294 to R298). (DEDUCED, log entry 88) -/
def sceDoneDec (t id : Nat) (p : ScePic) (h : SceHdr) (stall : Nat) : Act := fun s =>
  let x := p.set
  let c := (s.stream id).sce
  let first := !c.decoded
  let au := s.sceData id p
  let whole := p.conds.contains 0x0201
  let absent := if whole then none else h.firstAbsent
  let failed := if whole then none else h.firstFailed au
  let event := p.event || absent.isSome || failed.isSome
  let conds := p.conds ++ (if event then [0x0203] else []) ++ if p.concealed then [0x0202] else []
  let ref (r : SceRef) : List Byte := ((refBuf c.pool c.slots r).map (s.refBytes id x)).getD (neutralBuf x h.seq.bits)
  let refs := (h.list0 ++ h.list1).map ref
  let samples := h.decode x au whole refs (h.list0.head?.map ref)
  let k := sampleSize h.seq.bits
  let bs := samples.flatMap (toLe k)
  let base := s.sceBuf id x p.buf
  let row (u : Nat) : Nat := u / max 1 h.unitCols
  let blocks := (List.range (pictureBlocks h.seq.width h.seq.height)).map (Config.sceDecBlock h au refs)
  let decoded (b : SceBuf) : SceBuf := { b with
    cur := false, frame := p.frame, ptime := p.ptime, conds := conds, digest := crc64 bs, frameNum := h.frameNum, poc := p.poc,
    seq := h.seq, grain := h.grain, owed := true, wait := false }
  Act.seq [sceReads t id p ((h.list0 ++ h.list1).filterMap (refBuf c.pool c.slots)),
    .opt absent fun u => sceErr t 3 id (row u) p.frame, .opt failed fun u => sceErr t 2 id (row u) p.frame,
    .when (absent.isSome || failed.isSome) (.seq [countS F.SCE_SCNT2_LOSTREG id 1, .when (!p.event) (sceEvent id)]),
    .when (h.key && !event) (setS F.SCE_SLIVE1_CONCEAL id 0),
    putPicture t base (picPitch x.width x.bits) (picRows x h.seq.width h.seq.height h.seq.bits h.seq.chroma) bs,
    memWriteFrom t (base + x.planeBytes) ((List.range (motionBytes x.width x.height)).map (Config.sceDecMotion h au refs)) false true,
    updSce id fun c => { c with
      pool := setBuf p.buf decoded (newMarks x.codec h first p.buf c)
      slots := slotsAfter h p.buf c.slots, decoded := true
      prevPoc := if h.isRef && h.kind != .rasl then p.poc else c.prevPoc
      prevNum := if h.isRef then some h.frameNum else c.prevNum },
    sceStat t id p h.seq.width h.seq.height (qpMean (blocks.map (·.qp))) (pickStatus conds) p.len 0 (blocks.flatMap fun b => b.record false),
    sceIdle t id (sceCycles false h.seq.width h.seq.height h.seq.chroma + stall),
    .read fun s =>
      let o := outputs x.codec h first p.buf (s.stream id).sce.pool
      .seq [updSce id fun c => { c with pool := o.2 }, .each o.1 (sceOutput t id), .each (discards o.1 o.2) (sceDiscard id)],
    sceRetire t id p p.conds, sceDrain id, scePump id] s

/-- `SCE_PICTURE_DONE`: the picture in progress on a tile completes. -/
def scePictureDoneX (t : Nat) (r : SceRes) : Act := fun s =>
  match (s.tile t).sceBusy with
  | none => []
  | some id => match (s.stream id).sce.run with
    | none => Act.seq [updT t fun c => { c with sceBusy := none }, setF F.SCE_STAT_BUSY t 0] s
    | some p => match p.hdr with
      | some h => sceDoneDec t id p h r.stall s
      | none => sceDoneEnc t id p r.stall s

/-- An SCE stream opens: its registers take their values at open, its pool is free, and its start QPs begin at `QP` (R284,
R290, R304). -/
def sceOpen (id : Nat) : Act := fun s =>
  let q := s.sget F.SCE_SW2_QP id
  Act.seq [.eff [.resetRegs fun k => k.inTile (homeOf id) && k.atIx (slotOf id) &&
      [Reg.SCE_SCTL, .SCE_SCMD, .SCE_SLIVE0, .SCE_SLIVE1, .SCE_RCSTAT, .SCE_SCNT, .SCE_SCNT2].contains k.reg],
    updSce id fun _ => { pool := List.replicate (s.sget F.SCE_SW6_POOLN id) {} },
    setS F.SCE_SLIVE1_QPI id q, setS F.SCE_SLIVE1_QPP id q, setS F.SCE_SLIVE1_QPB id q] s

/-- A barrier that completes releases the pictures whose consumer it stands behind (R35, R286): the learned encoder's own, or
without one the first that software issued after the picture was output. (DEDUCED, log entry 91) -/
def sceRelease (id : Nat) (b : LiveItem) : Act := fun s =>
  let lsc := bitOf (s.stream id).stages stLsc
  let due (e : SceBuf) : Bool := e.out && e.outAt.elim false fun m =>
    if lsc then b.q == stageQueue && m == b.no else b.q != stageQueue && decide (m ≤ b.no)
  updSce id (fun c => { c with pool := c.pool.map fun e => if due e then { e with out := false, outAt := none } else e }) s

/-- `BARRIER_COMPLETE`, with the pictures that it releases. (DEDUCED, log entry 91) -/
def barrierX (id : Nat) : Act := fun s =>
  match s.barrierDue id with
  | none => []
  | some b => Act.seq [barrierCompleteX id, .when (bitOf (s.stream id).stages stSce) (sceRelease id b)] s

/-! ## The commands -/

/-- `BARRIER_COMPLETE`. -/
def execBarrierComplete (id : Nat) (s : State) : Host.Outcome State Fault Refusal := done (barrierX id) s

/-- `SCE_INPUT_TAKEN`. -/
def execSceInputTaken (id : Nat) (s : State) : Host.Outcome State Fault Refusal := done (sceInputTakenX id) s

/-- `SCE_PICTURE_START`. -/
def execScePictureStart (t : Nat) (h : SceHdr) (s : State) : Host.Outcome State Fault Refusal := done (scePictureStartX t h) s

/-- `SCE_PICTURE_DONE`. -/
def execScePictureDone (t : Nat) (r : SceRes) (s : State) : Host.Outcome State Fault Refusal := done (scePictureDoneX t r) s

/-- `SCE_KEYREQ`. -/
def execSceKeyreq (q : Requester) (t : Nat) (s : State) : Host.Outcome State Fault Refusal := done (sceKeyreqX q t) s

/-- `SCE_RCRESET`. -/
def execSceRcreset (q : Requester) (t : Nat) (s : State) : Host.Outcome State Fault Refusal := done (sceRcresetX q t) s

end Sys2Proof.Machine
end

