-- ==== Sys2Proof/Machine/Requests.lean ====
section
/-! DEFINITION. Requests (R312 to R317): their checks, their replay windows, and what each opcode does (R309 to R311, R314). -/
namespace Sys2Proof.Machine

/-! ## Opcodes (R314) -/

def opOpen : Nat := 0x01
def opClose : Nat := 0x02
def opLoadprog : Nat := 0x03
def opUnloadprog : Nat := 0x04
def opNop : Nat := 0x05
def opInput : Nat := 0x10
def opSubmit : Nat := 0x11
def opBarrier : Nat := 0x12
def opKeyreq : Nat := 0x13
def opAdapt : Nat := 0x14
def opRevert : Nat := 0x15

/-- The payload size of an opcode; none for a reserved one. -/
def opSize (opc : Nat) : Option Nat :=
  if opc = opOpen ∨ opc = opAdapt then some 48 else if opc = opClose ∨ opc = opUnloadprog then some 8
  else if opc = opLoadprog then some 16 else if opc = opInput then some 24 else if opc = opSubmit then some 64
  else if opc = opNop ∨ opc = opBarrier ∨ opc = opKeyreq ∨ opc = opRevert then some 0 else none

/-- The `CTL` of a request suits its opcode. -/
def opCtlOk (opc : Nat) (ctl : Bool) : Bool := opc == opNop || (ctl == decide (opc < 0x10))

/-- The first eight bytes of a request (R312). -/
def reqHead (opc : Nat) (h : ReqHdr) : List Byte :=
  toLe 1 opc ++ toLe 1 h.flags ++ toLe 1 h.inst ++ toLe 1 h.epoch ++ toLe 2 h.stream ++ toLe 2 h.len

/-- A request read from its bytes: its opcode, header and payload. -/
def parseReq (b : List Byte) (pz : Bool) : Nat × ReqHdr × List Byte :=
  (leAt b 0 1,
   { flags := leAt b 1 1 % 2, inst := leAt b 2 1 % 64, epoch := leAt b 3 1, stream := leAt b 4 2 % 2 ^ 14, len := leAt b 6 2,
     seq := leAt b 8 4, digest := leAt b 12 2, poison := pz,
     rsvd := leAt b 1 1 / 2 != 0 || leAt b 2 1 / 64 != 0 || leAt b 4 2 / 2 ^ 14 != 0 || leAt b 14 2 != 0 || decide (b.length < 16) },
   (b.drop 16).take (leAt b 6 2))

/-- A request of the instance's control window. -/
def isCtl (h : ReqHdr) : Bool := bitOf h.flags 0

/-! ## Opening a stream (R307 to R310) -/

/-- The combinations of stages of R308. -/
def stagesOk (st : Nat) : Bool :=
  let b := st % 32
  decide (st < 64) && (b == 8 || (b != 0 && !bitOf b stHead) || (b == 0 && bitOf st stXfer))

/-- The stream that an `OPEN` names: with `ANY`, the lowest closed slot of the home tile. (DEDUCED, log entry 18) -/
def State.openTarget (s : State) (p : List Byte) : Option Nat :=
  let w := leAt p 0 2
  if bitOf w 15 then
    ((List.range 256).map fun k => w / 256 % 64 * 256 + k).find? fun id => s.slotState id == slotClosed
  else some (w % 2 ^ 14)

/-- The parts of an `OPEN` payload that name no slot keep R309. -/
def State.openFormOk (s : State) (n : Nat) (p : List Byte) : Bool :=
  let w := leAt p 0 2
  let tiles := s.tilesOf n
  !bitOf w 14 && stagesOk (leAt p 2 1) && decide (leAt p 3 1 < 8) && decide (leAt p 4 1 ≤ 9) && leAt p 5 3 == 0 &&
  leAt p 40 8 == 0 && decide (leAt p 24 8 < 2 ^ 40) && decide (leAt p 32 8 < 2 ^ 40) && tiles.contains (w / 256 % 64) &&
  (bitList 64 (leAt p 16 8)).all tiles.contains

/-- What refuses an `ING` stage (R356, R389): the codes that apply. -/
def State.openIng (s : State) (n id iblist : Nat) : List Nat :=
  let k := s.flowKey id
  let need := s.sget F.ING_SW4_NSLOT id * s.sget F.ING_SW4_SLOTKIB id * 1024
  (if s.sget F.ING_SW0_IKIND id ≤ 4 ∧ s.portInService k.port ∧ 2 ≤ s.sget F.ING_SW4_NSLOT id ∧
      4 ≤ s.sget F.ING_SW4_SLOTKIB id ∧ !(s.flows.any fun j => s.flowKey j == k) then [] else [0x0104]) ++
  (match s.blockList n iblist with
    | .ok l => if need ≤ blocksLen l then [] else [0x0104]
    | .bad => [0x0104]
    | .poisoned => [0x0201]) ++
  (if s.flowsOn (s.portTile k.port) < 2048 then [] else [0x0402])

/-- A learned-codec stage may open (R77): an encoder keeps its joined limits; a decoder names a loaded codec program and an
aligned pool base in the instance's memory. `LATONLY` is a decoder's (R179). -/
def State.openLsc (s : State) (n id : Nat) : Bool :=
  let pool := s.lscPool id
  pool % 4096 == 0 && s.tapsReserved (homeOf id) (slotOf id) (s.sget F.ECE_TAPCFG_TAPMASK id) &&
  (if s.sget F.ECE_LSCW0_DIR id = 0 then s.lscEncOk n id (s.sget · id) && s.sget F.ECE_TAPCFG_LATONLY id == 0
   else (s.prog n (s.sget F.ECE_LSCW7_PROG_ID id)).elim false Prog.isCodec && s.inMem n pool 4096)

/-- A head may open (R170, R176): its source is open in the instance, its program is a loaded head program, and its feature
ring lies in the instance's memory. -/
def State.openHead (s : State) (n id : Nat) : Bool :=
  let src := s.sget F.FXG_HDW0_SRC id
  let pages := s.sget F.FXG_HDW5_FRPAGES id
  s.isOpen src && (s.stream src).inst == n && bitOf (s.stream src).stages stLsc &&
  (s.prog n (s.sget F.FXG_HDW1_PROG_ID id)).elim false (·.head.isSome) &&
  (pages == 0 || s.inMem n (s.ringBase id) (pages * 4096))

/-- An `EGRESS` stage may open (R365): RTP carries an SCE encoder's access units out of a port in service. -/
def State.openEgress (s : State) (id stages : Nat) : Bool :=
  match s.sget F.LNK_SW0_EGKIND id with
  | 0 => true
  | 1 => bitOf stages stSce && s.sget F.SCE_SW0_DIR id == 0 && s.portInService (s.sget F.LNK_SW0_PORT id)
  | _ => false

/-- The codes of an `OPEN` for a slot: every check that fails has its own, of which R24 picks one. (DEDUCED, log entry 18) -/
def State.openCodes (s : State) (n : Nat) (p : List Byte) (id : Nat) : List Nat :=
  let st := leAt p 2 1
  let bad (c : Bool) : List Nat := if c then [0x0104] else []
  bad (s.slotState id != slotClosed) ++
    (if bitOf st stIng then s.openIng n id (leAt p 24 8) else []) ++
    bad (bitOf st stSce && !s.sceOk n id (s.sget · id)) ++ bad (bitOf st stLsc && !s.openLsc n id) ++
    bad (bitOf st stHead && !s.openHead n id) ++ bad (bitOf st stEgress && !s.openEgress id st)

/-- The status of an `OPEN` for a slot whose payload keeps R309. -/
def State.openStatus (s : State) (n : Nat) (p : List Byte) (id : Nat) : Nat := pickStatus (s.openCodes n p id)

/-- A slot opens: its context, its counters at zero, its stages, and its name (R310, R356, R386). -/
def openSlot (n epoch id : Nat) (p : List Byte) : Act :=
  let st := leAt p 2 1
  let x : Stream :=
    { inst := n, epoch := epoch, stages := st, cplcfg := leAt p 3 1, xfq := leAt p 4 1, seed := leAt p 8 8, tiles := leAt p 16 8,
      iblist := leAt p 24 8, oblist := leAt p 32 8, name := Config.streamName id }
  .seq [updS id fun _ => x,
    .eff [.resetRegs fun k => k.inTile (homeOf id) && k.atIx (slotOf id) &&
      [Reg.SMV_SCOND0, .SMV_SCOND1, .SMV_SCOND2, .SMV_SCOND3, .SMV_SLIVE0, .SMV_SLIVE1].contains k.reg],
    setS F.SMV_SLIVE0_STATE id slotOpen,
    .when (bitOf st stSce) (sceOpen id),
    .when (bitOf st stLsc) (.read fun s => if s.sget F.ECE_LSCW0_DIR id = 0 then lscEncOpen id else lscDecOpen id),
    .when (bitOf st stIng) (.seq [updIng id fun g => { g with flow := 1 },
      .read fun s => syncFlows (s.portTile (s.sget F.ING_SW0_PORT id))]),
    .when (bitOf st stHead) (headOpen id), dirRegister id, syncPins]

/-- `OPEN`. -/
def openRun (n : Nat) (r : LiveReq) (p : List Byte) : Act := fun s =>
  let w := leAt p 0 2
  let form := if s.openFormOk n p then [] else [0x0104]
  match s.openTarget p with
    | none => completeReq n r (pickStatus (form ++ [0x0402])) (w % 2 ^ 14) 0 s
    | some id =>
      let st := pickStatus (form ++ s.openCodes n p id)
      if st = 0 then Act.seq [openSlot n r.epoch id p, completeReq n r 0 id 0] s
      else Act.seq [
        .when (st == 0x0201) (smvErr (homeOf id) 5 id),
        .when (bitOf (leAt p 2 1) stIng && (s.openIng n id (leAt p 24 8)).contains 0x0402)
          (lnkErr (s.portTile (s.sget F.ING_SW0_PORT id)) 5 id (s.sget F.ING_SW0_PORT id)),
        completeReq n r st id 0] s

/-! ## Closing a stream (R311) -/

/-- `CLOSE`: the slot is closing. A decoder's open frame closes, an encoder's mini-GOP is coded, a head's windows end, and
nothing more enters. -/
def closeRun (n : Nat) (r : LiveReq) (p : List Byte) : Act := fun s =>
  let id := leAt p 0 2
  if 2 ^ 14 ≤ id ∨ leAt p 2 6 ≠ 0 ∨ !s.isOpen id ∨ (s.stream id).inst ≠ n then completeReq n r 0x0104 (id % 2 ^ 14) 0 s
  else
    Act.seq [updS id fun x => { x with closeReq := some r },
      .when (s.isLscDec id) (closeFrame id), .when (s.isSceEnc id) (sceFlush id),
      .when (bitOf (s.stream id).stages stHead) (closeHead id), dropFlow id,
      setS F.SMV_SLIVE0_STATE id slotClosing, sceDrain id] s

/-- The registers of a stream slot, in every block (R311). -/
def slotReg (id : Nat) (k : RegKey) : Bool :=
  k.inTile (homeOf id) &&
  (match k.reg.place.ix with
    | .sel sr => sr != .PRT_ISEL && sr != .LNK_HWSEL && k.atIx (slotOf id)
    | .select => k.reg == .FXG_HDSEL && k.atIx (4096 + slotOf id)
    | _ => false)

/-- Nothing of the stream is in flight: no item or write, no frame begun, no picture, nothing to send, no evaluation.
(DEDUCED, log entry 20) -/
def State.drained (s : State) (id : Nat) : Bool :=
  let x := s.stream id
  x.inFlight == 0 && (x.lsc.frames.all fun f => !f.ended) && x.sce.queue.isEmpty && x.sce.run.isNone && x.egress.isEmpty &&
  x.head.run.isNone && x.ing.ready.isEmpty

/-- A slot becomes closed. -/
def closeSlot (id : Nat) : Act := .seq
  [dirRemove id, dropFlow id, sourceGone id, .eff [.resetRegs (slotReg id)], updS id fun _ => {}, syncPins]

/-- `CLOSE_COMPLETE`: the in-flight count of a closing stream has reached zero. (DEDUCED, log entry 20) -/
def closeCompleteX (id : Nat) : Act := fun s =>
  if s.slotState id ≠ slotClosing ∨ !s.drained id then []
  else
    let x := s.stream id
    Act.seq [closeSlot id, .opt x.closeReq fun r => completeHeld x.inst r 0 id 0] s

/-! ## Inputs and work items (R314, R323, R325) -/

/-- The first stage of a stream that takes inputs. (DEDUCED, log entry 17) -/
def State.takesInput (s : State) (id : Nat) : Bool :=
  let st := (s.stream id).stages
  !bitOf st stIng && (bitOf st stSce || bitOf st stLsc)

/-- The 20 ms frames that an input holds for a Campion encoder: its samples interleaved by channel. -/
def State.inputFrames (s : State) (id len : Nat) : Nat :=
  let h := (s.stream id).lsc.shape
  if bitOf (s.stream id).stages stSce ∨ !h.camp then 1
  else len / max 1 (h.frameSamples * h.channels * (h.bits / 8))

/-- A request's item goes into a resident queue, or the queue is full (R323). (DEDUCED, log entry 15) -/
def submitTo (n : Nat) (r : LiveReq) (t q : Nat) (bs : List Byte) (flags : Nat) : Act := fun s =>
  if s.qFull t q then Act.seq [smvErr t 4 r.stream, completeReq n r 0x0402 r.stream 0] s
  else enqueue t q r.stream bs flags (some r) s

/-- `INPUT`: units for a learned decoder are taken at once; other inputs wait for the first stage. (DEDUCED, log entry 15) -/
def inputRun (n : Nat) (r : LiveReq) (p : List Byte) : Act := fun s =>
  let id := r.stream
  let off := leAt p 0 8
  let len := leAt p 8 4
  let t := homeOf id
  let pt := leAt p 16 8
  let refuse (st code : Nat) : Act := .seq [.when (code != 0) (smvErr t code id), completeReq n r st id 0]
  if !s.takesInput id ∨ leAt p 12 4 ≠ 0 ∨ (s.stream id).iblist = 0 then refuse 0x0104 0 s
  else match s.blockList n (s.stream id).iblist with
    | .bad => refuse 0x0104 3 s
    | .poisoned => refuse 0x0201 5 s
    | .ok l =>
      if blocksLen l < off + len then refuse 0x0104 2 s
      else if s.isLscDec id ∧ !bitOf (s.stream id).stages stSce then
        Act.seq [osfRx id none (s.bufPoisoned l off len) (s.readBuf l off len), completeReq n r 0 id 0] s
      else
        let i : InputItem := { frames := s.inputFrames id len, len := len, off := off, ptime := if pt = 0 then s.now else pt }
        submitTo n r t inputQueue (slotBytes id 5 0 0 r.seq r.epoch i.bytes) 0 s

/-- The tile and queue of a submitted item (R325): an array item's are its cut's, a Foxglove item's an overlay's where the
home tile runs one; none where it has none. (DEDUCED, log entry 16) -/
def State.itemPlace (s : State) (n id : Nat) (i : Item) : Option (Nat × Nat) :=
  let t := homeOf id
  match i.engine with
  | 0 =>
    match (s.prog n (leAt i.payload 0 2)).bind fun p => p.cuts[leAt i.payload 4 4]? with
    | some c => if leAt c.desc 7 1 ≤ 3 then some (c.tile, leAt c.desc 7 1) else none
    | none => if bitOf i.flags 0 then some (t, 0) else none
  | 2 => some (t, 16)
  | 3 => some (t, 6 + (s.stream id).xfq)
  | 5 => some (t, if (s.inst n).overlays.contains t then 18 else 17)
  | _ => none

/-- `SUBMIT`: one work-item slot. (DEDUCED, log entry 16) -/
def submitRun (n : Nat) (r : LiveReq) (p : List Byte) : Act := fun s =>
  let i := parseItem 0 0 p
  if i.stream ≠ r.stream ∨ i.engine = 1 ∨ i.engine = 4 then completeReq n r 0x0104 r.stream 0 s
  else match s.itemPlace n r.stream i with
    | none => Act.seq [smvErr (homeOf r.stream) 2 r.stream, completeReq n r 0x0104 r.stream 0] s
    | some (t, q) => submitTo n r t q p i.flags s

/-- The pseudo-queue of the barriers that `BARRIER` requests issue. (DESIGN CHOICE, log entry 14) -/
def barrierQueue : Nat := 20

/-- `BARRIER`: one barrier item, which completes with the request (R335). (DESIGN CHOICE, log entry 14) -/
def barrierRun (r : LiveReq) : Act := fun s =>
  Act.seq [addLive r.stream { tile := homeOf r.stream, q := barrierQueue, slot := (s.stream r.stream).barriers, flags := 1, req := some r }, syncLive r.stream] s

/-- `KEYREQ`: accepted by an SCE encoder or a learned-codec encoder. -/
def keyreqRun (n : Nat) (r : LiveReq) : Act := fun s =>
  let id := r.stream
  let e := s.isSceEnc id
  let l := s.isLscEnc id
  Act.seq [.when e (sceKeyRequest id), .when l (keyRequest id), completeReq n r (if e || l then 0 else 0x0104) id 0] s

/-- `ADAPT`: its window is queued, or it is refused (R185). -/
def adaptRun (n : Nat) (r : LiveReq) (p : List Byte) : Act := fun s =>
  let st := s.adaptStatus n r.stream p
  if st = 0 then adaptQueue r.stream r p s else completeReq n r st r.stream 0 s

/-- `REVERT` (R192). -/
def revertRun (n : Nat) (r : LiveReq) : Act := fun s =>
  let st := s.revertStatus n r.stream
  Act.seq [.when (st == 0) (revertHead r.stream), completeReq n r st r.stream 0] s

/-- Step 6 of R315: the execution of an accepted request. -/
def execute (n opc : Nat) (r : LiveReq) (p : List Byte) : Act :=
  let fin (st : Nat) : Act := completeReq n r st r.stream 0
  if !opCtlOk opc r.ctl then fin 0x0104
  else if opc = opOpen then openRun n r p
  else if opc = opClose then closeRun n r p
  else if opc = opLoadprog then loadprogRun n p fin
  else if opc = opUnloadprog then unloadprogRun n p fin
  else if opc = opInput then inputRun n r p
  else if opc = opSubmit then submitRun n r p
  else if opc = opBarrier then barrierRun r
  else if opc = opKeyreq then keyreqRun n r
  else if opc = opAdapt then adaptRun n r p
  else if opc = opRevert then revertRun n r
  else fin 0

/-! ## The replay window (R316, R317) -/

/-- What a window says of a request. -/
inductive Verdict where
  | newer | late | dup (e : WinEntry) | stale
  deriving DecidableEq, Repr

/-- The table of R316. -/
def Window.judge (w : Window) (seq : Nat) : Verdict :=
  match w.high with
  | none => .newer
  | some h =>
    let a := (h + 2 ^ 32 - seq) % 2 ^ 32
    if 2 ^ 31 < a then .newer
    else if 64 ≤ a then .stale
    else match w.entries.find? (·.seq == seq) with
      | some e => .dup e
      | none => .late

/-- A window after a request is accepted: a newer one evicts the entries 64 or more behind it. -/
def Window.enter (w : Window) (seq digest : Nat) (newer : Bool) : Window :=
  if newer then
    { high := some seq, entries := (w.entries.filter fun e => decide ((seq + 2 ^ 32 - e.seq) % 2 ^ 32 < 64)) ++ [⟨seq, digest, none, []⟩] }
  else { w with entries := w.entries ++ [⟨seq, digest, none, []⟩] }

/-- The stream that a record of a request names (R318). (DEDUCED, log entry 12) -/
def recStream (opc : Nat) (h : ReqHdr) (p : List Byte) : Nat :=
  if !isCtl h then h.stream else if opc = opOpen ∨ opc = opClose then leAt p 0 2 % 2 ^ 14 else 0

/-- A request that no window records is answered with a status. -/
def answer (o : Origin) (opc : Nat) (h : ReqHdr) (p : List Byte) (st : Nat) : Act := fun s =>
  deliver o ⟨s.now, 0, h.seq, recStream opc h p, st, 0, h.inst, h.epoch, 0⟩ s

/-- A duplicate (R317): its record is a copy of the stored one, once there is one; a different digest is a conflict.
(DEDUCED, log entries 11, 13) -/
def duplicate (o : Origin) (opc : Nat) (h : ReqHdr) (p : List Byte) (e : WinEntry) : Act := .seq
  [.when (!isCtl h) (countS F.SMV_SCOND3_DUP h.stream 1),
   if e.digest ≠ h.digest then answer o opc h p 0x0102
   else match e.done with
    | some c => deliver o c.replay
    | none => updW h.inst (isCtl h) h.stream fun w => { w with entries := w.entries.map fun g =>
        if g.seq = e.seq then { g with dups := g.dups ++ [o] } else g }]

/-- An accepted request is entered in its window and executed. -/
def accept (o : Origin) (opc : Nat) (h : ReqHdr) (p : List Byte) (newer : Bool) : Act :=
  let r : LiveReq := ⟨o, opc, isCtl h, if isCtl h then 0 else h.stream, h.epoch, h.seq⟩
  .seq [updW h.inst (isCtl h) h.stream fun w => w.enter h.seq h.digest newer,
    .when (newer && !isCtl h) (setS F.SMV_SLIVE1_HIGH h.stream h.seq),
    updI h.inst fun x => { x with reqs := x.reqs ++ [r] },
    execute h.inst opc r p]

/-! ## The checks of R315 -/

/-- The tile that records a refusal: the ring's, or for a Movon request the stream's home or the instance's first tile.
(DEDUCED, log entry 10) -/
def State.reqTile (s : State) (o : Origin) (h : ReqHdr) : Nat :=
  match o with
  | .ring t _ => t
  | _ => if isCtl h then s.firstTile h.inst else homeOf h.stream

/-- Step 1: the instance is the ring's, or one that the peer may address; the header's reserved fields are zero, `STREAM`
among them with `CTL` = 1; `LEN` is at most 112. -/
def State.reqHeaderOk (s : State) (o : Origin) (h : ReqHdr) : Bool :=
  (match o with
    | .ring t _ => s.owner t == some h.inst
    | .movon peer _ => bitOf (s.peer peer).mask h.inst && s.instState h.inst != instFree
    | .image => s.instState h.inst != instFree) &&
  !h.rsvd && decide (h.flags < 2) && decide (h.len ≤ 112) && (!isCtl h || h.stream == 0)

/-- The status that steps 2 to 4 refuse a request with; 0 where they pass it. (DEDUCED, log entry 9) -/
def State.reqStatus (s : State) (opc : Nat) (h : ReqHdr) (p : List Byte) : Nat :=
  if h.epoch ≠ s.epoch h.inst ∨ s.instState h.inst ≠ instActive then 0x0401
  else if h.digest ≠ rdigest (reqHead opc h) p ∨ p.length ≠ h.len ∨ opSize opc ≠ some h.len then 0x0104
  else if !isCtl h ∧ !(s.isOpen h.stream ∧ (s.stream h.stream).inst = h.inst) then 0x0104
  else 0

/-- A request is checked in the order of R315 and executed. Before S9 only those of the image are taken (R444).
(DEDUCED, log entries 8, 9) -/
def handleRequest (o : Origin) (opc : Nat) (h : ReqHdr) (p : List Byte) : Act := fun s =>
  let t := s.reqTile o h
  if s.stage ≠ 9 ∧ o ≠ .image then []
  else if h.poison then smvErr t 5 0 s
  else if !s.reqHeaderOk o h then smvErr t 1 h.stream s
  else
    let st := s.reqStatus opc h p
    if st ≠ 0 then Act.seq [smvErr t 1 h.stream, answer o opc h p st] s
    else match (s.window h.inst (isCtl h) h.stream).judge h.seq with
      | .newer => accept o opc h p true s
      | .late => accept o opc h p false s
      | .stale => answer o opc h p 0x0103 s
      | .dup e => duplicate o opc h p e s

/-! ## The commands -/

/-- `OPEN`. -/
def execOpen (o : Origin) (h : ReqHdr) (p : List Byte) (s : State) : Host.Outcome State Fault Refusal := done (handleRequest o opOpen h p) s

/-- `CLOSE`. -/
def execClose (o : Origin) (h : ReqHdr) (p : List Byte) (s : State) : Host.Outcome State Fault Refusal := done (handleRequest o opClose h p) s

/-- `CLOSE_COMPLETE`. -/
def execCloseComplete (id : Nat) (s : State) : Host.Outcome State Fault Refusal := done (closeCompleteX id) s

/-- `LOADPROG`. -/
def execLoadprog (o : Origin) (h : ReqHdr) (p : List Byte) (s : State) : Host.Outcome State Fault Refusal :=
  done (handleRequest o opLoadprog h p) s

/-- `UNLOADPROG`. -/
def execUnloadprog (o : Origin) (h : ReqHdr) (p : List Byte) (s : State) : Host.Outcome State Fault Refusal :=
  done (handleRequest o opUnloadprog h p) s

/-- `NOP`. -/
def execNop (o : Origin) (h : ReqHdr) (p : List Byte) (s : State) : Host.Outcome State Fault Refusal := done (handleRequest o opNop h p) s

/-- `INPUT`. -/
def execInput (o : Origin) (h : ReqHdr) (p : List Byte) (s : State) : Host.Outcome State Fault Refusal := done (handleRequest o opInput h p) s

/-- `SUBMIT`. -/
def execSubmit (o : Origin) (h : ReqHdr) (p : List Byte) (s : State) : Host.Outcome State Fault Refusal := done (handleRequest o opSubmit h p) s

/-- `BARRIER`. -/
def execBarrier (o : Origin) (h : ReqHdr) (p : List Byte) (s : State) : Host.Outcome State Fault Refusal := done (handleRequest o opBarrier h p) s

/-- `KEYREQ`. -/
def execKeyreq (o : Origin) (h : ReqHdr) (p : List Byte) (s : State) : Host.Outcome State Fault Refusal := done (handleRequest o opKeyreq h p) s

/-- `ADAPT`. -/
def execAdapt (o : Origin) (h : ReqHdr) (p : List Byte) (s : State) : Host.Outcome State Fault Refusal := done (handleRequest o opAdapt h p) s

/-- `REVERT`. -/
def execRevert (o : Origin) (h : ReqHdr) (p : List Byte) (s : State) : Host.Outcome State Fault Refusal := done (handleRequest o opRevert h p) s

end Sys2Proof.Machine
end

