-- ==== Sys2Proof/Machine/Ingest.lean ====
section
/-! DEFINITION. Ingest (R356 to R364, R366): access units, raw frames and plots from their packets to the input slots of their
stream. -/
namespace Sys2Proof.Machine

/-! ## Input slots (R364) -/

/-- Inputs that wait get their work items, in order, while the queue has room (R323); an item waits for the barrier between
ingest and its stage (R308). (DEDUCED, log entry 105) -/
def ingPump (id : Nat) : Act := fun s =>
  Act.each (s.stream id).ing.ready (fun b => fun s =>
    let t := homeOf id
    if s.qFull t inputQueue ∨ (s.stream id).ing.ready.head? ≠ some b then []
    else
      let size := max 1 (s.sget F.ING_SW4_SLOTKIB id * 1024)
      let slot := s.get F.SMV_QTAIL_TAIL t inputQueue
      Act.seq [stageBarrier id, enqueue t inputQueue id (slotBytes id 5 2 0 0 (s.stream id).epoch b) 2 none,
        updIng id fun g => { g with ready := g.ready.tail, used := g.used ++ [((InputItem.parse b).off / size, slot)] }] s) s

/-- The input slots of a stream whose work item has not completed. -/
def State.slotsUsed (s : State) (id : Nat) : List (Nat × Nat) :=
  (s.stream id).ing.used.filter fun e => (s.stream id).items.any fun i => i.tile == homeOf id && i.q == inputQueue && i.slot == e.2 && !i.done

/-- The `INCOND` bits of codes that ingest gives (R142). -/
def ingIncond (conds : List Nat) : Nat :=
  (if conds.contains 0x0204 then 2 else 0) + (if conds.contains 0x0205 then 4 else 0) + (if conds.contains 0x0206 then 8 else 0)

/-- A unit goes to the next input slot and waits for the first stage; one that finds no free slot, or exceeds its slot, is
dropped whole. (DEDUCED, log entry 103) -/
def deliverUnit (id ptime frames : Nat) (bs : List Byte) (conds : List Nat) : Act := fun s =>
  let x := s.stream id
  let size := s.sget F.ING_SW4_SLOTKIB id * 1024
  let k := x.ing.next
  let used := s.slotsUsed id
  let i : InputItem := { incond := ingIncond conds, frames := frames, len := bs.length, off := k * size, ptime := ptime, conds := conds }
  if bs = [] then []
  else if size < bs.length ∨ used.any (·.1 == k) ∨ (x.ing.ready.any fun b => (InputItem.parse b).off == k * size) then
    countS F.ING_SCNT1_OVERRUN id 1 s
  else match s.blockList x.inst x.iblist with
    | .ok l => Act.seq [writeBuf (s.portTile (s.sget F.ING_SW0_PORT id)) x.inst l (k * size) bs false true,
        updIng id fun g => { g with next := (k + 1) % max 1 (s.sget F.ING_SW4_NSLOT id), used := used, ready := g.ready ++ [i.bytes] },
        ingPump id] s
    | _ => Act.seq [smvErr (homeOf id) 3 id, countS F.ING_SCNT1_OVERRUN id 1] s

/-! ## The shape of the next stage (R357) -/

/-- The width, height, bits and chroma (0 one plane, 1 4:2:0, 2 4:2:2, 3 4:4:4) of the stage that follows. -/
def State.rawShape (s : State) (id : Nat) : Nat × Nat × Nat × Nat :=
  if bitOf (s.stream id).stages stSce then
    (s.slive F.SCE_SW1_WIDTH id, s.slive F.SCE_SW1_HEIGHT id, s.slive F.SCE_SW0_BITS id, s.slive F.SCE_SW0_CHROMA id)
  else
    (s.slive F.ECE_LSCW1_WIDTH id, s.slive F.ECE_LSCW1_HEIGHT id, s.slive F.ECE_LSCW0_BITS id,
     if s.slive F.ECE_LSCW0_CHROMA id = 2 then 3 else s.slive F.ECE_LSCW0_CHROMA id)

/-- The samples a second, the channels and the bytes of a sample of an audio stream. -/
def State.audioRate (s : State) (id : Nat) : Nat := 500 * [32, 48, 64, 96, 192].getD (s.slive F.ECE_LSCW1_RATE id) 32
def State.audioChannels (s : State) (id : Nat) : Nat := s.slive F.ECE_LSCW1_CHANNELS id
def State.audioBytes (s : State) (id : Nat) : Nat := s.slive F.ECE_LSCW0_BITS id / 8

/-- A unit begins: the shadowed settings come into force unless they are held (R529). (DEDUCED, log entry 105) -/
def unitBoundary (id : Nat) : Act := fun s =>
  Act.when (s.sget F.ING_SCTL_HOLD id == 0) (applyRegs id [.ING_SW0, .ING_SW1, .ING_SW3]) s

/-- A packet is discarded as late or repeated. -/
def lateCount (id n : Nat) : Act := countS F.ING_SCNT0_LATEPKT id n

/-- A packet or frame is discarded under R356, R359 or R362. -/
def discard (id : Nat) : Act := countS F.ING_SCNT1_DISCARD id 1

/-! ## RTP video (R358) -/

/-- How far 16-bit sequence number `b` lies after `a`, and that it lies after it. -/
def seqDist (a b : Nat) : Nat := (b + 65536 - a % 65536) % 65536
def seqAfter (a b : Nat) : Bool := decide (1 ≤ seqDist a b) && decide (seqDist a b < 32768)

/-- The first and the last sequence number received of a unit. (DEDUCED, log entry 102) -/
def IngUnit.lo (u : IngUnit) : Nat := u.pkts.foldl (fun a b => if seqAfter b a then b else a) u.seq0
def IngUnit.hi (u : IngUnit) : Nat := u.pkts.foldl (fun a b => if seqAfter a b then b else a) u.seq0

/-- The marked packet has come, and every one from the first packet to it. -/
def IngUnit.whole (u : IngUnit) : Bool :=
  u.marker.elim false fun m => (List.range (seqDist u.lo m + 1)).all fun k => u.pkts.contains ((u.lo + k) % 65536)

/-- The NAL units of a unit that came whole, each after its start code; one that misses a fragment is left out. -/
def IngUnit.annexB (u : IngUnit) : List Byte :=
  let ps := u.nals.mergeSort fun a b =>
    decide (seqDist u.lo a.seq < seqDist u.lo b.seq) || (a.seq == b.seq && decide (a.ord ≤ b.ord))
  let step (a : List (List Byte) × Option (Nat × List Byte)) (p : IngNal) : List (List Byte) × Option (Nat × List Byte) :=
    if p.first ∧ p.last then (a.1 ++ [p.data], none)
    else if p.first then (a.1, some (p.seq, p.data))
    else match a.2 with
      | some (q, d) =>
        if p.seq ≠ (q + 1) % 65536 then (a.1, none)
        else if p.last then (a.1 ++ [d ++ p.data], none) else (a.1, some (p.seq, d ++ p.data))
      | none => a
  (ps.foldl step ([], none)).1.flatMap ([0, 0, 0, 1] ++ ·)

/-- Timestamp `b` is later than `a`. -/
def tsLater (a b : Nat) : Bool := frameLater b a

/-! ## Raw frames (R359, R360) -/

/-- A line as its luma, first and second chroma samples. -/
abbrev Line := List Nat × List Nat × List Nat

/-- Samples of two bytes. -/
def pairs16 : List Byte → List Nat
  | a :: b :: l => (a.toNat + 256 * b.toNat) :: pairs16 l
  | _ => []

/-- A line of YUV422_8_UYVY. -/
def uyvy : List Byte → Line
  | u :: y0 :: v :: y1 :: l => let r := uyvy l; (y0.toNat :: y1.toNat :: r.1, u.toNat :: r.2.1, v.toNat :: r.2.2)
  | _ => ([], [], [])

/-- The samples of a line. -/
def readLine (bits : Nat) (yuv : Bool) (b : List Byte) : Line :=
  if yuv then uyvy b else (if bits ≤ 8 then b.map (·.toNat) else pairs16 b, [], [])

/-- Samples cropped to a width, or padded with the last one. -/
def fitTo (w : Nat) (l : List Nat) : List Nat := (l ++ List.replicate (w - l.length) (l.getLastD 0)).take w

/-- A line cropped or padded to the width. -/
def Line.fit (w : Nat) (yuv : Bool) (l : Line) : Line :=
  if yuv then (fitTo w l.1, fitTo (w / 2) l.2.1, fitTo (w / 2) l.2.2) else (fitTo w l.1, [], [])

/-- A line of one luma and one chroma value. -/
def flatLine (w : Nat) (yuv : Bool) (y c : Nat) : Line :=
  let k := List.replicate (if yuv then w / 2 else 0) c
  (List.replicate w y, k, k)

/-- The lines of a frame: those received, cropped or padded, and the missing ones filled under `PADMODE` (R360). -/
def fillLines (w h bits pad : Nat) (yuv : Bool) (got : List (Nat × Line)) : List Line :=
  let have_ := got.filter fun e => decide (e.1 < h)
  let mid := 2 ^ (bits - 1)
  (List.range h).map fun r =>
    match have_.find? (·.1 == r) with
    | some e => e.2.fit w yuv
    | none =>
      if have_ = [] ∨ pad = 2 then flatLine w yuv mid mid
      else if pad = 1 then flatLine w yuv 0 mid
      else
        let above := (have_.filter fun e => decide (e.1 < r)).foldl (fun (a : Nat × Line) e => if a.1 ≤ e.1 then e else a) (0, ([], [], []))
        let below := (have_.filter fun e => decide (r < e.1)).foldl (fun (a : Nat × Line) e => if e.1 ≤ a.1 then e else a) (2 ^ 32, ([], [], []))
        (if have_.any fun e => decide (e.1 < r) then above.2 else below.2).fit w yuv

/-- The mean of two samples, rounded half up (R97). -/
def mean2 (a b : Nat) : Nat := (a + b + 1) / 2

/-- Lines averaged in vertical pairs. -/
def pairLines : List (List Nat) → List (List Nat)
  | a :: b :: l => List.zipWith mean2 a b :: pairLines l
  | _ => []

/-- The bytes of samples. -/
def sampleBytes (bits : Nat) (l : List Nat) : List Byte := l.flatMap (toLe (if bits ≤ 8 then 1 else 2))

/-- A raw frame as it is written: its planes in turn, each row by row. (DEDUCED, log entry 104) -/
def planes (bits chroma : Nat) (l : List Line) : List Byte :=
  let c (f : Line → List Nat) : List (List Nat) := if chroma = 1 then pairLines (l.map f) else l.map f
  ((l.map (·.1)) ++ (if chroma = 0 then [] else c (·.2.1) ++ c (·.2.2))).flatMap (sampleBytes bits)

/-- The pixel format of a frame suits the stage: one plane, or YUV422_8_UYVY for 4:2:2 or 4:2:0. (DEDUCED, log entry 103) -/
def formatFits (bits chroma : Nat) (sh : Nat × Nat × Nat × Nat) : Bool :=
  bits == sh.2.2.1 && ((chroma == 0 && sh.2.2.2 == 0) || (chroma == 2 && (sh.2.2.2 == 1 || sh.2.2.2 == 2)))

/-- A raw frame at its close: its bytes and conditions, or none where its format does not fit. (DEDUCED, log entry 104) -/
def IngUnit.frame (u : IngUnit) : Option (List Byte × List Nat) :=
  let w := u.shape.1
  let h := u.shape.2.1
  let bits := u.shape.2.2.1
  let yuv := u.shape.2.2.2 != 0
  if !(u.leader.elim true fun l => formatFits l.2.2.1 l.2.2.2 u.shape) then none
  else
    let got := (u.parts.map fun e => (e.1, readLine bits yuv e.2)).filter fun e => e.2.1 != []
    let short := decide ((got.filter fun e => decide (e.1 < h)).length < h) || got.any fun e => decide (e.2.1.length < w)
    let long := got.any fun e => decide (h ≤ e.1) || decide (w < e.2.1.length)
    some (planes bits u.shape.2.2.2 (fillLines w h bits u.pad yuv got),
      (if short then [0x0204] else []) ++ (if long then [0x0205] else []))

/-! ## Closing a unit -/

/-- Packets of a video unit found missing: from the unit before to its last packet. (DEDUCED, log entry 102) -/
def IngUnit.lost (u : IngUnit) (last : Option Nat) : Nat :=
  match last with
  | some k => if seqAfter k u.hi then seqDist k u.hi - u.pkts.length else 0
  | none => seqDist u.lo u.hi + 1 - u.pkts.length

/-- Packets of a raw frame found missing, by their packet numbers. -/
def IngUnit.lostRaw (u : IngUnit) : Nat := (u.pkts.foldl max 0) + 1 - u.pkts.length

/-- The bytes of a plot, its samples interleaved by channel, and whether some were filled with zeros. -/
def IngUnit.plot (u : IngUnit) (rate frameBytes : Nat) : List Byte × Bool :=
  let l := (List.range rate).map fun i => u.parts.find? (·.1 == u.key + i)
  (l.flatMap fun e => e.elim (List.replicate frameBytes 0) (·.2), l.any Option.isNone)

/-- A unit closes (R358, R359, R361). (DEDUCED, log entry 103) -/
def closeUnit (id : Nat) (u : IngUnit) : Act := fun s =>
  let k := s.sget F.ING_SW0_IKIND id
  Act.seq [updIng id fun g => { g with
        units := g.units.erase u,
        closed := some (g.closed.elim u.key fun c => if 3 ≤ k then max c u.key else u.key),
        lastSeq := if k ≤ 1 then some u.hi else g.lastSeq },
    setS F.ING_SLIVE0_UNITS id ((s.sget F.ING_SLIVE0_UNITS id + 1) % 2 ^ 32),
    if k ≤ 1 then .seq [countS F.ING_SCNT0_LOSTPKT id (u.lost (s.stream id).ing.lastSeq), deliverUnit id u.ptime 1 u.annexB []]
    else if k = 2 then .seq [countS F.ING_SCNT0_LOSTPKT id u.lostRaw,
      match u.frame with
      | some f => deliverUnit id u.ptime 1 f.1 f.2
      | none => discard id]
    else
      let p := u.plot (s.audioRate id) (s.audioChannels id * s.audioBytes id)
      deliverUnit id u.ptime 50 p.1 (if p.2 then [0x0206] else [])] s

/-- A change of an open unit. -/
def updUnit (id key : Nat) (f : IngUnit → IngUnit) : Act :=
  updIng id fun g => { g with units := g.units.map fun u => if u.key = key then f u else u }

/-- A unit opens. -/
def openUnit (id : Nat) (u : State → IngUnit) : Act := .seq
  [unitBoundary id, .read fun s => updIng id fun g => { g with units := g.units ++ [u s] }]

/-! ## Packets -/

/-- An RTP video packet joins its unit; the marker of a whole unit closes it. -/
def videoAdd (id seq ts : Nat) (marker : Bool) (parts : List NalPart) : Act := .seq
  [updUnit id ts fun u => { u with
      pkts := u.pkts ++ [seq],
      marker := if marker then some seq else u.marker,
      nals := u.nals ++ parts.zipIdx.map fun p => ⟨seq, p.2, p.1.first, p.1.last, p.1.data⟩ },
   .read fun s => .opt ((s.stream id).ing.units.find? (·.key == ts)) fun u => .when u.whole (closeUnit id u)]

/-- An RTP video packet (R358). -/
def rtpVideo (id seq ts : Nat) (marker : Bool) (parts : List NalPart) : Act := fun s =>
  let g := (s.stream id).ing
  let fresh : Act := .seq [openUnit id fun s => { key := ts, ptime := s.now, seq0 := seq }, videoAdd id seq ts marker parts]
  match g.units with
  | u :: _ =>
    if u.key = ts then (if u.pkts.contains seq then lateCount id 1 s else videoAdd id seq ts marker parts s)
    else if tsLater u.key ts then Act.seq [closeUnit id u, fresh] s
    else lateCount id 1 s
  | [] => if g.closed.elim true (tsLater · ts) then fresh s else lateCount id 1 s

/-- A packet of a GVSP block (R359): its number and what it adds; a trailer closes the frame. -/
def gvsp (id block pkt : Nat) (add : IngUnit → IngUnit) (trailer : Bool) : Act := fun s =>
  let g := (s.stream id).ing
  let put : Act := .seq [updUnit id block fun u => add { u with pkts := u.pkts ++ [pkt] },
    .when trailer (.read fun s => .opt ((s.stream id).ing.units.find? (·.key == block)) (closeUnit id))]
  let fresh : Act := .seq [openUnit id fun s => { key := block, ptime := s.now, pad := s.slive F.ING_SW0_PADMODE id, shape := s.rawShape id }, put]
  match g.units with
  | u :: _ =>
    if u.key = block then (if u.pkts.contains pkt then lateCount id 1 s else put s)
    else if g.closed = some block then lateCount id 1 s
    else Act.seq [closeUnit id u, fresh] s
  | [] => if g.closed = some block then lateCount id 1 s else fresh s

/-- The start of the plot that holds a sample: a second apart from the plots known, the first plot from the first sample.
(DEDUCED, log entry 102) -/
def Ing.plotOf (g : Ing) (rate idx : Nat) : Nat :=
  match g.closed.or (g.units.head?.map (·.key)) with
  | some b => ((b : Int) + ((idx : Int) - b).fdiv rate * rate).toNat
  | none => idx

/-- One sample of every channel is placed by its index (R361). -/
def putSample (id rate idx : Nat) (ptimeOf : State → Nat → Nat) (b : List Byte) : Act := fun s =>
  let g := (s.stream id).ing
  let k := g.plotOf rate idx
  if g.closed.elim false fun c => decide (k ≤ c) then lateCount id 1 s
  else if g.units.any fun u => u.key == k && u.parts.any (·.1 == idx) then lateCount id 1 s
  else Act.seq [.when (!(g.units.any (·.key == k))) (openUnit id fun s => { key := k, ptime := ptimeOf s k }),
    updUnit id k fun u => { u with parts := u.parts ++ [(idx, b)] }] s

/-- AES67 (R361, R363): the sample count at the arrival, and the count that a timestamp names nearest to it. -/
def aesCount (now rate ts : Nat) : Nat :=
  let m : Nat := now * rate / 10 ^ 9
  let d : Nat := (ts + 2 ^ 32 - m % 2 ^ 32) % 2 ^ 32
  ((m : Int) + toSigned 32 d).toNat

/-- An AES67 packet. -/
def rtpAudio (id ts : Nat) (samples : List (List Nat)) : Act := fun s =>
  let rate := s.audioRate id
  let ofs := s.slive F.ING_SW3_TSOFF id
  let n := aesCount s.now rate ts
  let w := s.audioBytes id
  let ch := s.audioChannels id
  Act.each samples.zipIdx (fun e =>
    putSample id rate ((n + e.2 + 2 ^ 64 - ofs) % 2 ^ 64) (fun _ k => cdiv ((k + ofs) % 2 ^ 64 * 10 ^ 9) rate)
      ((List.range ch).flatMap fun c => toLe w (e.1.getD c 0))) s

/-- A Movon sample packet (R362): its rate, channels, width and length keep the table, and its samples are placed. -/
def samplePacket (id : Nat) (b : List Byte) : Act := fun s =>
  let w := s.audioBytes id
  let ch := s.audioChannels id
  let n := beAt b 6 2
  let rate := s.audioRate id
  let t0 := beAt b 24 8
  if beAt b 0 2 ≠ 0x4D53 ∨ beAt b 2 1 ≠ 1 ∨ beAt b 3 1 + 2 ≠ w ∨ beAt b 4 1 ≠ ch ∨ ch = 0 ∨ beAt b 5 1 ≠ s.slive F.ECE_LSCW1_RATE id ∨
      n = 0 ∨ 1024 < n ∨ beAt b 20 4 ≠ 0 ∨ b.length ≠ 32 + n * ch * w then discard id s
  else
    Act.each (List.range n) (fun i =>
      putSample id rate ((beAt b 8 8 + i) % 2 ^ 64) (fun _ k => t0 + k * 10 ^ 9 / rate)
        ((List.range ch).flatMap fun c => ((b.drop (32 + (i * ch + c) * w)).take w).reverse)) s

/-- A datagram that matches a stream's flow key (R356). -/
def ingestRx (id : Nat) (b : UdpBody) : Act := fun s =>
  let k := s.sget F.ING_SW0_IKIND id
  let ptOk (pt : Nat) : Bool := s.sget F.ING_SW1_PT id == pt
  match b with
  | .rtpVideo pt seq ts _ m ps => if k ≤ 1 ∧ ptOk pt then rtpVideo id seq ts m ps s else discard id s
  | .rtpAudio pt _ ts _ l => if k = 3 ∧ ptOk pt then rtpAudio id ts l s else discard id s
  | .gvspLeader blk x y bits c =>
    if k = 2 then gvsp id blk 0 (fun u => { u with leader := some (x, y, bits, c), ptime := s.now }) false s
    else discard id s
  | .gvspLines blk pkt first ls =>
    if k = 2 then gvsp id blk pkt (fun u => { u with parts := u.parts ++ ls.zipIdx.map fun e => (first + e.2, e.1) }) false s else discard id s
  | .gvspTrailer blk pkt => if k = 2 then gvsp id blk pkt (fun u => u) true s else discard id s
  | .bytes b => if k = 4 then samplePacket id b s else discard id s

/-- The SSRC or sample source that a datagram names. -/
def bodySsrc : UdpBody → Option Nat
  | .rtpVideo _ _ _ x _ _ => some x
  | .rtpAudio _ _ _ x _ => some x
  | .bytes b => some (beAt b 16 4)
  | _ => none

/-- The stream whose flow key a datagram matches, a key with its source before one without. (DEDUCED, log entry 106) -/
def State.flowOf (s : State) (port vlan dport : Nat) (b : UdpBody) : Option Nat :=
  let m (src : Option Nat) : Option Nat := s.flows.find? fun id => s.flowKey id == ⟨port, vlan, dport, src⟩
  match bodySsrc b with
  | some x => (m (some x)).or (m none)
  | none => m none

/-! ## Timers -/

/-- `INGEST_AUWAIT_EXPIRY`: `AUWAIT` has passed for the oldest open unit of a stream. -/
def ingestAuwaitExpiryX (id : Nat) : Act := fun s =>
  match (s.stream id).ing.units with
  | [] => []
  | u :: us => closeUnit id (us.foldl (fun a b => if 3 ≤ s.sget F.ING_SW0_IKIND id ∧ b.key < a.key then b else a) u) s

/-- `RTCP_RR_TIMER`: 5 s have passed; an RTP ingest stream sends a receiver report (R366). (DEDUCED, log entry 106) -/
def rtcpRrTimerX (id : Nat) : Act := fun s =>
  let k := s.sget F.ING_SW0_IKIND id
  Act.when (s.isOpen id && (s.stream id).ing.flow == 1 && (decide (k ≤ 1) || k == 3) && s.portUp (s.sget F.ING_SW0_PORT id))
    (emit (.rtcp id 0)) s

/-! ## The commands -/

/-- `INGEST_AUWAIT_EXPIRY`. -/
def execIngestAuwaitExpiry (id : Nat) (s : State) : Host.Outcome State Fault Refusal := done (ingestAuwaitExpiryX id) s

/-- `RTCP_RR_TIMER`. -/
def execRtcpRrTimer (id : Nat) (s : State) : Host.Outcome State Fault Refusal := done (rtcpRrTimerX id) s

end Sys2Proof.Machine
end

