-- ==== Sys2Proof/Machine/Movon.lean ====
section
/-! DEFINITION. Movon (R373 to R386, R431, R432): receiving frames, the link layer of each path, messages and their ends, and
the link-transmit items that egress streams send (R365). -/
namespace Sys2Proof.Machine

/-! ## Paths and received frames (R376, R381) -/

/-- The local path that a frame came in on: the first of the peer's paths with the port, VLAN and sender's address. -/
def State.mvPath (s : State) (f : MvFrame) : Option Nat :=
  let r := s.peer f.src
  if r.kind = 0 then none
  else (List.range r.paths.length).find? fun p =>
    let c := r.paths.getD p {}
    c.port == f.port && c.vlan == f.vlan && (if r.enc = 0 then c.mac == f.addr else c.addr == f.addr && c.udp == f.udp)

/-- What a peer may send through the management port: a `REQ` with `CTL` = 1 and a `CPL`, and what answers them (R375). -/
def mgmtAllows (f : MvFrame) : Bool :=
  f.mtype == mtCpl || f.mtype == mtResp || f.mtype == mtProbe || f.mtype == mtLinkAck ||
  (f.mtype == mtReq && bitOf (leAt f.payload 1 1) 0)

/-- The checks of R381 and R374, and the path the frame came on. -/
def State.mvAccepts (s : State) (f : MvFrame) : Option Nat :=
  let r := s.peer f.src
  let plain := f.mtype == mtResp || f.mtype == mtProbe || f.mtype == mtLinkAck
  if f.crcOk && f.dst == s.devNum && decide (1 ≤ f.mtype) && decide (f.mtype ≤ 9) && (plain || bitOf r.mask f.inst) &&
      decide (f.payload.length ≤ 8192) && decide (f.foff + f.payload.length ≤ f.msglen) &&
      (f.port != mgmtPort || (r.mgmt && mgmtAllows f)) then s.mvPath f
  else none

/-- The tile of a path's port. -/
def State.pathTile (s : State) (e p : Nat) : Nat := s.portTile ((s.peer e).paths.getD p {}).port

/-- A `LINKACK` of a path, which asks for the gap's frame while frames are held after it. (DEDUCED, log entry 108) -/
def sendLinkAck (e p : Nat) : Act := fun s =>
  let l := (s.peer e).links.getD p {}
  emit (.movon e p (s.pathVia e p) 0 (mvBytes mtLinkAck (if l.held = [] then 0 else 2) p 0 l.rx s.devNum e 0 0 0 0 0 0 [])) s

/-- How far link sequence number `b` lies after `a`. -/
def lseqDist (a b : Nat) : Nat := (b + 2 ^ 32 - a % 2 ^ 32) % 2 ^ 32

/-- An acknowledgement: every frame before `LACK` is done, and one that was sent again is counted. -/
def takeAck (e p lack : Nat) : Act := fun s =>
  let gone (x : MvTx) : Bool := decide (1 ≤ lseqDist x.lseq lack) && decide (lseqDist x.lseq lack < 2 ^ 31)
  let n := (((s.peer e).links.getD p {}).unacked.filter fun x => gone x && x.tries != 0).length
  Act.seq [updLink e p fun l => { l with unacked := l.unacked.filter fun x => !gone x },
    count F.LNK_LRETRY_COUNT (s.pathTile e p) n] s

/-- A frame of a path is sent again. -/
def resend (e p lseq : Nat) : Act := fun s =>
  match ((s.peer e).links.getD p {}).unacked.find? (·.lseq == lseq) with
  | some x => Act.seq [updLink e p fun l => { l with unacked := l.unacked.map fun y =>
      if y.lseq = lseq then { y with tries := y.tries + 1 } else y }, emit (.movon e p (s.pathVia e p) x.dscp x.bytes)] s
  | none => []

/-! ## The end of a message (R380, R431) -/

/-- A message of an egress stream ends with a status, which its counters show (R389). -/
def countEgress (id st : Nat) : Act := .seq
  [.when (st == 2) (countS F.LNK_SCNT_ALTPATH id 1), .when (st == 0x0301 || st == 0x0302) (countS F.LNK_SCNT_FAILED id 1)]

/-- A link-transmit item ends with its last message, whose status it carries (R365). -/
def egressDone (t slot st : Nat) : Act := fun s =>
  match (s.qItems t egressQueue).find? (·.slot == slot) with
  | none => []
  | some i => Act.seq [countEgress i.stream st,
      updS i.stream fun x => { x with egress := x.egress.filter (·.slot != some slot) },
      finishItem t i st 0 []] s

/-- A message leaves its sender with a status. A write that was not delivered fails here; one the target refused has been
reported by it. -/
def msgEnd (e : Nat) (m : MvMsg) (st : Nat) (here : Bool) : Act := .seq
  [updPeer e fun r => { r with msgs := r.msgs.filter (·.id != m.id) },
   .read fun s => match m.ctx with
    | .xfer t tag => .opt ((s.tile t).xfers.find? (·.tag == tag)) fun x => writeDone t { x with remote := !here } st
    | .item t _ slot => if s.stale m.inst m.epoch then leaveFlight m.inst else egressDone t slot st
    | .egress id => if s.stale m.inst m.epoch then leaveFlight m.inst else .when (s.isLive id) (countEgress id st)
    | _ => .when (s.stale m.inst m.epoch) (leaveFlight m.inst)]

/-- A message whose path is down: sent once more on the lowest path that is up, or failed. One of an advanced epoch is not
sent again (R431). -/
def msgPathDown (e p : Nat) (m : MvMsg) : Act := fun s =>
  match (if m.again ∨ s.stale m.inst m.epoch then none else s.pathUp e [p]) with
  | none => msgEnd e m 0x0301 true s
  | some q =>
    let n := { m with again := true, path := q }
    Act.seq [updPeer e fun r => { r with msgs := r.msgs.map fun x => if x.id = m.id then n else x }, mvPut e q n] s

/-- A path is declared down (R377): its frames are given up, and its messages go on over another (R380).
(DEDUCED, log entry 109) -/
def pathDown (e p : Nat) : Act := fun s =>
  let l := (s.peer e).links.getD p {}
  if !l.up ∨ (s.peer e).kind = 0 then []
  else Act.seq [updLink e p fun l => { l with up := false, unacked := [], held := [], probes := 0 },
    lnkErr (s.pathTile e p) 3 0 (((s.peer e).paths.getD p {}).port % 128),
    .each ((s.peer e).msgs.filter (·.path == p)) (msgPathDown e p)] s

/-- A port whose link drops declares its paths down (R378). -/
def portPathsDown (port : Nat) : Act := fun s =>
  Act.each s.pkg.peers (fun r => .each (List.range r.2.paths.length) fun p =>
    .when ((r.2.paths.getD p {}).port == port) (pathDown r.1 p)) s

/-- A path comes up again: a path event, transient when it answered its first probe (R378). (DEDUCED, log entry 109) -/
def pathBack (e p : Nat) : Act := fun s =>
  let l := (s.peer e).links.getD p {}
  if l.up then []
  else Act.seq [updLink e p fun l => { l with up := true, probes := 0 },
    count (if l.probes ≤ 1 then F.LNK_PATHEVT_TRANSIENT else F.LNK_PATHEVT_LASTING) (s.pathTile e p) 1,
    .when (e == s.pkg.masterDev) (setF F.LNK_MVSTAT_NOMASTER pkgTile 0)] s

/-! ## Whole messages (R374, R382) -/

/-- The `RESP` of a message, which is kept for its duplicates (R381). (DEDUCED, log entry 110) -/
def respond (e : Nat) (f : MvFrame) (st : Nat) (more : List Byte) : Act :=
  let b := toLe 4 f.msgid ++ toLe 2 st ++ [0, 0] ++ more
  .seq [updPeer e fun r => { r with seen := (r.seen ++ [(f.msgid, b)]).drop (r.seen.length - 1023) },
    mvSend e mtResp f.inst f.epoch f.stream b false .plain .none]

/-- A `WRITE` as its target judges it (R337, R432). -/
def State.writeStatus (s : State) (f : MvFrame) (m : List Byte) : Nat :=
  let a := leAt m 0 8
  let n := m.length - 8
  if s.instState f.inst = instResetting ∨ s.instState f.inst = instDestroying ∨ s.epoch f.inst ≠ f.epoch then 0x0401
  else if m.length < 72 ∨ 4104 < m.length ∨ 2 ^ 40 ≤ a ∨ !s.inMem f.inst a n then 0x0104 else 0

/-- A `WRITE` is applied or refused. A refusal sends a `LATE` message to the sender before its `RESP`.
(DEDUCED, log entry 110) -/
def takeWrite (e : Nat) (f : MvFrame) (m : List Byte) (pz : Bool) : Act := fun s =>
  let st := s.writeStatus f m
  let a := leAt m 0 8
  let c : Cpl := ⟨s.now, a % 2 ^ 40, 0, f.stream, st, 0, f.inst, f.epoch, 2⟩
  Act.seq [if st = 0 then putBytes f.inst a (m.drop 8) pz
      else mvSend e mtLate f.inst f.epoch f.stream (c.bytes false) false .plain .none,
    respond e f st []] s

/-- A `LATE` message for a stream of this device (R337): the failed item's record goes to the instance's error ring once.
(DEDUCED, log entry 110) -/
def takeLate (c : Cpl) : Act := fun s =>
  let t := homeOf c.stream
  let hit := (s.tile t).xfers.find? fun x => x.write && x.remote && x.stream == c.stream && x.addr == c.digest
  let it := hit.bind fun x => (s.tile t).items.find? fun i => i.q == x.q && i.slot == x.slot
  if s.stale c.inst c.epoch ∨ !s.isLive c.stream ∨ it.elim false (·.late) then []
  else Act.seq [setS F.SMV_SLIVE0_FPW c.stream 1, smvErr t 6 c.stream,
    .opt it fun i => updItem t i.q i.slot fun j => { j with late := true },
    erPush t c.inst { c with seq := it.elim c.seq (·.seq) }] s

/-- `OSF` units for a stream (R382, R432). -/
def takeOsf (e : Nat) (f : MvFrame) (m : List Byte) (pz : Bool) : Act := fun s =>
  if s.stale f.inst f.epoch then respond e f 0x0401 [] s
  else if !s.isOpen f.stream ∨ (s.stream f.stream).inst ≠ f.inst ∨ !bitOf (s.stream f.stream).stages stLsc then respond e f 0x0104 [] s
  else Act.seq [respond e f 0 [], osfRx f.stream (some e) pz m] s

/-- A `RESP` ends the message it answers; one that was sent again ends with `ST_ALT_PATH` in place of `ST_OK` (R380). -/
def takeResp (e : Nat) (b : List Byte) : Act := fun s =>
  match (s.peer e).msgs.find? (·.id == leAt b 0 4) with
  | none => []
  | some m =>
    let st := leAt b 4 2
    msgEnd e m (if st = 0 ∧ m.again then 0x0002 else st) false s

/-- A whole message is taken: a duplicate is answered again, and anything else is carried out and answered. -/
def takeMessage (e : Nat) (f : MvFrame) (m : List Byte) (pz : Bool) : Act := fun s =>
  match (s.peer e).seen.find? (·.1 == f.msgid) with
  | some b => mvSend e mtResp f.inst f.epoch f.stream b.2 false .plain .none s
  | none =>
    if f.mtype = mtReq then
      let q := parseReq m pz
      Act.seq [respond e f 0 [], handleRequest (.movon e f.msgid) q.1 q.2.1 q.2.2] s
    else if f.mtype = mtCpl then Act.seq [updP fun p => { p with cpls := p.cpls ++ [(e, Cpl.parse m)] }, respond e f 0 []] s
    else if f.mtype = mtOsf then takeOsf e f m pz s
    else if f.mtype = mtWrite then takeWrite e f m pz s
    else if f.mtype = mtLate then Act.seq [takeLate (Cpl.parse m), respond e f 0 []] s
    else match f.dir with
      | some .claim => Act.seq [respond e f 0 [], dirClaim e] s
      | some d =>
      if s.isMaster then Act.seq [respond e f (s.dirStatus d) (s.dirFound d), dirApply d] s
      else respond e f (if isLookup d ∧ s.get F.LNK_MVSTAT_NOMASTER pkgTile 0 = 1 then 0x0301 else 0x0104) [] s
      | none => respond e f 0x0104 [] s

/-- A fragment delivered in order joins its message (R373). -/
def takeFragment (e : Nat) (f : MvFrame) : Act := fun s =>
  if f.mtype = mtResp then takeResp e f.payload s
  else
    let pz := bitOf f.flags 0
    let old := (s.peer e).parts.find? (·.msg == f.msgid)
    let have_ := if f.foff = 0 then [] else old.elim [] (·.bytes)
    if f.foff ≠ have_.length then []
    else
      let m := have_ ++ f.payload
      let bad := pz || (f.foff != 0 && old.elim false (·.poison))
      let rest (l : List MvPart) : List MvPart := l.filter (·.msg != f.msgid)
      if m.length < f.msglen then updPeer e (fun r => { r with parts := rest r.parts ++ [⟨f.msgid, m, bad⟩] }) s
      else Act.seq [updPeer e fun r => { r with parts := rest r.parts }, takeMessage e f m bad] s

/-! ## The link layer at the receiver (R376) -/

/-- The frame a path expects next is delivered. -/
def deliverFrame (e p : Nat) (f : MvFrame) : Act := .seq
  [updLink e p fun l => { l with rx := (l.rx + 1) % 2 ^ 32, held := l.held.filter (·.lseq != f.lseq) }, takeFragment e f]

/-- Held frames follow while the next one is among them. (DEDUCED, log entry 108) -/
def releaseHeld (e p : Nat) : Act := fun s =>
  Act.each (List.range ((s.peer e).links.getD p {}).held.length) (fun _ => .read fun s =>
    let l := (s.peer e).links.getD p {}
    .opt (l.held.find? (·.lseq == l.rx)) (deliverFrame e p)) s

/-- A frame with a link sequence number arrives: in order, after a gap, or again. (DEDUCED, log entry 108) -/
def linkFrame (e p : Nat) (f : MvFrame) : Act := fun s =>
  let l := (s.peer e).links.getD p {}
  let d := lseqDist l.rx f.lseq
  Act.seq [
    if d = 0 then .seq [deliverFrame e p f, releaseHeld e p]
    else .when (decide (d < 2 ^ 31) && !(l.held.any (·.lseq == f.lseq))) (updLink e p fun l => { l with held := l.held ++ [f] }),
    sendLinkAck e p] s

/-- A frame that passed R381. A `PROBE` starts the path's series afresh; a `LINKACK` brings a path back that was probed.
(DEDUCED, log entry 113) -/
def mvFrameIn (e p : Nat) (f : MvFrame) : Act := .seq
  [takeAck e p f.lack,
   if f.mtype = mtLinkAck then .seq [pathBack e p, .when (bitOf f.flags 1) (resend e p f.lack)]
   else if f.mtype = mtProbe then .seq [updLink e p fun l => { l with rx := f.lseq, held := [] }, sendLinkAck e p]
   else linkFrame e p f]

/-- A received frame is Movon's: it passes R381 on a path of its peer. (DEDUCED, log entry 113) -/
def State.movonTakes (s : State) (f : MvFrame) : Option Nat :=
  if s.get F.LNK_MVCFG_EN pkgTile 0 = 1 then s.mvAccepts f else none

/-- A Movon frame is received on a port that is up; one that is refused is recorded and dropped, and before S9 every one is
discarded (R444). -/
def movonRx (f : MvFrame) : Act := fun s =>
  if !s.portUp f.port ∨ s.stage ≠ 9 then []
  else match s.movonTakes f with
    | some p => mvFrameIn f.src p f s
    | none => Act.seq [.when (s.get F.LNK_MVCFG_EN pkgTile 0 == 1) (lnkErr (s.portTile f.port) 4 f.stream (f.port % 128)),
        count F.LNK_RXDROP_COUNT (s.portTile f.port) 1] s

/-- The row of one message type. -/
def movonRow (mt : Nat) (f : MvFrame) : Act := .when (f.mtype == mt) (movonRx f)

/-! ## Timers -/

/-- `LINK_RETRANSMIT_TIMEOUT`: 2 µs without an acknowledgement; after eight retransmissions the budget ends (R376, R377). -/
def linkRetransmitTimeoutX (e p lseq : Nat) : Act := fun s =>
  match ((s.peer e).links.getD p {}).unacked.find? (·.lseq == lseq) with
  | some x => if 8 ≤ x.tries then pathDown e p s else resend e p lseq s
  | none => []

/-- `LINK_RETRY_BUDGET_EXPIRY`: the budget of a frame of a path ends while it awaits its acknowledgement (R377). -/
def linkRetryBudgetExpiryX (e p : Nat) : Act := fun s =>
  if ((s.peer e).links.getD p {}).unacked.any (·.tries != 0) then pathDown e p s else []

/-- `PATH_PROBE_TIMER`: a path that is down is probed, where its port can send (R378). (DEDUCED, log entry 109) -/
def pathProbeTimerX (e p : Nat) : Act := fun s =>
  let l := (s.peer e).links.getD p {}
  if (s.peer e).kind = 0 ∨ (s.peer e).paths.length ≤ p ∨ l.up ∨ !s.portUp ((s.peer e).paths.getD p {}).port then []
  else Act.seq [updLink e p fun l => { l with probes := l.probes + 1 },
    emit (.movon e p (s.pathVia e p) 0 (mvBytes mtProbe 0 p l.tx l.rx s.devNum e 0 0 0 0 0 0 []))] s

/-- `MOVON_E2E_EXPIRY`: a message's timer expires; it is paused while its path retries (R379, R380). -/
def movonE2eExpiryX (e msg : Nat) : Act := fun s =>
  match (s.peer e).msgs.find? (·.id == msg) with
  | none => []
  | some m => if ((s.peer e).links.getD m.path {}).unacked.any (·.tries != 0) then [] else msgEnd e m 0x0302 true s

/-- `MASTER_LOSS_TIMEOUT`: every path to the master has been down for 100 ms (R385). -/
def masterLossTimeoutX : Act := fun s =>
  if s.get F.LNK_MVCFG_EN pkgTile 0 = 0 ∨ s.isMaster ∨ (s.peer s.pkg.masterDev).kind = 0 ∨ (s.pathUp s.pkg.masterDev []).isSome then []
  else setF F.LNK_MVSTAT_NOMASTER pkgTile 1 s

/-! ## Link-transmit items (R365) -/

/-- Units gathered into messages of at most 16,777,216 bytes, each of whole units (R373, R374). -/
def gather : List (List Byte) → List Byte → List (List Byte)
  | [], cur => if cur = [] then [] else [cur]
  | u :: us, cur => if cur ≠ [] ∧ 2 ^ 24 < cur.length + u.length then cur :: gather us u else gather us (cur ++ u)

/-- The NAL units of an Annex B access unit. -/
def splitNals : List Byte → List Byte → Bool → List (List Byte)
  | 0 :: 0 :: 0 :: 1 :: l, cur, on => (if on then [cur] else []) ++ splitNals l [] true
  | 0 :: 0 :: 1 :: l, cur, on => (if on then [cur] else []) ++ splitNals l [] true
  | b :: l, cur, on => splitNals l (if on then cur ++ [b] else cur) on
  | [], cur, on => if on then [cur] else []

/-- The fragments of a NAL unit that is longer than a payload: FU-A of RFC 6184, or the fragmentation units of RFC 7798. -/
def nalFragments (hevc : Bool) (n : List Byte) : List (List Byte) :=
  let h := if hevc then 2 else 1
  let typ := if hevc then leAt n 0 1 / 2 % 64 else leAt n 0 1 % 32
  let head := if hevc then toLe 1 (leAt n 0 1 / 128 * 128 + 49 * 2 + leAt n 0 1 % 2) ++ (n.drop 1).take 1
    else toLe 1 (leAt n 0 1 / 32 * 32 + 28)
  let k := 8192 - h - 1
  let body := n.drop h
  (List.range (cdiv body.length k)).map fun i =>
    head ++ toLe 1 (typ + (if i = 0 then 128 else 0) + (if (i + 1) * k ≥ body.length then 64 else 0)) ++ (body.drop (i * k)).take k

/-- The RTP payloads of an access unit: one for each NAL unit, or its fragments. -/
def rtpPayloads (hevc : Bool) (au : List Byte) : List (List Byte) :=
  (splitNals au [] false).flatMap fun n => if n.length ≤ 8192 then [n] else nalFragments hevc n

/-- `LINK_TRANSMIT_ITEM`: the link engine sends the oldest link-transmit item handed to it. -/
def linkTransmitItemX (t : Nat) : Act := fun s =>
  let todo := (s.qItems t egressQueue).find? fun i => i.started && i.engine == engLink &&
    ((s.stream i.stream).egress.any fun e => e.slot == some i.slot && e.msg.isNone)
  match todo with
  | none => []
  | some i =>
    let id := i.stream
    let x := s.stream id
    match x.egress.find? (·.slot == some i.slot) with
    | none => []
    | some e =>
      let peer := s.sget F.LNK_SW0_PEER id
      let mark : Act := updS id fun y => { y with
        egress := y.egress.map fun g => if g.slot = some i.slot then { g with msg := some s.pkg.nextMsg } else g }
      let fail : Act := egressDone t i.slot 0x0301
      if s.sget F.LNK_SW0_EGKIND id = 0 then
        let ms := gather ((osfSplit e.bytes.length false false e.bytes).filterMap fun u => u.map (·.raw)) []
        let put (ctx : MvCtx) (f : Act) (b : List Byte) : Act :=
          .read fun s => mvSendAs (s.slive F.LNK_SW0_DSCP id) peer mtOsf x.inst x.epoch (s.sget F.LNK_SW1_DSTREAM id) b e.poison ctx f
        Act.seq [applyRegs id [.LNK_SW0], mark, .each ms.dropLast (put (.egress id) (countEgress id 0x0301)),
          match ms.getLast? with
          | some b => put (.item t egressQueue i.slot) fail b
          | none => egressDone t i.slot 0] s
      else
        Act.seq [applyRegs id [.LNK_SW0], mark, .read fun s =>
          if s.portUp (s.sget F.LNK_SW0_PORT id) ∧ (s.peer peer).kind ≠ 0 then
            .seq [emit (.rtp peer (s.sget F.LNK_SW0_PORT id) (s.hopFrom peer 0 (s.sget F.LNK_SW0_PORT id)) (s.sget F.LNK_SW1_UDPPORT id) (s.slive F.LNK_SW0_DSCP id)
              (rtpPayloads (s.slive F.SCE_SW0_CODEC id == 1) e.bytes)), egressDone t i.slot 0]
          else fail] s

/-! ## The commands -/

/-- `LINK_TRANSMIT_ITEM`. -/
def execLinkTransmitItem (t : Nat) (s : State) : Host.Outcome State Fault Refusal := done (linkTransmitItemX t) s

/-- `MOVON_REQ_RX`. -/
def execMovonReqRx (f : MvFrame) (s : State) : Host.Outcome State Fault Refusal := done (movonRow mtReq f) s

/-- `MOVON_CPL_RX`. -/
def execMovonCplRx (f : MvFrame) (s : State) : Host.Outcome State Fault Refusal := done (movonRow mtCpl f) s

/-- `MOVON_OSF_RX`. -/
def execMovonOsfRx (f : MvFrame) (s : State) : Host.Outcome State Fault Refusal := done (movonRow mtOsf f) s

/-- `MOVON_WRITE_RX`. -/
def execMovonWriteRx (f : MvFrame) (s : State) : Host.Outcome State Fault Refusal := done (movonRow mtWrite f) s

/-- `MOVON_RESP_RX`. -/
def execMovonRespRx (f : MvFrame) (s : State) : Host.Outcome State Fault Refusal := done (movonRow mtResp f) s

/-- `MOVON_LATE_RX`. -/
def execMovonLateRx (f : MvFrame) (s : State) : Host.Outcome State Fault Refusal := done (movonRow mtLate f) s

/-- `MOVON_DIR_RX`. -/
def execMovonDirRx (f : MvFrame) (s : State) : Host.Outcome State Fault Refusal := done (movonRow mtDir f) s

/-- `MOVON_PROBE_RX`. -/
def execMovonProbeRx (f : MvFrame) (s : State) : Host.Outcome State Fault Refusal := done (movonRow mtProbe f) s

/-- `MOVON_LINKACK_RX`. -/
def execMovonLinkackRx (f : MvFrame) (s : State) : Host.Outcome State Fault Refusal := done (movonRow mtLinkAck f) s

/-- `LINK_RETRANSMIT_TIMEOUT`. -/
def execLinkRetransmitTimeout (e p lseq : Nat) (s : State) : Host.Outcome State Fault Refusal :=
  done (linkRetransmitTimeoutX e p lseq) s

/-- `LINK_RETRY_BUDGET_EXPIRY`. -/
def execLinkRetryBudgetExpiry (e p : Nat) (s : State) : Host.Outcome State Fault Refusal := done (linkRetryBudgetExpiryX e p) s

/-- `PATH_PROBE_TIMER`. -/
def execPathProbeTimer (e p : Nat) (s : State) : Host.Outcome State Fault Refusal := done (pathProbeTimerX e p) s

/-- `MOVON_E2E_EXPIRY`. -/
def execMovonE2eExpiry (e msg : Nat) (s : State) : Host.Outcome State Fault Refusal := done (movonE2eExpiryX e msg) s

/-- `MASTER_LOSS_TIMEOUT`. -/
def execMasterLossTimeout (s : State) : Host.Outcome State Fault Refusal := done masterLossTimeoutX s

end Sys2Proof.Machine
end

