-- ==== Sys2Proof/Machine/Links.lean ====
section
/-! DEFINITION. Ethernet ports: their links (R347, R378), the classification of received frames (R348 to R354), and the PTP
clock (R351, R352). -/
namespace Sys2Proof.Machine

/-! ## PTP -/

/-- The roles of R351. -/
def ptpSlave : Nat := 1
def ptpMaster : Nat := 2

/-- The role and the port of the PTP clock. -/
def State.ptpRole (s : State) : Nat := s.get F.LNK_PTPCFG_ROLE pkgTile 0
def State.ptpPort (s : State) : Nat := s.get F.LNK_PTPCFG_PORT pkgTile 0

/-- A signed 32-bit register value, saturating. -/
def sat32 (v : Int) : Nat := ofSigned 32 (max (-2147483648) (min 2147483647 v))

/-- A measured offset (R352): above 1 ms in magnitude it steps package time, modulo 2^64, else it is slewed away; `LOCKED` after 16 in a row
within 1,000 ns, and cleared above 10,000 ns. (DEDUCED, log entry 7) -/
def ptpMeasure (ofs : Int) : Act := fun s =>
  let m := ofs.natAbs
  let good := if m ≤ 1000 then s.pkg.ptpGood + 1 else 0
  let step : Act := .seq [.eff [.setNow (((s.now : Int) - ofs) % 2 ^ 64).toNat], setF F.LNK_PTPSTAT_STEPPED pkgTile 1,
    lnkErr (s.portTile s.ptpPort) 8 0 s.ptpPort]
  Act.seq [setF F.LNK_PTPOFS_OFS pkgTile (sat32 ofs),
    updP fun p => { p with ptpGood := good, ptpSlew := if 1000000 < m then 0 else ofs },
    .when (decide (1000000 < m)) step,
    .when (decide (16 ≤ good)) (setF F.LNK_PTPSTAT_LOCKED pkgTile 1),
    .when (decide (10000 < m)) (setF F.LNK_PTPSTAT_LOCKED pkgTile 0)] s

/-- A PTP message leaves by the PTP port. -/
def ptpSend (kind : Nat) : Act := fun s =>
  emit (.ptp s.ptpPort kind (s.get F.LNK_PTPCFG_DOMAIN pkgTile 0) (s.get F.LNK_PTPCFG_TRANSPORT pkgTile 0)) s

/-- A PTP message on the PTP port. -/
def ptpRx (b : EthBody) : Act := fun s =>
  let mine (d : Nat) : Bool := d == s.get F.LNK_PTPCFG_DOMAIN pkgTile 0
  match b with
  | .ptpOffset d ofs => Act.when (mine d && s.ptpRole == ptpSlave) (ptpMeasure ofs) s
  | .ptpUtc d ofs => Act.when (mine d && s.ptpRole == ptpSlave) (setF F.LNK_PTPSTAT_UTCOFS pkgTile (ofSigned 16 ofs)) s
  | .ptpDelayReq d => Act.when (mine d && s.ptpRole == ptpMaster) (ptpSend 2) s
  | _ => []

/-- `PTP_SYNC_LOSS`: eight Sync intervals without a Sync; the clock holds its frequency (R352). -/
def ptpSyncLossX : Act := fun s =>
  Act.when (s.ptpRole == ptpSlave) (.seq [setF F.LNK_PTPSTAT_LOCKED pkgTile 0, updP fun p => { p with ptpGood := 0 }]) s

/-- `PTP_MESSAGE_INTERVAL`: the clock sends its Announce and Sync or its Delay_Req (R351). -/
def ptpMessageIntervalX : Act := fun s =>
  if !s.portUp s.ptpPort then []
  else if s.ptpRole = ptpMaster then Act.seq [ptpSend 3, ptpSend 0] s
  else if s.ptpRole = ptpSlave then ptpSend 1 s
  else []

/-! ## Received frames -/

/-- A received frame is dropped and counted. -/
def rxDrop (port : Nat) : Act := fun s => count F.LNK_RXDROP_COUNT (s.portTile port) 1 s

/-- A frame that breaks R348 or R350 is dropped, counted and recorded. -/
def frameDrop (port : Nat) : Act := fun s => Act.seq [lnkErr (s.portTile port) 1 0 (port % 128), rxDrop port] s

/-- A datagram for ingest: delivered to the stream whose flow it matches, while that flow and the ingest engine of the port's
tile are enabled (R356, R429). (DESIGN CHOICE, log entry 97) -/
def udpRx (f : EthFrame) (dport : Nat) (b : UdpBody) : Act := fun s =>
  match s.flowOf f.port f.vlan dport b with
  | some id => if (s.stream id).ing.flow = 1 ∧ s.isOn .ing (s.portTile f.port) then ingestRx id b s else rxDrop f.port s
  | none => rxDrop f.port s

/-- RTCP of an open stream: a PLI or FIR for an RTP egress stream is a key request (R365). -/
def rtcpRx (f : EthFrame) (id : Nat) (feedback : Bool) : Act := fun s =>
  if !s.isOpen id then rxDrop f.port s
  else Act.when (feedback && s.sends id 1 && s.isSceEnc id) (sceKeyRequest id) s

/-- The FEC codewords that a port corrected, which count in units of 256, and those it could not (R387). (DESIGN CHOICE, log entry 151) -/
def fecCount (port corr bad : Nat) : Act := fun s =>
  let t := s.portTile port
  Act.seq [.when (corr != 0) (count256 F.LNK_FECCNT_CORR t corr),
    .when (bad != 0) (.seq [count F.LNK_FECCNT_UNCORR t bad, lnkErr t 2 0 (port % 128), count F.LNK_ERRCNT_COUNT t (bad - 1)])] s

/-- A frame is checked and delivered to exactly one place (R348, R350, R354). -/
def ethFrameIn (f : EthFrame) : Act := fun s =>
  if f.pause then rxDrop f.port s
  else if !f.good ∨ f.len < 64 ∨ 9216 < f.len ∨ f.fragment ∨ !f.sumOk then frameDrop f.port s
  else match f.body with
    | .movon m => movonRx { m with port := f.port, vlan := f.vlan } s
    | .udp d b => udpRx f d b s
    | .rtcp id fb => rtcpRx f id fb s
    | .service => Act.when (s.iface f.port f.vlan).isSome (emit (.answer f.port f.vlan)) s
    | .other => rxDrop f.port s
    | b => if f.port = s.ptpPort ∧ f.vlan = s.get F.LNK_PTPCFG_VLAN pkgTile 0 ∧ s.ptpRole ≠ 0 then ptpRx b s else rxDrop f.port s

/-- `ETH_FRAME_RX`: a frame comes in on a port that is up. (DESIGN CHOICE, log entry 97) -/
def ethFrameRxX (f : EthFrame) : Act := fun s =>
  Act.when (s.portUp f.port) (.seq [fecCount f.port f.fecCorr f.fecBad, ethFrameIn f]) s

/-! ## Port links -/

/-- Bits of a field are set or cleared. -/
def setMask (f : Fld) (t m : Nat) (on : Bool) : Act := fun s =>
  let v := s.get f t 0
  setF f t (if on then v ||| m else v - (v &&& m)) s

/-- The lanes of a port lose or gain their link. -/
def portLanes (port : Nat) (on : Bool) : Act := fun s =>
  let t := s.portTile port
  let m := s.portMask port
  Act.seq [setMask F.LNK_LANESTAT_UP t m on, setMask F.LNK_LANESTAT_LOCK t m on] s

/-- A port goes down: its lanes, and its Movon paths (R378). -/
def portDown (port : Nat) : Act := .seq [portLanes port false, portPathsDown port]

/-- `PORT_LINK_DOWN`. -/
def portLinkDownX (port : Nat) : Act := fun s => Act.when (s.portInService port) (portDown port) s

/-- `PORT_LINK_UP`: a port in service of a tile whose link block is ON. -/
def portLinkUpX (port : Nat) : Act := fun s =>
  Act.when (s.portInService port && s.isOn .lnk (s.portTile port)) (portLanes port true) s

/-- Every port of a tile goes down. -/
def tilePortsDown (t : Nat) : Act := fun s =>
  Act.each ((List.range 80).filter fun p => s.portTile p == t && s.portInService p) portDown s

/-! ## The commands -/

/-- `PORT_LINK_DOWN`. -/
def execPortLinkDown (p : Nat) (s : State) : Host.Outcome State Fault Refusal := done (portLinkDownX p) s

/-- `PORT_LINK_UP`. -/
def execPortLinkUp (p : Nat) (s : State) : Host.Outcome State Fault Refusal := done (portLinkUpX p) s

/-- `PTP_SYNC_LOSS`. -/
def execPtpSyncLoss (s : State) : Host.Outcome State Fault Refusal := done ptpSyncLossX s

/-- `PTP_MESSAGE_INTERVAL`. -/
def execPtpMessageInterval (s : State) : Host.Outcome State Fault Refusal := done ptpMessageIntervalX s

end Sys2Proof.Machine
end

