-- ==== Sys2Proof/Machine/Sleep.lean ====
section
/-! DEFINITION. The local domain of a tile: its reset (R436, R533, R534), and its sleep and wake (R485 to R488, R491). -/
namespace Sys2Proof.Machine

/-! ## The local reset (R436) -/

/-- The blocks of the local scope (R516). -/
def blkLocal : Blk → Bool
  | .ARR | .SFU | .ECE | .SCE | .SMV | .ING | .FXG => true
  | _ => false

/-- A register that shows a selected stream slot. -/
def regPerStream (r : Reg) : Bool :=
  match r.place.ix with
  | .sel sr => sr != .PRT_ISEL && sr != .LNK_HWSEL
  | _ => false

/-- The registers that a tile reset returns to their reset values: the local blocks', but for those whose reset value the
self-test or the image has set, and the per-stream ones of every block (R532 to R534). -/
def tileReg (t : Nat) (k : RegKey) : Bool :=
  k.inTile t && ((blkLocal k.reg.place.blk && k.reg != .ECE_LANECFG && k.reg != .SMV_HBMSPLIT) || regPerStream k.reg)

/-- The streams whose home is a tile. -/
def State.streamsOn (s : State) (t : Nat) : List Nat := (s.streams.filter fun e => homeOf e.1 == t).map (·.1)

/-- The local domain of a tile is reset: its registers, its engines' contexts, and its stream slots, without a drain. The lines
of its weight-cache slice and its held wake stay. (DEDUCED, log entry 40) -/
def localReset (t : Nat) : Act := fun s => Act.seq
  [.each (s.streamsOn t) fun id => .seq [dropFlow id, updS id fun _ => {}],
   .eff [.resetRegs (tileReg t)], updT t fun c => { wc := c.wc, wake := c.wake }] s

/-! ## Sleep states (R485) -/

def slpRun : Nat := 0
def slpStopping : Nat := 1
def slpStopped : Nat := 2
def slpGating : Nat := 3
def slpGated : Nat := 4
def slpWaking : Nat := 5

/-- The sleep state of a tile. -/
def State.slp (s : State) (t : Nat) : Nat := s.get F.MGT_SLPSTAT_STATE t 0

/-- The causes of `LASTWAKE`. -/
def wakePacket : Nat := 1
def wakeTimer : Nat := 2
def wakePin : Nat := 3
def wakePm : Nat := 4

/-- A tile begins to wake for a cause. -/
def wakeStart (t cause : Nat) : Act := .eff
  [.fld F.MGT_SLPSTAT_STATE t 0 slpWaking, .fld F.MGT_SLPSTAT_LASTWAKE t 0 cause]

/-- A wake request (R487, R488): a sleeping tile wakes, and one on its way into sleep keeps the request until it has got there. -/
def wakeReq (t cause : Nat) : Act := fun s =>
  if s.slp t = slpStopped ∨ s.slp t = slpGated then wakeStart t cause s
  else if s.slp t = slpStopping ∨ s.slp t = slpGating then
    updT t (fun c => { c with wake := some (c.wake.getD cause) }) s
  else []

/-- An unassigned tile with stopped clocks is gated where `PGATE` allows (R486). (DEDUCED, log entry 114) -/
def tryGate (t : Nat) : Act := fun s =>
  Act.when (s.slp t == slpStopped && (s.owner t).isNone && s.get F.MGT_SLPCFG_PGATE t 0 == 1)
    (setF F.MGT_SLPSTAT_STATE t slpGating) s

/-- No engine of a tile holds a work item or a transfer, and its queues are empty (R486). -/
def State.tileIdle (s : State) (t : Nat) : Bool :=
  let c := s.tile t
  (List.range 20).all (fun q => s.qDepth t q == 0 || s.qResident t q == 0) && c.items.isEmpty && c.xfers.isEmpty &&
  c.runs.isEmpty && c.blocks.isEmpty && c.ece.isEmpty && c.sceBusy.isNone

/-- The tile's interfaces let it sleep: no quad of it has a mode, and it carries neither PCIe nor Paddock. -/
def State.mayStop (s : State) (t : Nat) : Bool :=
  s.get F.LNK_QUADCFG_MODE0 t 0 == 0 && s.get F.LNK_QUADCFG_MODE1 t 0 == 0 && t != pcieTile && t != paddockTile

/-! ## The commands -/

/-- `SLEEP_IDLE_EXPIRY`: a tile that has been idle for `IDLE_US` stops its clocks; one that is stopped and unassigned is gated. -/
def sleepIdleExpiryX (t : Nat) : Act := fun s =>
  if !s.inService t then []
  else if s.slp t = slpRun then
    Act.when (s.get F.MGT_SLPCFG_IDLE_US t 0 != 0 && s.tileIdle t && s.mayStop t && s.get F.PRT_TRST_BUSY t 0 == 0)
      (setF F.MGT_SLPSTAT_STATE t slpStopping) s
  else tryGate t s

/-- A tile has entered a sleep state: it is counted, and a request held begins its wake (R488). -/
def slept (t st : Nat) : Act := .seq
  [setF F.MGT_SLPSTAT_STATE t st, setF F.MGT_CLKSTAT_CORE_MHZ t 0, count F.MGT_WAKECNT_SLEEPS t 1,
   .read fun s => match (s.tile t).wake with
    | some c => .seq [updT t fun x => { x with wake := none }, wakeStart t c]
    | none => .when (st == slpStopped) (tryGate t)]

/-- Zeros over the working store of a tile. (DEDUCED, log entry 114) -/
def zeroStore (t : Nat) : Act := wsZero (wsBase + t * wsSize) wsSize

/-- `SLEEP_ENTRY_DONE`: a gated tile has lost its local domain and its working store, and wakes as after a tile reset (R485,
R487). -/
def sleepEntryDoneX (t : Nat) : Act := fun s =>
  if s.slp t = slpStopping then slept t slpStopped s
  else if s.slp t = slpGating then Act.seq [localReset t, zeroStore t, slept t slpGated] s
  else []

/-- `WAKE_DONE`: the tile runs, at the step in use (R476). -/
def wakeDoneX (t : Nat) : Act := fun s =>
  Act.when (s.slp t == slpWaking) (.seq [setF F.MGT_SLPSTAT_STATE t slpRun, count F.MGT_WAKECNT_WAKES t 1,
    setF F.MGT_CLKSTAT_CORE_MHZ t (s.get F.MGT_PWRSTAT_CORE_MHZ pkgTile 0)]) s

/-- `YARD_LOCAL_PACKET_WAKE`: a packet for the tile's local port is held in its router (R488). (DEDUCED, log entry 114) -/
def yardLocalPacketWakeX (t : Nat) : Act := wakeReq t wakePacket

/-- `WAKE_N_ASSERT`: every tile with stopped clocks wakes; gated ones stay as they are. -/
def wakeNAssertX : Act := .each (List.range 64) fun t => fun s =>
  Act.when (s.slp t == slpStopped || s.slp t == slpStopping) (wakeReq t wakePin) s

/-- The wake time that is armed. -/
def State.wakeTime (s : State) (t : Nat) : Nat := s.get F.MGT_WAKETIME_LO_TIME_LO t 0 + 2 ^ 32 * s.get F.MGT_WAKETIME_HI_TIME_HI t 0

/-- `WAKE_TIMER_FIRE`: package time has reached the tile's wake time, which is then disarmed, or the compare of a Foxglove
core's timer. -/
def wakeTimerFireX (t : Nat) (core : Bool) : Act := fun s =>
  if core then wakeReq t wakeTimer s
  else Act.when (s.wakeTime t != 2 ^ 64 - 1 && decide (s.wakeTime t ≤ s.now)) (.seq
    [setF F.MGT_WAKETIME_LO_TIME_LO t 0xFFFFFFFF, setF F.MGT_WAKETIME_HI_TIME_HI t 0xFFFFFFFF, wakeReq t wakeTimer]) s

/-- A forward step of package time fires every compare that it passes at once (R488). -/
def firePassed (old : Nat) : Act := fun s =>
  Act.each ((List.range 64).filter fun t => decide (old < s.wakeTime t) && decide (s.wakeTime t ≤ s.now)) (wakeTimerFireX · false) s

/-- `WAKETIME_WRITE`: the write arms the compare with the low word that stands. -/
def waketimeWriteX (q : Requester) (t value : Nat) : Act := writeReg q t .MGT_WAKETIME_HI 0 fun t _ => setF F.MGT_WAKETIME_HI_TIME_HI t value

/-- `ETH_FRAME_RX`. -/
def execEthFrameRx (f : EthFrame) (s : State) : Host.Outcome State Fault Refusal := done (.seq [ethFrameRxX f, firePassed s.now]) s

/-- `SLEEP_IDLE_EXPIRY`. -/
def execSleepIdleExpiry (t : Nat) (s : State) : Host.Outcome State Fault Refusal := done (sleepIdleExpiryX t) s

/-- `SLEEP_ENTRY_DONE`. -/
def execSleepEntryDone (t : Nat) (s : State) : Host.Outcome State Fault Refusal := done (sleepEntryDoneX t) s

/-- `WAKE_DONE`. -/
def execWakeDone (t : Nat) (s : State) : Host.Outcome State Fault Refusal := done (wakeDoneX t) s

/-- `YARD_LOCAL_PACKET_WAKE`. -/
def execYardLocalPacketWake (t : Nat) (s : State) : Host.Outcome State Fault Refusal := done (yardLocalPacketWakeX t) s

/-- `WAKE_N_ASSERT`. -/
def execWakeNAssert (s : State) : Host.Outcome State Fault Refusal := done wakeNAssertX s

/-- `WAKE_TIMER_FIRE`. -/
def execWakeTimerFire (t : Nat) (core : Bool) (s : State) : Host.Outcome State Fault Refusal := done (wakeTimerFireX t core) s

/-- `WAKETIME_WRITE`. -/
def execWaketimeWrite (q : Requester) (t value : Nat) (s : State) : Host.Outcome State Fault Refusal := done (waketimeWriteX q t value) s

end Sys2Proof.Machine
end

