-- ==== Sys2Proof/Machine/Partition.lean ====
section
/-! DEFINITION. Instances (R419 to R426, R429 to R436): their creation, reset and destruction, the owners of HBM units, and tile
resets. -/
namespace Sys2Proof.Machine

/-- The package manager refuses a command or write (R422, R441). -/
def prtErr (code tile inst : Nat) : Act :=
  blockErr F.PRT_ERRSTAT_ERR F.PRT_ERRSTAT_CODE F.PRT_ERRCNT_COUNT pkgTile code
    [(F.PRT_ERRSTAT_TILE, tile), (F.PRT_ERRSTAT_INST, inst)]

/-- The codes of `PRT_ERRSTAT`. -/
def prtState : Nat := 1
def prtTiles : Nat := 2
def prtOwned : Nat := 3
def prtMown : Nat := 4
def prtTrst : Nat := 5

/-- An escalation event (R438): recorded, signalled, and kept in the always-on memory; it changes nothing else. -/
def escalate (src tile inst : Nat) : Act := fun s => Act.seq
  [.eff [.fld F.PRT_ESC_EVT pkgTile 0 1, .fld F.PRT_ESC_SRC pkgTile 0 src, .fld F.PRT_ESC_TILE pkgTile 0 tile,
         .fld F.PRT_ESC_INST pkgTile 0 inst],
   emit (.msix fnPm (s.get F.PRT_ESCCFG_VECTOR pkgTile 0)),
   updP fun p => { p with aonSt := { p.aonSt with escs := p.aonSt.escs ++ [(src, tile, inst)] } }] s

/-! ## Tile resets (R436) -/

/-- A tile reset starts: the local domain is reset, and a sleeping tile is woken for it. (DEDUCED, log entry 40) -/
def tileResetStart (t : Nat) : Act := .seq
  [wakeReq t wakePm, localReset t, setF F.PRT_TRST_BUSY t 1]

/-- Swesuwell firmware starts on a tile: its cores run. (DEDUCED, log entry 41) -/
def startFirmware (t : Nat) : Act := .eff [.fld F.FXG_CTL_EN t 0 1, .fld F.FXG_CTL_STATE t 0 fnOn]

/-! ## Creation (R424) -/

/-- The tiles that the tile set of an instance names, whatever its state. -/
def State.tileSet (s : State) (n : Nat) : List Nat := bitList 64 (s.itiles n)

/-- The epoch of an instance advances by 1 modulo 256, on the tiles that it holds too (R425, R441). -/
def nextEpoch (n : Nat) (ts : List Nat) : Act := fun s =>
  let e := (s.epoch n + 1) % 256
  .fld F.PRT_ISTAT_EPOCH pkgTile n e :: ts.map fun t => .fld F.PRT_TOWN_EPOCH t 0 e

/-- A command is refused: the package manager's error, and `STATE` for the operation that is not started (R422, R527).
(DEDUCED, log entry 42) -/
def icmdRefuse (q : Requester) (code tile inst : Nat) : Act := .seq
  [prtErr code tile inst, regErrAt .PRT_ICMD pkgTile q causeState]

/-- `CREATE` (R424): refused, or the tiles are assigned and woken, each is reset, and the epoch advances. -/
def createInst (q : Requester) (n : Nat) : Act := fun s =>
  let ts := s.tileSet n
  match ts.find? (!s.inService ·), ts.find? fun t => (s.owner t).isSome with
  | some t, _ => icmdRefuse q prtTiles t n s
  | none, some t => icmdRefuse q prtOwned t n s
  | none, none =>
    if ts = [] then icmdRefuse q prtTiles 0 n s
    else Act.seq [.each ts fun t => .seq [.eff [.fld F.PRT_TOWN_ASSIGNED t 0 1, .fld F.PRT_TOWN_INST t 0 n], tileResetStart t],
      nextEpoch n ts, updI n fun _ => { creating := true }] s

/-! ## A reset begins (R429, R430) -/

/-- The rings of a tile are disabled. -/
def stopRings (t : Nat) : Act := .seq
  [.eff ((List.range 4).map (fun r => .fld F.SMV_SQCFG_EN t r 0) ++ (List.range 4).map (fun r => .fld F.SMV_CQCFG_EN t r 0) ++
     [.fld F.SMV_ERCFG_EN t 0 0]),
   updT t fun c => { c with sqRing := [{}, {}, {}, {}], cqRing := [{}, {}, {}, {}], erRing := {} }]

/-- The engines of a tile abandon their work: what its queues hold is discarded unrun, and what has been issued stays with the
engines that hold it. (DEDUCED, log entry 40) -/
def abandonTile (t : Nat) : Act := .seq
  [updT t fun c => { wc := c.wc, wake := c.wake, xfers := c.xfers },
   fun s => (List.range 20).map fun k => .fld F.SMV_QHEAD_HEAD t k (s.get F.SMV_QTAIL_TAIL t k),
   syncResident t, syncCur t, syncMpres t, syncFence t, syncQstat t, syncTsets t, syncEce t, setF F.SCE_STAT_BUSY t 0]

/-- A stream of an instance that is reset keeps what identifies it, and its flow entry, disabled. -/
def abandonStream (id : Nat) : Act := fun s => Act.seq
  [updS id fun x => { inst := x.inst, epoch := s.epoch x.inst, name := x.name, ing := { flow := if x.ing.flow = 0 then 0 else 2 } },
   setS F.SMV_SLIVE0_INFLIGHT id 0] s

/-- The operations of an advanced epoch that an instance still has in flight (R431): transfers that its tiles issued, weight
lines that they wait for, and messages. (DEDUCED, log entry 43) -/
def State.inFlightOf (s : State) (n : Nat) (ts : List Nat) : Nat :=
  (s.tiles.map fun e => (e.2.xfers.filter fun x => x.inst == n && !x.fetch).length +
    (e.2.wc.map fun l => (l.waiters.filter ts.contains).length).sum).sum +
  (s.pkg.peers.map fun e => (e.2.msgs.filter fun m => m.inst == n &&
    (match m.ctx with | .xfer _ _ => false | _ => true)).length).sum

/-- The causes of `PRT_ILAST`. -/
def rstCommand : Nat := 1
def rstFlr : Nat := 2
def rstEscalation : Nat := 3
def rstDestroy : Nat := 4

/-- A reset, or with `destroy` a destroy, of an active instance begins (R429, R430, R435). -/
def startReset (n cause : Nat) (destroy : Bool) : Act := fun s =>
  let ts := s.tileSet n
  let ids := ts.flatMap s.streamsOn
  Act.seq [.eff [.fld F.PRT_ISTAT_STATE pkgTile n (if destroy then instDestroying else instResetting),
      .fld F.PRT_ISTAT_PENDDES pkgTile n 0, .fld F.PRT_ISTAT_ESC pkgTile n 0, .fld F.PRT_ILAST_CAUSE pkgTile n cause],
    nextEpoch n ts, countX F.PRT_IRSTCNT_RESETS pkgTile n 1,
    updI n fun x => { x with resetAt := s.aon, destroying := destroy, overlays := [] },
    .each ts stopRings,
    .each ids fun id => .when ((s.stream id).ing.flow != 0) (updIng id fun g => { g with flow := 2 }),
    .each (s.inst n).reqs fun r => completeReq n r 0x0401 r.stream 0,
    .each ts abandonTile, .each ids abandonStream,
    updI n fun x => { x with ctl := {}, reqs := [], progs := [] },
    fun s => [.fld F.PRT_IFLIGHT_COUNT pkgTile n (min (2 ^ 18 - 1) (s.inFlightOf n ts))]] s

/-- A cause of a reset arises (R422, R423): an active instance is reset, and one that is being reset absorbs it. -/
def resetCause (n cause : Nat) : Act := fun s =>
  if s.instState n = instActive then startReset n cause false s
  else if s.instState n = instFree then []
  else countX F.PRT_IRSTCNT_MERGED pkgTile n 1 s

/-! ## The commands of the package manager (R422) -/

/-- A write of `PRT_ICMD` with `GO`. While an instance is being created, no command is taken for it. (DEDUCED, log entry 42) -/
def icmd (q : Requester) (op wipe : Nat) (k : Nat → Act) : Act := fun s =>
  writeReg q s.bootTile .PRT_ICMD 0 (fun kt n => .seq
    [.eff [.fld F.PRT_ICMD_OP kt n op, .fld F.PRT_ICMD_ZERO kt n wipe],
     .read fun s => if s.instState n = instFree ∧ (s.inst n).creating then icmdRefuse q prtState 0 n else k n]) s

/-- `INSTANCE_CREATE`. (DEDUCED, log entry 42) -/
def instanceCreateX (q : Requester) : Act := icmd q 1 0 fun n => fun s =>
  if s.instState n = instFree then createInst q n s else icmdRefuse q prtState 0 n s

/-- `INSTANCE_RESET`. -/
def instanceResetX (q : Requester) : Act := icmd q 2 0 fun n => fun s =>
  if s.instState n = instFree then icmdRefuse q prtState 0 n s else resetCause n rstCommand s

/-- `INSTANCE_DESTROY`: one that comes during a reset waits for it. -/
def instanceDestroyX (q : Requester) (wipe : Bool) : Act := icmd q 3 (b2n wipe) fun n => fun s =>
  if s.instState n = instFree then icmdRefuse q prtState 0 n s
  else if s.instState n = instActive then Act.seq [updI n fun x => { x with zero := wipe }, startReset n rstDestroy true] s
  else if s.instState n = instResetting then
    Act.seq [updI n fun x => { x with zero := wipe }, setFx F.PRT_ISTAT_PENDDES pkgTile n 1] s
  else []

/-! ## A reset completes (R433, R435) -/

/-- `RESET_INFLIGHT_ZERO`: flow entries and directory names go, and the tiles of the instance are reset.
(DEDUCED, log entry 43) -/
def resetInflightZeroX (n : Nat) : Act := fun s =>
  if s.instState n = instFree ∨ s.instState n = instActive ∨ (s.inst n).creating ∨ s.get F.PRT_IFLIGHT_COUNT pkgTile n ≠ 0 then []
  else
    let ts := s.tileSet n
    Act.seq [updI n fun x => { x with creating := true },
      .each (ts.flatMap s.streamsOn) fun id => .seq [dropFlow id, dirRemove id], .each ts tileResetStart] s

/-- `RESET_ESCALATION_TIMEOUT`: a reset or destroy has not drained 1 ms after it began (R434). -/
def resetEscalationTimeoutX (n : Nat) : Act := fun s =>
  if s.instState n = instFree ∨ s.instState n = instActive ∨ s.get F.PRT_IFLIGHT_COUNT pkgTile n = 0 then []
  else Act.seq [setFx F.PRT_ISTAT_ESC pkgTile n 1, escalate 1 0 n] s

/-- The duration of a reset is recorded, and the function level reset that it served is reported complete (R423, R441). -/
def resetOver (n : Nat) : Act := fun s => Act.seq
  [setFx F.PRT_ILAST_TIME_US pkgTile n (min 0xFFFF ((s.aon - (s.inst n).resetAt) / 1000)),
   .when (s.inst n).flr (emit (.flrDone (n + 1)))] s

/-- The HBM units of an instance. -/
def State.unitsOf (s : State) (n : Nat) : List Nat := (List.range 288).filter fun u => s.unitOwner u == some n

/-- The owner entry of a unit is cleared. -/
def clearOwner (u : Nat) : Act := fun s =>
  [.word .PRT_MOWN pkgTile (u / 4) (setBits (setBits (s.reg .PRT_MOWN pkgTile (u / 4)) (8 * (u % 4) + 7) (8 * (u % 4) + 7) 0)
    (8 * (u % 4) + 5) (8 * (u % 4)) 0)]

/-- The host window entries of a function are disabled (R372, R435). -/
def closeWindow (fn : Nat) : Act := .eff ((List.range 4).map fun e => .fld F.LNK_HWE_LO_EN 48 (fn * 4 + e) 0)

/-- A tile is unassigned, and its fast clocks stop where its interfaces let them (R419, R486). (DEDUCED, log entry 44) -/
def unassign (t : Nat) : Act := .seq
  [.eff [.fld F.PRT_TOWN_ASSIGNED t 0 0, .fld F.PRT_TOWN_INST t 0 0, .fld F.PRT_TOWN_EPOCH t 0 0],
   .read fun s => .when (s.slp t == slpRun && s.mayStop t) (setF F.MGT_SLPSTAT_STATE t slpStopping)]

/-- A destroy ends (R435). Label bindings and publish channels that name the instance are off until they are reloaded.
(DEDUCED, log entry 44) -/
def destroyed (n : Nat) : Act := fun s => Act.seq
  [.when (s.inst n).zero (.each (s.unitsOf n) fun u => hbmZero (u * 2 ^ 30) ((u + 1) * 2 ^ 30)),
   .each (s.unitsOf n) clearOwner, closeWindow (fnOf n), .each (s.tileSet n) unassign,
   setFx F.PRT_ISTAT_STATE pkgTile n instFree, resetOver n,
   updP fun p => { p with lbls := p.lbls.filter (·.inst != n), pubs := p.pubs.filter (·.inst != n) }, updI n fun _ => {}] s

/-- `TILE_RESET_DONE`: the working store is zero, and the tile's reset is over; firmware starts on a tile of an instance, or the
destroy that it belongs to ends with its last tile. (DEDUCED, log entry 41) -/
def tileResetDoneX (t : Nat) : Act := fun s =>
  if s.get F.PRT_TRST_BUSY t 0 = 0 ∨ s.slp t ≠ slpRun then []
  else Act.seq [zeroStore t, .eff [.fld F.PRT_TRST_BUSY t 0 0, .fld F.PRT_TRST_GO t 0 0],
    .opt (s.owner t) fun n => if (s.inst n).destroying then .read fun s =>
        .when ((s.tileSet n).all fun u => s.get F.PRT_TRST_BUSY u 0 == 0) (destroyed n)
      else startFirmware t] s

/-- `INSTANCE_FW_READY`: firmware on every tile of the instance reports ready. A destroy that waited starts. -/
def instanceFwReadyX (n : Nat) : Act := fun s =>
  let x := s.inst n
  if !x.creating ∨ x.destroying ∨ !(s.tileSet n).all (fun t => s.isOn .fxg t) then []
  else
    let des := s.get F.PRT_ISTAT_PENDDES pkgTile n = 1
    Act.seq [.when (s.instState n == instResetting) (resetOver n), setFx F.PRT_ISTAT_STATE pkgTile n instActive,
      updI n fun y => { zero := y.zero }, .when (decide des) (startReset n rstDestroy true)] s

/-! ## Owners and tiles -/

/-- A write to one owner entry (R426): applied to an entry that is free, when it names an active or free instance, or when it
changes nothing. (DEDUCED, log entry 46) -/
def mownEntry (k value j : Nat) : Act := fun s =>
  let old := s.reg .PRT_MOWN pkgTile k
  let lo := 8 * j
  let v := bitsOf value (lo + 7) (lo + 7)
  let n := bitsOf value (lo + 5) lo
  if getBits old (lo + 7) (lo + 7) = v ∧ getBits old (lo + 5) lo = n then []
  else if getBits old (lo + 7) (lo + 7) = 0 ∧ (s.instState n = instActive ∨ s.instState n = instFree) then
    [.word .PRT_MOWN pkgTile k (setBits (setBits old (lo + 7) (lo + 7) v) (lo + 5) lo n)]
  else prtErr prtMown 0 n s

/-- `MOWN_WRITE`: each of the four entries of the register is judged for itself. -/
def mownWriteX (q : Requester) (k value : Nat) : Act := fun s =>
  writeReg q s.bootTile .PRT_MOWN k (fun _ k => .seq [.each (List.range 4) (mownEntry k value),
    regErr .PRT pkgTile q (0x100 + 4 * k) (if value / 64 % 2 + value / 2 ^ 14 % 2 + value / 2 ^ 22 % 2 + value / 2 ^ 30 % 2 = 0 then [] else [causeRsvd])]) s

/-- `TILE_RESET`: of a tile that no instance holds. -/
def tileResetX (q : Requester) (t : Nat) : Act := writeReg q t .PRT_TRST 0 fun t _ => fun s =>
  match s.owner t with
  | some n => Act.seq [prtErr prtTrst t n, regErrAt .PRT_TRST t q causeState] s
  | none => Act.when (s.get F.PRT_TRST_BUSY t 0 == 0) (.seq [setF F.PRT_TRST_GO t 1, tileResetStart t]) s

/-! ## The commands -/

/-- `INSTANCE_CREATE`. -/
def execInstanceCreate (q : Requester) (s : State) : Host.Outcome State Fault Refusal := done (instanceCreateX q) s

/-- `INSTANCE_RESET`. -/
def execInstanceReset (q : Requester) (s : State) : Host.Outcome State Fault Refusal := done (instanceResetX q) s

/-- `INSTANCE_DESTROY`. -/
def execInstanceDestroy (q : Requester) (wipe : Bool) (s : State) : Host.Outcome State Fault Refusal := done (instanceDestroyX q wipe) s

/-- `RESET_INFLIGHT_ZERO`. -/
def execResetInflightZero (n : Nat) (s : State) : Host.Outcome State Fault Refusal := done (resetInflightZeroX n) s

/-- `RESET_ESCALATION_TIMEOUT`. -/
def execResetEscalationTimeout (n : Nat) (s : State) : Host.Outcome State Fault Refusal := done (resetEscalationTimeoutX n) s

/-- `INSTANCE_FW_READY`. -/
def execInstanceFwReady (n : Nat) (s : State) : Host.Outcome State Fault Refusal := done (instanceFwReadyX n) s

/-- `MOWN_WRITE`. -/
def execMownWrite (q : Requester) (k value : Nat) (s : State) : Host.Outcome State Fault Refusal := done (mownWriteX q k value) s

/-- `TILE_RESET`. -/
def execTileReset (q : Requester) (t : Nat) (s : State) : Host.Outcome State Fault Refusal := done (tileResetX q t) s

/-- `TILE_RESET_DONE`. -/
def execTileResetDone (t : Nat) (s : State) : Host.Outcome State Fault Refusal := done (tileResetDoneX t) s

end Sys2Proof.Machine
end

