-- ==== Sys2Proof/Machine/Rings.lean ====
section
/-! DEFINITION. Submission, completion and error rings (R320, R321, R344, R371): their counters, their enables, and the fetch
of requests. -/
namespace Sys2Proof.Machine

/-! ## Fetching requests (R320) -/

/-- A slot has been fetched: `SQHEAD` advances and its request is handled. -/
def ringTake (t r : Nat) (b : List Byte) (pz : Bool) : Act := fun s =>
  let q := parseReq b pz
  Act.seq [setFx F.SMV_SQHEAD_HEAD t r (cnt32 (s.get F.SMV_SQHEAD_HEAD t r + 1)), handleRequest (.ring t r) q.1 q.2.1 q.2.2] s

/-- A slot that cannot be reached is passed over and recorded. (DEDUCED, log entry 19) -/
def ringSkip (t r : Nat) : Act := fun s =>
  Act.seq [setFx F.SMV_SQHEAD_HEAD t r (cnt32 (s.get F.SMV_SQHEAD_HEAD t r + 1)), smvErr t 1 0] s

/-- The queue number and tag under which a fetch from host memory stands among a tile's transfers. -/
def ringQueue (r : Nat) : Nat := 32 + r
def ringTag (r : Nat) : Nat := 4096 + r

/-- The next request of a ring is fetched while the mover is ON: at once from device memory; from host memory by a read, one
at a time. (DEDUCED, log entry 19) -/
def fetchOne (t r : Nat) : Act := fun s =>
  let g := (s.tile t).sqRing.getD r {}
  let head := s.get F.SMV_SQHEAD_HEAD t r
  let n := s.instOfTile t
  let a := g.base + 128 * (head % 2 ^ g.log)
  if !s.smvIssues t ∨ !g.on ∨ head = s.get F.SMV_SQTAIL_TAIL t r then []
  else if isHost a then
    if (s.tile t).xfers.any (·.q == ringQueue r) then []
    else match s.hostAddr (fnOf n) a with
      | some h =>
        let x : Xfer := { tag := ringTag r, q := ringQueue r, slot := head, inst := n, epoch := s.epoch n, host := true, addr := a, len := 128 }
        Act.seq [updT t fun c => { c with xfers := c.xfers ++ [x] }, emit (.hostRead t x.tag (fnOf n) h 128)] s
      | none => Act.seq [lnkErr 48 7 0 0, ringSkip t r] s
  else if s.inMem n a 128 then ringTake t r (s.bytes a 128) (s.poisonedIn a 128) s
  else ringSkip t r s

/-- A ring is fetched until it is empty or waits for the host. -/
def pumpRing (t r : Nat) : Act := fun s =>
  Act.each (List.range (cnt32 (s.get F.SMV_SQTAIL_TAIL t r + 2 ^ 32 - s.get F.SMV_SQHEAD_HEAD t r))) (fun _ => fetchOne t r) s

/-- The rings of a tile are fetched, one request of each ring pair in turn (R320). (DEDUCED, log entry 19) -/
def pumpRings (t : Nat) : Act := fun s =>
  let due (r : Nat) : Nat := cnt32 (s.get F.SMV_SQTAIL_TAIL t r + 2 ^ 32 - s.get F.SMV_SQHEAD_HEAD t r)
  Act.each (List.range ((List.range 4).map due).sum) (fun _ => .each (List.range 4) (fetchOne t)) s

/-- `SQTAIL_WRITE`: an overrun leaves the register and records `REQUEST` (R320). -/
def sqtailWriteX (q : Requester) (t r value : Nat) : Act := writeReg q t .SMV_SQTAIL r fun t r => fun s =>
  let g := (s.tile t).sqRing.getD r {}
  if g.on ∧ 2 ^ g.log < cnt32 (value + 2 ^ 32 - s.get F.SMV_SQHEAD_HEAD t r) then smvErr t 1 0 s
  else Act.seq [setFx F.SMV_SQTAIL_TAIL t r (cnt32 value), .when g.on (pumpRing t r)] s

/-! ## The consumer's counters (R320, R371) -/

/-- A write to `CQHEAD` of ring pair `r`, or with `r` = 4 to `ERHEAD`; one that leaves the ring non-empty sends its vector. -/
def cqheadWriteX (q : Requester) (t r value : Nat) : Act :=
  if r < 4 then writeReg q t .SMV_CQHEAD r fun t r => fun s =>
    Act.seq [setFx F.SMV_CQHEAD_HEAD t r (cnt32 value),
      .when (((s.tile t).cqRing.getD r {}).on && cnt32 value != s.get F.SMV_CQTAIL_TAIL t r)
        (emit (.msix (fnOf (s.instOfTile t)) (s.get F.SMV_CQCFG_VECTOR t r)))] s
  else writeReg q t .SMV_ERHEAD 0 fun t _ => fun s =>
    Act.seq [setF F.SMV_ERHEAD_HEAD t (cnt32 value),
      .when ((s.tile t).erRing.on && cnt32 value != s.get F.SMV_ERTAIL_TAIL t 0)
        (emit (.msix (fnOf (s.instOfTile t)) (s.get F.SMV_ERCFG_VECTOR t 0)))] s

/-! ## Enabling a ring (R344) -/

/-- The configuration register of a ring, its base registers, and its two counters. -/
def ringCfgReg : RingKind → Reg
  | .sq => .SMV_SQCFG | .cq => .SMV_CQCFG | .er => .SMV_ERCFG
def ringBaseFlds : RingKind → Fld × Fld
  | .sq => (F.SMV_SQBASE_LO_BASE_LO, F.SMV_SQBASE_HI_BASE_HI) | .cq => (F.SMV_CQBASE_LO_BASE_LO, F.SMV_CQBASE_HI_BASE_HI)
  | .er => (F.SMV_ERBASE_LO_BASE_LO, F.SMV_ERBASE_HI_BASE_HI)
def ringCounters : RingKind → List Fld
  | .sq => [F.SMV_SQTAIL_TAIL, F.SMV_SQHEAD_HEAD] | .cq => [F.SMV_CQHEAD_HEAD, F.SMV_CQTAIL_TAIL]
  | .er => [F.SMV_ERHEAD_HEAD, F.SMV_ERTAIL_TAIL]

/-- The ring a tile holds. -/
def Tile.ring (c : Tile) (k : RingKind) (r : Nat) : RingCfg :=
  match k with
  | .sq => c.sqRing.getD r {} | .cq => c.cqRing.getD r {} | .er => c.erRing

/-- A change of one ring of a tile. -/
def setRing (t : Nat) (k : RingKind) (r : Nat) (g : RingCfg) : Act := updT t fun c =>
  let put (l : List RingCfg) : List RingCfg := setAt (l ++ List.replicate (4 - l.length) {}) r g
  match k with
  | .sq => { c with sqRing := put c.sqRing } | .cq => { c with cqRing := put c.cqRing } | .er => { c with erRing := g }

/-- `LOGSIZE` may be 4 to 16. -/
def logsizeOk (v : Nat) : Bool := decide (4 ≤ v) && decide (v ≤ 16)

/-- A write to a ring's configuration register (R344): `EN` from 0 to 1 takes the size and base and zeroes the counters; while
`LOGSIZE`, written or held, is outside 4 to 16 it stays 0 and `RANGE` is recorded. `VECTOR` is reserved in `SMV_SQCFG`. -/
def ringEnWriteX (q : Requester) (t : Nat) (k : RingKind) (r value : Nat) : Act :=
  let r := if k = .er then 0 else r
  writeReg q t (ringCfgReg k) r fun t r => fun s =>
    let reg := ringCfgReg k
    let old := s.reg reg t r
    let v := BitVec.ofNat 32 value
    let ls := getBits v 4 0
    let lsOk := ls == getBits old 4 0 || logsizeOk ls
    let held := if lsOk then ls else getBits old 4 0
    let on := getBits old 7 7 == 1
    let want := getBits v 7 7 == 1
    let refused := want && !on && !(lsOk && logsizeOk held)
    let en := want && !refused
    let rsvd := if k = .sq then v &&& ~~~(0x9F : Word) else v &&& ~~~(0xFF9F : Word)
    let w := setBits (setBits old 4 0 held) 7 7 (b2n en)
    let w := if k = .sq then w else setBits w 15 8 (getBits v 15 8)
    let b := ringBaseFlds k
    Act.seq [.eff [.word reg t r w],
      .when (en && !on) (.seq [setRing t k r ⟨true, held, s.base40 b.1 b.2 t r⟩, .eff ((ringCounters k).map fun f => .fld f t r 0)]),
      .when (!en && on) (setRing t k r {}),
      regErr .SMV t q (reg.place.off + r * reg.place.stride)
        ((if !lsOk || refused then [causeRange] else []) ++ (if rsvd = 0 then [] else [causeRsvd]))] s

/-! ## The commands -/

/-- `SQTAIL_WRITE`. -/
def execSqtailWrite (q : Requester) (t r value : Nat) (s : State) : Host.Outcome State Fault Refusal := done (sqtailWriteX q t r value) s

/-- `CQHEAD_WRITE`. -/
def execCqheadWrite (q : Requester) (t r value : Nat) (s : State) : Host.Outcome State Fault Refusal := done (cqheadWriteX q t r value) s

/-- `RING_EN_WRITE`. -/
def execRingEnWrite (q : Requester) (t : Nat) (k : RingKind) (r value : Nat) (s : State) : Host.Outcome State Fault Refusal :=
  done (ringEnWriteX q t k r value) s

end Sys2Proof.Machine
end

