-- ==== Sys2Proof/Machine/Pcie.lean ====
section
/-! DEFINITION. The PCIe link and the reads of host memory (R371, R372), and function level resets (R372, R423). -/
namespace Sys2Proof.Machine

/-- Every tile's rings are fetched. -/
def pumpAllRings : Act := .each (List.range 64) pumpRings

/-! ## Reads of host memory end (R320, R371, R372) -/

/-- A read of host memory ends with a status, and data where it succeeds: a ring's slot is taken, or passed over when it did not
come; what belongs to an advanced epoch is discarded (R431). -/
def hostReadEnd (t : Nat) (x : Xfer) (status : Nat) (data : Option (List Byte × Bool)) : Act := fun s =>
  if x.q < ringQueue 0 then endXfer t x status data s
  else if s.stale x.inst x.epoch then Act.seq [freeXfer t x.tag, leaveFlight x.inst] s
  else
    let r := x.q - ringQueue 0
    Act.seq [freeXfer t x.tag, match data with
      | some d => ringTake t r d.1 d.2
      | none => ringSkip t r, .when (status != 0x0301) (pumpRing t r)] s

/-- The read of host memory that a tag names. -/
def State.hostRead (s : State) (t tag : Nat) : Option Xfer := (s.tile t).xfers.find? fun x => x.tag == tag && x.host

/-- `HOST_READ_COMPLETION`. (DESIGN CHOICE, log entry 59) -/
def hostReadCompletionX (t tag : Nat) (data : List Byte) (poison : Bool) : Act := fun s =>
  match s.hostRead t tag with
  | none => []
  | some x => if data.length = x.len then hostReadEnd t x 0 (some (data, poison)) s else []

/-- `HOST_READ_TIMEOUT`: no completion within 50 ms. -/
def hostReadTimeoutX (t tag : Nat) : Act := fun s => Act.opt (s.hostRead t tag) (fun x => hostReadEnd t x 0x0302 none) s

/-! ## The link -/

/-- The link leaves DL_Active: every access to host memory in flight completes with `ST_LINK_DOWN`. (DEDUCED, log entry 119) -/
def pcieLinkDownX : Act := fun s => Act.seq
  [setF F.LNK_PCISTAT_DLUP pcieTile 0,
   .each s.tiles fun e => .each (e.2.xfers.filter (·.host)) fun x => hostReadEnd e.1 x 0x0301 none] s

/-- The rings of a tile whose base lies in the host window are disabled. -/
def stopHostRings (t : Nat) : Act := fun s =>
  let c := s.tile t
  Act.seq [.each (List.range 4) fun r => .seq
      [.when ((c.sqRing.getD r {}).on && isHost (c.sqRing.getD r {}).base) (.seq [setFx F.SMV_SQCFG_EN t r 0, setRing t .sq r {}]),
       .when ((c.cqRing.getD r {}).on && isHost (c.cqRing.getD r {}).base) (.seq [setFx F.SMV_CQCFG_EN t r 0, setRing t .cq r {}])],
    .when (c.erRing.on && isHost c.erRing.base) (.seq [setF F.SMV_ERCFG_EN t 0, setRing t .er 0 {}])] s

/-- `PERST_ASSERT`: the link goes down, the host's enables are gone, and rings in host memory are disabled.
(DEDUCED, log entry 119) -/
def perstAssertX : Act := .seq
  [.each (List.range 64) stopHostRings, pcieLinkDownX, setF F.LNK_PCISTAT_NUMVF pcieTile 0]

/-- `PCIE_LINK_UP`: the link is in DL_Active at a generation and width, with the virtual functions that the host enables. A
tile out of service takes its interface with it (R33). (DEDUCED, log entry 119) -/
def pcieLinkUpX (gen width numvf : Nat) : Act := fun s =>
  if s.get F.MGT_PARTID_TILES_OK pkgTile 0 ≠ 0 ∧ !s.inService pcieTile then []
  else Act.seq [.eff [.fld F.LNK_PCISTAT_DLUP pcieTile 0 1, .fld F.LNK_PCISTAT_GEN pcieTile 0 gen, .fld F.LNK_PCISTAT_WIDTH pcieTile 0 width,
         .fld F.LNK_PCISTAT_NUMVF pcieTile 0 numvf], pumpAllRings] s

/-- The host window entries of a function are cleared (R433). (DEDUCED, log entry 45) -/
def clearWindow (fn : Nat) : Act := .eff ((List.range 4).flatMap fun e =>
  [.word .LNK_HWE_LO pcieTile (fn * 4 + e) 0, .word .LNK_HWE_HI pcieTile (fn * 4 + e) 0])

/-- `PCIE_FLR`: of virtual function `k`. It is complete with the reset that it starts or joins; an instance that is free has
nothing to reset. (DEDUCED, log entry 45) -/
def pcieFlrX (k : Nat) : Act := fun s =>
  if k = 0 ∨ 64 < k then []
  else
    let n := instOfVf k
    if s.instState n = instFree then Act.seq [clearWindow (fnOf n), emit (.flrDone k)] s
    else Act.seq [clearWindow (fnOf n), updI n fun x => { x with flr := true }, resetCause n rstFlr] s

/-! ## The commands -/

/-- `PCIE_FLR`. -/
def execPcieFlr (k : Nat) (s : State) : Host.Outcome State Fault Refusal := done (pcieFlrX k) s

/-- `PERST_ASSERT`. -/
def execPerstAssert (s : State) : Host.Outcome State Fault Refusal := done perstAssertX s

/-- `PCIE_LINK_DOWN`. -/
def execPcieLinkDown (s : State) : Host.Outcome State Fault Refusal := done pcieLinkDownX s

/-- `PCIE_LINK_UP`. -/
def execPcieLinkUp (gen width numvf : Nat) (s : State) : Host.Outcome State Fault Refusal := done (pcieLinkUpX gen width numvf) s

/-- `HOST_READ_COMPLETION`. -/
def execHostReadCompletion (t tag : Nat) (data : List Byte) (poison : Bool) (s : State) : Host.Outcome State Fault Refusal :=
  done (hostReadCompletionX t tag data poison) s

/-- `HOST_READ_TIMEOUT`. -/
def execHostReadTimeout (t tag : Nat) (s : State) : Host.Outcome State Fault Refusal := done (hostReadTimeoutX t tag) s

end Sys2Proof.Machine
end

