-- ==== Sys2Proof/Machine/Yard.lean ====
section
/-! DEFINITION. The Yard (R407 to R415): its edges and routes, replays, absorbed packets, and the quiesce sequence. -/
namespace Sys2Proof.Machine

/-! ## Route tables (R410, R418) -/

/-- The word of a route table entry (R418): its port and its intermediate tile. -/
def routeWord (r : Nat × Option Nat) : Word :=
  setBits (setBits (setBits 0 F.YRD_RT_OUT.hi F.YRD_RT_OUT.lo r.1) F.YRD_RT_VIA.hi F.YRD_RT_VIA.lo (b2n r.2.isSome))
    F.YRD_RT_INTER.hi F.YRD_RT_INTER.lo (r.2.getD 0)

/-- The route tables of one router (R418), from the last entry down. A destination without a route keeps its entry.
(DEDUCED, log entry 118) -/
def loadRoutes (y : Yard) (s : Nat) : List Eff :=
  let l := (List.range 64).filterMap fun d => (route y s d).map fun r => (d, r)
  (l.reverse.map fun e => .word .YRD_RT s e.1 (routeWord e.2)) ++ [.fld F.YRD_STAT_DETOUR s 0 (b2n (l.any fun e => e.2.2.isSome))]

/-- An edge is up: both its routers are in service, and it is. (DEDUCED, log entry 116) -/
def Yard.edgeUp (y : Yard) (e : Nat × Nat) : Bool :=
  !y.dead.contains e && !y.routers.contains e.1 && (neighbour e.1 e.2).elim false fun u => !y.routers.contains u

/-- The bits of `EDGEUP`: port p's is bit p. -/
def Yard.upMask (y : Yard) (t : Nat) : Nat :=
  maskList ((List.range 4).filter fun p => (edgeOf t p).elim false y.edgeUp)

/-- The routers in service are loaded: their edges, routes and idle state. (DEDUCED, log entry 118) -/
def loadYard : Act := fun s =>
  let y := s.pkg.yard
  ((List.range 64).reverse.filter fun t => !y.routers.contains t).flatMap fun t =>
    [.fld F.YRD_STAT_EDGEUP t 0 (y.upMask t), .fld F.YRD_STAT_IDLE t 0 0] ++ loadRoutes y t

/-- A change of the Yard's state. -/
def updYard (f : Yard → Yard) : Act := updP fun p => { p with yard := f p.yard }

/-- A router records an error (R418). -/
def yrdErr (t code port : Nat) : Act :=
  blockErr F.YRD_ERRSTAT_ERR F.YRD_ERRSTAT_CODE F.YRD_ERRCNT_COUNT t code [(F.YRD_ERRSTAT_PORT, port)]

/-- The edge of a port is up. -/
def State.portEdgeUp (s : State) (t port : Nat) : Bool := decide (port < 4) && bitOf (s.get F.YRD_STAT_EDGEUP t 0) port

/-! ## The quiesce sequence (R414, R415) -/

/-- A sequence runs. -/
def State.quiescing (s : State) : Bool := s.get F.YRD_QCTL_BUSY pkgTile 0 == 1

/-- A cause of a sequence: it starts, withholding injection credits, or a further one is due after the one that runs. -/
def startQuiesce : Act := fun s =>
  if s.quiescing then updYard (fun y => { y with again := true }) s
  else Act.seq [setF F.YRD_QCTL_BUSY pkgTile 1, updP fun p => { p with held := true, yard := { p.yard with reached := false } }] s

/-- `YARD_QUIESCE_REQ`: a write of 1 to `REQ`, without effect while a sequence runs. -/
def yardQuiesceReqX (q : Requester) : Act := fun s =>
  writeReg q s.bootTile .YRD_QCTL 0 (fun _ _ => fun s => Act.when (!s.quiescing) startQuiesce s) s

/-- `QUIESCE_DRAINED`: every router is idle, and step 3 begins: the weight caches are invalidated. -/
def quiesceDrainedX : Act := fun s =>
  if !s.quiescing ∨ s.pkg.yard.reached then []
  else Act.seq [updYard fun y => { y with reached := true },
    .eff (((List.range 64).filter fun t => !s.pkg.yard.routers.contains t).map fun t => .fld F.YRD_STAT_IDLE t 0 1),
    .each s.tiles fun e => updT e.1 fun c => { c with wc := c.wc.filter (·.filling) }] s

/-- An event of an edge counts at both its tiles. (DEDUCED, log entry 116) -/
def edgeEvent (f : Fld) (e : Nat × Nat) : Act := .seq [count f e.1 1, .opt (neighbour e.1 e.2) fun u => count f u 1]

/-- `QUIESCE_DONE`: every edge in service has trained but those that `bad` names, each by a tile and its port; the new routes are
loaded and injection goes on. -/
def quiesceDoneX (bad : List (Nat × Nat)) : Act := fun s =>
  let y := s.pkg.yard
  if !s.quiescing ∨ !y.reached then []
  else
    let lost := (bad.filterMap fun e => edgeOf e.1 e.2).dedup.filter y.edgeUp
    let again := y.again
    Act.seq [.each (y.down.filter fun e => !lost.contains e) (edgeEvent F.YRD_EDGEEVT_TRANSIENT),
      .each lost (edgeEvent F.YRD_EDGEEVT_LASTING), dlAppend (lost.map fun e => s.defect defEdge e.1 e.2 9),
      updP fun p => { p with
        held := p.drain,
        yard := { p.yard with down := [], dead := p.yard.dead ++ lost, reached := false, again := false } },
      loadYard, .eff [.fld F.YRD_QCTL_BUSY pkgTile 0 0, .fld F.YRD_QCTL_DONE pkgTile 0 1],
      if again then startQuiesce else pumpAllRings] s

/-- `QUIESCE_TIMEOUT`: step 3 is not reached 1 ms after the start; the wait goes on. -/
def quiesceTimeoutX : Act := fun s =>
  if !s.quiescing ∨ s.pkg.yard.reached then []
  else Act.seq [yrdErr s.bootTile 2 portLocal, setF F.YRD_QCTL_ESC pkgTile 1, escalate 3 0 0] s

/-! ## Replays (R411) and absorbed packets (R413) -/

/-- `YARD_FLIT_CRC_FAIL`: a flit that the router of `t` sent on a port fails its check and is delivered on a replay. -/
def yardFlitCrcFailX (t port : Nat) : Act := fun s => Act.when (s.portEdgeUp t port) (count F.YRD_REPLAY_COUNT t 1) s

/-- The bit of a port's edge is cleared at a tile, and the tile records the edge down. (DEDUCED, log entry 116) -/
def edgeDownAt (t port : Nat) : Act := fun s =>
  let m := s.get F.YRD_STAT_EDGEUP t 0
  Act.seq [setF F.YRD_STAT_EDGEUP t (m - (if bitOf m port then 2 ^ port else 0)), yrdErr t 1 port] s

/-- `YARD_REPLAY_BUDGET_EXPIRY`: the edge is down. (DEDUCED, log entry 117) -/
def yardReplayBudgetExpiryX (t port : Nat) : Act := fun s =>
  match neighbour t port, edgeOf t port with
  | some u, some e =>
    if !s.portEdgeUp t port then []
    else Act.seq [edgeDownAt t port, edgeDownAt u (farPort port), updYard fun y => { y with down := y.down ++ [e] },
      escalate 4 t 0, startQuiesce] s
  | _, _ => []

/-- `YARD_PACKET_ABSORB`: the router of a tile in reset absorbs a packet for its local port; `src` names the transfer, by the
tile that issued it and its tag, where it is a request, which is refused. -/
def yardPacketAbsorbX (t : Nat) (src : Option (Nat × Nat)) : Act := fun s =>
  if s.get F.PRT_TRST_BUSY t 0 = 0 then []
  else Act.seq [count F.YRD_ABSORB_COUNT t 1,
    .opt src fun e => .opt ((s.tile e.1).xfers.find? fun x => x.tag == e.2 && !x.host && !x.remote && wsTile x.addr == some t) fun x =>
      endXfer e.1 x 0x0401 none] s

/-! ## The commands -/

/-- `YARD_FLIT_CRC_FAIL`. -/
def execYardFlitCrcFail (t port : Nat) (s : State) : Host.Outcome State Fault Refusal := done (yardFlitCrcFailX t port) s

/-- `YARD_REPLAY_BUDGET_EXPIRY`. -/
def execYardReplayBudgetExpiry (t port : Nat) (s : State) : Host.Outcome State Fault Refusal := done (yardReplayBudgetExpiryX t port) s

/-- `YARD_PACKET_ABSORB`. -/
def execYardPacketAbsorb (t : Nat) (src : Option (Nat × Nat)) (s : State) : Host.Outcome State Fault Refusal :=
  done (yardPacketAbsorbX t src) s

/-- `YARD_QUIESCE_REQ`. -/
def execYardQuiesceReq (q : Requester) (s : State) : Host.Outcome State Fault Refusal := done (yardQuiesceReqX q) s

/-- `QUIESCE_DRAINED`. -/
def execQuiesceDrained (s : State) : Host.Outcome State Fault Refusal := done quiesceDrainedX s

/-- `QUIESCE_DONE`. -/
def execQuiesceDone (bad : List (Nat × Nat)) (s : State) : Host.Outcome State Fault Refusal := done (quiesceDoneX bad) s

/-- `QUIESCE_TIMEOUT`. -/
def execQuiesceTimeout (s : State) : Host.Outcome State Fault Refusal := done quiesceTimeoutX s

end Sys2Proof.Machine
end

