-- ==== Sys2Proof/Machine/Power.lean ====
section
/-! DEFINITION. Power and clocks (R473 to R482): the package reset (R439), the rails and their pins, the limiter, the throttle,
and the report records of a start (R445, R446). -/
namespace Sys2Proof.Machine

/-- A change of the always-on domain's state. -/
def updAon (f : AonSt → AonSt) : Act := updP fun p => { p with aonSt := f p.aonSt }

/-! ## What the straps and fuses give (R31, R442) -/

/-- Tile `t` has SerDes lanes, and its link index (R26, R28). -/
def isLinkTile (t : Nat) : Bool := (List.range 10).any fun k => linkTile k == t
def linkIdx (t : Nat) : Nat := ((List.range 10).find? fun k => linkTile k == t).getD 0

/-- A memory-attached tile, and a corner (R26). -/
def isMemTile (t : Nat) : Bool := decide (t < 8) || (decide (56 ≤ t) && decide (t < 64))
def corners : List Nat := [0, 7, 56, 63]

/-- `MGT_TILEROLE` and `MEM_HBMSTAT.PRESENT` as the bond straps load them (R27, R31, R417). -/
def bondRole (t : Nat) : List Eff :=
  let b (x : Bool) : Nat := b2n x
  [.fld F.MGT_TILEROLE_TILE t 0 t, .fld F.MGT_TILEROLE_LINKIDX t 0 (if isLinkTile t then linkIdx t else 0),
   .fld F.MGT_TILEROLE_HALF t 0 (if isMemTile t then t % 2 else 0),
   .fld F.MGT_TILEROLE_STACK t 0 (if isMemTile t then (if t < 8 then t / 2 else 4 + t % 8 / 2) else 0),
   .fld F.MGT_TILEROLE_BOOTCAND t 0 (b (corners.contains t)), .fld F.MGT_TILEROLE_PADDOCK t 0 (b (t == paddockTile)),
   .fld F.MGT_TILEROLE_PCIE t 0 (b (t == pcieTile)), .fld F.MGT_TILEROLE_LANES t 0 (b (isLinkTile t)),
   .fld F.MGT_TILEROLE_HBM t 0 (b (isMemTile t)), .fld F.MEM_HBMSTAT_PRESENT t 0 (b (isMemTile t))]

/-- The straps of every tile. -/
def bondRoles : Act := .eff ((List.range 64).flatMap bondRole)

/-- The registers that show the fuses (R5, R6, R468). -/
def fuseRegs (f : Fuses) : List Eff :=
  [.fld F.MGT_PARTID_VARIANT pkgTile 0 f.variant, .fld F.MGT_PARTID_STEPPING pkgTile 0 f.stepping,
   .fld F.MGT_PARTCAP_PKG_W_MAX pkgTile 0 f.pkgW, .fld F.MGT_PARTCAP_CORE_MHZ_MAX pkgTile 0 f.coreMax,
   .fld F.MGT_FUSESEC_KEYPRG pkgTile 0 (maskList ((List.range 4).filter fun k => (f.keydig.getD k []).any (· != 0))),
   .fld F.MGT_FUSESEC_KEYREV pkgTile 0 f.keyrev, .fld F.MGT_FUSESEC_SVN pkgTile 0 f.svn,
   .fld F.MGT_DEVID_LO_DEVID pkgTile 0 (f.devid % 2 ^ 32), .fld F.MGT_DEVID_HI_DEVID pkgTile 0 (f.devid / 2 ^ 32)]

/-- The fuses, once S0 has read them. -/
def State.fuses (s : State) : Fuses := s.pkg.perm.fuses.getD {}

/-! ## Report records (R445 to R447) -/

/-- The bits set in a mask of `n` bits. -/
def popBits (n m : Nat) : Nat := (bitList n m).length

/-- The bytes of a report record (R446). -/
def State.reportBytes (s : State) (stage result detail transient lasting arg arg2 : Nat) : List Byte :=
  let img := s.get F.MGT_BOOTSTAT_IMAGE pkgTile 0 + 2 * b2n ((parseImg s.pkg.boot.image).elim false Img.w3208) +
    4 * s.get F.MGT_BOOTSTAT_QUICK pkgTile 0
  toLe 1 stage ++ toLe 1 result ++ toLe 2 detail ++ toLe 4 ((s.aon - s.pkg.aonSt.stageAt) / 10 ^ 6) ++ toLe 8 s.pkg.aonSt.stageAt ++
    toLe 2 transient ++ toLe 2 lasting ++ toLe 1 ((List.range 64).filter s.inService).length ++
    toLe 1 (popBits 16 (s.get F.MGT_HBMCFG_INSVC pkgTile 0)) ++
    toLe 1 ((List.range 10).map fun k => popBits 8 (s.get F.LNK_LANESTAT_INSVC (linkTile k) 0)).sum ++
    toLe 1 img ++ toLe 4 arg ++ toLe 2 arg2 ++ [0, 0]

/-- A record is written at `NEXT`, which advances modulo 64. (DEDUCED, log entry 127) -/
def putReport (b : List Byte) : Act := fun s =>
  let i := s.get F.MGT_RPTPTR_NEXT pkgTile 0
  (List.range 8).map (fun j => .fld F.MGT_RPT_WORD pkgTile (8 * i + j) (leAt b (4 * j) 4)) ++
    [.fld F.MGT_RPTPTR_NEXT pkgTile 0 ((i + 1) % 64)]

/-- A stage completes: its record, then its code on `BOOT_STAGE`; the next stage begins. (DEDUCED, log entry 127) -/
def stageDone (stage : Nat) (units : Bool) (transient lasting arg arg2 : Nat) : Act := .seq
  [fun s => putReport (s.reportBytes stage (b2n units) 0 transient lasting arg arg2) s,
   setF F.MGT_BOOTSTAT_STAGE pkgTile stage, fun s => updAon (fun a => { a with next := stage + 1, stageAt := s.aon }) s]

/-- The start halts with a code. (DEDUCED, log entry 125) -/
def haltStart (stage code transient lasting : Nat) : Act := .seq
  [fun s => putReport (s.reportBytes stage 2 code transient lasting 0 0) s,
   setF F.MGT_BOOTSTAT_STAGE pkgTile code, updAon fun a => { a with next := 10 }]

/-! ## The package reset (R439, R533) -/

/-- Everything that the chips hold is gone, but for what the always-on domain, the fuses and the flash keep. -/
def clearContexts : Act := fun s =>
  s.streams.map (fun e => .stream e.1 fun _ => {}) ++ s.insts.map (fun e => .inst e.1 fun _ => {}) ++
  s.tiles.map (fun e => .tile e.1 fun _ => {}) ++ (List.range 65).map (.snapshot · []) ++
  [.unlatch, .pkg fun p => { perm := p.perm, aonSt := p.aonSt }, .setNow 0]

/-- The fields that survive a package reset (R446, R480, R491, R508, R513). (DEDUCED, log entry 124) -/
def survivors : List Fld :=
  [F.MGT_RPTPTR_NEXT, F.MGT_PWRSTAT_TRIP, F.MGT_PWRSTAT_UV, F.MGT_PWRSTAT_UVRAIL, F.MGT_THERM_HOTMIN, F.HSP_STAT_FAILS, F.HSP_STAT_LOCKOUT]

/-- A package reset: registers return to their reset values, package time restarts, and the start goes on at S1.
(DEDUCED, log entry 124) -/
def packageReset : Act := fun s => Act.seq
  [clearContexts, .eff [.resetRegs fun k => k.reg != .MGT_RPT],
   .eff (survivors.map fun f => .fld f pkgTile 0 (s.get f pkgTile 0)),
   .when s.pkg.aonSt.pgAon bondRoles, .when s.pkg.aonSt.s0 (.eff (fuseRegs s.fuses)),
   updAon fun a => { a with next := if a.s0 then 1 else 0, stageAt := s.aon, anew := a.s0, fall := false }] s

/-! ## Rails and pins (R472 to R475, R482) -/

/-- `POWER_GOOD_AON`: the always-on domain runs and S0 begins; the `MASTER_SEL` strap is read. (DESIGN CHOICE, log entry 123) -/
def powerGoodAonX (master : Bool) : Act := fun s =>
  if s.pkg.aonSt.pgAon then []
  else Act.seq [.eff [.startAon], bondRoles, updAon fun a => { a with pgAon := true, masterSel := master, next := 0, stageAt := 0 }] s

/-- `PWR_GOOD_ASSERT`: S1 begins when S0 has ended. (DEDUCED, log entry 126) -/
def pwrGoodAssertX : Act := fun s =>
  if s.pkg.aonSt.pg ∨ !s.pkg.aonSt.pgAon then []
  else updAon (fun a => { a with pg := true, stageAt := if a.next = 1 then s.aon else a.stageAt }) s

/-- `PWR_GOOD_DEASSERT`: acts as `PKG_RST_N`; S1 waits for the pin. -/
def pwrGoodDeassertX : Act := fun s =>
  if !s.pkg.aonSt.pg then [] else Act.seq [updAon fun a => { a with pg := false }, packageReset] s

/-- `RAIL_UNDERVOLTAGE`: of a main rail while `PWR_GOOD` is asserted. -/
def railUndervoltageX (rail : Nat) : Act := fun s =>
  if !s.pkg.aonSt.pg ∨ 8 ≤ rail then []
  else Act.seq [packageReset, setF F.MGT_PWRSTAT_UV pkgTile 1, setF F.MGT_PWRSTAT_UVRAIL pkgTile rail] s

/-- `AON_POWER_LOSS`: every always-on domain ends, and with it everything but the fuses and the flash; memory is lost.
(DEDUCED, log entry 124) -/
def aonPowerLossX : Act := fun s => Act.seq
  [clearContexts, .eff ([.resetRegs fun _ => true, .memZero 0 hostEnd, .unpoison 0 (hostEnd / 64)] ++ s.bale.map fun e => .bale e.1 0),
   updAon fun _ => {}] s

/-- `PKG_RST_PIN`: `PKG_RST_N` is asserted, and the reset takes effect at once. -/
def pkgRstPinX : Act := fun s => if s.pkg.aonSt.pgAon then packageReset s else []

/-- `PKG_RESET_REQUEST`: a write of `GO`; with any other key it is ignored. -/
def pkgResetRequestX (q : Requester) (key : Nat) : Act := fun s =>
  writeReg q s.bootTile .PRT_PKGRST 0 (fun _ _ => .when (key == 0xA5C3) (updP fun p => { p with held := true, drain := true })) s

/-- `PKG_RESET_DRAIN_END`: the routers are idle or 1 ms has passed, with `n` packets still in flight. -/
def pkgResetDrainEndX (n : Nat) : Act := fun s =>
  if !s.pkg.drain then [] else Act.seq [updAon fun a => { a with inflight := n }, packageReset] s

/-- `THERMAL_TRIP`: every fast clock stops, and the trip is written to the report ring. (DEDUCED, log entry 122) -/
def thermalTripX : Act := fun s =>
  if !s.pkg.aonSt.pgAon ∨ s.get F.MGT_PWRSTAT_TRIP pkgTile 0 = 1 then []
  else Act.seq [setF F.MGT_PWRSTAT_TRIP pkgTile 1, .eff ((List.range 64).map fun t => .fld F.MGT_CLKSTAT_CORE_MHZ t 0 0),
    putReport (s.reportBytes (min 9 (s.get F.MGT_BOOTSTAT_STAGE pkgTile 0)) 2 0 0 0 0 0)] s

/-- The pins that the device drives (R445, R472, R482): `BOOT_STAGE`, and whether `THERMTRIP_N` and `ALERT_N` are low. -/
def State.bootStagePins (s : State) : Nat := s.get F.MGT_BOOTSTAT_STAGE pkgTile 0
def State.thermtripLow (s : State) : Bool := s.get F.MGT_PWRSTAT_TRIP pkgTile 0 == 1
def State.alertLow (s : State) : Bool :=
  s.get F.MGT_PWRSTAT_THROTTLE pkgTile 0 == 1 || s.get F.MGT_PWRSTAT_FLOOR pkgTile 0 == 1 || s.get F.MGT_PWRSTAT_UV pkgTile 0 == 1

/-! ## The core clock (R476 to R481, R491) -/

/-- The cap of the core clock. -/
def State.clockCap (s : State) : Nat :=
  let m := s.get F.MGT_PARTCAP_CORE_MHZ_MAX pkgTile 0
  let c := s.get F.MGT_PWRCFG_CAPMHZ pkgTile 0
  if c = 0 then m else min c m

/-- The lowest step. -/
def stepFloor : Nat := 600

/-- A decider's step meets a new cap: one that stood at the old cap follows it. (DEDUCED, log entry 121) -/
def meetCap (step old cap : Nat) : Nat := if step = old then cap else min step cap

/-- The decision of the limiter (R476, R477) at `mw` milliwatts with a limit of `w` watts: its state, the steps up and down, and
whether `FLOOR` is set. (DEDUCED, log entry 121) -/
def Pwr.limiter (p : Pwr) (mw w cap : Nat) : Pwr × Nat × Nat × Bool :=
  if 980 * w < mw then
    if stepFloor < p.lim then ({ p with lim := p.lim - 100, low := 0, floor := 0 }, 0, 1, false)
    else ({ p with low := 0, floor := min 100 (p.floor + 1) }, 0, 0, decide (100 ≤ p.floor + 1))
  else if mw < 930 * w then
    if 100 ≤ p.low + 1 ∧ p.lim < cap then ({ p with lim := min cap (p.lim + 100), low := 0, floor := 0 }, 1, 0, false)
    else ({ p with low := min 100 (p.low + 1), floor := 0 }, 0, 0, false)
  else ({ p with low := 0, floor := 0 }, 0, 0, false)

/-- The decision of the throttle (R481) at a junction temperature. (DEDUCED, log entry 121) -/
def Pwr.throttle (p : Pwr) (tj thr : Int) (cap : Nat) : Pwr × Nat × Nat :=
  if thr < tj then
    if stepFloor < p.thr then ({ p with thr := p.thr - 100, cool := 0 }, 0, 1) else ({ p with cool := 0 }, 0, 0)
  else if tj < thr - 3 then
    if 100 ≤ p.cool + 1 ∧ p.thr < cap then ({ p with thr := min cap (p.thr + 100), cool := 0 }, 1, 0)
    else ({ p with cool := min 100 (p.cool + 1) }, 0, 0)
  else ({ p with cool := 0 }, 0, 0)

/-- A tile's temperature: the highest of its four sensors (R480). -/
def tileTj (x : Sense) (t : Nat) : Int := ((x.tj.getD t []).max?).getD 0

/-- The tile in service with the highest temperature, the lowest-numbered of equals. -/
def State.hottest (s : State) (x : Sense) : Nat :=
  ((List.range 64).filter s.inService).foldl (fun a t => if tileTj x a < tileTj x t then t else a)
    (((List.range 64).find? s.inService).getD 0)

/-- The readings of the sensors go into their registers (R480, R491, R417). -/
def readings (x : Sense) : Act := fun s =>
  let w := x.mw / 1000
  let hot := s.hottest x
  let tiles := (List.range 64).filter s.inService
  [.fld F.MGT_PWRNOW_AVG_W pkgTile 0 w, .fld F.MGT_PWRNOW_PEAK_W pkgTile 0 (max w (s.get F.MGT_PWRNOW_PEAK_W pkgTile 0)),
   .fld F.MGT_THERM_TJMAX pkgTile 0 (ofSigned 8 (tileTj x hot)), .fld F.MGT_THERM_HOTTILE pkgTile 0 hot] ++
  (tiles.flatMap fun t =>
    let v := ofSigned 8 (tileTj x t)
    [.fld F.MGT_TJ_NOW t 0 v,
     .fld F.MGT_TJ_MAX t 0 (if toSigned 8 (s.get F.MGT_TJ_MAX t 0) < toSigned 8 v then v else s.get F.MGT_TJ_MAX t 0)]) ++
  ((tiles.filter isMemTile).map fun t => .fld F.MEM_HBMSTAT_TEMP t 0 (x.hbmT.getD (if t < 8 then t / 2 else 4 + t % 8 / 2) 0)) ++
  (x.rails.zipIdx.flatMap fun e => [.fld F.MGT_RAIL_MV pkgTile e.2 e.1.1, .fld F.MGT_RAIL_DECIAMP pkgTile e.2 e.1.2])

/-- The tiles whose core clock runs. (DEDUCED, log entry 122) -/
def State.clocked (s : State) : List Nat := (List.range 64).filter fun t => s.inService t && s.slp t == slpRun

/-- The lower of the two steps is put in use: a step down at once, a step up when it is done (R478). -/
def takeStep : Act := fun s =>
  let now_ := s.get F.MGT_PWRSTAT_CORE_MHZ pkgTile 0
  let step := min s.pkg.pwr.lim s.pkg.pwr.thr
  if step = now_ then []
  else s.clocked.map (fun t => .fld F.MGT_CLKSTAT_CHANGING t 0 1) ++
    (if step < now_ then .fld F.MGT_PWRSTAT_CORE_MHZ pkgTile 0 step :: s.clocked.map (fun t => .fld F.MGT_CLKSTAT_CORE_MHZ t 0 step) else [])

/-- `LIMIT` and `THROTTLE` show what holds the clock below the cap; `LIMIT` stays until the clock has taken a step up (R478). -/
def syncLimits (cap : Nat) : Act := fun s =>
  let rising := decide (s.get F.MGT_PWRSTAT_CORE_MHZ pkgTile 0 < min s.pkg.pwr.lim s.pkg.pwr.thr)
  [.fld F.MGT_PWRSTAT_LIMIT pkgTile 0
     (b2n (decide (s.pkg.pwr.lim < cap) || (rising && s.get F.MGT_PWRSTAT_LIMIT pkgTile 0 == 1))),
   .fld F.MGT_PWRSTAT_THROTTLE pkgTile 0 (b2n (decide (s.pkg.pwr.thr < cap)))]

/-- `LIMITER_DECISION`: the end of a 100 µs interval, once core clocks run. -/
def limiterDecisionX (x : Sense) : Act := fun s =>
  if s.get F.MGT_PWRSTAT_CORE_MHZ pkgTile 0 = 0 ∨ s.get F.MGT_PWRSTAT_TRIP pkgTile 0 = 1 then []
  else
    let cap := s.clockCap
    let p := s.pkg.pwr
    let p := { p with lim := meetCap p.lim p.cap cap, thr := meetCap p.thr p.cap cap, cap := cap }
    let l := p.limiter x.mw (s.get F.MGT_PARTCAP_PKG_W_MAX pkgTile 0) cap
    let h := l.1.throttle (tileTj x (s.hottest x)) (s.get F.MGT_PWRCFG_TJ_THR pkgTile 0) cap
    Act.seq [readings x, updP fun g => { g with pwr := h.1 },
      count F.MGT_PWRSTEPS_UP pkgTile (l.2.1 + h.2.1), count F.MGT_PWRSTEPS_DOWN pkgTile (l.2.2.1 + h.2.2),
      .when l.2.2.2 (setF F.MGT_PWRSTAT_FLOOR pkgTile 1), takeStep, syncLimits cap] s

/-- `CLOCK_STEP_DONE`: the step in progress is done. -/
def clockStepDoneX : Act := fun s =>
  if !(List.range 64).any (fun t => s.get F.MGT_CLKSTAT_CHANGING t 0 == 1) then []
  else
    let step := min s.pkg.pwr.lim s.pkg.pwr.thr
    Act.seq [.eff (.fld F.MGT_PWRSTAT_CORE_MHZ pkgTile 0 step :: s.clocked.map (fun t => .fld F.MGT_CLKSTAT_CORE_MHZ t 0 step) ++
      (List.range 64).map fun t => .fld F.MGT_CLKSTAT_CHANGING t 0 0), syncLimits s.pkg.pwr.cap] s

/-- `HOTMIN_TICK`: a whole minute since power-on with the package Tj above 95 °C. -/
def hotminTickX : Act := fun s =>
  Act.when (decide (95 < toSigned 8 (s.get F.MGT_THERM_TJMAX pkgTile 0))) (count F.MGT_THERM_HOTMIN pkgTile 1) s

/-! ## The commands -/

/-- `POWER_GOOD_AON`. -/
def execPowerGoodAon (master : Bool) (s : State) : Host.Outcome State Fault Refusal := done (powerGoodAonX master) s

/-- `PWR_GOOD_ASSERT`. -/
def execPwrGoodAssert (s : State) : Host.Outcome State Fault Refusal := done pwrGoodAssertX s

/-- `PWR_GOOD_DEASSERT`. -/
def execPwrGoodDeassert (s : State) : Host.Outcome State Fault Refusal := done pwrGoodDeassertX s

/-- `RAIL_UNDERVOLTAGE`. -/
def execRailUndervoltage (rail : Nat) (s : State) : Host.Outcome State Fault Refusal := done (railUndervoltageX rail) s

/-- `AON_POWER_LOSS`. -/
def execAonPowerLoss (s : State) : Host.Outcome State Fault Refusal := done aonPowerLossX s

/-- `THERMAL_TRIP`. -/
def execThermalTrip (s : State) : Host.Outcome State Fault Refusal := done thermalTripX s

/-- `LIMITER_DECISION`. -/
def execLimiterDecision (x : Sense) (s : State) : Host.Outcome State Fault Refusal := done (limiterDecisionX x) s

/-- `CLOCK_STEP_DONE`. -/
def execClockStepDone (s : State) : Host.Outcome State Fault Refusal := done clockStepDoneX s

/-- `HOTMIN_TICK`. -/
def execHotminTick (s : State) : Host.Outcome State Fault Refusal := done hotminTickX s

/-- `PKG_RST_PIN`. -/
def execPkgRstPin (s : State) : Host.Outcome State Fault Refusal := done pkgRstPinX s

/-- `PKG_RESET_REQUEST`. -/
def execPkgResetRequest (q : Requester) (key : Nat) (s : State) : Host.Outcome State Fault Refusal := done (pkgResetRequestX q key) s

/-- `PKG_RESET_DRAIN_END`. -/
def execPkgResetDrainEnd (n : Nat) (s : State) : Host.Outcome State Fault Refusal := done (pkgResetDrainEndX n) s

end Sys2Proof.Machine
end

