-- ==== Sys2Proof/Machine/Hasp.lean ====
section
/-! DEFINITION. Hasp (R504 to R510): opening by challenge and response or by password, its lockout, and its actions. -/
namespace Sys2Proof.Machine

/-- A change of what Hasp holds. -/
def updHasp (f : Hasp → Hasp) : Act := updP fun p => { p with hasp := f p.hasp }

/-- The result of an attempt, an action or a refusal. -/
def haspLast (status : Nat) : Act := setF F.HSP_LAST_STATUS pkgTile status

/-- A minute and a second of the always-on clock, in ns. -/
def secNs : Nat := 10 ^ 9
def minNs : Nat := 60 * secNs

/-- The bytes of a run of registers (R506). -/
def State.haspBytes (s : State) (f : Fld) (n : Nat) : List Byte := (List.range n).flatMap fun i => toLe 4 (s.get f pkgTile i)

/-- The response and password registers are cleared after a check. -/
def clearSecrets : Act := .eff ((List.range 8).map (fun i => .fld F.HSP_RESP_MAC pkgTile i 0) ++
  (List.range 16).map fun i => .fld F.HSP_PW_PW pkgTile i 0)

/-- The scopes of R509. -/
def scopeJtag : Nat := 0
def scopeView : Nat := 1
def scopeDefect : Nat := 2
def scopeAct : Nat := 3
def scopePwset : Nat := 4

/-- Hasp opens with some scopes for some minutes. -/
def openHasp (scope minutes : Nat) : Act := fun s => Act.seq
  [.eff [.fld F.HSP_STAT_OPEN pkgTile 0 1, .fld F.HSP_STAT_SCOPE pkgTile 0 scope, .fld F.HSP_STAT_REMAIN pkgTile 0 minutes,
     .fld F.HSP_STAT_FAILS pkgTile 0 0],
   updHasp fun h => { h with until_ := s.aon + minutes * minNs }, haspLast 0] s

/-- Hasp closes. -/
def closeHasp : Act := .seq
  [.eff [.fld F.HSP_STAT_OPEN pkgTile 0 0, .fld F.HSP_STAT_SCOPE pkgTile 0 0, .fld F.HSP_STAT_REMAIN pkgTile 0 0],
   updHasp fun h => { h with until_ := 0 }]

/-- The refusal period after a number of failures in seconds (R508). -/
def lockoutSec (fails : Nat) : Nat := if fails < 4 then 0 else min 3600 (60 * 2 ^ (fails - 4))

/-- An attempt fails its check. -/
def failHasp : Act := fun s =>
  let n := min 15 (s.get F.HSP_STAT_FAILS pkgTile 0 + 1)
  Act.seq [haspLast 0x0502, setF F.HSP_STAT_FAILS pkgTile n,
    .when (lockoutSec n != 0) (.seq [setF F.HSP_STAT_LOCKOUT pkgTile (cdiv (lockoutSec n) 60),
      updAon fun a => { a with lockUntil := s.aon + lockoutSec n * secNs }])] s

/-- Attempts are refused (R508). (DEDUCED, log entry 139) -/
def State.lockedOut (s : State) : Bool := s.get F.HSP_STAT_LOCKOUT pkgTile 0 != 0

/-- An attempt: refused unchecked during a lockout, else checked. (DEDUCED, log entry 139) -/
def attempt (ok : State → Bool) (scope minutes : Nat) : Act := fun s =>
  if s.lockedOut then haspLast 0x0502 s
  else Act.seq [if ok s then openHasp scope minutes else failHasp, clearSecrets] s

/-- A write of 1 to a bit of `HSP_CMD`. (DEDUCED, log entry 34) -/
def haspCmd (q : Requester) (a : Act) : Act := fun s => writeReg q s.bootTile .HSP_CMD 0 (fun _ _ => a) s

/-! ## The challenge (R506) -/

/-- The message that a response authenticates. -/
def haspMessage (devid : Nat) (nonce : List Byte) (scope minutes : Nat) : List Byte :=
  [0x48, 0x41, 0x53, 0x50] ++ toLe 8 devid ++ nonce ++ toLe 1 scope ++ [0] ++ toLe 2 minutes

/-- `HASP_CHALLENGE`: a new nonce. (DESIGN CHOICE, log entry 63) -/
def haspChallengeX (q : Requester) : Act := haspCmd q fun s =>
  let b := Config.nonce s.draws
  Act.seq [.eff ((List.range 4).map fun i => .fld F.HSP_NONCE_NONCE pkgTile i (leAt b (4 * i) 4)), .eff [.draw 1],
    updHasp fun h => { h with nonce := true }] s

/-- The response is right for the scope and time requested. -/
def State.responseOk (s : State) : Bool :=
  s.pkg.hasp.nonce &&
  hmac256 s.fuses.hkey (haspMessage s.fuses.devid (s.haspBytes F.HSP_NONCE_NONCE 4) (s.get F.HSP_REQ_SCOPE pkgTile 0)
    (s.get F.HSP_REQ_MINUTES pkgTile 0)) == s.haspBytes F.HSP_RESP_MAC 8

/-- `HASP_SUBMIT`: the nonce serves no further attempt. -/
def haspSubmitX (q : Requester) : Act := haspCmd q fun s => Act.seq
  [attempt State.responseOk (s.get F.HSP_REQ_SCOPE pkgTile 0) (s.get F.HSP_REQ_MINUTES pkgTile 0),
   updHasp fun h => { h with nonce := false }] s

/-! ## Passwords (R507) -/

/-- The password in the registers, where its length is one that a password may have. -/
def State.password (s : State) : Option (List Byte) :=
  let n := s.get F.HSP_PWLEN_LEN pkgTile 0
  if 16 ≤ n ∧ n ≤ 64 then some ((s.haspBytes F.HSP_PW_PW 16).take n) else none

/-- The hash of a password. -/
def pwHash (devid : Nat) (pw : List Byte) : List Byte := sha256 (toLe 8 devid ++ pw)

/-- The number of slots up to the one in force; the next is the first that can be programmed. (DEDUCED, log entry 140) -/
def pwSlots (slots : List (List Byte)) : Nat :=
  ((List.range 4).filter fun k => (slots.getD k []).any (· != 0)).foldl (fun _ k => k + 1) 0

/-- The password is that of the slot in force, and the scopes are ones that a password opens. -/
def State.passwordOk (s : State) : Bool :=
  let f := s.fuses
  let n := pwSlots f.pw
  let sc := s.get F.HSP_REQ_SCOPE pkgTile 0
  n != 0 && !bitOf sc scopeDefect && !bitOf sc scopePwset &&
  s.password.elim false fun pw => pwHash f.devid pw == f.pw.getD (n - 1) []

/-- `HASP_PW_SUBMIT`: a password opens for 60 minutes. -/
def haspPwSubmitX (q : Requester) : Act := haspCmd q fun s => attempt State.passwordOk (s.get F.HSP_REQ_SCOPE pkgTile 0) 60 s

/-- `HASP_PW_SET`: while Hasp is open with scope `PWSET`, the next empty slot takes the hash of the password.
(DEDUCED, log entry 140) -/
def haspPwSetX (q : Requester) : Act := haspCmd q fun s =>
  if !s.haspScope scopePwset then lockedAct .HSP pkgTile q 0x04 s
  else
    let f := s.fuses
    let n := pwSlots f.pw
    match s.password with
    | none => haspLast 0x0502 s
    | some pw =>
      if 4 ≤ n then haspLast 0x0502 s
      else
        let slots := ((List.range 4).map fun k => f.pw.getD k (List.replicate 32 0)).set n (pwHash f.devid pw)
        Act.seq [updPerm fun p => { p with fuses := some { f with pw := slots } }, haspLast 0] s

/-! ## Closing and timers (R506, R508, R509) -/

/-- `HASP_CLOSE`. -/
def haspCloseX (q : Requester) : Act := haspCmd q closeHasp

/-- `HASP_OPEN_EXPIRY`: the end of the open time. -/
def haspOpenExpiryX : Act := fun s => Act.when (s.get F.HSP_STAT_OPEN pkgTile 0 == 1) closeHasp s

/-- `HASP_NONCE_EXPIRY`: 600 s after the challenge. -/
def haspNonceExpiryX : Act := updHasp fun h => { h with nonce := false }

/-- `HASP_LOCKOUT_END`: the refusal period is over. -/
def haspLockoutEndX : Act := .seq [setF F.HSP_STAT_LOCKOUT pkgTile 0, updAon fun a => { a with lockUntil := 0 }]

/-! ## Actions (R510) -/

/-- A write of `HSP_ACT` with `GO`: `op` needs its scope. (DEDUCED, log entry 141) -/
def haspAct (q : Requester) (op arg scope : Nat) (a : Act) : Act := fun s =>
  writeReg q s.bootTile .HSP_ACT 0 (fun _ _ => fun s =>
    if !s.haspScope scope then lockedAct .HSP pkgTile q 0x84 s
    else Act.seq [.eff [.fld F.HSP_ACT_OP pkgTile 0 op, .fld F.HSP_ACT_ARG pkgTile 0 arg], a] s) s

/-- `HASP_IRESET`: a reset of an instance with cause 3. (DEDUCED, log entry 141) -/
def haspIresetX (q : Requester) (arg : Nat) : Act := haspAct q 1 arg scopeAct fun s =>
  let n := arg % 64
  if s.instState n = instFree then haspLast 0x0104 s else Act.seq [resetCause n rstEscalation, haspLast 0] s

/-- `HASP_DLREMOVE`: an entry of the defect list is removed; it takes effect at the next start. (DEDUCED, log entry 141) -/
def haspDlremoveX (q : Requester) (arg : Nat) : Act := haspAct q 2 arg scopeDefect fun s =>
  let i := arg % 1024
  let l := s.pkg.perm.defects
  if s.get F.MGT_DLCNT_COUNT pkgTile 0 ≤ i ∨ l.length ≤ i then haspLast 0x0104 s
  else Act.seq [updPerm fun p => { p with dl := writeCopy DlCopy.gen (fun g => ⟨g, l.eraseIdx i⟩) p.dl }, haspLast 0] s

/-! ## The commands -/

/-- `HASP_CHALLENGE`. -/
def execHaspChallenge (q : Requester) (s : State) : Host.Outcome State Fault Refusal := done (haspChallengeX q) s

/-- `HASP_SUBMIT`. -/
def execHaspSubmit (q : Requester) (s : State) : Host.Outcome State Fault Refusal := done (haspSubmitX q) s

/-- `HASP_PW_SUBMIT`. -/
def execHaspPwSubmit (q : Requester) (s : State) : Host.Outcome State Fault Refusal := done (haspPwSubmitX q) s

/-- `HASP_PW_SET`. -/
def execHaspPwSet (q : Requester) (s : State) : Host.Outcome State Fault Refusal := done (haspPwSetX q) s

/-- `HASP_CLOSE`. -/
def execHaspClose (q : Requester) (s : State) : Host.Outcome State Fault Refusal := done (haspCloseX q) s

/-- `HASP_OPEN_EXPIRY`. -/
def execHaspOpenExpiry (s : State) : Host.Outcome State Fault Refusal := done haspOpenExpiryX s

/-- `HASP_NONCE_EXPIRY`. -/
def execHaspNonceExpiry (s : State) : Host.Outcome State Fault Refusal := done haspNonceExpiryX s

/-- `HASP_LOCKOUT_END`. -/
def execHaspLockoutEnd (s : State) : Host.Outcome State Fault Refusal := done haspLockoutEndX s

/-- `HASP_IRESET`. -/
def execHaspIreset (q : Requester) (arg : Nat) (s : State) : Host.Outcome State Fault Refusal := done (haspIresetX q arg) s

/-- `HASP_DLREMOVE`. -/
def execHaspDlremove (q : Requester) (arg : Nat) (s : State) : Host.Outcome State Fault Refusal := done (haspDlremoveX q arg) s

end Sys2Proof.Machine
end

