-- ==== Sys2Proof/Machine/Clock.lean ====
section
/-! DEFINITION. The tick (DESIGN CHOICE, log entry 4): what 20 ns of time change when no command waits. Package time and the time
since the always-on domain started advance, a remaining PTP offset is slewed away, the counters of waiting cycles count, and the
minutes that Hasp shows follow the clock. Everything else that happens in time is a command. -/
namespace Sys2Proof.Machine

/-- One tick, in ns: the period of the 50 MHz always-on clock (R489). (DESIGN CHOICE, log entry 4) -/
def tickNs : Nat := 20

/-- The core cycles of a tile in one tick; none while its clocks stand. (DEDUCED, log entry 5) -/
def State.coreCycles (s : State) (t : Nat) : Nat := s.get F.MGT_CLKSTAT_CORE_MHZ t 0 * tickNs / 1000

/-- A queue of a tile waits for a tag (R332). -/
def State.tagWait (s : State) (t : Nat) : Bool :=
  (s.tile t).items.any fun i => (i.reads != [] || i.writes != []) && (s.freeTag t i.q).isNone

/-- The array of a tile stands idle with every ready queue waiting on a fence (R228). -/
def State.fenceIdle (s : State) (t : Nat) : Bool :=
  let qs := ((List.range 4).filter (bitOf (s.get F.ARR_QCTL_QEN t 0))).map (s.qHead t)
  (s.tile t).blocks.isEmpty && (qs.any fun h => match h with | .fence => true | _ => false) &&
  qs.all fun h => match h with | .fence => true | .none => true | _ => false

/-- The counters of waiting cycles of a tile (R228, R320, R332). (DEDUCED, log entry 5) -/
def countWaits (t : Nat) : Act := fun s =>
  let n := s.coreCycles t
  if n = 0 then []
  else (if (s.tile t).cqWait.isEmpty then [] else [.countU F.SMV_CQSTALL_COUNT t 0 256 n]) ++
    (if s.tagWait t then [.countU F.SMV_TAGSTALL_COUNT t 0 256 n] else []) ++
    (if s.fenceIdle t then [.countU F.ARR_FENCECNT_COUNT t 0 256 n] else [])

/-- A measured offset is removed by slewing at 500 ppm: 1 ns in every 2,000 ns (R352). (DEDUCED, log entry 7) -/
def slew : Act := fun s =>
  if s.pkg.ptpSlew = 0 ∨ (s.aon + tickNs) / 2000 = s.aon / 2000 then []
  else if 0 < s.pkg.ptpSlew then [.setNow (s.now + (2 ^ 64 - 1)), .pkg fun p => { p with ptpSlew := p.ptpSlew - 1 }]
  else [.setNow (s.now + 1), .pkg fun p => { p with ptpSlew := p.ptpSlew + 1 }]

/-- The minutes to an instant, rounded up. (DESIGN CHOICE, log entry 6) -/
def State.minutesTo (s : State) (u : Nat) : Nat := cdiv (u - s.aon) minNs

/-- The minutes that Hasp shows (R513). (DESIGN CHOICE, log entry 6) -/
def haspMinutes : Act := fun s =>
  (if s.get F.HSP_STAT_OPEN pkgTile 0 = 1 then [.fld F.HSP_STAT_REMAIN pkgTile 0 (s.minutesTo s.pkg.hasp.until_)] else []) ++
  (if s.get F.HSP_STAT_LOCKOUT pkgTile 0 = 0 then [] else [.fld F.HSP_STAT_LOCKOUT pkgTile 0 (s.minutesTo s.pkg.aonSt.lockUntil)])

/-- One tick of a package whose always-on domain runs. (DESIGN CHOICE, log entry 4) -/
def tick : Act := fun s =>
  if !s.pkg.aonSt.pgAon then []
  else Act.seq [slew, .eff [.tick tickNs], .each (s.tiles.map (·.1)) countWaits, haspMinutes] s

end Sys2Proof.Machine
end

