-- ==== Sys2Proof/Machine/Engines.lean ====
section
/-! DEFINITION. Function states (R427, R428) and engine resets (R437). -/
namespace Sys2Proof.Machine

/-- `EN` and `PENDING_EN` of a block, and its control register (R427). -/
def ctlReg : Engine → Reg
  | .arr => .ARR_CTL | .sfu => .SFU_CTL | .ece => .ECE_CTL | .sce => .SCE_CTL
  | .smv => .SMV_CTL | .ing => .ING_CTL | .lnk => .LNK_CTL | .fxg => .FXG_CTL
def ctlEn (b : Engine) : Fld := ⟨ctlReg b, 0, 0⟩
def ctlPend (b : Engine) : Fld := ⟨ctlReg b, 1, 1⟩

/-- The bits of `PRT_ERST` (R441). -/
def erstBit : Engine → Option Nat
  | .arr => some 0 | .sfu => some 1 | .ece => some 2 | .sce => some 3 | .ing => some 4 | .lnk => some 5 | .fxg => some 6 | .smv => none

/-- The blocks that an engine reset may name, by bit. -/
def erstEngine : Nat → Engine
  | 0 => .arr | 1 => .sfu | 2 => .ece | 3 => .sce | 4 => .ing | 5 => .lnk | _ => .fxg

/-- An engine reset of the block is in progress. -/
def State.engineResets (s : State) (b : Engine) (t : Nat) : Bool :=
  (erstBit b).elim false (bitOf (s.get F.PRT_ERST_ENG t 0))

/-- The block can be turned on: link and ingest blocks need the tile's lanes (R30), and the entropy coder a lane in service. -/
def State.canEnable (s : State) (b : Engine) (t : Nat) : Bool :=
  match b with
  | .lnk => s.hasLnk t
  | .ing => s.get F.MGT_TILEROLE_LANES t 0 == 1
  | .ece => s.get F.ECE_LANECFG_PHYMASK t 0 != 0
  | _ => true

/-! ## Function states (R427, R428) -/

/-- A write to `EN` (R427). A 1 is ignored where the block cannot be turned on (R132, R536). An engine that is being reset comes back in the state that `EN` then selects (R437). -/
def enWrite (b : Engine) (t : Nat) (en : Bool) : Act := fun s =>
  let st := s.get (ctlState b) t 0
  let base : Eff := .fld (ctlEn b) t 0 (b2n en)
  if en && !s.canEnable b t then []
  else if s.engineResets b t then [base]
  else if st = fnOff then base :: (if en then [.fld (ctlState b) t 0 fnEnabling] else [])
  else if st = fnEnabling then [base, .fld (ctlPend b) t 0 (b2n (!en))]
  else if st = fnOn then base :: (if en then [] else [.fld (ctlState b) t 0 fnDisabling])
  else [base, .fld (ctlPend b) t 0 (b2n en)]

/-- `FUNC_EN_WRITE`. -/
def funcEnWriteX (q : Requester) (t : Nat) (b : Engine) (en : Bool) : Act := writeReg q t (ctlReg b) 0 fun t _ => enWrite b t en

/-- A block has finished what it does before it is OFF (R428). (DEDUCED, log entry 49) -/
def State.blockDrained (s : State) (b : Engine) (t : Nat) : Bool :=
  let c := s.tile t
  match b with
  | .arr => c.blocks.isEmpty
  | .sfu => !(c.blocks.any fun k => ((s.runOf t k).bind s.cxOf).elim false RunCx.usesSfu)
  | .ece => c.ece.isEmpty
  | .sce => c.sceBusy.isNone
  | .smv => c.xfers.isEmpty
  | .ing | .lnk | .fxg => true

/-- `FUNC_TRANSITION_END`: ENABLING leads to ON, DISABLING to OFF once the block has drained, and a pending opposite change
starts then. (DEDUCED, log entry 49) -/
def funcTransitionEndX (t : Nat) (b : Engine) : Act := fun s =>
  let st := s.get (ctlState b) t 0
  let pend := s.get (ctlPend b) t 0 = 1
  if !s.tileRuns t then []
  else if st = fnEnabling then
    Act.seq [.eff [.fld (ctlPend b) t 0 0, .fld (ctlState b) t 0 (if pend then fnDisabling else fnOn)],
      .when (b == .smv) (pumpRings t)] s
  else if st = fnDisabling ∧ s.blockDrained b t then
    Act.seq [.when (b == .lnk) (tilePortsDown t),
      .eff [.fld (ctlPend b) t 0 0, .fld (ctlState b) t 0 (if pend ∧ s.canEnable b t then fnEnabling else fnOff)]] s
  else []

/-- `FUNC_DISABLE_TIMEOUT`: 1 ms has passed since DISABLING began, and the wait goes on. -/
def funcDisableTimeoutX (t : Nat) (b : Engine) : Act := fun s =>
  if s.get (ctlState b) t 0 = fnDisabling then escalate 2 t (s.instOfTile t) s else []

/-! ## Engine resets (R437): what each engine abandons -/

/-- The status of an abandoned work item. -/
def stEngineReset : Nat := 0x0404

/-- A frame of a learned encoder whose latent values will not all be produced is dropped whole, as under R127. -/
def dropEncFrame (id : Nat) (f : LscFrame) : Act := .seq
  [keyRequest id,
   updLsc id fun l => { l with pool := poolDrop l.pool },
   updFrame id f.frame fun f =>
     let l := f.plots.map fun p => { p with phase := .withheld, payload := [] }
     { f with drop := true, pathDone := true, ended := true, sts := f.sts ++ [stEngineReset], plots := l },
   .each f.taken fun k => finishInput id k f.srcConds, emitFrames id]

/-- The plots of a frame of a learned decoder are handled as plots that have not arrived (R73). -/
def loseDecFrame (id : Nat) (f : LscFrame) : Act := .seq
  [updFrame id f.frame fun f =>
     let l := f.plots.map fun p => { p with phase := .missing }
     { f with closed := true, plots := l }, decAdvance id]

/-- What the loss of an array item means to its frame. -/
def loseFrame (id frame : Nat) : Act := fun s =>
  match s.lscFrame id frame with
  | none => []
  | some f =>
    if s.isLscDec id then (if f.pathDone then [] else loseDecFrame id f s)
    else if f.pathDone then noteStatus id frame stEngineReset s
    else dropEncFrame id f s

/-- A cut leaves the array with `ST_ENGINE_RESET`. (DEDUCED, log entry 47) -/
def abandonRun (t : Nat) (r : CutRun) : Act := fun s => Act.seq
  [updT t fun c => { c with runs := c.runs.filter (fun x => !(x.q == r.q && x.slot == r.slot)),
                            blocks := c.blocks.filter fun k => !(k.q == r.q && k.slot == r.slot) },
   .opt ((s.qItems t r.q).find? (·.slot == r.slot)) fun i => finishItem t i stEngineReset 0 [],
   loseFrame r.stream r.frame, syncCur t, syncQstat t] s

/-- The runs that an array reset abandons, or an SFU reset: those whose block in progress it serves. -/
def State.lostRuns (s : State) (t : Nat) (sfu : Bool) : List CutRun :=
  let c := s.tile t
  if !sfu then c.runs
  else c.runs.filter fun r => (c.blocks.any fun k => k.q == r.q && k.slot == r.slot) && (s.cxOf r).elim false RunCx.usesSfu

/-- An item leaves the ECE with `ST_ENGINE_RESET`. (DEDUCED, log entry 47) -/
def abandonEce (t : Nat) (r : EceRun) : Act := .seq
  [.when (!r.dec) (putResultLen t r.slot 0), eceFinish t r stEngineReset 0 [],
   if r.dec then .seq [losePlot r.stream r.frame r.plot, frameTaps r.stream r.frame] else withholdPlot r.stream r.frame r.plot stEngineReset]

/-- The picture in progress leaves the SCE: of an encoder with a key request, of a decoder as a picture lost (R296). -/
def abandonPicture (t : Nat) : Act := fun s =>
  match (s.tile t).sceBusy with
  | none => []
  | some id => match (s.stream id).sce.run with
    | none => sceIdle t id 0 s
    | some p => Act.seq [
        updSce id fun x => { x with pool := x.pool.map fun b => if b.cur then {} else b },
        .when p.hdr.isSome (.seq [sceErr t 3 id 0 p.frame, countS F.SCE_SCNT2_LOSTREG id 1, .when (!p.event) (sceEvent id)]),
        sceIdle t id 0, sceGiveUp t id p stEngineReset, .when p.hdr.isNone (sceKeyRequest id)] s

/-- The open units of the flows that a tile receives are gone. (DEDUCED, log entry 48) -/
def abandonUnits (t : Nat) : Act := fun s =>
  Act.each (s.flows.filter fun id => s.portTile (s.sget F.ING_SW0_PORT id) == t) (fun id => updIng id fun g => { g with units := [] }) s

/-- The link engine's items end, its ports go down, and its registers return to their reset values (R533), but for those that
the image has set. (DEDUCED, log entry 48) -/
def abandonLink (t : Nat) : Act := fun s => Act.seq
  [tilePortsDown t,
   .each ((s.qItems t egressQueue).filter (·.started)) fun i => .seq
    [updS i.stream fun x => { x with egress := x.egress.filter (·.slot != some i.slot) }, finishItem t i stEngineReset 0 []],
   .eff [.resetRegs fun k => k.inTile t && k.reg.place.blk == .LNK && decide (k.reg.place.off < 0x10000) && k.reg != .LNK_QUADCFG &&
     k.reg != .LNK_LANESTAT]] s

/-- A stage of its stream holds an input. -/
def State.inputTaken (s : State) (i : Item) : Bool :=
  let x := s.stream i.stream
  (x.lsc.frames.any fun f => f.taken.contains i.slot) || (x.lsc.inputs.any fun n => n.item == some i.slot) ||
  ((x.sce.queue ++ x.sce.gop ++ x.sce.run.toList).any (·.item == i.slot))

/-- The items that the cores of a tile hold end. (DEDUCED, log entry 48) -/
def abandonCores (t : Nat) : Act := fun s =>
  Act.each ((s.tile t).items.filter fun i => i.started && i.engine == 5 && !s.inputTaken i)
    (fun i => finishItem t i stEngineReset 0 []) s

/-- What an engine abandons. (DEDUCED, log entry 47) -/
def abandonEngine (b : Engine) (t : Nat) : Act := fun s =>
  match b with
  | .arr => Act.each (s.lostRuns t false) (abandonRun t) s
  | .sfu => Act.each (s.lostRuns t true) (abandonRun t) s
  | .ece => Act.each (s.tile t).ece (abandonEce t) s
  | .sce => abandonPicture t s
  | .ing => abandonUnits t s
  | .lnk => abandonLink t s
  | .fxg => abandonCores t s
  | .smv => []

/-- An engine is reset: it goes to OFF at once. -/
def engineReset (t : Nat) (b : Engine) : Act := .seq
  [.eff [.fld (ctlState b) t 0 fnOff, .fld (ctlPend b) t 0 0], abandonEngine b t]

/-- `ENGINE_RESET`: a write to `PRT_ERST`; a bit that stands already starts nothing anew. -/
def engineResetX (q : Requester) (t engines : Nat) : Act := writeReg q t .PRT_ERST 0 fun t _ => fun s =>
  let old := s.get F.PRT_ERST_ENG t 0
  let new := (bitList 7 engines).filter fun k => !bitOf old k
  Act.seq [setF F.PRT_ERST_ENG t (old ||| maskList new), .each new fun k => engineReset t (erstEngine k),
    regErr .PRT t q 0x10008 (if engines / 2 ^ 7 = 0 then [] else [causeRsvd])] s

/-- `ENGINE_RESET_DONE`: the engine is back in the state that `EN` selects. (DEDUCED, log entry 49) -/
def engineResetDoneX (t : Nat) (b : Engine) : Act := fun s =>
  match erstBit b with
  | none => []
  | some k =>
    let old := s.get F.PRT_ERST_ENG t 0
    if !bitOf old k then []
    else [.fld F.PRT_ERST_ENG t 0 (old - 2 ^ k),
      .fld (ctlState b) t 0 (if s.get (ctlEn b) t 0 = 1 ∧ s.canEnable b t then fnOn else fnOff)]

/-! ## The commands -/

/-- `ENGINE_RESET`. -/
def execEngineReset (q : Requester) (t engines : Nat) (s : State) : Host.Outcome State Fault Refusal := done (engineResetX q t engines) s

/-- `ENGINE_RESET_DONE`. -/
def execEngineResetDone (t : Nat) (b : Engine) (s : State) : Host.Outcome State Fault Refusal := done (engineResetDoneX t b) s

/-- `FUNC_EN_WRITE`. -/
def execFuncEnWrite (q : Requester) (t : Nat) (b : Engine) (en : Bool) (s : State) : Host.Outcome State Fault Refusal :=
  done (funcEnWriteX q t b en) s

/-- `FUNC_TRANSITION_END`. -/
def execFuncTransitionEnd (t : Nat) (b : Engine) (s : State) : Host.Outcome State Fault Refusal := done (funcTransitionEndX t b) s

/-- `FUNC_DISABLE_TIMEOUT`. -/
def execFuncDisableTimeout (t : Nat) (b : Engine) (s : State) : Host.Outcome State Fault Refusal := done (funcDisableTimeoutX t b) s

end Sys2Proof.Machine
end

