-- ==== Sys2Proof/Machine/MemCmds.lean ====
section
/-! DEFINITION. The commands of the memory system (chapter 13): HBM accesses at their ports and the shared weight cache. -/
namespace Sys2Proof.Machine

/-- The write is one of an operation whose instance epoch is still current (R431), or of no instance. -/
def State.epochOk (s : State) (own : Option (Nat × Nat)) : Bool :=
  match own with
  | none => true
  | some (n, e) => s.epoch n == e && s.instState n == instActive

/-- `HBM_WRITE`: a write reaches its port (R393, R395, R405); one whose epoch has been advanced is not applied, and its
acknowledgement is discarded (R431); one beyond the reachable HBM fails (R459). -/
def hbmWriteX (q : Requester) (own : Option (Nat × Nat)) (a : Nat) (data : List Byte) (ask pz : Bool) : Act := fun s =>
  if !(isHbm a && s.isDevice a data.length) then emit (.reply q 0 0x0104) s
  else if s.epochOk own then
    Act.seq [.opt (requesterTile q) fun t => yardSend t a data pz, memWrite a data pz ask, emit (.reply q 0 0)] s
  else []

/-- What an HBM read meets (R396, R402). -/
def hbmEvent (a : Nat) : EccEvent → Act := fun e s =>
  let t := s.hbmTile a
  let l := s.localOf a / 2 ^ 14
  match e with
  | .clean => []
  | .corrected => count F.MEM_HBMECC_CORR t 1 s
  | .uncorrectable => Act.seq [spoil (a / 64 * 64) 64, count F.MEM_HBMECC_UNCORR t 1, memErr t 3 (l % 2 ^ 22)] s
  | .badMeta => if s.baleClass a = 3 then [] else Act.seq [spoil (a / 256 * 256) 256, .eff [.bale (a / 256) 3], balErr t 1 (l % 2 ^ 22)] s
  | .badCode => if s.baleClass a = 3 then [] else Act.seq [spoil (a / 256 * 256) 256, .eff [.bale (a / 256) 3], balErr t 2 (l % 2 ^ 22)] s

/-- What a read of a working store meets (R400): a word corrected, or one that cannot be. (DESIGN CHOICE, log entry 150) -/
def wsEvent (t a : Nat) : EccEvent → Act
  | .corrected => count F.MEM_WSECC_CORR t 1
  | .uncorrectable => .seq [spoil (a / 64 * 64) 64, count F.MEM_WSECC_UNCORR t 1, memErr t 1 (a % wsSize / 16)]
  | .clean | .badMeta | .badCode => .none

/-- `HBM_READ`: a read returns the raw bytes whatever the block's class (R394), and the marks of poisoned granules; the
data of an advanced epoch is discarded (R431). The ECC of a working store is met the same way. (DESIGN CHOICE, log entry 150) -/
def hbmReadX (q : Requester) (own : Option (Nat × Nat)) (a n : Nat) (e : EccEvent) : Act := fun s =>
  if !s.isDevice a n then emit (.reply q 0 0x0104) s
  else Act.seq [(wsTile a).elim (hbmEvent a e) (wsEvent · a e), .read fun s => .when (s.epochOk own)
    (.seq [.opt (requesterTile q) fun t => yardReturn t a n, emit (.data q a (s.bytes a n) (s.poisonedIn a n))])] s

/-- `HBM_SCRUB_PASS`: one more pass of the port's 18 GiB (R402), on the tile that serves the port. -/
def hbmScrubPassX (p : Nat) : Act := fun s => count F.MEM_HBMSCRUB_PASSES (s.servingTile p) 1 s

/-- The lines of a set of a slice (R403): the set is A[17:8]. -/
def wcSetOf (b : Nat) : Nat := b % 1024

/-- A miss takes a place in its set: a free one, or the victim of the set's pseudo-LRU (R404). (DESIGN CHOICE, log entry 58) -/
def wcPlace (ls : List WcLine) (l : WcLine) : List WcLine :=
  let set := (ls.filter fun x => wcSetOf x.line == wcSetOf l.line)
  let ready := set.filter fun x => !x.filling
  let v := (ready.getD (Config.wcVictim (set.map (·.line)) % (if ready.length = 0 then 1 else ready.length)) ⟨l.line, false, [], false⟩).line
  (if set.length < 16 then ls else ls.filter fun x => x.line != v || x.filling) ++ [l]

/-- The instance of a tile is being reset or destroyed: the tile's engines have abandoned their work (R430). -/
def State.ownerGone (s : State) (t : Nat) : Option Nat := (s.owner t).filter fun n => s.instState n != instActive

/-- A line goes from its slice to tile `t`, coded where it crosses the Yard (R397, R403). -/
def sendLine (w t b : Nat) : Act := fun s =>
  let bs := s.bytes (256 * b) 256
  let pz := s.poisonedIn (256 * b) 256
  Act.seq [yardPacket w t (classGranules (s.injectClass w bs pz)), emit (.line t (256 * b) bs pz)] s

/-- A line goes to a tile that waits for it; the slice discards it where the tile's instance is being reset (R431). -/
def giveLine (w t b : Nat) : Act := fun s =>
  match s.ownerGone t with
  | some n => leaveFlight n s
  | none => sendLine w t b s

/-- `WC_LINE_READ`: a weight read of tile `t` hits its line, joins the fill on its way, or starts a fill (R404). -/
def wcLineReadX (t a : Nat) : Act := fun s =>
  let b := a / 256
  let w := s.wcTile a
  let c := s.tile w
  if (s.ownerGone t).isSome then []
  else if !(isHbm a && s.isDevice a 1) then emit (.reply .hw 0 0x0104) s
  else match c.wc.find? (·.line == b) with
    | some l =>
      if l.filling then
        [.tile w fun c => { c with wc := c.wc.map fun x => if x.line = b then { x with waiters := x.waiters ++ [t] } else x },
         .countU F.MEM_WCMISS_COUNT w 0 256 1]
      else Act.seq [.eff [.countU F.MEM_WCHIT_COUNT w 0 256 1], sendLine w t b] s
    | none =>
      [.tile w fun c => { c with wc := wcPlace c.wc { line := b, filling := true, waiters := [t] } },
       .countU F.MEM_WCMISS_COUNT w 0 256 1]

/-- `WC_FILL_DONE`: a fill returns from HBM and every waiting tile gets the line; a line that fails its ECC check in the
slice is invalidated and fetched again once, which is counted when the second fetch passes (R405). -/
def wcFillDoneX (a : Nat) (eccOk : Bool) : Act := fun s =>
  let b := a / 256
  let w := s.wcTile a
  match (s.tile w).wc.find? (fun l => l.line == b && l.filling) with
  | none => []
  | some l =>
    if eccOk then
      Act.seq [updT w fun c => { c with wc := c.wc.map fun x => if x.line = b then { x with filling := false, waiters := [], refetch := false } else x },
        yardReturn w (256 * b) 256, .each l.waiters fun t => giveLine w t b,
        .when l.refetch (.seq [count F.MEM_WCINV_REFETCH w 1, memErr w 2 (s.localOf a / 2 ^ 14 % 2 ^ 22)])] s
    else [.tile w fun c => { c with wc := c.wc.map fun x => if x.line = b then { x with refetch := true } else x }]

/-- `WC_INVALL`: every line of the slice is invalidated and the bit clears (R417). -/
def wcInvallX (q : Requester) (t : Nat) : Act := writeReg q t .MEM_WCCTL 0 fun t _ => .eff
  [.tile t fun c => { c with wc := c.wc.filter fun l => l.filling }, .fld F.MEM_WCCTL_INVALL t 0 0]

/-- `HBM_WRITE`. -/
def execHbmWrite (q : Requester) (own : Option (Nat × Nat)) (a : Nat) (data : List Byte) (ask pz : Bool) (s : State) : Host.Outcome State Fault Refusal :=
  done (hbmWriteX q own a data ask pz) s

/-- `HBM_READ`. -/
def execHbmRead (q : Requester) (own : Option (Nat × Nat)) (a n : Nat) (e : EccEvent) (s : State) : Host.Outcome State Fault Refusal :=
  done (hbmReadX q own a n e) s

/-- `HBM_SCRUB_PASS`. -/
def execHbmScrubPass (p : Nat) (s : State) : Host.Outcome State Fault Refusal :=
  done (hbmScrubPassX p) s

/-- `WC_LINE_READ`. -/
def execWcLineRead (t a : Nat) (s : State) : Host.Outcome State Fault Refusal :=
  done (wcLineReadX t a) s

/-- `WC_FILL_DONE`. -/
def execWcFillDone (a : Nat) (eccOk : Bool) (s : State) : Host.Outcome State Fault Refusal :=
  done (wcFillDoneX a eccOk) s

/-- `WC_INVALL`. -/
def execWcInvall (q : Requester) (t : Nat) (s : State) : Host.Outcome State Fault Refusal :=
  done (wcInvallX q t) s

end Sys2Proof.Machine
end

