-- ==== Sys2Proof/Machine/Pumps.lean ====
section
/-! DEFINITION. Firmware's work items that wait for room in a queue (R323) are written when room appears: when a burst has been
fetched, and when the queue is configured. -/
namespace Sys2Proof.Machine

/-- The items that firmware holds for a queue are written while it has room. (DEDUCED, log entry 22) -/
def pumpQueue (t q : Nat) : Act := fun s =>
  if q = sceQueue then Act.each ((s.streams.filter fun e => e.2.sce.queue != [] && s.sceTile e.1 == t).map (·.1)) scePump s
  else if q = egressQueue then Act.each ((s.streams.filter fun e => e.2.egress != [] && homeOf e.1 == t).map (·.1)) egressPump s
  else if q = inputQueue then Act.each ((s.streams.filter fun e => e.2.ing.ready != [] && homeOf e.1 == t).map (·.1)) ingPump s
  else []

/-- `TRANSFER_COMPLETE`, and after a burst the items that wait for the queue's room. -/
def execTransferComplete (t tag status : Nat) (s : State) : Host.Outcome State Fault Refusal :=
  done (.seq [transferCompleteX t tag status,
    .opt ((s.tile t).xfers.find? fun x => x.tag == tag && x.fetch) fun x => pumpQueue t x.q]) s

/-- `QCFG_WRITE`, and the items that wait for the queue. -/
def execQcfgWrite (q : Requester) (t k value : Nat) (s : State) : Host.Outcome State Fault Refusal :=
  done (.seq [qcfgWriteX q t k value, pumpQueue t k]) s

end Sys2Proof.Machine
end

