-- ==== Sys2Proof/Machine/Snapshot.lean ====
section
/-! DEFINITION. Snapshots (R499 to R503), the digest ring of a stream (R498, R512), and the raw debug window (R511, R512). -/
namespace Sys2Proof.Machine

/-! ## Snapshots -/

/-- A register that a snapshot copies: all its fields are RO, RC or W1C (R499). (DEDUCED, log entry 36) -/
def snapReg (r : Reg) : Bool := r.fields.all fun f => f.acc == .ro || f.acc == .rc || f.acc == .w1c

/-- The words of a tile's registers with its selects, as they stand. `SNP_CTL` is among them, so that a copy can be told from none.
(DEDUCED, log entry 36) -/
def State.copyOf (s : State) (t : Nat) : List (RegKey × Word) :=
  (⟨.SNP_CTL, t, 0⟩, s.reg .SNP_CTL t 0) :: s.regs.filter fun e => e.1.inTile t && (e.1.reg != .SNP_CTL || e.1.ix != 0)

/-- A copy of a tile has been taken and is kept. -/
def State.hasCopy (s : State) (t : Nat) : Bool := (mapGet RegKey.code none s.snap ⟨.SNP_CTL, t, 0⟩).isSome

/-- A word of the copy. -/
def State.copied (s : State) (r : Reg) (t ix : Nat) : Word := (mapGet RegKey.code none s.snap ⟨r, t, ix⟩).getD (resetWord r)

/-- The tile keeps no local domain: a snapshot takes no copy (R503). (DEDUCED, log entry 115) -/
def State.isGated (s : State) (t : Nat) : Bool := s.slp t == slpGated || s.slp t == slpGating

/-- One tile latches. A tile with stopped clocks is woken by the packet that brings T; its registers have not changed.
(DEDUCED, log entry 115) -/
def latchTile (T : Nat) (late : Bool) (t : Nat) : Act := fun s =>
  let g := s.isGated t
  Act.seq [.eff [.snapshot t (if g then [] else s.copyOf t), .fld F.SNP_CTL_ARM t 0 0, .fld F.SNP_CTL_HELD t 0 1,
      .fld F.SNP_CTL_LATE t 0 (b2n late), .fld F.SNP_CTL_GATED t 0 (b2n g),
      .fld F.SNP_LAST_LO_T t 0 (T % 2 ^ 32), .fld F.SNP_LAST_HI_T t 0 (T / 2 ^ 32),
      .fld F.SNP_CAUSE_SRC t 0 s.pkg.snapSrc, .fld F.SNP_CAUSE_TILE t 0 (s.pkg.snapTile.getD 0)],
    .when (s.slp t == slpStopped || s.slp t == slpStopping) (wakeReq t wakePacket)] s

/-- `SNAP_LATCH`: package time reaches T; `late` names the tiles that received it after it had passed.
(DEDUCED, log entry 115) -/
def snapLatchX (late : List Nat) : Act := fun s =>
  match s.pkg.snapT with
  | none => []
  | some T => Act.seq [.eff [.snapshot pkgTile (s.copyOf pkgTile)],
      .each ((List.range 64).filter s.inService) fun t => latchTile T (late.contains t) t,
      count F.SNP_CNT_LATCHES pkgTile 1,
      updP fun p => { p with
        snapT := none, snapSrc := 0, snapTile := none
        snapOut := p.snapOut || s.get F.SNP_SRC_OUTEN pkgTile 0 == 1 }] s

/-- `SNAP_IN_EDGE`: a rising edge held high for 100 ns. -/
def snapInEdgeX : Act := fun s => Act.when (s.get F.SNP_SRC_PIN pkgTile 0 == 1) (trigger srcPin none s.now) s

/-- `SNAP_SW_TRIGGER`: a write of 1 to `GO`. -/
def snapSwTriggerX (q : Requester) : Act := fun s =>
  writeReg q s.bootTile .SNP_TRIG 0 (fun _ _ => fun s => Act.when (s.get F.SNP_SRC_WR pkgTile 0 == 1) (trigger srcWr none s.now) s) s

/-- `SNAP_OUT_END`: 1,000 ns after T. -/
def snapOutEndX : Act := updP fun p => { p with snapOut := false }

/-- `SNAP_ARM`: a write of 1 to `ARM`, with the value it gives `VIEW`. The earlier copy is kept until the next latch. -/
def snapArmX (q : Requester) (t : Nat) (view : Bool) : Act := writeReg q t .SNP_CTL 0 fun t _ => .eff
  [.fld F.SNP_CTL_ARM t 0 1, .fld F.SNP_CTL_HELD t 0 0, .fld F.SNP_CTL_LATE t 0 0, .fld F.SNP_CTL_GATED t 0 0,
   .fld F.SNP_CTL_VIEW t 0 (b2n view)]

/-! ## The digest ring -/

/-- The instance whose memory holds the digest ring of a slot: the stream's, or that of the tile while the slot is closed.
(DEDUCED, log entry 137) -/
def State.digestInst (s : State) (id : Nat) : Option Nat :=
  if s.isLive id then some (s.stream id).inst else s.owner (homeOf id)

/-- A digest ring of some pages at the slot's base lies in its instance's memory. (DEDUCED, log entry 137) -/
def State.digestRingOk (s : State) (id pages : Nat) : Bool :=
  pages != 0 && (s.digestInst id).elim false fun n =>
    s.inMem n (s.base40 F.SNP_DGBASE_LO_BASE_LO F.SNP_DGBASE_HI_BASE_HI (homeOf id) (slotOf id)) (4096 * pages)

/-- `DIGEST_CFG_WRITE` (R512): an enable with an invalid ring leaves `EN` at 0; `EN` waits for the boundary of an open stream (R529),
and its records are numbered from 0. (DEDUCED, log entry 137) -/
def digestCfgWriteX (q : Requester) (t value : Nat) : Act := writeReg q t .SNP_DGCFG 0 fun kt ix => fun s =>
  let id := kt * 256 + ix
  let pages := bitsOf value 31 16
  if BitVec.ofNat 32 value = s.reg .SNP_DGCFG kt ix then []
  else
    let bad := bitOf value 0 && !s.digestRingOk id pages
    let en := b2n (bitOf value 0 && !bad)
    Act.seq [regErr .SNP kt q Reg.SNP_DGCFG.place.off ((if bad then [causeRange] else []) ++ (if bitsOf value 15 1 ≠ 0 then [causeRsvd] else [])),
      .when (s.isLive id && en != s.get F.SNP_DGCFG_EN kt ix) (.eff [.hold .SNP_DGCFG kt ix]),
      .when (en == 1 && s.live F.SNP_DGCFG_EN kt ix == 0) (updS id fun x => { x with digSeq := 0 }),
      .eff [.fld F.SNP_DGCFG_PAGES kt ix pages, .fld F.SNP_DGCFG_EN kt ix en]] s

/-! ## The raw window -/

/-- The address that the raw window of a tile names. -/
def State.rawAddr (s : State) (t : Nat) : Nat := wsBase + t * wsSize + 4 * s.get F.SNP_DBGADDR_ADDR t 0

/-- `ADDR` advances by 4 after each access. -/
def rawNext (t : Nat) : Act := fun s => [.fld F.SNP_DBGADDR_ADDR t 0 (s.get F.SNP_DBGADDR_ADDR t 0 + 1)]

/-- A debug write is marked (R511). (DEDUCED, log entry 138) -/
def taint : Act := .seq [setF F.HSP_STAT_TAINT pkgTile 1, count F.HSP_CNT_DBGWR pkgTile 1]

/-- `DEBUG_VIEW_WRITE`: a word through the raw window, past the ECC; or (none) a write through a RISC-V debug interface, which
JTAG reaches, and which changes only what the core itself holds. (DEDUCED, log entry 138) -/
def debugViewWriteX (q : Requester) (t : Nat) (value : Option Nat) : Act := fun s =>
  match value with
  | some v => writeReg q t .SNP_DBGDATA 0 (fun t _ => fun s =>
      Act.seq [.eff [.mem (s.rawAddr t) (toLe 4 v), .fld F.SNP_DBGDATA_DATA t 0 v], taint, rawNext t] s) s
  | none => if q = .jtag ∧ s.inService t then (if s.haspScope 0 then taint else lockedAct .SNP t q 0x204) s else []

/-- `DBG_WINDOW_READ`: the word at `ADDR`, past the ECC. (DEDUCED, log entry 138) -/
def dbgWindowReadX (q : Requester) (t : Nat) : Act := accessReg q t .SNP_DBGDATA 0 false fun t _ => fun s =>
  let v := leAt (s.bytes (s.rawAddr t) 4) 0 4
  Act.seq [setF F.SNP_DBGDATA_DATA t v, rawNext t, emit (.reply q v 0)] s

/-! ## The commands -/

/-- `SNAP_IN_EDGE`. -/
def execSnapInEdge (s : State) : Host.Outcome State Fault Refusal := done snapInEdgeX s

/-- `SNAP_SW_TRIGGER`. -/
def execSnapSwTrigger (q : Requester) (s : State) : Host.Outcome State Fault Refusal := done (snapSwTriggerX q) s

/-- `SNAP_LATCH`. -/
def execSnapLatch (late : List Nat) (s : State) : Host.Outcome State Fault Refusal := done (snapLatchX late) s

/-- `SNAP_OUT_END`. -/
def execSnapOutEnd (s : State) : Host.Outcome State Fault Refusal := done snapOutEndX s

/-- `SNAP_ARM`. -/
def execSnapArm (q : Requester) (t : Nat) (view : Bool) (s : State) : Host.Outcome State Fault Refusal := done (snapArmX q t view) s

/-- `DIGEST_CFG_WRITE`. -/
def execDigestCfgWrite (q : Requester) (t value : Nat) (s : State) : Host.Outcome State Fault Refusal := done (digestCfgWriteX q t value) s

/-- `DEBUG_VIEW_WRITE`. -/
def execDebugViewWrite (q : Requester) (t : Nat) (value : Option Nat) (s : State) : Host.Outcome State Fault Refusal :=
  done (debugViewWriteX q t value) s

/-- `DBG_WINDOW_READ`. -/
def execDbgWindowRead (q : Requester) (t : Nat) (s : State) : Host.Outcome State Fault Refusal := done (dbgWindowReadX q t) s

end Sys2Proof.Machine
end

