-- ==== Sys2Proof/Machine/Registers.lean ====
section
/-! DEFINITION. Register accesses (R514, R518, R521, R523, R524, R529 to R531, R535): where an address leads, how each field of a
written word is judged, what a read returns and clears, and host accesses through the BARs (R369, R370). -/
namespace Sys2Proof.Machine

/-! ## Addresses (R514) -/

/-- The first bytes of the tile windows and of the package-global registers. -/
def windowBase : Nat := 0x8000000000
def globalBase : Nat := 0xFF00000000

/-- The window (64: the package-global region) and the offset in it that an address of register space names. -/
def regAddr (a : Nat) : Option (Nat × Nat) :=
  if windowBase ≤ a ∧ a < windowBase + 2 ^ 30 then some ((a - windowBase) / 2 ^ 24, a % 2 ^ 24)
  else if globalBase ≤ a ∧ a < globalBase + 2 ^ 24 then some (pkgTile, a % 2 ^ 24)
  else none

/-- The block and block offset at an offset of a window; offsets of no block belong to `MGT` (R518). -/
def blkOff (t o : Nat) : Blk × Nat :=
  if t = pkgTile then (.GLB, o) else match blkAt o with
    | some b => (b, o % 0x80000)
    | none => (.MGT, o)

/-- The register at an offset of a window, with its entry. -/
def regAt (t o : Nat) : Option (Reg × Nat) :=
  if t ≠ pkgTile ∧ blkAt o = none then none else locate (blkOff t o).1 (blkOff t o).2

/-- An access to an offset that no chapter defines, or a misaligned one: it reads zero, discards its write and is recorded (R518,
R521). (DEDUCED, log entry 26) -/
def undefAccess (q : Requester) (t o : Nat) (write : Bool) : Act := fun s =>
  let b := (blkOff t o).1
  let off := (blkOff t o).2
  match s.reach q t b off write with
  | .fail => emit (.reply q 0 0x0104) s
  | .locked => lockedAct b t q off s
  | .refused => Act.seq [regErr b t q off [causeAccess], emit (.reply q 0 0)] s
  | .silent => emit (.reply q 0 0) s
  | .ok => Act.seq [.when (t == pkgTile || s.bonded t b off) (regErr b t q off [causeUndef]), emit (.reply q 0 0)] s

/-- An access to an address: `k` carries it out at the register it names; an address outside register space completes with
`ST_BAD_DESC` (R515). -/
def atAddr (q : Requester) (a : Nat) (write : Bool) (k : Nat → Reg → Nat → Act) : Act := fun s =>
  match regAddr a with
  | none => emit (.reply q 0 0x0104) s
  | some (t, o) => match regAt t o with
    | none => undefAccess q t o write s
    | some (r, e) => k t r e s

/-! ## Field ranges (R18) -/

/-- A picture's width or height. -/
def sideOk (v : Nat) : Bool := v % 2 == 0 && decide (64 ≤ v) && decide (v ≤ 8192)

/-- The value lies between two limits. -/
def within (lo hi v : Nat) : Bool := decide (lo ≤ v) && decide (v ≤ hi)

/-- A value that the table of a field allows, the field named by its register and highest bit. -/
def State.allowed (s : State) (r : Reg) (kt ix hi v : Nat) : Bool :=
  match r, hi with
  | .ECE_TAPCFG, 7 => s.tapsReserved kt ix v
  | .ECE_LSCW0, 8 => within 8 24 v
  | .ECE_LSCW0, 10 => v != 3
  | .ECE_LSCW1, 31 | .ECE_LSCW1, 15 | .SCE_SW1, 31 | .SCE_SW1, 15 => sideOk v
  | .ECE_LSCW1, 6 => decide (v ≤ 4)
  | .ECE_LSCW1, 3 => within 1 8 v
  | .ECE_LSCW2, 15 | .SCE_SW2, 15 => within 4 64 v
  | .ECE_LSCW2, 7 | .SCE_SW2, 7 => v != 3
  | .ECE_LSCW3, 31 | .SCE_SW3, 31 => within 64 0xFFFFFF v
  | .ECE_LSCW5, 31 => v % 4096 == 0
  | .SCE_SW0, 19 => within 1 8 v
  | .SCE_SW0, 15 => decide (v ≤ 1)
  | .SCE_SW0, 11 => within 8 10 v
  | .SCE_SW0, 7 | .SCE_SW0, 1 => v != 3
  | .SCE_SW2, 19 => within 1 4 v
  | .SCE_SW2, 5 | .SCE_SW4, 13 | .SCE_SW4, 5 => decide (v ≤ 51)
  | .SCE_SW4, 27 => within 1 8 v
  | .SCE_SW6, 15 => within 2 25 v
  | .LNK_PTPCFG, 11 => decide (v ≤ 2)
  | .LNK_PTPCFG, 8 => v != 3
  | .LNK_PTPCFG, 6 | .ING_SW0, 10 => decide (v ≤ 79)
  | .LNK_HWSEL, 6 => decide (v ≤ 64)
  | .LNK_SW0, 1 => decide (v ≤ 1)
  | .ING_SW0, 3 => decide (v ≤ 4)
  | .ING_SW0, 12 => v != 3
  | .ING_SW1, 31 | .FXG_HDW0, 31 | .PRT_ICMD, 1 => v != 0
  | .ING_SW4, 27 => within 2 255 v
  | .ING_SW4, 19 => v % 4 == 0 && within 4 1048572 v
  | .MGT_PWRCFG, 23 => within 85 100 v
  | .MGT_PWRCFG, 11 => v == 0 || (v % 100 == 0 && within 600 (s.get F.MGT_PARTCAP_CORE_MHZ_MAX pkgTile 0) v)
  | .HSP_REQ, 31 => within 1 1440 v
  | .HSP_PWLEN, 6 => within 16 64 v
  | .HSP_ACT, 19 => within 1 2 v
  | _, _ => true

/-! ## A written word (R523, R529) -/

/-- A settings register of a stream slot. -/
def settingsReg : Reg → Bool
  | .ECE_LSCW0 | .ECE_LSCW1 | .ECE_LSCW2 | .ECE_LSCW3 | .ECE_LSCW4 | .ECE_LSCW5 | .ECE_LSCW6 | .ECE_LSCW7 | .ECE_TAPCFG => true
  | .SCE_SW0 | .SCE_SW1 | .SCE_SW2 | .SCE_SW3 | .SCE_SW4 | .SCE_SW5 | .SCE_SW6 | .SCE_SW7 => true
  | .LNK_SW0 | .LNK_SW1 | .ING_SW0 | .ING_SW1 | .ING_SW2 | .ING_SW3 | .ING_SW4 => true
  | .FXG_HDW0 | .FXG_HDW1 | .FXG_HDW2 | .FXG_HDW3 | .FXG_HDW4 | .FXG_HDW5 => true
  | _ => false

/-- The fields that a write is judged by: `ECE_LSCW1` has the Campion layout while `PROFILE` is 2 (R77). -/
def State.fieldsOf (s : State) (r : Reg) (kt ix : Nat) : List FSpec :=
  if r = .ECE_LSCW1 ∧ s.get F.ECE_LSCW0_PROFILE kt ix = 2 then
    [⟨"RATE", 6, 4, .rw, 0, .shd⟩, ⟨"CHANNELS", 3, 0, .rw, 0, .shd⟩]
  else r.fields

/-- A field taken when its stream opens (R70); an SCE decoder's `CODEC` is one. -/
def State.takenAtOpen (s : State) (r : Reg) (f : FSpec) (kt ix : Nat) : Bool :=
  settingsReg r && (f.coll == .sw || (r == .SCE_SW0 && f.hi == 1 && s.get F.SCE_SW0_DIR kt ix == 1))

/-- A write that a field does not take, without a record: the tile set of an instance that holds its tiles, and the UTC offset
that PTP sets (R388, R441). -/
def State.deaf (s : State) (r : Reg) (hi ix : Nat) : Bool :=
  match r with
  | .PRT_ITILES_LO | .PRT_ITILES_HI => s.instState ix != instFree || (s.inst ix).creating
  | .LNK_PTPSTAT => hi == 15 && s.get F.LNK_PTPCFG_ROLE pkgTile 0 == 1
  | _ => false

/-- What a write makes of one field: its value and the cause that refuses it (R523). -/
def State.judgeField (s : State) (r : Reg) (kt ix : Nat) (old new : Word) (f : FSpec) : Nat × Option Nat :=
  let o := getBits old f.hi f.lo
  let v := getBits new f.hi f.lo
  match f.acc with
  | .ro | .w1s => (o, none)
  | .w1c => (getBits (old &&& ~~~new) f.hi f.lo, none)
  | .rc => (if f.coll = .mrg then v else o, none)
  | .wo => if s.allowed r kt ix f.hi v then (v, none) else (o, some causeRange)
  | .rw =>
    if v = o ∨ s.deaf r f.hi ix then (o, none)
    else if !s.allowed r kt ix f.hi v then (o, some causeRange)
    else if s.takenAtOpen r f kt ix ∧ s.isLive (kt * 256 + ix) then (o, some causeState)
    else (v, none)

/-- What a write makes of a register: its word, and the causes recorded. -/
def State.judge (s : State) (r : Reg) (kt ix : Nat) (new : Word) : Word × List Nat :=
  let old := s.reg r kt ix
  let fs := s.fieldsOf r kt ix
  let mask := fs.foldl (fun w f => w ||| maskOf f.hi f.lo) 0
  fs.foldl (fun x f =>
      let j := s.judgeField r kt ix old new f
      (setBits x.1 f.hi f.lo j.1, x.2 ++ j.2.toList))
    (old &&& mask, if new &&& ~~~mask = 0 then [] else [causeRsvd])

/-- The shadow of a slot holds writes (R68, R282). -/
def shdPend (r : Reg) (kt ix : Nat) : List Eff :=
  match r.place.blk with
  | .ECE => [.fld F.ECE_LSCLIVE1_SHDPEND kt ix 1]
  | .SCE => [.fld F.SCE_SLIVE1_SHDPEND kt ix 1]
  | _ => []

/-- A write lands in the shadow of a slot: the slot is live, and the write is taken by some field under SHD, whether or not it
changes its value (R63, R68, R529). (DEDUCED, log entry 39) -/
def State.shadows (s : State) (r : Reg) (kt ix : Nat) (new : Word) : Bool :=
  settingsReg r && r.fields.any (·.coll == .shd) && s.isLive (kt * 256 + ix) &&
  ((s.judge r kt ix new).1 != s.reg r kt ix ||
    (s.fieldsOf r kt ix).any fun f => f.coll == .shd && (s.judgeField r kt ix (s.reg r kt ix) new f).2 == none)

/-- A word is written to a register: at a live slot the word in force stays until the boundary (R529). -/
def putWord (q : Requester) (t : Nat) (r : Reg) (e v : Nat) (more : List Nat) : Act := writeReg q t r e fun kt ix => fun s =>
  let j := s.judge r kt ix (BitVec.ofNat 32 v)
  Act.seq [.when (s.shadows r kt ix (BitVec.ofNat 32 v)) (.eff (.hold r kt ix :: shdPend r kt ix)), .eff [.word r kt ix j.1],
    regErr r.place.blk t q (r.place.off + e * r.place.stride) (j.2 ++ more)] s

/-- `FXG_HDSEL`: the select is the requester's own, and the hold bit is the selected slot's (R529, R530).
(DEDUCED, log entry 33) -/
def putHdsel (q : Requester) (t v : Nat) : Act := writeReg q t .FXG_HDSEL 0 fun kt ix => .seq
  [.eff [.fld F.FXG_HDSEL_SLOT kt ix (v % 256), .fld F.FXG_HDSEL_HOLD kt (4096 + v % 256) (bitsOf v 8 8)],
   regErr .FXG t q Reg.FXG_HDSEL.place.off (if v / 2 ^ 9 = 0 then [] else [causeRsvd])]

/-- Reserved bits of a written word are recorded, where the access reaches its register. -/
def noteRsvd (q : Requester) (t : Nat) (r : Reg) (e v : Nat) : Act := writeReg q t r e fun _ _ =>
  regErr r.place.blk t q (r.place.off + e * r.place.stride) (if BitVec.ofNat 32 v &&& ~~~implMask r = 0 then [] else [causeRsvd])

/-- A write whose effect is that of a command: reserved bits are recorded, then the command runs, if the access reaches the
register at all. -/
def withRsvd (q : Requester) (t : Nat) (r : Reg) (e v : Nat) (a : Act) : Act := writeReg q t r e fun _ _ => .seq
  [noteRsvd q t r e v, a]

/-- A write of 1 to a bit runs a command. -/
def onBit (v i : Nat) (a : Act) : Act := .when (bitOf v i) a

/-- `PRT_ICMD`: `GO` runs the command that the write names; a reserved `OP` runs none (R422, R441, R527).
(DEDUCED, log entry 32) -/
def writeIcmd (q : Requester) (t v : Nat) : Act :=
  if bitOf v 31 then
    if v % 4 = 0 then putWord q t .PRT_ICMD 0 v [causeState]
    else withRsvd q t .PRT_ICMD 0 v (.seq
      [if v % 4 = 1 then instanceCreateX q else if v % 4 = 2 then instanceResetX q else instanceDestroyX q (bitOf v 8),
       fun s => [.fld F.PRT_ICMD_ZERO pkgTile (s.keyIx q .PRT_ICMD pkgTile 0) (bitsOf v 8 8)]])
  else putWord q t .PRT_ICMD 0 v []

/-- `HSP_ACT`: `GO` runs the action that the write names (R510). (DEDUCED, log entry 32) -/
def writeHspAct (q : Requester) (t v : Nat) : Act :=
  let op := bitsOf v 19 16
  if !bitOf v 31 then putWord q t .HSP_ACT 0 v []
  else if op = 1 then withRsvd q t .HSP_ACT 0 v (haspIresetX q (v % 1024))
  else if op = 2 then withRsvd q t .HSP_ACT 0 v (haspDlremoveX q (v % 1024))
  else putWord q t .HSP_ACT 0 v [causeState]

/-- What a write of a word does at a register: the commands that it spells run, and every other field is judged for itself. -/
def writeWord (q : Requester) (t : Nat) (r : Reg) (e v : Nat) : Act :=
  let en (b : Engine) : Act := withRsvd q t r e v (funcEnWriteX q t b (bitOf v 0))
  match r with
  | .ARR_CTL => en .arr
  | .SFU_CTL => en .sfu
  | .ECE_CTL => en .ece
  | .SCE_CTL => en .sce
  | .SMV_CTL => en .smv
  | .LNK_CTL => en .lnk
  | .ING_CTL => en .ing
  | .FXG_CTL => en .fxg
  | .FXG_HDSEL => putHdsel q t v
  | .SMV_QTAIL => queueTailWriteX q t e v
  | .SMV_QCFG => .seq [qcfgWriteX q t e v, pumpQueue t e]
  | .SMV_SQTAIL => sqtailWriteX q t e v
  | .SMV_CQHEAD => cqheadWriteX q t e v
  | .SMV_ERHEAD => cqheadWriteX q t 4 v
  | .SMV_SQCFG => ringEnWriteX q t .sq e v
  | .SMV_CQCFG => ringEnWriteX q t .cq e v
  | .SMV_ERCFG => ringEnWriteX q t .er e v
  | .ARR_CVCTL => .seq [putWord q t r e v [], onBit v 2 (arrCvctlClrX q t)]
  | .ECE_LSCCMD => withRsvd q t r e v (.seq [onBit v 0 (lscKeyreqX q t), onBit v 1 (lscRcresetX q t)])
  | .SCE_SCMD => withRsvd q t r e v (.seq [onBit v 0 (sceKeyreqX q t), onBit v 1 (sceRcresetX q t)])
  | .MEM_WCCTL => withRsvd q t r e v (onBit v 0 (wcInvallX q t))
  | .YRD_QCTL => writeReg q t r e fun _ _ => .seq [putWord q t r e v [], onBit v 0 (yardQuiesceReqX q)]
  | .LNK_MVCFG => mvCfg q t v
  | .LNK_PUBCTL => pubCtl q t v
  | .LNK_LBLCTL => lblCtl q t v
  | .PRT_ICMD => writeIcmd q t v
  | .PRT_PKGRST => withRsvd q t r e v (onBit v 0 (pkgResetRequestX q (bitsOf v 31 16)))
  | .PRT_MOWN => writeReg q t r e fun _ _ => mownWriteX q e v
  | .PRT_TRST => withRsvd q t r e v (onBit v 0 (tileResetX q t))
  | .PRT_ERST => engineResetX q t v
  | .SNP_CTL => if bitOf v 0 then withRsvd q t r e v (snapArmX q t (bitOf v 1)) else putWord q t r e v []
  | .SNP_TRIG => withRsvd q t r e v (onBit v 0 (snapSwTriggerX q))
  | .SNP_DGCFG => digestCfgWriteX q t v
  | .SNP_DBGDATA => debugViewWriteX q t (some v)
  | .HSP_CMD => withRsvd q t r e v (.seq [onBit v 4 (haspPwSetX q), onBit v 2 (haspSubmitX q), onBit v 3 (haspPwSubmitX q),
      onBit v 0 (haspChallengeX q), onBit v 1 (haspCloseX q)])
  | .HSP_ACT => writeHspAct q t v
  | .MGT_WAKETIME_HI => waketimeWriteX q t v
  | .MGT_SLPCFG => .seq [putWord q t r e v [], .read fun s => .when (s.get F.MGT_SLPCFG_PGATE t 0 == 1 && s.slp t == slpStopped) (tryGate t)]
  | _ => putWord q t r e v []

/-- A register has a shadowed field (R529). -/
def hasShadow (r : Reg) : Bool := r.fields.any (·.coll == .shd)

/-- A write of a word to an address; one whose byte enables cover less than the word is discarded (R521).
(DEDUCED, log entry 26) -/
def regWrite (q : Requester) (a be v : Nat) : Act := atAddr q a true fun t r e =>
  if be % 16 = 15 then writeWord q t r e (v % 2 ^ 32)
  else writeReg q t r e fun _ _ => regErr r.place.blk t q (r.place.off + e * r.place.stride) [causeWidth]

/-- `SHADOW_WRITE`: the address names a register with a shadowed field. -/
def shadowWriteX (q : Requester) (a v : Nat) : Act :=
  match (regAddr a).bind fun x => regAt x.1 x.2 with
  | some (r, _) => .when (hasShadow r) (regWrite q a 15 v)
  | none => .none

/-! ## Reads (R499, R523, R524, R531) -/

/-- The `_HI` register that a read of a `_LO` register latches (R531). -/
def hiOf : Reg → Option Reg
  | .MGT_TILEMAP_LO => some .MGT_TILEMAP_HI
  | .MGT_DEVID_LO => some .MGT_DEVID_HI
  | .MGT_WAKETIME_LO => some .MGT_WAKETIME_HI
  | .ARR_CVSSE_LO => some .ARR_CVSSE_HI
  | .ARR_CVSSX_LO => some .ARR_CVSSX_HI
  | .SMV_QBASE_LO => some .SMV_QBASE_HI
  | .SMV_SQBASE_LO => some .SMV_SQBASE_HI
  | .SMV_CQBASE_LO => some .SMV_CQBASE_HI
  | .SMV_ERBASE_LO => some .SMV_ERBASE_HI
  | .MEM_WCSERVE_LO => some .MEM_WCSERVE_HI
  | .LNK_MVPEER_LO => some .LNK_MVPEER_HI
  | .LNK_PUBBASE_LO => some .LNK_PUBBASE_HI
  | .LNK_HWE_LO => some .LNK_HWE_HI
  | .LNK_APER_LO => some .LNK_APER_HI
  | .LNK_LBLBASE_LO => some .LNK_LBLBASE_HI
  | .PRT_ITILES_LO => some .PRT_ITILES_HI
  | .SNP_LAST_LO => some .SNP_LAST_HI
  | .SNP_DGBASE_LO => some .SNP_DGBASE_HI
  | _ => none

/-- The fields of an access code of a register, as bits. -/
def accMask (r : Reg) (a : Acc) : Word := (r.fields.filter (·.acc == a)).foldl (fun w f => w ||| maskOf f.hi f.lo) 0

/-- The word that a live register reads as: WO fields read zero; `FXG_HDSEL` shows the hold bit of the slot selected. -/
def State.liveRead (s : State) (r : Reg) (kt ix : Nat) : Word :=
  if r = .FXG_HDSEL then
    setBits (s.reg r kt ix) 8 8 (s.get F.FXG_HDSEL_HOLD kt (4096 + s.get F.FXG_HDSEL_SLOT kt ix))
  else s.reg r kt ix &&& ~~~accMask r .wo

/-- What a field restarts from when a read clears it (R524). -/
def State.rcStart (s : State) (r : Reg) (kt : Nat) : Nat :=
  match r with
  | .MGT_PWRNOW => s.get F.MGT_PWRNOW_AVG_W kt 0
  | .MGT_TJ => s.get F.MGT_TJ_NOW kt 0
  | .SMV_TAGS => s.get F.SMV_TAGS_INUSE kt 0
  | _ => 0

/-- A read clears the RC fields of its register. -/
def rcClear (r : Reg) (kt ix : Nat) : Act := fun s =>
  (r.fields.filter (·.acc == .rc)).map fun f => .fld ⟨r, f.hi, f.lo⟩ kt ix (s.rcStart r kt)

/-- A read goes through the snapshot view of window `t` (R499). (DEDUCED, log entry 36) -/
def State.viewed (s : State) (t : Nat) (r : Reg) : Bool := t != pkgTile && s.get F.SNP_CTL_VIEW t 0 == 1 && snapReg r

/-- The index in the copy: a select stands as it was copied. -/
def State.copyIx (s : State) (q : Requester) (r : Reg) (kt e ix : Nat) : Nat :=
  match r.place.ix with
  | .sel sr => getBits (s.copied sr kt q.copy) (selField sr).hi (selField sr).lo
  | .selAddr sr => getBits (s.copied sr kt q.copy) (selField sr).hi (selField sr).lo * r.place.count + e
  | _ => ix

/-- The word that a read of a register finds: of the snapshot copy, zero for a tile that took none while gated (R503), a free word
where no copy has been taken, or the live word. -/
def State.found (s : State) (q : Requester) (t : Nat) (r : Reg) (e kt ix : Nat) : Word :=
  if !s.viewed t r then s.liveRead r kt ix
  else if s.get F.SNP_CTL_GATED t 0 = 1 then 0
  else if s.hasCopy kt then s.copied r kt (s.copyIx q r kt e ix)
  else BitVec.ofNat 32 (Config.freeNat s.draws) &&& implMask r

/-- A read of a register by a requester: the latched word of a `_HI` register, else the word found; a `_LO` register latches its
`_HI` word; RC fields are cleared unless the copy was read. -/
def readWord (q : Requester) (t : Nat) (r : Reg) (e : Nat) : Act := accessReg q t r e false fun kt ix => fun s =>
  let c := q.copy * 64 + e
  match mapGet RegKey.code none s.latch ⟨r, kt, c⟩ with
  | some w => [.latch r kt c none, .emit (.reply q w.toNat 0)]
  | none => Act.seq [.opt (hiOf r) (fun h => .eff [.latch h kt c (some (s.found q t h e kt ix))]),
      .when (!s.viewed t r) (rcClear r kt ix), .when (s.viewed t r && !s.hasCopy kt) (.eff [.draw 1]),
      emit (.reply q (s.found q t r e kt ix).toNat 0)] s

/-- A read of a word at an address; byte enables do not matter (R521). -/
def regRead (q : Requester) (a : Nat) : Act := atAddr q a false fun t r e =>
  if r = .SNP_DBGDATA then dbgWindowReadX q t else readWord q t r e

/-! ## Host accesses (R369, R370) -/

/-- A host access that is not served: a read completes with Unsupported Request, a write is discarded. -/
def hostRefuse (q : Requester) (x : HostAcc) : Act := .when x.read.isSome (emit (.reply q 0 0x0104))

/-- A virtual function went outside its instance. (DEDUCED, log entry 37) -/
def pciAcc : Act := lnkErr pcieTile 6 0 0

/-- The words that a range covers, each with the bytes of it, as byte enables. -/
def wordsOf (off n : Nat) : List (Nat × Nat) :=
  if n = 0 then [] else (List.range ((off + n - 1) / 4 - off / 4 + 1)).map fun i =>
    let w := off / 4 + i
    (w, maskList ((List.range 4).filter fun j => decide (off ≤ 4 * w + j) && decide (4 * w + j < off + n)))

/-- The word that a write's data makes of a word of the range. -/
def wordData (off : Nat) (data : List Byte) (w : Nat) : Nat :=
  leNat ((List.range 4).map fun j => if off ≤ 4 * w + j then data.getD (4 * w + j - off) 0 else 0)

/-- A host access to registers: word by word, the lower address first. A poisoned write carries nothing to write.
(DEDUCED, log entry 37) -/
def hostRegs (q : Requester) (base : Nat) (x : HostAcc) : Act :=
  match x.read with
  | some n => .each (wordsOf x.off n) fun w => regRead q (base + 4 * w.1)
  | none => .when (!x.poison) (.each (wordsOf x.off x.data.length) fun w => regWrite q (base + 4 * w.1) w.2 (wordData x.off x.data w.1))

/-- A host access to device memory through the aperture of its function. (DEDUCED, log entry 120) -/
def hostMem (q : Requester) (x : HostAcc) : Act := fun s =>
  let fn := if x.fn = 0 then fnPm else instOfVf x.fn
  let a := s.base40 F.LNK_APER_LO_BASE_LO F.LNK_APER_HI_BASE_HI pcieTile fn + x.off
  let n := x.read.getD x.data.length
  let ok := if x.fn = 0 then s.isDevice a n else s.inDev (instOfVf x.fn) a n
  if !ok then Act.seq [.when (x.fn != 0) pciAcc, hostRefuse q x] s
  else match x.read with
    | some n => Act.seq [yardReturn pcieTile a n, emit (.data q a (s.bytes a n) (s.poisonedIn a n))] s
    | none => memWriteFrom pcieTile a x.data x.poison false s

/-- `PCIE_HOST_ACCESS`. (DEDUCED, log entry 37) -/
def pcieHostAccessX (x : HostAcc) : Act := fun s =>
  let q : Requester := if x.fn = 0 then .pf else .vf x.fn
  if s.get F.LNK_PCISTAT_DLUP pcieTile 0 = 0 then []
  else if s.stage ≠ 9 ∨ (x.fn ≠ 0 ∧ (64 < x.fn ∨ s.get F.LNK_PCISTAT_NUMVF pcieTile 0 < x.fn)) then hostRefuse q x s
  else if x.bar = 0 then
    if x.fn ≠ 0 ∧ s.owner (x.off / 2 ^ 24) ≠ some (instOfVf x.fn) then Act.seq [pciAcc, hostRefuse q x] s
    else hostRegs q windowBase x s
  else if x.fn = 0 ∧ x.bar = 2 then hostRegs q globalBase x s
  else hostMem q x s

/-! ## The commands -/

/-- `SHADOW_WRITE`. -/
def execShadowWrite (q : Requester) (a value : Nat) (s : State) : Host.Outcome State Fault Refusal := done (shadowWriteX q a value) s

/-- `PCIE_HOST_ACCESS`. -/
def execPcieHostAccess (x : HostAcc) (s : State) : Host.Outcome State Fault Refusal := done (pcieHostAccessX x) s

/-- `RC_READ`. -/
def execRcRead (q : Requester) (a : Nat) (s : State) : Host.Outcome State Fault Refusal := done (regRead q a) s

/-- `LO_READ_LATCH`: every register read is one and the same operation; this row names those of `_LO` registers. -/
def execLoReadLatch (q : Requester) (a : Nat) (s : State) : Host.Outcome State Fault Refusal := done (regRead q a) s

/-- `REG_WRITE`: a word with its byte enables. -/
def execRegWrite (q : Requester) (a be value : Nat) (s : State) : Host.Outcome State Fault Refusal := done (regWrite q a be value) s

end Sys2Proof.Machine
end

