-- ==== Sys2Proof/Machine/Boot.lean ====
section
/-! DEFINITION. Start-up (R442 to R468): the stages S0 to S8. What a stage's tests and trainings find is its command's operand. -/
namespace Sys2Proof.Machine

/-- Stage `n` completes next: the supplies that it needs are good (R472, R473), and from S2 on the clocks run (R482).
(DEDUCED, log entry 126) -/
def State.atStage (s : State) (n : Nat) : Bool :=
  s.pkg.aonSt.pgAon && s.pkg.aonSt.next == n && (n == 0 || s.pkg.aonSt.pg) &&
  (decide (n < 2) || s.get F.MGT_PWRSTAT_TRIP pkgTile 0 == 0)

/-- The step of a stage, where it is due. -/
def atStage (n : Nat) (a : Act) : Act := fun s => if s.atStage n then a s else []

/-- A change of what the start has found. -/
def updBoot (f : Boot → Boot) : Act := updP fun p => { p with boot := f p.boot }

/-- The chosen image. -/
def State.img (s : State) : Option Img := parseImg s.pkg.boot.image

/-- The package settings of the chosen image. -/
def State.pkgCfg (s : State) : PkgCfg := s.img.elim ⟨1, 1, 5, 3, 2, 0, 0, 0, 0⟩ Img.pkgCfg

/-- The units of a kind in the defect list in force, by tile and index. -/
def State.known (s : State) (kind : Nat) : List (Nat × Nat) := (s.pkg.boot.dl.filter (·.kind == kind)).map fun e => (e.tile, e.index)

/-- Tiles in service. -/
def State.serving (s : State) : List Nat := (List.range 64).filter s.inService

/-- The tiles in service are those given: the maps and their number, in S2 and S3 alone (R5, R32). -/
def setTiles (l : List Nat) : Act := .eff
  [.fld F.MGT_TILEMAP_LO_INSVC pkgTile 0 (maskList l % 2 ^ 32), .fld F.MGT_TILEMAP_HI_INSVC pkgTile 0 (maskList l / 2 ^ 32),
   .fld F.MGT_PARTID_TILES_OK pkgTile 0 l.length]

/-- With tile (0,6) out of service there is no PCIe link (R33). -/
def pcieFollows : Act := fun s => if s.inService pcieTile then [] else pcieLinkDownX s

/-! ## S0 and S1 (R442, R448 to R450, R464) -/

/-- S0: the fuses are read, those of an earlier start if there was one. (DEDUCED, log entry 125) -/
def bootS0X (f : Fuses) (ok : Bool) : Act := atStage 0 <|
  if !ok then haltStart 0 0xF 0 0
  else .seq [updPerm fun p => { p with fuses := some (p.fuses.getD f) }, fun s => fuseRegs s.fuses,
    updAon fun a => { a with s0 := true, anew := false },
    fun s => setF F.MGT_RPTPTR_FIRST pkgTile (s.get F.MGT_RPTPTR_NEXT pkgTile 0) s, stageDone 0 false 0 0 0 0]

/-- The boot master of an election: the lowest-numbered corner that passes. (DEDUCED, log entry 125) -/
def elected (x : S1Res) : Option Nat := ((List.range 4).find? fun k => x.corners.getD k true).map fun k => corners.getD k 0

/-- The copies that pass their check when they are read. -/
def readCopies {α : Type} (l : List α) (ok : List Bool) : List α := (l.zipIdx.filter fun e => ok.getD e.2 true).map (·.1)

/-- The start runs as a quick test (R464). (DEDUCED, log entry 129) -/
def quickStart (p : Perm) (i : Img) : Bool :=
  i.quick && (i.pkgCfg.fullevery == 0 || decide (p.sinceFull < i.pkgCfg.fullevery)) &&
  !p.defects.any fun e => e.start == p.starts && decide (e.stage < 9)

/-- S1 ends with image `k`: it is in use, and the start is counted unless it goes on after a failure in S7.
(DEDUCED, log entry 130) -/
def useImage (k : Nat) (i : Img) (image : List Byte) (bad : Nat) : Act := fun s =>
  let p := s.pkg.perm
  let q := quickStart p i
  Act.seq [updBoot fun b => { b with image := image, dl := p.defects, train := newest TrainCopy.gen (p.train.filter (·.devid == s.fuses.devid)) },
    .when (!s.pkg.aonSt.fall) (updPerm fun p => { p with cnt := writeCopy CntCopy.gen (fun g => ⟨g, p.starts + 1, if q then p.sinceFull + 1 else 0⟩) p.cnt }),
    fun s => setF F.MGT_BOOTSTAT_STARTS pkgTile (min 0xFFFF s.pkg.perm.starts) s,
    .eff [.fld F.MGT_BOOTSTAT_IMAGE pkgTile 0 k, .fld F.MGT_BOOTIMG_SEQ pkgTile 0 i.seq, .fld F.MGT_BOOTSTAT_QUICK pkgTile 0 (b2n q),
      .fld F.MGT_BOOTSTAT_FALLBACK pkgTile 0 (b2n s.pkg.aonSt.exclude.isSome), .fld F.MGT_DLCNT_COUNT pkgTile 0 p.defects.length],
    stageDone 1 false bad 0 s.pkg.aonSt.inflight 0, updAon fun a => { a with inflight := 0 }] s

/-- S1: the election, the copies on the flash, and the choice of the image. -/
def bootS1X (x : S1Res) : Act := atStage 1 fun s =>
  match elected x with
  | none => Act.seq [setF F.MGT_BOOTSTAT_STAGE pkgTile 0xA, updAon fun a => { a with next := 10 }] s
  | some t =>
    let ex := s.pkg.aonSt.exclude
    let bad := ((List.range 2).filter fun k => ex != some k && ((x.images[k]?).bind (validImg s.fuses)).isNone).length
    Act.seq [setF F.MGT_TILEROLE_BOOTMASTER t 1,
      .when s.pkg.aonSt.anew (setF F.MGT_RPTPTR_FIRST pkgTile (s.get F.MGT_RPTPTR_NEXT pkgTile 0)),
      updAon fun a => { a with anew := false },
      updPerm fun p => { p with dl := readCopies p.dl x.dlOk, cnt := readCopies p.cnt x.cntOk, train := readCopies p.train x.trainOk },
      fun s => setF F.MGT_BOOTSTAT_DLLOST pkgTile (b2n s.pkg.perm.dl.isEmpty) s,
      .when (bad != 0) (setF F.MGT_BOOTSTAT_AUTHFAIL pkgTile 1),
      match chooseImg s.fuses x.images ex with
      | none => haltStart 1 (if ex.isSome then 0xE else 0xB) bad 0
      | some (k, i) => useImage k i (x.images.getD k []) bad] s

/-! ## S2 (R455, R400, R403, R126) -/

/-- The working-store banks of a tile that are beyond repair. (DEDUCED, log entry 131) -/
def badBanks (l : List (Nat × Nat)) (t : Nat) : List Nat := ((l.filter (·.1 == t)).map (·.2)).dedup

/-- The slices of the 64 hash values (R403), with the tiles in service. (DEDUCED, log entry 131) -/
def wcRemap (ins : List Nat) : List Nat :=
  (List.range 64).foldl (fun m h =>
    if ins.contains h then m
    else
      let load (t : Nat) : Nat := m.count t
      let best := ins.foldl (fun a t => if load t < load a then t else a) (ins.headD 0)
      m.set h best) ((List.range 64).map fun h => if ins.contains h then h else 64)

/-- `MEM_WCSERVE` of each tile. (DEDUCED, log entry 131) -/
def setSlices (ins : List Nat) : Act :=
  let m := wcRemap ins
  .each ins fun t =>
    let mask := maskList ((List.range 64).filter fun h => m.getD h 0 == t)
    .eff [.fld F.MEM_WCSERVE_LO_HASH t 0 (mask % 2 ^ 32), .fld F.MEM_WCSERVE_HI_HASH t 0 (mask / 2 ^ 32)]

/-- The lanes of the device in service: not in the defect list, and their tile is. -/
def State.lanesInService (s : State) (dead : List Nat) : List Nat :=
  (List.range 80).filter fun l => !dead.contains l && s.inService (linkTile (l / 8))

/-- `LNK_LANESTAT.INSVC` of the link tiles. -/
def setLanes (l : List Nat) : Act := .eff ((List.range 10).map fun k =>
  .fld F.LNK_LANESTAT_INSVC (linkTile k) 0 (maskList ((List.range 8).filter fun j => l.contains (8 * k + j))))

/-- The lanes in the defect list, with those that a stage has added. -/
def State.deadLanes (s : State) : List Nat := (s.known defSerdes).map (·.2)

/-- The core clock starts at the cap (R476). -/
def startClocks (ins : List Nat) : Act := fun s =>
  let c := s.clockCap
  Act.seq [updP fun p => { p with pwr := { lim := c, thr := c, cap := c } }, setF F.MGT_PWRSTAT_CORE_MHZ pkgTile c,
    .eff (ins.map fun t => .fld F.MGT_CLKSTAT_CORE_MHZ t 0 c)] s

/-- S2: what the self-test finds joins what the defect list holds. -/
def bootS2X (x : S2Res) : Act := atStage 2 fun s =>
  let kr := (s.known defRouter).map (·.1)
  let kb := s.known defBank
  let out0 (t : Nat) : Bool := (s.known defTile).contains (t, 0) || kr.contains t || decide (2 ≤ (badBanks kb t).length)
  let routers := (x.routers.filter fun t => !kr.contains t && decide (t < 64)).dedup
  let tested (t : Nat) : Bool := decide (t < 64) && !out0 t
  let banks := (x.banks.filter fun e => tested e.1 && decide (e.2 < 64) && !kb.contains e).dedup
  let lanes := (x.lanes.filter fun e => tested e.1 && decide (e.2 < 8) && !(s.known defLane).contains e).dedup
  let tiles := ((x.tiles ++ routers).filter tested).dedup
  let ins := (List.range 64).filter fun t =>
    !out0 t && !tiles.contains t && !routers.contains t && decide ((badBanks (kb ++ banks) t).length < 2)
  let new := (tiles.map fun t => s.defect defTile t 0 2) ++ (routers.map fun t => s.defect defRouter t 0 2) ++
    (banks.map fun e => s.defect defBank e.1 e.2 2) ++ lanes.map fun e => s.defect defLane e.1 e.2 2
  Act.seq [dlAppend new, setTiles ins, pcieFollows, updYard fun y => { y with routers := (kr ++ routers).dedup },
    .each ins fun t =>
      let bad := badBanks (kb ++ banks) t
      let phy := maskList ((List.range 8).filter fun l => !(s.known defLane ++ lanes).contains (t, l))
      .seq [.eff [.fld F.MEM_WSCFG_SPARE t 0 (b2n (bad != [])), .fld F.MEM_WSCFG_REPLACED t 0 (bad.headD 0),
        .fld F.ECE_LANECFG_PHYMASK t 0 phy, .fld F.ECE_LANECFG_NPHY t 0 (popBits 8 phy)], zeroStore t],
    setSlices ins, fun s => setLanes (s.lanesInService s.deadLanes) s, startClocks ins,
    if ins.length < s.pkgCfg.mintiles then haltStart 2 0xC x.transient new.length
    else stageDone 2 (ins.length != 64 || new != [] || kb != [] || s.known defLane != []) x.transient new.length 0 0] s

/-! ## S3 (R456, R410) -/

/-- How many tiles of a list a tile cannot reach, or cannot be reached from. -/
def unreachable (y : Yard) (l : List Nat) (t : Nat) : Nat := (l.filter fun u => (route y t u).isNone || (route y u t).isNone).length

/-- The tiles of a list that remain: while some pair cannot reach each other, the tile with the most such pairs goes, the
highest-numbered of equals; it is at most `n` tiles. -/
def reachable (y : Yard) : Nat → List Nat → List Nat
  | 0, l => l
  | n + 1, l =>
    let worst := l.foldl (fun a t => let k := unreachable y l t; if a.2 ≤ k then (t, k) else a) (0, 0)
    if worst.2 = 0 then l else reachable y n (l.filter (· != worst.1))

/-- S3: the edges in service train, the routes are computed, and tiles that stay out of reach go out of service. -/
def bootS3X (x : TrainRes) : Act := atStage 3 fun s =>
  let known := (s.known defEdge).filterMap fun e => edgeOf e.1 e.2
  let y0 : Yard := { s.pkg.yard with dead := known }
  let new := ((x.edges.filterMap fun e => edgeOf e.1 e.2).filter y0.edgeUp).dedup
  let y : Yard := { y0 with dead := known ++ new }
  let ins := reachable y 64 s.serving
  Act.seq [dlAppend (new.map fun e => s.defect defEdge e.1 e.2 3), updYard fun _ => y, loadYard, setTiles ins, pcieFollows,
    fun s => setLanes (s.lanesInService s.deadLanes) s,
    if !ins.contains s.bootTile ∨ ins.length < s.pkgCfg.mintiles then haltStart 3 0xC x.transient new.length
    else stageDone 3 (ins != s.serving || y.dead != []) x.transient new.length 0 0] s

/-! ## S4 and S5 (R457 to R459, R463) -/

/-- The stack of a port (R27). -/
def stackOf (p : Nat) : Nat := p / 2

/-- The tile that serves a half-stack: its own, or its partner by takeover. -/
def State.server (s : State) (p : Nat) : Option Nat :=
  if s.inService (tileOfPort p) then some (tileOfPort p)
  else if s.inService (tileOfPort (p ^^^ 1)) then some (tileOfPort (p ^^^ 1)) else none

/-- The saved settings of a half-stack apply (R463). (DEDUCED, log entry 132) -/
def State.savedHalf (s : State) (temps : List Nat) (p : Nat) : Bool :=
  s.pkg.boot.train.elim false fun c =>
    let a := temps.getD (stackOf p) 0
    let b := c.temps.getD (stackOf p) 0
    c.halves.any (fun e => e.1 == p && some e.2 == s.server p) && decide (a ≤ b + 20) && decide (b ≤ a + 20)

/-- S4: each half-stack is trained, from its saved settings or in full. (DEDUCED, log entry 132) -/
def bootS4X (x : TrainRes) : Act := atStage 4 fun s =>
  let live := (List.range 16).filter fun p => !(s.known defHalf).contains (p, 0)
  let served := live.filter fun p => (s.server p).isSome
  let full := served.filter fun p => !s.savedHalf x.temps p || x.savedBad.contains p
  let lost := live.filter fun p => (s.server p).isNone || (full.contains p && x.bad.contains p)
  let up := live.filter fun p => !lost.contains p
  let take := up.filter fun p => s.server p != some (tileOfPort p)
  Act.seq [dlAppend (lost.map fun p => s.defect defHalf p 0 4),
    .eff [.fld F.MGT_HBMCFG_INSVC pkgTile 0 (maskList up), .fld F.MGT_HBMTAKE_TAKE pkgTile 0 (maskList take)],
    .eff ((List.range 16).flatMap fun p => [.fld F.MEM_HBMSTAT_UP (tileOfPort p) 0 (b2n (up.contains p)),
      .fld F.MEM_HBMSTAT_TEMP (tileOfPort p) 0 (x.temps.getD (stackOf p) 0),
      .fld F.MEM_HBMSTAT_TRAIN (tileOfPort p) 0
        (if lost.contains p then 3 else if full.contains p then 2 else if up.contains p then 1 else 0)]),
    updBoot fun b => { b with fullHalves := full.filter up.contains, temps := x.temps },
    stageDone 4 (up.length != 16 || full != []) x.transient lost.length full.length 0] s

/-- S5: the memory test. Every address then holds zero, and the map is that of the ports in service. -/
def bootS5X (x : S5Res) : Act := atStage 5 fun s =>
  let lost := (x.lost.filter s.ports.contains).dedup
  let up := s.ports.filter fun p => !lost.contains p
  let take := up.filter (bitOf (s.get F.MGT_HBMTAKE_TAKE pkgTile 0))
  Act.seq [dlAppend (lost.map fun p => s.defect defHalf p 0 5), hbmZero 0 hbmEnd,
    .eff ([.fld F.MGT_HBMCFG_INSVC pkgTile 0 (maskList up), .fld F.MGT_HBMCFG_UNITS pkgTile 0 (18 * up.length),
        .fld F.MGT_HBMTAKE_TAKE pkgTile 0 (maskList take)] ++
      lost.map fun p => .fld F.MEM_HBMSTAT_UP (tileOfPort p) 0 0),
    if up.length < s.pkgCfg.minports then haltStart 5 0xD x.transient lost.length
    else stageDone 5 (up.length != 16) x.transient lost.length x.rows 0] s

/-! ## S6 and S7 (R460, R461, R454) -/

/-- The digest of the `LINKCFG` section in force (R463). -/
def State.linkDigest (s : State) : List Byte := sha256 ((s.img.bind fun i => i.sect sectLink).getD [])

/-- S6: the quad modes and FEC of the image are in force, and every lane in service of a quad that is not `OFF` trains. -/
def bootS6X (x : TrainRes) : Act := atStage 6 fun s =>
  let cfg := s.img.elim (List.replicate 20 (0, 0), 0) Img.links
  let q (k : Nat) : Nat × Nat := cfg.1.getD k (0, 0)
  let lanes := (s.lanesInService s.deadLanes).filter fun l => (q (l / 4)).1 != 0
  let saved (l : Nat) : Bool := s.pkg.boot.train.elim false fun c => c.linkdig == s.linkDigest && c.lanes.contains l
  let full := lanes.filter fun l => !saved l || x.savedBad.contains l
  let lost := full.filter x.bad.contains
  Act.seq [dlAppend (lost.map fun l => s.defect defSerdes 0 l 6),
    .eff ((List.range 10).flatMap fun k =>
      let t := linkTile k
      [.fld F.LNK_QUADCFG_MODE0 t 0 (q (2 * k)).1, .fld F.LNK_QUADCFG_MODE1 t 0 (q (2 * k + 1)).1,
       .fld F.LNK_QUADCFG_FEC25_0 t 0 (q (2 * k)).2, .fld F.LNK_QUADCFG_FEC25_1 t 0 (q (2 * k + 1)).2]),
    setF F.LNK_QUADCFG_FEC25_0 paddockTile (b2n (cfg.2 == 1)),
    setLanes (s.lanesInService (s.deadLanes ++ lost)),
    updBoot fun b => { b with fullLanes := full.filter fun l => !lost.contains l },
    stageDone 6 (full != [] || s.deadLanes != []) x.transient lost.length full.length 0] s

/-- The first failure of S7 restarts at S1 with the image excluded; its record stays, and the start is not counted again.
(DEDUCED, log entry 128) -/
def fallBack (x : S7Res) : Act := fun s =>
  let k := s.get F.MGT_BOOTSTAT_IMAGE pkgTile 0
  let first := s.get F.MGT_RPTPTR_FIRST pkgTile 0
  Act.seq [fun s => putReport (s.reportBytes 7 2 0 x.transient 0 0 0) s, packageReset,
    .eff [.fld F.MGT_RPTPTR_FIRST pkgTile 0 first, .fld F.MGT_BOOTSTAT_STAGE pkgTile 0 6, .fld F.MGT_BOOTSTAT_FALLBACK pkgTile 0 1],
    updAon fun a => { a with exclude := some k, fall := true, anew := false }] s

/-- The HBM ports that tiles serve and the lanes that they carry go out of service with them (R33, R455): the map of R459 is then
that of the ports left. (DEDUCED, log entry 133) -/
def loseTiles (bad : List Nat) : Act := fun s =>
  let lost := s.ports.filter fun p => bad.contains (s.servingTile p)
  let up := s.ports.filter fun p => !lost.contains p
  let take := (bitList 16 (s.get F.MGT_HBMTAKE_TAKE pkgTile 0)).filter fun p => !lost.contains p
  [.fld F.MGT_HBMCFG_INSVC pkgTile 0 (maskList up), .fld F.MGT_HBMCFG_UNITS pkgTile 0 (18 * up.length),
   .fld F.MGT_HBMTAKE_TAKE pkgTile 0 (maskList take)] ++
  (lost.map fun p => .fld F.MEM_HBMSTAT_UP (tileOfPort p) 0 0) ++
  (bad.filter isLinkTile).map fun t => .fld F.LNK_LANESTAT_INSVC t 0 0

/-- S7: firmware runs on every tile in service, or the image fails. A tile that fails goes out of service (R461, R455); the
tile maps and `TILES_OK` hold what S3 left (R5, R32). (DEDUCED, log entries 128, 133) -/
def bootS7X (x : S7Res) : Act := atStage 7 fun s =>
  if !x.imageOk then
    (if s.pkg.aonSt.exclude.isSome then haltStart 7 0xE x.transient 0 else fallBack x) s
  else
    let bad := (x.bad.filter s.inService).dedup
    let ins := s.serving.filter fun t => !bad.contains t
    Act.seq [dlAppend (bad.map fun t => s.defect defTile t 0 7), updBoot (fun b => { b with failed := b.failed ++ bad }), loseTiles bad, pcieFollows,
      .each ins startFirmware,
      stageDone 7 (bad != []) x.transient bad.length 0 0] s

/-! ## S8 (R462) -/

/-- The HBM split of `PKGCFG`. -/
def setSplit (c : PkgCfg) : Act :=
  .eff (((List.range 64).filter isMemTile).flatMap fun t =>
    [.fld F.SMV_HBMSPLIT_READ t 0 c.rd, .fld F.SMV_HBMSPLIT_WRITE t 0 c.wr, .fld F.SMV_HBMSPLIT_REMOTE t 0 c.rm])

/-- The engines of a tile, all of which firmware enables (R424). -/
def engines : List Engine := [.arr, .sfu, .ece, .sce, .smv, .ing, .lnk, .fxg]

/-- The tiles of a declared instance: its ranks among the tiles in service, lowest first. (DEDUCED, log entry 135) -/
def State.ranked (s : State) (ranks : List Nat) : List Nat :=
  s.serving.zipIdx.filterMap fun e => if ranks.contains e.2 then some e.1 else none

/-- An entry of the owner table is given to an instance where it is free. (DEDUCED, log entry 135) -/
def giveUnit (n u : Nat) : Act := fun s =>
  if 288 ≤ u ∨ (s.unitOwner u).isSome then []
  else
    let j := 8 * (u % 4)
    [.word .PRT_MOWN pkgTile (u / 4) (setBits (setBits (s.reg .PRT_MOWN pkgTile (u / 4)) (j + 7) (j + 7) 1) (j + 5) j n)]

/-- A declared instance can be created (R424, R440). -/
def State.mayCreate (s : State) (n : Nat) (ts : List Nat) : Bool :=
  decide (n < 64) && s.instState n == instFree && ts != [] && ts.all fun t => (s.owner t).isNone

/-- A declared instance is created: its tiles are reset, its epoch advances, firmware enables its engines, and it is active with its
HBM units. (DEDUCED, log entry 135) -/
def createDeclared (e : Nat × List Nat × List Nat) : Act := fun s =>
  let n := e.1
  let ts := s.ranked e.2.1
  if !s.mayCreate n ts then []
  else Act.seq [
    .eff [.fld F.PRT_ITILES_LO_TILES pkgTile n (maskList ts % 2 ^ 32), .fld F.PRT_ITILES_HI_TILES pkgTile n (maskList ts / 2 ^ 32)],
    .each ts fun t => .seq [.eff [.fld F.PRT_TOWN_ASSIGNED t 0 1, .fld F.PRT_TOWN_INST t 0 n], localReset t, zeroStore t,
      .each engines fun b => .read fun s => .when (s.canEnable b t) (.eff [.fld (ctlEn b) t 0 1, .fld (ctlState b) t 0 fnOn])],
    nextEpoch n ts, setFx F.PRT_ISTAT_STATE pkgTile n instActive, .each e.2.2 (giveUnit n)] s

/-- A program of the image is loaded as a `LOADPROG` would load it, or refused. -/
def loadDeclared (e : Nat × Nat × List Byte) : Act := fun s =>
  let n := e.1
  if s.instState n ≠ instActive ∨ (s.prog n e.2.1).isSome then []
  else
    let r := s.loadBinary n e.2.1 e.2.2
    if r.2 ≠ [] then [] else updI n (fun x => { x with progs := x.progs ++ [r.1], overlays := x.overlays ++ r.1.overlays }) s

/-- A table of the image is placed in the boot master's working store, and its base register names it.
(DESIGN CHOICE, log entry 62) -/
def placeTable (k : Nat) (lo hi : Fld) (t : Nat) (b : List Byte) : Act := fun s =>
  let a := wsBase + s.bootTile * wsSize + Config.tablePage k % 2 ^ 14 * 2 ^ 12
  Act.seq [memWrite a b false false, .eff [.fld lo t 0 (a / 2 ^ 12 % 2 ^ 20), .fld hi t 0 (a / 2 ^ 32)]] s

/-- A word that the image gives a register of the package is judged as any write is (R18). -/
def imageWord (r : Reg) (v : Nat) : Act := fun s =>
  let j := s.judge r pkgTile 0 (BitVec.ofNat 32 v)
  Act.seq [.eff [.word r pkgTile 0 j.1], regErr r.place.blk pkgTile .hw r.place.off j.2] s

/-- The tables of sections 0x0009 to 0x000B are placed and read, and their `EN` is set; `PTP` gives its registers their values.
(DESIGN CHOICE, log entry 62) -/
def loadTables (i : Img) : Act := .seq
  [.opt (i.sect sectLabels) fun b => .seq [placeTable 0 F.LNK_LBLBASE_LO_BASE_LO F.LNK_LBLBASE_HI_BASE_HI paddockTile b,
     loadLabels .hw, setF F.LNK_LBLCTL_EN paddockTile 1],
   .opt (i.sect sectPublish) fun b => .seq [placeTable 1 F.LNK_PUBBASE_LO_BASE_LO F.LNK_PUBBASE_HI_BASE_HI pkgTile b,
     loadPubs .hw, setF F.LNK_PUBCTL_EN pkgTile 1],
   .opt (i.sect sectPtp) fun b =>
     let v := Config.imgPtp b
     .seq [imageWord .LNK_PTPCFG v.1, .eff [.fld F.LNK_MVCFG_UDPPORT pkgTile 0 (bitsOf v.2 15 8)],
       if bitsOf v.2 31 16 < 80 then regErrAt .LNK_MVCFG pkgTile .hw causeRange
       else setF F.LNK_MVCFG_E2E pkgTile (bitsOf v.2 31 16)],
   .opt (i.sect sectPeers) fun b => .seq [placeTable 2 F.LNK_MVPEER_LO_BASE_LO F.LNK_MVPEER_HI_BASE_HI pkgTile b,
     loadPeers .hw, setF F.LNK_MVCFG_EN pkgTile 1]]

/-- The settings words that a declared stream takes are written at its home tile, in its own slot, each judged as any write is:
a reserved value leaves its field as it was and is recorded (R18). -/
def writeSettings (id : Nat) (l : List (Nat × Nat)) : Act := .each l fun e =>
  .opt ((blkAt e.1).bind fun b => locate b (e.1 % 0x80000)) fun r =>
    match r.1.place.ix with
    | .sel _ => .read fun s =>
      let j := s.judge r.1 (homeOf id) (slotOf id) (BitVec.ofNat 32 e.2)
      .seq [.eff [.word r.1 (homeOf id) (slotOf id) j.1], regErr r.1.place.blk (homeOf id) .hw r.1.place.off j.2]
    | _ => .none

/-- A stream of the image is opened through its instance's control window; `seq` is its number there.
(DEDUCED, log entry 136) -/
def openDeclared (e : Nat × List Byte × List (Nat × Nat)) (seq : Nat) : Act := fun s =>
  let n := e.1
  let h : ReqHdr := { flags := 1, inst := n, epoch := s.epoch n, len := e.2.1.length, seq := seq }
  Act.seq [.opt (s.openTarget e.2.1) fun id => .when (s.slotState id == slotClosed) (writeSettings id e.2.2),
    handleRequest .image opOpen { h with digest := rdigest (reqHead opOpen h) e.2.1 } e.2.1] s

/-- The streams of a section with their sequence numbers: from 1 in each instance, in section order. (DEDUCED, log entry 136) -/
def numbered {α : Type} (l : List (Nat × α)) : List ((Nat × α) × Nat) :=
  l.zipIdx.map fun e => (e.1, ((l.take e.2).filter (·.1 == e.1.1)).length + 1)

/-- A declared stream was opened: its request completed with `ST_OK`. -/
def State.wasOpened (s : State) (n seq : Nat) : Bool :=
  (s.inst n).ctl.entries.any fun e => e.seq == seq && e.done.elim false (·.status == 0)

/-- The fuse bits that the image asks for are blown (R450): its security version, and the slots to revoke but the one in use.
(DEDUCED, log entry 129) -/
def blowFuses (i : Img) : Act := fun s =>
  let f := s.fuses
  let svn := if i.commit then max f.svn i.svn else f.svn
  let rev := maskList ((List.range 4).filter fun k => bitOf f.keyrev k || (bitOf i.pkgCfg.revoke k && k != i.slot))
  Act.seq [updPerm fun p => { p with fuses := some { f with svn := svn, keyrev := rev } }, fun s => fuseRegs s.fuses] s

/-- The training settings are saved after any full training (R463). (DESIGN CHOICE, log entry 64; DEDUCED, log entry 132) -/
def saveTraining : Act := fun s =>
  let b := s.pkg.boot
  if b.fullHalves = [] ∧ b.fullLanes = [] then []
  else
    let old := b.train
    let temps := (List.range 8).map fun k =>
      if b.fullHalves.any (fun p => stackOf p == k) then b.temps.getD k 0 else old.elim (b.temps.getD k 0) fun c => c.temps.getD k 0
    let lanes := (old.elim [] fun c => if c.linkdig = s.linkDigest then c.lanes.filter fun l => !b.fullLanes.contains l else []) ++ b.fullLanes
    let halves := s.ports.map fun p => (p, s.servingTile p)
    updPerm (fun p => { p with train := writeCopy TrainCopy.gen (fun g => ⟨g, s.fuses.devid, s.linkDigest, temps, halves, lanes⟩) p.train }) s

/-- The tiles that no instance holds end S8 unassigned: their engines are OFF and their clocks stop. (DEDUCED, log entry 136) -/
def restTiles : Act := .each (List.range 64) fun t => fun s =>
  if !s.inService t ∨ (s.owner t).isSome then []
  else Act.seq [.eff [.fld F.FXG_CTL_EN t 0 0, .fld F.FXG_CTL_STATE t 0 fnOff], unassign t] s

/-- S8, and with it S9. -/
def bootS8X : Act := atStage 8 fun s =>
  match s.img with
  | none => []
  | some i =>
    let c := i.pkgCfg
    let insts := (i.sect sectInstances).elim [] Config.imgInstances
    let progs := (i.sect sectPrograms).elim [] Config.imgPrograms
    let streams := numbered ((i.sect sectStreams).elim [] Config.imgStreams)
    Act.seq [setSplit c, setF F.LNK_MVCFG_DEVNUM pkgTile c.devnum,
      updP fun p => { p with masterDev := c.master, ifaces := (i.sect sectNet).elim [] Config.imgIfaces },
      setF F.LNK_MVSTAT_MASTER pkgTile (b2n (s.pkg.aonSt.masterSel && c.devnum == c.master)),
      .each insts createDeclared, .each progs loadDeclared, loadTables i,
      .each streams fun e => openDeclared e.1 e.2, restTiles, blowFuses i, saveTraining,
      fun u =>
        let opened := (streams.filter fun e => u.wasOpened e.1.1 e.2).length
        let absent := (insts.filter fun e => u.instState e.1 != instActive).length
        stageDone 8 false 0 0 opened (min 255 absent + 2 ^ 8 * min 255 (streams.length - opened)) u,
      setF F.MGT_BOOTSTAT_STAGE pkgTile 9, updAon fun a => { a with next := 9, exclude := none, fall := false }] s

/-! ## The commands -/

/-- `BOOT_S0`. -/
def execBootS0 (f : Fuses) (ok : Bool) (s : State) : Host.Outcome State Fault Refusal := done (bootS0X f ok) s

/-- `BOOT_S1`. -/
def execBootS1 (x : S1Res) (s : State) : Host.Outcome State Fault Refusal := done (bootS1X x) s

/-- `BOOT_S2`. -/
def execBootS2 (x : S2Res) (s : State) : Host.Outcome State Fault Refusal := done (bootS2X x) s

/-- `BOOT_S3`. -/
def execBootS3 (x : TrainRes) (s : State) : Host.Outcome State Fault Refusal := done (bootS3X x) s

/-- `BOOT_S4`. -/
def execBootS4 (x : TrainRes) (s : State) : Host.Outcome State Fault Refusal := done (bootS4X x) s

/-- `BOOT_S5`. -/
def execBootS5 (x : S5Res) (s : State) : Host.Outcome State Fault Refusal := done (bootS5X x) s

/-- `BOOT_S6`. -/
def execBootS6 (x : TrainRes) (s : State) : Host.Outcome State Fault Refusal := done (bootS6X x) s

/-- `BOOT_S7`. -/
def execBootS7 (x : S7Res) (s : State) : Host.Outcome State Fault Refusal := done (bootS7X x) s

/-- `BOOT_S8`. -/
def execBootS8 (s : State) : Host.Outcome State Fault Refusal := done bootS8X s

end Sys2Proof.Machine
end

