-- ==== Sys2Proof/Machine/Labels.lean ====
section
/-! DEFINITION. The Paddock port (R181 to R184, R368): mirrored Modbus and UADP traffic gives label records, and nothing
else of it enters the device. -/
namespace Sys2Proof.Machine

/-- A whole number as an FP32 source value. -/
def ofInt (v : Int) : Num := ofRat false (v : Rat)

/-- The registers of a binding's value in a response whose first register is `first` (R182). -/
def lblRaw (e : LblBind) (first : Nat) (regs : List Nat) : Num :=
  let a := regs.getD (e.addr - first) 0 % 2 ^ 16
  let b := regs.getD (e.addr - first + 1) 0 % 2 ^ 16
  match e.typ with
  | 0 => ofInt (toSigned 16 a)
  | 1 => ofInt a
  | 2 => ofInt (toSigned 32 (a * 2 ^ 16 + b))
  | 3 => ofInt (a * 2 ^ 16 + b : Nat)
  | 4 => fmtF32.value (a * 2 ^ 16 + b)
  | 5 => ofInt (b2n (a != 0))
  | 6 => ofInt (toSigned 32 (b * 2 ^ 16 + a))
  | _ => fmtF32.value (b * 2 ^ 16 + a)

/-- The label of a raw value: FP32(raw) × SCALE + OFFSET, each step rounded by itself (R184). -/
def lblValue (e : LblBind) (raw : Num) : Nat :=
  (fmtF32.convert 1 0 false (fadd (fmul (rne32 raw) (fmtF32.value e.scale)) (fmtF32.value e.offset))).code

/-- One label record (R184). -/
def labelRecord (ptime value seq bind : Nat) (isBool : Bool) : List Byte :=
  toLe 8 ptime ++ toLe 4 value ++ toLe 2 seq ++ toLe 1 bind ++ toLe 1 (b2n isBool)

/-- A label goes to its binding's ring. -/
def putLabel (e : LblBind) (raw : Num) (isBool : Bool) : Act := fun s =>
  match s.pkg.lbls.find? (·.ix == e.ix) with
  | none => []
  | some e =>
    let a := e.ring + 16 * (e.seq % (e.pages * 256))
    Act.seq [.when (s.inDev e.inst a 16) (memWrite a (labelRecord s.now (lblValue e raw) e.seq e.ix isBool) false false),
      updP fun p => { p with lbls := p.lbls.map fun x => if x.ix = e.ix then { x with seq := x.seq + 1 } else x },
      count F.LNK_LBLCNT0_LABELS paddockTile 1] s

/-- The numeric field types of R183, with whether the source was Boolean. -/
def uadpRaw : UadpField → Option (Num × Bool)
  | .int v => some (ofInt v, false)
  | .bool b => some (ofInt (b2n b), true)
  | .f32 c => some (fmtF32.value c, false)
  | .f64 c => some (fmtF64.value c, false)
  | .other => none

/-- The labels of a paired Modbus response, in binding order. (DEDUCED, log entry 99) -/
def State.modbusLabels (s : State) (m : MbReq) (server unit fc : Nat) (regs : List Nat) : List (LblBind × Num × Bool) :=
  (s.pkg.lbls.filter fun e => e.proto == 1 && e.src == server && e.unit == unit && e.fc == fc && decide (m.addr ≤ e.addr) &&
    decide (e.addr + lblRegs e.typ ≤ m.addr + m.count)).map fun e => (e, lblRaw e m.addr regs, e.typ == 5)

/-- The bindings that a UADP message meets, in binding order, with the field of each. (DEDUCED, log entry 99) -/
def State.uadpFields (s : State) (pub wg : Nat) (sets : List (Nat × List UadpField)) : List (LblBind × UadpField) :=
  s.pkg.lbls.flatMap fun e => sets.filterMap fun d =>
    if e.proto = 2 ∧ e.src = pub % 2 ^ 16 + wg % 2 ^ 16 * 2 ^ 16 ∧ e.addr = d.1 then (d.2[e.unit]?).map fun f => (e, f) else none

/-- A Modbus request asks for the registers of some binding. -/
def State.modbusBound (s : State) (server unit fc addr n : Nat) : Bool :=
  s.modbusLabels ⟨0, 0, server, unit, fc, addr, n, false⟩ server unit fc [] != []

/-- What the parser makes of a frame (R181, R183): a message that can give no binding a label counts as unmatched, a request whose
range holds no binding's registers and a response without a request among them. (DESIGN CHOICE, log entry 97) -/
def paddockBody : PadBody → Act
  | .modbusReq tuple tid server unit fc addr n => .seq
    [updP fun p => { p with
      mbs := p.mbs.filter (fun m => !(m.tuple == tuple && m.tid == tid)) ++ [⟨tuple, tid, server, unit, fc, addr, n, false⟩] },
     .read fun s => .when (!s.modbusBound server unit fc addr n) (count F.LNK_LBLCNT0_UNMATCHED paddockTile 1)]
  | .modbusRsp tuple tid server unit fc exc regs => fun s =>
    match s.pkg.mbs.find? fun m => m.tuple == tuple && m.tid == tid with
    | none => count F.LNK_LBLCNT0_UNMATCHED paddockTile 1 s
    | some m =>
      if m.answered then []
      else
        let ls := s.modbusLabels m server unit fc regs
        Act.seq [updP fun p => { p with mbs := p.mbs.map fun x => if x.tuple = tuple ∧ x.tid = tid then { x with answered := true } else x },
          if !exc && regs.length != m.count then count F.LNK_LBLCNT1_UNPARSED paddockTile 1
          else if exc && ls != [] then .none
          else if ls = [] then count F.LNK_LBLCNT0_UNMATCHED paddockTile 1
          else .each ls fun l => putLabel l.1 l.2.1 l.2.2] s
  | .uadp pub wg sets => fun s =>
    let fs := s.uadpFields pub wg sets
    let odd := (sets.flatMap (·.2)).filter fun f => (uadpRaw f).isNone
    Act.seq [count F.LNK_LBLCNT1_UNPARSED paddockTile odd.length,
      .when fs.isEmpty (count F.LNK_LBLCNT0_UNMATCHED paddockTile 1),
      .each fs fun f => .opt (uadpRaw f.2) fun r => putLabel f.1 r.1 r.2] s
  | .secured => count F.LNK_LBLCNT1_SECURED paddockTile 1
  | .unparsed => count F.LNK_LBLCNT1_UNPARSED paddockTile 1

/-- The Paddock lane holds block lock (R368). (DEDUCED, log entry 99) -/
def State.padLock (s : State) : Bool := bitOf (s.get F.LNK_LANESTAT_LOCK paddockTile 0) 0

/-- `PADDOCK_FRAME_RX`: a frame that R348 or R350 drops is counted; with `EN`, the others are parsed. -/
def paddockFrameRxX (good : Bool) (b : PadBody) : Act := fun s =>
  if !s.isOn .lnk paddockTile ∨ !s.padLock then []
  else if !good then Act.seq [count F.LNK_RXDROP_COUNT paddockTile 1, lnkErr paddockTile 1 0 0] s
  else if s.get F.LNK_LBLCTL_EN paddockTile 0 = 1 then paddockBody b s else []

/-- `MODBUS_PAIR_EXPIRY`: 1 s has passed since a request, which can pair no more (R183). -/
def modbusPairExpiryX (tuple tid : Nat) : Act :=
  updP fun p => { p with mbs := p.mbs.filter fun m => !(m.tuple == tuple && m.tid == tid) }

/-- `PADDOCK_LOCK_CHANGE`: the lane loses or regains block lock (R368). -/
def paddockLockChangeX (lock : Bool) : Act := setF F.LNK_LANESTAT_LOCK paddockTile (b2n lock)

/-- `PADDOCK_FRAME_RX`. -/
def execPaddockFrameRx (good : Bool) (b : PadBody) (s : State) : Host.Outcome State Fault Refusal := done (paddockFrameRxX good b) s

/-- `MODBUS_PAIR_EXPIRY`. -/
def execModbusPairExpiry (tuple tid : Nat) (s : State) : Host.Outcome State Fault Refusal := done (modbusPairExpiryX tuple tid) s

/-- `PADDOCK_LOCK_CHANGE`. -/
def execPaddockLockChange (lock : Bool) (s : State) : Host.Outcome State Fault Refusal := done (paddockLockChangeX lock) s

end Sys2Proof.Machine
end

