-- ==== Sys2Proof/Machine/Dispatch.lean ====
section
/-! DEFINITION. The dispatch: one arm a command, each one direct call of its meaning. -/
namespace Sys2Proof.Machine

/-- What a command does to everything but the queue. (DEDUCED, log entry 1) -/
def exec (i : Instr) (s : State) : Host.Outcome State Fault Refusal :=
  match i with
  | .powerGoodAon master => Sys2Proof.Machine.execPowerGoodAon master s
  | .bootS0 f ok => Sys2Proof.Machine.execBootS0 f ok s
  | .pwrGoodAssert => Sys2Proof.Machine.execPwrGoodAssert s
  | .bootS1 x => Sys2Proof.Machine.execBootS1 x s
  | .bootS2 x => Sys2Proof.Machine.execBootS2 x s
  | .bootS3 x => Sys2Proof.Machine.execBootS3 x s
  | .bootS4 x => Sys2Proof.Machine.execBootS4 x s
  | .bootS5 x => Sys2Proof.Machine.execBootS5 x s
  | .bootS6 x => Sys2Proof.Machine.execBootS6 x s
  | .bootS7 x => Sys2Proof.Machine.execBootS7 x s
  | .bootS8 => Sys2Proof.Machine.execBootS8 s
  | .pwrGoodDeassert => Sys2Proof.Machine.execPwrGoodDeassert s
  | .railUndervoltage rail => Sys2Proof.Machine.execRailUndervoltage rail s
  | .aonPowerLoss => Sys2Proof.Machine.execAonPowerLoss s
  | .thermalTrip => Sys2Proof.Machine.execThermalTrip s
  | .limiterDecision x => Sys2Proof.Machine.execLimiterDecision x s
  | .clockStepDone => Sys2Proof.Machine.execClockStepDone s
  | .hotminTick => Sys2Proof.Machine.execHotminTick s
  | .pkgRstPin => Sys2Proof.Machine.execPkgRstPin s
  | .pkgResetRequest q key => Sys2Proof.Machine.execPkgResetRequest q key s
  | .pkgResetDrainEnd n => Sys2Proof.Machine.execPkgResetDrainEnd n s
  | .instanceCreate q => Sys2Proof.Machine.execInstanceCreate q s
  | .instanceReset q => Sys2Proof.Machine.execInstanceReset q s
  | .instanceDestroy q wipe => Sys2Proof.Machine.execInstanceDestroy q wipe s
  | .resetInflightZero n => Sys2Proof.Machine.execResetInflightZero n s
  | .resetEscalationTimeout n => Sys2Proof.Machine.execResetEscalationTimeout n s
  | .instanceFwReady n => Sys2Proof.Machine.execInstanceFwReady n s
  | .mownWrite q k value => Sys2Proof.Machine.execMownWrite q k value s
  | .tileReset q t => Sys2Proof.Machine.execTileReset q t s
  | .tileResetDone t => Sys2Proof.Machine.execTileResetDone t s
  | .engineReset q t engines => Sys2Proof.Machine.execEngineReset q t engines s
  | .engineResetDone t b => Sys2Proof.Machine.execEngineResetDone t b s
  | .funcEnWrite q t b en => Sys2Proof.Machine.execFuncEnWrite q t b en s
  | .funcTransitionEnd t b => Sys2Proof.Machine.execFuncTransitionEnd t b s
  | .funcDisableTimeout t b => Sys2Proof.Machine.execFuncDisableTimeout t b s
  | .openStream o h p => Sys2Proof.Machine.execOpen o h p s
  | .closeStream o h p => Sys2Proof.Machine.execClose o h p s
  | .closeComplete id => Sys2Proof.Machine.execCloseComplete id s
  | .loadprog o h p => Sys2Proof.Machine.execLoadprog o h p s
  | .unloadprog o h p => Sys2Proof.Machine.execUnloadprog o h p s
  | .nop o h p => Sys2Proof.Machine.execNop o h p s
  | .input o h p => Sys2Proof.Machine.execInput o h p s
  | .submit o h p => Sys2Proof.Machine.execSubmit o h p s
  | .barrierReq o h p => Sys2Proof.Machine.execBarrier o h p s
  | .keyreq o h p => Sys2Proof.Machine.execKeyreq o h p s
  | .adapt o h p => Sys2Proof.Machine.execAdapt o h p s
  | .revert o h p => Sys2Proof.Machine.execRevert o h p s
  | .sqtailWrite q t r value => Sys2Proof.Machine.execSqtailWrite q t r value s
  | .cqheadWrite q t r value => Sys2Proof.Machine.execCqheadWrite q t r value s
  | .ringEnWrite q t k r value => Sys2Proof.Machine.execRingEnWrite q t k r value s
  | .completionRecordWrite t r => Sys2Proof.Machine.execCompletionRecordWrite t r s
  | .errorRingWrite t => Sys2Proof.Machine.execErrorRingWrite t s
  | .queueTailWrite q t k value => Sys2Proof.Machine.execQueueTailWrite q t k value s
  | .qcfgWrite q t k value => Sys2Proof.Machine.execQcfgWrite q t k value s
  | .queueBurstFetch t k => Sys2Proof.Machine.execQueueBurstFetch t k s
  | .transferIssue t k => Sys2Proof.Machine.execTransferIssue t k s
  | .transferComplete t tag status => Sys2Proof.Machine.execTransferComplete t tag status s
  | .itemDispatch t k => Sys2Proof.Machine.execItemDispatch t k s
  | .barrierComplete id => Sys2Proof.Machine.execBarrierComplete id s
  | .overlayAccessFault t n => Sys2Proof.Machine.execOverlayAccessFault t n s
  | .arrItemStart t q => Sys2Proof.Machine.execArrItemStart t q s
  | .arrBlockStart t => Sys2Proof.Machine.execArrBlockStart t s
  | .arrBlockDone t => Sys2Proof.Machine.execArrBlockDone t s
  | .haloArrival t q side => Sys2Proof.Machine.execHaloArrival t q side s
  | .sfuMicroLoadDone t q fails => Sys2Proof.Machine.execSfuMicroLoadDone t q fails s
  | .arrCvctlClr q t => Sys2Proof.Machine.execArrCvctlClr q t s
  | .lscEncFrameBoundary id => Sys2Proof.Machine.execLscEncFrameBoundary id s
  | .lscDecFrameBoundary id => Sys2Proof.Machine.execLscDecFrameBoundary id s
  | .lscLatentPathDone id => Sys2Proof.Machine.execLscLatentPathDone id s
  | .lscFrameComplete id => Sys2Proof.Machine.execLscFrameComplete id s
  | .lscDecFrameComplete id => Sys2Proof.Machine.execLscDecFrameComplete id s
  | .decWaitExpiry id => Sys2Proof.Machine.execDecWaitExpiry id s
  | .lscKeyreq q t => Sys2Proof.Machine.execLscKeyreq q t s
  | .lscRcreset q t => Sys2Proof.Machine.execLscRcreset q t s
  | .shadowWrite q a value => Sys2Proof.Machine.execShadowWrite q a value s
  | .eceEncodeStart t => Sys2Proof.Machine.execEceEncodeStart t s
  | .eceEncodeDone t => Sys2Proof.Machine.execEceEncodeDone t s
  | .eceDecodeStart t => Sys2Proof.Machine.execEceDecodeStart t s
  | .eceGroupReady t slot => Sys2Proof.Machine.execEceGroupReady t slot s
  | .eceDecodeDone t => Sys2Proof.Machine.execEceDecodeDone t s
  | .eceTsetLoadDone t => Sys2Proof.Machine.execEceTsetLoadDone t s
  | .movonOsfRx f => Sys2Proof.Machine.execMovonOsfRx f s
  | .headEvalStart id => Sys2Proof.Machine.execHeadEvalStart id s
  | .headEvalDone id => Sys2Proof.Machine.execHeadEvalDone id s
  | .adaptWindowOpen id => Sys2Proof.Machine.execAdaptWindowOpen id s
  | .adaptStepDone id => Sys2Proof.Machine.execAdaptStepDone id s
  | .adaptWindowEnd id => Sys2Proof.Machine.execAdaptWindowEnd id s
  | .adaptValidationDone id => Sys2Proof.Machine.execAdaptValidationDone id s
  | .paddockFrameRx good b => Sys2Proof.Machine.execPaddockFrameRx good b s
  | .modbusPairExpiry tuple tid => Sys2Proof.Machine.execModbusPairExpiry tuple tid s
  | .labelEnable q => Sys2Proof.Machine.execLabelEnable q s
  | .labelReload q => Sys2Proof.Machine.execLabelReload q s
  | .paddockLockChange lock => Sys2Proof.Machine.execPaddockLockChange lock s
  | .sceInputTaken id => Sys2Proof.Machine.execSceInputTaken id s
  | .scePictureStart t h => Sys2Proof.Machine.execScePictureStart t h s
  | .scePictureDone t r => Sys2Proof.Machine.execScePictureDone t r s
  | .sceKeyreq q t => Sys2Proof.Machine.execSceKeyreq q t s
  | .sceRcreset q t => Sys2Proof.Machine.execSceRcreset q t s
  | .ethFrameRx f => Sys2Proof.Machine.execEthFrameRx f s
  | .portLinkDown p => Sys2Proof.Machine.execPortLinkDown p s
  | .ptpSyncLoss => Sys2Proof.Machine.execPtpSyncLoss s
  | .ingestAuwaitExpiry id => Sys2Proof.Machine.execIngestAuwaitExpiry id s
  | .rtcpRrTimer id => Sys2Proof.Machine.execRtcpRrTimer id s
  | .linkTransmitItem t => Sys2Proof.Machine.execLinkTransmitItem t s
  | .pubEnable q => Sys2Proof.Machine.execPubEnable q s
  | .pubReload q => Sys2Proof.Machine.execPubReload q s
  | .movonEnable q => Sys2Proof.Machine.execMovonEnable q s
  | .movonReload q => Sys2Proof.Machine.execMovonReload q s
  | .movonReqRx f => Sys2Proof.Machine.execMovonReqRx f s
  | .movonCplRx f => Sys2Proof.Machine.execMovonCplRx f s
  | .movonWriteRx f => Sys2Proof.Machine.execMovonWriteRx f s
  | .movonRespRx f => Sys2Proof.Machine.execMovonRespRx f s
  | .movonLateRx f => Sys2Proof.Machine.execMovonLateRx f s
  | .movonDirRx f => Sys2Proof.Machine.execMovonDirRx f s
  | .movonProbeRx f => Sys2Proof.Machine.execMovonProbeRx f s
  | .movonLinkackRx f => Sys2Proof.Machine.execMovonLinkackRx f s
  | .linkRetransmitTimeout e p lseq => Sys2Proof.Machine.execLinkRetransmitTimeout e p lseq s
  | .linkRetryBudgetExpiry e p => Sys2Proof.Machine.execLinkRetryBudgetExpiry e p s
  | .pathProbeTimer e p => Sys2Proof.Machine.execPathProbeTimer e p s
  | .movonE2eExpiry e msg => Sys2Proof.Machine.execMovonE2eExpiry e msg s
  | .masterLossTimeout => Sys2Proof.Machine.execMasterLossTimeout s
  | .pcieHostAccess x => Sys2Proof.Machine.execPcieHostAccess x s
  | .pcieFlr k => Sys2Proof.Machine.execPcieFlr k s
  | .perstAssert => Sys2Proof.Machine.execPerstAssert s
  | .pcieLinkDown => Sys2Proof.Machine.execPcieLinkDown s
  | .hostReadCompletion t tag data poison => Sys2Proof.Machine.execHostReadCompletion t tag data poison s
  | .hostReadTimeout t tag => Sys2Proof.Machine.execHostReadTimeout t tag s
  | .hbmWrite q own a data ask pz => Sys2Proof.Machine.execHbmWrite q own a data ask pz s
  | .hbmRead q own a n e => Sys2Proof.Machine.execHbmRead q own a n e s
  | .hbmScrubPass p => Sys2Proof.Machine.execHbmScrubPass p s
  | .wcLineRead t a => Sys2Proof.Machine.execWcLineRead t a s
  | .wcFillDone a eccOk => Sys2Proof.Machine.execWcFillDone a eccOk s
  | .wcInvall q t => Sys2Proof.Machine.execWcInvall q t s
  | .yardFlitCrcFail t port => Sys2Proof.Machine.execYardFlitCrcFail t port s
  | .yardReplayBudgetExpiry t port => Sys2Proof.Machine.execYardReplayBudgetExpiry t port s
  | .yardPacketAbsorb t src => Sys2Proof.Machine.execYardPacketAbsorb t src s
  | .yardLocalPacketWake t => Sys2Proof.Machine.execYardLocalPacketWake t s
  | .yardQuiesceReq q => Sys2Proof.Machine.execYardQuiesceReq q s
  | .quiesceDrained => Sys2Proof.Machine.execQuiesceDrained s
  | .quiesceDone bad => Sys2Proof.Machine.execQuiesceDone bad s
  | .quiesceTimeout => Sys2Proof.Machine.execQuiesceTimeout s
  | .sleepIdleExpiry t => Sys2Proof.Machine.execSleepIdleExpiry t s
  | .sleepEntryDone t => Sys2Proof.Machine.execSleepEntryDone t s
  | .wakeNAssert => Sys2Proof.Machine.execWakeNAssert s
  | .wakeTimerFire t core => Sys2Proof.Machine.execWakeTimerFire t core s
  | .wakeDone t => Sys2Proof.Machine.execWakeDone t s
  | .waketimeWrite q t value => Sys2Proof.Machine.execWaketimeWrite q t value s
  | .snapInEdge => Sys2Proof.Machine.execSnapInEdge s
  | .snapSwTrigger q => Sys2Proof.Machine.execSnapSwTrigger q s
  | .snapLatch late => Sys2Proof.Machine.execSnapLatch late s
  | .snapOutEnd => Sys2Proof.Machine.execSnapOutEnd s
  | .snapArm q t view => Sys2Proof.Machine.execSnapArm q t view s
  | .digestCfgWrite q t value => Sys2Proof.Machine.execDigestCfgWrite q t value s
  | .haspChallenge q => Sys2Proof.Machine.execHaspChallenge q s
  | .haspSubmit q => Sys2Proof.Machine.execHaspSubmit q s
  | .haspPwSubmit q => Sys2Proof.Machine.execHaspPwSubmit q s
  | .haspPwSet q => Sys2Proof.Machine.execHaspPwSet q s
  | .haspClose q => Sys2Proof.Machine.execHaspClose q s
  | .haspOpenExpiry => Sys2Proof.Machine.execHaspOpenExpiry s
  | .haspNonceExpiry => Sys2Proof.Machine.execHaspNonceExpiry s
  | .haspLockoutEnd => Sys2Proof.Machine.execHaspLockoutEnd s
  | .haspIreset q arg => Sys2Proof.Machine.execHaspIreset q arg s
  | .haspDlremove q arg => Sys2Proof.Machine.execHaspDlremove q arg s
  | .debugViewWrite q t value => Sys2Proof.Machine.execDebugViewWrite q t value s
  | .dbgWindowRead q t => Sys2Proof.Machine.execDbgWindowRead q t s
  | .rcRead q a => Sys2Proof.Machine.execRcRead q a s
  | .loReadLatch q a => Sys2Proof.Machine.execLoReadLatch q a s
  | .regWrite q a be value => Sys2Proof.Machine.execRegWrite q a be value s
  | .portLinkUp p => Sys2Proof.Machine.execPortLinkUp p s
  | .pcieLinkUp gen width numvf => Sys2Proof.Machine.execPcieLinkUp gen width numvf s
  | .ptpMessageInterval => Sys2Proof.Machine.execPtpMessageInterval s
  | .fxgItemComplete t k slot status digest => Sys2Proof.Machine.execFxgItemComplete t k slot status digest s

end Sys2Proof.Machine
end

