-- ==== Sys2Proof/Machine/Step.lean ====
section
/-! DEFINITION. One step: the command at the front of the queue is carried out with the rest of the queue standing; with no
command waiting, one tick of time passes. -/
namespace Sys2Proof.Machine

/-- The state with its queue replaced. -/
def State.withPending (s : State) (l : List Instr) : State := { s with pending := l }

/-- One step. (DEDUCED, log entry 3; DESIGN CHOICE, log entry 4) -/
def step (s : State) : Host.Outcome State Fault Refusal :=
  match s.pending with
  | [] => .next (s.then tick)
  | c :: l => exec c (s.withPending l)

/-- The state with the command that a word spells put at the front of its queue; the state itself where it spells none.
(DEDUCED, log entry 27) -/
def State.withFetchWord (s : State) (nbits w : Nat) : State :=
  match decodeTableWord nbits w with
  | some c => s.withPending (c :: s.pending)
  | none => s

end Sys2Proof.Machine
end

