-- ==== Sys2Proof/Safety.lean ====
section
/-! DEFINITION. What a safe run is, in the terms that statements use: every step answers a next state (no fault, no refusal), and
every state it meets keeps the invariants of the package. -/
namespace Sys2Proof.Machine

/-- Every register word holds zero in its reserved bits (R18). -/
def State.regsClean (s : State) : Prop := ∀ r t ix, s.reg r t ix &&& ~~~implMask r = 0

/-- Every map of the state is in its canonical form: keys strictly rising, and no entry equal to what an unlisted key reads as. -/
def State.wf (s : State) : Bool :=
  mapWf RegKey.code (fun k => resetWord k.reg) s.regs && mapWf RegKey.code (fun _ => none) s.force &&
  mapWf RegKey.code (fun _ => none) s.latch && mapWf RegKey.code (fun _ => 0) s.resid && mapWf RegKey.code (fun _ => none) s.snap &&
  Memory.wf s.mem && mapWf id (fun _ => false) s.poison && mapWf id (fun _ => baleDefault) s.bale &&
  mapWf id (fun _ => {}) s.streams && mapWf id (fun _ => {}) s.insts && mapWf id (fun _ => {}) s.tiles

/-- A run of some steps meets no fault and no refusal. -/
def safeFor : Nat → State → Prop
  | 0, _ => True
  | n + 1, s => ∃ t, step s = .next t ∧ safeFor n t

end Sys2Proof.Machine
end

