-- ==== Sys2Proof/Certificates/Slice0/Obligations.lean ====
section
/-! DEFINITION. What is to be proved of the model: the obligations, each a proposition that says one thing the specification says
(or, where it says so, one thing the model chooses). -/
open Sys2Proof Sys2Proof.Machine

namespace Sys2Proof.Say

/-- The command answers a next state, of which `P` holds. -/
def gives (c : Instr) (s : State) (P : State → Prop) : Prop := ∃ t, exec c s = .next t ∧ P t

/-- Every register keeps its word in every tile and at every index, but for those named and for `SNP_CNT`, which counts the
snapshot triggers that any command can raise (R502). -/
def sameRegs (l : List Reg) (s t : State) : Prop := ∀ r, r ∉ Reg.SNP_CNT :: l → ∀ k ix, t.reg r k ix = s.reg r k ix

/-- Every byte of memory reads as before. -/
def sameMem (s t : State) : Prop := ∀ a, t.byte a = s.byte a

/-- Every byte of memory outside `n` bytes at `lo` reads as before. -/
def sameMemBut (lo n : Nat) (s t : State) : Prop := ∀ a, ¬ (lo ≤ a ∧ a < lo + n) → t.byte a = s.byte a

/-- The streams, the instances and the tiles keep their contexts. -/
def sameContexts (s t : State) : Prop := (∀ id, t.stream id = s.stream id) ∧ (∀ n, t.inst n = s.inst n) ∧ ∀ k, t.tile k = s.tile k

end Sys2Proof.Say

open Sys2Proof.Say

namespace Sys2Proof.Say

/-- The registers of which a package reset keeps a field, reloads one from the straps or the fuses, or keeps all (R439, R446, R480,
R491, R508, R513). -/
def resetKeeps : List Reg :=
  [.SNP_CNT, .MGT_RPT, .MGT_RPTPTR, .MGT_PWRSTAT, .MGT_THERM, .HSP_STAT, .MGT_TILEROLE, .MEM_HBMSTAT, .MGT_PARTID, .MGT_PARTCAP,
   .MGT_FUSESEC, .MGT_DEVID_LO, .MGT_DEVID_HI]

/-- The package has been reset: its contexts are empty, its registers hold their reset words, package time is 0, and the start goes
on at S1 (at S0 where S0 had not ended). -/
def packageIsReset (s t : State) : Prop :=
  (∀ id, t.stream id = {}) ∧ (∀ n, t.inst n = {}) ∧ (∀ k, t.tile k = {}) ∧
  (∀ r, r ∉ resetKeeps → ∀ k ix, t.reg r k ix = resetWord r) ∧ t.now = 0 ∧
  t.pkg.aonSt.next = (if s.pkg.aonSt.s0 then 1 else 0) ∧ t.pkg.perm = s.pkg.perm

end Sys2Proof.Say

/-- R474, R475 and R439: what the supplies and the reset pin do. -/
def Obligations.SuppliesAndResetPinsAct : Prop :=
  (∀ s m, s.pkg.aonSt.pgAon = false → gives (.powerGoodAon m) s fun t =>
    t.pkg.aonSt.pgAon = true ∧ t.pkg.aonSt.masterSel = m ∧ t.pkg.aonSt.next = 0 ∧ t.aon = 0 ∧
    sameRegs [.MGT_TILEROLE, .MEM_HBMSTAT] s t ∧ sameMem s t ∧ sameContexts s t) ∧
  (∀ s, s.pkg.aonSt.pgAon = true → s.pkg.aonSt.pg = false → gives .pwrGoodAssert s fun t =>
    t.pkg.aonSt.pg = true ∧ t.pkg.aonSt.next = s.pkg.aonSt.next ∧ sameRegs [] s t ∧ sameMem s t ∧ sameContexts s t) ∧
  (∀ s, s.pkg.aonSt.pg = true → gives .pwrGoodDeassert s fun t => t.pkg.aonSt.pg = false ∧ packageIsReset s t) ∧
  (∀ s rail, s.pkg.aonSt.pg = true → rail < 8 → gives (.railUndervoltage rail) s fun t =>
    t.get F.MGT_PWRSTAT_UV pkgTile 0 = 1 ∧ t.get F.MGT_PWRSTAT_UVRAIL pkgTile 0 = rail ∧ packageIsReset s t) ∧
  (∀ s, s.pkg.aonSt.pgAon = true → gives .pkgRstPin s fun t => t.pkg.aonSt.pg = s.pkg.aonSt.pg ∧ packageIsReset s t) ∧
  (∀ s, gives .aonPowerLoss s fun t => t.pkg.aonSt = {} ∧ t.pkg.perm = s.pkg.perm ∧
    (∀ r, r ≠ .SNP_CNT → ∀ k ix, t.reg r k ix = resetWord r) ∧ ∀ a, a < hostEnd → t.byte a = memDefault)

/-- R439: the requested package reset. -/
def Obligations.RequestedPackageResetDrains : Prop :=
  (∀ s q x, s.lands q s.bootTile .PRT_PKGRST 0 true = some x → gives (.pkgResetRequest q 0xA5C3) s fun t =>
    t.pkg.held = true ∧ t.pkg.drain = true ∧ sameRegs [] s t ∧ sameMem s t ∧ sameContexts s t) ∧
  (∀ s q x key, s.lands q s.bootTile .PRT_PKGRST 0 true = some x → key ≠ 0xA5C3 → gives (.pkgResetRequest q key) s fun t =>
    t.pkg.held = s.pkg.held ∧ t.pkg.drain = s.pkg.drain ∧ sameRegs [] s t ∧ sameMem s t ∧ sameContexts s t) ∧
  (∀ s n, s.pkg.drain = true → gives (.pkgResetDrainEnd n) s fun t => t.pkg.aonSt.inflight = n ∧ packageIsReset s t)

/-- R442, R445, R448 and R450: the stages S0 and S1. -/
def Obligations.StartReadsFusesAndChoosesImage : Prop :=
  (∀ s f, s.atStage 0 = true → gives (.bootS0 f true) s fun t => t.get F.MGT_BOOTSTAT_STAGE pkgTile 0 = 0 ∧
    t.pkg.aonSt.next = 1 ∧ t.pkg.perm.fuses = some (s.pkg.perm.fuses.getD f) ∧ sameMem s t ∧ sameContexts s t) ∧
  (∀ s f, s.atStage 0 = true → gives (.bootS0 f false) s fun t => t.get F.MGT_BOOTSTAT_STAGE pkgTile 0 = 0xF ∧
    t.pkg.aonSt.next = 10 ∧ t.pkg.perm = s.pkg.perm ∧ sameMem s t ∧ sameContexts s t) ∧
  (∀ s x c k i, s.atStage 1 = true → elected x = some c → chooseImg s.fuses x.images s.pkg.aonSt.exclude = some (k, i) →
    gives (.bootS1 x) s fun t => t.get F.MGT_BOOTSTAT_STAGE pkgTile 0 = 1 ∧ t.pkg.aonSt.next = 2 ∧
      t.get F.MGT_BOOTSTAT_IMAGE pkgTile 0 = k % 2 ∧ t.get F.MGT_TILEROLE_BOOTMASTER c 0 = 1 ∧ sameMem s t ∧ sameContexts s t) ∧
  (∀ s x, s.atStage 1 = true → elected x = none → gives (.bootS1 x) s fun t =>
    t.get F.MGT_BOOTSTAT_STAGE pkgTile 0 = 0xA ∧ t.pkg.aonSt.next = 10 ∧ sameRegs [.MGT_BOOTSTAT] s t ∧ sameMem s t) ∧
  (∀ s x c, s.atStage 1 = true → elected x = some c → s.pkg.aonSt.exclude = none → chooseImg s.fuses x.images none = none →
    gives (.bootS1 x) s fun t => t.get F.MGT_BOOTSTAT_STAGE pkgTile 0 = 0xB ∧ t.pkg.aonSt.next = 10 ∧ sameMem s t)

/-- R455 to R458 and R460: the stages S2 to S6. -/
def Obligations.StartTestsTilesMemoryAndLinks : Prop :=
  (∀ s x, s.atStage 2 = true → gives (.bootS2 x) s fun t =>
    t.get F.MGT_BOOTSTAT_STAGE pkgTile 0 = (if t.get F.MGT_PARTID_TILES_OK pkgTile 0 < s.pkgCfg.mintiles then 0xC else 2) ∧
    t.pkg.aonSt.next = (if t.get F.MGT_PARTID_TILES_OK pkgTile 0 < s.pkgCfg.mintiles then 10 else 3) ∧
    t.get F.MGT_PWRSTAT_CORE_MHZ pkgTile 0 = s.clockCap % 2 ^ 12) ∧
  (∀ s x, s.atStage 3 = true → gives (.bootS3 x) s fun t =>
    let ok := t.inService s.bootTile = true ∧ s.pkgCfg.mintiles ≤ t.get F.MGT_PARTID_TILES_OK pkgTile 0
    (ok → t.get F.MGT_BOOTSTAT_STAGE pkgTile 0 = 3 ∧ t.pkg.aonSt.next = 4) ∧
    (¬ ok → t.get F.MGT_BOOTSTAT_STAGE pkgTile 0 = 0xC ∧ t.pkg.aonSt.next = 10) ∧
    (t.inService pcieTile = true → sameMem s t ∧ sameContexts s t) ∧
    (t.inService pcieTile = false → t.get F.LNK_PCISTAT_DLUP pcieTile 0 = 0)) ∧
  (∀ s x, s.atStage 4 = true → gives (.bootS4 x) s fun t => t.get F.MGT_BOOTSTAT_STAGE pkgTile 0 = 4 ∧ t.pkg.aonSt.next = 5 ∧
    (∀ p, p < 16 → t.get F.MEM_HBMSTAT_UP (tileOfPort p) 0 = b2n (bitOf (t.get F.MGT_HBMCFG_INSVC pkgTile 0) p)) ∧
    sameMem s t ∧ sameContexts s t) ∧
  (∀ s x, s.atStage 5 = true → gives (.bootS5 x) s fun t =>
    let u := t.get F.MGT_HBMCFG_UNITS pkgTile 0
    u = 18 * t.ports.length ∧
    t.get F.MGT_BOOTSTAT_STAGE pkgTile 0 = (if u < 18 * s.pkgCfg.minports then 0xD else 5) ∧
    t.pkg.aonSt.next = (if u < 18 * s.pkgCfg.minports then 10 else 6) ∧
    (∀ a, a < hbmEnd → t.byte a = 0 ∧ t.baleClass a = 0) ∧ (∀ a, hbmEnd ≤ a → t.byte a = s.byte a) ∧ sameContexts s t) ∧
  (∀ s x, s.atStage 6 = true → gives (.bootS6 x) s fun t => t.get F.MGT_BOOTSTAT_STAGE pkgTile 0 = 6 ∧ t.pkg.aonSt.next = 7 ∧
    sameMem s t ∧ sameContexts s t)

/-- R454, R461 and R462: the stages S7 and S8. -/
def Obligations.StartLoadsFirmwareAndReachesRun : Prop :=
  (∀ s x, s.atStage 7 = true → x.imageOk = true → gives (.bootS7 x) s fun t =>
    t.get F.MGT_BOOTSTAT_STAGE pkgTile 0 = 7 ∧ t.pkg.aonSt.next = 8 ∧
    t.get F.MGT_PARTID_TILES_OK pkgTile 0 = s.get F.MGT_PARTID_TILES_OK pkgTile 0 ∧
    (∀ k, t.inService k = true → t.get F.FXG_CTL_EN k 0 = 1 ∧ t.get F.FXG_CTL_STATE k 0 = fnOn) ∧
    (t.inService pcieTile = true → sameMem s t ∧ sameContexts s t)) ∧
  (∀ s x, s.atStage 7 = true → s.pkg.aonSt.s0 = true → x.imageOk = false → s.pkg.aonSt.exclude = none → gives (.bootS7 x) s fun t =>
    t.pkg.aonSt.next = 1 ∧ t.pkg.aonSt.exclude = some (s.get F.MGT_BOOTSTAT_IMAGE pkgTile 0)) ∧
  (∀ s x k, s.atStage 7 = true → x.imageOk = false → s.pkg.aonSt.exclude = some k → gives (.bootS7 x) s fun t =>
    t.get F.MGT_BOOTSTAT_STAGE pkgTile 0 = 0xE ∧ t.pkg.aonSt.next = 10 ∧ sameMem s t ∧ sameContexts s t) ∧
  (∀ s i, s.atStage 8 = true → s.img = some i → gives .bootS8 s fun t =>
    t.get F.MGT_BOOTSTAT_STAGE pkgTile 0 = 9 ∧ t.pkg.aonSt.next = 9 ∧ t.pkg.aonSt.exclude = none)

/-- R476 and R477: the decision of the limiter. The cap is unchanged since the last decision and the limiter stands within it. -/
def Obligations.LimiterLowersClockAboveItsLimit : Prop :=
  (∀ s x, s.get F.MGT_PWRSTAT_CORE_MHZ pkgTile 0 ≠ 0 → s.get F.MGT_PWRSTAT_TRIP pkgTile 0 = 0 → gives (.limiterDecision x) s fun t =>
      t.get F.MGT_PWRNOW_AVG_W pkgTile 0 = x.mw / 1000 % 2 ^ 16 ∧ sameMem s t ∧ sameContexts s t) ∧
  ∀ s x, s.get F.MGT_PWRSTAT_CORE_MHZ pkgTile 0 ≠ 0 → s.get F.MGT_PWRSTAT_TRIP pkgTile 0 = 0 →
    s.pkg.pwr.cap = s.clockCap → s.pkg.pwr.lim ≤ s.clockCap → gives (.limiterDecision x) s fun t =>
      (980 * s.get F.MGT_PARTCAP_PKG_W_MAX pkgTile 0 < x.mw → 600 < s.pkg.pwr.lim → t.pkg.pwr.lim = s.pkg.pwr.lim - 100) ∧
      (980 * s.get F.MGT_PARTCAP_PKG_W_MAX pkgTile 0 < x.mw → s.pkg.pwr.lim ≤ 600 → t.pkg.pwr.lim = s.pkg.pwr.lim ∧
        (99 ≤ s.pkg.pwr.floor → t.get F.MGT_PWRSTAT_FLOOR pkgTile 0 = 1)) ∧
      (x.mw ≤ 980 * s.get F.MGT_PARTCAP_PKG_W_MAX pkgTile 0 → s.pkg.pwr.low < 99 → t.pkg.pwr.lim = s.pkg.pwr.lim) ∧
      (min t.pkg.pwr.lim t.pkg.pwr.thr < 2 ^ 12 →
        t.get F.MGT_PWRSTAT_CORE_MHZ pkgTile 0 ≤ min t.pkg.pwr.lim t.pkg.pwr.thr) ∧
      sameMem s t ∧ sameContexts s t

/-- R478, R480 and R482. -/
def Obligations.ClockStepTripAndHotMinute : Prop :=
  (∀ s k, k < 64 → s.get F.MGT_CLKSTAT_CHANGING k 0 = 1 → gives .clockStepDone s fun t =>
    t.get F.MGT_PWRSTAT_CORE_MHZ pkgTile 0 = min s.pkg.pwr.lim s.pkg.pwr.thr % 2 ^ 12 ∧
    (∀ j, j < 64 → t.get F.MGT_CLKSTAT_CHANGING j 0 = 0) ∧
    sameRegs [.MGT_PWRSTAT, .MGT_CLKSTAT] s t ∧ sameMem s t ∧ sameContexts s t) ∧
  (∀ s, s.pkg.aonSt.pgAon = true → s.get F.MGT_PWRSTAT_TRIP pkgTile 0 = 0 → gives .thermalTrip s fun t =>
    t.get F.MGT_PWRSTAT_TRIP pkgTile 0 = 1 ∧ (∀ j, j < 64 → t.get F.MGT_CLKSTAT_CORE_MHZ j 0 = 0) ∧
    t.get F.MGT_RPTPTR_NEXT pkgTile 0 = (s.get F.MGT_RPTPTR_NEXT pkgTile 0 + 1) % 64 ∧
    sameRegs [.MGT_PWRSTAT, .MGT_CLKSTAT, .MGT_RPT, .MGT_RPTPTR] s t ∧ sameMem s t ∧ sameContexts s t) ∧
  (∀ s, 95 < toSigned 8 (s.get F.MGT_THERM_TJMAX pkgTile 0) → gives .hotminTick s fun t =>
    t.get F.MGT_THERM_HOTMIN pkgTile 0 = min 0xFFFF (s.get F.MGT_THERM_HOTMIN pkgTile 0 + 1) ∧
    t.get F.MGT_THERM_TJMAX pkgTile 0 = s.get F.MGT_THERM_TJMAX pkgTile 0 ∧
    sameRegs [.MGT_THERM] s t ∧ sameMem s t ∧ sameContexts s t)

/-- R422, R424, R429 and R435: the commands of `PRT_ICMD`. -/
def Obligations.InstanceCommandsStartTheirSequences : Prop :=
  (∀ s q kt n, s.lands q s.bootTile .PRT_ICMD 0 true = some (kt, n) → s.instState n = instFree → (s.inst n).creating = false →
    s.tileSet n ≠ [] → (∀ k ∈ s.tileSet n, s.inService k = true ∧ s.owner k = none) → gives (.instanceCreate q) s fun t =>
      (t.inst n).creating = true ∧ t.epoch n = (s.epoch n + 1) % 256 ∧ t.instState n = instFree ∧
      ∀ k ∈ s.tileSet n, t.owner k = some (n % 64) ∧ t.get F.PRT_TOWN_EPOCH k 0 = t.epoch n ∧ t.get F.PRT_TRST_BUSY k 0 = 1) ∧
  (∀ s q kt n, s.lands q s.bootTile .PRT_ICMD 0 true = some (kt, n) → s.instState n = instActive → gives (.instanceReset q) s fun t =>
      t.instState n = instResetting ∧ t.epoch n = (s.epoch n + 1) % 256 ∧ t.get F.PRT_ILAST_CAUSE pkgTile n = rstCommand ∧
      (t.inst n).reqs = [] ∧ (t.inst n).progs = [] ∧ (t.inst n).ctl = {}) ∧
  (∀ s q kt n, s.lands q s.bootTile .PRT_ICMD 0 true = some (kt, n) → s.instState n = instResetting → gives (.instanceReset q) s fun t =>
      t.instState n = instResetting ∧ t.epoch n = s.epoch n ∧
      t.get F.PRT_IRSTCNT_MERGED pkgTile n = min 0xFFFF (s.get F.PRT_IRSTCNT_MERGED pkgTile n + 1) ∧
      sameRegs [.PRT_ICMD, .PRT_IRSTCNT] s t ∧ sameMem s t ∧ sameContexts s t) ∧
  (∀ s q kt n w, s.lands q s.bootTile .PRT_ICMD 0 true = some (kt, n) → s.instState n = instActive → gives (.instanceDestroy q w) s fun t =>
      t.instState n = instDestroying ∧ t.epoch n = (s.epoch n + 1) % 256 ∧ t.get F.PRT_ILAST_CAUSE pkgTile n = rstDestroy ∧
      (t.inst n).zero = w ∧ (t.inst n).destroying = true) ∧
  (∀ s q kt n w, s.lands q s.bootTile .PRT_ICMD 0 true = some (kt, n) → s.instState n = instResetting → gives (.instanceDestroy q w) s fun t =>
      t.instState n = instResetting ∧ t.get F.PRT_ISTAT_PENDDES pkgTile n = 1 ∧ (t.inst n).zero = w ∧
      sameRegs [.PRT_ICMD, .PRT_ISTAT] s t ∧ sameMem s t)

/-- R424, R433 and R434. -/
def Obligations.InstanceResetsDrainEscalateAndEnd : Prop :=
  (∀ s n, s.instState n = instResetting ∨ s.instState n = instDestroying → (s.inst n).creating = false →
    s.get F.PRT_IFLIGHT_COUNT pkgTile n = 0 → gives (.resetInflightZero n) s fun t =>
      (t.inst n).creating = true ∧ t.instState n = s.instState n ∧ ∀ k ∈ s.tileSet n, t.get F.PRT_TRST_BUSY k 0 = 1) ∧
  (∀ s n, s.instState n = instResetting ∨ s.instState n = instDestroying → s.get F.PRT_IFLIGHT_COUNT pkgTile n ≠ 0 →
    gives (.resetEscalationTimeout n) s fun t =>
      t.get F.PRT_ISTAT_ESC pkgTile n = 1 ∧ t.instState n = s.instState n ∧ t.get F.PRT_ESC_EVT pkgTile 0 = 1 ∧
      t.get F.PRT_ESC_SRC pkgTile 0 = 1 ∧ t.get F.PRT_ESC_INST pkgTile 0 = n % 64 ∧
      t.pkg.aonSt.escs = s.pkg.aonSt.escs ++ [(1, 0, n)] ∧
      t.out = s.out ++ [.msix fnPm (s.get F.PRT_ESCCFG_VECTOR pkgTile 0)] ∧
      sameRegs [.PRT_ISTAT, .PRT_ESC] s t ∧ sameMem s t ∧ sameContexts s t) ∧
  (∀ s n, (s.inst n).creating = true → (s.inst n).destroying = false → (∀ k ∈ s.tileSet n, s.isOn .fxg k = true) →
    s.get F.PRT_ISTAT_PENDDES pkgTile n = 0 → gives (.instanceFwReady n) s fun t =>
      t.instState n = instActive ∧ (t.inst n).creating = false ∧ t.epoch n = s.epoch n ∧
      sameRegs [.PRT_ISTAT, .PRT_ILAST] s t ∧ sameMem s t) ∧
  (∀ s n, (s.inst n).creating = true → (s.inst n).destroying = false → (∀ k ∈ s.tileSet n, s.isOn .fxg k = true) →
    s.get F.PRT_ISTAT_PENDDES pkgTile n = 1 → gives (.instanceFwReady n) s fun t =>
      t.instState n = instDestroying ∧ (t.inst n).destroying = true ∧ t.get F.PRT_ISTAT_PENDDES pkgTile n = 0)

namespace Sys2Proof.Say

/-- Entry `j` of an owner word: its `VALID` bit and its instance (R426). -/
def ownEntry (w j : Nat) : Nat × Nat := (bitsOf w (8 * j + 7) (8 * j + 7), bitsOf w (8 * j + 5) (8 * j))

end Sys2Proof.Say

/-- R426, R436 and R533. -/
def Obligations.OwnersAndTileResets : Prop :=
  (∀ s q k value kt x, s.lands q s.bootTile .PRT_MOWN k true = some (kt, x) → gives (.mownWrite q k value) s fun t =>
    (∀ j, j < 4 → let old := ownEntry (s.reg .PRT_MOWN pkgTile x).toNat j
      let i := (ownEntry value j).2
      (old.1 = 0 → s.instState i = instActive ∨ s.instState i = instFree →
        ownEntry (t.reg .PRT_MOWN pkgTile x).toNat j = ownEntry value j) ∧
      (old.1 = 1 → ownEntry (t.reg .PRT_MOWN pkgTile x).toNat j = old ∧
        (ownEntry value j ≠ old → t.get F.PRT_ERRSTAT_ERR pkgTile 0 = 1 ∧ t.get F.PRT_ERRSTAT_CODE pkgTile 0 = prtMown))) ∧
    sameMem s t ∧ sameContexts s t) ∧
  (∀ s q k kt x, s.lands q k .PRT_TRST 0 true = some (kt, x) → s.owner kt = none → s.get F.PRT_TRST_BUSY kt 0 = 0 →
    gives (.tileReset q k) s fun t => t.get F.PRT_TRST_BUSY kt 0 = 1 ∧ t.get F.PRT_TRST_GO kt 0 = 1 ∧
      ∀ r ix, tileReg kt ⟨r, kt, ix⟩ = true → t.reg r kt ix = resetWord r) ∧
  (∀ s k, s.get F.PRT_TRST_BUSY k 0 = 1 → s.slp k = slpRun → (∀ n, s.owner k = some n → (s.inst n).destroying = false) →
    gives (.tileResetDone k) s fun t => t.get F.PRT_TRST_BUSY k 0 = 0 ∧ t.get F.PRT_TRST_GO k 0 = 0 ∧
      (∀ a, wsBase + k * wsSize ≤ a → a < wsBase + k * wsSize + wsSize → t.byte a = 0) ∧
      (s.owner k ≠ none → t.get F.FXG_CTL_EN k 0 = 1 ∧ t.get F.FXG_CTL_STATE k 0 = fnOn) ∧
      sameRegs [.PRT_TRST, .FXG_CTL] s t ∧ sameContexts s t) ∧
  (∀ s k n, s.get F.PRT_TRST_BUSY k 0 = 1 → s.slp k = slpRun → s.owner k = some n → (s.inst n).destroying = true →
    (∀ j ∈ s.tileSet n, j ≠ k → s.get F.PRT_TRST_BUSY j 0 = 0) → gives (.tileResetDone k) s fun t =>
      t.instState n = instFree ∧ t.inst n = {} ∧ ∀ j ∈ s.tileSet n, t.owner j = none)

/-- R427, R428 and R437. -/
def Obligations.EngineStatesFollowEnable : Prop :=
  (∀ s q k b kt x, s.lands q k (ctlReg b) 0 true = some (kt, x) → s.engineResets b kt = false →
    s.get (ctlState b) kt 0 = fnOff → s.canEnable b kt = true → gives (.funcEnWrite q k b true) s fun t =>
      t.get (ctlEn b) kt 0 = 1 ∧ t.get (ctlState b) kt 0 = fnEnabling ∧ sameRegs [ctlReg b] s t ∧ sameMem s t ∧ sameContexts s t) ∧
  (∀ s q k b kt x, s.lands q k (ctlReg b) 0 true = some (kt, x) → s.engineResets b kt = false →
    s.get (ctlState b) kt 0 = fnOn → gives (.funcEnWrite q k b false) s fun t =>
      t.get (ctlEn b) kt 0 = 0 ∧ t.get (ctlState b) kt 0 = fnDisabling ∧ sameRegs [ctlReg b] s t ∧ sameMem s t ∧ sameContexts s t) ∧
  (∀ s q k b kt x, s.lands q k (ctlReg b) 0 true = some (kt, x) → s.engineResets b kt = false →
    s.get (ctlState b) kt 0 = fnDisabling → s.canEnable b kt = true → gives (.funcEnWrite q k b true) s fun t =>
      t.get (ctlPend b) kt 0 = 1 ∧ t.get (ctlState b) kt 0 = fnDisabling ∧ sameRegs [ctlReg b] s t ∧ sameMem s t ∧ sameContexts s t) ∧
  (∀ s q k b kt x, s.lands q k (ctlReg b) 0 true = some (kt, x) → s.engineResets b kt = false →
    s.get (ctlState b) kt 0 = fnEnabling → gives (.funcEnWrite q k b false) s fun t =>
      t.get (ctlPend b) kt 0 = 1 ∧ t.get (ctlState b) kt 0 = fnEnabling ∧ sameRegs [ctlReg b] s t ∧ sameMem s t ∧ sameContexts s t) ∧
  (∀ s q k b kt x, s.lands q k (ctlReg b) 0 true = some (kt, x) → s.canEnable b kt = false →
    gives (.funcEnWrite q k b true) s fun t => sameRegs [] s t ∧ sameMem s t ∧ sameContexts s t) ∧
  (∀ s q k b kt x on, s.lands q k (ctlReg b) 0 true = some (kt, x) → s.engineResets b kt = true → s.canEnable b kt = true →
    gives (.funcEnWrite q k b on) s fun t => t.get (ctlEn b) kt 0 = b2n on ∧ t.get (ctlState b) kt 0 = s.get (ctlState b) kt 0 ∧
      sameRegs [ctlReg b] s t ∧ sameMem s t ∧ sameContexts s t) ∧
  (∀ s k b, s.tileRuns k = true → s.get (ctlState b) k 0 = fnEnabling → gives (.funcTransitionEnd k b) s fun t =>
      t.get (ctlState b) k 0 = (if s.get (ctlPend b) k 0 = 1 then fnDisabling else fnOn) ∧ t.get (ctlPend b) k 0 = 0 ∧
      (b ≠ .smv → sameRegs [ctlReg b] s t ∧ sameMem s t ∧ sameContexts s t)) ∧
  (∀ s k b, s.tileRuns k = true → s.get (ctlState b) k 0 = fnDisabling → s.blockDrained b k = true →
    gives (.funcTransitionEnd k b) s fun t =>
      t.get (ctlState b) k 0 = (if s.get (ctlPend b) k 0 = 1 ∧ s.canEnable b k = true then fnEnabling else fnOff) ∧
      t.get (ctlPend b) k 0 = 0 ∧ (b ≠ .lnk → sameRegs [ctlReg b] s t ∧ sameMem s t ∧ sameContexts s t)) ∧
  (∀ s k b, s.get (ctlState b) k 0 = fnDisabling → gives (.funcDisableTimeout k b) s fun t =>
    t.get F.PRT_ESC_EVT pkgTile 0 = 1 ∧ t.get F.PRT_ESC_SRC pkgTile 0 = 2 ∧ t.get F.PRT_ESC_TILE pkgTile 0 = k % 64 ∧
    t.get F.PRT_ESC_INST pkgTile 0 = s.instOfTile k % 64 ∧ sameRegs [.PRT_ESC] s t ∧ sameMem s t ∧ sameContexts s t) ∧
  (∀ s q k kt x engines, s.lands q k .PRT_ERST 0 true = some (kt, x) → gives (.engineReset q k engines) s fun t =>
    t.get F.PRT_ERST_ENG kt 0 = s.get F.PRT_ERST_ENG kt 0 ||| engines % 2 ^ 7 ∧
    ∀ j, j < 7 → bitOf engines j = true → bitOf (s.get F.PRT_ERST_ENG kt 0) j = false →
      t.get (ctlState (erstEngine j)) kt 0 = fnOff) ∧
  (∀ s q k kt x engines, s.lands q k .PRT_ERST 0 true = some (kt, x) → engines < 2 ^ 7 → bitOf engines 4 = false →
    bitOf engines 5 = false → (s.tile kt).runs = [] → (s.tile kt).ece = [] → (s.tile kt).items = [] → (s.tile kt).sceBusy = none →
    gives (.engineReset q k engines) s fun t =>
      sameRegs [.PRT_ERST, .ARR_CTL, .SFU_CTL, .ECE_CTL, .SCE_CTL, .FXG_CTL] s t ∧ sameMem s t ∧ sameContexts s t) ∧
  (∀ s k b j, erstBit b = some j → bitOf (s.get F.PRT_ERST_ENG k 0) j = true → gives (.engineResetDone k b) s fun t =>
    t.get F.PRT_ERST_ENG k 0 = s.get F.PRT_ERST_ENG k 0 - 2 ^ j ∧
    t.get (ctlState b) k 0 = (if s.get (ctlEn b) k 0 = 1 ∧ s.canEnable b k = true then fnOn else fnOff) ∧
    sameRegs [.PRT_ERST, ctlReg b] s t ∧ sameMem s t ∧ sameContexts s t)

/-- R485 to R488 and R491. -/
def Obligations.TilesSleepAndWake : Prop :=
  (∀ s k, s.inService k = true → s.slp k = slpRun → s.get F.MGT_SLPCFG_IDLE_US k 0 ≠ 0 → s.tileIdle k = true → s.mayStop k = true →
    s.get F.PRT_TRST_BUSY k 0 = 0 → gives (.sleepIdleExpiry k) s fun t =>
      t.slp k = slpStopping ∧ sameRegs [.MGT_SLPSTAT] s t ∧ sameMem s t ∧ sameContexts s t) ∧
  (∀ s k, s.slp k = slpStopping → (s.tile k).wake = none → s.owner k ≠ none → gives (.sleepEntryDone k) s fun t =>
    t.slp k = slpStopped ∧ t.get F.MGT_CLKSTAT_CORE_MHZ k 0 = 0 ∧
    t.get F.MGT_WAKECNT_SLEEPS k 0 = min 0xFFFF (s.get F.MGT_WAKECNT_SLEEPS k 0 + 1) ∧
    sameRegs [.MGT_SLPSTAT, .MGT_CLKSTAT, .MGT_WAKECNT] s t ∧ sameMem s t ∧ sameContexts s t) ∧
  (∀ s k, s.slp k = slpGating → (s.tile k).wake = none → gives (.sleepEntryDone k) s fun t =>
    t.slp k = slpGated ∧ t.get F.MGT_CLKSTAT_CORE_MHZ k 0 = 0 ∧
    ∀ a, wsBase + k * wsSize ≤ a → a < wsBase + k * wsSize + wsSize → t.byte a = 0) ∧
  (∀ s k c, s.slp k = slpStopping → (s.tile k).wake = some c → gives (.sleepEntryDone k) s fun t =>
    t.slp k = slpWaking ∧ t.get F.MGT_SLPSTAT_LASTWAKE k 0 = c % 8 ∧ (t.tile k).wake = none ∧ sameMem s t) ∧
  (∀ s k, s.slp k = slpWaking → gives (.wakeDone k) s fun t =>
    t.slp k = slpRun ∧ t.get F.MGT_CLKSTAT_CORE_MHZ k 0 = s.get F.MGT_PWRSTAT_CORE_MHZ pkgTile 0 ∧
    t.get F.MGT_WAKECNT_WAKES k 0 = min 0xFFFF (s.get F.MGT_WAKECNT_WAKES k 0 + 1) ∧
    sameRegs [.MGT_SLPSTAT, .MGT_CLKSTAT, .MGT_WAKECNT] s t ∧ sameMem s t ∧ sameContexts s t) ∧
  (∀ s k, s.slp k = slpStopped ∨ s.slp k = slpGated → gives (.yardLocalPacketWake k) s fun t =>
    t.slp k = slpWaking ∧ t.get F.MGT_SLPSTAT_LASTWAKE k 0 = wakePacket ∧
    sameRegs [.MGT_SLPSTAT] s t ∧ sameMem s t ∧ sameContexts s t) ∧
  (∀ s, gives .wakeNAssert s fun t =>
    (∀ k, k < 64 → s.slp k = slpStopped → t.slp k = slpWaking ∧ t.get F.MGT_SLPSTAT_LASTWAKE k 0 = wakePin) ∧
    (∀ k, k < 64 → s.slp k = slpGated → t.slp k = slpGated) ∧ sameRegs [.MGT_SLPSTAT] s t ∧ sameMem s t) ∧
  (∀ s k, s.wakeTime k ≠ 2 ^ 64 - 1 → s.wakeTime k ≤ s.now → s.slp k = slpStopped → gives (.wakeTimerFire k false) s fun t =>
    t.slp k = slpWaking ∧ t.get F.MGT_SLPSTAT_LASTWAKE k 0 = wakeTimer ∧ t.wakeTime k = 2 ^ 64 - 1 ∧
    sameRegs [.MGT_SLPSTAT, .MGT_WAKETIME_LO, .MGT_WAKETIME_HI] s t ∧ sameMem s t ∧ sameContexts s t) ∧
  (∀ s q k kt x value, s.lands q k .MGT_WAKETIME_HI 0 true = some (kt, x) → gives (.waketimeWrite q k value) s fun t =>
    t.get F.MGT_WAKETIME_HI_TIME_HI kt 0 = value % 2 ^ 32 ∧ sameRegs [.MGT_WAKETIME_HI] s t ∧ sameMem s t ∧ sameContexts s t)

namespace Sys2Proof.Say

/-- The request passes steps 1 to 5 of R315 as a new one and suits its opcode. -/
def passes (s : State) (o : Origin) (opc : Nat) (h : ReqHdr) (p : List Byte) : Prop :=
  (s.stage = 9 ∨ o = .image) ∧ h.poison = false ∧ s.reqHeaderOk o h = true ∧ s.reqStatus opc h p = 0 ∧ opCtlOk opc (isCtl h) = true ∧
  ((s.window h.inst (isCtl h) h.stream).judge h.seq = .newer ∨ (s.window h.inst (isCtl h) h.stream).judge h.seq = .late)

/-- The request as it is kept until it completes. -/
def liveOf (o : Origin) (opc : Nat) (h : ReqHdr) : LiveReq :=
  ⟨o, opc, isCtl h, if isCtl h then 0 else h.stream, h.epoch, h.seq⟩

/-- The window of the request holds its completion record with a status (R316). -/
def recorded (t : State) (h : ReqHdr) (status : Nat) : Prop :=
  ∃ e ∈ (t.window h.inst (isCtl h) h.stream).entries, e.seq = h.seq ∧ ∃ c, e.done = some c ∧ c.status = status ∧ c.seq = h.seq

end Sys2Proof.Say

/-- R310, R311, R103 and R104: the requests of the control window, and `NOP`. -/
def Obligations.ControlRequestsExecute : Prop :=
  (∀ s o h p id, passes s o opOpen h p → s.openFormOk h.inst p = true → s.openTarget p = some id → s.openStatus h.inst p id = 0 →
    gives (.openStream o h p) s fun t => t.isOpen id = true ∧ (t.stream id).inst = h.inst ∧ (t.stream id).epoch = h.epoch ∧
      (t.stream id).stages = leAt p 2 1 ∧ recorded t h 0) ∧
  (∀ s o h p, passes s o opClose h p → leAt p 0 2 < 2 ^ 14 → leAt p 2 6 = 0 → s.isOpen (leAt p 0 2) = true →
    (s.stream (leAt p 0 2)).inst = h.inst → gives (.closeStream o h p) s fun t => t.slotState (leAt p 0 2) = slotClosing) ∧
  (∀ s o h p g, passes s o opLoadprog h p → s.loadRequest h.inst p = .ok g → gives (.loadprog o h p) s fun t =>
    (t.inst h.inst).progs = (s.inst h.inst).progs ++ [g] ∧ recorded t h 0) ∧
  (∀ s o h p g, passes s o opUnloadprog h p → (p.drop 2).all (· == 0) = true → s.progNamed h.inst (leAt p 0 2) = false →
    s.prog h.inst (leAt p 0 2) = some g → gives (.unloadprog o h p) s fun t =>
      (t.inst h.inst).progs = (s.inst h.inst).progs.filter (·.id != leAt p 0 2) ∧ recorded t h 0) ∧
  (∀ s o h p, passes s o opNop h p → gives (.nop o h p) s fun t => recorded t h 0)

namespace Sys2Proof.Say

/-- A request waits in flight for the item in slot `slot` of queue `q` of tile `k`. -/
def waitsFor (t : State) (id k q slot : Nat) (r : LiveReq) : Prop :=
  ∃ i ∈ (t.stream id).items, i.tile = k ∧ i.q = q ∧ i.slot = slot ∧ i.req = some r ∧ i.done = false

end Sys2Proof.Say

/-- R314, R323, R335, R185 and R192: the requests of streams. -/
def Obligations.StreamRequestsExecute : Prop :=
  (∀ s o h p l, passes s o opInput h p → s.takesInput h.stream = true → leAt p 12 4 = 0 → (s.stream h.stream).iblist ≠ 0 →
    s.blockList h.inst (s.stream h.stream).iblist = .ok l → leAt p 0 8 + leAt p 8 4 ≤ blocksLen l →
    ¬ (s.isLscDec h.stream = true ∧ bitOf (s.stream h.stream).stages stSce = false) → s.qFull (homeOf h.stream) inputQueue = false →
    gives (.input o h p) s fun t =>
      let k := homeOf h.stream
      let tail := s.get F.SMV_QTAIL_TAIL k inputQueue
      t.get F.SMV_QTAIL_TAIL k inputQueue = (tail + 1) % 2 ^ 32 ∧ waitsFor t h.stream k inputQueue tail (liveOf o opInput h)) ∧
  (∀ s o h p l, passes s o opInput h p → s.takesInput h.stream = true → leAt p 12 4 = 0 → (s.stream h.stream).iblist ≠ 0 →
    s.blockList h.inst (s.stream h.stream).iblist = .ok l → leAt p 0 8 + leAt p 8 4 ≤ blocksLen l →
    s.isLscDec h.stream = true → bitOf (s.stream h.stream).stages stSce = false → gives (.input o h p) s fun t => recorded t h 0) ∧
  (∀ s o h p k q, passes s o opSubmit h p → (parseItem 0 0 p).stream = h.stream → (parseItem 0 0 p).engine ≠ 1 →
    (parseItem 0 0 p).engine ≠ 4 → s.itemPlace h.inst h.stream (parseItem 0 0 p) = some (k, q) → s.qFull k q = false →
    gives (.submit o h p) s fun t =>
      let tail := s.get F.SMV_QTAIL_TAIL k q
      t.get F.SMV_QTAIL_TAIL k q = (tail + 1) % 2 ^ 32 ∧ t.bytes (s.qSlotAddr k q tail) 64 = p ∧
      waitsFor t h.stream k q tail (liveOf o opSubmit h)) ∧
  (∀ s o h p, passes s o opBarrier h p → gives (.barrierReq o h p) s fun t =>
    waitsFor t h.stream (homeOf h.stream) barrierQueue (s.stream h.stream).barriers (liveOf o opBarrier h) ∧ sameMem s t) ∧
  (∀ s o h p, passes s o opKeyreq h p → s.isSceEnc h.stream = true ∨ s.isLscEnc h.stream = true → gives (.keyreq o h p) s fun t =>
    recorded t h 0 ∧ (s.isSceEnc h.stream = true → t.sget F.SCE_SLIVE1_KEYPEND h.stream = 1) ∧
    (s.isLscEnc h.stream = true → t.sget F.ECE_LSCLIVE1_KEYPEND h.stream = 1)) ∧
  (∀ s o h p, passes s o opAdapt h p → s.adaptStatus h.inst h.stream p = 0 → gives (.adapt o h p) s fun t =>
    (t.stream h.stream).head.wins = (s.stream h.stream).head.wins ++ [{ desc := p, req := liveOf o opAdapt h }] ∧ sameMem s t) ∧
  (∀ s o h p, passes s o opRevert h p → s.revertStatus h.inst h.stream = 0 → gives (.revert o h p) s fun t =>
    (t.stream h.stream).head.weights = (s.stream h.stream).head.prevW ∧
    (t.stream h.stream).head.gen = (s.stream h.stream).head.gen + 1 ∧ recorded t h 0)

/-- R311: the end of a closing stream. -/
def Obligations.ClosedStreamLeavesNothing : Prop :=
  ∀ s id, s.slotState id = slotClosing → s.drained id = true → gives (.closeComplete id) s fun t =>
    t.slotState id = slotClosed ∧ t.stream id = {} ∧
    ∀ r, slotReg id ⟨r, homeOf id, slotOf id⟩ = true → t.reg r (homeOf id) (slotOf id) = resetWord r

namespace Sys2Proof.Say

/-- The commands of the request opcodes. -/
def requests : List (Nat × (Origin → ReqHdr → List Byte → Instr)) :=
  [(opOpen, .openStream), (opClose, .closeStream), (opLoadprog, .loadprog), (opUnloadprog, .unloadprog), (opNop, .nop),
   (opInput, .input), (opSubmit, .submit), (opBarrier, .barrierReq), (opKeyreq, .keyreq), (opAdapt, .adapt), (opRevert, .revert)]

end Sys2Proof.Say

/-- R315 to R317: requests that are not executed. -/
def Obligations.RefusedRequestsExecuteNothing : Prop :=
  ∀ s k r h p, ∀ e ∈ requests, s.stage = 9 → s.cqRoom k r = false →
    let o : Origin := .ring k r
    let w := s.window h.inst (isCtl h) h.stream
    let same (t : State) : Prop := (∀ id, t.stream id = s.stream id) ∧ (∀ n, t.inst n = s.inst n) ∧ sameMem s t
    let answered (c : Cpl) (t : State) : Prop := (t.tile k).cqWait = (s.tile k).cqWait ++ [⟨r, c⟩]
    let rec_ (st : Nat) : Cpl := ⟨s.now, 0, h.seq, recStream e.1 h p, st, 0, h.inst, h.epoch, 0⟩
    (h.poison = true → gives (e.2 o h p) s fun t => same t ∧ (∀ j, t.tile j = s.tile j) ∧ t.get F.SMV_ERRSTAT_CODE k 0 = 5) ∧
    (h.poison = false → s.reqHeaderOk o h = false → gives (e.2 o h p) s fun t =>
      same t ∧ (∀ j, t.tile j = s.tile j) ∧ t.get F.SMV_ERRSTAT_CODE k 0 = 1) ∧
    (h.poison = false → s.reqHeaderOk o h = true →
      (s.reqStatus e.1 h p ≠ 0 → gives (e.2 o h p) s fun t => same t ∧ answered (rec_ (s.reqStatus e.1 h p)) t ∧
        t.get F.SMV_ERRSTAT_CODE k 0 = 1) ∧
      (s.reqStatus e.1 h p = 0 →
        (w.judge h.seq = .stale → gives (e.2 o h p) s fun t => same t ∧ answered (rec_ 0x0103) t ∧ sameRegs [] s t) ∧
        (∀ d, w.judge h.seq = .dup d → d.digest ≠ h.digest → gives (e.2 o h p) s fun t =>
          same t ∧ answered (rec_ 0x0102) t ∧ sameRegs [.SMV_SCOND3] s t) ∧
        (∀ d c, w.judge h.seq = .dup d → d.digest = h.digest → d.done = some c → gives (e.2 o h p) s fun t =>
          same t ∧ answered { c with status := 0x0001, orig := c.status } t ∧ sameRegs [.SMV_SCOND3] s t)))

/-- R316: the table of the replay window. -/
def Obligations.ReplayWindowFollowsItsTable : Prop :=
  (∀ w seq, w.high = none → Window.judge w seq = .newer) ∧
  (∀ w hi seq, w.high = some hi → hi < 2 ^ 32 → seq < 2 ^ 32 →
    let a := (hi + 2 ^ 32 - seq) % 2 ^ 32
    (2 ^ 31 < a → Window.judge w seq = .newer) ∧ (64 ≤ a → a ≤ 2 ^ 31 → Window.judge w seq = .stale) ∧
    (a < 64 → (∀ e, Window.judge w seq = .dup e → e ∈ w.entries ∧ e.seq = seq) ∧
      ((∃ e ∈ w.entries, e.seq = seq) → ∃ e, Window.judge w seq = .dup e) ∧
      ((∀ e ∈ w.entries, e.seq ≠ seq) → Window.judge w seq = .late))) ∧
  (∀ w seq digest, (Window.enter w seq digest true).high = some seq ∧
    (∀ e ∈ (Window.enter w seq digest true).entries, (seq + 2 ^ 32 - e.seq) % 2 ^ 32 < 64) ∧
    (∃ e ∈ (Window.enter w seq digest true).entries, e.seq = seq ∧ e.digest = digest ∧ e.done = none))

/-- R320, R321 and R344: what software writes to the rings. -/
def Obligations.RingCountersAndEnables : Prop :=
  (∀ s q k r value kt x, s.lands q k .SMV_SQTAIL r true = some (kt, x) →
    ((s.tile kt).sqRing.getD x {}).on = false ∨ (s.smvIssues kt = false ∧
      (value + 2 ^ 32 - s.get F.SMV_SQHEAD_HEAD kt x) % 2 ^ 32 ≤ 2 ^ ((s.tile kt).sqRing.getD x {}).log) →
    gives (.sqtailWrite q k r value) s fun t => t.get F.SMV_SQTAIL_TAIL kt x = value % 2 ^ 32 ∧
      sameRegs [.SMV_SQTAIL] s t ∧ sameMem s t ∧ sameContexts s t) ∧
  (∀ s q k r value kt x, s.lands q k .SMV_SQTAIL r true = some (kt, x) → ((s.tile kt).sqRing.getD x {}).on = true →
    2 ^ ((s.tile kt).sqRing.getD x {}).log < (value + 2 ^ 32 - s.get F.SMV_SQHEAD_HEAD kt x) % 2 ^ 32 →
    gives (.sqtailWrite q k r value) s fun t => t.get F.SMV_ERRSTAT_CODE kt 0 = 1 ∧
      sameRegs [.SMV_ERRSTAT, .SMV_ERRCNT] s t ∧ sameMem s t ∧ sameContexts s t) ∧
  (∀ s q k r value kt x h, s.lands q k .SMV_SQTAIL r true = some (kt, x) → x < 4 →
    let g := (s.tile kt).sqRing.getD x {}
    let head := s.get F.SMV_SQHEAD_HEAD kt x
    let a := g.base + 128 * (head % 2 ^ g.log)
    let n := s.instOfTile kt
    g.on = true → s.smvIssues kt = true → value < 2 ^ 32 → value ≠ head → (value + 2 ^ 32 - head) % 2 ^ 32 ≤ 2 ^ g.log →
    isHost a = true → s.hostAddr (fnOf n) a = some h → (s.tile kt).xfers.any (·.q == ringQueue x) = false →
    gives (.sqtailWrite q k r value) s fun t => t.get F.SMV_SQTAIL_TAIL kt x = value ∧
      t.out = s.out ++ [.hostRead kt (ringTag x) (fnOf n) h 128] ∧ sameRegs [.SMV_SQTAIL] s t ∧ sameMem s t) ∧
  (∀ s q k r value kt x, r < 4 → s.lands q k .SMV_CQHEAD r true = some (kt, x) → gives (.cqheadWrite q k r value) s fun t =>
    t.get F.SMV_CQHEAD_HEAD kt x = value % 2 ^ 32 ∧
    t.out = s.out ++ (if ((s.tile kt).cqRing.getD x {}).on = true ∧ value % 2 ^ 32 ≠ s.get F.SMV_CQTAIL_TAIL kt x then
      [.msix (fnOf (s.instOfTile kt)) (s.get F.SMV_CQCFG_VECTOR kt x)] else []) ∧
    sameRegs [.SMV_CQHEAD] s t ∧ sameMem s t ∧ sameContexts s t) ∧
  (∀ s q k value kt x, s.lands q k .SMV_ERHEAD 0 true = some (kt, x) → gives (.cqheadWrite q k 4 value) s fun t =>
    t.get F.SMV_ERHEAD_HEAD kt 0 = value % 2 ^ 32 ∧
    t.out = s.out ++ (if (s.tile kt).erRing.on = true ∧ value % 2 ^ 32 ≠ s.get F.SMV_ERTAIL_TAIL kt 0 then
      [.msix (fnOf (s.instOfTile kt)) (s.get F.SMV_ERCFG_VECTOR kt 0)] else []) ∧
    sameRegs [.SMV_ERHEAD] s t ∧ sameMem s t ∧ sameContexts s t) ∧
  (∀ s q k g r value kt x, s.lands q k (ringCfgReg g) (if g = .er then 0 else r) true = some (kt, x) → x < 4 →
    bitOf (s.reg (ringCfgReg g) kt x).toNat 7 = false → bitOf value 7 = true →
    (4 ≤ value % 32 → value % 32 ≤ 16 → gives (.ringEnWrite q k g r value) s fun t =>
      bitOf (t.reg (ringCfgReg g) kt x).toNat 7 = true ∧
      (t.tile kt).ring g x = ⟨true, value % 32, s.base40 (ringBaseFlds g).1 (ringBaseFlds g).2 kt x⟩ ∧
      (∀ f ∈ ringCounters g, t.get f kt x = 0) ∧ sameMem s t) ∧
    (value % 32 < 4 ∨ 16 < value % 32 →
      gives (.ringEnWrite q k g r value) s fun t => bitOf (t.reg (ringCfgReg g) kt x).toNat 7 = false ∧
        t.tile kt = s.tile kt ∧ sameMem s t)) ∧
  (∀ s q k g r value kt x, s.lands q k (ringCfgReg g) (if g = .er then 0 else r) true = some (kt, x) → x < 4 →
    bitOf (s.reg (ringCfgReg g) kt x).toNat 7 = true → bitOf value 7 = false → gives (.ringEnWrite q k g r value) s fun t =>
      bitOf (t.reg (ringCfgReg g) kt x).toNat 7 = false ∧ ((t.tile kt).ring g x).on = false ∧ sameMem s t)

/-- R320 and R321: a record that waits is written. -/
def Obligations.RecordsReachTheirRings : Prop :=
  (∀ s k r w, (s.tile k).cqWait.find? (·.r == r) = some w → s.cqRoom k r = true →
    let g := (s.tile k).cqRing.getD r {}
    let tail := s.get F.SMV_CQTAIL_TAIL k r
    let a := g.base + 32 * (tail % 2 ^ g.log)
    let bs := w.cpl.bytes (phaseOf g.log tail)
    gives (.completionRecordWrite k r) s fun t =>
      t.get F.SMV_CQTAIL_TAIL k r = (tail + 1) % 2 ^ 32 ∧ (t.tile k).cqWait = (s.tile k).cqWait.erase w ∧
      (isHost a = false → s.inMem (s.instOfTile k) a 32 = true → t.bytes a 32 = bs ∧ sameMemBut a 32 s t) ∧
      (∀ h, isHost a = true → s.hostAddr (fnOf (s.instOfTile k)) a = some h →
        .hostWrite (fnOf (s.instOfTile k)) h bs false ∈ t.out ∧ sameMem s t) ∧
      (tail = s.get F.SMV_CQHEAD_HEAD k r → .msix (fnOf (s.instOfTile k)) (s.get F.SMV_CQCFG_VECTOR k r) ∈ t.out)) ∧
  (∀ s k c l, (s.tile k).erWait = c :: l → s.erRoom (s.erTile (s.instOfTile k)) = true →
    let e := s.erTile (s.instOfTile k)
    let g := (s.tile e).erRing
    let tail := s.get F.SMV_ERTAIL_TAIL e 0
    let a := g.base + 32 * (tail % 2 ^ g.log)
    let bs := c.bytes (phaseOf g.log tail)
    gives (.errorRingWrite k) s fun t =>
      t.get F.SMV_ERTAIL_TAIL e 0 = (tail + 1) % 2 ^ 32 ∧ (t.tile k).erWait = l ∧
      (isHost a = false → s.inMem (s.instOfTile e) a 32 = true → t.bytes a 32 = bs ∧ sameMemBut a 32 s t) ∧
      (∀ h, isHost a = true → s.hostAddr (fnOf (s.instOfTile e)) a = some h →
        .hostWrite (fnOf (s.instOfTile e)) h bs false ∈ t.out ∧ sameMem s t) ∧
      (tail = s.get F.SMV_ERHEAD_HEAD e 0 → .msix (fnOf (s.instOfTile e)) (s.get F.SMV_ERCFG_VECTOR e 0) ∈ t.out))

/-- R323 to R326, R332 and R344. -/
def Obligations.QueuesAdvanceAndTransfersIssue : Prop :=
  (∀ s q k j value kt x, s.lands q k .SMV_QTAIL j true = some (kt, x) → gives (.queueTailWrite q k j value) s fun t =>
    t.get F.SMV_QTAIL_TAIL kt x = value % 2 ^ 32 ∧ sameRegs [.SMV_QTAIL, .SMV_RESIDENT, .SMV_SLIVE0] s t ∧ sameMem s t ∧
    (∀ n, t.tile n = s.tile n) ∧ ∀ n, t.inst n = s.inst n) ∧
  (∀ s q k j value kt x, s.lands q k .SMV_QCFG j true = some (kt, x) → s.qResident kt x = 0 → s.qItems kt x = [] → x < 20 →
    (value % 32 = 0 ∨ (6 ≤ value % 32 ∧ value % 32 ≤ 16)) →
    ((List.range 20).map fun i => if i = x then (if value % 32 = 0 then 0 else 2 ^ (value % 32)) else s.qDepth kt i).sum ≤ 65536 →
    gives (.qcfgWrite q k j value) s fun t => t.get F.SMV_QCFG_LOGDEPTH kt x = value % 32 ∧
      (value % 32 ≠ 0 → (t.tile kt).qBase.getD x 0 =
        s.get F.SMV_QBASE_LO_BASE_LO kt x * 2 ^ 12 + s.get F.SMV_QBASE_HI_BASE_HI kt x * 2 ^ 32) ∧ sameMem s t) ∧
  (∀ s q k j value kt x, s.lands q k .SMV_QCFG j true = some (kt, x) → s.qResident kt x ≠ 0 ∨ s.qItems kt x ≠ [] →
    gives (.qcfgWrite q k j value) s fun t => t.get F.SMV_ERRSTAT_CODE kt 0 = 8 ∧
      sameRegs [.SMV_ERRSTAT, .SMV_ERRCNT] s t ∧ sameMem s t ∧ sameContexts s t) ∧
  (∀ s k j tag, s.smvIssues k = true → s.qDepth k j ≠ 0 → s.burstLen k j ≠ 0 → s.underLimit k j = true → (j ≤ 15 → s.get F.SMV_QCFG_CREDITS k j ≠ 0) →
    (s.tile k).xfers.any (fun x => x.fetch && x.q == j) = false →
    s.burstLen k j + ((s.qItems k j).filter fun i => !i.started).length ≤ 16 → s.freeTag k j = some tag →
    gives (.queueBurstFetch k j) s fun t =>
      (∃ x, (t.tile k).xfers = (s.tile k).xfers ++ [x] ∧ x.tag = tag ∧ x.q = j ∧ x.fetch = true ∧
        x.slot = s.get F.SMV_QHEAD_HEAD k j ∧ x.addr = s.qSlotAddr k j x.slot ∧ x.len = 64 * s.burstLen k j) ∧
      sameRegs [.SMV_TAGS] s t ∧ sameMem s t) ∧
  (∀ s k j tag i p l, s.smvIssues k = true → (s.qItems k j).find? (fun i => i.engine == 3 && !i.resolved && !i.started) = none →
    s.underLimit k j = true → s.freeTag k j = some tag → (s.qItems k j).find? (fun i => i.started && i.writes != []) = none →
    (s.qItems k j).find? (fun i => i.reads != []) = some i → i.reads = p :: l → s.creditsLeft k j ≠ 0 → isHost p.addr = false →
    gives (.transferIssue k j) s fun t =>
      (∃ x, (t.tile k).xfers = (s.tile k).xfers ++ [x] ∧ x.tag = tag ∧ x.q = j ∧ x.write = false ∧ x.addr = p.addr ∧ x.len = p.len) ∧
      (∃ y ∈ (t.tile k).items, y.q = j ∧ y.slot = i.slot ∧ y.reads = l) ∧ sameRegs [.SMV_TAGS] s t ∧ sameMem s t)

/-- R324 to R335, R340 and R539. -/
def Obligations.TransfersAndItemsComplete : Prop :=
  (∀ s k tag status x, (s.tile k).xfers.find? (·.tag == tag) = some x → x.fetch = true → x.host = false → x.write = false →
    s.stale x.inst x.epoch = false → gives (.transferComplete k tag status) s fun t =>
      (∀ y ∈ (t.tile k).xfers, y.tag ≠ tag) ∧ t.get F.SMV_QHEAD_HEAD k x.q = (x.slot + x.len / 64) % 2 ^ 32) ∧
  (∀ s k tag x i, (s.tile k).xfers.find? (·.tag == tag) = some x → x.fetch = false → x.host = false → x.write = true →
    x.remote = false → s.stale x.inst x.epoch = false → s.inMem x.inst x.addr x.len = true → isHost x.addr = false →
    (s.tile k).items.find? (fun i => i.q == x.q && i.slot == x.slot) = some i → i.writes ≠ [] →
    gives (.transferComplete k tag 0) s fun t => (∀ y ∈ (t.tile k).xfers, y.tag ≠ tag) ∧
      t.bytes x.addr x.data.length = x.data ∧ sameMemBut x.addr x.data.length s t) ∧
  (∀ s k j i, s.isOn .smv k = true → s.nextItem k j = some i → s.itemStatus k i = 0 → bitOf i.flags 0 = false → i.engine ≠ 3 →
    gives (.itemDispatch k j) s fun t => (∃ y ∈ (t.tile k).items, y.q = i.q ∧ y.slot = i.slot ∧ y.started = true) ∧
      ∀ y ∈ (t.tile k).items, y.q = i.q → y.slot = i.slot → y.started = true) ∧
  (∀ s id b, s.barrierDue id = some b → gives (.barrierComplete id) s fun t =>
    (∀ i ∈ (t.stream id).items, i.tile = b.tile → i.q = b.q → i.slot = b.slot → i.done = true) ∧
    t.sget F.SMV_SLIVE0_FPW id = 0 ∧
    t.sget F.SMV_SCOND3_FAILWR id = min F.SMV_SCOND3_FAILWR.maxVal (s.sget F.SMV_SCOND3_FAILWR id + s.sget F.SMV_SLIVE0_FPW id)) ∧
  (∀ s k n, (s.inst n).overlays.contains k = true → gives (.overlayAccessFault k n) s fun t =>
    (t.inst n).overlays = (s.inst n).overlays.filter (· != k)) ∧
  (∀ s k j slot status digest i, (s.qItems k j).find? (fun i => i.slot == slot && i.started && i.engine == 5 &&
      !(j == 17 && leAt i.payload 0 1 == 0x49 && (s.stream i.stream).stages / 2 % 4 != 0)) = some i →
    gives (.fxgItemComplete k j slot status digest) s fun t => ∀ y ∈ (t.tile k).items, ¬ (y.q = j ∧ y.slot = slot))

namespace Sys2Proof.Say

/-- The item that `ARR_ITEM_START` takes up: the first one handed to the array in the queue that no run serves yet (R225). -/
def nextCut (s : State) (k q : Nat) : Option Item :=
  (s.qItems k q).find? fun i => i.started && i.engine == 0 && !((s.tile k).runs.any fun r => r.q == q && r.slot == i.slot)

/-- The run whose next block the array takes, with its queue and its context: that of the highest-priority enabled queue whose
head item can start (R222). -/
def nextBlock (s : State) (k : Nat) : Option (Nat × CutRun × RunCx) :=
  ((List.range 4).filter fun q => bitOf (s.get F.ARR_QCTL_QEN k 0) q).findSome? fun q =>
    match s.qHead k q with
    | .ready r x _ => some (q, r, x)
    | _ => none

end Sys2Proof.Say

/-- R222 to R225: items and blocks of the array. -/
def Obligations.ArrayItemsAndBlocksRun : Prop :=
  (∀ s k q i x, s.isOn .arr k = true → nextCut s k q = some i → bitOf i.flags 2 = false →
    s.runCx (s.stream i.stream).inst (leAt i.payload 0 2) (leAt i.payload 4 4) i.stream i.frame = some x → x.c.queue = q →
    s.cutChecks (s.stream i.stream).inst i.stream k x = ([], []) → gives (.arrItemStart k q) s fun t =>
      (t.tile k).runs = (s.tile k).runs ++
        [{ q := q, slot := i.slot, stream := i.stream, frame := i.frame, prog := leAt i.payload 0 2, cut := leAt i.payload 4 4 }] ∧
      sameRegs [.ARR_QSTAT] s t ∧ sameMem s t ∧ (∀ id, t.stream id = s.stream id) ∧ ∀ n, t.inst n = s.inst n) ∧
  (∀ s k q i, s.isOn .arr k = true → nextCut s k q = some i →
    s.runCx (s.stream i.stream).inst (leAt i.payload 0 2) (leAt i.payload 4 4) i.stream i.frame = none →
    gives (.arrItemStart k q) s fun t => t.get F.ARR_ERRSTAT_ERR k 0 = 1 ∧ t.get F.ARR_ERRSTAT_CODE k 0 = 8 ∧
      (t.tile k).runs = (s.tile k).runs ∧ ∀ y ∈ (t.tile k).items, ¬ (y.q = i.q ∧ y.slot = i.slot)) ∧
  (∀ s k q i x, s.isOn .arr k = true → nextCut s k q = some i →
    s.runCx (s.stream i.stream).inst (leAt i.payload 0 2) (leAt i.payload 4 4) i.stream i.frame = some x → x.c.queue = q →
    s.cutChecks (s.stream i.stream).inst i.stream k x ≠ ([], []) → gives (.arrItemStart k q) s fun t =>
      t.get F.ARR_ERRSTAT_ERR k 0 = 1 ∧
      (x.l.bridle = true → t.get F.ARR_BRSTAT_VIOL k 0 = 1 ∧
        t.get F.ARR_BRREF_COUNT k 0 = min F.ARR_BRREF_COUNT.maxVal (s.get F.ARR_BRREF_COUNT k 0 + 1)) ∧
      (t.tile k).runs = (s.tile k).runs ∧ ∀ y ∈ (t.tile k).items, ¬ (y.q = i.q ∧ y.slot = i.slot)) ∧
  (∀ s k q r x, s.isOn .arr k = true → (s.tile k).blocks.length < 2 → nextBlock s k = some (q, r, x) →
    gives (.arrBlockStart k) s fun t =>
      (t.tile k).blocks = (s.tile k).blocks ++ [⟨q, r.slot, r.next, x.blockCycles r.next⟩] ∧
      (t.tile k).runs = ((s.tile k).runs.map fun u => if u.q = q ∧ u.slot = r.slot then { u with next := u.next + 1 } else u) ∧
      t.get F.ARR_CUR_BUSY k 0 = 1 ∧ t.get F.ARR_CUR_QUEUE k 0 = q ∧
      sameRegs [.ARR_FILLCNT, .ARR_CUR, .SFU_STAT, .SFU_MPRES, .ARR_QSTAT] s t ∧ sameMem s t ∧
      (∀ id, t.stream id = s.stream id) ∧ ∀ n, t.inst n = s.inst n) ∧
  (∀ s k b rest, (s.tile k).blocks = b :: rest → gives (.arrBlockDone k) s fun t => (t.tile k).blocks = rest) ∧
  (∀ s k b rest r x c, (s.tile k).blocks = b :: rest → (s.tile k).runs.find? (fun u => u.q == b.q && u.slot == b.slot) = some r →
    s.cxOf r = some x → x.stored (x.block b.block) = some c → b.block + 1 ≠ x.blocks → (x.block (b.block + 1)).row = c.row →
    r.done + 1 < x.blocks →
    ((s.blockOut x c).bad = false → r.microBad = false → gives (.arrBlockDone k) s fun t =>
      let o := s.blockOut x c
      (∀ a, t.byte a = (s.then (putBlock x c o false)).byte a) ∧
      (∃ u ∈ (t.tile k).runs, u.q = r.q ∧ u.slot = r.slot ∧ u.done = r.done + 1 ∧ u.bad = r.bad ∧
        u.outs = r.outs ++ keyed c o.codes c.nk c.k0) ∧
      (∀ id, t.stream id = s.stream id) ∧ ∀ n, t.inst n = s.inst n) ∧
    ((s.blockOut x c).bad = true → gives (.arrBlockDone k) s fun t =>
      t.get F.ARR_ERRSTAT_ERR k 0 = 1 ∧ t.get F.ARR_ERRSTAT_CODE k 0 = 13 ∧
      (∃ u ∈ (t.tile k).runs, u.q = r.q ∧ u.slot = r.slot ∧ u.done = r.done + 1 ∧ u.bad = true) ∧
      (∀ id, t.stream id = s.stream id) ∧ ∀ n, t.inst n = s.inst n))

namespace Sys2Proof.Say

/-- The run that a halo of a side comes for (R217). -/
def haloRun (s : State) (k q side : Nat) : Option CutRun :=
  (s.tile k).runs.find? fun r => r.q == q && !r.halos.contains side &&
    (s.cxOf r).elim false fun x => decide (side < 4) && haloPositions x side != []

/-- The run whose microprogram is loaded (R266). -/
def loadingCut (s : State) (k q : Nat) : Option CutRun :=
  (s.tile k).runs.find? fun r => r.q == q && !r.microBad && (s.cxOf r).elim false fun x =>
    x.micro.elim false fun m => !((s.tile k).micro.any fun e => e.prog == r.prog && e.recIx == m)

end Sys2Proof.Say

/-- R217, R248 and R266. -/
def Obligations.HalosAndMicroprogramsArrive : Prop :=
  (∀ s k q side r x, haloRun s k q side = some r → s.cxOf r = some x → s.haloReady x r side = true →
    gives (.haloArrival k q side) s fun t =>
      (t.tile k).runs = ((s.tile k).runs.map fun u => if u.q = q ∧ u.slot = r.slot then { u with halos := u.halos ++ [side] } else u) ∧
      sameRegs [.ARR_HALOCNT, .ARR_QSTAT, .BAL_CLSCNT, .BAL_RMWCNT, .BAL_YSAVED, .YRD_FLIT, .MEM_WCINV] s t ∧ (∀ id, t.stream id = s.stream id) ∧ ∀ n, t.inst n = s.inst n) ∧
  (∀ s k q fails r, loadingCut s k q = some r → 2 ≤ fails → gives (.sfuMicroLoadDone k q fails) s fun t =>
    t.get F.SFU_ERRSTAT_ERR k 0 = 1 ∧ t.get F.SFU_ERRSTAT_CODE k 0 = 2 ∧
    (t.tile k).runs = ((s.tile k).runs.map fun u => if u.q = q ∧ u.slot = r.slot then { u with microBad := true } else u) ∧
    sameRegs [.SFU_ERRSTAT, .SFU_ERRCNT] s t ∧ sameMem s t) ∧
  (∀ s k q fails r x m j l, loadingCut s k q = some r → fails < 2 → s.cxOf r = some x → x.micro = some m →
    microPlace (s.tile k).micro (bitList 16 (s.get F.SFU_MPRES_INUSE k 0)) = some (j, l) →
    gives (.sfuMicroLoadDone k q fails) s fun t => (∃ n, (t.tile k).micro = l ++ [⟨j, r.prog, m, n⟩]) ∧
      (fails = 1 → t.get F.SFU_ERRSTAT_CODE k 0 = 3) ∧ sameRegs [.SFU_ERRSTAT, .SFU_ERRCNT, .SFU_MPRES] s t ∧ sameMem s t) ∧
  (∀ s q k kt x, s.lands q k .ARR_CVCTL 0 true = some (kt, x) → gives (.arrCvctlClr q k) s fun t =>
    t.reg .ARR_CVCNT kt 0 = 0 ∧ t.reg .ARR_CVSSE_LO kt 0 = 0 ∧ t.reg .ARR_CVSSE_HI kt 0 = 0 ∧ t.reg .ARR_CVSSX_LO kt 0 = 0 ∧
    t.reg .ARR_CVSSX_HI kt 0 = 0 ∧ t.reg .ARR_CVSAT kt 0 = 0 ∧ t.reg .ARR_CVNAN kt 0 = 0 ∧ t.get F.ARR_CVCTL_CLR kt 0 = 0 ∧
    sameRegs [.ARR_CVCNT, .ARR_CVSSE_LO, .ARR_CVSSE_HI, .ARR_CVSSX_LO, .ARR_CVSSX_HI, .ARR_CVSAT, .ARR_CVNAN, .ARR_CVCTL] s t ∧
    sameMem s t ∧ sameContexts s t)

/-- R51 to R53, R63 and R67. -/
def Obligations.LearnedFramesBegin : Prop :=
  (∀ s id i p, s.isLscEnc id = true → s.lscInput id = some i → (s.stream id).lsc.frames.find? (fun f => !f.ended) = none →
    (s.stream id).lsc.pool.any (·.cur) = false ∨ (s.stream id).lsc.shape.camp = true → s.shadowed id lscRegs = [] → s.sget F.ECE_LSCCMD_RCRESET id = 0 →
    s.prog (s.stream id).inst (s.slive F.ECE_LSCW7_PROG_ID id) = some p → gives (.lscEncFrameBoundary id) s fun t =>
      ∃ f, (t.stream id).lsc.frames = (s.stream id).lsc.frames ++ [f] ∧ f.frame = (s.stream id).lsc.nextFrame ∧
        f.ptime = i.ptime + 20000000 * i.done ∧
        (s.sget F.ECE_LSCLIVE1_KEYPEND id = 1 ∨ (s.stream id).lsc.started = false → f.key = true) ∧
        (t.stream id).lsc.nextFrame = ((s.stream id).lsc.nextFrame + 1) % 2 ^ 32 ∧ (t.stream id).lsc.started = true ∧
        t.sget F.ECE_LSCLIVE0_FRAME id = (s.stream id).lsc.nextFrame % 2 ^ 32 ∧
        (f.key = true → t.sget F.ECE_LSCLIVE1_KEYPEND id = 0 ∧ t.sget F.ECE_LSCLIVE1_SINCEKEY id = 0)) ∧
  (∀ s id i f, s.isLscEnc id = true → s.lscInput id = some i → (s.stream id).lsc.frames.find? (fun f => !f.ended) = some f →
    f.nrow < 50 → s.sget F.ECE_LSCLIVE1_KEYPEND id = 0 → gives (.lscEncFrameBoundary id) s fun t =>
      (∃ g ∈ (t.stream id).lsc.frames, g.frame = f.frame ∧ g.nrow = f.nrow + 1 ∧ g.ended = false) ∧
      (t.stream id).lsc.frames.length = (s.stream id).lsc.frames.length ∧
      (t.stream id).lsc.nextFrame = ((s.stream id).lsc.nextFrame + 1) % 2 ^ 32 ∧
      t.sget F.ECE_LSCLIVE1_SINCEKEY id = f.nrow ∧ ((s.stream id).lsc.taps = [] → sameMem s t)) ∧
  (∀ s id f rest, s.isLscDec id = true → (s.stream id).lsc.frames = f :: rest → f.final = none → f.begun = false →
    f.refDone = true → (s.stream id).lsc.refused = none → f.closed = true ∨ f.plots.any (fun p => p.phase == .arrived) = true →
    gives (.lscDecFrameBoundary id) s fun t =>
      (∃ g l, (t.stream id).lsc.frames = g :: l ∧ g.frame = f.frame ∧ g.begun = true) ∧
      (f.shape.camp = false → (t.stream id).lsc.pool = poolBegin (s.stream id).lsc.pool) ∧
      (f.shape.camp = true → (t.stream id).lsc.pool = poolTurn ((f.frame + 2 ^ 32 - 1) % 2 ^ 32) (s.stream id).lsc.pool) ∧ t.sget F.ECE_LSCLIVE0_FRAME id = f.frame % 2 ^ 32 ∧
      (f.key = true → t.sget F.ECE_LSCLIVE1_SINCEKEY id = 0)) ∧
  (∀ s q k kt ix, s.lands q k .ECE_LSCCMD 0 true = some (kt, ix) → kt < 64 → ix < 256 → s.isLscEnc (kt * 256 + ix) = true →
    gives (.lscKeyreq q k) s fun t => t.get F.ECE_LSCCMD_KEYREQ kt ix = 1 ∧ t.get F.ECE_LSCLIVE1_KEYPEND kt ix = 1 ∧
      t.get F.ECE_LSCCNT_REFCNT kt ix = min F.ECE_LSCCNT_REFCNT.maxVal (s.get F.ECE_LSCCNT_REFCNT kt ix + 1) ∧
      sameRegs [.ECE_LSCCMD, .ECE_LSCCNT, .ECE_LSCLIVE1] s t ∧ sameMem s t ∧ sameContexts s t) ∧
  (∀ s q k kt ix, s.lands q k .ECE_LSCCMD 0 true = some (kt, ix) → kt < 64 → ix < 256 → s.isLscEnc (kt * 256 + ix) = true →
    gives (.lscRcreset q k) s fun t => t.get F.ECE_LSCCMD_RCRESET kt ix = 1 ∧
      sameRegs [.ECE_LSCCMD] s t ∧ sameMem s t ∧ sameContexts s t)

/-- R56, R63 to R65, R72 and R73. -/
def Obligations.LearnedFramesComplete : Prop :=
  (∀ s id f e, (s.stream id).lsc.frames.find? (fun f => !f.pathDone && f.final.isNone) = some f →
    ((s.prog (s.stream id).inst f.shape.prog).bind fun p => p.tensors.map fun w => (p, w)) = some e → s.pathReady id f e = true →
    gives (.lscLatentPathDone id) s fun t =>
      (∀ g ∈ (t.stream id).lsc.frames, g.frame = f.frame → g.pathDone = true) ∧
      (t.stream id).lsc.frames.length = (s.stream id).lsc.frames.length ∧
      (f.shape.camp = false → (t.stream id).lsc.pool = poolDone f.key f.ltr f.frame (s.stream id).lsc.pool) ∧
      (f.shape.camp = true → (t.stream id).lsc.pool =
        if ((s.stream id).lsc.frames.getLast?).elim false (·.frame == f.frame) then
          poolDone true false ((f.frame + f.nrow + 2 ^ 32 - 1) % 2 ^ 32) (s.stream id).lsc.pool
        else (s.stream id).lsc.pool)) ∧
  (∀ s id f rest p, s.isLscEnc id = true → (s.stream id).lsc.frames = f :: rest → f.emitted = true → f.pathDone = true →
    s.slive F.ECE_LSCW4_RECON_EN id = 0 → s.prog (s.stream id).inst f.shape.prog = some p → gives (.lscFrameComplete id) s fun t =>
      (t.stream id).lsc.frames = rest ∧ t.sget F.ECE_RCSTAT_LASTBYTES id = min (2 ^ 24 - 1) f.coded ∧
      t.sget F.ECE_RCSTAT_FILLED id = b2n (f.fill != 0) ∧ (f.clampEvent = true → t.sget F.ECE_RCSTAT_CLAMP id = 1)) ∧
  (∀ s id f rest p, s.isLscDec id = true → (s.stream id).lsc.frames = f :: rest → f.final = none → f.pathDone = true →
    s.prog (s.stream id).inst f.shape.prog = some p → s.reconDone p f id = true → gives (.lscDecFrameComplete id) s fun t =>
      t.sget F.ECE_LSCLIVE1_CONCEAL id = b2n (f.event || (s.sget F.ECE_LSCLIVE1_CONCEAL id == 1 && !f.key)) ∧
      (t.stream id).lsc.frames.length = rest.length ∧ t.sget F.ECE_RCSTAT_LASTBYTES id = min (2 ^ 24 - 1) f.coded) ∧
  (∀ s id f rest st, s.isLscDec id = true → (s.stream id).lsc.frames = f :: rest → f.final = some st →
    gives (.lscDecFrameComplete id) s fun t => (t.stream id).lsc.frames.length = rest.length ∧
      t.sget F.ECE_LSCLIVE1_CONCEAL id = s.sget F.ECE_LSCLIVE1_CONCEAL id) ∧
  (∀ s id f, s.isLscDec id = true → s.slive F.ECE_LSCW2_DEC_WAIT id ≠ 0 → (s.stream id).lsc.openFrame = some f →
    gives (.decWaitExpiry id) s fun t => (∀ g ∈ (t.stream id).lsc.frames, g.frame = f.frame →
      g.closed = true ∧ ∀ p ∈ g.plots, p.phase ≠ .waiting) ∧
      (t.stream id).lsc.frames.length = (s.stream id).lsc.frames.length)

namespace Sys2Proof.Say

/-- The items of one direction that may start on a tile. -/
def eceMine (s : State) (dec : Bool) (k : Nat) : List Item :=
  (s.qItems k eceQueue).filter fun i => i.started && !((s.tile k).ece.any (·.slot == i.slot)) && (leAt i.payload 0 1 == 1) == dec

/-- The item that starts next, none of those before it having a bad descriptor. -/
def eceNext (s : State) (dec : Bool) (k : Nat) : Option EceCx :=
  if (eceMine s dec k).all (fun i => s.eceOk k (EceDesc.parse i.payload)) then
    ((eceMine s dec k).filterMap s.eceCx).find? s.ecePresent
  else none

/-- The state in which the models of a group are read: the means of the non-anchors are made first, from the anchors that the ECE has
decoded (R49, R124). -/
def atGroup (s : State) (x : EceCx) (r : EceRun) : State :=
  let j := (groupRow x.f.shape x.d.plot r.released).getD 0
  if 0 < r.released ∧ r.released % 2 = 0 then s.then (remake x.p r.stream x.f x.d.plot j (j + 1) false false) else s

/-- Both commands that start an item. -/
def eceStartOf : Bool → Nat → Instr
  | false, k => .eceEncodeStart k
  | true, k => .eceDecodeStart k

end Sys2Proof.Say

/-- covers: eceEncodeStart eceDecodeStart. R115 to R127. -/
def Obligations.EntropyItemsRun : Prop :=
  (∀ s dec k x e, s.isOn .ece k = true → (s.tile k).ece.length < 16 → eceNext s dec k = some x → s.tset k x.n x.p.id = some e →
    e.loading = false → gives (eceStartOf dec k) s fun t =>
      (∃ r, (t.tile k).ece = (s.tile k).ece ++ [r] ∧ r.slot = x.it.slot ∧ r.stream = x.d.stream ∧ r.frame = x.f.frame ∧
        r.plot = x.d.plot ∧ r.cap = x.d.cap ∧ r.addr = x.d.addr ∧ r.prog = x.p.id ∧
        (x.d.op = 1 → r.payload = s.bytes x.d.addr x.d.cap)) ∧
      t.get F.ECE_INFLIGHT_ITEMS k 0 = (s.tile k).ece.length + 1 ∧ sameRegs [.ECE_INFLIGHT] s t ∧ sameMem s t ∧
      (∀ id, t.stream id = s.stream id) ∧ ∀ n, t.inst n = s.inst n) ∧
  (∀ s dec k x i, s.isOn .ece k = true → (s.tile k).ece.length < 16 → eceNext s dec k = some x → s.tset k x.n x.p.id = none →
    s.tsetPlace k = some i → gives (eceStartOf dec k) s fun t =>
      (t.tile k).tsets = (s.tile k).tsets.filter (·.ix != i) ++ [⟨i, x.n, x.p.id, true, 0⟩] ∧ (t.tile k).ece = (s.tile k).ece ∧
      sameRegs [.ECE_TSET, .ECE_TSETPROG] s t ∧ sameMem s t) ∧
  (∀ s k e, (s.tile k).tsets.find? (·.loading) = some e → gives (.eceTsetLoadDone k) s fun t =>
      (t.tile k).tsets = ((s.tile k).tsets.map fun g => if g.ix = e.ix then { g with loading := false } else g) ∧
      sameRegs [.ECE_TSET, .ECE_TSETPROG] s t ∧ sameMem s t) ∧
  (∀ s k r p, (s.tile k).ece.find? (fun r => !r.dec) = some r → s.prog r.inst r.prog = some p → r.bad = false →
    let out := payloadBytes (encodeWords p.tables r.ecSyms)
    out.length ≤ r.cap → gives (.eceEncodeDone k) s fun t =>
      (t.tile k).ece = (s.tile k).ece.filter (·.slot != r.slot) ∧
      (∀ y ∈ (t.tile k).items, ¬ (y.q = eceQueue ∧ y.slot = r.slot)) ∧
      ∀ f ∈ (t.stream r.stream).lsc.frames, f.frame = r.frame → ∀ g ∈ f.plots, g.ix = r.plot →
        g.phase = .coded ∧ g.payload = out) ∧
  (∀ s k slot r x g ms, (s.tile k).ece.find? (fun r => r.dec && r.slot == slot) = some r →
    ((s.qItems k eceQueue).find? (·.slot == slot)).bind s.eceCx = some x → x.groups[r.released]? = some g →
    s.meansStored x r = true → allSome ((atGroup s x r).model x.p x.w.2.2) g = some ms → gives (.eceGroupReady k slot) s fun t =>
      (∃ u ∈ (t.tile k).ece, u.slot = slot ∧ u.released = r.released + 1) ∧ (t.tile k).ece.length = (s.tile k).ece.length ∧
      ∀ n, t.inst n = s.inst n) ∧
  (∀ s k r x, ((s.tile k).ece.filter (·.dec)).head? = some r → ((s.qItems k eceQueue).find? (·.slot == r.slot)).bind s.eceCx = some x →
    r.decEnd x.p.tables x.groups.length ≠ .wait → gives (.eceDecodeDone k) s fun t =>
      (t.tile k).ece = (s.tile k).ece.filter (·.slot != r.slot))

/-- R171 to R176. -/
def Obligations.HeadEvaluationsRun : Prop :=
  (∀ s id f, s.isOpen id = true → bitOf (s.stream id).stages stHead = true → (s.stream id).head.run = none →
    s.sget F.FXG_HDSTAT_SRCGONE id ≠ 1 → s.headNext id = some f → s.shapeOk id (s.sget F.FXG_HDW0_SRC id) f = true →
    gives (.headEvalStart id) s fun t =>
      (∃ r, (t.stream id).head.run = some r ∧ r.frame = f ∧ r.gen = (s.stream id).head.gen ∧ r.weights = (s.stream id).head.weights) ∧
      (t.stream id).head.last = some f ∧ t.sget F.FXG_HDGEN_GEN id = (s.stream id).head.gen % 2 ^ 32 ∧
      sameRegs [.FXG_HDGEN] s t ∧ sameMem s t ∧ (∀ n, t.inst n = s.inst n) ∧ ∀ k, t.tile k = s.tile k) ∧
  (∀ s id f, s.isOpen id = true → bitOf (s.stream id).stages stHead = true → (s.stream id).head.run = none →
    s.sget F.FXG_HDSTAT_SRCGONE id ≠ 1 → s.headNext id = some f → s.shapeOk id (s.sget F.FXG_HDW0_SRC id) f = false →
    gives (.headEvalStart id) s fun t => (t.stream id).head.run = none ∧ (t.stream id).head.last = some f ∧
      t.sget F.FXG_HDSTAT_SHAPE id = 1 ∧ (t.stream id).head.evals = (s.stream id).head.evals) ∧
  (∀ s id r p f, (s.stream id).head.run = some r → s.headProg id = some p →
    (s.stream (s.sget F.FXG_HDW0_SRC id)).srcs.find? (fun f => decide ((r.frame + 2 ^ 32 - f.frame) % 2 ^ 32 < f.n)) = some f →
    gives (.headEvalDone id) s fun t =>
      (t.stream id).head.run = none ∧ (t.stream id).head.evals = (s.stream id).head.evals + 1 ∧
      (t.stream id).head.weights = (s.stream id).head.weights ∧ (t.stream id).head.gen = (s.stream id).head.gen ∧
      ((s.headInfo id).detector = false → t.sget F.FXG_HDSTAT_ALARM id = 0) ∧
      (r.bad = true ∨ 0x0201 ∈ f.conds → t.sget F.FXG_HDSTAT_ALARM id = 0))

namespace Sys2Proof.Say

/-- A window as it opens: now, with the samples that R186 draws. -/
def openedWin (s : State) (id : Nat) (w : AdaptWin) : AdaptWin :=
  let p := s.windowPairs id (WinDesc.parse w.desc)
  { w with opened := some s.now, train := p.1, valid := p.2.1, unpaired := p.2.2 }

end Sys2Proof.Say

/-- R186 to R191. -/
def Obligations.AdaptationWindowsRun : Prop :=
  (∀ s id w rest, (s.stream id).head.wins = w :: rest → w.opened = none → (WinDesc.parse w.desc).start ≤ s.now → w.validating = false →
    gives (.adaptWindowOpen id) s fun t =>
      (t.stream id).head.wins = openedWin s id w :: rest ∧
      (t.stream id).head.cand = (s.stream id).head.weights ∧ t.sget F.FXG_ADPSTAT_STATE id = 2 ∧
      sameRegs [.FXG_ADPSTAT] s t ∧ sameMem s t) ∧
  (∀ s id w rest p, (s.stream id).head.wins = w :: rest → s.headProg id = some p → w.opened ≠ none → w.validating = false →
    w.steps < (WinDesc.parse w.desc).steps → s.windowOver w = false → w.train ≠ [] → gives (.adaptStepDone id) s fun t =>
      (t.stream id).head.wins = { w with steps := w.steps + 1 } :: rest ∧
      (t.stream id).head.weights = (s.stream id).head.weights ∧ (t.stream id).head.gen = (s.stream id).head.gen ∧
      t.sget F.FXG_ADPSTEP_STEP id = (s.sget F.FXG_ADPSTEP_STEP id + 1) % 2 ^ 32 ∧ sameRegs [.FXG_ADPSTEP] s t ∧ sameMem s t) ∧
  (∀ s id w rest, (s.stream id).head.wins = w :: rest → w.opened ≠ none → w.validating = false →
    (WinDesc.parse w.desc).steps ≤ w.steps ∨ s.windowOver w = true → gives (.adaptWindowEnd id) s fun t => (t.stream id).head.wins = { w with validating := true } :: rest ∧
      t.sget F.FXG_ADPSTAT_STATE id = 3 ∧ sameRegs [.FXG_ADPSTAT] s t ∧ sameMem s t) ∧
  (∀ s id w rest p, (s.stream id).head.wins = w :: rest → s.headProg id = some p → w.validating = true →
    gives (.adaptValidationDone id) s fun t => (t.stream id).head.wins = rest ∧
      (w.valid.length < 32 ∨ w.train.length < s.batch id → t.sget F.FXG_ADPSTAT_REASON id = 3) ∧
      (t.sget F.FXG_ADPSTAT_REASON id = 1 → (t.stream id).head.weights = (s.stream id).head.cand ∧
        (t.stream id).head.prevW = (s.stream id).head.weights ∧ (t.stream id).head.gen = (s.stream id).head.gen + 1) ∧
      (t.sget F.FXG_ADPSTAT_REASON id ≠ 1 → (t.stream id).head.weights = (s.stream id).head.weights ∧
        (t.stream id).head.gen = (s.stream id).head.gen))

namespace Sys2Proof.Say

/-- The picture that the engine of a tile takes next, and its stream (R278). -/
def sceReady (s : State) (k : Nat) : Option (Nat × ScePic) :=
  (((s.qItems k sceQueue).filter (·.started)).filterMap fun i =>
    (s.scePicOf k i).filter (s.sceHasBuf i.stream) |>.map fun p => (i.stream, p)).head?

/-- What an encoder's picture in progress gives: its access unit with its filler (R281, R289 to R292). -/
def codedUnit (s : State) (id : Nat) (p : ScePic) : List Byte :=
  let refs := (encRefs p (s.stream id).sce.pool).map (s.refBytes id p.set)
  p.set.fill p.typ (p.set.code p.typ p.since (s.sget (startQp p.typ) id) (s.sceData id p) refs).au

end Sys2Proof.Say

/-- R278, R282 to R288, R292 and R298. -/
def Obligations.StandardPicturesRun : Prop :=
  (∀ s id it, s.sceInput id = some it → s.isSceEnc id = true → s.shadowed id sceRegs = [] → s.sget F.SCE_SCMD_RCRESET id = 0 →
    gives (.sceInputTaken id) s fun t => (t.stream id).sce.nextIn = (s.stream id).sce.nextIn + 1 ∧ (t.stream id).sce.started = true ∧
      (s.sget F.SCE_SLIVE1_KEYPEND id = 1 ∨ (s.stream id).sce.started = false →
        t.sget F.SCE_SLIVE1_KEYPEND id = 0 ∧ t.sget F.SCE_SLIVE1_SINCEKEY id = 0)) ∧
  (∀ s id it, s.sceInput id = some it → s.isSceDec id = true → gives (.sceInputTaken id) s fun t =>
      (t.stream id).sce.nextIn = (s.stream id).sce.nextIn + 1 ∧
      (t.stream id).sce.queue.length = (s.stream id).sce.queue.length + 1) ∧
  (∀ s k h id p, s.isOn .sce k = true → (s.tile k).sceBusy = none → sceReady s k = some (id, p) → s.isSceEnc id = true →
    sceNeed true p.set 0 0 ≤ s.sget F.SCE_SW6_POOLN id → s.inputPoisoned id p = false → gives (.scePictureStart k h) s fun t =>
      (t.tile k).sceBusy = some id ∧ t.get F.SCE_STAT_BUSY k 0 = 1 ∧
      (∃ r, (t.stream id).sce.run = some r ∧ r.n = p.n ∧ r.frame = ((s.stream id).sce.nextFrame + 1) % 2 ^ 32) ∧
      t.sget F.SCE_SLIVE0_FRAME id = ((s.stream id).sce.nextFrame + 1) % 2 ^ 32 ∧ sameMem s t) ∧
  (∀ s k h id p, s.isOn .sce k = true → (s.tile k).sceBusy = none → sceReady s k = some (id, p) → s.isSceEnc id = false →
    s.shadowed id sceRegs = [] → h.supported = true → h.existing = none → h.kind ≠ .rasl ∨ (s.stream id).sce.skipRasl = false →
    s.sget F.SCE_SLIVE1_REFUSED id = 0 ∨ h.key = true → s.sceSuffices id h = true → gives (.scePictureStart k h) s fun t =>
      (t.tile k).sceBusy = some id ∧ t.get F.SCE_STAT_BUSY k 0 = 1 ∧ t.sget F.SCE_SLIVE1_REFUSED id = 0 ∧
      t.sget F.SCE_SLIVE0_FRAME id = ((s.stream id).sce.nextFrame + 1) % 2 ^ 32 ∧
      (missingRefs (s.sceSet id).codec h (s.stream id).sce = true → t.sget F.SCE_SLIVE1_CONCEAL id = 1) ∧
      (∃ r, (t.stream id).sce.run = some r ∧ r.n = p.n ∧ r.hdr = some h ∧ r.frame = ((s.stream id).sce.nextFrame + 1) % 2 ^ 32) ∧
      sameMem s t) ∧
  (∀ s k h id p, s.isOn .sce k = true → (s.tile k).sceBusy = none → sceReady s k = some (id, p) → s.isSceEnc id = false →
    s.shadowed id sceRegs = [] → h.supported = false → gives (.scePictureStart k h) s fun t =>
      (t.tile k).sceBusy = none ∧ (t.stream id).sce.run = (s.stream id).sce.run ∧ t.get F.SCE_ERRSTAT_CODE k 0 = 1 ∧
      t.sget F.SCE_SLIVE1_REFUSED id = 1) ∧
  (∀ s k r id p, (s.tile k).sceBusy = some id → (s.stream id).sce.run = some p → gives (.scePictureDone k r) s fun t =>
      (t.tile k).sceBusy = none ∧ t.get F.SCE_STAT_BUSY k 0 = 0 ∧ (t.stream id).sce.run = none ∧
      (p.hdr = none → s.auFits id (codedUnit s id p).length = true →
        t.sget F.SCE_RCSTAT_LASTBYTES id = min (2 ^ 24 - 1) (codedUnit s id p).length)) ∧
  (∀ s q k kt ix, s.lands q k .SCE_SCMD 0 true = some (kt, ix) → kt < 64 → ix < 256 → s.isSceEnc (kt * 256 + ix) = true →
    gives (.sceKeyreq q k) s fun t => t.get F.SCE_SCMD_KEYREQ kt ix = 1 ∧ t.get F.SCE_SLIVE1_KEYPEND kt ix = 1 ∧
      t.get F.SCE_SCNT_REFCNT kt ix = min F.SCE_SCNT_REFCNT.maxVal (s.get F.SCE_SCNT_REFCNT kt ix + 1) ∧
      sameRegs [.SCE_SCMD, .SCE_SCNT, .SCE_SLIVE1] s t ∧ sameMem s t ∧ sameContexts s t) ∧
  (∀ s q k kt ix, s.lands q k .SCE_SCMD 0 true = some (kt, ix) → kt < 64 → ix < 256 → s.isSceEnc (kt * 256 + ix) = true →
    gives (.sceRcreset q k) s fun t => t.get F.SCE_SCMD_RCRESET kt ix = 1 ∧
      sameRegs [.SCE_SCMD] s t ∧ sameMem s t ∧ sameContexts s t)

/-- R393, R394, R400, R402 and R431; that a working store is read by the same command is the model's choice (log entry 150). -/
def Obligations.MemoryPortsReadAndWrite : Prop :=
  (∀ s q own a data ask pz, isHbm a = true → s.isDevice a data.length = true → s.epochOk own = true →
    gives (.hbmWrite q own a data ask pz) s fun t => t.bytes a data.length = data ∧ sameMemBut a data.length s t ∧
      (pz = true → t.poisonedIn a data.length = true) ∧ t.out = s.out ++ [.reply q 0 0] ∧
      sameRegs [.BAL_CLSCNT, .BAL_RMWCNT, .BAL_YSAVED, .YRD_FLIT, .MEM_WCINV] s t ∧ (∀ id, t.stream id = s.stream id) ∧ ∀ n, t.inst n = s.inst n) ∧
  (∀ s q own a data ask pz, isHbm a = true → s.isDevice a data.length = true → s.epochOk own = false →
    gives (.hbmWrite q own a data ask pz) s fun t => t.out = s.out ∧ sameRegs [] s t ∧ sameMem s t ∧ sameContexts s t) ∧
  (∀ s q own a n, isHbm a = true → s.isDevice a n = true → s.epochOk own = true → gives (.hbmRead q own a n .clean) s fun t =>
      t.out = s.out ++ [.data q a (s.bytes a n) (s.poisonedIn a n)] ∧ (requesterTile q = none → sameRegs [] s t) ∧
      sameRegs [.BAL_YSAVED, .YRD_FLIT] s t ∧ sameMem s t ∧ sameContexts s t) ∧
  (∀ s q own a n, isHbm a = true → s.isDevice a n = true → s.epochOk own = true → gives (.hbmRead q own a n .corrected) s fun t =>
      t.out = s.out ++ [.data q a (s.bytes a n) (s.poisonedIn a n)] ∧
      t.get F.MEM_HBMECC_CORR (s.hbmTile a) 0 = min 0xFFFF (s.get F.MEM_HBMECC_CORR (s.hbmTile a) 0 + 1) ∧
      sameRegs [.MEM_HBMECC, .BAL_YSAVED, .YRD_FLIT] s t ∧ sameMem s t ∧ sameContexts s t) ∧
  (∀ s p, gives (.hbmScrubPass p) s fun t =>
      t.get F.MEM_HBMSCRUB_PASSES (s.servingTile p) 0 = min 0xFFFFFFFF (s.get F.MEM_HBMSCRUB_PASSES (s.servingTile p) 0 + 1) ∧
      sameRegs [.MEM_HBMSCRUB] s t ∧ sameMem s t ∧ sameContexts s t) ∧
  (∀ s q own a n k, wsTile a = some k → s.isDevice a n = true → gives (.hbmRead q own a n .uncorrectable) s fun t =>
      t.poisoned a = true ∧ t.get F.MEM_WSECC_UNCORR k 0 = min 0xFFFF (s.get F.MEM_WSECC_UNCORR k 0 + 1) ∧
      t.get F.MEM_ERRSTAT_CODE k 0 = 1 ∧ t.get F.MEM_ERRSTAT_WHERE k 0 = a % wsSize / 16 ∧
      sameRegs [.MEM_WSECC, .MEM_ERRSTAT, .MEM_ERRCNT, .BAL_YSAVED, .YRD_FLIT] s t ∧ sameContexts s t)

/-- R403 to R405 and R417. -/
def Obligations.WeightCacheServesLines : Prop :=
  (∀ s k a l, s.ownerGone k = none → isHbm a = true → s.isDevice a 1 = true →
    (s.tile (s.wcTile a)).wc.find? (·.line == a / 256) = some l → l.filling = false → gives (.wcLineRead k a) s fun t =>
      t.out = s.out ++ [.line k (256 * (a / 256)) (s.bytes (256 * (a / 256)) 256) (s.poisonedIn (256 * (a / 256)) 256)] ∧
      sameRegs [.MEM_WCHIT, .BAL_YSAVED, .YRD_FLIT] s t ∧ sameMem s t ∧ sameContexts s t) ∧
  (∀ s k a l, s.ownerGone k = none → isHbm a = true → s.isDevice a 1 = true →
    (s.tile (s.wcTile a)).wc.find? (·.line == a / 256) = some l → l.filling = true → gives (.wcLineRead k a) s fun t =>
      (∃ m ∈ (t.tile (s.wcTile a)).wc, m.line = a / 256 ∧ m.waiters = l.waiters ++ [k]) ∧ t.out = s.out ∧
      sameRegs [.MEM_WCMISS] s t ∧ sameMem s t) ∧
  (∀ s k a, s.ownerGone k = none → isHbm a = true → s.isDevice a 1 = true →
    (s.tile (s.wcTile a)).wc.find? (·.line == a / 256) = none → gives (.wcLineRead k a) s fun t =>
      (∃ m ∈ (t.tile (s.wcTile a)).wc, m.line = a / 256 ∧ m.filling = true ∧ m.waiters = [k]) ∧ t.out = s.out ∧
      sameRegs [.MEM_WCMISS] s t ∧ sameMem s t) ∧
  (∀ s a l, (s.tile (s.wcTile a)).wc.find? (fun l => l.line == a / 256 && l.filling) = some l → gives (.wcFillDone a true) s fun t =>
      (∀ m ∈ (t.tile (s.wcTile a)).wc, m.line = a / 256 → m.filling = false ∧ m.waiters = []) ∧ sameMem s t) ∧
  (∀ s a l, (s.tile (s.wcTile a)).wc.find? (fun l => l.line == a / 256 && l.filling) = some l → gives (.wcFillDone a false) s fun t =>
      (∀ m ∈ (t.tile (s.wcTile a)).wc, m.line = a / 256 → m.refetch = true) ∧ sameRegs [] s t ∧ sameMem s t) ∧
  (∀ s q k kt x, s.lands q k .MEM_WCCTL 0 true = some (kt, x) → gives (.wcInvall q k) s fun t =>
      (t.tile kt).wc = (s.tile kt).wc.filter (·.filling) ∧ t.get F.MEM_WCCTL_INVALL kt 0 = 0 ∧
      sameRegs [.MEM_WCCTL] s t ∧ sameMem s t ∧ (∀ id, t.stream id = s.stream id) ∧ ∀ n, t.inst n = s.inst n)

namespace Sys2Proof.Say

/-- The label bindings that the table in memory gives (R182). -/
def labelTable (s : State) : List LblBind :=
  ((s.table (s.base40 F.LNK_LBLBASE_LO_BASE_LO F.LNK_LBLBASE_HI_BASE_HI paddockTile 0) 32).filterMap fun e =>
    s.lblEntry e.1 e.2).filterMap Except.toOption

/-- The publish channels that the table in memory gives, each with the sequence number it had (R367). -/
def pubTable (s : State) : List PubChan :=
  (((s.table (s.base40 F.LNK_PUBBASE_LO_BASE_LO F.LNK_PUBBASE_HI_BASE_HI pkgTile 0) 32).filter fun e =>
    bitOf (beAt e.2 2 1) 0).map fun e => pubEntry e.1 e.2).filterMap fun e =>
      e.toOption.map fun x => { x with seq := (s.pkg.pubs.find? (·.ix == x.ix)).elim 0 (·.seq) }

/-- The Movon peers that the table in memory gives; one whose entry reads as before keeps its links (R375). -/
def peerTable (s : State) : List (Nat × MvPeer) :=
  (s.table (s.base40 F.LNK_MVPEER_LO_BASE_LO F.LNK_MVPEER_HI_BASE_HI pkgTile 0) 128).filterMap fun e =>
    (peerEntry e.1 e.2).bind fun r => r.toOption.map fun x => (e.1, (s.peer e.1).keep x)

end Sys2Proof.Say

/-- R182, R367 and R375: the tables. -/
def Obligations.TablesAreReadWhenEnabledOrReloaded : Prop :=
  (∀ s q kt x, s.lands q paddockTile .LNK_LBLCTL 0 true = some (kt, x) → gives (.labelEnable q) s fun t =>
    t.get F.LNK_LBLCTL_EN kt 0 = 1 ∧ sameMem s t ∧ sameContexts s t ∧
    (s.get F.LNK_LBLCTL_EN kt 0 = 0 → t.pkg.lbls = labelTable s) ∧ (s.get F.LNK_LBLCTL_EN kt 0 = 1 → t.pkg.lbls = s.pkg.lbls)) ∧
  (∀ s q kt x, s.lands q paddockTile .LNK_LBLCTL 0 true = some (kt, x) → gives (.labelReload q) s fun t =>
    t.get F.LNK_LBLCTL_EN kt 0 = s.get F.LNK_LBLCTL_EN kt 0 ∧ t.pkg.lbls = labelTable s ∧ sameMem s t ∧ sameContexts s t) ∧
  (∀ s q kt x, s.lands q s.bootTile .LNK_PUBCTL 0 true = some (kt, x) → gives (.pubEnable q) s fun t =>
    t.get F.LNK_PUBCTL_EN kt 0 = 1 ∧ sameMem s t ∧ sameContexts s t ∧
    (s.get F.LNK_PUBCTL_EN kt 0 = 0 → t.pkg.pubs = pubTable s) ∧ (s.get F.LNK_PUBCTL_EN kt 0 = 1 → t.pkg.pubs = s.pkg.pubs)) ∧
  (∀ s q kt x, s.lands q s.bootTile .LNK_PUBCTL 0 true = some (kt, x) → gives (.pubReload q) s fun t =>
    t.get F.LNK_PUBCTL_EN kt 0 = s.get F.LNK_PUBCTL_EN kt 0 ∧ t.pkg.pubs = pubTable s ∧ sameMem s t ∧ sameContexts s t) ∧
  (∀ s q kt x, s.lands q s.bootTile .LNK_MVCFG 0 true = some (kt, x) → gives (.movonEnable q) s fun t =>
    t.get F.LNK_MVCFG_EN kt 0 = 1 ∧ t.get F.LNK_MVCFG_E2E kt 0 = s.get F.LNK_MVCFG_E2E kt 0 ∧
    t.get F.LNK_MVCFG_UDPPORT kt 0 = s.get F.LNK_MVCFG_UDPPORT kt 0 ∧ sameMem s t ∧ sameContexts s t ∧
    (s.get F.LNK_MVCFG_EN kt 0 = 0 → t.pkg.peers = peerTable s) ∧ (s.get F.LNK_MVCFG_EN kt 0 = 1 → t.pkg.peers = s.pkg.peers)) ∧
  (∀ s q kt x, s.lands q s.bootTile .LNK_MVCFG 0 true = some (kt, x) → gives (.movonReload q) s fun t =>
    t.get F.LNK_MVCFG_EN kt 0 = s.get F.LNK_MVCFG_EN kt 0 ∧ t.pkg.peers = peerTable s ∧ sameMem s t ∧ sameContexts s t)

/-- R181 to R184 and R368. -/
def Obligations.PaddockFramesGiveLabels : Prop :=
  (∀ s tu tid sv u fc a n, s.isOn .lnk paddockTile = true → s.padLock = true → s.get F.LNK_LBLCTL_EN paddockTile 0 = 1 →
    gives (.paddockFrameRx true (.modbusReq tu tid sv u fc a n)) s fun t =>
      (⟨tu, tid, sv, u, fc, a, n, false⟩ : MbReq) ∈ t.pkg.mbs ∧
      t.get F.LNK_LBLCNT0_UNMATCHED paddockTile 0 = (if s.modbusBound sv u fc a n = true then s.get F.LNK_LBLCNT0_UNMATCHED paddockTile 0
        else min F.LNK_LBLCNT0_UNMATCHED.maxVal (s.get F.LNK_LBLCNT0_UNMATCHED paddockTile 0 + 1)) ∧
      t.get F.LNK_LBLCNT0_LABELS paddockTile 0 = s.get F.LNK_LBLCNT0_LABELS paddockTile 0 ∧
      sameRegs [.LNK_LBLCNT0] s t ∧ sameMem s t ∧ sameContexts s t) ∧
  (∀ s tu tid sv u fc regs m e b raw isb, s.isOn .lnk paddockTile = true → s.padLock = true → s.get F.LNK_LBLCTL_EN paddockTile 0 = 1 →
    s.pkg.mbs.find? (fun m => m.tuple == tu && m.tid == tid) = some m → m.answered = false → regs.length = m.count →
    s.modbusLabels m sv u fc regs = [(e, raw, isb)] → s.pkg.lbls.find? (·.ix == e.ix) = some b →
    s.inDev b.inst (b.ring + 16 * (b.seq % (b.pages * 256))) 16 = true →
    gives (.paddockFrameRx true (.modbusRsp tu tid sv u fc false regs)) s fun t =>
      let r := labelRecord s.now (lblValue b raw) b.seq b.ix isb
      t.bytes (b.ring + 16 * (b.seq % (b.pages * 256))) 16 = r ∧ sameMemBut (b.ring + 16 * (b.seq % (b.pages * 256))) 16 s t ∧
      t.get F.LNK_LBLCNT0_LABELS paddockTile 0 = min 0xFFFF (s.get F.LNK_LBLCNT0_LABELS paddockTile 0 + 1) ∧
      ∀ x ∈ t.pkg.mbs, x.tuple = tu → x.tid = tid → x.answered = true) ∧
  (∀ s, s.isOn .lnk paddockTile = true → s.padLock = true → s.get F.LNK_LBLCTL_EN paddockTile 0 = 1 →
    gives (.paddockFrameRx true .secured) s fun t =>
      t.get F.LNK_LBLCNT1_SECURED paddockTile 0 = min 0xFFFF (s.get F.LNK_LBLCNT1_SECURED paddockTile 0 + 1) ∧
      sameRegs [.LNK_LBLCNT1] s t ∧ sameMem s t ∧ sameContexts s t) ∧
  (∀ s b, s.isOn .lnk paddockTile = true → s.padLock = true → gives (.paddockFrameRx false b) s fun t =>
      t.get F.LNK_RXDROP_COUNT paddockTile 0 = min 0xFFFFFFFF (s.get F.LNK_RXDROP_COUNT paddockTile 0 + 1) ∧
      t.get F.LNK_ERRSTAT_CODE paddockTile 0 = 1 ∧ sameRegs [.LNK_RXDROP, .LNK_ERRSTAT, .LNK_ERRCNT] s t ∧ sameMem s t) ∧
  (∀ s tu tid, gives (.modbusPairExpiry tu tid) s fun t =>
      t.pkg.mbs = s.pkg.mbs.filter (fun m => !(m.tuple == tu && m.tid == tid)) ∧ sameRegs [] s t ∧ sameMem s t ∧ sameContexts s t) ∧
  (∀ s lock, gives (.paddockLockChange lock) s fun t => t.get F.LNK_LANESTAT_LOCK paddockTile 0 = b2n lock ∧
      sameRegs [.LNK_LANESTAT] s t ∧ sameMem s t ∧ sameContexts s t)

namespace Sys2Proof.Say

/-- The corrected FEC codewords that `FECCNT.CORR`, in units of 256, does not show yet. -/
def fecRest (s : State) (k : Nat) : Nat := mapGet RegKey.code 0 s.resid ⟨.LNK_FECCNT, k, b2n (F.LNK_FECCNT_CORR.lo != 0)⟩

end Sys2Proof.Say

/-- R346 to R354, R387 and R488; that FEC codewords come with a frame is the model's choice (log entry 151). -/
def Obligations.PortsAndClockMessages : Prop :=
  (∀ s p, s.portInService p = true → s.isOn .lnk (s.portTile p) = true → gives (.portLinkUp p) s fun t =>
    t.portUp p = true ∧ sameRegs [.LNK_LANESTAT] s t ∧ sameMem s t ∧ sameContexts s t) ∧
  (∀ s p, s.portInService p = true → gives (.portLinkDown p) s fun t => t.portUp p = false ∧
    ((∀ r ∈ s.pkg.peers, ∀ c ∈ r.2.paths, c.port ≠ p) → sameRegs [.LNK_LANESTAT] s t ∧ sameMem s t ∧ sameContexts s t)) ∧
  (∀ s f, s.portUp f.port = true → f.pause = true → gives (.ethFrameRx f) s fun t =>
    t.get F.LNK_RXDROP_COUNT (s.portTile f.port) 0 = min 0xFFFFFFFF (s.get F.LNK_RXDROP_COUNT (s.portTile f.port) 0 + 1) ∧
    t.get F.LNK_FECCNT_CORR (s.portTile f.port) 0 = (if f.fecCorr = 0 then s.get F.LNK_FECCNT_CORR (s.portTile f.port) 0
      else min 0xFFFF (s.get F.LNK_FECCNT_CORR (s.portTile f.port) 0 + (fecRest s (s.portTile f.port) + f.fecCorr) / 256)) ∧
    t.get F.LNK_FECCNT_UNCORR (s.portTile f.port) 0 = min 0xFFFF (s.get F.LNK_FECCNT_UNCORR (s.portTile f.port) 0 + f.fecBad) ∧
    (f.fecBad ≠ 0 → t.get F.LNK_ERRSTAT_CODE (s.portTile f.port) 0 = 2) ∧
    sameRegs [.LNK_RXDROP, .LNK_FECCNT, .LNK_ERRSTAT, .LNK_ERRCNT] s t ∧ sameMem s t ∧ sameContexts s t) ∧
  (∀ s f, s.portUp f.port = true → f.pause = false →
    f.good = false ∨ f.len < 64 ∨ 9216 < f.len ∨ f.fragment = true ∨ f.sumOk = false → gives (.ethFrameRx f) s fun t =>
      t.get F.LNK_RXDROP_COUNT (s.portTile f.port) 0 = min 0xFFFFFFFF (s.get F.LNK_RXDROP_COUNT (s.portTile f.port) 0 + 1) ∧
      t.get F.LNK_ERRSTAT_ERR (s.portTile f.port) 0 = 1 ∧ t.get F.LNK_ERRSTAT_CODE (s.portTile f.port) 0 = 1 ∧
      sameRegs [.LNK_RXDROP, .LNK_ERRSTAT, .LNK_ERRCNT, .LNK_FECCNT] s t ∧ sameMem s t ∧ sameContexts s t) ∧
  (∀ s p v n, s.portUp p = true → 64 ≤ n → n ≤ 9216 → (s.iface p v).isSome = true →
    gives (.ethFrameRx { port := p, len := n, vlan := v, body := .service }) s fun t =>
      t.out = s.out ++ [.answer p v] ∧ sameRegs [] s t ∧ sameMem s t ∧ sameContexts s t) ∧
  (∀ s ofs n, s.portUp s.ptpPort = true → 64 ≤ n → n ≤ 9216 → s.ptpRole = ptpSlave →
    gives (.ethFrameRx { port := s.ptpPort, len := n, vlan := s.get F.LNK_PTPCFG_VLAN pkgTile 0,
                         body := .ptpOffset (s.get F.LNK_PTPCFG_DOMAIN pkgTile 0) ofs }) s fun t =>
      t.get F.LNK_PTPOFS_OFS pkgTile 0 = sat32 ofs % 2 ^ 32 ∧
      (ofs.natAbs ≤ 1000000 → t.now = s.now ∧ t.pkg.ptpSlew = ofs ∧ sameRegs [.LNK_PTPOFS, .LNK_PTPSTAT] s t ∧ sameContexts s t) ∧
      (1000000 < ofs.natAbs → t.now = (((s.now : Int) - ofs) % 2 ^ 64).toNat ∧ t.pkg.ptpSlew = 0 ∧
        t.get F.LNK_PTPSTAT_STEPPED pkgTile 0 = 1 ∧
        ∀ k, k < 64 → s.now < s.wakeTime k → s.wakeTime k ≤ t.now → s.wakeTime k ≠ 2 ^ 64 - 1 →
          t.wakeTime k = 2 ^ 64 - 1 ∧ (s.slp k = slpStopped → t.slp k = slpWaking)) ∧
      (10000 < ofs.natAbs → t.get F.LNK_PTPSTAT_LOCKED pkgTile 0 = 0) ∧
      (ofs.natAbs ≤ 1000 → 15 ≤ s.pkg.ptpGood → t.get F.LNK_PTPSTAT_LOCKED pkgTile 0 = 1) ∧ sameMem s t) ∧
  (∀ s, s.ptpRole = ptpSlave → gives .ptpSyncLoss s fun t => t.get F.LNK_PTPSTAT_LOCKED pkgTile 0 = 0 ∧ t.pkg.ptpGood = 0 ∧
    t.now = s.now ∧ sameRegs [.LNK_PTPSTAT] s t ∧ sameMem s t ∧ sameContexts s t) ∧
  (∀ s, s.portUp s.ptpPort = true → s.ptpRole = ptpMaster ∨ s.ptpRole = ptpSlave → gives .ptpMessageInterval s fun t =>
    (let say (kind : Nat) : Emission :=
      .ptp s.ptpPort kind (s.get F.LNK_PTPCFG_DOMAIN pkgTile 0) (s.get F.LNK_PTPCFG_TRANSPORT pkgTile 0)
    t.out = s.out ++ if s.ptpRole = ptpMaster then [say 3, say 0] else [say 1]) ∧ sameRegs [] s t ∧ sameMem s t ∧ sameContexts s t)

/-- R356 to R359 and R366. -/
def Obligations.IngestUnitsOpenAndClose : Prop :=
  (∀ s p v d n pt seq ts ssrc parts id, s.portUp p = true → 64 ≤ n → n ≤ 9216 →
    s.flowOf p v d (.rtpVideo pt seq ts ssrc false parts) = some id → (s.stream id).ing.flow = 1 →
    s.isOn .ing (s.portTile p) = true → s.sget F.ING_SW0_IKIND id ≤ 1 → s.sget F.ING_SW1_PT id = pt →
    (s.stream id).ing.units = [] → (s.stream id).ing.closed = none →
    gives (.ethFrameRx { port := p, len := n, vlan := v, body := .udp d (.rtpVideo pt seq ts ssrc false parts) }) s fun t =>
      (∃ u, (t.stream id).ing.units = [u] ∧ u.key = ts ∧ u.seq0 = seq ∧ u.pkts = [seq] ∧ u.ptime = s.now ∧
        u.nals.map (·.data) = parts.map (·.data)) ∧
      sameRegs [] s t ∧ sameMem s t ∧ (∀ j, t.inst j = s.inst j) ∧ ∀ k, t.tile k = s.tile k) ∧
  (∀ s id, (s.stream id).ing.units ≠ [] → gives (.ingestAuwaitExpiry id) s fun t =>
    (t.stream id).ing.units.length + 1 = (s.stream id).ing.units.length ∧
    t.sget F.ING_SLIVE0_UNITS id = (s.sget F.ING_SLIVE0_UNITS id + 1) % 2 ^ 32) ∧
  (∀ s id, s.isOpen id = true → (s.stream id).ing.flow = 1 → s.sget F.ING_SW0_IKIND id ≤ 1 ∨ s.sget F.ING_SW0_IKIND id = 3 →
    s.portUp (s.sget F.ING_SW0_PORT id) = true → gives (.rtcpRrTimer id) s fun t =>
      t.out = s.out ++ [.rtcp id 0] ∧ sameRegs [] s t ∧ sameMem s t ∧ sameContexts s t)

/-- R33, R320, R371, R372 and R423. -/
def Obligations.HostLinkAndReads : Prop :=
  (∀ s g w v, s.get F.MGT_PARTID_TILES_OK pkgTile 0 = 0 ∨ s.inService pcieTile = true → gives (.pcieLinkUp g w v) s fun t => t.get F.LNK_PCISTAT_DLUP pcieTile 0 = 1 ∧
    t.get F.LNK_PCISTAT_GEN pcieTile 0 = g % 2 ^ 4 ∧ t.get F.LNK_PCISTAT_WIDTH pcieTile 0 = w % 2 ^ 8 ∧
    t.get F.LNK_PCISTAT_NUMVF pcieTile 0 = v % 2 ^ 16) ∧
  (∀ s, s.wf = true → gives .pcieLinkDown s fun t => t.get F.LNK_PCISTAT_DLUP pcieTile 0 = 0 ∧ ∀ k, ∀ x ∈ (t.tile k).xfers, x.host = false) ∧
  (∀ s, s.wf = true → gives .perstAssert s fun t => t.get F.LNK_PCISTAT_DLUP pcieTile 0 = 0 ∧ t.get F.LNK_PCISTAT_NUMVF pcieTile 0 = 0 ∧
    (∀ k, ∀ x ∈ (t.tile k).xfers, x.host = false) ∧
    ∀ k r, k < 64 → r < 4 → ((s.tile k).sqRing.getD r {}).on = true → isHost ((s.tile k).sqRing.getD r {}).base = true →
      t.get F.SMV_SQCFG_EN k r = 0 ∧ ((t.tile k).sqRing.getD r {}).on = false) ∧
  (∀ s k, 1 ≤ k → k ≤ 64 → s.instState (instOfVf k) = instActive → gives (.pcieFlr k) s fun t =>
    t.instState (instOfVf k) = instResetting ∧ (t.inst (instOfVf k)).flr = true ∧
    ∀ e, e < 4 → t.reg .LNK_HWE_LO pcieTile (fnOf (instOfVf k) * 4 + e) = 0 ∧ t.reg .LNK_HWE_HI pcieTile (fnOf (instOfVf k) * 4 + e) = 0) ∧
  (∀ s k, 1 ≤ k → k ≤ 64 → s.instState (instOfVf k) = instFree → gives (.pcieFlr k) s fun t => t.out = s.out ++ [.flrDone k] ∧
    sameRegs [.LNK_HWE_LO, .LNK_HWE_HI] s t ∧ sameMem s t ∧ sameContexts s t) ∧
  (∀ s k tag x data pz, s.hostRead k tag = some x → data.length = x.len → x.q < ringQueue 0 → x.fetch = false → x.write = false →
    s.stale x.inst x.epoch = false → gives (.hostReadCompletion k tag data pz) s fun t =>
      (∀ y ∈ (t.tile k).xfers, y.tag ≠ x.tag) ∧
      (∀ i ∈ (s.tile k).items, i.q = x.q → i.slot = x.slot →
        ∃ y ∈ (t.tile k).items, y.q = x.q ∧ y.slot = x.slot ∧ ∃ e ∈ y.got, e.off = x.off ∧ e.data = data) ∧
      sameRegs [.SMV_TAGS] s t ∧ sameMem s t) ∧
  (∀ s k tag x, s.hostRead k tag = some x → x.q < ringQueue 0 → x.fetch = false → x.write = false → s.stale x.inst x.epoch = false →
    gives (.hostReadTimeout k tag) s fun t => (∀ y ∈ (t.tile k).xfers, y.tag ≠ x.tag) ∧
      ∀ y ∈ (t.tile k).items, ¬ (y.q = x.q ∧ y.slot = x.slot))

namespace Sys2Proof.Say

/-- The command of a received frame's type (R374). -/
def movonCmd (f : MvFrame) : Instr :=
  if f.mtype = mtReq then .movonReqRx f else if f.mtype = mtCpl then .movonCplRx f else if f.mtype = mtOsf then .movonOsfRx f
  else if f.mtype = mtWrite then .movonWriteRx f else if f.mtype = mtResp then .movonRespRx f else if f.mtype = mtLate then .movonLateRx f
  else if f.mtype = mtDir then .movonDirRx f else if f.mtype = mtProbe then .movonProbeRx f else .movonLinkackRx f

/-- A path of a peer. -/
def link (s : State) (e p : Nat) : MvLink := (s.peer e).links.getD p {}

/-- The frame comes on path `p` of its peer, and passes R381. -/
def comesOn (s : State) (f : MvFrame) (p : Nat) : Prop :=
  s.portUp f.port = true ∧ s.stage = 9 ∧ s.movonTakes f = some p ∧ p < (s.peer f.src).links.length

/-- The frame is the next of its path, on which none is held. -/
def nextOn (s : State) (f : MvFrame) (p : Nat) : Prop :=
  comesOn s f p ∧ lseqDist (link s f.src p).rx f.lseq = 0 ∧ (link s f.src p).held = []

/-- The frame is the next of its path, and holds a whole message that its peer has not sent before. -/
def wholeNext (s : State) (f : MvFrame) (p : Nat) : Prop :=
  nextOn s f p ∧ f.foff = 0 ∧ f.payload.length = f.msglen ∧ (s.peer f.src).seen.find? (·.1 == f.msgid) = none

/-- The message of the frame was answered with a status: its `RESP` is kept for duplicates. -/
def answered (t : State) (f : MvFrame) (st : Nat) : Prop :=
  ∃ more, (f.msgid, toLe 4 f.msgid ++ toLe 2 st ++ [0, 0] ++ more) ∈ (t.peer f.src).seen

end Sys2Proof.Say

/-- covers: movonReqRx movonCplRx movonOsfRx movonWriteRx movonRespRx movonLateRx movonDirRx movonProbeRx movonLinkackRx.
R376, R378 and R381. -/
def Obligations.MovonFramesReachTheirPaths : Prop :=
  (∀ s f, s.portUp f.port = true → s.stage = 9 → s.get F.LNK_MVCFG_EN pkgTile 0 = 1 → s.movonTakes f = none → 1 ≤ f.mtype → f.mtype ≤ 9 →
    gives (movonCmd f) s fun t =>
      t.get F.LNK_RXDROP_COUNT (s.portTile f.port) 0 = min 0xFFFFFFFF (s.get F.LNK_RXDROP_COUNT (s.portTile f.port) 0 + 1) ∧
      t.get F.LNK_ERRSTAT_ERR (s.portTile f.port) 0 = 1 ∧ t.get F.LNK_ERRSTAT_CODE (s.portTile f.port) 0 = 4 ∧
      sameRegs [.LNK_RXDROP, .LNK_ERRSTAT, .LNK_ERRCNT] s t ∧ sameMem s t ∧ sameContexts s t) ∧
  (∀ s f p, nextOn s f p → f.mtype ≠ mtProbe → f.mtype ≠ mtLinkAck → gives (movonCmd f) s fun t =>
      (link t f.src p).rx = ((link s f.src p).rx + 1) % 2 ^ 32) ∧
  (∀ s f p, comesOn s f p → f.mtype ≠ mtProbe → f.mtype ≠ mtLinkAck → lseqDist (link s f.src p).rx f.lseq ≠ 0 →
    lseqDist (link s f.src p).rx f.lseq < 2 ^ 31 → (link s f.src p).held.any (·.lseq == f.lseq) = false →
    gives (movonCmd f) s fun t => (link t f.src p).rx = (link s f.src p).rx ∧
      (link t f.src p).held = (link s f.src p).held ++ [f] ∧ (∃ b, t.out = s.out ++ [.movon f.src p (s.pathVia f.src p) 0 b]) ∧ sameMem s t ∧ sameContexts s t) ∧
  (∀ s f p, comesOn s f p → f.mtype = mtProbe → gives (.movonProbeRx f) s fun t =>
      (link t f.src p).rx = f.lseq ∧ (link t f.src p).held = [] ∧
      (∃ b, t.out = s.out ++ [.movon f.src p (s.pathVia f.src p) 0 b]) ∧ sameRegs [.LNK_LRETRY] s t ∧ sameMem s t ∧ sameContexts s t) ∧
  (∀ s f p, comesOn s f p → f.mtype = mtLinkAck → bitOf f.flags 1 = false → gives (.movonLinkackRx f) s fun t =>
      (link t f.src p).up = true ∧
      (link t f.src p).unacked = (link s f.src p).unacked.filter (fun x =>
        !(decide (1 ≤ lseqDist x.lseq f.lack) && decide (lseqDist x.lseq f.lack < 2 ^ 31))) ∧
      t.out = s.out ∧ sameMem s t ∧ sameContexts s t) ∧
  (∀ s f p x, comesOn s f p → f.mtype = mtLinkAck → bitOf f.flags 1 = true →
    ((link s f.src p).unacked.filter fun x =>
      !(decide (1 ≤ lseqDist x.lseq f.lack) && decide (lseqDist x.lseq f.lack < 2 ^ 31))).find? (·.lseq == f.lack) = some x →
    gives (.movonLinkackRx f) s fun t => t.out = s.out ++ [.movon f.src p (s.pathVia f.src p) x.dscp x.bytes] ∧ (link t f.src p).up = true ∧ sameMem s t)

/-- R332, R337, R374, R382, R386 and R432. -/
def Obligations.MovonMessagesAct : Prop :=
  (∀ s f p, wholeNext s f p → f.mtype = mtReq → gives (.movonReqRx f) s fun t => answered t f 0) ∧
  (∀ s f p h b, wholeNext s f p → f.mtype = mtReq → parseReq f.payload (bitOf f.flags 0) = (opNop, h, b) →
    passes s (.movon f.src f.msgid) opNop h b → gives (.movonReqRx f) s fun t => recorded t h 0) ∧
  (∀ s f p, wholeNext s f p → f.mtype = mtCpl → gives (.movonCplRx f) s fun t =>
    t.pkg.cpls = s.pkg.cpls ++ [(f.src, Cpl.parse f.payload)] ∧ answered t f 0 ∧ sameMem s t) ∧
  (∀ s f p, wholeNext s f p → f.mtype = mtOsf → s.stale f.inst f.epoch = false → s.isOpen f.stream = true →
    (s.stream f.stream).inst = f.inst → bitOf (s.stream f.stream).stages stLsc = true → gives (.movonOsfRx f) s fun t => answered t f 0) ∧
  (∀ s f p, wholeNext s f p → f.mtype = mtOsf → s.stale f.inst f.epoch = true → gives (.movonOsfRx f) s fun t =>
    answered t f 0x0401 ∧ sameMem s t ∧ ∀ id, t.stream id = s.stream id) ∧
  (∀ s f p, wholeNext s f p → f.mtype = mtWrite → s.writeStatus f f.payload = 0 → isHost (leAt f.payload 0 8) = false →
    gives (.movonWriteRx f) s fun t => t.bytes (leAt f.payload 0 8) (f.payload.length - 8) = f.payload.drop 8 ∧
      sameMemBut (leAt f.payload 0 8) (f.payload.length - 8) s t ∧ answered t f 0) ∧
  (∀ s f p, wholeNext s f p → f.mtype = mtWrite → s.writeStatus f f.payload ≠ 0 → gives (.movonWriteRx f) s fun t =>
      sameMem s t ∧ answered t f (s.writeStatus f f.payload)) ∧
  (∀ s f p i, wholeNext s f p → f.mtype = mtLate → s.stale (Cpl.parse f.payload).inst (Cpl.parse f.payload).epoch = false →
    s.isLive (Cpl.parse f.payload).stream = true →
    (s.tile (homeOf (Cpl.parse f.payload).stream)).xfers.find? (fun x => x.write && x.remote &&
      x.stream == (Cpl.parse f.payload).stream && x.addr == (Cpl.parse f.payload).digest) = some i →
    (∀ y ∈ (s.tile (homeOf (Cpl.parse f.payload).stream)).items, y.q = i.q → y.slot = i.slot → y.late = false) →
    gives (.movonLateRx f) s fun t => t.sget F.SMV_SLIVE0_FPW (Cpl.parse f.payload).stream = 1 ∧
      (∀ y ∈ (t.tile (homeOf (Cpl.parse f.payload).stream)).items, y.q = i.q → y.slot = i.slot → y.late = true) ∧ answered t f 0) ∧
  (∀ s f p n d st i, wholeNext s f p → f.mtype = mtDir → f.dir = some (.register n d st i) → s.isMaster = true →
    s.pkg.names.length < dirCapacity → gives (.movonDirRx f) s fun t =>
      t.pkg.names = s.pkg.names.filter (·.name != n) ++ [⟨n, d, st, i⟩] ∧ answered t f 0 ∧ sameMem s t) ∧
  (∀ s f p m, nextOn s f p → f.mtype = mtResp → (s.peer f.src).msgs.find? (·.id == leAt f.payload 0 4) = some m → m.ctx = .plain →
    s.stale m.inst m.epoch = false → gives (.movonRespRx f) s fun t =>
      (t.peer f.src).msgs = (s.peer f.src).msgs.filter (·.id != m.id) ∧ sameMem s t ∧ sameContexts s t) ∧
  (∀ s f p m k tag, nextOn s f p → f.mtype = mtResp → (s.peer f.src).msgs.find? (·.id == leAt f.payload 0 4) = some m →
    m.ctx = .xfer k tag → gives (.movonRespRx f) s fun t => ∀ y ∈ (t.tile k).xfers, y.tag ≠ tag)

namespace Sys2Proof.Say

/-- The link-transmit item that is sent next, and what it sends (R365). -/
def nextEgress (s : State) (k : Nat) : Option (Item × Egress) :=
  ((s.qItems k egressQueue).find? fun i => i.started && i.engine == engLink &&
    ((s.stream i.stream).egress.any fun e => e.slot == some i.slot && e.msg.isNone)).bind fun i =>
      ((s.stream i.stream).egress.find? (·.slot == some i.slot)).map fun e => (i, e)

end Sys2Proof.Say

/-- R365, R376 to R380 and R385. -/
def Obligations.MovonTimersAndTransmission : Prop :=
  (∀ s e p l x, (link s e p).unacked.find? (·.lseq == l) = some x → x.tries < 8 → p < (s.peer e).links.length →
    gives (.linkRetransmitTimeout e p l) s fun t => t.out = s.out ++ [.movon e p (s.pathVia e p) x.dscp x.bytes] ∧
      (link t e p).unacked = ((link s e p).unacked.map fun y => if y.lseq = l then { y with tries := y.tries + 1 } else y) ∧
      sameRegs [] s t ∧ sameMem s t ∧ sameContexts s t) ∧
  (∀ s e p l x, (link s e p).unacked.find? (·.lseq == l) = some x → 8 ≤ x.tries → p < (s.peer e).links.length → (s.peer e).kind ≠ 0 →
    gives (.linkRetransmitTimeout e p l) s fun t => (link t e p).up = false) ∧
  (∀ s e p, (link s e p).unacked.any (·.tries != 0) = true → p < (s.peer e).links.length → (s.peer e).kind ≠ 0 →
    gives (.linkRetryBudgetExpiry e p) s fun t => (link t e p).up = false) ∧
  (∀ s e p, (s.peer e).kind ≠ 0 → p < (s.peer e).paths.length → p < (s.peer e).links.length → (link s e p).up = false →
    s.portUp ((s.peer e).paths.getD p {}).port = true → gives (.pathProbeTimer e p) s fun t =>
      (link t e p).probes = (link s e p).probes + 1 ∧ (∃ b, t.out = s.out ++ [.movon e p (s.pathVia e p) 0 b]) ∧
      sameRegs [] s t ∧ sameMem s t ∧ sameContexts s t) ∧
  (∀ s e i m, (s.peer e).msgs.find? (·.id == i) = some m → (link s e m.path).unacked.any (·.tries != 0) = false → m.ctx = .plain →
    s.stale m.inst m.epoch = false → gives (.movonE2eExpiry e i) s fun t =>
      (t.peer e).msgs = (s.peer e).msgs.filter (·.id != m.id) ∧ sameRegs [] s t ∧ sameMem s t ∧ sameContexts s t) ∧
  (∀ s e i m k tag, (s.peer e).msgs.find? (·.id == i) = some m → (link s e m.path).unacked.any (·.tries != 0) = false →
    m.ctx = .xfer k tag → gives (.movonE2eExpiry e i) s fun t => ∀ y ∈ (t.tile k).xfers, y.tag ≠ tag) ∧
  (∀ s, s.get F.LNK_MVCFG_EN pkgTile 0 = 1 → s.isMaster = false → (s.peer s.pkg.masterDev).kind ≠ 0 →
    s.pathUp s.pkg.masterDev [] = none → gives .masterLossTimeout s fun t => t.get F.LNK_MVSTAT_NOMASTER pkgTile 0 = 1 ∧
      sameRegs [.LNK_MVSTAT] s t ∧ sameMem s t ∧ sameContexts s t) ∧
  (∀ s k i e, nextEgress s k = some (i, e) → s.sget F.LNK_SW0_EGKIND i.stream ≠ 0 →
    s.portUp (s.sget F.LNK_SW0_PORT i.stream) = true → (s.peer (s.sget F.LNK_SW0_PEER i.stream)).kind ≠ 0 →
    gives (.linkTransmitItem k) s fun t =>
      (∃ via d l, .rtp (s.sget F.LNK_SW0_PEER i.stream) (s.sget F.LNK_SW0_PORT i.stream) via (s.sget F.LNK_SW1_UDPPORT i.stream) d l
        ∈ t.out) ∧
      ∀ y ∈ (t.tile k).items, ¬ (y.q = egressQueue ∧ y.slot = i.slot)) ∧
  (∀ s k i e, nextEgress s k = some (i, e) → s.sget F.LNK_SW0_EGKIND i.stream = 0 →
    gather ((osfSplit e.bytes.length false false e.bytes).filterMap fun u => u.map (·.raw)) [] ≠ [] →
    (s.qItems k egressQueue).find? (·.slot == i.slot) = some i →
    s.pathUp (s.sget F.LNK_SW0_PEER i.stream) [] = none → gives (.linkTransmitItem k) s fun t =>
      t.sget F.LNK_SCNT_FAILED i.stream = min 0xFFFF (s.sget F.LNK_SCNT_FAILED i.stream +
        (gather ((osfSplit e.bytes.length false false e.bytes).filterMap fun u => u.map (·.raw)) []).length) ∧
      ∀ y ∈ (t.tile k).items, ¬ (y.q = egressQueue ∧ y.slot = i.slot)) ∧
  (∀ s k i e b p, nextEgress s k = some (i, e) → s.sget F.LNK_SW0_EGKIND i.stream = 0 → s.get F.LNK_MVCFG_EN pkgTile 0 = 1 →
    gather ((osfSplit e.bytes.length false false e.bytes).filterMap fun u => u.map (·.raw)) [] = [b] →
    (s.peer (s.sget F.LNK_SW0_PEER i.stream)).kind ≠ 0 → s.pathUp (s.sget F.LNK_SW0_PEER i.stream) [] = some p →
    gives (.linkTransmitItem k) s fun t => ∃ m, (t.peer (s.sget F.LNK_SW0_PEER i.stream)).msgs =
        (s.peer (s.sget F.LNK_SW0_PEER i.stream)).msgs ++ [m] ∧ m.payload = b ∧ m.mtype = mtOsf ∧ m.path = p ∧
        m.stream = s.sget F.LNK_SW1_DSTREAM i.stream ∧ m.ctx = .item k egressQueue i.slot ∧ sameMem s t)

/-- R411 to R415 and R418. -/
def Obligations.YardEdgesAndQuiesce : Prop :=
  (∀ s k p, s.portEdgeUp k p = true → gives (.yardFlitCrcFail k p) s fun t =>
    t.get F.YRD_REPLAY_COUNT k 0 = min 0xFFFFFFFF (s.get F.YRD_REPLAY_COUNT k 0 + 1) ∧
    sameRegs [.YRD_REPLAY] s t ∧ sameMem s t ∧ sameContexts s t) ∧
  (∀ s k p u e, neighbour k p = some u → edgeOf k p = some e → s.portEdgeUp k p = true → s.quiescing = false →
    gives (.yardReplayBudgetExpiry k p) s fun t =>
      t.portEdgeUp k p = false ∧ t.portEdgeUp u (farPort p) = false ∧ t.get F.YRD_ERRSTAT_CODE k 0 = 1 ∧
      t.get F.YRD_ERRSTAT_CODE u 0 = 1 ∧ t.pkg.yard.down = s.pkg.yard.down ++ [e] ∧ t.get F.YRD_QCTL_BUSY pkgTile 0 = 1 ∧
      t.pkg.held = true ∧ t.get F.PRT_ESC_EVT pkgTile 0 = 1 ∧ t.get F.PRT_ESC_SRC pkgTile 0 = 4 ∧
      t.get F.PRT_ESC_TILE pkgTile 0 = k ∧
      sameRegs [.YRD_STAT, .YRD_ERRSTAT, .YRD_ERRCNT, .YRD_QCTL, .PRT_ESC] s t ∧ sameMem s t ∧ sameContexts s t) ∧
  (∀ s q kt x, s.lands q s.bootTile .YRD_QCTL 0 true = some (kt, x) → s.quiescing = false → gives (.yardQuiesceReq q) s fun t =>
    t.get F.YRD_QCTL_BUSY pkgTile 0 = 1 ∧ t.pkg.held = true ∧ sameRegs [.YRD_QCTL] s t ∧ sameMem s t ∧ sameContexts s t) ∧
  (∀ s q kt x, s.lands q s.bootTile .YRD_QCTL 0 true = some (kt, x) → s.quiescing = true → gives (.yardQuiesceReq q) s fun t =>
    t.pkg.held = s.pkg.held ∧ t.pkg.yard = s.pkg.yard ∧ sameRegs [] s t ∧ sameMem s t ∧ sameContexts s t) ∧
  (∀ s, s.quiescing = true → s.pkg.yard.reached = false → gives .quiesceDrained s fun t => t.pkg.yard.reached = true ∧
    (∀ k, k < 64 → s.pkg.yard.routers.contains k = false → t.get F.YRD_STAT_IDLE k 0 = 1) ∧ (∀ k, ∀ l ∈ (t.tile k).wc, l.filling = true) ∧
    sameRegs [.YRD_STAT] s t ∧ sameMem s t ∧ (∀ id, t.stream id = s.stream id) ∧ ∀ n, t.inst n = s.inst n) ∧
  (∀ s bad, s.quiescing = true → s.pkg.yard.reached = true → gives (.quiesceDone bad) s fun t =>
    t.get F.YRD_QCTL_DONE pkgTile 0 = 1 ∧ t.pkg.yard.down = [] ∧
    t.pkg.yard.dead = s.pkg.yard.dead ++ ((bad.filterMap fun e => edgeOf e.1 e.2).dedup.filter s.pkg.yard.edgeUp) ∧
    (s.pkg.yard.again = false → t.get F.YRD_QCTL_BUSY pkgTile 0 = 0 ∧ t.pkg.held = s.pkg.drain) ∧
    (s.pkg.yard.again = true → t.get F.YRD_QCTL_BUSY pkgTile 0 = 1 ∧ t.pkg.held = true)) ∧
  (∀ s, s.quiescing = true → s.pkg.yard.reached = false → gives .quiesceTimeout s fun t => t.get F.YRD_QCTL_ESC pkgTile 0 = 1 ∧
    t.get F.YRD_QCTL_BUSY pkgTile 0 = 1 ∧ t.get F.YRD_ERRSTAT_CODE s.bootTile 0 = 2 ∧ t.get F.PRT_ESC_EVT pkgTile 0 = 1 ∧
    t.get F.PRT_ESC_SRC pkgTile 0 = 3 ∧ sameRegs [.YRD_QCTL, .YRD_ERRSTAT, .YRD_ERRCNT, .PRT_ESC] s t ∧ sameMem s t ∧ sameContexts s t) ∧
  (∀ s k, s.get F.PRT_TRST_BUSY k 0 = 1 → gives (.yardPacketAbsorb k none) s fun t =>
    t.get F.YRD_ABSORB_COUNT k 0 = min 0xFFFFFFFF (s.get F.YRD_ABSORB_COUNT k 0 + 1) ∧
    sameRegs [.YRD_ABSORB] s t ∧ sameMem s t ∧ sameContexts s t)

namespace Sys2Proof.Say

/-- Every tile in service is armed. -/
def allArmed (s : State) : Prop := ∀ k, k < 64 → s.inService k = true → s.get F.SNP_CTL_ARM k 0 = 1

end Sys2Proof.Say

/-- R499 to R503 and R512. -/
def Obligations.SnapshotsLatchTogether : Prop :=
  (∀ s, s.get F.SNP_SRC_PIN pkgTile 0 = 1 → s.pkg.snapT = none → allArmed s → gives .snapInEdge s fun t =>
    t.pkg.snapT = some (s.now + 2000) ∧ t.pkg.snapSrc = srcPin ∧ (∀ r k x, t.reg r k x = s.reg r k x) ∧ sameMem s t ∧ sameContexts s t) ∧
  (∀ s k, s.get F.SNP_SRC_PIN pkgTile 0 = 1 → s.pkg.snapT = none → k < 64 → s.inService k = true → s.get F.SNP_CTL_ARM k 0 = 0 →
    gives .snapInEdge s fun t => t.pkg.snapT = none ∧
      min 0xFFFF (s.get F.SNP_CNT_MISSED pkgTile 0 + 1) ≤ t.get F.SNP_CNT_MISSED pkgTile 0 ∧ sameRegs [] s t ∧ sameMem s t ∧ sameContexts s t) ∧
  (∀ s q kt x, s.lands q s.bootTile .SNP_TRIG 0 true = some (kt, x) → s.get F.SNP_SRC_WR pkgTile 0 = 1 → s.pkg.snapT = none → allArmed s →
    gives (.snapSwTrigger q) s fun t => t.pkg.snapT = some (s.now + 2000) ∧ t.pkg.snapSrc = srcWr ∧
      (∀ r k x, t.reg r k x = s.reg r k x) ∧ sameMem s t ∧ sameContexts s t) ∧
  (∀ s late T, s.pkg.snapT = some T → gives (.snapLatch late) s fun t =>
    (∀ k, k < 64 → s.inService k = true → t.get F.SNP_CTL_ARM k 0 = 0 ∧ t.get F.SNP_CTL_HELD k 0 = 1 ∧
      t.get F.SNP_CTL_LATE k 0 = b2n (late.contains k) ∧ t.get F.SNP_CTL_GATED k 0 = b2n (s.isGated k) ∧
      t.get F.SNP_LAST_LO_T k 0 = T % 2 ^ 32 ∧ t.get F.SNP_LAST_HI_T k 0 = T / 2 ^ 32 % 2 ^ 32 ∧
      t.get F.SNP_CAUSE_SRC k 0 = s.pkg.snapSrc % 2 ^ 4) ∧
    (s.wf = true → ∀ k, k < 64 → s.inService k = true → s.isGated k = false →
      t.hasCopy k = true ∧ ∀ r x, t.copied r k x = s.reg r k x) ∧
    min 0xFFFF (s.get F.SNP_CNT_LATCHES pkgTile 0 + 1) = t.get F.SNP_CNT_LATCHES pkgTile 0 ∧
    sameRegs [.SNP_CTL, .SNP_LAST_LO, .SNP_LAST_HI, .SNP_CAUSE, .MGT_SLPSTAT] s t ∧ sameMem s t ∧
    (∀ id, t.stream id = s.stream id) ∧ ∀ n, t.inst n = s.inst n) ∧
  (∀ s q k kt x v, s.lands q k .SNP_CTL 0 true = some (kt, x) → gives (.snapArm q k v) s fun t => t.get F.SNP_CTL_ARM kt 0 = 1 ∧
    t.get F.SNP_CTL_HELD kt 0 = 0 ∧ t.get F.SNP_CTL_LATE kt 0 = 0 ∧ t.get F.SNP_CTL_GATED kt 0 = 0 ∧ t.get F.SNP_CTL_VIEW kt 0 = b2n v ∧
    t.snap = s.snap ∧ sameRegs [.SNP_CTL] s t ∧ sameMem s t ∧ sameContexts s t) ∧
  (∀ s, gives .snapOutEnd s fun t => t.pkg.snapOut = false ∧ sameRegs [] s t ∧ sameMem s t ∧ sameContexts s t)

/-- R511 and R512. -/
def Obligations.DigestRingAndDebugWindow : Prop :=
  (∀ s q k kt ix v, s.lands q k .SNP_DGCFG 0 true = some (kt, ix) → BitVec.ofNat 32 v ≠ s.reg .SNP_DGCFG kt ix → bitOf v 0 = true →
    s.digestRingOk (kt * 256 + ix) (bitsOf v 31 16) = true → s.isLive (kt * 256 + ix) = false → gives (.digestCfgWrite q k v) s fun t =>
      t.get F.SNP_DGCFG_EN kt ix = 1 ∧ t.get F.SNP_DGCFG_PAGES kt ix = bitsOf v 31 16 ∧ sameMem s t) ∧
  (∀ s q k kt ix v, s.lands q k .SNP_DGCFG 0 true = some (kt, ix) → BitVec.ofNat 32 v ≠ s.reg .SNP_DGCFG kt ix → bitOf v 0 = true →
    s.digestRingOk (kt * 256 + ix) (bitsOf v 31 16) = false → gives (.digestCfgWrite q k v) s fun t =>
      t.get F.SNP_DGCFG_EN kt ix = 0 ∧ t.get F.SNP_REGERR_CAUSE (if kt = pkgTile then s.bootTile else kt) 0 = causeRange ∧ sameMem s t) ∧
  (∀ s q k kt x v, s.lands q k .SNP_DBGDATA 0 true = some (kt, x) → gives (.debugViewWrite q k (some v)) s fun t =>
      t.bytes (s.rawAddr kt) 4 = toLe 4 v ∧ sameMemBut (s.rawAddr kt) 4 s t ∧ t.get F.HSP_STAT_TAINT pkgTile 0 = 1 ∧
      t.get F.HSP_CNT_DBGWR pkgTile 0 = min 0xFFFF (s.get F.HSP_CNT_DBGWR pkgTile 0 + 1) ∧
      t.get F.SNP_DBGADDR_ADDR kt 0 = (s.get F.SNP_DBGADDR_ADDR kt 0 + 1) % 2 ^ 24 ∧
      sameRegs [.SNP_DBGDATA, .SNP_DBGADDR, .HSP_STAT, .HSP_CNT] s t ∧ sameContexts s t) ∧
  (∀ s k, s.inService k = true → s.haspScope 0 = true → gives (.debugViewWrite .jtag k none) s fun t =>
      t.get F.HSP_STAT_TAINT pkgTile 0 = 1 ∧ sameRegs [.HSP_STAT, .HSP_CNT] s t ∧ sameMem s t ∧ sameContexts s t) ∧
  (∀ s q k kt x, s.lands q k .SNP_DBGDATA 0 false = some (kt, x) → gives (.dbgWindowRead q k) s fun t =>
      t.out = s.out ++ [.reply q (leAt (s.bytes (s.rawAddr kt) 4) 0 4) 0] ∧
      t.get F.SNP_DBGADDR_ADDR kt 0 = (s.get F.SNP_DBGADDR_ADDR kt 0 + 1) % 2 ^ 24 ∧
      sameRegs [.SNP_DBGDATA, .SNP_DBGADDR] s t ∧ sameMem s t ∧ sameContexts s t)

/-- R505 to R510. -/
def Obligations.HaspOpensAndCloses : Prop :=
  (∀ s q kt x, s.lands q s.bootTile .HSP_CMD 0 true = some (kt, x) → gives (.haspChallenge q) s fun t => t.pkg.hasp.nonce = true ∧
    t.draws = s.draws + 1 ∧ (∀ i, i < 4 → t.get F.HSP_NONCE_NONCE pkgTile i = leAt (Config.nonce s.draws) (4 * i) 4 % 2 ^ 32) ∧
    sameRegs [.HSP_NONCE] s t ∧ sameMem s t ∧ sameContexts s t) ∧
  (∀ s q kt x, s.lands q s.bootTile .HSP_CMD 0 true = some (kt, x) → s.lockedOut = false → s.responseOk = true →
    gives (.haspSubmit q) s fun t => t.get F.HSP_STAT_OPEN pkgTile 0 = 1 ∧ t.get F.HSP_STAT_SCOPE pkgTile 0 = s.get F.HSP_REQ_SCOPE pkgTile 0 ∧
      t.get F.HSP_STAT_REMAIN pkgTile 0 = s.get F.HSP_REQ_MINUTES pkgTile 0 % 2 ^ 11 ∧ t.get F.HSP_STAT_FAILS pkgTile 0 = 0 ∧
      t.get F.HSP_LAST_STATUS pkgTile 0 = 0 ∧ t.pkg.hasp.nonce = false ∧
      t.pkg.hasp.until_ = s.aon + s.get F.HSP_REQ_MINUTES pkgTile 0 * minNs ∧ (∀ i, i < 16 → t.get F.HSP_PW_PW pkgTile i = 0) ∧
      (∀ i, i < 8 → t.get F.HSP_RESP_MAC pkgTile i = 0) ∧
      sameRegs [.HSP_STAT, .HSP_LAST, .HSP_RESP, .HSP_PW] s t ∧ sameMem s t ∧ sameContexts s t) ∧
  (∀ s q kt x, s.lands q s.bootTile .HSP_CMD 0 true = some (kt, x) → s.lockedOut = false → s.responseOk = false →
    gives (.haspSubmit q) s fun t => t.get F.HSP_STAT_OPEN pkgTile 0 = s.get F.HSP_STAT_OPEN pkgTile 0 ∧
      t.get F.HSP_STAT_FAILS pkgTile 0 = min 15 (s.get F.HSP_STAT_FAILS pkgTile 0 + 1) ∧ t.get F.HSP_LAST_STATUS pkgTile 0 = 0x0502 ∧
      (4 ≤ s.get F.HSP_STAT_FAILS pkgTile 0 + 1 → t.lockedOut = true) ∧
      sameRegs [.HSP_STAT, .HSP_LAST, .HSP_RESP, .HSP_PW] s t ∧ sameMem s t ∧ sameContexts s t) ∧
  (∀ s q kt x, s.lands q s.bootTile .HSP_CMD 0 true = some (kt, x) → s.lockedOut = true → gives (.haspSubmit q) s fun t =>
      t.get F.HSP_LAST_STATUS pkgTile 0 = 0x0502 ∧ sameRegs [.HSP_LAST] s t ∧ sameMem s t ∧ sameContexts s t) ∧
  (∀ s q kt x, s.lands q s.bootTile .HSP_CMD 0 true = some (kt, x) → s.lockedOut = false → s.passwordOk = true →
    gives (.haspPwSubmit q) s fun t => t.get F.HSP_STAT_OPEN pkgTile 0 = 1 ∧ t.get F.HSP_STAT_REMAIN pkgTile 0 = 60 ∧
      t.get F.HSP_STAT_SCOPE pkgTile 0 = s.get F.HSP_REQ_SCOPE pkgTile 0 ∧ (∀ i, i < 16 → t.get F.HSP_PW_PW pkgTile i = 0) ∧
      sameRegs [.HSP_STAT, .HSP_LAST, .HSP_RESP, .HSP_PW] s t ∧ sameMem s t ∧ sameContexts s t) ∧
  (∀ s q kt x pw, s.lands q s.bootTile .HSP_CMD 0 true = some (kt, x) → s.haspScope scopePwset = true → s.password = some pw →
    pwSlots s.fuses.pw < 4 → gives (.haspPwSet q) s fun t =>
      t.fuses.pw.getD (pwSlots s.fuses.pw) [] = pwHash s.fuses.devid pw ∧ t.get F.HSP_LAST_STATUS pkgTile 0 = 0 ∧
      sameRegs [.HSP_LAST] s t ∧ sameMem s t ∧ sameContexts s t) ∧
  (∀ s q kt x, s.lands q s.bootTile .HSP_CMD 0 true = some (kt, x) → gives (.haspClose q) s fun t => t.get F.HSP_STAT_OPEN pkgTile 0 = 0 ∧
    t.get F.HSP_STAT_SCOPE pkgTile 0 = 0 ∧ t.get F.HSP_STAT_REMAIN pkgTile 0 = 0 ∧ sameRegs [.HSP_STAT] s t ∧ sameMem s t ∧ sameContexts s t) ∧
  (∀ s, s.get F.HSP_STAT_OPEN pkgTile 0 = 1 → gives .haspOpenExpiry s fun t => t.get F.HSP_STAT_OPEN pkgTile 0 = 0 ∧
    t.get F.HSP_STAT_SCOPE pkgTile 0 = 0 ∧ t.get F.HSP_STAT_REMAIN pkgTile 0 = 0 ∧ sameRegs [.HSP_STAT] s t ∧ sameMem s t ∧ sameContexts s t) ∧
  (∀ s, gives .haspNonceExpiry s fun t => t.pkg.hasp.nonce = false ∧ sameRegs [] s t ∧ sameMem s t ∧ sameContexts s t) ∧
  (∀ s, gives .haspLockoutEnd s fun t => t.lockedOut = false ∧ sameRegs [.HSP_STAT] s t ∧ sameMem s t ∧ sameContexts s t) ∧
  (∀ s q kt x arg, s.lands q s.bootTile .HSP_ACT 0 true = some (kt, x) → s.haspScope scopeAct = true → s.instState (arg % 64) = instActive →
    gives (.haspIreset q arg) s fun t => t.instState (arg % 64) = instResetting ∧ t.epoch (arg % 64) = (s.epoch (arg % 64) + 1) % 256 ∧
      t.get F.PRT_ILAST_CAUSE pkgTile (arg % 64) = rstEscalation ∧ t.get F.HSP_LAST_STATUS pkgTile 0 = 0) ∧
  (∀ s q kt x arg, s.lands q s.bootTile .HSP_ACT 0 true = some (kt, x) → s.haspScope scopeDefect = true →
    arg % 1024 < s.get F.MGT_DLCNT_COUNT pkgTile 0 → arg % 1024 < s.pkg.perm.defects.length → gives (.haspDlremove q arg) s fun t =>
      t.pkg.perm.defects = s.pkg.perm.defects.eraseIdx (arg % 1024) ∧ t.get F.HSP_LAST_STATUS pkgTile 0 = 0 ∧
      sameRegs [.HSP_ACT, .HSP_LAST] s t ∧ sameMem s t ∧ sameContexts s t)

namespace Sys2Proof.Say

/-- A register whose write runs no command. -/
def plain (r : Reg) : Prop := ∀ q k e v, writeWord q k r e v = putWord q k r e v []

/-- The tile whose block records the refusals of window `k` (R535). -/
def errTile (s : State) (r : Reg) (k : Nat) : Nat :=
  if r.place.blk = .HSP ∨ r.place.blk = .GLB then pkgTile else if k = pkgTile then s.bootTile else k

end Sys2Proof.Say

/-- R521, R523 and R535: writes of registers. The trigger counter `SNP_CNT` may count the command's own trigger. -/
def Obligations.RegisterWordsAreWrittenFieldByField : Prop :=
  (∀ s q a v k o r e kt ix, regAddr a = some (k, o) → regAt k o = some (r, e) → plain r → r ≠ .SNP_CNT →
    s.lands q k r e true = some (kt, ix) → (r = .ECE_LSCW1 → s.get F.ECE_LSCW0_PROFILE kt ix ≠ 2) →
    (s.judge r kt ix (BitVec.ofNat 32 (v % 2 ^ 32))).2 = [] ∨ (r ≠ r.place.blk.errReg.1 ∧ r ≠ r.place.blk.errReg.2) →
    gives (.regWrite q a 15 v) s fun t => sameMem s t ∧ sameContexts s t ∧ ∀ f ∈ r.fields,
      let old := getBits (s.reg r kt ix) f.hi f.lo
      let new := getBits (BitVec.ofNat 32 (v % 2 ^ 32)) f.hi f.lo
      let got := getBits (t.reg r kt ix) f.hi f.lo
      (f.acc = .ro ∨ f.acc = .w1s → got = old) ∧
      (f.acc = .rw → s.allowed r kt ix f.hi new = true → s.deaf r f.hi ix = false →
        ¬ (s.takenAtOpen r f kt ix = true ∧ s.isLive (kt * 256 + ix) = true) → got = new) ∧
      (f.acc = .rw → s.allowed r kt ix f.hi new = false → got = old) ∧
      (f.acc = .w1c → got = getBits (s.reg r kt ix &&& ~~~(BitVec.ofNat 32 (v % 2 ^ 32))) f.hi f.lo) ∧
      (f.acc = .rc → f.coll = .mrg → got = new) ∧ (f.acc = .rc → f.coll ≠ .mrg → got = old) ∧
      (f.acc = .wo → s.allowed r kt ix f.hi new = true → got = new)) ∧
  (∀ s q a be v k o r e kt ix, regAddr a = some (k, o) → regAt k o = some (r, e) → s.lands q k r e true = some (kt, ix) → be % 16 ≠ 15 →
    gives (.regWrite q a be v) s fun t => t.get ⟨r.place.blk.errReg.1, 25, 22⟩ (errTile s r k) 0 = causeWidth ∧
      t.get ⟨r.place.blk.errReg.1, 31, 31⟩ (errTile s r k) 0 = 1 ∧
      sameRegs [r.place.blk.errReg.1, r.place.blk.errReg.2] s t ∧ sameMem s t ∧ sameContexts s t) ∧
  (∀ s q a be v, regAddr a = none → gives (.regWrite q a be v) s fun t =>
    t.out = s.out ++ [.reply q 0 0x0104] ∧ sameRegs [] s t ∧ sameMem s t ∧ sameContexts s t)

/-- R523, R524, R529 and R531: reads and shadowed writes. -/
def Obligations.RegisterReadsAnswerAndLatch : Prop :=
  (∀ s q a k o r e kt ix, regAddr a = some (k, o) → regAt k o = some (r, e) → r ≠ .SNP_DBGDATA → r ≠ .SNP_CNT →
    s.lands q k r e false = some (kt, ix) → s.viewed k r = false → mapGet RegKey.code none s.latch ⟨r, kt, q.copy * 64 + e⟩ = none →
    (∀ h, hiOf r = some h → s.viewed k h = false) → gives (.rcRead q a) s fun t =>
      t.out = s.out ++ [.reply q (s.liveRead r kt ix).toNat 0] ∧
      (∀ f ∈ r.fields, getBits (t.reg r kt ix) f.hi f.lo =
        if f.acc = .rc then s.rcStart r kt % 2 ^ (f.hi + 1 - f.lo) else getBits (s.reg r kt ix) f.hi f.lo) ∧
      sameRegs [r] s t ∧ sameMem s t ∧ sameContexts s t) ∧
  (∀ s q a k o r e kt ix h, regAddr a = some (k, o) → regAt k o = some (r, e) → hiOf r = some h → s.viewed k r = false →
    s.viewed k h = false → s.lands q k r e false = some (kt, ix) → mapGet RegKey.code none s.latch ⟨r, kt, q.copy * 64 + e⟩ = none →
    gives (.loReadLatch q a) s fun t => mapGet RegKey.code none t.latch ⟨h, kt, q.copy * 64 + e⟩ = some (s.liveRead h kt ix) ∧
      t.out = s.out ++ [.reply q (s.liveRead r kt ix).toNat 0] ∧ sameMem s t ∧ sameContexts s t) ∧
  (∀ s q a k o r e kt ix w, regAddr a = some (k, o) → regAt k o = some (r, e) → r ≠ .SNP_DBGDATA → s.lands q k r e false = some (kt, ix) →
    mapGet RegKey.code none s.latch ⟨r, kt, q.copy * 64 + e⟩ = some w → gives (.rcRead q a) s fun t =>
      t.out = s.out ++ [.reply q w.toNat 0] ∧ mapGet RegKey.code none t.latch ⟨r, kt, q.copy * 64 + e⟩ = none ∧
      sameRegs [] s t ∧ sameMem s t ∧ sameContexts s t) ∧
  (∀ s q a v k o r e kt ix, regAddr a = some (k, o) → regAt k o = some (r, e) → hasShadow r = true → settingsReg r = true → plain r →
    s.lands q k r e true = some (kt, ix) → s.isLive (kt * 256 + ix) = true →
    (s.judge r kt ix (BitVec.ofNat 32 (v % 2 ^ 32))).1 ≠ s.reg r kt ix → gives (.shadowWrite q a v) s fun t =>
      t.liveReg r kt ix = s.liveReg r kt ix ∧ t.reg r kt ix = (s.judge r kt ix (BitVec.ofNat 32 (v % 2 ^ 32))).1 &&& implMask r ∧
      sameMem s t ∧ sameContexts s t)

/-- R369 and R370: accesses of the host. -/
def Obligations.HostAccessesReachMemoryAndRegisters : Prop :=
  (∀ s off n, s.get F.LNK_PCISTAT_DLUP pcieTile 0 = 1 → s.stage = 9 →
    let a := s.base40 F.LNK_APER_LO_BASE_LO F.LNK_APER_HI_BASE_HI pcieTile fnPm + off
    s.isDevice a n = true → gives (.pcieHostAccess { fn := 0, bar := 4, off := off, read := some n }) s fun t =>
      t.out = s.out ++ [.data .pf a (s.bytes a n) (s.poisonedIn a n)] ∧ sameRegs [.BAL_YSAVED, .YRD_FLIT] s t ∧ sameMem s t ∧ sameContexts s t) ∧
  (∀ s off data pz, s.get F.LNK_PCISTAT_DLUP pcieTile 0 = 1 → s.stage = 9 →
    let a := s.base40 F.LNK_APER_LO_BASE_LO F.LNK_APER_HI_BASE_HI pcieTile fnPm + off
    s.isDevice a data.length = true → gives (.pcieHostAccess { fn := 0, bar := 4, off := off, data := data, poison := pz }) s fun t =>
      t.bytes a data.length = data ∧ sameMemBut a data.length s t ∧ (pz = true → t.poisonedIn a data.length = true) ∧
      sameRegs [.BAL_CLSCNT, .BAL_RMWCNT, .BAL_YSAVED, .YRD_FLIT, .MEM_WCINV] s t) ∧
  (∀ s w, s.get F.LNK_PCISTAT_DLUP pcieTile 0 = 1 → s.stage = 9 →
    gives (.pcieHostAccess { fn := 0, bar := 0, off := 4 * w, read := some 4 }) s fun t =>
      exec (.rcRead .pf (windowBase + 4 * w)) s = .next t) ∧
  (∀ s f bar off n, s.get F.LNK_PCISTAT_DLUP pcieTile 0 = 1 → s.stage = 9 → f ≠ 0 → s.get F.LNK_PCISTAT_NUMVF pcieTile 0 < f →
    gives (.pcieHostAccess { fn := f, bar := bar, off := off, read := some n }) s fun t =>
      t.out = s.out ++ [.reply (.vf f) 0 0x0104] ∧ sameRegs [] s t ∧ sameMem s t ∧ sameContexts s t)

/-- One step takes the first waiting command and carries it out; the commands behind it go on waiting. -/
def Obligations.StepRunsTheFrontCommand : Prop :=
  ∀ s c l, s.pending = c :: l → step s = exec c (s.withPending l)

/-- The model's choice (log entry 4): what one step does when no command waits. -/
def Obligations.EmptyQueueLetsTimePass : Prop :=
  (∀ s, s.pending = [] → s.pkg.aonSt.pgAon = false → step s = .next s) ∧
  (∀ s, s.pending = [] → s.pkg.aonSt.pgAon = true → ∃ t, step s = .next t ∧ t.aon = s.aon + 20 ∧
    (s.pkg.ptpSlew = 0 → t.now = s.now + 20) ∧ t.pending = [] ∧ t.out = s.out ∧ sameMem s t ∧ sameContexts s t)

/-- Every command has an effect in every state, and no effect puts a command into the queue or takes one out. -/
def Obligations.NoCommandSendsOrStopsTheRun : Prop :=
  (∀ c s, ∃ t, exec c s = .next t ∧ t.pending = s.pending) ∧ ∀ n s, safeFor n s

/-- The canonical form of every map of the state is kept by every step, from every state that has it. -/
def Obligations.EveryStepKeepsTheCanonicalForm : Prop :=
  ∀ s t, s.wf = true → step s = .next t → t.wf = true

/-- R18 and R523: a reserved field reads zero, whatever command runs, in every register, tile and index. -/
def Obligations.EveryStepKeepsReservedBitsZero : Prop :=
  ∀ s t, s.wf = true → s.regsClean → step s = .next t → t.regsClean

/-- The two invariants hold of the state after reset. -/
def Obligations.PowerUpStateKeepsTheInvariants : Prop := State.reset.wf = true ∧ State.reset.regsClean

/-- What reset leaves; that an unwritten byte reads 0 is the model's choice (log entry 29). -/
def Obligations.ResetLeavesTheTablesValues : Prop :=
  (∀ (r : Reg) (k ix : Nat), ∀ f ∈ r.fields, State.reset.get ⟨r, f.hi, f.lo⟩ k ix = f.reset) ∧
  (∀ k, State.reset.get F.MGT_PARTID_PART k 0 = 0x6412) ∧
  State.reset.pending = [] ∧ State.reset.out = [] ∧ (∀ id, State.reset.stream id = {}) ∧ (∀ n, State.reset.inst n = {}) ∧
  (∀ k, State.reset.tile k = {}) ∧ ∀ a, State.reset.byte a = 0 ∧ State.reset.poisoned a = false

namespace Sys2Proof.Say

/-- An escalation event of a source, a tile and an instance shows in the registers, in what is sent, and in the record. -/
def escalated (src tile inst : Nat) (s t : State) : Prop :=
  t.get F.PRT_ESC_EVT pkgTile 0 = 1 ∧ t.get F.PRT_ESC_SRC pkgTile 0 = src ∧ t.get F.PRT_ESC_TILE pkgTile 0 = tile ∧
  t.get F.PRT_ESC_INST pkgTile 0 = inst ∧
  (∃ l, t.out = s.out ++ l ∧ Emission.msix fnPm (s.get F.PRT_ESCCFG_VECTOR pkgTile 0) ∈ l) ∧
  t.pkg.aonSt.escs = s.pkg.aonSt.escs ++ [(src, tile, inst)]

/-- The package's own context with a record of an escalation appended. -/
def withEsc (p : Pkg) (e : Nat × Nat × Nat) : Pkg := { p with aonSt := { p.aonSt with escs := p.aonSt.escs ++ [e] } }

end Sys2Proof.Say

/-- R438: what an escalation event does, that it does nothing else, and that each of its causes raises one. -/
def Obligations.EscalationEventsAreRecordedAndChangeNothing : Prop :=
  (∀ s src k n, src < 8 → k < 64 → n < 64 → escalated src k n s (s.then (escalate src k n)) ∧
    (∀ r, r ≠ .PRT_ESC → ∀ j ix, (s.then (escalate src k n)).reg r j ix = s.reg r j ix) ∧
    (s.then (escalate src k n)).pkg = withEsc s.pkg (src, k, n) ∧
    (s.then (escalate src k n)).out = s.out ++ [.msix fnPm (s.get F.PRT_ESCCFG_VECTOR pkgTile 0)] ∧
    (s.then (escalate src k n)).pending = s.pending ∧ (s.then (escalate src k n)).now = s.now ∧
    (s.then (escalate src k n)).aon = s.aon ∧ (s.then (escalate src k n)).force = s.force ∧
    (s.then (escalate src k n)).mem = s.mem ∧ (s.then (escalate src k n)).poison = s.poison ∧
    (s.then (escalate src k n)).streams = s.streams ∧ (s.then (escalate src k n)).insts = s.insts ∧
    (s.then (escalate src k n)).tiles = s.tiles) ∧
  (∀ s n, n < 64 → s.instState n ≠ instFree → s.instState n ≠ instActive → s.get F.PRT_IFLIGHT_COUNT pkgTile n ≠ 0 →
    gives (.resetEscalationTimeout n) s fun t => escalated 1 0 n s t ∧ t.get F.PRT_ISTAT_ESC pkgTile n = 1 ∧
      sameRegs [.PRT_ESC, .PRT_ISTAT] s t ∧ sameMem s t ∧ sameContexts s t) ∧
  (∀ s k b, k < 64 → s.get (ctlState b) k 0 = fnDisabling →
    gives (.funcDisableTimeout k b) s fun t => escalated 2 k (s.instOfTile k) s t ∧
      sameRegs [.PRT_ESC] s t ∧ sameMem s t ∧ sameContexts s t) ∧
  (∀ s, s.quiescing = true → s.pkg.yard.reached = false → gives .quiesceTimeout s fun t => escalated 3 0 0 s t) ∧
  (∀ s k port u e, k < 64 → neighbour k port = some u → edgeOf k port = some e → s.portEdgeUp k port = true →
    gives (.yardReplayBudgetExpiry k port) s fun t => escalated 4 k 0 s t)

namespace Sys2Proof.Say

/-- A table keeps the limits of R112: its number of symbols, its offset, and a CDF that begins at 0 and rises strictly. -/
def tableOk (t : CdfTable) : Prop :=
  2 ≤ t.nsym ∧ t.nsym ≤ 256 ∧ -255 ≤ t.off ∧ t.off ≤ 0 ∧ 0 ≤ t.h ∧ t.cdf.head? = some 0 ∧ t.cdf.Pairwise (· < ·) ∧
  ∀ c ∈ t.cdf, c < 65536

/-- A symbol names a table, and its value and its mean are INT16 (R108). -/
def symOk (tabs : List CdfTable) (x : EcSym) : Prop :=
  x.t < tabs.length ∧ -32768 ≤ x.v ∧ x.v ≤ 32767 ∧ -32768 ≤ x.mu ∧ x.mu ≤ 32767

/-- The table that a symbol names. -/
def tableOf (tabs : List CdfTable) (x : EcSym) : CdfTable := tabs.getD x.t ⟨0, [], []⟩

/-- The length k of the prefix of a symbol's escape (R111). -/
def escK (t : CdfTable) (x : EcSym) : Nat := Nat.log2 (escapeMap t (x.v - rmean x.mu) + 1)

end Sys2Proof.Say

/-- R120: the size of a payload. -/
def Obligations.PayloadsNeverOverflow : Prop :=
  (∀ tabs l, (∀ t ∈ tabs, tableOk t) → (∀ x ∈ l, symOk tabs x) →
    (encodeWords tabs l).length ≤ 16 + 19 * l.length ∧ (payloadBytes (encodeWords tabs l)).length ≤ 32 + 38 * l.length) ∧
  (∀ tabs x, (∀ t ∈ tabs, tableOk t) → symOk tabs x → (ransSteps (tableOf tabs x) x.v x.mu).length ≤ 19 ∧
    ((ransSteps (tableOf tabs x) x.v x.mu).length = 19 ↔
      isEscape (tableOf tabs x) (x.v - rmean x.mu) = true ∧ escK (tableOf tabs x) x = 16)) ∧
  (∃ tabs x, (∀ t ∈ tabs, tableOk t) ∧ symOk tabs x ∧ (ransSteps (tableOf tabs x) x.v x.mu).length = 19)

/-- R118, R119 and the last sentence of R121: the decoder inverts the encoder, bit for bit. -/
def Obligations.EveryPayloadDecodesToItsSymbols : Prop :=
  ∀ tabs l, (∀ t ∈ tabs, tableOk t) → (∀ x ∈ l, symOk tabs x) →
    decodePayload tabs (l.map fun x => (x.mu, x.t)) (payloadBytes (encodeWords tabs l)) = .ok (l.map fun x => x.v)

namespace Sys2Proof.Say

/-- One bit of R496's pseudocode, over 64-bit words. -/
def crcBit (c : BitVec 64) : BitVec 64 := (c <<< 1) ^^^ (0x42F0E1EBA9EA3693#64 &&& (0#64 - (c >>> 63)))

/-- One byte of it: taken into the top, then eight bits. -/
def crcByte (c : BitVec 64) (b : Byte) : BitVec 64 :=
  crcBit (crcBit (crcBit (crcBit (crcBit (crcBit (crcBit (crcBit (c ^^^ (b.setWidth 64 <<< 56)))))))))

end Sys2Proof.Say

/-- R496: the digest function, and its check value. -/
def Obligations.DigestsAreCrc64 : Prop :=
  (∀ bs : List Byte, crc64 bs = (bs.foldl crcByte 0#64).toNat) ∧
  crc64 [0x31, 0x32, 0x33, 0x34, 0x35, 0x36, 0x37, 0x38, 0x39] = 0x6C40DF5F0B497347

namespace Sys2Proof.Say

/-- The status codes other than `ST_OK`, as R24 ranks them, highest first. -/
def byRank : List Nat :=
  [0x0501, 0x0502, 0x0401, 0x0402, 0x0403, 0x0404, 0x0102, 0x0103, 0x0104, 0x0105, 0x0106, 0x0301, 0x0302, 0x0303,
   0x0201, 0x0203, 0x0202, 0x0204, 0x0205, 0x0206, 0x0001, 0x0002, 0x0003]

end Sys2Proof.Say

/-- R24: the precedence of the status codes. -/
def Obligations.OneStatusIsReported : Prop :=
  pickStatus [] = 0 ∧
  ∀ l, l ≠ [] → (∀ x ∈ l, x ∈ byRank) → pickStatus l ∈ l ∧ ∀ x ∈ l, byRank.idxOf (pickStatus l) ≤ byRank.idxOf x

/-- Where each command of the function blocks, the ports, the PTP clock and the host link completes, and the first effect that its rule
gives it (R320, R346, R350, R352, R354, R371, R372, R423, R427, R428 and R437). -/
def Obligations.EngineAndLinkCommandsComplete : Prop :=
  (∀ s q k b kt x, s.lands q k (ctlReg b) 0 true = some (kt, x) → s.engineResets b kt = false →
    s.get (ctlState b) kt 0 = fnOff → s.canEnable b kt = true → gives (.funcEnWrite q k b true) s fun t =>
      t.get (ctlState b) kt 0 = fnEnabling) ∧
  (∀ s k b, s.tileRuns k = true → s.get (ctlState b) k 0 = fnEnabling → s.get (ctlPend b) k 0 = 0 →
    gives (.funcTransitionEnd k b) s fun t => t.get (ctlState b) k 0 = fnOn) ∧
  (∀ s q k kt x engines, s.lands q k .PRT_ERST 0 true = some (kt, x) → gives (.engineReset q k engines) s fun t =>
    t.get F.PRT_ERST_ENG kt 0 = s.get F.PRT_ERST_ENG kt 0 ||| engines % 2 ^ 7) ∧
  (∀ s k b j, erstBit b = some j → bitOf (s.get F.PRT_ERST_ENG k 0) j = true → gives (.engineResetDone k b) s fun t =>
    bitOf (t.get F.PRT_ERST_ENG k 0) j = false) ∧
  (∀ s p, s.portInService p = true → s.isOn .lnk (s.portTile p) = true → gives (.portLinkUp p) s fun t => t.portUp p = true) ∧
  (∀ s p, s.portInService p = true → gives (.portLinkDown p) s fun t => t.portUp p = false) ∧
  (∀ s p v, s.portUp p = true → (s.iface p v).isSome = true →
    gives (.ethFrameRx { port := p, len := 64, vlan := v, body := .service }) s fun t => .answer p v ∈ t.out) ∧
  (∀ s, s.ptpRole = ptpSlave → gives .ptpSyncLoss s fun t => t.get F.LNK_PTPSTAT_LOCKED pkgTile 0 = 0) ∧
  (∀ s, s.portUp s.ptpPort = true → s.ptpRole = ptpMaster ∨ s.ptpRole = ptpSlave → gives .ptpMessageInterval s fun t =>
    .ptp s.ptpPort (if s.ptpRole = ptpMaster then 0 else 1) (s.get F.LNK_PTPCFG_DOMAIN pkgTile 0)
      (s.get F.LNK_PTPCFG_TRANSPORT pkgTile 0) ∈ t.out) ∧
  (∀ s g w v, s.inService pcieTile = true → gives (.pcieLinkUp g w v) s fun t => t.get F.LNK_PCISTAT_DLUP pcieTile 0 = 1) ∧
  (∀ s, gives .pcieLinkDown s fun t => t.get F.LNK_PCISTAT_DLUP pcieTile 0 = 0) ∧
  (∀ s, gives .perstAssert s fun t => t.get F.LNK_PCISTAT_DLUP pcieTile 0 = 0 ∧ t.get F.LNK_PCISTAT_NUMVF pcieTile 0 = 0) ∧
  (∀ s k, 1 ≤ k → k ≤ 64 → s.instState (instOfVf k) = instFree → gives (.pcieFlr k) s fun t => .flrDone k ∈ t.out) ∧
  (∀ s k tag x data pz, s.hostRead k tag = some x → data.length = x.len → x.q < ringQueue 0 → x.fetch = false → x.write = false →
    s.stale x.inst x.epoch = false → gives (.hostReadCompletion k tag data pz) s fun t => ∀ y ∈ (t.tile k).xfers, y.tag ≠ x.tag) ∧
  (∀ s k tag x, s.hostRead k tag = some x → x.q < ringQueue 0 → x.fetch = false → x.write = false → s.stale x.inst x.epoch = false →
    gives (.hostReadTimeout k tag) s fun t => ∀ y ∈ (t.tile k).xfers, y.tag ≠ x.tag)

/-- Where each timer of Movon and of the ingest engine, each command of the snapshot unit and the debug window, of the HBM ports and the
weight caches, and of the Yard completes, and the first effect that its rule gives it (R358, R365, R376 to R380, R394, R402 to R405,
R413 to R415, R418, R499 to R503, R511 and R512). -/
def Obligations.TimerMemoryAndSnapshotCommandsComplete : Prop :=
  (∀ s id, (s.stream id).ing.units ≠ [] → gives (.ingestAuwaitExpiry id) s fun t =>
    (t.stream id).ing.units.length < (s.stream id).ing.units.length) ∧
  (∀ s id, s.isOpen id = true → (s.stream id).ing.flow = 1 → s.sget F.ING_SW0_IKIND id = 0 →
    s.portUp (s.sget F.ING_SW0_PORT id) = true → gives (.rtcpRrTimer id) s fun t => .rtcp id 0 ∈ t.out) ∧
  (∀ s e p l x, (link s e p).unacked.find? (·.lseq == l) = some x → x.tries < 8 → p < (s.peer e).links.length →
    gives (.linkRetransmitTimeout e p l) s fun t => .movon e p (s.pathVia e p) x.dscp x.bytes ∈ t.out) ∧
  (∀ s e p, (link s e p).unacked.any (·.tries != 0) = true → p < (s.peer e).links.length → (s.peer e).kind ≠ 0 →
    gives (.linkRetryBudgetExpiry e p) s fun t => (link t e p).up = false) ∧
  (∀ s e p, (s.peer e).kind ≠ 0 → p < (s.peer e).paths.length → p < (s.peer e).links.length → (link s e p).up = false →
    s.portUp ((s.peer e).paths.getD p {}).port = true → gives (.pathProbeTimer e p) s fun t =>
      (link t e p).probes = (link s e p).probes + 1) ∧
  (∀ s e i m, (s.peer e).msgs.find? (·.id == i) = some m → (link s e m.path).unacked.any (·.tries != 0) = false → m.ctx = .plain →
    s.stale m.inst m.epoch = false → gives (.movonE2eExpiry e i) s fun t => ∀ y ∈ (t.peer e).msgs, y.id ≠ i) ∧
  (∀ s, s.get F.LNK_MVCFG_EN pkgTile 0 = 1 → s.isMaster = false → (s.peer s.pkg.masterDev).kind ≠ 0 →
    s.pathUp s.pkg.masterDev [] = none → gives .masterLossTimeout s fun t => t.get F.LNK_MVSTAT_NOMASTER pkgTile 0 = 1) ∧
  (∀ s k i e, nextEgress s k = some (i, e) → s.sget F.LNK_SW0_EGKIND i.stream ≠ 0 →
    s.portUp (s.sget F.LNK_SW0_PORT i.stream) = true → (s.peer (s.sget F.LNK_SW0_PEER i.stream)).kind ≠ 0 →
    gives (.linkTransmitItem k) s fun t => ∀ y ∈ (t.tile k).items, ¬ (y.q = egressQueue ∧ y.slot = i.slot)) ∧
  (∀ s, s.get F.SNP_SRC_PIN pkgTile 0 = 1 → s.pkg.snapT = none → allArmed s → gives .snapInEdge s fun t =>
    t.pkg.snapT = some (s.now + 2000)) ∧
  (∀ s q kt x, s.lands q s.bootTile .SNP_TRIG 0 true = some (kt, x) → s.get F.SNP_SRC_WR pkgTile 0 = 1 → s.pkg.snapT = none → allArmed s →
    gives (.snapSwTrigger q) s fun t => t.pkg.snapT = some (s.now + 2000)) ∧
  (∀ s late T, s.pkg.snapT = some T → gives (.snapLatch late) s fun t =>
    ∀ k, k < 64 → s.inService k = true → t.get F.SNP_CTL_ARM k 0 = 0 ∧ t.get F.SNP_CTL_HELD k 0 = 1) ∧
  (∀ s q k kt x v, s.lands q k .SNP_CTL 0 true = some (kt, x) → gives (.snapArm q k v) s fun t =>
    t.get F.SNP_CTL_ARM kt 0 = 1 ∧ t.get F.SNP_CTL_HELD kt 0 = 0) ∧
  (∀ s, gives .snapOutEnd s fun t => t.pkg.snapOut = false) ∧
  (∀ s q k kt ix v, s.lands q k .SNP_DGCFG 0 true = some (kt, ix) → BitVec.ofNat 32 v ≠ s.reg .SNP_DGCFG kt ix → bitOf v 0 = true →
    s.digestRingOk (kt * 256 + ix) (bitsOf v 31 16) = true → s.isLive (kt * 256 + ix) = false → gives (.digestCfgWrite q k v) s fun t =>
      t.get F.SNP_DGCFG_EN kt ix = 1) ∧
  (∀ s k, s.inService k = true → s.haspScope 0 = true → gives (.debugViewWrite .jtag k none) s fun t =>
    t.get F.HSP_STAT_TAINT pkgTile 0 = 1) ∧
  (∀ s q k kt x, s.lands q k .SNP_DBGDATA 0 false = some (kt, x) → gives (.dbgWindowRead q k) s fun t =>
    .reply q (leAt (s.bytes (s.rawAddr kt) 4) 0 4) 0 ∈ t.out) ∧
  (∀ s q own a data pz, isHbm a = true → s.isDevice a data.length = true → s.epochOk own = true →
    gives (.hbmWrite q own a data false pz) s fun t => t.bytes a data.length = data) ∧
  (∀ s q own a n, isHbm a = true → s.isDevice a n = true → s.epochOk own = true → gives (.hbmRead q own a n .clean) s fun t =>
    .data q a (s.bytes a n) (s.poisonedIn a n) ∈ t.out) ∧
  (∀ s p, gives (.hbmScrubPass p) s fun t =>
    t.get F.MEM_HBMSCRUB_PASSES (s.servingTile p) 0 = min 0xFFFFFFFF (s.get F.MEM_HBMSCRUB_PASSES (s.servingTile p) 0 + 1)) ∧
  (∀ s k a l, s.ownerGone k = none → isHbm a = true → s.isDevice a 1 = true →
    (s.tile (s.wcTile a)).wc.find? (·.line == a / 256) = some l → l.filling = false → gives (.wcLineRead k a) s fun t =>
      .line k (256 * (a / 256)) (s.bytes (256 * (a / 256)) 256) (s.poisonedIn (256 * (a / 256)) 256) ∈ t.out) ∧
  (∀ s a l, (s.tile (s.wcTile a)).wc.find? (fun l => l.line == a / 256 && l.filling) = some l → gives (.wcFillDone a true) s fun t =>
    ∀ m ∈ (t.tile (s.wcTile a)).wc, m.line = a / 256 → m.filling = false) ∧
  (∀ s q k kt x, s.lands q k .MEM_WCCTL 0 true = some (kt, x) → gives (.wcInvall q k) s fun t =>
    ∀ l ∈ (t.tile kt).wc, l.filling = true) ∧
  (∀ s k p, s.portEdgeUp k p = true → gives (.yardFlitCrcFail k p) s fun t =>
    t.get F.YRD_REPLAY_COUNT k 0 = min 0xFFFFFFFF (s.get F.YRD_REPLAY_COUNT k 0 + 1)) ∧
  (∀ s q kt x, s.lands q s.bootTile .YRD_QCTL 0 true = some (kt, x) → s.quiescing = false → gives (.yardQuiesceReq q) s fun t =>
    t.get F.YRD_QCTL_BUSY pkgTile 0 = 1 ∧ t.pkg.held = true) ∧
  (∀ s, s.quiescing = true → s.pkg.yard.reached = false → gives .quiesceDrained s fun t => t.pkg.yard.reached = true) ∧
  (∀ s bad, s.quiescing = true → s.pkg.yard.reached = true → gives (.quiesceDone bad) s fun t =>
    t.get F.YRD_QCTL_DONE pkgTile 0 = 1) ∧
  (∀ s k, s.get F.PRT_TRST_BUSY k 0 = 1 → gives (.yardPacketAbsorb k none) s fun t =>
    t.get F.YRD_ABSORB_COUNT k 0 = min 0xFFFFFFFF (s.get F.YRD_ABSORB_COUNT k 0 + 1))
end

