-- ==== Sys2Proof/Laws/Bits.lean ====
section
/-! SUPPORT. The laws of bit fields: a field reads as it was set, a disjoint field is left alone, and reserved bits stay zero. -/
namespace Sys2Proof.Machine

theorem bitsOf_testBit (n hi lo i : Nat) : (bitsOf n hi lo).testBit i = (decide (i < hi + 1 - lo) && n.testBit (i + lo)) := by
  simp [bitsOf, Nat.testBit_mod_two_pow, Nat.testBit_div_two_pow]

theorem getBits_testBit (w : Word) (hi lo i : Nat) :
    (getBits w hi lo).testBit i = (decide (i < hi + 1 - lo) && w.getLsbD (i + lo)) := by
  simp [getBits, bitsOf_testBit, BitVec.getLsbD]

theorem maskOf_getLsbD (hi lo i : Nat) : (maskOf hi lo).getLsbD i = (decide (i < 32) && decide (lo ≤ i) && decide (i ≤ hi)) := by
  unfold maskOf
  rw [BitVec.getLsbD_ofNat, Nat.testBit_mul_two_pow, Nat.testBit_two_pow_sub_one]
  by_cases h1 : i < 32 <;> by_cases h2 : lo ≤ i <;> simp [h1, h2]
  by_cases h3 : i ≤ hi <;> simp [h3] <;> omega

theorem setBits_getLsbD (w : Word) (hi lo v i : Nat) :
    (setBits w hi lo v).getLsbD i =
      if lo ≤ i ∧ i ≤ hi then (decide (i < 32) && v.testBit (i - lo)) else w.getLsbD i := by
  unfold setBits
  rw [BitVec.getLsbD_or, BitVec.getLsbD_and, BitVec.getLsbD_not, maskOf_getLsbD, BitVec.getLsbD_ofNat, Nat.testBit_mul_two_pow,
    Nat.testBit_mod_two_pow]
  by_cases h1 : i < 32
  · by_cases h2 : lo ≤ i
    · by_cases h3 : i ≤ hi
      · have : i - lo < hi + 1 - lo := by omega
        simp [h1, h2, h3, this]
      · have : ¬ i - lo < hi + 1 - lo := by omega
        simp [h1, h2, h3, this]
    · simp [h1, h2]
  · have : w.getLsbD i = false := BitVec.getLsbD_of_ge w i (by omega)
    by_cases h2 : lo ≤ i ∧ i ≤ hi <;> simp [h1, this, h2]

/-- A field reads as it was set. -/
theorem getBits_setBits_self (w : Word) (hi lo v : Nat) (h : hi < 32) :
    getBits (setBits w hi lo v) hi lo = v % 2 ^ (hi + 1 - lo) := by
  apply Nat.eq_of_testBit_eq
  intro i
  rw [getBits_testBit, setBits_getLsbD, Nat.testBit_mod_two_pow]
  by_cases hi' : i < hi + 1 - lo
  · have h1 : lo ≤ i + lo ∧ i + lo ≤ hi := by omega
    have h2 : i + lo < 32 := by omega
    simp [hi', h1, h2]
  · simp [hi']

/-- A field with no bit in common is left alone. -/
theorem getBits_setBits_ne (w : Word) (hi lo v hi' lo' : Nat) (h : hi < lo' ∨ hi' < lo) :
    getBits (setBits w hi lo v) hi' lo' = getBits w hi' lo' := by
  apply Nat.eq_of_testBit_eq
  intro i
  rw [getBits_testBit, getBits_testBit, setBits_getLsbD]
  by_cases hi2 : i < hi' + 1 - lo'
  · have : ¬ (lo ≤ i + lo' ∧ i + lo' ≤ hi) := by omega
    simp [this]
  · simp [hi2]

/-- A field inside a mask is not changed by the mask. -/
theorem getBits_and_mask (w m : Word) (hi lo : Nat) (h : maskOf hi lo &&& ~~~m = 0) : getBits (w &&& m) hi lo = getBits w hi lo := by
  apply Nat.eq_of_testBit_eq
  intro i
  rw [getBits_testBit, getBits_testBit, BitVec.getLsbD_and]
  by_cases hi' : i < hi + 1 - lo
  · by_cases h2 : i + lo < 32
    · have h0 : (maskOf hi lo &&& ~~~m).getLsbD (i + lo) = (0 : Word).getLsbD (i + lo) := by rw [h]
      have h3 : i + lo ≤ hi := by omega
      have h4 : lo ≤ i + lo := by omega
      rw [BitVec.getLsbD_and, maskOf_getLsbD, BitVec.getLsbD_not] at h0
      cases hm : m.getLsbD (i + lo) with
      | true => rw [Bool.and_true]
      | false => rw [hm] at h0; simp [h2, h3] at h0
    · have : w.getLsbD (i + lo) = false := BitVec.getLsbD_of_ge w _ (by omega)
      simp [this]
  · simp [hi']

theorem getBits_lt (w : Word) (hi lo : Nat) : getBits w hi lo < 2 ^ (hi + 1 - lo) := Nat.mod_lt _ (Nat.two_pow_pos _)

/-- A field of the table lies in the implemented bits of its register, with its highest bit not below its lowest. -/
def Fld.ok (f : Fld) : Bool := decide (f.lo ≤ f.hi) && decide (f.hi < 32) && decide (maskOf f.hi f.lo &&& ~~~implMask f.reg = 0)

theorem Fld.ok_iff (f : Fld) : f.ok = true ↔ f.lo ≤ f.hi ∧ f.hi < 32 ∧ maskOf f.hi f.lo &&& ~~~implMask f.reg = 0 := by
  simp [Fld.ok, and_assoc]

end Sys2Proof.Machine
end

