-- ==== Sys2Proof/Laws/Map.lean ====
section
/-! SUPPORT. The laws of sorted maps: what is read after a store or a removal, and that both keep the canonical form. -/
namespace Sys2Proof.Machine

theorem mapGet_filter_ne {K V : Type} (code : K → Nat) (d : V) (k k' : K) (m : List (K × V)) :
    mapGet code d (m.filter fun e => code e.1 != code k) k' = if code k = code k' then d else mapGet code d m k' := by
  induction m with
  | nil => simp [mapGet]
  | cons e m ih =>
    obtain ⟨a, v⟩ := e
    by_cases h : code a = code k
    · simp only [List.filter_cons, h, bne_self_eq_false, Bool.false_eq_true, if_false, ih, mapGet]
      split <;> rfl
    · have : (code a != code k) = true := by simpa using h
      simp only [List.filter_cons, this, if_true, mapGet, ih]
      by_cases h2 : code k = code k'
      · simp [h2, show ¬ code a = code k' from fun h3 => h (h3.trans h2.symm)]
      · simp [h2]

theorem mapGet_mapInsert {K V : Type} (code : K → Nat) (d : V) (k k' : K) (v : V) (m : List (K × V)) :
    mapGet code d (mapInsert code k v m) k' = if code k = code k' then v else mapGet code d m k' := by
  induction m with
  | nil => simp [mapInsert, mapGet]
  | cons e m ih =>
    obtain ⟨a, w⟩ := e
    simp only [mapInsert]
    split
    · simp [mapGet]
    · split
      · rename_i _ h
        by_cases h2 : code k = code k'
        · simp [mapGet, h2]
        · simp [mapGet, h2, show ¬ code a = code k' from fun h3 => h2 (h.trans h3)]
      · rename_i _ h
        simp only [mapGet, ih]
        by_cases h2 : code k = code k'
        · simp [h2, show ¬ code a = code k' from fun h3 => h (h2.trans h3.symm)]
        · simp [h2]

/-- A read after a store gives the value stored; every other key reads as before. -/
theorem mapGet_mapPut {K V : Type} [DecidableEq V] (code : K → Nat) (d d' : V) (m : List (K × V)) (k k' : K) (v : V)
    (hd : code k = code k' → d' = d) :
    mapGet code d' (mapPut code d m k v) k' = if code k = code k' then v else mapGet code d' m k' := by
  unfold mapPut
  by_cases h : v = d
  · rw [if_pos h, mapGet_filter_ne]
    by_cases hk : code k = code k'
    · simp [hk, hd hk, h]
    · simp [hk]
  · rw [if_neg h, mapGet_mapInsert]

/-- A removal leaves every key at its value or at the default. -/
theorem mapGet_mapDrop {K V : Type} (code : K → Nat) (d : V) (p : K → Bool) (m : List (K × V)) (k : K)
    (hp : ∀ a, code a = code k → p a = p k) :
    mapGet code d (mapDrop p m) k = if p k then d else mapGet code d m k := by
  induction m with
  | nil => simp [mapDrop, mapGet]
  | cons e m ih =>
    obtain ⟨a, v⟩ := e
    unfold mapDrop at ih ⊢
    by_cases ha : p a
    · simp only [List.filter_cons, ha, Bool.not_true, Bool.false_eq_true, if_false, ih, mapGet]
      by_cases hk : code a = code k
      · simp [hp a hk ▸ ha]
      · simp [hk]
    · simp only [List.filter_cons, ha, Bool.not_false, if_true, mapGet, ih]
      by_cases hk : code a = code k
      · have := hp a hk
        simp [hk, ← this, ha]
      · simp [hk]

/-! ## The canonical form -/

theorem mapSorted_iff {K V : Type} (code : K → Nat) (m : List (K × V)) :
    mapSorted code m = true ↔ m.Pairwise fun a b => code a.1 < code b.1 := by
  induction m with
  | nil => simp [mapSorted]
  | cons a m ih =>
    cases m with
    | nil => simp [mapSorted]
    | cons b m =>
      simp only [mapSorted, Bool.and_eq_true, decide_eq_true_eq, ih, List.pairwise_cons, List.mem_cons, forall_eq_or_imp]
      constructor
      · rintro ⟨h, h2, h3⟩
        exact ⟨⟨h, fun c hc => h.trans (h2 c hc)⟩, h2, h3⟩
      · rintro ⟨⟨h, _⟩, h2, h3⟩
        exact ⟨h, h2, h3⟩

theorem mem_mapInsert {K V : Type} (code : K → Nat) (k : K) (v : V) (m : List (K × V)) (e : K × V)
    (h : e ∈ mapInsert code k v m) : e = (k, v) ∨ e ∈ m := by
  induction m with
  | nil => simpa [mapInsert] using h
  | cons a m ih =>
    simp only [mapInsert] at h
    split at h
    · simpa using h
    · split at h
      · rcases List.mem_cons.1 h with h | h
        · exact .inl h
        · exact .inr (.tail _ h)
      · rcases List.mem_cons.1 h with h | h
        · exact .inr (h ▸ .head _)
        · exact (ih h).imp_right (.tail _)

theorem sorted_mapInsert {K V : Type} (code : K → Nat) (k : K) (v : V) (m : List (K × V))
    (h : m.Pairwise fun a b => code a.1 < code b.1) : (mapInsert code k v m).Pairwise fun a b => code a.1 < code b.1 := by
  induction m with
  | nil => simp [mapInsert]
  | cons a m ih =>
    have h1 := (List.pairwise_cons.1 h).1
    have h2 := (List.pairwise_cons.1 h).2
    simp only [mapInsert]
    split
    · rename_i hk
      exact List.pairwise_cons.2 ⟨fun b hb => (List.mem_cons.1 hb).elim (fun e => e ▸ hk) fun hb => lt_trans hk (h1 b hb), h⟩
    · split
      · rename_i hk
        exact List.pairwise_cons.2 ⟨fun b hb => hk ▸ h1 b hb, h2⟩
      · rename_i hk hk2
        refine List.pairwise_cons.2 ⟨fun b hb => ?_, ih h2⟩
        rcases mem_mapInsert code k v m b hb with rfl | hb
        · exact lt_of_le_of_ne (not_lt.1 hk) (Ne.symm hk2)
        · exact h1 b hb

/-- A store keeps the canonical form. -/
theorem mapWf_mapPut {K V : Type} [DecidableEq V] (code : K → Nat) (d : K → V) (m : List (K × V)) (k : K) (v : V)
    (h : mapWf code d m = true) : mapWf code d (mapPut code (d k) m k v) = true := by
  simp only [mapWf, Bool.and_eq_true, mapSorted_iff, List.all_eq_true, decide_eq_true_eq] at h ⊢
  unfold mapPut
  split
  · exact ⟨h.1.sublist List.filter_sublist, fun e he => h.2 e (List.mem_of_mem_filter he)⟩
  · rename_i hv
    refine ⟨sorted_mapInsert code k v m h.1, fun e he => ?_⟩
    rcases mem_mapInsert code k v m e he with rfl | he
    · exact hv
    · exact h.2 e he

/-- A removal keeps the canonical form. -/
theorem mapWf_mapDrop {K V : Type} [DecidableEq V] (code : K → Nat) (d : K → V) (p : K → Bool) (m : List (K × V))
    (h : mapWf code d m = true) : mapWf code d (mapDrop p m) = true := by
  simp only [mapWf, Bool.and_eq_true, mapSorted_iff, List.all_eq_true, decide_eq_true_eq] at h ⊢
  exact ⟨h.1.sublist List.filter_sublist, fun e he => h.2 e (List.mem_of_mem_filter he)⟩

end Sys2Proof.Machine
end

