-- ==== Sys2Proof/Laws/State.lean ====
section
/-! SUPPORT. What each primitive effect leaves alone and what it changes, field by field of the state, and what a register, a byte
or a context reads as afterwards. -/
namespace Sys2Proof.Machine

variable (s : State)

/-! ## What each effect leaves alone -/

@[simp] theorem setReg_pending (r : Reg) (t ix : Nat) (w : Word) : (s.setReg r t ix w).pending = s.pending := (rfl)
@[simp] theorem setReg_force (r : Reg) (t ix : Nat) (w : Word) : (s.setReg r t ix w).force = s.force := (rfl)
@[simp] theorem setReg_latch (r : Reg) (t ix : Nat) (w : Word) : (s.setReg r t ix w).latch = s.latch := (rfl)
@[simp] theorem setReg_resid (r : Reg) (t ix : Nat) (w : Word) : (s.setReg r t ix w).resid = s.resid := (rfl)
@[simp] theorem setReg_snap (r : Reg) (t ix : Nat) (w : Word) : (s.setReg r t ix w).snap = s.snap := (rfl)
@[simp] theorem setReg_mem (r : Reg) (t ix : Nat) (w : Word) : (s.setReg r t ix w).mem = s.mem := (rfl)
@[simp] theorem setReg_poison (r : Reg) (t ix : Nat) (w : Word) : (s.setReg r t ix w).poison = s.poison := (rfl)
@[simp] theorem setReg_bale (r : Reg) (t ix : Nat) (w : Word) : (s.setReg r t ix w).bale = s.bale := (rfl)
@[simp] theorem setReg_streams (r : Reg) (t ix : Nat) (w : Word) : (s.setReg r t ix w).streams = s.streams := (rfl)
@[simp] theorem setReg_insts (r : Reg) (t ix : Nat) (w : Word) : (s.setReg r t ix w).insts = s.insts := (rfl)
@[simp] theorem setReg_tiles (r : Reg) (t ix : Nat) (w : Word) : (s.setReg r t ix w).tiles = s.tiles := (rfl)
@[simp] theorem setReg_pkg (r : Reg) (t ix : Nat) (w : Word) : (s.setReg r t ix w).pkg = s.pkg := (rfl)
@[simp] theorem setReg_out (r : Reg) (t ix : Nat) (w : Word) : (s.setReg r t ix w).out = s.out := (rfl)
@[simp] theorem setReg_now (r : Reg) (t ix : Nat) (w : Word) : (s.setReg r t ix w).now = s.now := (rfl)
@[simp] theorem setReg_aon (r : Reg) (t ix : Nat) (w : Word) : (s.setReg r t ix w).aon = s.aon := (rfl)
@[simp] theorem setReg_draws (r : Reg) (t ix : Nat) (w : Word) : (s.setReg r t ix w).draws = s.draws := (rfl)
@[simp] theorem setBytes_pending (a : Nat) (bs : List Byte) : (s.setBytes a bs).pending = s.pending := by
  induction bs generalizing s a with
  | nil => rfl
  | cons b bs ih => exact ih _ _
@[simp] theorem setBytes_regs (a : Nat) (bs : List Byte) : (s.setBytes a bs).regs = s.regs := by
  induction bs generalizing s a with
  | nil => rfl
  | cons b bs ih => exact ih _ _
@[simp] theorem setBytes_force (a : Nat) (bs : List Byte) : (s.setBytes a bs).force = s.force := by
  induction bs generalizing s a with
  | nil => rfl
  | cons b bs ih => exact ih _ _
@[simp] theorem setBytes_latch (a : Nat) (bs : List Byte) : (s.setBytes a bs).latch = s.latch := by
  induction bs generalizing s a with
  | nil => rfl
  | cons b bs ih => exact ih _ _
@[simp] theorem setBytes_resid (a : Nat) (bs : List Byte) : (s.setBytes a bs).resid = s.resid := by
  induction bs generalizing s a with
  | nil => rfl
  | cons b bs ih => exact ih _ _
@[simp] theorem setBytes_snap (a : Nat) (bs : List Byte) : (s.setBytes a bs).snap = s.snap := by
  induction bs generalizing s a with
  | nil => rfl
  | cons b bs ih => exact ih _ _
@[simp] theorem setBytes_poison (a : Nat) (bs : List Byte) : (s.setBytes a bs).poison = s.poison := by
  induction bs generalizing s a with
  | nil => rfl
  | cons b bs ih => exact ih _ _
@[simp] theorem setBytes_bale (a : Nat) (bs : List Byte) : (s.setBytes a bs).bale = s.bale := by
  induction bs generalizing s a with
  | nil => rfl
  | cons b bs ih => exact ih _ _
@[simp] theorem setBytes_streams (a : Nat) (bs : List Byte) : (s.setBytes a bs).streams = s.streams := by
  induction bs generalizing s a with
  | nil => rfl
  | cons b bs ih => exact ih _ _
@[simp] theorem setBytes_insts (a : Nat) (bs : List Byte) : (s.setBytes a bs).insts = s.insts := by
  induction bs generalizing s a with
  | nil => rfl
  | cons b bs ih => exact ih _ _
@[simp] theorem setBytes_tiles (a : Nat) (bs : List Byte) : (s.setBytes a bs).tiles = s.tiles := by
  induction bs generalizing s a with
  | nil => rfl
  | cons b bs ih => exact ih _ _
@[simp] theorem setBytes_pkg (a : Nat) (bs : List Byte) : (s.setBytes a bs).pkg = s.pkg := by
  induction bs generalizing s a with
  | nil => rfl
  | cons b bs ih => exact ih _ _
@[simp] theorem setBytes_out (a : Nat) (bs : List Byte) : (s.setBytes a bs).out = s.out := by
  induction bs generalizing s a with
  | nil => rfl
  | cons b bs ih => exact ih _ _
@[simp] theorem setBytes_now (a : Nat) (bs : List Byte) : (s.setBytes a bs).now = s.now := by
  induction bs generalizing s a with
  | nil => rfl
  | cons b bs ih => exact ih _ _
@[simp] theorem setBytes_aon (a : Nat) (bs : List Byte) : (s.setBytes a bs).aon = s.aon := by
  induction bs generalizing s a with
  | nil => rfl
  | cons b bs ih => exact ih _ _
@[simp] theorem setBytes_draws (a : Nat) (bs : List Byte) : (s.setBytes a bs).draws = s.draws := by
  induction bs generalizing s a with
  | nil => rfl
  | cons b bs ih => exact ih _ _
@[simp] theorem run_fld_pending (f : Fld) (t ix v : Nat) : (Eff.run s (.fld f t ix v)).pending = s.pending := (rfl)
@[simp] theorem run_fld_force (f : Fld) (t ix v : Nat) : (Eff.run s (.fld f t ix v)).force = s.force := (rfl)
@[simp] theorem run_fld_latch (f : Fld) (t ix v : Nat) : (Eff.run s (.fld f t ix v)).latch = s.latch := (rfl)
@[simp] theorem run_fld_resid (f : Fld) (t ix v : Nat) : (Eff.run s (.fld f t ix v)).resid = s.resid := (rfl)
@[simp] theorem run_fld_snap (f : Fld) (t ix v : Nat) : (Eff.run s (.fld f t ix v)).snap = s.snap := (rfl)
@[simp] theorem run_fld_mem (f : Fld) (t ix v : Nat) : (Eff.run s (.fld f t ix v)).mem = s.mem := (rfl)
@[simp] theorem run_fld_poison (f : Fld) (t ix v : Nat) : (Eff.run s (.fld f t ix v)).poison = s.poison := (rfl)
@[simp] theorem run_fld_bale (f : Fld) (t ix v : Nat) : (Eff.run s (.fld f t ix v)).bale = s.bale := (rfl)
@[simp] theorem run_fld_streams (f : Fld) (t ix v : Nat) : (Eff.run s (.fld f t ix v)).streams = s.streams := (rfl)
@[simp] theorem run_fld_insts (f : Fld) (t ix v : Nat) : (Eff.run s (.fld f t ix v)).insts = s.insts := (rfl)
@[simp] theorem run_fld_tiles (f : Fld) (t ix v : Nat) : (Eff.run s (.fld f t ix v)).tiles = s.tiles := (rfl)
@[simp] theorem run_fld_pkg (f : Fld) (t ix v : Nat) : (Eff.run s (.fld f t ix v)).pkg = s.pkg := (rfl)
@[simp] theorem run_fld_out (f : Fld) (t ix v : Nat) : (Eff.run s (.fld f t ix v)).out = s.out := (rfl)
@[simp] theorem run_fld_now (f : Fld) (t ix v : Nat) : (Eff.run s (.fld f t ix v)).now = s.now := (rfl)
@[simp] theorem run_fld_aon (f : Fld) (t ix v : Nat) : (Eff.run s (.fld f t ix v)).aon = s.aon := (rfl)
@[simp] theorem run_fld_draws (f : Fld) (t ix v : Nat) : (Eff.run s (.fld f t ix v)).draws = s.draws := (rfl)
@[simp] theorem run_word_pending (r : Reg) (t ix : Nat) (w : Word) : (Eff.run s (.word r t ix w)).pending = s.pending := (rfl)
@[simp] theorem run_word_force (r : Reg) (t ix : Nat) (w : Word) : (Eff.run s (.word r t ix w)).force = s.force := (rfl)
@[simp] theorem run_word_latch (r : Reg) (t ix : Nat) (w : Word) : (Eff.run s (.word r t ix w)).latch = s.latch := (rfl)
@[simp] theorem run_word_resid (r : Reg) (t ix : Nat) (w : Word) : (Eff.run s (.word r t ix w)).resid = s.resid := (rfl)
@[simp] theorem run_word_snap (r : Reg) (t ix : Nat) (w : Word) : (Eff.run s (.word r t ix w)).snap = s.snap := (rfl)
@[simp] theorem run_word_mem (r : Reg) (t ix : Nat) (w : Word) : (Eff.run s (.word r t ix w)).mem = s.mem := (rfl)
@[simp] theorem run_word_poison (r : Reg) (t ix : Nat) (w : Word) : (Eff.run s (.word r t ix w)).poison = s.poison := (rfl)
@[simp] theorem run_word_bale (r : Reg) (t ix : Nat) (w : Word) : (Eff.run s (.word r t ix w)).bale = s.bale := (rfl)
@[simp] theorem run_word_streams (r : Reg) (t ix : Nat) (w : Word) : (Eff.run s (.word r t ix w)).streams = s.streams := (rfl)
@[simp] theorem run_word_insts (r : Reg) (t ix : Nat) (w : Word) : (Eff.run s (.word r t ix w)).insts = s.insts := (rfl)
@[simp] theorem run_word_tiles (r : Reg) (t ix : Nat) (w : Word) : (Eff.run s (.word r t ix w)).tiles = s.tiles := (rfl)
@[simp] theorem run_word_pkg (r : Reg) (t ix : Nat) (w : Word) : (Eff.run s (.word r t ix w)).pkg = s.pkg := (rfl)
@[simp] theorem run_word_out (r : Reg) (t ix : Nat) (w : Word) : (Eff.run s (.word r t ix w)).out = s.out := (rfl)
@[simp] theorem run_word_now (r : Reg) (t ix : Nat) (w : Word) : (Eff.run s (.word r t ix w)).now = s.now := (rfl)
@[simp] theorem run_word_aon (r : Reg) (t ix : Nat) (w : Word) : (Eff.run s (.word r t ix w)).aon = s.aon := (rfl)
@[simp] theorem run_word_draws (r : Reg) (t ix : Nat) (w : Word) : (Eff.run s (.word r t ix w)).draws = s.draws := (rfl)
@[simp] theorem run_resetRegs_pending (p : RegKey → Bool) : (Eff.run s (.resetRegs p)).pending = s.pending := (rfl)
@[simp] theorem run_resetRegs_latch (p : RegKey → Bool) : (Eff.run s (.resetRegs p)).latch = s.latch := (rfl)
@[simp] theorem run_resetRegs_snap (p : RegKey → Bool) : (Eff.run s (.resetRegs p)).snap = s.snap := (rfl)
@[simp] theorem run_resetRegs_mem (p : RegKey → Bool) : (Eff.run s (.resetRegs p)).mem = s.mem := (rfl)
@[simp] theorem run_resetRegs_poison (p : RegKey → Bool) : (Eff.run s (.resetRegs p)).poison = s.poison := (rfl)
@[simp] theorem run_resetRegs_bale (p : RegKey → Bool) : (Eff.run s (.resetRegs p)).bale = s.bale := (rfl)
@[simp] theorem run_resetRegs_streams (p : RegKey → Bool) : (Eff.run s (.resetRegs p)).streams = s.streams := (rfl)
@[simp] theorem run_resetRegs_insts (p : RegKey → Bool) : (Eff.run s (.resetRegs p)).insts = s.insts := (rfl)
@[simp] theorem run_resetRegs_tiles (p : RegKey → Bool) : (Eff.run s (.resetRegs p)).tiles = s.tiles := (rfl)
@[simp] theorem run_resetRegs_pkg (p : RegKey → Bool) : (Eff.run s (.resetRegs p)).pkg = s.pkg := (rfl)
@[simp] theorem run_resetRegs_out (p : RegKey → Bool) : (Eff.run s (.resetRegs p)).out = s.out := (rfl)
@[simp] theorem run_resetRegs_now (p : RegKey → Bool) : (Eff.run s (.resetRegs p)).now = s.now := (rfl)
@[simp] theorem run_resetRegs_aon (p : RegKey → Bool) : (Eff.run s (.resetRegs p)).aon = s.aon := (rfl)
@[simp] theorem run_resetRegs_draws (p : RegKey → Bool) : (Eff.run s (.resetRegs p)).draws = s.draws := (rfl)
@[simp] theorem run_hold_pending (r : Reg) (t ix : Nat) : (Eff.run s (.hold r t ix)).pending = s.pending := (rfl)
@[simp] theorem run_hold_regs (r : Reg) (t ix : Nat) : (Eff.run s (.hold r t ix)).regs = s.regs := (rfl)
@[simp] theorem run_hold_latch (r : Reg) (t ix : Nat) : (Eff.run s (.hold r t ix)).latch = s.latch := (rfl)
@[simp] theorem run_hold_resid (r : Reg) (t ix : Nat) : (Eff.run s (.hold r t ix)).resid = s.resid := (rfl)
@[simp] theorem run_hold_snap (r : Reg) (t ix : Nat) : (Eff.run s (.hold r t ix)).snap = s.snap := (rfl)
@[simp] theorem run_hold_mem (r : Reg) (t ix : Nat) : (Eff.run s (.hold r t ix)).mem = s.mem := (rfl)
@[simp] theorem run_hold_poison (r : Reg) (t ix : Nat) : (Eff.run s (.hold r t ix)).poison = s.poison := (rfl)
@[simp] theorem run_hold_bale (r : Reg) (t ix : Nat) : (Eff.run s (.hold r t ix)).bale = s.bale := (rfl)
@[simp] theorem run_hold_streams (r : Reg) (t ix : Nat) : (Eff.run s (.hold r t ix)).streams = s.streams := (rfl)
@[simp] theorem run_hold_insts (r : Reg) (t ix : Nat) : (Eff.run s (.hold r t ix)).insts = s.insts := (rfl)
@[simp] theorem run_hold_tiles (r : Reg) (t ix : Nat) : (Eff.run s (.hold r t ix)).tiles = s.tiles := (rfl)
@[simp] theorem run_hold_pkg (r : Reg) (t ix : Nat) : (Eff.run s (.hold r t ix)).pkg = s.pkg := (rfl)
@[simp] theorem run_hold_out (r : Reg) (t ix : Nat) : (Eff.run s (.hold r t ix)).out = s.out := (rfl)
@[simp] theorem run_hold_now (r : Reg) (t ix : Nat) : (Eff.run s (.hold r t ix)).now = s.now := (rfl)
@[simp] theorem run_hold_aon (r : Reg) (t ix : Nat) : (Eff.run s (.hold r t ix)).aon = s.aon := (rfl)
@[simp] theorem run_hold_draws (r : Reg) (t ix : Nat) : (Eff.run s (.hold r t ix)).draws = s.draws := (rfl)
@[simp] theorem run_apply_pending (p : RegKey → Bool) : (Eff.run s (.apply p)).pending = s.pending := (rfl)
@[simp] theorem run_apply_regs (p : RegKey → Bool) : (Eff.run s (.apply p)).regs = s.regs := (rfl)
@[simp] theorem run_apply_latch (p : RegKey → Bool) : (Eff.run s (.apply p)).latch = s.latch := (rfl)
@[simp] theorem run_apply_resid (p : RegKey → Bool) : (Eff.run s (.apply p)).resid = s.resid := (rfl)
@[simp] theorem run_apply_snap (p : RegKey → Bool) : (Eff.run s (.apply p)).snap = s.snap := (rfl)
@[simp] theorem run_apply_mem (p : RegKey → Bool) : (Eff.run s (.apply p)).mem = s.mem := (rfl)
@[simp] theorem run_apply_poison (p : RegKey → Bool) : (Eff.run s (.apply p)).poison = s.poison := (rfl)
@[simp] theorem run_apply_bale (p : RegKey → Bool) : (Eff.run s (.apply p)).bale = s.bale := (rfl)
@[simp] theorem run_apply_streams (p : RegKey → Bool) : (Eff.run s (.apply p)).streams = s.streams := (rfl)
@[simp] theorem run_apply_insts (p : RegKey → Bool) : (Eff.run s (.apply p)).insts = s.insts := (rfl)
@[simp] theorem run_apply_tiles (p : RegKey → Bool) : (Eff.run s (.apply p)).tiles = s.tiles := (rfl)
@[simp] theorem run_apply_pkg (p : RegKey → Bool) : (Eff.run s (.apply p)).pkg = s.pkg := (rfl)
@[simp] theorem run_apply_out (p : RegKey → Bool) : (Eff.run s (.apply p)).out = s.out := (rfl)
@[simp] theorem run_apply_now (p : RegKey → Bool) : (Eff.run s (.apply p)).now = s.now := (rfl)
@[simp] theorem run_apply_aon (p : RegKey → Bool) : (Eff.run s (.apply p)).aon = s.aon := (rfl)
@[simp] theorem run_apply_draws (p : RegKey → Bool) : (Eff.run s (.apply p)).draws = s.draws := (rfl)
@[simp] theorem run_latch_pending (r : Reg) (t c : Nat) (w : Option Word) : (Eff.run s (.latch r t c w)).pending = s.pending := (rfl)
@[simp] theorem run_latch_regs (r : Reg) (t c : Nat) (w : Option Word) : (Eff.run s (.latch r t c w)).regs = s.regs := (rfl)
@[simp] theorem run_latch_force (r : Reg) (t c : Nat) (w : Option Word) : (Eff.run s (.latch r t c w)).force = s.force := (rfl)
@[simp] theorem run_latch_resid (r : Reg) (t c : Nat) (w : Option Word) : (Eff.run s (.latch r t c w)).resid = s.resid := (rfl)
@[simp] theorem run_latch_snap (r : Reg) (t c : Nat) (w : Option Word) : (Eff.run s (.latch r t c w)).snap = s.snap := (rfl)
@[simp] theorem run_latch_mem (r : Reg) (t c : Nat) (w : Option Word) : (Eff.run s (.latch r t c w)).mem = s.mem := (rfl)
@[simp] theorem run_latch_poison (r : Reg) (t c : Nat) (w : Option Word) : (Eff.run s (.latch r t c w)).poison = s.poison := (rfl)
@[simp] theorem run_latch_bale (r : Reg) (t c : Nat) (w : Option Word) : (Eff.run s (.latch r t c w)).bale = s.bale := (rfl)
@[simp] theorem run_latch_streams (r : Reg) (t c : Nat) (w : Option Word) : (Eff.run s (.latch r t c w)).streams = s.streams := (rfl)
@[simp] theorem run_latch_insts (r : Reg) (t c : Nat) (w : Option Word) : (Eff.run s (.latch r t c w)).insts = s.insts := (rfl)
@[simp] theorem run_latch_tiles (r : Reg) (t c : Nat) (w : Option Word) : (Eff.run s (.latch r t c w)).tiles = s.tiles := (rfl)
@[simp] theorem run_latch_pkg (r : Reg) (t c : Nat) (w : Option Word) : (Eff.run s (.latch r t c w)).pkg = s.pkg := (rfl)
@[simp] theorem run_latch_out (r : Reg) (t c : Nat) (w : Option Word) : (Eff.run s (.latch r t c w)).out = s.out := (rfl)
@[simp] theorem run_latch_now (r : Reg) (t c : Nat) (w : Option Word) : (Eff.run s (.latch r t c w)).now = s.now := (rfl)
@[simp] theorem run_latch_aon (r : Reg) (t c : Nat) (w : Option Word) : (Eff.run s (.latch r t c w)).aon = s.aon := (rfl)
@[simp] theorem run_latch_draws (r : Reg) (t c : Nat) (w : Option Word) : (Eff.run s (.latch r t c w)).draws = s.draws := (rfl)
@[simp] theorem run_unlatch_pending : (Eff.run s (.unlatch)).pending = s.pending := (rfl)
@[simp] theorem run_unlatch_regs : (Eff.run s (.unlatch)).regs = s.regs := (rfl)
@[simp] theorem run_unlatch_force : (Eff.run s (.unlatch)).force = s.force := (rfl)
@[simp] theorem run_unlatch_resid : (Eff.run s (.unlatch)).resid = s.resid := (rfl)
@[simp] theorem run_unlatch_snap : (Eff.run s (.unlatch)).snap = s.snap := (rfl)
@[simp] theorem run_unlatch_mem : (Eff.run s (.unlatch)).mem = s.mem := (rfl)
@[simp] theorem run_unlatch_poison : (Eff.run s (.unlatch)).poison = s.poison := (rfl)
@[simp] theorem run_unlatch_bale : (Eff.run s (.unlatch)).bale = s.bale := (rfl)
@[simp] theorem run_unlatch_streams : (Eff.run s (.unlatch)).streams = s.streams := (rfl)
@[simp] theorem run_unlatch_insts : (Eff.run s (.unlatch)).insts = s.insts := (rfl)
@[simp] theorem run_unlatch_tiles : (Eff.run s (.unlatch)).tiles = s.tiles := (rfl)
@[simp] theorem run_unlatch_pkg : (Eff.run s (.unlatch)).pkg = s.pkg := (rfl)
@[simp] theorem run_unlatch_out : (Eff.run s (.unlatch)).out = s.out := (rfl)
@[simp] theorem run_unlatch_now : (Eff.run s (.unlatch)).now = s.now := (rfl)
@[simp] theorem run_unlatch_aon : (Eff.run s (.unlatch)).aon = s.aon := (rfl)
@[simp] theorem run_unlatch_draws : (Eff.run s (.unlatch)).draws = s.draws := (rfl)
@[simp] theorem run_countU_pending (f : Fld) (t ix u n : Nat) : (Eff.run s (.countU f t ix u n)).pending = s.pending := (rfl)
@[simp] theorem run_countU_force (f : Fld) (t ix u n : Nat) : (Eff.run s (.countU f t ix u n)).force = s.force := (rfl)
@[simp] theorem run_countU_latch (f : Fld) (t ix u n : Nat) : (Eff.run s (.countU f t ix u n)).latch = s.latch := (rfl)
@[simp] theorem run_countU_snap (f : Fld) (t ix u n : Nat) : (Eff.run s (.countU f t ix u n)).snap = s.snap := (rfl)
@[simp] theorem run_countU_mem (f : Fld) (t ix u n : Nat) : (Eff.run s (.countU f t ix u n)).mem = s.mem := (rfl)
@[simp] theorem run_countU_poison (f : Fld) (t ix u n : Nat) : (Eff.run s (.countU f t ix u n)).poison = s.poison := (rfl)
@[simp] theorem run_countU_bale (f : Fld) (t ix u n : Nat) : (Eff.run s (.countU f t ix u n)).bale = s.bale := (rfl)
@[simp] theorem run_countU_streams (f : Fld) (t ix u n : Nat) : (Eff.run s (.countU f t ix u n)).streams = s.streams := (rfl)
@[simp] theorem run_countU_insts (f : Fld) (t ix u n : Nat) : (Eff.run s (.countU f t ix u n)).insts = s.insts := (rfl)
@[simp] theorem run_countU_tiles (f : Fld) (t ix u n : Nat) : (Eff.run s (.countU f t ix u n)).tiles = s.tiles := (rfl)
@[simp] theorem run_countU_pkg (f : Fld) (t ix u n : Nat) : (Eff.run s (.countU f t ix u n)).pkg = s.pkg := (rfl)
@[simp] theorem run_countU_out (f : Fld) (t ix u n : Nat) : (Eff.run s (.countU f t ix u n)).out = s.out := (rfl)
@[simp] theorem run_countU_now (f : Fld) (t ix u n : Nat) : (Eff.run s (.countU f t ix u n)).now = s.now := (rfl)
@[simp] theorem run_countU_aon (f : Fld) (t ix u n : Nat) : (Eff.run s (.countU f t ix u n)).aon = s.aon := (rfl)
@[simp] theorem run_countU_draws (f : Fld) (t ix u n : Nat) : (Eff.run s (.countU f t ix u n)).draws = s.draws := (rfl)
@[simp] theorem run_snapshot_pending (t : Nat) (l : List (RegKey × Word)) : (Eff.run s (.snapshot t l)).pending = s.pending := (rfl)
@[simp] theorem run_snapshot_regs (t : Nat) (l : List (RegKey × Word)) : (Eff.run s (.snapshot t l)).regs = s.regs := (rfl)
@[simp] theorem run_snapshot_force (t : Nat) (l : List (RegKey × Word)) : (Eff.run s (.snapshot t l)).force = s.force := (rfl)
@[simp] theorem run_snapshot_latch (t : Nat) (l : List (RegKey × Word)) : (Eff.run s (.snapshot t l)).latch = s.latch := (rfl)
@[simp] theorem run_snapshot_resid (t : Nat) (l : List (RegKey × Word)) : (Eff.run s (.snapshot t l)).resid = s.resid := (rfl)
@[simp] theorem run_snapshot_mem (t : Nat) (l : List (RegKey × Word)) : (Eff.run s (.snapshot t l)).mem = s.mem := (rfl)
@[simp] theorem run_snapshot_poison (t : Nat) (l : List (RegKey × Word)) : (Eff.run s (.snapshot t l)).poison = s.poison := (rfl)
@[simp] theorem run_snapshot_bale (t : Nat) (l : List (RegKey × Word)) : (Eff.run s (.snapshot t l)).bale = s.bale := (rfl)
@[simp] theorem run_snapshot_streams (t : Nat) (l : List (RegKey × Word)) : (Eff.run s (.snapshot t l)).streams = s.streams := (rfl)
@[simp] theorem run_snapshot_insts (t : Nat) (l : List (RegKey × Word)) : (Eff.run s (.snapshot t l)).insts = s.insts := (rfl)
@[simp] theorem run_snapshot_tiles (t : Nat) (l : List (RegKey × Word)) : (Eff.run s (.snapshot t l)).tiles = s.tiles := (rfl)
@[simp] theorem run_snapshot_pkg (t : Nat) (l : List (RegKey × Word)) : (Eff.run s (.snapshot t l)).pkg = s.pkg := (rfl)
@[simp] theorem run_snapshot_out (t : Nat) (l : List (RegKey × Word)) : (Eff.run s (.snapshot t l)).out = s.out := (rfl)
@[simp] theorem run_snapshot_now (t : Nat) (l : List (RegKey × Word)) : (Eff.run s (.snapshot t l)).now = s.now := (rfl)
@[simp] theorem run_snapshot_aon (t : Nat) (l : List (RegKey × Word)) : (Eff.run s (.snapshot t l)).aon = s.aon := (rfl)
@[simp] theorem run_snapshot_draws (t : Nat) (l : List (RegKey × Word)) : (Eff.run s (.snapshot t l)).draws = s.draws := (rfl)
@[simp] theorem run_mem_pending (a : Nat) (bs : List Byte) : (Eff.run s (.mem a bs)).pending = s.pending := setBytes_pending s a bs
@[simp] theorem run_mem_regs (a : Nat) (bs : List Byte) : (Eff.run s (.mem a bs)).regs = s.regs := setBytes_regs s a bs
@[simp] theorem run_mem_force (a : Nat) (bs : List Byte) : (Eff.run s (.mem a bs)).force = s.force := setBytes_force s a bs
@[simp] theorem run_mem_latch (a : Nat) (bs : List Byte) : (Eff.run s (.mem a bs)).latch = s.latch := setBytes_latch s a bs
@[simp] theorem run_mem_resid (a : Nat) (bs : List Byte) : (Eff.run s (.mem a bs)).resid = s.resid := setBytes_resid s a bs
@[simp] theorem run_mem_snap (a : Nat) (bs : List Byte) : (Eff.run s (.mem a bs)).snap = s.snap := setBytes_snap s a bs
@[simp] theorem run_mem_poison (a : Nat) (bs : List Byte) : (Eff.run s (.mem a bs)).poison = s.poison := setBytes_poison s a bs
@[simp] theorem run_mem_bale (a : Nat) (bs : List Byte) : (Eff.run s (.mem a bs)).bale = s.bale := setBytes_bale s a bs
@[simp] theorem run_mem_streams (a : Nat) (bs : List Byte) : (Eff.run s (.mem a bs)).streams = s.streams := setBytes_streams s a bs
@[simp] theorem run_mem_insts (a : Nat) (bs : List Byte) : (Eff.run s (.mem a bs)).insts = s.insts := setBytes_insts s a bs
@[simp] theorem run_mem_tiles (a : Nat) (bs : List Byte) : (Eff.run s (.mem a bs)).tiles = s.tiles := setBytes_tiles s a bs
@[simp] theorem run_mem_pkg (a : Nat) (bs : List Byte) : (Eff.run s (.mem a bs)).pkg = s.pkg := setBytes_pkg s a bs
@[simp] theorem run_mem_out (a : Nat) (bs : List Byte) : (Eff.run s (.mem a bs)).out = s.out := setBytes_out s a bs
@[simp] theorem run_mem_now (a : Nat) (bs : List Byte) : (Eff.run s (.mem a bs)).now = s.now := setBytes_now s a bs
@[simp] theorem run_mem_aon (a : Nat) (bs : List Byte) : (Eff.run s (.mem a bs)).aon = s.aon := setBytes_aon s a bs
@[simp] theorem run_mem_draws (a : Nat) (bs : List Byte) : (Eff.run s (.mem a bs)).draws = s.draws := setBytes_draws s a bs
@[simp] theorem run_memZero_pending (a n : Nat) : (Eff.run s (.memZero a n)).pending = s.pending := (rfl)
@[simp] theorem run_memZero_regs (a n : Nat) : (Eff.run s (.memZero a n)).regs = s.regs := (rfl)
@[simp] theorem run_memZero_force (a n : Nat) : (Eff.run s (.memZero a n)).force = s.force := (rfl)
@[simp] theorem run_memZero_latch (a n : Nat) : (Eff.run s (.memZero a n)).latch = s.latch := (rfl)
@[simp] theorem run_memZero_resid (a n : Nat) : (Eff.run s (.memZero a n)).resid = s.resid := (rfl)
@[simp] theorem run_memZero_snap (a n : Nat) : (Eff.run s (.memZero a n)).snap = s.snap := (rfl)
@[simp] theorem run_memZero_poison (a n : Nat) : (Eff.run s (.memZero a n)).poison = s.poison := (rfl)
@[simp] theorem run_memZero_bale (a n : Nat) : (Eff.run s (.memZero a n)).bale = s.bale := (rfl)
@[simp] theorem run_memZero_streams (a n : Nat) : (Eff.run s (.memZero a n)).streams = s.streams := (rfl)
@[simp] theorem run_memZero_insts (a n : Nat) : (Eff.run s (.memZero a n)).insts = s.insts := (rfl)
@[simp] theorem run_memZero_tiles (a n : Nat) : (Eff.run s (.memZero a n)).tiles = s.tiles := (rfl)
@[simp] theorem run_memZero_pkg (a n : Nat) : (Eff.run s (.memZero a n)).pkg = s.pkg := (rfl)
@[simp] theorem run_memZero_out (a n : Nat) : (Eff.run s (.memZero a n)).out = s.out := (rfl)
@[simp] theorem run_memZero_now (a n : Nat) : (Eff.run s (.memZero a n)).now = s.now := (rfl)
@[simp] theorem run_memZero_aon (a n : Nat) : (Eff.run s (.memZero a n)).aon = s.aon := (rfl)
@[simp] theorem run_memZero_draws (a n : Nat) : (Eff.run s (.memZero a n)).draws = s.draws := (rfl)
@[simp] theorem run_poison_pending (g : Nat) (b : Bool) : (Eff.run s (.poison g b)).pending = s.pending := (rfl)
@[simp] theorem run_poison_regs (g : Nat) (b : Bool) : (Eff.run s (.poison g b)).regs = s.regs := (rfl)
@[simp] theorem run_poison_force (g : Nat) (b : Bool) : (Eff.run s (.poison g b)).force = s.force := (rfl)
@[simp] theorem run_poison_latch (g : Nat) (b : Bool) : (Eff.run s (.poison g b)).latch = s.latch := (rfl)
@[simp] theorem run_poison_resid (g : Nat) (b : Bool) : (Eff.run s (.poison g b)).resid = s.resid := (rfl)
@[simp] theorem run_poison_snap (g : Nat) (b : Bool) : (Eff.run s (.poison g b)).snap = s.snap := (rfl)
@[simp] theorem run_poison_mem (g : Nat) (b : Bool) : (Eff.run s (.poison g b)).mem = s.mem := (rfl)
@[simp] theorem run_poison_bale (g : Nat) (b : Bool) : (Eff.run s (.poison g b)).bale = s.bale := (rfl)
@[simp] theorem run_poison_streams (g : Nat) (b : Bool) : (Eff.run s (.poison g b)).streams = s.streams := (rfl)
@[simp] theorem run_poison_insts (g : Nat) (b : Bool) : (Eff.run s (.poison g b)).insts = s.insts := (rfl)
@[simp] theorem run_poison_tiles (g : Nat) (b : Bool) : (Eff.run s (.poison g b)).tiles = s.tiles := (rfl)
@[simp] theorem run_poison_pkg (g : Nat) (b : Bool) : (Eff.run s (.poison g b)).pkg = s.pkg := (rfl)
@[simp] theorem run_poison_out (g : Nat) (b : Bool) : (Eff.run s (.poison g b)).out = s.out := (rfl)
@[simp] theorem run_poison_now (g : Nat) (b : Bool) : (Eff.run s (.poison g b)).now = s.now := (rfl)
@[simp] theorem run_poison_aon (g : Nat) (b : Bool) : (Eff.run s (.poison g b)).aon = s.aon := (rfl)
@[simp] theorem run_poison_draws (g : Nat) (b : Bool) : (Eff.run s (.poison g b)).draws = s.draws := (rfl)
@[simp] theorem run_unpoison_pending (lo hi : Nat) : (Eff.run s (.unpoison lo hi)).pending = s.pending := (rfl)
@[simp] theorem run_unpoison_regs (lo hi : Nat) : (Eff.run s (.unpoison lo hi)).regs = s.regs := (rfl)
@[simp] theorem run_unpoison_force (lo hi : Nat) : (Eff.run s (.unpoison lo hi)).force = s.force := (rfl)
@[simp] theorem run_unpoison_latch (lo hi : Nat) : (Eff.run s (.unpoison lo hi)).latch = s.latch := (rfl)
@[simp] theorem run_unpoison_resid (lo hi : Nat) : (Eff.run s (.unpoison lo hi)).resid = s.resid := (rfl)
@[simp] theorem run_unpoison_snap (lo hi : Nat) : (Eff.run s (.unpoison lo hi)).snap = s.snap := (rfl)
@[simp] theorem run_unpoison_mem (lo hi : Nat) : (Eff.run s (.unpoison lo hi)).mem = s.mem := (rfl)
@[simp] theorem run_unpoison_bale (lo hi : Nat) : (Eff.run s (.unpoison lo hi)).bale = s.bale := (rfl)
@[simp] theorem run_unpoison_streams (lo hi : Nat) : (Eff.run s (.unpoison lo hi)).streams = s.streams := (rfl)
@[simp] theorem run_unpoison_insts (lo hi : Nat) : (Eff.run s (.unpoison lo hi)).insts = s.insts := (rfl)
@[simp] theorem run_unpoison_tiles (lo hi : Nat) : (Eff.run s (.unpoison lo hi)).tiles = s.tiles := (rfl)
@[simp] theorem run_unpoison_pkg (lo hi : Nat) : (Eff.run s (.unpoison lo hi)).pkg = s.pkg := (rfl)
@[simp] theorem run_unpoison_out (lo hi : Nat) : (Eff.run s (.unpoison lo hi)).out = s.out := (rfl)
@[simp] theorem run_unpoison_now (lo hi : Nat) : (Eff.run s (.unpoison lo hi)).now = s.now := (rfl)
@[simp] theorem run_unpoison_aon (lo hi : Nat) : (Eff.run s (.unpoison lo hi)).aon = s.aon := (rfl)
@[simp] theorem run_unpoison_draws (lo hi : Nat) : (Eff.run s (.unpoison lo hi)).draws = s.draws := (rfl)
@[simp] theorem run_bale_pending (b c : Nat) : (Eff.run s (.bale b c)).pending = s.pending := (rfl)
@[simp] theorem run_bale_regs (b c : Nat) : (Eff.run s (.bale b c)).regs = s.regs := (rfl)
@[simp] theorem run_bale_force (b c : Nat) : (Eff.run s (.bale b c)).force = s.force := (rfl)
@[simp] theorem run_bale_latch (b c : Nat) : (Eff.run s (.bale b c)).latch = s.latch := (rfl)
@[simp] theorem run_bale_resid (b c : Nat) : (Eff.run s (.bale b c)).resid = s.resid := (rfl)
@[simp] theorem run_bale_snap (b c : Nat) : (Eff.run s (.bale b c)).snap = s.snap := (rfl)
@[simp] theorem run_bale_mem (b c : Nat) : (Eff.run s (.bale b c)).mem = s.mem := (rfl)
@[simp] theorem run_bale_poison (b c : Nat) : (Eff.run s (.bale b c)).poison = s.poison := (rfl)
@[simp] theorem run_bale_streams (b c : Nat) : (Eff.run s (.bale b c)).streams = s.streams := (rfl)
@[simp] theorem run_bale_insts (b c : Nat) : (Eff.run s (.bale b c)).insts = s.insts := (rfl)
@[simp] theorem run_bale_tiles (b c : Nat) : (Eff.run s (.bale b c)).tiles = s.tiles := (rfl)
@[simp] theorem run_bale_pkg (b c : Nat) : (Eff.run s (.bale b c)).pkg = s.pkg := (rfl)
@[simp] theorem run_bale_out (b c : Nat) : (Eff.run s (.bale b c)).out = s.out := (rfl)
@[simp] theorem run_bale_now (b c : Nat) : (Eff.run s (.bale b c)).now = s.now := (rfl)
@[simp] theorem run_bale_aon (b c : Nat) : (Eff.run s (.bale b c)).aon = s.aon := (rfl)
@[simp] theorem run_bale_draws (b c : Nat) : (Eff.run s (.bale b c)).draws = s.draws := (rfl)
@[simp] theorem run_stream_pending (id : Nat) (f : Stream → Stream) : (Eff.run s (.stream id f)).pending = s.pending := (rfl)
@[simp] theorem run_stream_regs (id : Nat) (f : Stream → Stream) : (Eff.run s (.stream id f)).regs = s.regs := (rfl)
@[simp] theorem run_stream_force (id : Nat) (f : Stream → Stream) : (Eff.run s (.stream id f)).force = s.force := (rfl)
@[simp] theorem run_stream_latch (id : Nat) (f : Stream → Stream) : (Eff.run s (.stream id f)).latch = s.latch := (rfl)
@[simp] theorem run_stream_resid (id : Nat) (f : Stream → Stream) : (Eff.run s (.stream id f)).resid = s.resid := (rfl)
@[simp] theorem run_stream_snap (id : Nat) (f : Stream → Stream) : (Eff.run s (.stream id f)).snap = s.snap := (rfl)
@[simp] theorem run_stream_mem (id : Nat) (f : Stream → Stream) : (Eff.run s (.stream id f)).mem = s.mem := (rfl)
@[simp] theorem run_stream_poison (id : Nat) (f : Stream → Stream) : (Eff.run s (.stream id f)).poison = s.poison := (rfl)
@[simp] theorem run_stream_bale (id : Nat) (f : Stream → Stream) : (Eff.run s (.stream id f)).bale = s.bale := (rfl)
@[simp] theorem run_stream_insts (id : Nat) (f : Stream → Stream) : (Eff.run s (.stream id f)).insts = s.insts := (rfl)
@[simp] theorem run_stream_tiles (id : Nat) (f : Stream → Stream) : (Eff.run s (.stream id f)).tiles = s.tiles := (rfl)
@[simp] theorem run_stream_pkg (id : Nat) (f : Stream → Stream) : (Eff.run s (.stream id f)).pkg = s.pkg := (rfl)
@[simp] theorem run_stream_out (id : Nat) (f : Stream → Stream) : (Eff.run s (.stream id f)).out = s.out := (rfl)
@[simp] theorem run_stream_now (id : Nat) (f : Stream → Stream) : (Eff.run s (.stream id f)).now = s.now := (rfl)
@[simp] theorem run_stream_aon (id : Nat) (f : Stream → Stream) : (Eff.run s (.stream id f)).aon = s.aon := (rfl)
@[simp] theorem run_stream_draws (id : Nat) (f : Stream → Stream) : (Eff.run s (.stream id f)).draws = s.draws := (rfl)
@[simp] theorem run_inst_pending (n : Nat) (f : Inst → Inst) : (Eff.run s (.inst n f)).pending = s.pending := (rfl)
@[simp] theorem run_inst_regs (n : Nat) (f : Inst → Inst) : (Eff.run s (.inst n f)).regs = s.regs := (rfl)
@[simp] theorem run_inst_force (n : Nat) (f : Inst → Inst) : (Eff.run s (.inst n f)).force = s.force := (rfl)
@[simp] theorem run_inst_latch (n : Nat) (f : Inst → Inst) : (Eff.run s (.inst n f)).latch = s.latch := (rfl)
@[simp] theorem run_inst_resid (n : Nat) (f : Inst → Inst) : (Eff.run s (.inst n f)).resid = s.resid := (rfl)
@[simp] theorem run_inst_snap (n : Nat) (f : Inst → Inst) : (Eff.run s (.inst n f)).snap = s.snap := (rfl)
@[simp] theorem run_inst_mem (n : Nat) (f : Inst → Inst) : (Eff.run s (.inst n f)).mem = s.mem := (rfl)
@[simp] theorem run_inst_poison (n : Nat) (f : Inst → Inst) : (Eff.run s (.inst n f)).poison = s.poison := (rfl)
@[simp] theorem run_inst_bale (n : Nat) (f : Inst → Inst) : (Eff.run s (.inst n f)).bale = s.bale := (rfl)
@[simp] theorem run_inst_streams (n : Nat) (f : Inst → Inst) : (Eff.run s (.inst n f)).streams = s.streams := (rfl)
@[simp] theorem run_inst_tiles (n : Nat) (f : Inst → Inst) : (Eff.run s (.inst n f)).tiles = s.tiles := (rfl)
@[simp] theorem run_inst_pkg (n : Nat) (f : Inst → Inst) : (Eff.run s (.inst n f)).pkg = s.pkg := (rfl)
@[simp] theorem run_inst_out (n : Nat) (f : Inst → Inst) : (Eff.run s (.inst n f)).out = s.out := (rfl)
@[simp] theorem run_inst_now (n : Nat) (f : Inst → Inst) : (Eff.run s (.inst n f)).now = s.now := (rfl)
@[simp] theorem run_inst_aon (n : Nat) (f : Inst → Inst) : (Eff.run s (.inst n f)).aon = s.aon := (rfl)
@[simp] theorem run_inst_draws (n : Nat) (f : Inst → Inst) : (Eff.run s (.inst n f)).draws = s.draws := (rfl)
@[simp] theorem run_tile_pending (t : Nat) (f : Tile → Tile) : (Eff.run s (.tile t f)).pending = s.pending := (rfl)
@[simp] theorem run_tile_regs (t : Nat) (f : Tile → Tile) : (Eff.run s (.tile t f)).regs = s.regs := (rfl)
@[simp] theorem run_tile_force (t : Nat) (f : Tile → Tile) : (Eff.run s (.tile t f)).force = s.force := (rfl)
@[simp] theorem run_tile_latch (t : Nat) (f : Tile → Tile) : (Eff.run s (.tile t f)).latch = s.latch := (rfl)
@[simp] theorem run_tile_resid (t : Nat) (f : Tile → Tile) : (Eff.run s (.tile t f)).resid = s.resid := (rfl)
@[simp] theorem run_tile_snap (t : Nat) (f : Tile → Tile) : (Eff.run s (.tile t f)).snap = s.snap := (rfl)
@[simp] theorem run_tile_mem (t : Nat) (f : Tile → Tile) : (Eff.run s (.tile t f)).mem = s.mem := (rfl)
@[simp] theorem run_tile_poison (t : Nat) (f : Tile → Tile) : (Eff.run s (.tile t f)).poison = s.poison := (rfl)
@[simp] theorem run_tile_bale (t : Nat) (f : Tile → Tile) : (Eff.run s (.tile t f)).bale = s.bale := (rfl)
@[simp] theorem run_tile_streams (t : Nat) (f : Tile → Tile) : (Eff.run s (.tile t f)).streams = s.streams := (rfl)
@[simp] theorem run_tile_insts (t : Nat) (f : Tile → Tile) : (Eff.run s (.tile t f)).insts = s.insts := (rfl)
@[simp] theorem run_tile_pkg (t : Nat) (f : Tile → Tile) : (Eff.run s (.tile t f)).pkg = s.pkg := (rfl)
@[simp] theorem run_tile_out (t : Nat) (f : Tile → Tile) : (Eff.run s (.tile t f)).out = s.out := (rfl)
@[simp] theorem run_tile_now (t : Nat) (f : Tile → Tile) : (Eff.run s (.tile t f)).now = s.now := (rfl)
@[simp] theorem run_tile_aon (t : Nat) (f : Tile → Tile) : (Eff.run s (.tile t f)).aon = s.aon := (rfl)
@[simp] theorem run_tile_draws (t : Nat) (f : Tile → Tile) : (Eff.run s (.tile t f)).draws = s.draws := (rfl)
@[simp] theorem run_pkg_pending (f : Pkg → Pkg) : (Eff.run s (.pkg f)).pending = s.pending := (rfl)
@[simp] theorem run_pkg_regs (f : Pkg → Pkg) : (Eff.run s (.pkg f)).regs = s.regs := (rfl)
@[simp] theorem run_pkg_force (f : Pkg → Pkg) : (Eff.run s (.pkg f)).force = s.force := (rfl)
@[simp] theorem run_pkg_latch (f : Pkg → Pkg) : (Eff.run s (.pkg f)).latch = s.latch := (rfl)
@[simp] theorem run_pkg_resid (f : Pkg → Pkg) : (Eff.run s (.pkg f)).resid = s.resid := (rfl)
@[simp] theorem run_pkg_snap (f : Pkg → Pkg) : (Eff.run s (.pkg f)).snap = s.snap := (rfl)
@[simp] theorem run_pkg_mem (f : Pkg → Pkg) : (Eff.run s (.pkg f)).mem = s.mem := (rfl)
@[simp] theorem run_pkg_poison (f : Pkg → Pkg) : (Eff.run s (.pkg f)).poison = s.poison := (rfl)
@[simp] theorem run_pkg_bale (f : Pkg → Pkg) : (Eff.run s (.pkg f)).bale = s.bale := (rfl)
@[simp] theorem run_pkg_streams (f : Pkg → Pkg) : (Eff.run s (.pkg f)).streams = s.streams := (rfl)
@[simp] theorem run_pkg_insts (f : Pkg → Pkg) : (Eff.run s (.pkg f)).insts = s.insts := (rfl)
@[simp] theorem run_pkg_tiles (f : Pkg → Pkg) : (Eff.run s (.pkg f)).tiles = s.tiles := (rfl)
@[simp] theorem run_pkg_out (f : Pkg → Pkg) : (Eff.run s (.pkg f)).out = s.out := (rfl)
@[simp] theorem run_pkg_now (f : Pkg → Pkg) : (Eff.run s (.pkg f)).now = s.now := (rfl)
@[simp] theorem run_pkg_aon (f : Pkg → Pkg) : (Eff.run s (.pkg f)).aon = s.aon := (rfl)
@[simp] theorem run_pkg_draws (f : Pkg → Pkg) : (Eff.run s (.pkg f)).draws = s.draws := (rfl)
@[simp] theorem run_emit_pending (e : Emission) : (Eff.run s (.emit e)).pending = s.pending := (rfl)
@[simp] theorem run_emit_regs (e : Emission) : (Eff.run s (.emit e)).regs = s.regs := (rfl)
@[simp] theorem run_emit_force (e : Emission) : (Eff.run s (.emit e)).force = s.force := (rfl)
@[simp] theorem run_emit_latch (e : Emission) : (Eff.run s (.emit e)).latch = s.latch := (rfl)
@[simp] theorem run_emit_resid (e : Emission) : (Eff.run s (.emit e)).resid = s.resid := (rfl)
@[simp] theorem run_emit_snap (e : Emission) : (Eff.run s (.emit e)).snap = s.snap := (rfl)
@[simp] theorem run_emit_mem (e : Emission) : (Eff.run s (.emit e)).mem = s.mem := (rfl)
@[simp] theorem run_emit_poison (e : Emission) : (Eff.run s (.emit e)).poison = s.poison := (rfl)
@[simp] theorem run_emit_bale (e : Emission) : (Eff.run s (.emit e)).bale = s.bale := (rfl)
@[simp] theorem run_emit_streams (e : Emission) : (Eff.run s (.emit e)).streams = s.streams := (rfl)
@[simp] theorem run_emit_insts (e : Emission) : (Eff.run s (.emit e)).insts = s.insts := (rfl)
@[simp] theorem run_emit_tiles (e : Emission) : (Eff.run s (.emit e)).tiles = s.tiles := (rfl)
@[simp] theorem run_emit_pkg (e : Emission) : (Eff.run s (.emit e)).pkg = s.pkg := (rfl)
@[simp] theorem run_emit_now (e : Emission) : (Eff.run s (.emit e)).now = s.now := (rfl)
@[simp] theorem run_emit_aon (e : Emission) : (Eff.run s (.emit e)).aon = s.aon := (rfl)
@[simp] theorem run_emit_draws (e : Emission) : (Eff.run s (.emit e)).draws = s.draws := (rfl)
@[simp] theorem run_draw_pending (n : Nat) : (Eff.run s (.draw n)).pending = s.pending := (rfl)
@[simp] theorem run_draw_regs (n : Nat) : (Eff.run s (.draw n)).regs = s.regs := (rfl)
@[simp] theorem run_draw_force (n : Nat) : (Eff.run s (.draw n)).force = s.force := (rfl)
@[simp] theorem run_draw_latch (n : Nat) : (Eff.run s (.draw n)).latch = s.latch := (rfl)
@[simp] theorem run_draw_resid (n : Nat) : (Eff.run s (.draw n)).resid = s.resid := (rfl)
@[simp] theorem run_draw_snap (n : Nat) : (Eff.run s (.draw n)).snap = s.snap := (rfl)
@[simp] theorem run_draw_mem (n : Nat) : (Eff.run s (.draw n)).mem = s.mem := (rfl)
@[simp] theorem run_draw_poison (n : Nat) : (Eff.run s (.draw n)).poison = s.poison := (rfl)
@[simp] theorem run_draw_bale (n : Nat) : (Eff.run s (.draw n)).bale = s.bale := (rfl)
@[simp] theorem run_draw_streams (n : Nat) : (Eff.run s (.draw n)).streams = s.streams := (rfl)
@[simp] theorem run_draw_insts (n : Nat) : (Eff.run s (.draw n)).insts = s.insts := (rfl)
@[simp] theorem run_draw_tiles (n : Nat) : (Eff.run s (.draw n)).tiles = s.tiles := (rfl)
@[simp] theorem run_draw_pkg (n : Nat) : (Eff.run s (.draw n)).pkg = s.pkg := (rfl)
@[simp] theorem run_draw_out (n : Nat) : (Eff.run s (.draw n)).out = s.out := (rfl)
@[simp] theorem run_draw_now (n : Nat) : (Eff.run s (.draw n)).now = s.now := (rfl)
@[simp] theorem run_draw_aon (n : Nat) : (Eff.run s (.draw n)).aon = s.aon := (rfl)
@[simp] theorem run_setNow_pending (n : Nat) : (Eff.run s (.setNow n)).pending = s.pending := (rfl)
@[simp] theorem run_setNow_regs (n : Nat) : (Eff.run s (.setNow n)).regs = s.regs := (rfl)
@[simp] theorem run_setNow_force (n : Nat) : (Eff.run s (.setNow n)).force = s.force := (rfl)
@[simp] theorem run_setNow_latch (n : Nat) : (Eff.run s (.setNow n)).latch = s.latch := (rfl)
@[simp] theorem run_setNow_resid (n : Nat) : (Eff.run s (.setNow n)).resid = s.resid := (rfl)
@[simp] theorem run_setNow_snap (n : Nat) : (Eff.run s (.setNow n)).snap = s.snap := (rfl)
@[simp] theorem run_setNow_mem (n : Nat) : (Eff.run s (.setNow n)).mem = s.mem := (rfl)
@[simp] theorem run_setNow_poison (n : Nat) : (Eff.run s (.setNow n)).poison = s.poison := (rfl)
@[simp] theorem run_setNow_bale (n : Nat) : (Eff.run s (.setNow n)).bale = s.bale := (rfl)
@[simp] theorem run_setNow_streams (n : Nat) : (Eff.run s (.setNow n)).streams = s.streams := (rfl)
@[simp] theorem run_setNow_insts (n : Nat) : (Eff.run s (.setNow n)).insts = s.insts := (rfl)
@[simp] theorem run_setNow_tiles (n : Nat) : (Eff.run s (.setNow n)).tiles = s.tiles := (rfl)
@[simp] theorem run_setNow_pkg (n : Nat) : (Eff.run s (.setNow n)).pkg = s.pkg := (rfl)
@[simp] theorem run_setNow_out (n : Nat) : (Eff.run s (.setNow n)).out = s.out := (rfl)
@[simp] theorem run_setNow_aon (n : Nat) : (Eff.run s (.setNow n)).aon = s.aon := (rfl)
@[simp] theorem run_setNow_draws (n : Nat) : (Eff.run s (.setNow n)).draws = s.draws := (rfl)
@[simp] theorem run_tick_pending (n : Nat) : (Eff.run s (.tick n)).pending = s.pending := (rfl)
@[simp] theorem run_tick_regs (n : Nat) : (Eff.run s (.tick n)).regs = s.regs := (rfl)
@[simp] theorem run_tick_force (n : Nat) : (Eff.run s (.tick n)).force = s.force := (rfl)
@[simp] theorem run_tick_latch (n : Nat) : (Eff.run s (.tick n)).latch = s.latch := (rfl)
@[simp] theorem run_tick_resid (n : Nat) : (Eff.run s (.tick n)).resid = s.resid := (rfl)
@[simp] theorem run_tick_snap (n : Nat) : (Eff.run s (.tick n)).snap = s.snap := (rfl)
@[simp] theorem run_tick_mem (n : Nat) : (Eff.run s (.tick n)).mem = s.mem := (rfl)
@[simp] theorem run_tick_poison (n : Nat) : (Eff.run s (.tick n)).poison = s.poison := (rfl)
@[simp] theorem run_tick_bale (n : Nat) : (Eff.run s (.tick n)).bale = s.bale := (rfl)
@[simp] theorem run_tick_streams (n : Nat) : (Eff.run s (.tick n)).streams = s.streams := (rfl)
@[simp] theorem run_tick_insts (n : Nat) : (Eff.run s (.tick n)).insts = s.insts := (rfl)
@[simp] theorem run_tick_tiles (n : Nat) : (Eff.run s (.tick n)).tiles = s.tiles := (rfl)
@[simp] theorem run_tick_pkg (n : Nat) : (Eff.run s (.tick n)).pkg = s.pkg := (rfl)
@[simp] theorem run_tick_out (n : Nat) : (Eff.run s (.tick n)).out = s.out := (rfl)
@[simp] theorem run_tick_draws (n : Nat) : (Eff.run s (.tick n)).draws = s.draws := (rfl)
@[simp] theorem run_startAon_pending : (Eff.run s (.startAon)).pending = s.pending := (rfl)
@[simp] theorem run_startAon_regs : (Eff.run s (.startAon)).regs = s.regs := (rfl)
@[simp] theorem run_startAon_force : (Eff.run s (.startAon)).force = s.force := (rfl)
@[simp] theorem run_startAon_latch : (Eff.run s (.startAon)).latch = s.latch := (rfl)
@[simp] theorem run_startAon_resid : (Eff.run s (.startAon)).resid = s.resid := (rfl)
@[simp] theorem run_startAon_snap : (Eff.run s (.startAon)).snap = s.snap := (rfl)
@[simp] theorem run_startAon_mem : (Eff.run s (.startAon)).mem = s.mem := (rfl)
@[simp] theorem run_startAon_poison : (Eff.run s (.startAon)).poison = s.poison := (rfl)
@[simp] theorem run_startAon_bale : (Eff.run s (.startAon)).bale = s.bale := (rfl)
@[simp] theorem run_startAon_streams : (Eff.run s (.startAon)).streams = s.streams := (rfl)
@[simp] theorem run_startAon_insts : (Eff.run s (.startAon)).insts = s.insts := (rfl)
@[simp] theorem run_startAon_tiles : (Eff.run s (.startAon)).tiles = s.tiles := (rfl)
@[simp] theorem run_startAon_pkg : (Eff.run s (.startAon)).pkg = s.pkg := (rfl)
@[simp] theorem run_startAon_out : (Eff.run s (.startAon)).out = s.out := (rfl)
@[simp] theorem run_startAon_now : (Eff.run s (.startAon)).now = s.now := (rfl)
@[simp] theorem run_startAon_draws : (Eff.run s (.startAon)).draws = s.draws := (rfl)

/-! ## What each effect changes -/

@[simp] theorem run_emit_out (e : Emission) : (Eff.run s (.emit e)).out = s.out ++ [e] := (rfl)
@[simp] theorem run_pkg_pkg (f : Pkg → Pkg) : (Eff.run s (.pkg f)).pkg = f s.pkg := (rfl)
@[simp] theorem run_draw_draws (n : Nat) : (Eff.run s (.draw n)).draws = s.draws + n := (rfl)
@[simp] theorem run_setNow_now (n : Nat) : (Eff.run s (.setNow n)).now = n % 2 ^ 64 := (rfl)
@[simp] theorem run_tick_now (n : Nat) : (Eff.run s (.tick n)).now = (s.now + n) % 2 ^ 64 := (rfl)
@[simp] theorem run_tick_aon (n : Nat) : (Eff.run s (.tick n)).aon = s.aon + n := (rfl)
@[simp] theorem run_startAon_aon : (Eff.run s .startAon).aon = 0 := (rfl)
@[simp] theorem run_unlatch_latch : (Eff.run s .unlatch).latch = [] := (rfl)

/-! ## Lists of effects and steps -/

@[simp] theorem run_nil : s.run [] = s := (rfl)
@[simp] theorem run_cons (e : Eff) (es : List Eff) : s.run (e :: es) = (Eff.run s e).run es := (rfl)
theorem run_append (es fs : List Eff) : s.run (es ++ fs) = (s.run es).run fs := by simp [State.run, List.foldl_append]

theorem then_def (a : Act) : s.then a = s.run (a s) := (rfl)
@[simp] theorem then_none : s.then Act.none = s := (rfl)
@[simp] theorem then_eff (es : List Eff) : s.then (.eff es) = s.run es := (rfl)
@[simp] theorem then_seq_nil : s.then (.seq []) = s := (rfl)
@[simp] theorem then_seq_cons (a : Act) (as : List Act) : s.then (.seq (a :: as)) = (s.then a).then (.seq as) := by
  simp [State.then, Act.seq, run_append]
theorem then_seq_append (as bs : List Act) : s.then (.seq (as ++ bs)) = (s.then (.seq as)).then (.seq bs) := by
  induction as generalizing s with
  | nil => rfl
  | cons a as ih => simp [ih]
@[simp] theorem then_when (c : Bool) (a : Act) : s.then (.when c a) = if c then s.then a else s := by cases c <;> rfl
@[simp] theorem then_read (f : State → Act) : s.then (.read f) = s.then (f s) := (rfl)
@[simp] theorem then_opt_none {α : Type} (f : α → Act) : s.then (.opt none f) = s := (rfl)
@[simp] theorem then_opt_some {α : Type} (x : α) (f : α → Act) : s.then (.opt (some x) f) = s.then (f x) := (rfl)
@[simp] theorem then_each_nil {α : Type} (f : α → Act) : s.then (.each [] f) = s := (rfl)
@[simp] theorem then_each_cons {α : Type} (x : α) (l : List α) (f : α → Act) :
    s.then (.each (x :: l) f) = (s.then (f x)).then (.each l f) := then_seq_cons s (f x) (l.map f)

/-- What every effect of a list keeps, the list keeps. -/
theorem run_keeps {P : State → Prop} (es : List Eff) (h : ∀ u, P u → ∀ e ∈ es, P (Eff.run u e)) (hs : P s) : P (s.run es) := by
  induction es generalizing s with
  | nil => exact hs
  | cons e es ih =>
    exact ih _ (fun u hu e he => h u hu e (.tail _ he)) (h s hs e (.head _))

/-! ## Registers -/

theorem RegKey.code_eq (k k' : RegKey) :
    k.code = k'.code ↔ k.reg = k'.reg ∧ k.tile % 128 = k'.tile % 128 ∧ k.ix % 65536 = k'.ix % 65536 := by
  constructor
  · intro h
    unfold RegKey.code at h
    have h1 : k.ix % 65536 = k'.ix % 65536 := by omega
    have h2 : k.tile % 128 = k'.tile % 128 := by omega
    have h3 : k.reg.ctorIdx = k'.reg.ctorIdx := by omega
    refine ⟨?_, h2, h1⟩
    rw [← Reg.ofNat_ctorIdx k.reg, ← Reg.ofNat_ctorIdx k'.reg, h3]
  · rintro ⟨h1, h2, h3⟩
    unfold RegKey.code
    rw [h1, h2, h3]

/-- A register reads as it was stored, without its reserved bits; every other register reads as before. -/
theorem reg_setReg (r r' : Reg) (t ix t' ix' : Nat) (w : Word) :
    (s.setReg r t ix w).reg r' t' ix' =
      if r = r' ∧ t % 128 = t' % 128 ∧ ix % 65536 = ix' % 65536 then w &&& implMask r else s.reg r' t' ix' := by
  unfold State.reg State.setReg
  rw [mapGet_mapPut]
  · simp only [RegKey.code_eq]
  · intro h
    exact congrArg resetWord (((RegKey.code_eq _ _).1 h).1).symm

theorem reg_setReg_ne (r r' : Reg) (t ix t' ix' : Nat) (w : Word) (h : r' ≠ r) : (s.setReg r t ix w).reg r' t' ix' = s.reg r' t' ix' := by
  rw [reg_setReg, if_neg (fun h2 => h h2.1.symm)]

theorem get_setReg_ne (f : Fld) (r : Reg) (t ix t' ix' : Nat) (w : Word) (h : f.reg ≠ r) :
    (s.setReg r t ix w).get f t' ix' = s.get f t' ix' := by simp [State.get, reg_setReg_ne s r f.reg t ix t' ix' w h]

@[simp] theorem run_fld_eq (f : Fld) (t ix v : Nat) :
    Eff.run s (.fld f t ix v) = s.setReg f.reg t ix (setBits (s.reg f.reg t ix) f.hi f.lo v) := (rfl)
@[simp] theorem run_word_eq (r : Reg) (t ix : Nat) (w : Word) : Eff.run s (.word r t ix w) = s.setReg r t ix w := (rfl)

/-- Registers are read modulo the sizes of the file. -/
theorem reg_code (r : Reg) (t ix t' ix' : Nat) (h : t % 128 = t' % 128) (h2 : ix % 65536 = ix' % 65536) :
    s.reg r t ix = s.reg r t' ix' := by
  have hc : RegKey.code ⟨r, t, ix⟩ = RegKey.code ⟨r, t', ix'⟩ := (RegKey.code_eq _ _).2 ⟨rfl, h, h2⟩
  have : ∀ m : List (RegKey × Word), mapGet RegKey.code (resetWord r) m ⟨r, t, ix⟩ = mapGet RegKey.code (resetWord r) m ⟨r, t', ix'⟩ := by
    intro m
    induction m with
    | nil => rfl
    | cons e m ih => simp only [mapGet, hc, ih]
  exact this s.regs

/-- A field reads as it was set. -/
theorem get_setF (f : Fld) (t ix v : Nat) (h : f.ok = true) :
    (s.setReg f.reg t ix (setBits (s.reg f.reg t ix) f.hi f.lo v)).get f t ix = v % 2 ^ (f.hi + 1 - f.lo) := by
  obtain ⟨_, h2, h3⟩ := (Fld.ok_iff f).1 h
  unfold State.get
  rw [reg_setReg, if_pos ⟨rfl, rfl, rfl⟩, getBits_and_mask _ _ _ _ h3, getBits_setBits_self _ _ _ _ h2]

/-- Setting a field leaves every field alone that shares no bit with it, in whatever register, tile and index. -/
theorem get_setF_ne (f g : Fld) (t ix t' ix' v : Nat) (hg : g.ok = true) (h : g.reg ≠ f.reg ∨ f.hi < g.lo ∨ g.hi < f.lo) :
    (s.setReg f.reg t ix (setBits (s.reg f.reg t ix) f.hi f.lo v)).get g t' ix' = s.get g t' ix' := by
  by_cases hr : g.reg = f.reg
  · obtain ⟨_, _, h3⟩ := (Fld.ok_iff g).1 hg
    have hd : f.hi < g.lo ∨ g.hi < f.lo := h.resolve_left (fun hn => hn hr)
    unfold State.get
    rw [reg_setReg]
    split
    · rename_i hk
      rw [← hr, getBits_and_mask _ _ _ _ h3, getBits_setBits_ne _ _ _ _ _ _ hd]
      rw [reg_code s g.reg t ix t' ix' hk.2.1 hk.2.2]
    · rfl
  · exact get_setReg_ne s g f.reg t ix t' ix' _ hr

/-- Setting a field leaves a register of another name, tile or index alone. -/
theorem reg_setF_ne (f : Fld) (t ix v : Nat) (r : Reg) (t' ix' : Nat)
    (h : r ≠ f.reg ∨ t % 128 ≠ t' % 128 ∨ ix % 65536 ≠ ix' % 65536) :
    (s.setReg f.reg t ix (setBits (s.reg f.reg t ix) f.hi f.lo v)).reg r t' ix' = s.reg r t' ix' := by
  rw [reg_setReg, if_neg]
  rintro ⟨h1, h2, h3⟩
  exact h.elim (fun h => h h1.symm) fun h => h.elim (fun h => h h2) fun h => h h3

theorem get_of_regs {s u : State} (h : u.regs = s.regs) (f : Fld) (t ix : Nat) : u.get f t ix = s.get f t ix := by
  simp [State.get, State.reg, h]
theorem reg_of_regs {s u : State} (h : u.regs = s.regs) (r : Reg) (t ix : Nat) : u.reg r t ix = s.reg r t ix := by
  simp [State.reg, h]

/-! ## Memory and contexts -/

theorem byte_setByte (a b : Nat) (x : Byte) : (s.setByte a x).byte b = if a = b then x else s.byte b := by
  unfold State.byte State.setByte
  rw [mapGet_mapPut _ _ _ _ _ _ _ (fun _ => rfl)]
  rfl

/-- Storing bytes changes those bytes and no other. -/
theorem byte_setBytes (a : Nat) (bs : List Byte) (b : Nat) :
    (s.setBytes a bs).byte b = if a ≤ b ∧ b < a + bs.length then bs.getD (b - a) 0 else s.byte b := by
  induction bs generalizing s a with
  | nil =>
    have : ¬ (a ≤ b ∧ b < a + ([] : List Byte).length) := by simp
    rw [if_neg this]; rfl
  | cons x xs ih =>
    simp only [State.setBytes, ih, byte_setByte, List.length_cons]
    by_cases h : a = b
    · subst h
      simp
    · by_cases h2 : a + 1 ≤ b ∧ b < a + 1 + xs.length
      · have h3 : a ≤ b ∧ b < a + (xs.length + 1) := by omega
        have h4 : b - a = (b - (a + 1)) + 1 := by omega
        rw [if_pos h2, if_pos h3, h4]; rfl
      · have h3 : ¬ (a ≤ b ∧ b < a + (xs.length + 1)) := by omega
        rw [if_neg h2, if_neg h3, if_neg h]

theorem stream_run (id id' : Nat) (f : Stream → Stream) :
    (Eff.run s (.stream id f)).stream id' = if id = id' then f (s.stream id) else s.stream id' := by
  simp only [Eff.run, State.stream]
  rw [mapGet_mapPut _ _ _ _ _ _ _ (fun _ => rfl)]
  rfl

theorem inst_run (n n' : Nat) (f : Inst → Inst) :
    (Eff.run s (.inst n f)).inst n' = if n = n' then f (s.inst n) else s.inst n' := by
  simp only [Eff.run, State.inst]
  rw [mapGet_mapPut _ _ _ _ _ _ _ (fun _ => rfl)]
  rfl

theorem tile_run (t t' : Nat) (f : Tile → Tile) :
    (Eff.run s (.tile t f)).tile t' = if t = t' then f (s.tile t) else s.tile t' := by
  simp only [Eff.run, State.tile]
  rw [mapGet_mapPut _ _ _ _ _ _ _ (fun _ => rfl)]
  rfl

@[simp] theorem stream_setReg (r : Reg) (t ix : Nat) (w : Word) (id : Nat) : (s.setReg r t ix w).stream id = s.stream id := (rfl)
@[simp] theorem inst_setReg (r : Reg) (t ix : Nat) (w : Word) (n : Nat) : (s.setReg r t ix w).inst n = s.inst n := (rfl)
@[simp] theorem tile_setReg (r : Reg) (t ix : Nat) (w : Word) (n : Nat) : (s.setReg r t ix w).tile n = s.tile n := (rfl)

end Sys2Proof.Machine
end

