-- ==== Sys2Proof/Laws/Steps.lean ====
section
/-! SUPPORT. Steps: what a small step leaves, and what a step whose every effect keeps away from something leaves alone of it. -/
namespace Sys2Proof.Machine

/-! ## Small steps -/

variable (s : State)

theorem then_app (f : State → Act) : s.then (fun u => f u u) = s.then (f s) := (rfl)
theorem then_setF (f : Fld) (t v : Nat) : s.then (setF f t v) = s.setReg f.reg t 0 (setBits (s.reg f.reg t 0) f.hi f.lo v) := (rfl)
theorem then_setFx (f : Fld) (t ix v : Nat) :
    s.then (setFx f t ix v) = s.setReg f.reg t ix (setBits (s.reg f.reg t ix) f.hi f.lo v) := (rfl)
theorem then_countX (f : Fld) (t ix n : Nat) :
    s.then (countX f t ix n) = s.then (setFx f t ix (satAdd f.maxVal (s.get f t ix) n)) := (rfl)
theorem then_count (f : Fld) (t n : Nat) : s.then (count f t n) = s.then (setFx f t 0 (satAdd f.maxVal (s.get f t 0) n)) := (rfl)
theorem then_emit (e : Emission) : s.then (emit e) = Eff.run s (.emit e) := (rfl)
theorem then_updP (f : Pkg → Pkg) : s.then (updP f) = Eff.run s (.pkg f) := (rfl)
theorem then_updS (id : Nat) (f : Stream → Stream) : s.then (updS id f) = Eff.run s (.stream id f) := (rfl)
theorem then_updI (n : Nat) (f : Inst → Inst) : s.then (updI n f) = Eff.run s (.inst n f) := (rfl)
theorem then_updT (t : Nat) (f : Tile → Tile) : s.then (updT t f) = Eff.run s (.tile t f) := (rfl)

theorem get_then_setF (f : Fld) (t v : Nat) (h : f.ok = true) : (s.then (setF f t v)).get f t 0 = v % 2 ^ (f.hi + 1 - f.lo) := by
  rw [then_setF, get_setF s f t 0 v h]
theorem get_then_setFx (f : Fld) (t ix v : Nat) (h : f.ok = true) :
    (s.then (setFx f t ix v)).get f t ix = v % 2 ^ (f.hi + 1 - f.lo) := by rw [then_setFx, get_setF s f t ix v h]

/-! ## Effects that keep away from something -/

/-- The effect leaves register `r` alone, in every tile and at every index. -/
def Eff.off (r : Reg) : Eff → Prop
  | .fld f _ _ _ => f.reg ≠ r
  | .word r' _ _ _ => r' ≠ r
  | .resetRegs p => ∀ k : RegKey, k.reg = r → p k = false
  | .countU f _ _ _ _ => f.reg ≠ r
  | _ => True

/-- The effect leaves a field alone, in every tile and at every index. -/
def Eff.offF (g : Fld) : Eff → Prop
  | .fld f _ _ _ => g.reg ≠ f.reg ∨ f.hi < g.lo ∨ g.hi < f.lo
  | .countU f _ _ _ _ => g.reg ≠ f.reg ∨ f.hi < g.lo ∨ g.hi < f.lo
  | e => e.off g.reg

/-- The effect leaves memory alone. -/
def Eff.offMem : Eff → Prop
  | .mem _ _ | .memZero _ _ => False
  | _ => True
def Eff.offStream : Eff → Prop
  | .stream _ _ => False
  | _ => True
def Eff.offInst : Eff → Prop
  | .inst _ _ => False
  | _ => True
def Eff.offTile : Eff → Prop
  | .tile _ _ => False
  | _ => True
def Eff.offPkg : Eff → Prop
  | .pkg _ => False
  | _ => True
def Eff.offOut : Eff → Prop
  | .emit _ => False
  | _ => True

/-- Every effect of a step, from whatever state it starts in, is of a kind. -/
def AllEff (P : Eff → Prop) (a : Act) : Prop := ∀ u, ∀ e ∈ a u, P e

section
variable {P : Eff → Prop}

theorem AllEff.none : AllEff P Act.none := fun _ _ h => (List.not_mem_nil h).elim
theorem AllEff.eff {es : List Eff} (h : ∀ e ∈ es, P e) : AllEff P (.eff es) := fun _ e he => h e he
theorem AllEff.seq {l : List Act} (h : ∀ a ∈ l, AllEff P a) : AllEff P (.seq l) := by
  induction l with
  | nil => exact AllEff.none
  | cons a l ih =>
    intro u e he
    simp only [Act.seq, List.mem_append] at he
    exact he.elim (h a (.head _) u e) (ih (fun b hb => h b (.tail _ hb)) _ e)
theorem AllEff.when {c : Bool} {a : Act} (h : c = true → AllEff P a) : AllEff P (.when c a) := by
  cases c
  · exact AllEff.none
  · exact h rfl
theorem AllEff.app {f : State → Act} (h : ∀ v, AllEff P (f v)) : AllEff P (fun u => f u u) := fun u => h u u
theorem AllEff.each {α : Type} {l : List α} {f : α → Act} (h : ∀ x ∈ l, AllEff P (f x)) : AllEff P (.each l f) := by
  refine AllEff.seq fun a ha => ?_
  obtain ⟨x, hx, rfl⟩ := List.mem_map.1 ha
  exact h x hx
theorem AllEff.opt {α : Type} {o : Option α} {f : α → Act} (h : ∀ x, AllEff P (f x)) : AllEff P (.opt o f) := by
  cases o
  · exact AllEff.none
  · exact h _
theorem AllEff.ite {c : Prop} [Decidable c] {a b : Act} (ha : c → AllEff P a) (hb : ¬c → AllEff P b) :
    AllEff P (if c then a else b) := by
  split
  · exact ha ‹_›
  · exact hb ‹_›
theorem AllEff.setF {f : Fld} {t v : Nat} (h : P (.fld f t 0 v)) : AllEff P (setF f t v) :=
  .eff fun e he => by simp only [List.mem_singleton] at he; exact he ▸ h
theorem AllEff.setFx {f : Fld} {t ix v : Nat} (h : P (.fld f t ix v)) : AllEff P (setFx f t ix v) :=
  .eff fun e he => by simp only [List.mem_singleton] at he; exact he ▸ h
theorem AllEff.countX {f : Fld} {t ix n : Nat} (h : ∀ v, P (.fld f t ix v)) : AllEff P (countX f t ix n) := by
  intro u e he
  simp only [Machine.countX, List.mem_singleton] at he
  exact he ▸ h _
theorem AllEff.count {f : Fld} {t n : Nat} (h : ∀ v, P (.fld f t 0 v)) : AllEff P (count f t n) := AllEff.countX h
theorem AllEff.emit {m : Emission} (h : P (.emit m)) : AllEff P (emit m) :=
  .eff fun e he => by simp only [List.mem_singleton] at he; exact he ▸ h
theorem AllEff.updP {f : Pkg → Pkg} (h : P (.pkg f)) : AllEff P (updP f) :=
  .eff fun e he => by simp only [List.mem_singleton] at he; exact he ▸ h
theorem AllEff.updS {id : Nat} {f : Stream → Stream} (h : P (.stream id f)) : AllEff P (updS id f) :=
  .eff fun e he => by simp only [List.mem_singleton] at he; exact he ▸ h
theorem AllEff.updI {n : Nat} {f : Inst → Inst} (h : P (.inst n f)) : AllEff P (updI n f) :=
  .eff fun e he => by simp only [List.mem_singleton] at he; exact he ▸ h
theorem AllEff.updT {t : Nat} {f : Tile → Tile} (h : P (.tile t f)) : AllEff P (updT t f) :=
  .eff fun e he => by simp only [List.mem_singleton] at he; exact he ▸ h

/-- What every effect of a step keeps, the step keeps. -/
theorem AllEff.keeps {a : Act} (h : AllEff P a) {Q : State → Prop} (hq : ∀ u e, P e → Q u → Q (Eff.run u e)) (hs : Q s) :
    Q (s.then a) := run_keeps s (a s) (fun u hu e he => hq u e (h s e he) hu) hs
end

theorem reg_run_off {r : Reg} {e : Eff} (h : e.off r) (t ix : Nat) : (Eff.run s e).reg r t ix = s.reg r t ix := by
  cases e <;> try rfl
  case fld f t' ix' v => exact reg_setReg_ne s _ _ _ _ _ _ _ (Ne.symm h)
  case word r' t' ix' w => exact reg_setReg_ne s _ _ _ _ _ _ _ (Ne.symm h)
  case resetRegs p =>
    simp only [Eff.run, State.reg]
    rw [mapGet_mapDrop _ _ _ _ _ (fun a ha => ?_), if_neg (by simp [h ⟨r, t, ix⟩ rfl])]
    rw [h ⟨r, t, ix⟩ rfl, h a ((RegKey.code_eq _ _).1 ha).1]
  case countU f t' ix' u n => exact reg_setReg_ne s _ _ _ _ _ _ _ (Ne.symm h)
  case mem a bs => exact reg_of_regs (setBytes_regs s a bs) r t ix

/-- A step that keeps away from a register leaves it as it is. -/
theorem reg_off {r : Reg} {a : Act} (h : AllEff (Eff.off r) a) (t ix : Nat) : (s.then a).reg r t ix = s.reg r t ix :=
  AllEff.keeps s h (Q := fun u => u.reg r t ix = s.reg r t ix) (fun u _ he hu => (reg_run_off u he t ix).trans hu) rfl

theorem get_run_off {g : Fld} (hg : g.ok = true) {e : Eff} (h : e.offF g) (t ix : Nat) : (Eff.run s e).get g t ix = s.get g t ix := by
  cases e
  case fld f t' ix' v => exact get_setF_ne s f g t' ix' t ix v hg h
  case countU f t' ix' u n => exact get_setF_ne s f g t' ix' t ix _ hg h
  case word r' t' ix' w => exact congrArg (fun w => getBits w g.hi g.lo) (reg_run_off (r := g.reg) s (e := .word r' t' ix' w) h t ix)
  case resetRegs p => exact congrArg (fun w => getBits w g.hi g.lo) (reg_run_off (r := g.reg) s (e := .resetRegs p) h t ix)
  case mem a bs => exact get_of_regs (setBytes_regs s a bs) g t ix
  all_goals rfl

/-- A step that keeps away from a field leaves it as it is. -/
theorem get_off {g : Fld} (hg : g.ok = true) {a : Act} (h : AllEff (Eff.offF g) a) (t ix : Nat) :
    (s.then a).get g t ix = s.get g t ix :=
  AllEff.keeps s h (Q := fun u => u.get g t ix = s.get g t ix) (fun u _ he hu => (get_run_off u hg he t ix).trans hu) rfl

theorem mem_off {a : Act} (h : AllEff Eff.offMem a) : (s.then a).mem = s.mem :=
  AllEff.keeps s h (Q := fun u => u.mem = s.mem) (fun u e he hu => by cases e <;> first | exact hu | exact he.elim) rfl
theorem streams_off {a : Act} (h : AllEff Eff.offStream a) : (s.then a).streams = s.streams :=
  AllEff.keeps s h (Q := fun u => u.streams = s.streams)
    (fun u e he hu => by cases e <;> first | exact hu | exact he.elim | exact (setBytes_streams u _ _).trans hu) rfl
theorem insts_off {a : Act} (h : AllEff Eff.offInst a) : (s.then a).insts = s.insts :=
  AllEff.keeps s h (Q := fun u => u.insts = s.insts)
    (fun u e he hu => by cases e <;> first | exact hu | exact he.elim | exact (setBytes_insts u _ _).trans hu) rfl
theorem tiles_off {a : Act} (h : AllEff Eff.offTile a) : (s.then a).tiles = s.tiles :=
  AllEff.keeps s h (Q := fun u => u.tiles = s.tiles)
    (fun u e he hu => by cases e <;> first | exact hu | exact he.elim | exact (setBytes_tiles u _ _).trans hu) rfl
theorem pkg_off {a : Act} (h : AllEff Eff.offPkg a) : (s.then a).pkg = s.pkg :=
  AllEff.keeps s h (Q := fun u => u.pkg = s.pkg)
    (fun u e he hu => by cases e <;> first | exact hu | exact he.elim | exact (setBytes_pkg u _ _).trans hu) rfl
theorem out_off {a : Act} (h : AllEff Eff.offOut a) : (s.then a).out = s.out :=
  AllEff.keeps s h (Q := fun u => u.out = s.out)
    (fun u e he hu => by cases e <;> first | exact hu | exact he.elim | exact (setBytes_out u _ _).trans hu) rfl

/-- No effect touches the queue. -/
theorem pending_run (e : Eff) : (Eff.run s e).pending = s.pending := by
  cases e <;> first | rfl | exact setBytes_pending s _ _

theorem setBytes_append (a : Nat) (xs ys : List Byte) : s.setBytes a (xs ++ ys) = (s.setBytes a xs).setBytes (a + xs.length) ys := by
  induction xs generalizing s a with
  | nil => simp [State.setBytes]
  | cons x xs ih => simp only [List.cons_append, State.setBytes, ih, List.length_cons]; congr 1; omega

/-! ## Memory keeps its canonical form -/

/-- A byte stored keeps the form. -/
theorem memWf_setByte (a : Nat) (b : Byte) (h : Memory.wf s.mem = true) : Memory.wf (s.setByte a b).mem = true :=
  mapWf_mapPut id (fun _ => memDefault) s.mem a b h

/-- Bytes stored keep the form. -/
theorem memWf_setBytes (a : Nat) (bs : List Byte) (h : Memory.wf s.mem = true) : Memory.wf (s.setBytes a bs).mem = true := by
  induction bs generalizing s a with
  | nil => exact h
  | cons b bs ih => exact ih _ _ (memWf_setByte s a b h)

/-- Every effect keeps memory's canonical form. -/
theorem memWf_run (e : Eff) (h : Memory.wf s.mem = true) : Memory.wf (Eff.run s e).mem = true := by
  cases e
  case mem a bs => exact memWf_setBytes s a bs h
  case memZero a n => exact mapWf_mapDrop id (fun _ => memDefault) (fun k => decide (a ≤ k) && decide (k < a + n)) s.mem h
  all_goals exact h

/-- Every step keeps memory's canonical form, and the memory after reset has it. -/
theorem memWf_then (a : Act) (h : Memory.wf s.mem = true) : Memory.wf (s.then a).mem = true :=
  run_keeps s (a s) (P := fun u => Memory.wf u.mem = true) (fun u hu e _ => memWf_run u e hu) h
theorem memWf_reset : Memory.wf State.reset.mem = true := (rfl)

end Sys2Proof.Machine
end

