-- ==== Sys2Proof/Laws/Done.lean ====
section
/-! SUPPORT. What the end of a command can do: the snapshot watch changes only what is pending of a latch and the count of missed
triggers, so that a claim about anything else is a claim about the command's own step. And accesses: one that reaches its register
is carried out at its key tile and index. -/
namespace Sys2Proof.Machine

/-- The two states differ at most in the pending latch and in `SNP_CNT`. -/
def SnapSame (u v : State) : Prop :=
  (∃ c T S L, v = { u with regs := c, pkg := { u.pkg with snapT := T, snapSrc := S, snapTile := L } }) ∧
  ∀ r t ix, r ≠ .SNP_CNT → v.reg r t ix = u.reg r t ix

theorem SnapSame.refl (u : State) : SnapSame u u := ⟨⟨u.regs, _, _, _, rfl⟩, fun _ _ _ _ => rfl⟩

theorem SnapSame.trans {u v w : State} (h : SnapSame u v) (h2 : SnapSame v w) : SnapSame u w := by
  obtain ⟨⟨c, T, S, L, rfl⟩, hr⟩ := h
  obtain ⟨⟨c2, T2, S2, L2, rfl⟩, hr2⟩ := h2
  exact ⟨⟨c2, T2, S2, L2, rfl⟩, fun r t ix hn => (hr2 r t ix hn).trans (hr r t ix hn)⟩

/-- The effects that the watch can have. -/
def watchEff : Eff → Prop
  | .pkg f => ∀ p, ∃ T S L, f p = { p with snapT := T, snapSrc := S, snapTile := L }
  | .fld f _ _ _ => f.reg = .SNP_CNT
  | _ => False

theorem SnapSame.run {u : State} {e : Eff} (h : watchEff e) : SnapSame u (Eff.run u e) := by
  cases e with
  | pkg f =>
    obtain ⟨T, S, L, hp⟩ := h u.pkg
    exact ⟨⟨u.regs, T, S, L, by simp [Eff.run, hp]⟩, fun _ _ _ _ => rfl⟩
  | fld f t ix v =>
    have hf : f.reg = .SNP_CNT := h
    exact ⟨⟨_, _, _, _, rfl⟩, fun r t' ix' hn => reg_setReg_ne u _ _ _ _ _ _ _ (hf ▸ hn)⟩
  | _ => exact h.elim

theorem SnapSame.runs {u : State} {es : List Eff} (h : ∀ e ∈ es, watchEff e) : SnapSame u (u.run es) := by
  induction es generalizing u with
  | nil => exact .refl u
  | cons e es ih => exact (SnapSame.run (h e (.head _))).trans (ih fun x hx => h x (.tail _ hx))

theorem watch_trigger (src : Nat) (tile : Option Nat) (ev : Nat) : AllEff watchEff (trigger src tile ev) := by
  intro u e he
  unfold trigger at he
  split at he
  · split at he
    · simp only [List.mem_singleton] at he
      subst he
      exact fun p => ⟨_, _, _, rfl⟩
    · simp only [count, countX, List.mem_singleton] at he
      subst he
      rfl
  · split at he
    · simp only [List.mem_singleton] at he
      subst he
      exact fun p => ⟨_, _, _, rfl⟩
    · simp only [count, countX, List.mem_singleton] at he
      subst he
      rfl

/-- The watch of a command changes only what is pending of a latch and `SNP_CNT`. -/
theorem snapWatch_same (s u : State) : SnapSame u (u.then (snapWatch s)) := by
  have h : AllEff watchEff (snapWatch s) := by
    unfold snapWatch
    refine AllEff.when fun _ => fun v => ?_
    refine AllEff.each (fun t _ => AllEff.seq fun a ha => ?_) v
    simp only [List.mem_cons, List.not_mem_nil, or_false] at ha
    rcases ha with rfl | rfl <;> exact AllEff.when fun _ => watch_trigger _ _ _
  exact SnapSame.runs (h u)

/-- A command answers a next state, which differs from what its own step leaves at most in the pending latch and `SNP_CNT`. -/
theorem done_same (a : Act) (s : State) : ∃ t, done a s = .next t ∧ SnapSame (s.then a) t :=
  ⟨_, (rfl), by rw [then_seq_cons, then_seq_cons, then_seq_nil]; exact snapWatch_same s _⟩

/-- What holds of every state that differs so from what a step leaves holds after the command. -/
theorem done_holds {a : Act} {s : State} {P : State → Prop} (h : ∀ t, SnapSame (s.then a) t → P t) :
    ∃ t, done a s = .next t ∧ P t :=
  let ⟨t, h1, h2⟩ := done_same a s
  ⟨t, h1, h t h2⟩

namespace SnapSame

variable {u v : State} (h : SnapSame u v)
include h

theorem reg (r : Reg) (t ix : Nat) (hr : r ≠ .SNP_CNT) : v.reg r t ix = u.reg r t ix := h.2 r t ix hr
theorem get (f : Fld) (t ix : Nat) (hr : f.reg ≠ .SNP_CNT) : v.get f t ix = u.get f t ix := by simp [State.get, h.2 f.reg t ix hr]
theorem mem : v.mem = u.mem := by obtain ⟨⟨c, T, S, L, rfl⟩, _⟩ := h; rfl
theorem poison : v.poison = u.poison := by obtain ⟨⟨c, T, S, L, rfl⟩, _⟩ := h; rfl
theorem bale : v.bale = u.bale := by obtain ⟨⟨c, T, S, L, rfl⟩, _⟩ := h; rfl
theorem force : v.force = u.force := by obtain ⟨⟨c, T, S, L, rfl⟩, _⟩ := h; rfl
theorem latch : v.latch = u.latch := by obtain ⟨⟨c, T, S, L, rfl⟩, _⟩ := h; rfl
theorem resid : v.resid = u.resid := by obtain ⟨⟨c, T, S, L, rfl⟩, _⟩ := h; rfl
theorem snap : v.snap = u.snap := by obtain ⟨⟨c, T, S, L, rfl⟩, _⟩ := h; rfl
theorem streams : v.streams = u.streams := by obtain ⟨⟨c, T, S, L, rfl⟩, _⟩ := h; rfl
theorem insts : v.insts = u.insts := by obtain ⟨⟨c, T, S, L, rfl⟩, _⟩ := h; rfl
theorem tiles : v.tiles = u.tiles := by obtain ⟨⟨c, T, S, L, rfl⟩, _⟩ := h; rfl
theorem out : v.out = u.out := by obtain ⟨⟨c, T, S, L, rfl⟩, _⟩ := h; rfl
theorem now : v.now = u.now := by obtain ⟨⟨c, T, S, L, rfl⟩, _⟩ := h; rfl
theorem aon : v.aon = u.aon := by obtain ⟨⟨c, T, S, L, rfl⟩, _⟩ := h; rfl
theorem draws : v.draws = u.draws := by obtain ⟨⟨c, T, S, L, rfl⟩, _⟩ := h; rfl
theorem pending : v.pending = u.pending := by obtain ⟨⟨c, T, S, L, rfl⟩, _⟩ := h; rfl
theorem aonSt : v.pkg.aonSt = u.pkg.aonSt := by obtain ⟨⟨c, T, S, L, rfl⟩, _⟩ := h; rfl
theorem perm : v.pkg.perm = u.pkg.perm := by obtain ⟨⟨c, T, S, L, rfl⟩, _⟩ := h; rfl
theorem peers : v.pkg.peers = u.pkg.peers := by obtain ⟨⟨c, T, S, L, rfl⟩, _⟩ := h; rfl
theorem pkg_rest : v.pkg = { u.pkg with snapT := v.pkg.snapT, snapSrc := v.pkg.snapSrc, snapTile := v.pkg.snapTile } := by
  obtain ⟨⟨c, T, S, L, rfl⟩, _⟩ := h; rfl
theorem byte (a : Nat) : v.byte a = u.byte a := by simp [State.byte, h.mem]
theorem stream (id : Nat) : v.stream id = u.stream id := by simp [State.stream, h.streams]
theorem inst (n : Nat) : v.inst n = u.inst n := by simp [State.inst, h.insts]
theorem tile (t : Nat) : v.tile t = u.tile t := by simp [State.tile, h.tiles]

end SnapSame

/-! ## Accesses -/

/-- An access that reaches its register is carried out there. -/
theorem then_accessReg {q : Requester} {t : Nat} {r : Reg} {e : Nat} {w : Bool} {k : Nat → Nat → Act} {s : State} {kt ix : Nat}
    (h : s.lands q t r e w = some (kt, ix)) : s.then (accessReg q t r e w k) = s.then (k kt ix) := by
  simp only [State.then]
  congr 1
  unfold State.lands at h
  unfold accessReg
  split at h
  · rename_i hr
    simp only [hr.1]
    rcases hr.2 with ht | hb
    · simp only [ht, ne_eq, not_true_eq_false, false_and, if_false]
      cases hk : s.keyTile r pkgTile with
      | none => simp [ht, hk] at h
      | some x =>
        simp only [ht, hk, Option.map_some, Option.some.injEq, Prod.mk.injEq] at h
        simp [h.1, ← h.2]
    · simp only [hb, Bool.not_true, Bool.false_eq_true, and_false, if_false]
      cases hk : s.keyTile r t with
      | none => simp [hk] at h
      | some x =>
        simp only [hk, Option.map_some, Option.some.injEq, Prod.mk.injEq] at h
        simp [h.1, ← h.2]
  · cases h

end Sys2Proof.Machine
end

