-- ==== Sys2Proof/WellFormed.lean ====
section
/-! DEFINITION. Well-formed commands: every operand lies in the range that the spec gives it: a tile in the grid, a queue, a ring,
a slot, an instance, a 32-bit word, a 40-bit address (R17, R19, R419, R514). -/
namespace Sys2Proof

/-- Below a bound. -/
def below (n v : Nat) : Bool := decide (v < n)

/-- Between two limits. -/
def between (lo hi v : Nat) : Bool := decide (lo ≤ v) && decide (v ≤ hi)

/-- A port: of a tile's lanes, or the management port (R345). -/
def portWf (p : Nat) : Bool := below 80 p || p == 0xFF

/-- An edge of the Yard: a tile and one of its ports. -/
def edgeWf (e : Nat × Nat) : Bool := below 64 e.1 && below 4 e.2

/-- A requester of R519: a virtual function is 1 to 64, a Foxglove core one of 256. -/
def Requester.wf : Requester → Bool
  | .vf k => between 1 64 k
  | .fw c => below 256 c
  | _ => true

/-- The origin of a request: a ring pair of a tile, or an endpoint. -/
def Origin.wf : Origin → Bool
  | .ring t r => below 64 t && below 4 r
  | .movon e m => below 64 e && below (2 ^ 32) m
  | .image => true

/-- A request header (R312): each field in its width. -/
def ReqHdr.wf (h : ReqHdr) : Bool :=
  below 2 h.flags && below 64 h.inst && below 256 h.epoch && below 16384 h.stream && below 65536 h.len &&
  below (2 ^ 32) h.seq && below 65536 h.digest

/-- A Movon frame (R373): each field in its width. -/
def MvFrame.wf (f : MvFrame) : Bool :=
  below 256 f.mtype && below 256 f.flags && below 4 f.path && below (2 ^ 32) f.lseq && below (2 ^ 32) f.lack && below 64 f.src &&
  below 64 f.dst && below 64 f.inst && below 256 f.epoch && below (2 ^ 32) f.msgid && below (2 ^ 32) f.msglen &&
  below (2 ^ 32) f.foff && below 16384 f.stream

/-- An Ethernet frame: its port and VLAN. -/
def EthFrame.wf (f : EthFrame) : Bool := portWf f.port && below 4096 f.vlan

/-- A host access: its function and the 64 GiB that the largest BAR spans (R369). -/
def HostAcc.wf (x : HostAcc) : Bool := below 65 x.fn && below 6 x.bar && below (2 ^ 36) x.off

/-- The fuses (R442): each field in its width. -/
def Fuses.wf (f : Fuses) : Bool :=
  below 16 f.variant && below 16 f.stepping && below 65536 f.coreMax && below 65536 f.pkgW && below (2 ^ 64) f.devid &&
  below 16 f.keyrev && below 128 f.svn && f.pw.all (fun h => h.length == 32)

/-- What a stage meets names units that exist. -/
def S1Res.wf (x : S1Res) : Bool := x.corners.length == 4
def S2Res.wf (x : S2Res) : Bool :=
  x.tiles.all (below 64) && x.routers.all (below 64) && x.banks.all (fun e => below 64 e.1) && x.lanes.all (fun e => below 64 e.1)
def TrainRes.wf (x : TrainRes) : Bool := x.edges.all edgeWf
def S5Res.wf (x : S5Res) : Bool := x.lost.all (below 16)
def S7Res.wf (x : S7Res) : Bool := x.bad.all (below 64)

/-- A well-formed command. -/
def Instr.wf : Instr → Bool
  | .powerGoodAon _ => true
  | .bootS0 f _ => f.wf
  | .pwrGoodAssert => true
  | .bootS1 x => x.wf
  | .bootS2 x => x.wf
  | .bootS3 x => x.wf
  | .bootS4 x => x.wf
  | .bootS5 x => x.wf
  | .bootS6 x => x.wf
  | .bootS7 x => x.wf
  | .bootS8 => true
  | .pwrGoodDeassert => true
  | .railUndervoltage rail => below 9 rail
  | .aonPowerLoss => true
  | .thermalTrip => true
  | .limiterDecision _ => true
  | .clockStepDone => true
  | .hotminTick => true
  | .pkgRstPin => true
  | .pkgResetRequest q key => q.wf && below (2 ^ 16) key
  | .pkgResetDrainEnd _ => true
  | .instanceCreate q => q.wf
  | .instanceReset q => q.wf
  | .instanceDestroy q _ => q.wf
  | .resetInflightZero n => below 64 n
  | .resetEscalationTimeout n => below 64 n
  | .instanceFwReady n => below 64 n
  | .mownWrite q k value => q.wf && below 72 k && below (2 ^ 32) value
  | .tileReset q t => q.wf && below 64 t
  | .tileResetDone t => below 64 t
  | .engineReset q t engines => q.wf && below 64 t && below (2 ^ 32) engines
  | .engineResetDone t _ => below 64 t
  | .funcEnWrite q t _ _ => q.wf && below 64 t
  | .funcTransitionEnd t _ => below 64 t
  | .funcDisableTimeout t _ => below 64 t
  | .openStream o h p => o.wf && h.wf && below 65536 p.length
  | .closeStream o h p => o.wf && h.wf && below 65536 p.length
  | .closeComplete id => below 16384 id
  | .loadprog o h p => o.wf && h.wf && below 65536 p.length
  | .unloadprog o h p => o.wf && h.wf && below 65536 p.length
  | .nop o h p => o.wf && h.wf && below 65536 p.length
  | .input o h p => o.wf && h.wf && below 65536 p.length
  | .submit o h p => o.wf && h.wf && below 65536 p.length
  | .barrierReq o h p => o.wf && h.wf && below 65536 p.length
  | .keyreq o h p => o.wf && h.wf && below 65536 p.length
  | .adapt o h p => o.wf && h.wf && below 65536 p.length
  | .revert o h p => o.wf && h.wf && below 65536 p.length
  | .sqtailWrite q t r value => q.wf && below 64 t && below 4 r && below (2 ^ 32) value
  | .cqheadWrite q t r value => q.wf && below 64 t && below 5 r && below (2 ^ 32) value
  | .ringEnWrite q t _ r value => q.wf && below 64 t && below 4 r && below (2 ^ 32) value
  | .completionRecordWrite t r => below 64 t && below 4 r
  | .errorRingWrite t => below 64 t
  | .queueTailWrite q t k value => q.wf && below 64 t && below 20 k && below (2 ^ 32) value
  | .qcfgWrite q t k value => q.wf && below 64 t && below 20 k && below (2 ^ 32) value
  | .queueBurstFetch t k => below 64 t && below 20 k
  | .transferIssue t k => below 64 t && below 20 k
  | .transferComplete t tag status => below 64 t && below 2048 tag && below (2 ^ 16) status
  | .itemDispatch t k => below 64 t && below 20 k
  | .barrierComplete id => below 16384 id
  | .overlayAccessFault t n => below 64 t && below 64 n
  | .arrItemStart t q => below 64 t && below 4 q
  | .arrBlockStart t => below 64 t
  | .arrBlockDone t => below 64 t
  | .haloArrival t q side => below 64 t && below 4 q && below 4 side
  | .sfuMicroLoadDone t q fails => below 64 t && below 4 q && below 3 fails
  | .arrCvctlClr q t => q.wf && below 64 t
  | .lscEncFrameBoundary id => below 16384 id
  | .lscDecFrameBoundary id => below 16384 id
  | .lscLatentPathDone id => below 16384 id
  | .lscFrameComplete id => below 16384 id
  | .lscDecFrameComplete id => below 16384 id
  | .decWaitExpiry id => below 16384 id
  | .lscKeyreq q t => q.wf && below 64 t
  | .lscRcreset q t => q.wf && below 64 t
  | .shadowWrite q a value => q.wf && below (2 ^ 40) a && below (2 ^ 32) value
  | .eceEncodeStart t => below 64 t
  | .eceEncodeDone t => below 64 t
  | .eceDecodeStart t => below 64 t
  | .eceGroupReady t slot => below 64 t && below (2 ^ 32) slot
  | .eceDecodeDone t => below 64 t
  | .eceTsetLoadDone t => below 64 t
  | .movonOsfRx f => f.wf
  | .headEvalStart id => below 16384 id
  | .headEvalDone id => below 16384 id
  | .adaptWindowOpen id => below 16384 id
  | .adaptStepDone id => below 16384 id
  | .adaptWindowEnd id => below 16384 id
  | .adaptValidationDone id => below 16384 id
  | .paddockFrameRx _ _ => true
  | .modbusPairExpiry _ _ => true
  | .labelEnable q => q.wf
  | .labelReload q => q.wf
  | .paddockLockChange _ => true
  | .sceInputTaken id => below 16384 id
  | .scePictureStart t _ => below 64 t
  | .scePictureDone t _ => below 64 t
  | .sceKeyreq q t => q.wf && below 64 t
  | .sceRcreset q t => q.wf && below 64 t
  | .ethFrameRx f => f.wf
  | .portLinkDown p => portWf p
  | .ptpSyncLoss => true
  | .ingestAuwaitExpiry id => below 16384 id
  | .rtcpRrTimer id => below 16384 id
  | .linkTransmitItem t => below 64 t
  | .pubEnable q => q.wf
  | .pubReload q => q.wf
  | .movonEnable q => q.wf
  | .movonReload q => q.wf
  | .movonReqRx f => f.wf
  | .movonCplRx f => f.wf
  | .movonWriteRx f => f.wf
  | .movonRespRx f => f.wf
  | .movonLateRx f => f.wf
  | .movonDirRx f => f.wf
  | .movonProbeRx f => f.wf
  | .movonLinkackRx f => f.wf
  | .linkRetransmitTimeout e p lseq => below 64 e && below 4 p && below (2 ^ 32) lseq
  | .linkRetryBudgetExpiry e p => below 64 e && below 4 p
  | .pathProbeTimer e p => below 64 e && below 4 p
  | .movonE2eExpiry e msg => below 64 e && below (2 ^ 32) msg
  | .masterLossTimeout => true
  | .pcieHostAccess x => x.wf
  | .pcieFlr k => between 1 64 k
  | .perstAssert => true
  | .pcieLinkDown => true
  | .hostReadCompletion t _ _ _ => below 64 t
  | .hostReadTimeout t _ => below 64 t
  | .hbmWrite q own a _ _ _ => q.wf && own.all (fun x => below 64 x.1 && below 256 x.2) && below (2 ^ 40) a
  | .hbmRead q own a _ _ => q.wf && own.all (fun x => below 64 x.1 && below 256 x.2) && below (2 ^ 40) a
  | .hbmScrubPass p => below 16 p
  | .wcLineRead t a => below 64 t && below (2 ^ 40) a
  | .wcFillDone a _ => below (2 ^ 40) a
  | .wcInvall q t => q.wf && below 64 t
  | .yardFlitCrcFail t port => below 64 t && below 4 port
  | .yardReplayBudgetExpiry t port => below 64 t && below 4 port
  | .yardPacketAbsorb t src => below 64 t && src.all (fun x => below 64 x.1 && below 64 x.2)
  | .yardLocalPacketWake t => below 64 t
  | .yardQuiesceReq q => q.wf
  | .quiesceDrained => true
  | .quiesceDone bad => bad.all edgeWf
  | .quiesceTimeout => true
  | .sleepIdleExpiry t => below 64 t
  | .sleepEntryDone t => below 64 t
  | .wakeNAssert => true
  | .wakeTimerFire t _ => below 64 t
  | .wakeDone t => below 64 t
  | .waketimeWrite q t value => q.wf && below 64 t && below (2 ^ 32) value
  | .snapInEdge => true
  | .snapSwTrigger q => q.wf
  | .snapLatch late => late.all (below 64)
  | .snapOutEnd => true
  | .snapArm q t _ => q.wf && below 64 t
  | .digestCfgWrite q t value => q.wf && below 64 t && below (2 ^ 32) value
  | .haspChallenge q => q.wf
  | .haspSubmit q => q.wf
  | .haspPwSubmit q => q.wf
  | .haspPwSet q => q.wf
  | .haspClose q => q.wf
  | .haspOpenExpiry => true
  | .haspNonceExpiry => true
  | .haspLockoutEnd => true
  | .haspIreset q arg => q.wf && below 1024 arg
  | .haspDlremove q arg => q.wf && below 1024 arg
  | .debugViewWrite q t value => q.wf && below 64 t && value.all (below (2 ^ 32))
  | .dbgWindowRead q t => q.wf && below 64 t
  | .rcRead q a => q.wf && below (2 ^ 40) a
  | .loReadLatch q a => q.wf && below (2 ^ 40) a
  | .regWrite q a be value => q.wf && below (2 ^ 40) a && below 16 be && below (2 ^ 32) value
  | .portLinkUp p => portWf p
  | .pcieLinkUp gen width numvf => between 3 6 gen && between 1 16 width && below 65 numvf
  | .ptpMessageInterval => true
  | .fxgItemComplete t k slot status digest => below 64 t && below 20 k && below (2 ^ 32) slot && below (2 ^ 16) status && below (2 ^ 64) digest

end Sys2Proof
end

