-- ==== Sys2Proof/Tests/Slice0.lean ====
section
/-! SUPPORT. Tests: ill-formed commands that the check refuses, the worked examples of the spec, and for every statement with
hypotheses concrete states and operands that meet them. -/
namespace Sys2Proof.Tests
open Sys2Proof Sys2Proof.Machine Sys2Proof.Say
set_option Elab.async false
set_option linter.unusedVariables false

/-! ## Small states -/

/-- The state with fields set: each with its tile, index and value. -/
def put (s : State) (l : List (Fld × Nat × Nat × Nat)) : State :=
  l.foldl (fun s e => s.setReg e.1.reg e.2.1 e.2.2.1 (setBits (s.reg e.1.reg e.2.1 e.2.2.1) e.1.hi e.1.lo e.2.2.2)) s

/-- The state with its package context changed. -/
def putP (s : State) (f : Pkg → Pkg) : State := { s with pkg := f s.pkg }

/-- The state with the context of a stream, an instance or a tile. -/
def putS (s : State) (n : Nat) (x : Stream) : State := { s with streams := mapPut id {} s.streams n x }
def putI (s : State) (n : Nat) (x : Inst) : State := { s with insts := mapPut id {} s.insts n x }
def putT (s : State) (t : Nat) (x : Tile) : State := { s with tiles := mapPut id {} s.tiles t x }

/-- A package with both supplies good and its fuses read; `next` is the stage to come. -/
def atSt (next : Nat) : State :=
  putP State.reset fun p => { p with aonSt := { p.aonSt with pgAon := true, pg := true, s0 := true, next := next } }

/-- A package in service: stage 9, every tile in service, tile 0 the boot master. -/
def run9 : State := put (atSt 9)
  [(F.MGT_BOOTSTAT_STAGE, 64, 0, 9), (F.MGT_TILEMAP_LO_INSVC, 64, 0, 2 ^ 32 - 1), (F.MGT_TILEMAP_HI_INSVC, 64, 0, 2 ^ 32 - 1),
   (F.MGT_PARTID_TILES_OK, 64, 0, 64), (F.MGT_TILEROLE_BOOTMASTER, 0, 0, 1)]

/-- A configuration image of R449 with the three sections that R451 asks for, signed with a key made for this test: its bytes as one
little-endian number. -/
def imgBytes : List Byte :=
  toLe 208 0x203050101000000000000000000000000000000000000000000000010000000800000000500000000000000100000007000000004000000000000001000000060000000010000000000000000000000000000000000000100000000070003000247464357 ++
  toLe 48 0 ++ toLe 112 0x000000000000000000000000000000ad9747c5ad1c0fde7da12918e77ffd6c0a056000f691f902fa5be4565f28fa60bd6199b44e02b4717ca33288a0239dec890d075c9b170fd9078ddf39f475fa8084b7b0fb12e16cfc81d043e6c8a823b0ba76e56e1a8b32751b3244746caa4e4304 ++ toLe 144 0x0000000000000000000000000000000000000000000000000000000000000000000000000000000000000000000000005f959f248f9edfe2e070c747482428c08e4abd9ca057f97b9d4fd2d9d186d686f0ff114954bb4f36c15c4e77d96e322a23155360d05c2214398e65518b714f5f6bd7cc61a4a5939abd26bb3ac0192e3c0e462440e1bbe69605aafa2bf859a8fd

/-- Fuses that hold the digest of that key in slot 0. -/
def testFuses : Fuses := { keydig := [sha384 ((imgBytes.drop 256).take 97)] }

/-- The image as the package reads it. -/
def testImg : Img := (parseImg imgBytes).get (by decide +kernel)

/-- That package with instance 0 active on tiles 4 and 5. -/
def inst0 : State := put run9
  [(F.PRT_ITILES_LO_TILES, 64, 0, 0x30), (F.PRT_ISTAT_STATE, 64, 0, 1), (F.PRT_TOWN_ASSIGNED, 4, 0, 1), (F.PRT_TOWN_ASSIGNED, 5, 0, 1)]

/-- The first byte of the working store of tile 4. -/
def ws4 : Nat := 0x6010000000

/-- A request of instance 0: its opcode, flags, stream, sequence number and payload, with its digest. -/
def hdr (opc flags stream seq : Nat) (p : List Byte) : ReqHdr :=
  let h : ReqHdr := { flags := flags, stream := stream, len := p.length, seq := seq }
  { h with digest := rdigest (reqHead opc h) p }

/-- `n` zero bytes. -/
def zs (n : Nat) : List Byte := List.replicate n 0

/-- Instance 0 with the stream 1024 (slot 0 of tile 4) open, its stages given, and its input block list at `ws4`, of one block of
64 KiB; every queue has 64 slots, and the stream mover and the engines of tile 4 are ON. -/
def strm (stages : Nat) : State :=
  (putS (putT (put inst0 ([(F.SMV_SLIVE0_STATE, 4, 0, 1), (F.SMV_CTL_STATE, 4, 0, fnOn), (F.ARR_CTL_STATE, 4, 0, fnOn), (F.ECE_CTL_STATE, 4, 0, fnOn),
      (F.SCE_CTL_STATE, 4, 0, fnOn), (F.SFU_CTL_STATE, 4, 0, fnOn), (F.FXG_CTL_STATE, 4, 0, fnOn)] ++
    (List.range 20).map fun q => (F.SMV_QCFG_LOGDEPTH, 4, q, 6)))
    4 { qBase := (List.range 20).map fun q => ws4 + 0x100000 + 0x1000 * q }) 1024
    { stages := stages, iblist := ws4 }).setBytes ws4 (toLe 8 1 ++ toLe 8 0x10000 ++ toLe 8 (ws4 + 0x10000) ++ toLe 8 0x10000)

/-- The payload of an `OPEN` of stream 1024 with a transfer stage, of an `INPUT` of 64 bytes, and of an `ADAPT` of a head. -/
def openP : List Byte := toLe 2 1024 ++ [32] ++ zs 45
def inputP : List Byte := toLe 8 0 ++ toLe 8 64 ++ toLe 8 0
def adaptP : List Byte := toLe 2 1024 ++ [1, 0xFF] ++ toLe 4 1 ++ zs 24 ++ toLe 4 1 ++ toLe 4 1 ++ toLe 4 0 ++ toLe 4 1

/-- A write under a tag and the transfer item that it belongs to; an entropy item that is ready; a Foxglove item that runs. -/
def wx : Xfer := { tag := 9, q := 6, stream := 1024, write := true, addr := ws4 + 0x40000, len := 4, data := [1, 2, 3, 4] }
def wi : Item := { q := 6, slot := 0, stream := 1024, engine := 3, started := true, resolved := true, writes := [⟨ws4 + 0x41000, 4, false, 4⟩] }
def di : Item := { q := 16, slot := 0, stream := 1024, engine := 2, payload := [1, 0] ++ toLe 2 1024 ++ zs 44 }
def fi : Item := { q := 18, slot := 3, stream := 1024, engine := 5, started := true }

/-- A program of one layer and one cut: a requantisation (`op` 8) of one row of 65 channels, which is two blocks of one row and names a
microprogram; and one
of a 3 × 3 pooling (`op` 2) of three rows, of which tile 4 has the middle one and takes halos from tile 5. -/
def layA : List Byte := [8, 0x10, 0, 0] ++ toLe 2 1 ++ toLe 2 1 ++ toLe 2 65 ++ toLe 2 65 ++ zs 14 ++ toLe 2 1 ++ toLe 2 1 ++ zs 2 ++
  toLe 12 (2 ^ 96 - 1) ++ toLe 4 1 ++ toLe 4 0xFFFFFFF0 ++ toLe 4 0xFFFFFFFF ++ toLe 2 65 ++ zs 6
def cutA : List Byte := zs 8 ++ toLe 2 0 ++ toLe 2 1 ++ toLe 2 0 ++ toLe 2 1 ++ toLe 2 0 ++ toLe 2 65 ++ toLe 2 0 ++ toLe 2 65 ++
  toLe 4 0x10000 ++ toLe 4 0x20000 ++ toLe 4 0x30000 ++ zs 4 ++ [0xFF, 0xFF, 0xFF, 0xFF] ++ zs 8 ++ [0xFF] ++ zs 11
def progA : Prog := { id := 7, recs := [⟨1, layA⟩, ⟨recSfu, [4] ++ zs 23 ++ toLe 4 2 ++ zs 4⟩, ⟨recMicro, zs 64⟩], cuts := [⟨4, cutA⟩] }
def layB : List Byte := [2, 0x10, 0, 0] ++ toLe 2 3 ++ toLe 2 3 ++ toLe 2 1 ++ toLe 2 1 ++ zs 2 ++ [3, 3, 0x11, 1, 1, 0, 1, 1, 1, 1] ++ zs 2 ++
  toLe 2 3 ++ toLe 2 3 ++ zs 2 ++ toLe 16 (2 ^ 128 - 1) ++ toLe 4 0xFFFFFFF0 ++ toLe 4 0xFFFFFFFF ++ toLe 2 1 ++ zs 6
def cutB (row : Nat) : List Byte := zs 8 ++ toLe 2 row ++ toLe 2 1 ++ toLe 2 0 ++ toLe 2 3 ++ toLe 2 0 ++ toLe 2 1 ++ toLe 2 0 ++ toLe 2 1 ++
  toLe 4 0x10000 ++ toLe 4 0x20000 ++ toLe 4 0x30000 ++ [1, 1, 0, 0] ++ [5, 5, 0xFF, 0xFF] ++ zs 8 ++ [0xFF] ++ zs 11
def progB : Prog := { id := 7, recs := [⟨1, layB⟩], cuts := [⟨4, cutB 1⟩, ⟨5, cutB 0⟩, ⟨5, cutB 2⟩] }

/-- An array item of cut 0 of program 7 for stream 1024, and a run of it. -/
def ai : Item := { q := 0, slot := 2, stream := 1024, engine := 0, started := true, payload := toLe 4 7 ++ zs 44 }
def ar : CutRun := { q := 0, slot := 2, stream := 1024, frame := 0, prog := 7, cut := 0 }
def arr (p : Prog) (x : Tile) : State := putT (putI (put (strm 32) [(F.ARR_QCTL_QEN, 4, 0, 15)]) 0 { progs := [p] }) 4 x

/-- The same requantisation without a function. -/
def progC : Prog := { progA with recs := [⟨1, layA.take 44 ++ toLe 4 recNone ++ layA.drop 48⟩] }

/-- A Campion program with one layer for each of ŷ, ẑ and the means, each with a cut of one row on tile 4, one latent and one
hyperprior channel, and one CDF table of two symbols. -/
def layL (path src arec : Nat) : List Byte := [8] ++ toLe 1 (64 * path) ++ [0, 0] ++ toLe 2 1 ++ toLe 2 1 ++ toLe 2 2 ++ toLe 2 2 ++ zs 14 ++
  toLe 2 1 ++ toLe 2 1 ++ zs 2 ++ toLe 12 (2 ^ 96 - 1) ++ toLe 4 arec ++ toLe 4 src ++ toLe 4 recNone ++ zs 8
def cutL (layer : Nat) : List Byte := toLe 4 layer ++ zs 4 ++ toLe 2 0 ++ toLe 2 1 ++ toLe 2 0 ++ toLe 2 1 ++ toLe 2 0 ++ toLe 2 2 ++
  toLe 2 0 ++ toLe 2 2 ++ toLe 4 0x10000 ++ toLe 4 (0x20000 + 0x1000 * layer) ++ toLe 4 0x30000 ++ zs 4 ++ [0xFF, 0xFF, 0xFF, 0xFF] ++ zs 8 ++ [0xFF] ++ zs 11
def progL : Prog :=
  { id := 7, profile := some 2, recs := [⟨1, layL 0 0xFFFFFFF0 3⟩, ⟨1, layL 0 0 recNone⟩, ⟨1, layL 1 1 recNone⟩, ⟨recGain, zs 128⟩, ⟨recHscale, [0]⟩,
      ⟨recCdf, [0, 0, 2, 0, 0, 0, 0, 0, 0, 0, 0, 128]⟩], cuts := [⟨4, cutL 0⟩, ⟨4, cutL 1⟩, ⟨4, cutL 2⟩] }
def shpL : LscShape := { prog := 7, profile := 2, channels := 1, latch := 1, hypch := 1, nref := 1 }

/-- A plot of one 20 ms frame of that program, and stream 1024 as its encoder (`dir` 0) or decoder (`dir` 1) with the frames and
inputs given; its rows are stored on tile 4. -/
def frL : LscFrame := { frame := 0, key := true, shape := shpL, nrow := 1, plots := [{ ix := 0 }] }
def lsc (dir : Nat) (frames : List LscFrame) (inputs : List LscInput) (x : Tile) : State :=
  putS (putI (putT (put (strm 4) [(F.ECE_LSCW0_DIR, 4, 0, dir), (F.ECE_LSCW7_PROG_ID, 4, 0, 7), (F.ECE_LSCW2_DEC_WAIT, 4, 0, 1)]) 4
    { x with fences := [⟨7, 0, 1024, 0, 1⟩, ⟨7, 1, 1024, 0, 1⟩, ⟨7, 2, 1024, 0, 1⟩] }) 0 { progs := [progL] })
    1024 { stages := 4, tiles := 16, lsc := { frames := frames, inputs := inputs, shape := shpL, pool := [{}, {}] } }

/-- A work item of the ECE for the plot, and what the ECE holds of it. -/
def ei (op : Nat) : Item := { q := 16, slot := 3, stream := 1024, engine := 2, started := true, payload := toLe 2 op ++ toLe 2 1024 ++ toLe 8 0 ++ toLe 4 64 ++ toLe 8 (ws4 + 0x60000) ++ zs 24 }
def er (dec : Bool) : EceRun := { slot := 3, dec := dec, stream := 1024, frame := 0, plot := 0, cap := 64, addr := ws4 + 0x60000, inst := 0, prog := 7 }
def arrived : LscFrame := { frL with begun := true, refDone := true, closed := true, plots := [{ ix := 0, phase := .arrived, payload := zs 32 }] }

/-- Stream 1024 as a source whose ŷ tap has the dimensions given for frame 8, and stream 1025 as the head that reads it. -/
def head4 (dims : Nat × Nat × Nat) (h : Head) : State :=
  putS (putS (putI (put (strm 4) [(F.SMV_SLIVE0_STATE, 4, 1, 1), (F.FXG_HDW0_SRC, 4, 1, 1024), (F.FXG_HDW1_PROG_ID, 4, 1, 7),
      (F.ECE_LSCW4_TAP_EN, 4, 0, 1), (F.ECE_TAPCFG_TAPMASK, 4, 0, 1)]) 0 { progs := [{ id := 7, head := some { taps := [(0, 2, 3, 4)] } }] })
    1024 { stages := 4, lsc := { taps := [{ tap := 0, frame := 8, dims := dims, bytes := zs 48 }] }, srcs := [{ frame := 8, ptime := 5, conds := [] }] })
    1025 { stages := 8, head := h }
def win1 : AdaptWin := { desc := adaptP, req := { origin := .image, opc := 0x14, ctl := false, stream := 1025, epoch := 1, seq := 1 } }

/-- An input item of stream 1024 in the input queue, and that stream as an SCE encoder (`dir` 0) or decoder (`dir` 1). -/
def ii : Item := { q := 17, slot := 0, stream := 1024, engine := 5, started := true, payload := [0x49] ++ zs 63 }
def si : Item := { q := 4, slot := 0, stream := 1024, engine := 4, started := true }
def sce (dir : Nat) (c : Sce) (x : Tile) : State :=
  putS (putT (put (strm 2) [(F.SCE_SW0_DIR, 4, 0, dir), (F.SCE_SW6_POOLN, 4, 0, 4), (F.SCE_SW1_WIDTH, 4, 0, 64), (F.SCE_SW1_HEIGHT, 4, 0, 64),
    (F.SCE_SW0_BITS, 4, 0, 8), (F.SCE_SW0_CHROMA, 4, 0, 1)]) 4 x) 1024 { stages := 2, tiles := 16, iblist := ws4, sce := c }
def pic : ScePic := { n := 3, place := some (4, 0) }

/-- A package whose sixteen HBM ports serve, and a line of the weight cache in the slice that holds it. -/
def hbm : State := put run9 [(F.MGT_HBMCFG_INSVC, 64, 0, 0xFFFF)]
def cached (l : WcLine) : State := putT hbm (hbm.wcTile 0x1234500) { wc := [l] }

/-- That package with the link block of tile 8 and its port 0 up, the Paddock lane locked and its label parser enabled, the ingest
engine of tile 8 ON, and the host link up. -/
def net : State := put (strm 5) [(F.LNK_QUADCFG_MODE0, 8, 0, 1), (F.LNK_LANESTAT_INSVC, 8, 0, 15), (F.LNK_LANESTAT_UP, 8, 0, 15),
  (F.LNK_CTL_STATE, 8, 0, fnOn), (F.LNK_CTL_STATE, 55, 0, fnOn), (F.LNK_LANESTAT_LOCK, 55, 0, 1), (F.LNK_LBLCTL_EN, 55, 0, 1),
  (F.ING_CTL_STATE, 8, 0, fnOn), (F.LNK_PCISTAT_DLUP, 48, 0, 1), (F.MGT_HBMCFG_INSVC, 64, 0, 0xFFFF), (F.LNK_PTPCFG_ROLE, 64, 0, ptpSlave)]
def lb : LblBind := ⟨3, 1, 0, 0, 77, 10, 1, 3, 0x3F800000, 0, ws4 + 0x50000, 1, 0⟩
def mbq : MbReq := { tuple := 1, tid := 2, server := 77, unit := 1, fc := 3, addr := 10, count := 1 }
def hx : Xfer := { tag := 9, q := 6, slot := 0, stream := 1024, host := true, addr := 0xC000000000, len := 4 }
def hi1 : Item := { q := 6, slot := 0, stream := 1024, engine := 3, started := true, resolved := true }

/-- That package as Movon device 1, with the peer 2 on one path, and a frame of that peer. -/
def mov (r : MvPeer) : State := putP (put net [(F.LNK_MVCFG_EN, 64, 0, 1), (F.LNK_MVCFG_DEVNUM, 64, 0, 1)]) fun p =>
  { p with peers := [(2, { r with kind := 1, mask := 1, paths := [{}] })] }
def mf (mt : Nat) (p : List Byte) : MvFrame := { mtype := mt, src := 2, dst := 1, msgid := 5, msglen := p.length, payload := p }
def mm : MvMsg := { id := 7, mtype := 1, path := 0, inst := 0, epoch := 0, stream := 0, payload := [] }
def mx : MvTx := { lseq := 4, msg := 7, foff := 0, bytes := [1, 2] }
def nopReq : List Byte := [5, 1, 0, 0] ++ zs 4 ++ toLe 4 1 ++ toLe 2 (hdr 5 1 0 1 []).digest ++ zs 2
def lateB : List Byte := toLe 8 0 ++ toLe 8 (ws4 + 0x40000) ++ toLe 4 0 ++ toLe 2 1024 ++ zs 10
def rx1 : Xfer := { wx with remote := true }

/-- Stream 1024 with an egress piece of kind `kd` of the bytes given, and its link-transmit item. -/
def li : Item := { q := 5, slot := 0, stream := 1024, engine := 4, started := true }
def eg (b : List Byte) : Egress := { frame := 1, bytes := b, slot := some 0 }
def egr (kd : Nat) (b : List Byte) (r : MvPeer) : State :=
  putS (putT (put (mov r) [(F.LNK_SW0_EGKIND, 4, 0, kd), (F.LNK_SW0_PEER, 4, 0, 2), (F.LNK_SW0_PORT, 4, 0, 0)]) 4 { items := [li] }) 1024 { stages := 4, egress := [eg b] }
def unit0 : List Byte := osfUnit 1 1024 0 0 (zs 52)

/-- Fuses of a device whose first password slot is in force, and a package in service with those fuses, whose Hasp registers ask for
scope 1 for 60 minutes, and hold that password and a response to a nonce of zeros. -/
def haspFuses : Fuses := { hkey := zs 32, pw := [pwHash 0 (zs 16)] }
def mac0 : List Byte := hmac256 (zs 32) (haspMessage 0 (zs 16) 1 60)
def hasp (open_ : Nat) : State :=
  putP (put (strm 2) ([(F.HSP_REQ_SCOPE, 64, 0, 1), (F.HSP_REQ_MINUTES, 64, 0, 60), (F.HSP_PWLEN_LEN, 64, 0, 16), (F.HSP_STAT_OPEN, 64, 0, open_),
      (F.HSP_STAT_SCOPE, 64, 0, 0x1F * open_)] ++ (List.range 8).map fun i => (F.HSP_RESP_MAC, 64, i, leAt mac0 (4 * i) 4)))
    fun p => { p with hasp := { p.hasp with nonce := true }, perm := { p.perm with fuses := some haspFuses, dl := [{ gen := 1, ents := [⟨1, 5, 0, 9, 0⟩, ⟨2, 6, 0, 9, 0⟩] }] } }

/-- That package with every tile's edge ports up, or with every tile armed for a snapshot. -/
def yard : State := put run9 ((List.range 64).map fun k => (F.YRD_STAT_EDGEUP, k, 0, 15))
def armed : State := put inst0 ([(F.SNP_SRC_PIN, 64, 0, 1), (F.SNP_SRC_WR, 64, 0, 1)] ++ (List.range 64).map fun k => (F.SNP_CTL_ARM, k, 0, 1))

/-! ## Ill-formed commands are refused -/

theorem test_wf_requesters : (Instr.instanceCreate (.vf 65)).wf = false ∧ (Instr.instanceCreate (.vf 0)).wf = false ∧
    (Instr.instanceCreate (.fw 256)).wf = false ∧ (Instr.instanceCreate (.vf 64)).wf = true := by decide

theorem test_wf_tiles_and_queues : (Instr.tileReset .pm 64).wf = false ∧ (Instr.tileReset .pm 63).wf = true ∧
    (Instr.queueBurstFetch 0 20).wf = false ∧ (Instr.sqtailWrite .pm 0 4 0).wf = false ∧ (Instr.sqtailWrite .pm 0 3 (2 ^ 32)).wf = false ∧
    (Instr.arrItemStart 0 4).wf = false ∧ (Instr.haloArrival 0 0 4).wf = false ∧ (Instr.transferComplete 0 2048 0).wf = false ∧
    (Instr.transferComplete 0 0 (2 ^ 16)).wf = false ∧ (Instr.cqheadWrite .pm 0 5 0).wf = false ∧ (Instr.sfuMicroLoadDone 0 0 3).wf = false := by decide

theorem test_wf_requests : (Instr.nop (.ring 64 0) {} []).wf = false ∧ (Instr.nop (.ring 0 4) {} []).wf = false ∧
    (Instr.nop (.movon 64 0) {} []).wf = false ∧ (Instr.nop (.movon 0 (2 ^ 32)) {} []).wf = false ∧
    (Instr.nop .image { flags := 2 } []).wf = false ∧ (Instr.nop .image { inst := 64 } []).wf = false ∧
    (Instr.nop .image { epoch := 256 } []).wf = false ∧ (Instr.nop .image { stream := 16384 } []).wf = false ∧
    (Instr.nop .image { len := 65536 } []).wf = false ∧ (Instr.nop .image { seq := 2 ^ 32 } []).wf = false ∧
    (Instr.nop .image { digest := 65536 } []).wf = false ∧ (Instr.nop .image {} []).wf = true := by decide

theorem test_wf_streams_and_instances : (Instr.closeComplete 16384).wf = false ∧ (Instr.closeComplete 16383).wf = true ∧
    (Instr.instanceFwReady 64).wf = false ∧ (Instr.mownWrite .pm 72 0).wf = false ∧ (Instr.haspIreset .pm 1024).wf = false ∧
    (Instr.pkgResetRequest .pm (2 ^ 16)).wf = false ∧ (Instr.railUndervoltage 9).wf = false ∧ (Instr.hbmScrubPass 16).wf = false := by decide

theorem test_wf_links : (Instr.portLinkUp 80).wf = false ∧ (Instr.portLinkUp 255).wf = true ∧ (Instr.pcieFlr 0).wf = false ∧
    (Instr.pcieFlr 65).wf = false ∧ (Instr.pcieLinkUp 2 16 0).wf = false ∧ (Instr.pcieLinkUp 6 17 0).wf = false ∧
    (Instr.pcieLinkUp 6 16 65).wf = false ∧ (Instr.pathProbeTimer 64 0).wf = false ∧ (Instr.pathProbeTimer 0 4).wf = false ∧
    (Instr.ethFrameRx { port := 80, body := .other }).wf = false ∧ (Instr.ethFrameRx { port := 0, vlan := 4096, body := .other }).wf = false ∧
    (Instr.movonProbeRx { mtype := 8, src := 64, dst := 0 }).wf = false ∧ (Instr.movonProbeRx { mtype := 8, src := 0, dst := 64 }).wf = false ∧
    (Instr.movonProbeRx { mtype := 256, src := 0, dst := 0 }).wf = false ∧ (Instr.movonProbeRx { mtype := 8, src := 0, dst := 0, path := 4 }).wf = false := by decide

theorem test_wf_memory_and_registers : (Instr.wcLineRead 0 (2 ^ 40)).wf = false ∧ (Instr.rcRead .pm (2 ^ 40)).wf = false ∧
    (Instr.regWrite .pm 0 16 0).wf = false ∧ (Instr.regWrite .pm 0 15 (2 ^ 32)).wf = false ∧
    (Instr.hbmRead .pm (some (64, 0)) 0 4 .clean).wf = false ∧ (Instr.hbmRead .pm (some (0, 256)) 0 4 .clean).wf = false ∧
    (Instr.pcieHostAccess { fn := 65, bar := 0, off := 0 }).wf = false ∧ (Instr.pcieHostAccess { fn := 0, bar := 6, off := 0 }).wf = false ∧
    (Instr.quiesceDone [(0, 4)]).wf = false ∧ (Instr.snapLatch [64]).wf = false ∧ (Instr.yardPacketAbsorb 0 (some (64, 0))).wf = false ∧
    (Instr.debugViewWrite .pm 0 (some (2 ^ 32))).wf = false := by decide

theorem test_wf_start : (Instr.bootS1 { corners := [true] }).wf = false ∧ (Instr.bootS2 { tiles := [64] }).wf = false ∧
    (Instr.bootS2 { banks := [(64, 0)] }).wf = false ∧ (Instr.bootS3 { edges := [(64, 0)] }).wf = false ∧
    (Instr.bootS5 { lost := [16] }).wf = false ∧ (Instr.bootS7 { bad := [64] }).wf = false ∧
    (Instr.bootS0 { svn := 128 } true).wf = false ∧ (Instr.bootS0 { pw := [[]] } true).wf = false ∧ (Instr.bootS0 {} true).wf = true := by decide

/-! ## The worked examples of the spec -/

/-- R85's example, on one tile and cut across two. -/
theorem test_accumulate : accumulate 1000 [(120, 127), (-128, 64), (75, -90)] = 1298 ∧
    accumulate 0 [(120, 127), (-128, 64)] + accumulate 1000 [(75, -90)] = 1298 ∧ rescale 1298 3000 16 (-3) (-128) 127 = 56 := by decide

/-- R90's example: entries 590 and 591 of the table. -/
theorem test_table_interpolates :
    tableEval 5000 (List.replicate 590 0 ++ [-2000, -1951]) = -1994 ∧ tableEval 5000 (List.replicate 590 0 ++ [-2000, -2049]) = -2006 := by
  decide +kernel

/-- R94's example. -/
theorem test_gdn : gdnSquare 20 1000 = 1 ∧ gdnSquare 20 200 = 0 ∧ gdnSum 1 [2, 5] [1, 0] = 3 ∧ gdnNorm 3 = (3221225472, 30) ∧
    rsqSeed 128 = 18894 ∧ gdnRecip 3221225472 = 1239850262 ∧ gdnOutput false 0 1 0 1000 3 = 577 := by decide +kernel

/-- The example of R62 to R66: rows 4 to 8. -/
theorem test_rate_control : rateControl 17 9 40000 40 0 63 (List.replicate 5 5324800) = ([40, 40, 40, 40, 40, 40, 39, 37, 35], false) := by
  decide +kernel

/-- R118's check payload, both ways. -/
def ckTab : CdfTable := ⟨-1, [0, 16384, 49152, 65280], [512, 256, 517, 2048]⟩
def ckSyms : List EcSym := [⟨4, 19, 0⟩, ⟨0, -8, 0⟩, ⟨-1, 7, 0⟩, ⟨4, 40, 0⟩, ⟨0, 0, 0⟩, ⟨2, 32, 0⟩, ⟨1, 0, 0⟩, ⟨-3, -33, 0⟩, ⟨-6, -40, 0⟩]
theorem test_payload_encodes : encodeWords [ckTab] ckSyms =
    [0x0118, 0xFF03, 0x0002, 0x4000, 0x0004, 0, 0x0004, 0xC400, 0x0002, 0x4000, 0x0002, 0x4000, 0x0004, 0xC400, 0x0004, 0, 0xFF00] ∧
    (payloadBytes (encodeWords [ckTab] ckSyms)).take 8 = [0x18, 0x01, 0x03, 0xFF, 0x02, 0x00, 0x00, 0x40] := by decide +kernel
theorem test_payload_decodes : decodePayload [ckTab] (ckSyms.map fun x => (x.mu, 0)) (payloadBytes
    [0x0118, 0xFF03, 0x0002, 0x4000, 0x0004, 0, 0x0004, 0xC400, 0x0002, 0x4000, 0x0002, 0x4000, 0x0004, 0xC400, 0x0004, 0, 0xFF00]) =
    .ok [4, 0, -1, 4, 0, 2, 1, -3, -6] := by decide +kernel
theorem test_symbol_costs : symbolCost ckTab 4 19 = 2816 ∧ symbolCost ckTab (-6) (-40) = 3328 ∧ symbolCost ckTab 0 (-8) = 256 := by decide +kernel

/-- The examples after R206, R207 and R210: the cycles of a dense, a depth-wise and a frequency-path layer. -/
theorem test_cut_cycles :
    cutCycles { (default : Layer) with fmtIn := 2, fmtW := 2, kh := 5, kw := 5, cin := 192, cout := 192 } { (default : Cut) with nrow := 136, ncol := 240, noch := 192 } 0 = 3720960 ∧
    cutCycles { (default : Layer) with fmtIn := 2, fmtW := 2, diag := true, kh := 3, kw := 3, cin := 384, cout := 384, groups := 384 }
      { (default : Cut) with nrow := 68, ncol := 120, noch := 384 } 0 = 3672 ∧
    cutCycles { (default : Layer) with fmtIn := 2, fmtW := 2, fpath := 1, kh := 31, kw := 31, cin := 8, cout := 8 }
      { (default : Cut) with nrow := 1024, ncol := 1024, noch := 8 } 0 = 1239040 := by decide +kernel

/-- R233's example. -/
theorem test_fp6_packs : packCodes 6 [0x08, 0x21, 0x1F, 0] = [0x48, 0xF8, 0x01] ∧ unpackCodes 6 4 [0x48, 0xF8, 0x01] = [0x08, 0x21, 0x1F, 0] := by
  decide +kernel

/-- R236's example: an accumulator of 1.0 and products 3.0 and twice 1.5 × 2^−23 give 4.0. -/
theorem test_chunk_truncates : chunkAdd (.fin false 1) [.fin false 3, .fin false (3 / 2 ^ 24), .fin false (3 / 2 ^ 24)] = .fin false 4 := by
  decide +kernel

/-- R245's example: a row of eight values in FP8 E4M3, its scale code and its codes. -/
theorem test_scale_group : (scaleGroup 9 1 0x3F800000 [.fin false (31/10), .fin true (27/100), .fin false 700, .fin false (25/2), .fin false 0,
    .fin true 45, .fin false (1/1000), .fin false (963/10)] (List.replicate 8 0)).1 = 128 ∧
    ((scaleGroup 9 1 0x3F800000 [.fin false (31/10), .fin true (27/100), .fin false 700, .fin false (25/2), .fin false 0,
    .fin true 45, .fin false (1/1000), .fin false (963/10)] (List.replicate 8 0)).2.1.map (·.code)) =
    [0x3C, 0xA1, 0x7B, 0x4C, 0x00, 0xDB, 0x00, 0x64] := by decide +kernel

/-- R266's microprogram at u = 1.0, with the two entries of its table that it reads: r0 lies within a millionth of e. -/
theorem test_microprogram :
    let m : MicroRec := ⟨[0x19004000, 0x4A200000, 0x13280000, 0x74604100, 0x50880000], [0x3FB8AA3B, 0, 0x43800000],
      List.replicate 113 0 ++ [0x3fadd090, 0x3fae4934]⟩
    (match microRun m 0 (.fin false 1) with
     | .fin false x => decide (27182791 / 10000000 < x) && decide (x < 27182845 / 10000000)
     | _ => false) = true := by decide +kernel

/-- R158's archive: the units of frames 0 and 1 of stream 0x0B03 without their checks. -/
theorem test_osf_units :
    (osfUnit osfHeader 0x0B03 0 0 (headerBody { prog := 0, profile := 0, width := 320, height := 240, bits := 8, chroma := 1, latch := 192, hypch := 128, nref := 1 }
      64 [0x3F, 0x0A, 0x91, 0xC2])).take 40 =
      [0x4F, 0x44, 0x01, 0, 0, 0, 0, 0x48, 0x0B, 0x03, 0, 0, 0, 0, 0, 0, 0x01, 0x00, 0x00, 0x01, 0x00, 0x40, 0x08, 0x01, 0x01, 0x40, 0x00, 0xF0, 0, 0,
       0x00, 0xC0, 0x00, 0x80, 0, 0, 0x3F, 0x0A, 0x91, 0xC2] ∧
    (osfUnit osfDelta 0x0B03 0 1 (frameBody { (default : LscFrame) with frame := 1, ptime := 32000033333333, nrow := 4, refS := 0, shape := { (default : LscShape) with nref := 1 }, fill := 68, q := [[37, 37, 37, 37]], plots := (List.range 6).map fun i => { ix := i } })).take 48 =
      [0x4F, 0x44, 0x03, 0, 0, 0, 0, 0x78, 0x0B, 0x03, 0, 0, 0, 0, 0, 1, 0, 0, 0x1D, 0x1A, 0x96, 0x9E, 0xA0, 0x55, 0, 0, 0, 4, 0, 6, 0, 0, 0, 0, 0, 0,
       0xFF, 0xFF, 0xFF, 0xFF, 0, 0, 0, 0x44, 0x25, 0x25, 0x25, 0x25] := by decide +kernel

/-- R285's example. -/
theorem test_sce_buffer : sceBufBytes 1920 1080 8 1 = 3264512 ∧ sceNeed false {} 2 6 = 9 := by decide +kernel

/-- R317's example: the window's verdicts. -/
def win0 : Window := { high := some 1000, entries := (List.range 61).map (fun i => ⟨938 + i, 0, some {}, []⟩) ++ [⟨1000, 0, some {}, []⟩] }
def win2 : Window := ((win0.enter 1001 0x51C2 true).enter 999 0x0E7A false)
theorem test_window_verdicts : win0.judge 1001 = .newer ∧ (win0.enter 1001 0x51C2 true).judge 999 = .late ∧
    win2.judge 1001 = .dup ⟨1001, 0x51C2, none, []⟩ ∧ win2.judge 1066 = .newer ∧ (win2.enter 1066 0x2210 true).judge 1002 = .stale ∧
    (win2.entries.any (·.seq == 937)) = false ∧ (win2.entries.any (·.seq == 938)) = true ∧
    ((win2.enter 1066 0x2210 true).entries.map (·.seq)) = [1066] := by decide +kernel

/-- The examples of R403 and R459: port, local address and slice. -/
theorem test_memory_maps : hbmPort 0x12345600 = 1 ∧ hbmLocal 0x12345600 = 0x1234600 ∧ wcHash 0x12345600 = 32 ∧
    (put run9 [(F.MGT_HBMCFG_INSVC, 64, 0, 0xFFBF)]).portOf 0x5000 = 5 ∧ (put run9 [(F.MGT_HBMCFG_INSVC, 64, 0, 0xFFBF)]).localOf 0x5000 = 0 ∧
    (put run9 [(F.MGT_HBMCFG_INSVC, 64, 0, 0xFFBF)]).portOf 0xF000 = 0 ∧ (put run9 [(F.MGT_HBMCFG_INSVC, 64, 0, 0xFFBF)]).localOf 0xF000 = 0x1000 ∧
    (put run9 [(F.MGT_HBMCFG_INSVC, 64, 0, 0xFFBF)]).hbmReach = 270 * 2 ^ 30 := by decide +kernel

/-- R478's example: the decisions at 100, 200 and 300 µs, and the hundredth quiet one. -/
theorem test_limiter : (({ lim := 1500 } : Pwr).limiter 985000 950 1500).1.lim = 1400 ∧ (({ lim := 1400 } : Pwr).limiter 955600 950 1500).1.lim = 1300 ∧
    (({ lim := 1300 } : Pwr).limiter 925600 950 1500).1.lim = 1300 ∧ (({ lim := 1300, low := 99 } : Pwr).limiter 840000 950 1500).1.lim = 1400 ∧
    (({ lim := 1300, low := 98 } : Pwr).limiter 840000 950 1500).1.lim = 1300 := by decide +kernel

/-- R496's check value; the check values of CRC-32C, SHA-256 and SHA-384 that their standards give. -/
theorem test_checks : crc64 [0x31, 0x32, 0x33, 0x34, 0x35, 0x36, 0x37, 0x38, 0x39] = 0x6C40DF5F0B497347 ∧
    crc32c [0x31, 0x32, 0x33, 0x34, 0x35, 0x36, 0x37, 0x38, 0x39] = 0xE3069283 ∧
    (sha256 [0x61, 0x62, 0x63]).take 4 = [0xBA, 0x78, 0x16, 0xBF] ∧ (sha384 [0x61, 0x62, 0x63]).take 4 = [0xCB, 0x00, 0x75, 0x3F] := by decide +kernel

/-- R531's and R537's example addresses. -/
theorem test_register_addresses : (regAddr 0x801921001C).bind (fun x => regAt x.1 x.2) = some (.ECE_LSCCNT, 0) ∧
    regAddr 0x801921001C = some (25, 0x21001C) ∧ (regAddr 0x8019210008).bind (fun x => regAt x.1 x.2) = some (.ECE_LSCCMD, 0) ∧
    (regAddr 0x801D300340).bind (fun x => regAt x.1 x.2) = some (.SMV_QCFG, 18) ∧ regAddr 0x801D300340 = some (29, 0x300340) := by decide +kernel

/-- R531's example, its first two cycles: a read of `ECE_LSCCNT` that holds 2 and 6 answers 0x0002_0006 and clears both; each later
count starts from there. -/
theorem test_rc_read :
    (match exec (.rcRead .pf 0x801921001C) (put run9 [(F.ECE_LSCSEL_SLOT, 25, Requester.pf.copy, 0x10), (F.ECE_LSCCNT_CLAMPS, 25, 0x10, 2),
        (F.ECE_LSCCNT_REFCNT, 25, 0x10, 6)]) with
     | .next t => t.out == [.reply .pf 0x20006 0] && t.get F.ECE_LSCCNT_CLAMPS 25 0x10 == 0 && t.get F.ECE_LSCCNT_REFCNT 25 0x10 == 0
     | _ => false) = true := by decide +kernel

/-- R537's example, its last sentences: a write of 1 to bit 27 of `SMV_QCFG` records `RSVDBIT` (3) with `OFFSET` 0xD0. -/
theorem test_reserved_bit :
    (match exec (.regWrite .pm 0x801D300340 15 0x08000006) (put run9 [(F.PRT_TOWN_ASSIGNED, 29, 0, 1)]) with
     | .next t => t.get F.SMV_REGERR_CAUSE 29 0 == 3 && t.get F.SMV_REGERR_OFFSET 29 0 == 0xD0 && t.get F.SMV_REGERR_ERR 29 0 == 1
     | _ => false) = true := by decide +kernel

/-- R407's example path and R460's tiles: from (5,3) the packets leave west, and from (0,3) north to (0,4). -/
theorem test_yard_path : xyPort 29 32 = 3 ∧ xyPort 24 32 = 0 ∧ neighbour 24 0 = some 32 ∧ edgeOf 32 1 = some (24, 0) := by decide

/-- No row of the table gives bits: no word spells a command. -/
theorem test_no_word_spells_a_command : decodeTableWord 32 0 = none ∧ State.reset.withFetchWord 32 0 = State.reset := by decide +kernel

/-! ## The hypotheses of the statements are met -/

/-- Concrete states and operands that meet the hypotheses of `SuppliesAndResetPinsAct`, clause by clause. -/
theorem witness_SuppliesAndResetPinsAct :
    (∃ (s : State) (m : Bool), (s.pkg.aonSt.pgAon = false)) ∧
    (∃ (s : State), (s.pkg.aonSt.pgAon = true) ∧ (s.pkg.aonSt.pg = false)) ∧
    (∃ (s : State), (s.pkg.aonSt.pg = true)) ∧
    (∃ (s : State) (rail : ℕ), (s.pkg.aonSt.pg = true) ∧ (rail < 8)) ∧
    (∃ (s : State), (s.pkg.aonSt.pgAon = true)) :=
  ⟨⟨State.reset, true, by decide +kernel⟩,
   ⟨putP State.reset fun p => { p with aonSt := { p.aonSt with pgAon := true } }, by decide +kernel⟩,
   ⟨run9, by decide +kernel⟩,
   ⟨run9, 7, by decide +kernel⟩,
   ⟨run9, by decide +kernel⟩⟩

/-- Concrete states and operands that meet the hypotheses of `RequestedPackageResetDrains`, clause by clause. -/
theorem witness_RequestedPackageResetDrains :
    (∃ (s : State) (q : Requester) (x : ℕ × ℕ), (s.lands q s.bootTile .PRT_PKGRST 0 true = some x)) ∧
    (∃ (s : State) (q : Requester) (x : ℕ × ℕ) (key : ℕ), (s.lands q s.bootTile .PRT_PKGRST 0 true = some x) ∧ (key ≠ 0xA5C3)) ∧
    (∃ (s : State) (n : ℕ), (s.pkg.drain = true)) :=
  ⟨⟨run9, .pm, (64, 0), by decide +kernel⟩,
   ⟨run9, .pm, (64, 0), 0xA5C2, by decide +kernel⟩,
   ⟨putP run9 fun p => { p with drain := true }, 3, by decide +kernel⟩⟩

/-- Concrete states and operands that meet the hypotheses of `StartReadsFusesAndChoosesImage`, clause by clause. -/
theorem witness_StartReadsFusesAndChoosesImage :
    (∃ (s : State) (f : Fuses), (s.atStage 0 = true)) ∧
    (∃ (s : State) (f : Fuses), (s.atStage 0 = true)) ∧
    (∃ (s : State) (x : S1Res) (c : ℕ) (k : ℕ) (i : Img), (s.atStage 1 = true) ∧ (elected x = some c) ∧ (chooseImg s.fuses x.images s.pkg.aonSt.exclude = some (k, i))) ∧
    (∃ (s : State) (x : S1Res), (s.atStage 1 = true) ∧ (elected x = none)) ∧
    (∃ (s : State) (x : S1Res) (c : ℕ), (s.atStage 1 = true) ∧ (elected x = some c) ∧ (s.pkg.aonSt.exclude = none) ∧ (chooseImg s.fuses x.images none = none)) :=
  ⟨⟨putP State.reset fun p => { p with aonSt := { p.aonSt with pgAon := true } }, testFuses, by decide +kernel⟩,
   ⟨putP State.reset fun p => { p with aonSt := { p.aonSt with pgAon := true } }, testFuses, by decide +kernel⟩,
   ⟨putP (atSt 1) fun p => { p with perm := { p.perm with fuses := some testFuses } }, { images := [[], imgBytes] }, 0, 1, testImg, by decide +kernel⟩,
   ⟨atSt 1, { corners := [false, false, false, false] }, by decide +kernel⟩,
   ⟨atSt 1, { corners := [false, true, true, true] }, corners.getD 1 0, by decide +kernel⟩⟩

/-- Concrete states and operands that meet the hypotheses of `StartTestsTilesMemoryAndLinks`, clause by clause. -/
theorem witness_StartTestsTilesMemoryAndLinks :
    (∃ (s : State) (x : S2Res), (s.atStage 2 = true)) ∧
    (∃ (s : State) (x : TrainRes), (s.atStage 3 = true)) ∧
    (∃ (s : State) (x : TrainRes), (s.atStage 4 = true)) ∧
    (∃ (s : State) (x : S5Res), (s.atStage 5 = true)) ∧
    (∃ (s : State) (x : TrainRes), (s.atStage 6 = true)) :=
  ⟨⟨atSt 2, { tiles := [5] }, by decide +kernel⟩,
   ⟨put (atSt 3) [(F.MGT_TILEMAP_LO_INSVC, 64, 0, 2 ^ 32 - 1), (F.MGT_TILEMAP_HI_INSVC, 64, 0, 2 ^ 32 - 1), (F.MGT_PARTID_TILES_OK, 64, 0, 64), (F.MGT_TILEROLE_BOOTMASTER, 0, 0, 1)], { edges := [(0, 0)] }, by decide +kernel⟩,
   ⟨atSt 4, {}, by decide +kernel⟩,
   ⟨put (atSt 5) [(F.MGT_HBMCFG_INSVC, 64, 0, 0xFFFF)], { lost := [3] }, by decide +kernel⟩,
   ⟨atSt 6, {}, by decide +kernel⟩⟩

/-- Concrete states and operands that meet the hypotheses of `StartLoadsFirmwareAndReachesRun`, clause by clause. -/
theorem witness_StartLoadsFirmwareAndReachesRun :
    (∃ (s : State) (x : S7Res), (s.atStage 7 = true) ∧ (x.imageOk = true)) ∧
    (∃ (s : State) (x : S7Res), (s.atStage 7 = true) ∧ (s.pkg.aonSt.s0 = true) ∧ (x.imageOk = false) ∧ (s.pkg.aonSt.exclude = none)) ∧
    (∃ (s : State) (x : S7Res) (k : ℕ), (s.atStage 7 = true) ∧ (x.imageOk = false) ∧ (s.pkg.aonSt.exclude = some k)) ∧
    (∃ (s : State) (i : Img), (s.atStage 8 = true) ∧ (s.img = some i)) :=
  ⟨⟨putP (put (atSt 7) [(F.MGT_TILEMAP_LO_INSVC, 64, 0, 2 ^ 32 - 1), (F.MGT_TILEMAP_HI_INSVC, 64, 0, 2 ^ 32 - 1)]) fun p => { p with boot := { p.boot with image := imgBytes } }, {}, by decide +kernel⟩,
   ⟨atSt 7, { imageOk := false }, by decide +kernel⟩,
   ⟨putP (atSt 7) fun p => { p with aonSt := { p.aonSt with exclude := some 0 } }, { imageOk := false }, 0, by decide +kernel⟩,
   ⟨putP (put (atSt 8) [(F.MGT_TILEMAP_LO_INSVC, 64, 0, 2 ^ 32 - 1), (F.MGT_TILEMAP_HI_INSVC, 64, 0, 2 ^ 32 - 1)]) fun p => { p with boot := { p.boot with image := imgBytes } }, testImg, by decide +kernel⟩⟩

/-- Concrete states and operands that meet the hypotheses of `LimiterLowersClockAboveItsLimit`, clause by clause. -/
theorem witness_LimiterLowersClockAboveItsLimit :
    (∃ (s : State) (x : Sense), (s.get F.MGT_PWRSTAT_CORE_MHZ pkgTile 0 ≠ 0) ∧ (s.get F.MGT_PWRSTAT_TRIP pkgTile 0 = 0)) ∧
    (∃ (s : State) (x : Sense), (s.get F.MGT_PWRSTAT_CORE_MHZ pkgTile 0 ≠ 0) ∧ (s.get F.MGT_PWRSTAT_TRIP pkgTile 0 = 0) ∧ (s.pkg.pwr.cap = s.clockCap) ∧ (s.pkg.pwr.lim ≤ s.clockCap)) :=
  ⟨⟨put run9 [(F.MGT_PWRSTAT_CORE_MHZ, 64, 0, 1800)], { mw := 1300000 }, by decide +kernel⟩,
   ⟨putP (put run9 [(F.MGT_PWRSTAT_CORE_MHZ, 64, 0, 1800), (F.MGT_PARTCAP_PKG_W_MAX, 64, 0, 1200), (F.MGT_PARTCAP_CORE_MHZ_MAX, 64, 0, 1800)]) fun p => { p with pwr := { lim := 1800, thr := 1800, cap := 1800 } }, { mw := 1300000 }, by decide +kernel⟩⟩

/-- Concrete states and operands that meet the hypotheses of `ClockStepTripAndHotMinute`, clause by clause. -/
theorem witness_ClockStepTripAndHotMinute :
    (∃ (s : State) (k : Nat), (k < 64) ∧ (s.get F.MGT_CLKSTAT_CHANGING k 0 = 1)) ∧
    (∃ (s : State), (s.pkg.aonSt.pgAon = true) ∧ (s.get F.MGT_PWRSTAT_TRIP pkgTile 0 = 0)) ∧
    (∃ (s : State), (95 < toSigned 8 (s.get F.MGT_THERM_TJMAX pkgTile 0))) :=
  ⟨⟨put run9 [(F.MGT_CLKSTAT_CHANGING, 63, 0, 1)], 63, by decide +kernel⟩,
   ⟨run9, by decide +kernel⟩,
   ⟨put run9 [(F.MGT_THERM_TJMAX, 64, 0, 96)], by decide +kernel⟩⟩

/-- Concrete states and operands that meet the hypotheses of `InstanceCommandsStartTheirSequences`, clause by clause. -/
theorem witness_InstanceCommandsStartTheirSequences :
    (∃ (s : State) (q : Requester) (kt : ℕ) (n : ℕ), (s.lands q s.bootTile .PRT_ICMD 0 true = some (kt, n)) ∧ (s.instState n = instFree) ∧ ((s.inst n).creating = false) ∧ (s.tileSet n ≠ []) ∧ ((∀ k ∈ s.tileSet n, s.inService k = true ∧ s.owner k = none))) ∧
    (∃ (s : State) (q : Requester) (kt : ℕ) (n : ℕ), (s.lands q s.bootTile .PRT_ICMD 0 true = some (kt, n)) ∧ (s.instState n = instActive)) ∧
    (∃ (s : State) (q : Requester) (kt : ℕ) (n : ℕ), (s.lands q s.bootTile .PRT_ICMD 0 true = some (kt, n)) ∧ (s.instState n = instResetting)) ∧
    (∃ (s : State) (q : Requester) (kt : ℕ) (n : ℕ) (w : Bool), (s.lands q s.bootTile .PRT_ICMD 0 true = some (kt, n)) ∧ (s.instState n = instActive)) ∧
    (∃ (s : State) (q : Requester) (kt : ℕ) (n : ℕ) (w : Bool), (s.lands q s.bootTile .PRT_ICMD 0 true = some (kt, n)) ∧ (s.instState n = instResetting)) :=
  ⟨⟨put run9 [(F.PRT_ITILES_LO_TILES, 64, 0, 0x30)], .pm, 64, 0, by decide +kernel⟩,
   ⟨inst0, .pm, 64, 0, by decide +kernel⟩,
   ⟨put inst0 [(F.PRT_ISTAT_STATE, 64, 0, 2)], .pm, 64, 0, by decide +kernel⟩,
   ⟨inst0, .pm, 64, 0, true, by decide +kernel⟩,
   ⟨put inst0 [(F.PRT_ISTAT_STATE, 64, 0, 2)], .pm, 64, 0, true, by decide +kernel⟩⟩

/-- Concrete states and operands that meet the hypotheses of `InstanceResetsDrainEscalateAndEnd`, clause by clause. -/
theorem witness_InstanceResetsDrainEscalateAndEnd :
    (∃ (s : State) (n : ℕ), (s.instState n = instResetting ∨ s.instState n = instDestroying) ∧ ((s.inst n).creating = false) ∧ (s.get F.PRT_IFLIGHT_COUNT pkgTile n = 0)) ∧
    (∃ (s : State) (n : ℕ), (s.instState n = instResetting ∨ s.instState n = instDestroying) ∧ (s.get F.PRT_IFLIGHT_COUNT pkgTile n ≠ 0)) ∧
    (∃ (s : State) (n : ℕ), ((s.inst n).creating = true) ∧ ((s.inst n).destroying = false) ∧ ((∀ k ∈ s.tileSet n, s.isOn .fxg k = true)) ∧ (s.get F.PRT_ISTAT_PENDDES pkgTile n = 0)) ∧
    (∃ (s : State) (n : ℕ), ((s.inst n).creating = true) ∧ ((s.inst n).destroying = false) ∧ ((∀ k ∈ s.tileSet n, s.isOn .fxg k = true)) ∧ (s.get F.PRT_ISTAT_PENDDES pkgTile n = 1)) :=
  ⟨⟨put inst0 [(F.PRT_ISTAT_STATE, 64, 0, 2)], 0, by decide +kernel⟩,
   ⟨put inst0 [(F.PRT_ISTAT_STATE, 64, 0, 3), (F.PRT_IFLIGHT_COUNT, 64, 0, 1)], 0, by decide +kernel⟩,
   ⟨putI (put inst0 [(F.PRT_ISTAT_STATE, 64, 0, 2), (F.FXG_CTL_STATE, 4, 0, fnOn), (F.FXG_CTL_STATE, 5, 0, fnOn)]) 0 { creating := true }, 0, by decide +kernel⟩,
   ⟨putI (put inst0 [(F.PRT_ISTAT_STATE, 64, 0, 2), (F.FXG_CTL_STATE, 4, 0, fnOn), (F.FXG_CTL_STATE, 5, 0, fnOn), (F.PRT_ISTAT_PENDDES, 64, 0, 1)]) 0 { creating := true }, 0, by decide +kernel⟩⟩

/-- Concrete states and operands that meet the hypotheses of `OwnersAndTileResets`, clause by clause. -/
theorem witness_OwnersAndTileResets :
    (∃ (s : State) (q : Requester) (k : ℕ) (value : ℕ) (kt : ℕ) (x : ℕ), (s.lands q s.bootTile .PRT_MOWN k true = some (kt, x))) ∧
    (∃ (s : State) (q : Requester) (k : ℕ) (kt : ℕ) (x : ℕ), (s.lands q k .PRT_TRST 0 true = some (kt, x)) ∧ (s.owner kt = none) ∧ (s.get F.PRT_TRST_BUSY kt 0 = 0)) ∧
    (∃ (s : State) (k : ℕ), (s.get F.PRT_TRST_BUSY k 0 = 1) ∧ (s.slp k = slpRun) ∧ ((∀ n, s.owner k = some n → (s.inst n).destroying = false))) ∧
    (∃ (s : State) (k : ℕ) (n : ℕ), (s.get F.PRT_TRST_BUSY k 0 = 1) ∧ (s.slp k = slpRun) ∧ (s.owner k = some n) ∧ ((s.inst n).destroying = true) ∧ ((∀ j ∈ s.tileSet n, j ≠ k → s.get F.PRT_TRST_BUSY j 0 = 0))) :=
  ⟨⟨run9, .pm, 71, 0x81808180, 64, 71, by decide +kernel⟩,
   ⟨run9, .pm, 63, 63, 0, by decide +kernel⟩,
   ⟨put inst0 [(F.PRT_TRST_BUSY, 4, 0, 1)], 4, by decide +kernel⟩,
   ⟨putI (put inst0 [(F.PRT_TRST_BUSY, 4, 0, 1), (F.PRT_ISTAT_STATE, 64, 0, 3)]) 0 { destroying := true, creating := true }, 4, 0, by decide +kernel⟩⟩

/-- Concrete states and operands that meet the hypotheses of `EngineStatesFollowEnable`, clause by clause. -/
theorem witness_EngineStatesFollowEnable :
    (∃ (s : State) (q : Requester) (k : ℕ) (b : Engine) (kt : ℕ) (x : ℕ), (s.lands q k (ctlReg b) 0 true = some (kt, x)) ∧ (s.engineResets b kt = false) ∧ (s.get (ctlState b) kt 0 = fnOff) ∧ (s.canEnable b kt = true)) ∧
    (∃ (s : State) (q : Requester) (k : ℕ) (b : Engine) (kt : ℕ) (x : ℕ), (s.lands q k (ctlReg b) 0 true = some (kt, x)) ∧ (s.engineResets b kt = false) ∧ (s.get (ctlState b) kt 0 = fnOn)) ∧
    (∃ (s : State) (q : Requester) (k : ℕ) (b : Engine) (kt : ℕ) (x : ℕ), (s.lands q k (ctlReg b) 0 true = some (kt, x)) ∧ (s.engineResets b kt = false) ∧ (s.get (ctlState b) kt 0 = fnDisabling) ∧ (s.canEnable b kt = true)) ∧
    (∃ (s : State) (q : Requester) (k : ℕ) (b : Engine) (kt : ℕ) (x : ℕ), (s.lands q k (ctlReg b) 0 true = some (kt, x)) ∧ (s.engineResets b kt = false) ∧ (s.get (ctlState b) kt 0 = fnEnabling)) ∧
    (∃ (s : State) (q : Requester) (k : ℕ) (b : Engine) (kt : ℕ) (x : ℕ), (s.lands q k (ctlReg b) 0 true = some (kt, x)) ∧ (s.canEnable b kt = false)) ∧
    (∃ (s : State) (q : Requester) (k : ℕ) (b : Engine) (kt : ℕ) (x : ℕ), (s.lands q k (ctlReg b) 0 true = some (kt, x)) ∧ (s.engineResets b kt = true) ∧ (s.canEnable b kt = true)) ∧
    (∃ (s : State) (k : ℕ) (b : Engine), (s.tileRuns k = true) ∧ (s.get (ctlState b) k 0 = fnEnabling)) ∧
    (∃ (s : State) (k : ℕ) (b : Engine), (s.tileRuns k = true) ∧ (s.get (ctlState b) k 0 = fnDisabling) ∧ (s.blockDrained b k = true)) ∧
    (∃ (s : State) (k : ℕ) (b : Engine), (s.get (ctlState b) k 0 = fnDisabling)) ∧
    (∃ (s : State) (q : Requester) (k : ℕ) (kt : ℕ) (x : ℕ) (engines : ℕ), (s.lands q k .PRT_ERST 0 true = some (kt, x))) ∧
    (∃ (s : State) (q : Requester) (k : ℕ) (kt : ℕ) (x : ℕ) (engines : ℕ), (s.lands q k .PRT_ERST 0 true = some (kt, x)) ∧ (engines < 2 ^ 7) ∧ (bitOf engines 4 = false) ∧ (bitOf engines 5 = false) ∧ ((s.tile kt).runs = []) ∧ ((s.tile kt).ece = []) ∧ ((s.tile kt).items = []) ∧ ((s.tile kt).sceBusy = none)) ∧
    (∃ (s : State) (k : ℕ) (b : Engine) (j : ℕ), (erstBit b = some j) ∧ (bitOf (s.get F.PRT_ERST_ENG k 0) j = true)) :=
  ⟨⟨inst0, .pm, 4, .arr, 4, 0, by decide +kernel⟩,
   ⟨put inst0 [(F.ECE_CTL_EN, 4, 0, 1), (F.ECE_CTL_STATE, 4, 0, fnOn)], .pm, 4, .ece, 4, 0, by decide +kernel⟩,
   ⟨put inst0 [(F.SMV_CTL_STATE, 4, 0, fnDisabling)], .pm, 4, .smv, 4, 0, by decide +kernel⟩,
   ⟨put inst0 [(F.FXG_CTL_STATE, 4, 0, fnEnabling)], .pm, 4, .fxg, 4, 0, by decide +kernel⟩,
   ⟨inst0, .pm, 4, .ece, 4, 0, by decide +kernel⟩,
   ⟨put inst0 [(F.PRT_ERST_ENG, 4, 0, 1)], .pm, 4, .arr, 4, 0, by decide +kernel⟩,
   ⟨put inst0 [(F.FXG_CTL_STATE, 4, 0, fnEnabling), (ctlPend .fxg, 4, 0, 1)], 4, .fxg, by decide +kernel⟩,
   ⟨put inst0 [(F.SCE_CTL_STATE, 4, 0, fnDisabling)], 4, .sce, by decide +kernel⟩,
   ⟨put inst0 [(F.SFU_CTL_STATE, 4, 0, fnDisabling)], 4, .sfu, by decide +kernel⟩,
   ⟨inst0, .pm, 4, 4, 0, 0x7F, by decide +kernel⟩,
   ⟨inst0, .pm, 4, 4, 0, 0x4F, by decide +kernel⟩,
   ⟨put inst0 [(F.PRT_ERST_ENG, 4, 0, 4)], 4, .ece, 2, by decide +kernel⟩⟩

/-- Concrete states and operands that meet the hypotheses of `TilesSleepAndWake`, clause by clause. -/
theorem witness_TilesSleepAndWake :
    (∃ (s : State) (k : ℕ), (s.inService k = true) ∧ (s.slp k = slpRun) ∧ (s.get F.MGT_SLPCFG_IDLE_US k 0 ≠ 0) ∧ (s.tileIdle k = true) ∧ (s.mayStop k = true) ∧ (s.get F.PRT_TRST_BUSY k 0 = 0)) ∧
    (∃ (s : State) (k : ℕ), (s.slp k = slpStopping) ∧ ((s.tile k).wake = none) ∧ (s.owner k ≠ none)) ∧
    (∃ (s : State) (k : ℕ), (s.slp k = slpGating) ∧ ((s.tile k).wake = none)) ∧
    (∃ (s : State) (k : ℕ) (c : ℕ), (s.slp k = slpStopping) ∧ ((s.tile k).wake = some c)) ∧
    (∃ (s : State) (k : ℕ), (s.slp k = slpWaking)) ∧
    (∃ (s : State) (k : ℕ), (s.slp k = slpStopped ∨ s.slp k = slpGated)) ∧
    (∃ (s : State) (k : ℕ), (s.wakeTime k ≠ 2 ^ 64 - 1) ∧ (s.wakeTime k ≤ s.now) ∧ (s.slp k = slpStopped)) ∧
    (∃ (s : State) (q : Requester) (k : ℕ) (kt : ℕ) (x : ℕ) (value : ℕ), (s.lands q k .MGT_WAKETIME_HI 0 true = some (kt, x))) :=
  ⟨⟨put inst0 [(F.MGT_SLPCFG_IDLE_US, 4, 0, 10)], 4, by decide +kernel⟩,
   ⟨put inst0 [(F.MGT_SLPSTAT_STATE, 4, 0, slpStopping)], 4, by decide +kernel⟩,
   ⟨put run9 [(F.MGT_SLPSTAT_STATE, 9, 0, slpGating)], 9, by decide +kernel⟩,
   ⟨putT (put inst0 [(F.MGT_SLPSTAT_STATE, 4, 0, slpStopping)]) 4 { wake := some 1 }, 4, 1, by decide +kernel⟩,
   ⟨put inst0 [(F.MGT_SLPSTAT_STATE, 4, 0, slpWaking), (F.MGT_PWRSTAT_CORE_MHZ, 64, 0, 1800)], 4, by decide +kernel⟩,
   ⟨put inst0 [(F.MGT_SLPSTAT_STATE, 4, 0, slpGated)], 4, by decide +kernel⟩,
   ⟨put inst0 [(F.MGT_SLPSTAT_STATE, 4, 0, slpStopped), (F.MGT_WAKETIME_LO_TIME_LO, 4, 0, 0), (F.MGT_WAKETIME_HI_TIME_HI, 4, 0, 0)], 4, by decide +kernel⟩,
   ⟨inst0, .pm, 4, 4, 0, 0xFFFFFFFF, by decide +kernel⟩⟩

/-- Concrete states and operands that meet the hypotheses of `ControlRequestsExecute`, clause by clause. -/
theorem witness_ControlRequestsExecute :
    (∃ (s : State) (o : Origin) (h : ReqHdr) (p : List Byte) (id : ℕ), (passes s o opOpen h p) ∧ (s.openFormOk h.inst p = true) ∧ (s.openTarget p = some id) ∧ (s.openStatus h.inst p id = 0)) ∧
    (∃ (s : State) (o : Origin) (h : ReqHdr) (p : List Byte), (passes s o opClose h p) ∧ (leAt p 0 2 < 2 ^ 14) ∧ (leAt p 2 6 = 0) ∧ (s.isOpen (leAt p 0 2) = true) ∧ ((s.stream (leAt p 0 2)).inst = h.inst)) ∧
    (∃ (s : State) (o : Origin) (h : ReqHdr) (p : List Byte) (g : Prog), (passes s o opUnloadprog h p) ∧ ((p.drop 2).all (· == 0) = true) ∧ (s.progNamed h.inst (leAt p 0 2) = false) ∧ (s.prog h.inst (leAt p 0 2) = some g)) ∧
    (∃ (s : State) (o : Origin) (h : ReqHdr) (p : List Byte), (passes s o opNop h p)) :=
  ⟨⟨inst0, .image, hdr 1 1 0 1 openP, openP, 1024, by unfold passes; decide +kernel⟩,
   ⟨strm 32, .image, hdr 2 1 0 1 (toLe 8 1024), toLe 8 1024, by unfold passes; decide +kernel⟩,
   ⟨putI inst0 0 { progs := [{ id := 7 }] }, .image, hdr 4 1 0 1 (toLe 8 7), toLe 8 7, { id := 7 }, by unfold passes; decide +kernel⟩,
   ⟨inst0, .ring 4 3, hdr 5 1 0 0xFFFFFFFF [], [], by unfold passes; decide +kernel⟩⟩

/-- Concrete states and operands that meet the hypotheses of `StreamRequestsExecute`, clause by clause. -/
theorem witness_StreamRequestsExecute :
    (∃ (s : State) (o : Origin) (h : ReqHdr) (p : List Byte) (l : List Block), (passes s o opInput h p) ∧ (s.takesInput h.stream = true) ∧ (leAt p 12 4 = 0) ∧ ((s.stream h.stream).iblist ≠ 0) ∧ (s.blockList h.inst (s.stream h.stream).iblist = .ok l) ∧ (leAt p 0 8 + leAt p 8 4 ≤ blocksLen l) ∧ (¬ (s.isLscDec h.stream = true ∧ bitOf (s.stream h.stream).stages stSce = false)) ∧ (s.qFull (homeOf h.stream) inputQueue = false)) ∧
    (∃ (s : State) (o : Origin) (h : ReqHdr) (p : List Byte) (l : List Block), (passes s o opInput h p) ∧ (s.takesInput h.stream = true) ∧ (leAt p 12 4 = 0) ∧ ((s.stream h.stream).iblist ≠ 0) ∧ (s.blockList h.inst (s.stream h.stream).iblist = .ok l) ∧ (leAt p 0 8 + leAt p 8 4 ≤ blocksLen l) ∧ (s.isLscDec h.stream = true) ∧ (bitOf (s.stream h.stream).stages stSce = false)) ∧
    (∃ (s : State) (o : Origin) (h : ReqHdr) (p : List Byte) (k : ℕ) (q : ℕ), (passes s o opSubmit h p) ∧ ((parseItem 0 0 p).stream = h.stream) ∧ ((parseItem 0 0 p).engine ≠ 1) ∧ ((parseItem 0 0 p).engine ≠ 4) ∧ (s.itemPlace h.inst h.stream (parseItem 0 0 p) = some (k, q)) ∧ (s.qFull k q = false)) ∧
    (∃ (s : State) (o : Origin) (h : ReqHdr) (p : List Byte), (passes s o opBarrier h p)) ∧
    (∃ (s : State) (o : Origin) (h : ReqHdr) (p : List Byte), (passes s o opKeyreq h p) ∧ (s.isSceEnc h.stream = true ∨ s.isLscEnc h.stream = true)) ∧
    (∃ (s : State) (o : Origin) (h : ReqHdr) (p : List Byte), (passes s o opAdapt h p) ∧ (s.adaptStatus h.inst h.stream p = 0)) ∧
    (∃ (s : State) (o : Origin) (h : ReqHdr) (p : List Byte), (passes s o opRevert h p) ∧ (s.revertStatus h.inst h.stream = 0)) :=
  ⟨⟨strm 2, .image, hdr 0x10 0 1024 1 inputP, inputP, [⟨ws4 + 0x10000, 0x10000, false⟩], by unfold passes; decide +kernel⟩,
   ⟨put (strm 4) [(F.ECE_LSCW0_DIR, 4, 0, 1)], .image, hdr 0x10 0 1024 1 inputP, inputP, [⟨ws4 + 0x10000, 0x10000, false⟩], by unfold passes; decide +kernel⟩,
   ⟨strm 32, .image, hdr 0x11 0 1024 1 (toLe 2 1024 ++ [2] ++ zs 61), toLe 2 1024 ++ [2] ++ zs 61, 4, 16, by unfold passes; decide +kernel⟩,
   ⟨strm 32, .image, hdr 0x12 0 1024 1 [], [], by unfold passes; decide +kernel⟩,
   ⟨strm 4, .image, hdr 0x13 0 1024 1 [], [], by unfold passes; decide +kernel⟩,
   ⟨putI (put (strm 8) [(F.FXG_HDW1_PROG_ID, 4, 0, 7), (F.FXG_HDW5_FRPAGES, 4, 0, 1)]) 0 { progs := [{ id := 7, head := some { adapt := [1] } }] }, .image, hdr 0x14 0 1024 1 adaptP, adaptP, by unfold passes; decide +kernel⟩,
   ⟨putS (strm 8) 1024 { stages := 8, head := { hasPrev := true } }, .image, hdr 0x15 0 1024 1 [], [], by unfold passes; decide +kernel⟩⟩

/-- Concrete states and operands that meet the hypotheses of `ClosedStreamLeavesNothing`, clause by clause. -/
theorem witness_ClosedStreamLeavesNothing :
    (∃ (s : State) (id : ℕ), (s.slotState id = slotClosing) ∧ (s.drained id = true)) :=
  ⟨put (strm 32) [(F.SMV_SLIVE0_STATE, 4, 0, 2)], 1024, by decide +kernel⟩

/-- Concrete states and operands that meet the hypotheses of `RefusedRequestsExecuteNothing`, clause by clause. -/
theorem witness_RefusedRequestsExecuteNothing :
    (∃ (s : State) (k : ℕ) (r : ℕ) (h : ReqHdr) (p : List Byte) (e : Nat × (Origin → ReqHdr → List Byte → Instr)), (e ∈ requests) ∧ (s.stage = 9) ∧ (s.cqRoom k r = false)) :=
  ⟨inst0, 4, 0, hdr 5 1 0 1 [], [], (opNop, .nop), by exact ⟨by simp [requests], by decide +kernel, by decide +kernel⟩⟩

/-- Concrete states and operands that meet the hypotheses of `ReplayWindowFollowsItsTable`, clause by clause. -/
theorem witness_ReplayWindowFollowsItsTable :
    (∃ (w : Window) (seq : ℕ), (w.high = none)) ∧
    (∃ (w : Window) (hi : ℕ) (seq : ℕ), (w.high = some hi) ∧ (hi < 2 ^ 32) ∧ (seq < 2 ^ 32)) :=
  ⟨⟨{}, 5, by decide +kernel⟩,
   ⟨{ high := some 0xFFFFFFFF }, 0xFFFFFFFF, 5, by decide +kernel⟩⟩

/-- Concrete states and operands that meet the hypotheses of `RingCountersAndEnables`, clause by clause. -/
theorem witness_RingCountersAndEnables :
    (∃ (s : State) (q : Requester) (k : ℕ) (r : ℕ) (value : ℕ) (kt : ℕ) (x : ℕ), (s.lands q k .SMV_SQTAIL r true = some (kt, x)) ∧ (((s.tile kt).sqRing.getD x {}).on = false ∨ (s.smvIssues kt = false ∧ (value + 2 ^ 32 - s.get F.SMV_SQHEAD_HEAD kt x) % 2 ^ 32 ≤ 2 ^ ((s.tile kt).sqRing.getD x {}).log))) ∧
    (∃ (s : State) (q : Requester) (k : ℕ) (r : ℕ) (value : ℕ) (kt : ℕ) (x : ℕ), (s.lands q k .SMV_SQTAIL r true = some (kt, x)) ∧ (((s.tile kt).sqRing.getD x {}).on = true) ∧ (2 ^ ((s.tile kt).sqRing.getD x {}).log < (value + 2 ^ 32 - s.get F.SMV_SQHEAD_HEAD kt x) % 2 ^ 32)) ∧
    (∃ (s : State) (q : Requester) (k : ℕ) (r : ℕ) (value : ℕ) (kt : ℕ) (x : ℕ) (h : ℕ), (s.lands q k .SMV_SQTAIL r true = some (kt, x)) ∧ (x < 4) ∧ (let g := (s.tile kt).sqRing.getD x {}; (let head := s.get F.SMV_SQHEAD_HEAD kt x; (let a := g.base + 128 * (head % 2 ^ g.log); (let n := s.instOfTile kt; (g.on = true) ∧ (s.smvIssues kt = true) ∧ (value < 2 ^ 32) ∧ (value ≠ head) ∧ ((value + 2 ^ 32 - head) % 2 ^ 32 ≤ 2 ^ g.log) ∧ (isHost a = true) ∧ (s.hostAddr (fnOf n) a = some h) ∧ ((s.tile kt).xfers.any (·.q == ringQueue x) = false)))))) ∧
    (∃ (s : State) (q : Requester) (k : ℕ) (r : ℕ) (value : ℕ) (kt : ℕ) (x : ℕ), (r < 4) ∧ (s.lands q k .SMV_CQHEAD r true = some (kt, x))) ∧
    (∃ (s : State) (q : Requester) (k : ℕ) (value : ℕ) (kt : ℕ) (x : ℕ), (s.lands q k .SMV_ERHEAD 0 true = some (kt, x))) ∧
    (∃ (s : State) (q : Requester) (k : ℕ) (g : RingKind) (r : ℕ) (value : ℕ) (kt : ℕ) (x : ℕ), (s.lands q k (ringCfgReg g) (if g = .er then 0 else r) true = some (kt, x)) ∧ (x < 4) ∧ (bitOf (s.reg (ringCfgReg g) kt x).toNat 7 = false) ∧ (bitOf value 7 = true)) ∧
    (∃ (s : State) (q : Requester) (k : ℕ) (g : RingKind) (r : ℕ) (value : ℕ) (kt : ℕ) (x : ℕ), (s.lands q k (ringCfgReg g) (if g = .er then 0 else r) true = some (kt, x)) ∧ (x < 4) ∧ (bitOf (s.reg (ringCfgReg g) kt x).toNat 7 = true) ∧ (bitOf value 7 = false)) :=
  ⟨⟨strm 32, .pm, 4, 3, 7, 4, 3, by decide +kernel⟩,
   ⟨putT (strm 32) 4 { sqRing := [{ on := true, log := 4 }] }, .pm, 4, 0, 17, 4, 0, by decide +kernel⟩,
   ⟨putT (put (strm 32) [(F.LNK_HWE_LO_EN, 48, 0, 1), (F.LNK_PCISTAT_NUMVF, 48, 0, 1)]) 4 { sqRing := [{ on := true, log := 4, base := 0xC000000000 }] }, .pm, 4, 0, 16, 4, 0, 0, by decide +kernel⟩,
   ⟨strm 32, .pm, 4, 3, 7, 4, 3, by decide +kernel⟩,
   ⟨strm 32, .pm, 4, 7, 4, 0, by decide +kernel⟩,
   ⟨strm 32, .pm, 4, .cq, 3, 0x90, 4, 3, by decide +kernel⟩,
   ⟨put (strm 32) [(⟨.SMV_ERCFG, 7, 7⟩, 4, 0, 1)], .pm, 4, .er, 3, 0x10, 4, 0, by decide +kernel⟩⟩

/-- Concrete states and operands that meet the hypotheses of `RecordsReachTheirRings`, clause by clause. -/
theorem witness_RecordsReachTheirRings :
    (∃ (s : State) (k : ℕ) (r : ℕ) (w : CqRec), ((s.tile k).cqWait.find? (·.r == r) = some w) ∧ (s.cqRoom k r = true)) ∧
    (∃ (s : State) (k : ℕ) (c : Cpl) (l : List Cpl), ((s.tile k).erWait = c :: l) ∧ (s.erRoom (s.erTile (s.instOfTile k)) = true)) :=
  ⟨⟨putT (strm 32) 4 { cqRing := [{}, { on := true, log := 4, base := ws4 + 0x20000 }], cqWait := [⟨1, { status := 0x0103 }⟩] }, 4, 1, ⟨1, { status := 0x0103 }⟩, by decide +kernel⟩,
   ⟨putT (strm 32) 4 { erRing := { on := true, log := 4, base := ws4 + 0x20000 }, erWait := [{ status := 0x0302, kind := 2 }] }, 4, { status := 0x0302, kind := 2 }, [], by decide +kernel⟩⟩

/-- Concrete states and operands that meet the hypotheses of `QueuesAdvanceAndTransfersIssue`, clause by clause. -/
theorem witness_QueuesAdvanceAndTransfersIssue :
    (∃ (s : State) (q : Requester) (k : ℕ) (j : ℕ) (value : ℕ) (kt : ℕ) (x : ℕ), (s.lands q k .SMV_QTAIL j true = some (kt, x))) ∧
    (∃ (s : State) (q : Requester) (k : ℕ) (j : ℕ) (value : ℕ) (kt : ℕ) (x : ℕ), (s.lands q k .SMV_QCFG j true = some (kt, x)) ∧ (s.qResident kt x = 0) ∧ (s.qItems kt x = []) ∧ (x < 20) ∧ ((value % 32 = 0 ∨ (6 ≤ value % 32 ∧ value % 32 ≤ 16))) ∧ (((List.range 20).map fun i => if i = x then (if value % 32 = 0 then 0 else 2 ^ (value % 32)) else s.qDepth kt i).sum ≤ 65536)) ∧
    (∃ (s : State) (q : Requester) (k : ℕ) (j : ℕ) (value : ℕ) (kt : ℕ) (x : ℕ), (s.lands q k .SMV_QCFG j true = some (kt, x)) ∧ (s.qResident kt x ≠ 0 ∨ s.qItems kt x ≠ [])) ∧
    (∃ (s : State) (k : ℕ) (j : ℕ) (tag : ℕ), (s.smvIssues k = true) ∧ (s.qDepth k j ≠ 0) ∧ (s.burstLen k j ≠ 0) ∧ (s.underLimit k j = true) ∧ ((j ≤ 15 → s.get F.SMV_QCFG_CREDITS k j ≠ 0)) ∧ ((s.tile k).xfers.any (fun x => x.fetch && x.q == j) = false) ∧ (s.burstLen k j + ((s.qItems k j).filter fun i => !i.started).length ≤ 16) ∧ (s.freeTag k j = some tag)) ∧
    (∃ (s : State) (k : ℕ) (j : ℕ) (tag : ℕ) (i : Item) (p : Piece) (l : List Piece), (s.smvIssues k = true) ∧ ((s.qItems k j).find? (fun i => i.engine == 3 && !i.resolved && !i.started) = none) ∧ (s.underLimit k j = true) ∧ (s.freeTag k j = some tag) ∧ ((s.qItems k j).find? (fun i => i.started && i.writes != []) = none) ∧ ((s.qItems k j).find? (fun i => i.reads != []) = some i) ∧ (i.reads = p :: l) ∧ (s.creditsLeft k j ≠ 0) ∧ (isHost p.addr = false)) :=
  ⟨⟨strm 32, .pm, 4, 19, 1, 4, 19, by decide +kernel⟩,
   ⟨put inst0 [(F.SMV_CTL_STATE, 4, 0, fnOn)], .pm, 4, 19, 16, 4, 19, by decide +kernel⟩,
   ⟨put (strm 32) [(F.SMV_QTAIL_TAIL, 4, 19, 1)], .pm, 4, 19, 16, 4, 19, by decide +kernel⟩,
   ⟨put (strm 32) [(F.SMV_QTAIL_TAIL, 4, 16, 1)], 4, 16, ((put (strm 32) [(F.SMV_QTAIL_TAIL, 4, 16, 1)]).freeTag 4 16).getD 0, by decide +kernel⟩,
   ⟨putT (put (strm 32) [(F.SMV_QCFG_CREDITS, 4, 6, 1)]) 4 { items := [{ q := 6, slot := 0, stream := 1024, engine := 3, resolved := true, reads := [⟨ws4, 64, false, 0⟩] }] }, 4, 6, ((strm 32).freeTag 4 6).getD 0, { q := 6, slot := 0, stream := 1024, engine := 3, resolved := true, reads := [⟨ws4, 64, false, 0⟩] }, ⟨ws4, 64, false, 0⟩, [], by decide +kernel⟩⟩

/-- Concrete states and operands that meet the hypotheses of `TransfersAndItemsComplete`, clause by clause. -/
theorem witness_TransfersAndItemsComplete :
    (∃ (s : State) (k : ℕ) (tag : ℕ) (status : ℕ) (x : Xfer), ((s.tile k).xfers.find? (·.tag == tag) = some x) ∧ (x.fetch = true) ∧ (x.host = false) ∧ (x.write = false) ∧ (s.stale x.inst x.epoch = false)) ∧
    (∃ (s : State) (k : ℕ) (tag : ℕ) (x : Xfer) (i : Item), ((s.tile k).xfers.find? (·.tag == tag) = some x) ∧ (x.fetch = false) ∧ (x.host = false) ∧ (x.write = true) ∧ (x.remote = false) ∧ (s.stale x.inst x.epoch = false) ∧ (s.inMem x.inst x.addr x.len = true) ∧ (isHost x.addr = false) ∧ ((s.tile k).items.find? (fun i => i.q == x.q && i.slot == x.slot) = some i) ∧ (i.writes ≠ [])) ∧
    (∃ (s : State) (k : ℕ) (j : ℕ) (i : Item), (s.isOn .smv k = true) ∧ (s.nextItem k j = some i) ∧ (s.itemStatus k i = 0) ∧ (bitOf i.flags 0 = false) ∧ (i.engine ≠ 3)) ∧
    (∃ (s : State) (id : ℕ) (b : LiveItem), (s.barrierDue id = some b)) ∧
    (∃ (s : State) (k : ℕ) (n : ℕ), ((s.inst n).overlays.contains k = true)) ∧
    (∃ (s : State) (k : ℕ) (j : ℕ) (slot : ℕ) (status : ℕ) (digest : ℕ) (i : Item), ((s.qItems k j).find? (fun i => i.slot == slot && i.started && i.engine == 5 && !(j == 17 && leAt i.payload 0 1 == 0x49 && (s.stream i.stream).stages / 2 % 4 != 0)) = some i)) :=
  ⟨⟨putT (strm 32) 4 { xfers := [{ tag := 5, q := 16, fetch := true, addr := ws4 + 0x110000, len := 64 }] }, 4, 5, 0, { tag := 5, q := 16, fetch := true, addr := ws4 + 0x110000, len := 64 }, by decide +kernel⟩,
   ⟨putT (strm 32) 4 { xfers := [wx], items := [wi] }, 4, 9, wx, wi, by decide +kernel⟩,
   ⟨putT (strm 32) 4 { items := [di] }, 4, 16, di, by decide +kernel⟩,
   ⟨putS (strm 32) 1024 { stages := 32, items := [{ tile := 4, q := 20, slot := 0, flags := 1 }] }, 1024, { tile := 4, q := 20, slot := 0, flags := 1 }, by decide +kernel⟩,
   ⟨putI (strm 32) 0 { overlays := [4] }, 4, 0, by decide +kernel⟩,
   ⟨putT (strm 32) 4 { items := [fi] }, 4, 18, 3, 0, 0, fi, by decide +kernel⟩⟩

/-- A block of that program in the array, with its input as it stands or poisoned; and the program with its Bridle. -/
def arrC : State := arr progC { items := [ai], runs := [ar], blocks := [⟨0, 2, 0, 10⟩] }
def arrP : State := { arrC with poison := (List.range 16).map fun g => (ws4 / 64 + 0x400 + g, true) }
def progX : Prog := { progB with recs := [⟨1, layB.take 1 ++ [0x11] ++ layB.drop 2⟩] }

/-- Concrete states and operands that meet the hypotheses of `ArrayItemsAndBlocksRun`, clause by clause. -/
theorem witness_ArrayItemsAndBlocksRun :
    (∃ (s : State) (k : ℕ) (q : ℕ) (i : Item) (x : RunCx), (s.isOn .arr k = true) ∧ (nextCut s k q = some i) ∧ (bitOf i.flags 2 = false) ∧ (s.runCx (s.stream i.stream).inst (leAt i.payload 0 2) (leAt i.payload 4 4) i.stream i.frame = some x) ∧ (x.c.queue = q) ∧ (s.cutChecks (s.stream i.stream).inst i.stream k x = ([], []))) ∧
    (∃ (s : State) (k : ℕ) (q : ℕ) (i : Item), (s.isOn .arr k = true) ∧ (nextCut s k q = some i) ∧ (s.runCx (s.stream i.stream).inst (leAt i.payload 0 2) (leAt i.payload 4 4) i.stream i.frame = none)) ∧
    (∃ (s : State) (k : ℕ) (q : ℕ) (i : Item) (x : RunCx), (s.isOn .arr k = true) ∧ (nextCut s k q = some i) ∧ (s.runCx (s.stream i.stream).inst (leAt i.payload 0 2) (leAt i.payload 4 4) i.stream i.frame = some x) ∧ (x.c.queue = q) ∧ (s.cutChecks (s.stream i.stream).inst i.stream k x ≠ ([], [])) ∧ (x.l.bridle = true)) ∧
    (∃ (s : State) (k : ℕ) (q : ℕ) (r : CutRun) (x : RunCx), (s.isOn .arr k = true) ∧ ((s.tile k).blocks.length < 2) ∧ (nextBlock s k = some (q, r, x))) ∧
    (∃ (s : State) (k : ℕ) (b : ArrBlock) (rest : List ArrBlock), ((s.tile k).blocks = b :: rest)) ∧
    (∃ (s : State) (k : ℕ) (b : ArrBlock) (rest : List ArrBlock) (r : CutRun) (x : RunCx) (c : _), ((s.tile k).blocks = b :: rest) ∧ ((s.tile k).runs.find? (fun u => u.q == b.q && u.slot == b.slot) = some r) ∧ (s.cxOf r = some x) ∧ (x.stored (x.block b.block) = some c) ∧ (b.block + 1 ≠ x.blocks) ∧ ((x.block (b.block + 1)).row = c.row) ∧ (r.done + 1 < x.blocks) ∧ ((s.blockOut x c).bad = false) ∧ (r.microBad = false)) ∧
    (∃ (s : State) (k : ℕ) (b : ArrBlock) (rest : List ArrBlock) (r : CutRun) (x : RunCx) (c : _), ((s.tile k).blocks = b :: rest) ∧ ((s.tile k).runs.find? (fun u => u.q == b.q && u.slot == b.slot) = some r) ∧ (s.cxOf r = some x) ∧ (x.stored (x.block b.block) = some c) ∧ (b.block + 1 ≠ x.blocks) ∧ ((x.block (b.block + 1)).row = c.row) ∧ (r.done + 1 < x.blocks) ∧ ((s.blockOut x c).bad = true)) :=
  ⟨⟨arr progB { items := [ai] }, 4, 0, ai, ((arr progB { items := [ai] }).cxOf ar).get (by decide +kernel), by refine ⟨?_, ?_, ?_, ?_, ?_, ?_⟩ <;> first | decide +kernel | exact (Option.some_get _).symm⟩,
   ⟨arr { progB with cuts := [] } { items := [ai] }, 4, 0, ai, by decide +kernel⟩,
   ⟨arr progX { items := [ai] }, 4, 0, ai, ((arr progX { items := [ai] }).cxOf ar).get (by decide +kernel), by refine ⟨?_, ?_, ?_, ?_, ?_, ?_⟩ <;> first | decide +kernel | exact (Option.some_get _).symm⟩,
   ⟨arr progC { items := [ai], runs := [ar] }, 4, ((nextBlock (arr progC { items := [ai], runs := [ar] }) 4).get (by decide +kernel)).1, ((nextBlock (arr progC { items := [ai], runs := [ar] }) 4).get (by decide +kernel)).2.1, ((nextBlock (arr progC { items := [ai], runs := [ar] }) 4).get (by decide +kernel)).2.2, by exact ⟨by decide +kernel, by decide +kernel, by simp only [Prod.mk.eta, Option.some_get]⟩⟩,
   ⟨arrC, 4, ⟨0, 2, 0, 10⟩, [], by decide +kernel⟩,
   ⟨arrC, 4, ⟨0, 2, 0, 10⟩, [], ar, (arrC.cxOf ar).get (by decide +kernel), (((arrC.cxOf ar).get (by decide +kernel)).stored (((arrC.cxOf ar).get (by decide +kernel)).block 0)).get (by decide +kernel), by refine ⟨?_, ?_, ?_, ?_, ?_, ?_, ?_, ?_, ?_⟩ <;> first | decide +kernel | exact (Option.some_get _).symm⟩,
   ⟨arrP, 4, ⟨0, 2, 0, 10⟩, [], ar, (arrP.cxOf ar).get (by decide +kernel), (((arrP.cxOf ar).get (by decide +kernel)).stored (((arrP.cxOf ar).get (by decide +kernel)).block 0)).get (by decide +kernel), by refine ⟨?_, ?_, ?_, ?_, ?_, ?_, ?_, ?_⟩ <;> first | decide +kernel | exact (Option.some_get _).symm⟩⟩

/-- Concrete states and operands that meet the hypotheses of `HalosAndMicroprogramsArrive`, clause by clause. -/
theorem witness_HalosAndMicroprogramsArrive :
    (∃ (s : State) (k : ℕ) (q : ℕ) (side : ℕ) (r : CutRun) (x : RunCx), (haloRun s k q side = some r) ∧ (s.cxOf r = some x) ∧ (s.haloReady x r side = true)) ∧
    (∃ (s : State) (k : ℕ) (q : ℕ) (fails : ℕ) (r : CutRun), (loadingCut s k q = some r) ∧ (2 ≤ fails)) ∧
    (∃ (s : State) (k : ℕ) (q : ℕ) (fails : ℕ) (r : CutRun) (x : RunCx) (m : ℕ) (j : ℕ) (l : List Micro), (loadingCut s k q = some r) ∧ (fails < 2) ∧ (s.cxOf r = some x) ∧ (x.micro = some m) ∧ (microPlace (s.tile k).micro (bitList 16 (s.get F.SFU_MPRES_INUSE k 0)) = some (j, l))) ∧
    (∃ (s : State) (q : Requester) (k : ℕ) (kt : ℕ) (x : ℕ), (s.lands q k .ARR_CVCTL 0 true = some (kt, x))) :=
  ⟨⟨arr progB { items := [ai], runs := [ar] }, 4, 0, 1, ar, ((arr progB { items := [ai], runs := [ar] }).cxOf ar).get (by decide +kernel), by refine ⟨?_, ?_, ?_⟩ <;> first | decide +kernel | exact (Option.some_get _).symm⟩,
   ⟨arr progA { items := [ai], runs := [ar] }, 4, 0, 2, ar, by decide +kernel⟩,
   ⟨arr progA { items := [ai], runs := [ar] }, 4, 0, 1, ar, ((arr progA { items := [ai], runs := [ar] }).cxOf ar).get (by decide +kernel), 2, 0, [], by refine ⟨?_, ?_, ?_, ?_, ?_⟩ <;> first | decide +kernel | exact (Option.some_get _).symm⟩,
   ⟨strm 32, .pm, 4, 4, 0, by decide +kernel⟩⟩

/-- Concrete states and operands that meet the hypotheses of `LearnedFramesBegin`, clause by clause. -/
theorem witness_LearnedFramesBegin :
    (∃ (s : State) (id : ℕ) (i : LscInput) (p : Prog), (s.isLscEnc id = true) ∧ (s.lscInput id = some i) ∧ ((s.stream id).lsc.frames.find? (fun f => !f.ended) = none) ∧ ((s.stream id).lsc.pool.any (·.cur) = false ∨ (s.stream id).lsc.shape.camp = true) ∧ (s.shadowed id lscRegs = []) ∧ (s.sget F.ECE_LSCCMD_RCRESET id = 0) ∧ (s.prog (s.stream id).inst (s.slive F.ECE_LSCW7_PROG_ID id) = some p)) ∧
    (∃ (s : State) (id : ℕ) (i : LscInput) (f : LscFrame), (s.isLscEnc id = true) ∧ (s.lscInput id = some i) ∧ ((s.stream id).lsc.frames.find? (fun f => !f.ended) = some f) ∧ (f.nrow < 50) ∧ (s.sget F.ECE_LSCLIVE1_KEYPEND id = 0)) ∧
    (∃ (s : State) (id : ℕ) (f : LscFrame) (rest : List LscFrame), (s.isLscDec id = true) ∧ ((s.stream id).lsc.frames = f :: rest) ∧ (f.final = none) ∧ (f.begun = false) ∧ (f.refDone = true) ∧ ((s.stream id).lsc.refused = none) ∧ (f.closed = true ∨ f.plots.any (fun p => p.phase == .arrived) = true)) ∧
    (∃ (s : State) (q : Requester) (k : ℕ) (kt : ℕ) (ix : ℕ), (s.lands q k .ECE_LSCCMD 0 true = some (kt, ix)) ∧ (kt < 64) ∧ (ix < 256) ∧ (s.isLscEnc (kt * 256 + ix) = true)) ∧
    (∃ (s : State) (q : Requester) (k : ℕ) (kt : ℕ) (ix : ℕ), (s.lands q k .ECE_LSCCMD 0 true = some (kt, ix)) ∧ (kt < 64) ∧ (ix < 256) ∧ (s.isLscEnc (kt * 256 + ix) = true)) :=
  ⟨⟨lsc 0 [] [{ ptime := 5, incond := 0, conds := [] }] {}, 1024, { ptime := 5, incond := 0, conds := [] }, progL, by decide +kernel⟩,
   ⟨lsc 0 [{ frL with ended := false, nrow := 49 }] [{ ptime := 5, incond := 0, conds := [] }] {}, 1024, { ptime := 5, incond := 0, conds := [] }, { frL with ended := false, nrow := 49 }, by decide +kernel⟩,
   ⟨lsc 1 [{ frL with refDone := true, plots := [{ ix := 0, phase := .arrived }] }] [] {}, 1024, { frL with refDone := true, plots := [{ ix := 0, phase := .arrived }] }, [], by decide +kernel⟩,
   ⟨lsc 0 [] [] {}, .pm, 4, 4, 0, by decide +kernel⟩,
   ⟨lsc 0 [] [] {}, .pm, 4, 4, 0, by decide +kernel⟩⟩

/-- Concrete states and operands that meet the hypotheses of `LearnedFramesComplete`, clause by clause. -/
theorem witness_LearnedFramesComplete :
    (∃ (s : State) (id : ℕ) (f : LscFrame) (e : Prog × ℕ × ℕ × ℕ), ((s.stream id).lsc.frames.find? (fun f => !f.pathDone && f.final.isNone) = some f) ∧ (((s.prog (s.stream id).inst f.shape.prog).bind fun p => p.tensors.map fun w => (p, w)) = some e) ∧ (s.pathReady id f e = true)) ∧
    (∃ (s : State) (id : ℕ) (f : LscFrame) (rest : List LscFrame) (p : Prog), (s.isLscEnc id = true) ∧ ((s.stream id).lsc.frames = f :: rest) ∧ (f.emitted = true) ∧ (f.pathDone = true) ∧ (s.slive F.ECE_LSCW4_RECON_EN id = 0) ∧ (s.prog (s.stream id).inst f.shape.prog = some p)) ∧
    (∃ (s : State) (id : ℕ) (f : LscFrame) (rest : List LscFrame) (p : Prog), (s.isLscDec id = true) ∧ ((s.stream id).lsc.frames = f :: rest) ∧ (f.final = none) ∧ (f.pathDone = true) ∧ (s.prog (s.stream id).inst f.shape.prog = some p) ∧ (s.reconDone p f id = true)) ∧
    (∃ (s : State) (id : ℕ) (f : LscFrame) (rest : List LscFrame) (st : ℕ), (s.isLscDec id = true) ∧ ((s.stream id).lsc.frames = f :: rest) ∧ (f.final = some st)) ∧
    (∃ (s : State) (id : ℕ) (f : LscFrame), (s.isLscDec id = true) ∧ (s.slive F.ECE_LSCW2_DEC_WAIT id ≠ 0) ∧ ((s.stream id).lsc.openFrame = some f)) :=
  ⟨⟨lsc 0 [{ frL with plots := [{ ix := 0, phase := .coded }] }] [] {}, 1024, { frL with plots := [{ ix := 0, phase := .coded }] }, (progL, 0, 1, 2), by decide +kernel⟩,
   ⟨lsc 0 [{ frL with emitted := true, pathDone := true }] [] {}, 1024, { frL with emitted := true, pathDone := true }, [], progL, by decide +kernel⟩,
   ⟨lsc 1 [{ arrived with pathDone := true, recon := [zs 640] }] [] {}, 1024, { arrived with pathDone := true, recon := [zs 640] }, [], progL, by decide +kernel⟩,
   ⟨lsc 1 [{ frL with final := some 0x0106 }] [] {}, 1024, { frL with final := some 0x0106 }, [], 0x0106, by decide +kernel⟩,
   ⟨lsc 1 [{ frL with closed := false }] [] {}, 1024, { frL with closed := false }, by decide +kernel⟩⟩

/-- Concrete states and operands that meet the hypotheses of `EntropyItemsRun`, clause by clause. -/
theorem witness_EntropyItemsRun :
    (∃ (s : State) (dec : Bool) (k : ℕ) (x : EceCx) (e : TSet), (s.isOn .ece k = true) ∧ ((s.tile k).ece.length < 16) ∧ (eceNext s dec k = some x) ∧ (s.tset k x.n x.p.id = some e) ∧ (e.loading = false)) ∧
    (∃ (s : State) (dec : Bool) (k : ℕ) (x : EceCx) (i : ℕ), (s.isOn .ece k = true) ∧ ((s.tile k).ece.length < 16) ∧ (eceNext s dec k = some x) ∧ (s.tset k x.n x.p.id = none) ∧ (s.tsetPlace k = some i)) ∧
    (∃ (s : State) (k : ℕ) (e : TSet), ((s.tile k).tsets.find? (·.loading) = some e)) ∧
    (∃ (s : State) (k : ℕ) (r : EceRun) (p : Prog), ((s.tile k).ece.find? (fun r => !r.dec) = some r) ∧ (s.prog r.inst r.prog = some p) ∧ (r.bad = false) ∧ (let out := payloadBytes (encodeWords p.tables r.ecSyms); (out.length ≤ r.cap))) ∧
    (∃ (s : State) (k : ℕ) (slot : ℕ) (r : EceRun) (x : EceCx) (g : List SymAt) (ms : List (ℤ × ℕ × Bool)), ((s.tile k).ece.find? (fun r => r.dec && r.slot == slot) = some r) ∧ (((s.qItems k eceQueue).find? (·.slot == slot)).bind s.eceCx = some x) ∧ (x.groups[r.released]? = some g) ∧ (s.meansStored x r = true) ∧ (allSome ((atGroup s x r).model x.p x.w.2.2) g = some ms)) ∧
    (∃ (s : State) (k : ℕ) (r : EceRun) (x : EceCx), (((s.tile k).ece.filter (·.dec)).head? = some r) ∧ (((s.qItems k eceQueue).find? (·.slot == r.slot)).bind s.eceCx = some x) ∧ (r.decEnd x.p.tables x.groups.length ≠ .wait)) :=
  ⟨⟨lsc 0 [frL] [] { items := [ei 0], tsets := [{ ix := 0, inst := 0, prog := 7 }] }, false, 4, (eceNext (lsc 0 [frL] [] { items := [ei 0], tsets := [{ ix := 0, inst := 0, prog := 7 }] }) false 4).get (by decide +kernel), { ix := 0, inst := 0, prog := 7 }, by refine ⟨?_, ?_, ?_, ?_, ?_⟩ <;> first | decide +kernel | exact (Option.some_get _).symm⟩,
   ⟨lsc 1 [arrived] [] { items := [ei 1] }, true, 4, (eceNext (lsc 1 [arrived] [] { items := [ei 1] }) true 4).get (by decide +kernel), 0, by refine ⟨?_, ?_, ?_, ?_, ?_⟩ <;> first | decide +kernel | exact (Option.some_get _).symm⟩,
   ⟨lsc 0 [] [] { tsets := [{ ix := 0, inst := 0, prog := 7, loading := true }] }, 4, { ix := 0, inst := 0, prog := 7, loading := true }, by decide +kernel⟩,
   ⟨lsc 0 [frL] [] { items := [ei 0], ece := [{ er false with syms := [(0, 0, 0)] }] }, 4, { er false with syms := [(0, 0, 0)] }, progL, by decide +kernel⟩,
   ⟨lsc 1 [arrived] [] { items := [ei 1], ece := [er true] }, 4, 3, er true, ((lsc 1 [arrived] [] { items := [ei 1], ece := [er true] }).eceCx (ei 1)).get (by decide +kernel), [⟨true, 0, 0, 0⟩, ⟨true, 0, 1, 0⟩], [(0, 0, false), (0, 0, false)], by refine ⟨?_, ?_, ?_, ?_, ?_⟩ <;> first | decide +kernel | exact (Option.some_get _).symm⟩,
   ⟨lsc 1 [arrived] [] { items := [ei 1], ece := [{ er true with bad := true }] }, 4, { er true with bad := true }, ((lsc 1 [arrived] [] { items := [ei 1], ece := [{ er true with bad := true }] }).eceCx (ei 1)).get (by decide +kernel), by refine ⟨?_, ?_, ?_⟩ <;> first | decide +kernel | exact (Option.some_get _).symm⟩⟩

/-- Concrete states and operands that meet the hypotheses of `HeadEvaluationsRun`, clause by clause. -/
theorem witness_HeadEvaluationsRun :
    (∃ (s : State) (id : ℕ) (f : ℕ), (s.isOpen id = true) ∧ (bitOf (s.stream id).stages stHead = true) ∧ ((s.stream id).head.run = none) ∧ (s.sget F.FXG_HDSTAT_SRCGONE id ≠ 1) ∧ (s.headNext id = some f) ∧ (s.shapeOk id (s.sget F.FXG_HDW0_SRC id) f = true)) ∧
    (∃ (s : State) (id : ℕ) (f : ℕ), (s.isOpen id = true) ∧ (bitOf (s.stream id).stages stHead = true) ∧ ((s.stream id).head.run = none) ∧ (s.sget F.FXG_HDSTAT_SRCGONE id ≠ 1) ∧ (s.headNext id = some f) ∧ (s.shapeOk id (s.sget F.FXG_HDW0_SRC id) f = false)) ∧
    (∃ (s : State) (id : ℕ) (r : HeadRun) (p : Prog) (f : SrcFrame), ((s.stream id).head.run = some r) ∧ (s.headProg id = some p) ∧ ((s.stream (s.sget F.FXG_HDW0_SRC id)).srcs.find? (fun f => decide ((r.frame + 2 ^ 32 - f.frame) % 2 ^ 32 < f.n)) = some f)) :=
  ⟨⟨head4 (2, 3, 4) {}, 1025, 8, by decide +kernel⟩,
   ⟨head4 (2, 3, 5) {}, 1025, 8, by decide +kernel⟩,
   ⟨head4 (2, 3, 4) { run := some { frame := 8 } }, 1025, { frame := 8 }, { id := 7, head := some { taps := [(0, 2, 3, 4)] } }, { frame := 8, ptime := 5, conds := [] }, by decide +kernel⟩⟩

/-- Concrete states and operands that meet the hypotheses of `AdaptationWindowsRun`, clause by clause. -/
theorem witness_AdaptationWindowsRun :
    (∃ (s : State) (id : ℕ) (w : AdaptWin) (rest : List AdaptWin), ((s.stream id).head.wins = w :: rest) ∧ (w.opened = none) ∧ ((WinDesc.parse w.desc).start ≤ s.now) ∧ (w.validating = false)) ∧
    (∃ (s : State) (id : ℕ) (w : AdaptWin) (rest : List AdaptWin) (p : Prog), ((s.stream id).head.wins = w :: rest) ∧ (s.headProg id = some p) ∧ (w.opened ≠ none) ∧ (w.validating = false) ∧ (w.steps < (WinDesc.parse w.desc).steps) ∧ (s.windowOver w = false) ∧ (w.train ≠ [])) ∧
    (∃ (s : State) (id : ℕ) (w : AdaptWin) (rest : List AdaptWin), ((s.stream id).head.wins = w :: rest) ∧ (w.opened ≠ none) ∧ (w.validating = false) ∧ ((WinDesc.parse w.desc).steps ≤ w.steps ∨ s.windowOver w = true)) ∧
    (∃ (s : State) (id : ℕ) (w : AdaptWin) (rest : List AdaptWin) (p : Prog), ((s.stream id).head.wins = w :: rest) ∧ (s.headProg id = some p) ∧ (w.validating = true)) :=
  ⟨⟨head4 (2, 3, 4) { wins := [win1] }, 1025, win1, [], by decide +kernel⟩,
   ⟨head4 (2, 3, 4) { wins := [{ win1 with opened := some 0, train := [[1]] }] }, 1025, { win1 with opened := some 0, train := [[1]] }, [], { id := 7, head := some { taps := [(0, 2, 3, 4)] } }, by decide +kernel⟩,
   ⟨head4 (2, 3, 4) { wins := [{ win1 with opened := some 0, steps := 1 }] }, 1025, { win1 with opened := some 0, steps := 1 }, [], by decide +kernel⟩,
   ⟨head4 (2, 3, 4) { wins := [{ win1 with opened := some 0, validating := true }] }, 1025, { win1 with opened := some 0, validating := true }, [], { id := 7, head := some { taps := [(0, 2, 3, 4)] } }, by decide +kernel⟩⟩

/-- Concrete states and operands that meet the hypotheses of `StandardPicturesRun`, clause by clause. -/
theorem witness_StandardPicturesRun :
    (∃ (s : State) (id : ℕ) (it : Item), (s.sceInput id = some it) ∧ (s.isSceEnc id = true) ∧ (s.shadowed id sceRegs = []) ∧ (s.sget F.SCE_SCMD_RCRESET id = 0)) ∧
    (∃ (s : State) (id : ℕ) (it : Item), (s.sceInput id = some it) ∧ (s.isSceDec id = true)) ∧
    (∃ (s : State) (k : ℕ) (h : SceHdr) (id : ℕ) (p : ScePic), (s.isOn .sce k = true) ∧ ((s.tile k).sceBusy = none) ∧ (sceReady s k = some (id, p)) ∧ (s.isSceEnc id = true) ∧ (sceNeed true p.set 0 0 ≤ s.sget F.SCE_SW6_POOLN id) ∧ (s.inputPoisoned id p = false)) ∧
    (∃ (s : State) (k : ℕ) (h : SceHdr) (id : ℕ) (p : ScePic), (s.isOn .sce k = true) ∧ ((s.tile k).sceBusy = none) ∧ (sceReady s k = some (id, p)) ∧ (s.isSceEnc id = false) ∧ (s.shadowed id sceRegs = []) ∧ (h.supported = true) ∧ (h.existing = none) ∧ (h.kind ≠ .rasl ∨ (s.stream id).sce.skipRasl = false) ∧ (s.sget F.SCE_SLIVE1_REFUSED id = 0 ∨ h.key = true) ∧ (s.sceSuffices id h = true)) ∧
    (∃ (s : State) (k : ℕ) (h : SceHdr) (id : ℕ) (p : ScePic), (s.isOn .sce k = true) ∧ ((s.tile k).sceBusy = none) ∧ (sceReady s k = some (id, p)) ∧ (s.isSceEnc id = false) ∧ (s.shadowed id sceRegs = []) ∧ (h.supported = false)) ∧
    (∃ (s : State) (k : ℕ) (r : SceRes) (id : ℕ) (p : ScePic), ((s.tile k).sceBusy = some id) ∧ ((s.stream id).sce.run = some p)) ∧
    (∃ (s : State) (q : Requester) (k : ℕ) (kt : ℕ) (ix : ℕ), (s.lands q k .SCE_SCMD 0 true = some (kt, ix)) ∧ (kt < 64) ∧ (ix < 256) ∧ (s.isSceEnc (kt * 256 + ix) = true)) ∧
    (∃ (s : State) (q : Requester) (k : ℕ) (kt : ℕ) (ix : ℕ), (s.lands q k .SCE_SCMD 0 true = some (kt, ix)) ∧ (kt < 64) ∧ (ix < 256) ∧ (s.isSceEnc (kt * 256 + ix) = true)) :=
  ⟨⟨sce 0 {} { items := [ii] }, 1024, ii, by decide +kernel⟩,
   ⟨sce 1 {} { items := [ii] }, 1024, ii, by decide +kernel⟩,
   ⟨sce 0 { queue := [pic], pool := [{}, {}, {}, {}] } { items := [si] }, 4, {}, 1024, pic, by decide +kernel⟩,
   ⟨sce 1 { queue := [pic], pool := [{}, {}, {}, {}] } { items := [si] }, 4, { kind := .idr, seq := { width := 64, height := 64, dpb := 1 } }, 1024, pic, by decide +kernel⟩,
   ⟨sce 1 { queue := [pic], pool := [{}, {}, {}, {}] } { items := [si] }, 4, { seq := { features := [.interlace] } }, 1024, pic, by decide +kernel⟩,
   ⟨sce 0 { run := some pic, pool := [{ cur := true }, {}, {}, {}] } { items := [si], sceBusy := some 1024 }, 4, { stall := 3 }, 1024, pic, by decide +kernel⟩,
   ⟨sce 0 {} {}, .pm, 4, 4, 0, by decide +kernel⟩,
   ⟨sce 0 {} {}, .pm, 4, 4, 0, by decide +kernel⟩⟩

/-- Concrete states and operands that meet the hypotheses of `MemoryPortsReadAndWrite`, clause by clause. -/
theorem witness_MemoryPortsReadAndWrite :
    (∃ (s : State) (q : Requester) (own : Option (ℕ × ℕ)) (a : ℕ) (data : List Byte) (ask : Bool) (pz : Bool), (isHbm a = true) ∧ (s.isDevice a data.length = true) ∧ (s.epochOk own = true)) ∧
    (∃ (s : State) (q : Requester) (own : Option (ℕ × ℕ)) (a : ℕ) (data : List Byte) (ask : Bool) (pz : Bool), (isHbm a = true) ∧ (s.isDevice a data.length = true) ∧ (s.epochOk own = false)) ∧
    (∃ (s : State) (q : Requester) (own : Option (ℕ × ℕ)) (a : ℕ) (n : ℕ), (isHbm a = true) ∧ (s.isDevice a n = true) ∧ (s.epochOk own = true)) ∧
    (∃ (s : State) (q : Requester) (own : Option (ℕ × ℕ)) (a : ℕ) (n : ℕ), (isHbm a = true) ∧ (s.isDevice a n = true) ∧ (s.epochOk own = true)) ∧
    (∃ (s : State) (q : Requester) (own : Option (Nat × Nat)) (a : Nat) (n : Nat) (k : Nat), (wsTile a = some k) ∧ (s.isDevice a n = true)) :=
  ⟨⟨hbm, .pm, none, 0x1234500, [1, 2, 3], false, true, by decide +kernel⟩,
   ⟨put inst0 [(F.MGT_HBMCFG_INSVC, 64, 0, 0xFFFF)], .fw 4, some (0, 1), 0x1234500, [1, 2, 3], false, true, by decide +kernel⟩,
   ⟨hbm, .pm, none, 0x1234500, 4, by decide +kernel⟩,
   ⟨hbm, .pm, none, 0x1234500, 4, by decide +kernel⟩,
   ⟨inst0, .pm, none, ws4 + 64, 4, 4, by decide +kernel⟩⟩

/-- Concrete states and operands that meet the hypotheses of `WeightCacheServesLines`, clause by clause. -/
theorem witness_WeightCacheServesLines :
    (∃ (s : State) (k : ℕ) (a : ℕ) (l : WcLine), (s.ownerGone k = none) ∧ (isHbm a = true) ∧ (s.isDevice a 1 = true) ∧ ((s.tile (s.wcTile a)).wc.find? (·.line == a / 256) = some l) ∧ (l.filling = false)) ∧
    (∃ (s : State) (k : ℕ) (a : ℕ) (l : WcLine), (s.ownerGone k = none) ∧ (isHbm a = true) ∧ (s.isDevice a 1 = true) ∧ ((s.tile (s.wcTile a)).wc.find? (·.line == a / 256) = some l) ∧ (l.filling = true)) ∧
    (∃ (s : State) (k : ℕ) (a : ℕ), (s.ownerGone k = none) ∧ (isHbm a = true) ∧ (s.isDevice a 1 = true) ∧ ((s.tile (s.wcTile a)).wc.find? (·.line == a / 256) = none)) ∧
    (∃ (s : State) (a : ℕ) (l : WcLine), ((s.tile (s.wcTile a)).wc.find? (fun l => l.line == a / 256 && l.filling) = some l)) ∧
    (∃ (s : State) (a : ℕ) (l : WcLine), ((s.tile (s.wcTile a)).wc.find? (fun l => l.line == a / 256 && l.filling) = some l)) ∧
    (∃ (s : State) (q : Requester) (k : ℕ) (kt : ℕ) (x : ℕ), (s.lands q k .MEM_WCCTL 0 true = some (kt, x))) :=
  ⟨⟨cached { line := 0x12345 }, 5, 0x1234500, { line := 0x12345 }, by decide +kernel⟩,
   ⟨cached { line := 0x12345, filling := true, waiters := [9] }, 5, 0x1234500, { line := 0x12345, filling := true, waiters := [9] }, by decide +kernel⟩,
   ⟨hbm, 5, 0x1234500, by decide +kernel⟩,
   ⟨cached { line := 0x12345, filling := true, waiters := [9] }, 0x1234500, { line := 0x12345, filling := true, waiters := [9] }, by decide +kernel⟩,
   ⟨cached { line := 0x12345, filling := true, waiters := [9] }, 0x1234500, { line := 0x12345, filling := true, waiters := [9] }, by decide +kernel⟩,
   ⟨cached { line := 0x12345, filling := true, waiters := [9] }, .pm, 17, 17, 0, by decide +kernel⟩⟩

/-- Concrete states and operands that meet the hypotheses of `TablesAreReadWhenEnabledOrReloaded`, clause by clause. -/
theorem witness_TablesAreReadWhenEnabledOrReloaded :
    (∃ (s : State) (q : Requester) (kt : ℕ) (x : ℕ), (s.lands q paddockTile .LNK_LBLCTL 0 true = some (kt, x))) ∧
    (∃ (s : State) (q : Requester) (kt : ℕ) (x : ℕ), (s.lands q paddockTile .LNK_LBLCTL 0 true = some (kt, x))) ∧
    (∃ (s : State) (q : Requester) (kt : ℕ) (x : ℕ), (s.lands q s.bootTile .LNK_PUBCTL 0 true = some (kt, x))) ∧
    (∃ (s : State) (q : Requester) (kt : ℕ) (x : ℕ), (s.lands q s.bootTile .LNK_PUBCTL 0 true = some (kt, x))) ∧
    (∃ (s : State) (q : Requester) (kt : ℕ) (x : ℕ), (s.lands q s.bootTile .LNK_MVCFG 0 true = some (kt, x))) ∧
    (∃ (s : State) (q : Requester) (kt : ℕ) (x : ℕ), (s.lands q s.bootTile .LNK_MVCFG 0 true = some (kt, x))) :=
  ⟨⟨run9, .pm, 55, 0, by decide +kernel⟩,
   ⟨run9, .pm, 55, 0, by decide +kernel⟩,
   ⟨run9, .pm, 64, 0, by decide +kernel⟩,
   ⟨run9, .pm, 64, 0, by decide +kernel⟩,
   ⟨run9, .pm, 64, 0, by decide +kernel⟩,
   ⟨run9, .pm, 64, 0, by decide +kernel⟩⟩

/-- Concrete states and operands that meet the hypotheses of `PaddockFramesGiveLabels`, clause by clause. -/
theorem witness_PaddockFramesGiveLabels :
    (∃ (s : State) (tu : ℕ) (tid : ℕ) (sv : ℕ) (u : ℕ) (fc : ℕ) (a : ℕ) (n : ℕ), (s.isOn .lnk paddockTile = true) ∧ (s.padLock = true) ∧ (s.get F.LNK_LBLCTL_EN paddockTile 0 = 1)) ∧
    (∃ (s : State) (tu : ℕ) (tid : ℕ) (sv : ℕ) (u : ℕ) (fc : ℕ) (regs : List ℕ) (m : MbReq) (e : LblBind) (b : LblBind) (raw : Machine.Num) (isb : Bool), (s.isOn .lnk paddockTile = true) ∧ (s.padLock = true) ∧ (s.get F.LNK_LBLCTL_EN paddockTile 0 = 1) ∧ (s.pkg.mbs.find? (fun m => m.tuple == tu && m.tid == tid) = some m) ∧ (m.answered = false) ∧ (regs.length = m.count) ∧ (s.modbusLabels m sv u fc regs = [(e, raw, isb)]) ∧ (s.pkg.lbls.find? (·.ix == e.ix) = some b) ∧ (s.inDev b.inst (b.ring + 16 * (b.seq % (b.pages * 256))) 16 = true)) ∧
    (∃ (s : State), (s.isOn .lnk paddockTile = true) ∧ (s.padLock = true) ∧ (s.get F.LNK_LBLCTL_EN paddockTile 0 = 1)) ∧
    (∃ (s : State) (b : PadBody), (s.isOn .lnk paddockTile = true) ∧ (s.padLock = true)) :=
  ⟨⟨net, 1, 2, 77, 1, 3, 10, 1, by decide +kernel⟩,
   ⟨putP net fun p => { p with lbls := [lb], mbs := [mbq] }, 1, 2, 77, 1, 3, [25], mbq, lb, lb, lblRaw lb 10 [25], false, by decide +kernel⟩,
   ⟨net, by decide +kernel⟩,
   ⟨net, .unparsed, by decide +kernel⟩⟩

/-- Concrete states and operands that meet the hypotheses of `PortsAndClockMessages`, clause by clause. -/
theorem witness_PortsAndClockMessages :
    (∃ (s : State) (p : ℕ), (s.portInService p = true) ∧ (s.isOn .lnk (s.portTile p) = true)) ∧
    (∃ (s : State) (p : ℕ), (s.portInService p = true)) ∧
    (∃ (s : State) (f : EthFrame), (s.portUp f.port = true) ∧ (f.pause = true)) ∧
    (∃ (s : State) (f : EthFrame), (s.portUp f.port = true) ∧ (f.pause = false) ∧ (f.good = false ∨ f.len < 64 ∨ 9216 < f.len ∨ f.fragment = true ∨ f.sumOk = false)) ∧
    (∃ (s : State) (p : ℕ) (v : ℕ) (n : ℕ), (s.portUp p = true) ∧ (64 ≤ n) ∧ (n ≤ 9216) ∧ ((s.iface p v).isSome = true)) ∧
    (∃ (s : State) (ofs : ℤ) (n : ℕ), (s.portUp s.ptpPort = true) ∧ (64 ≤ n) ∧ (n ≤ 9216) ∧ (s.ptpRole = ptpSlave)) ∧
    (∃ (s : State), (s.ptpRole = ptpSlave)) ∧
    (∃ (s : State), (s.portUp s.ptpPort = true) ∧ (s.ptpRole = ptpMaster ∨ s.ptpRole = ptpSlave)) :=
  ⟨⟨put net [(F.LNK_LANESTAT_UP, 8, 0, 0)], 0, by decide +kernel⟩,
   ⟨net, 0, by decide +kernel⟩,
   ⟨net, { port := 0, pause := true, body := .other }, by decide +kernel⟩,
   ⟨net, { port := 0, good := false, body := .other }, by decide +kernel⟩,
   ⟨putP net fun p => { p with ifaces := [{ port := 0, vlan := 7 }] }, 0, 7, 64, by decide +kernel⟩,
   ⟨net, 1000001, 9216, by decide +kernel⟩,
   ⟨net, by decide +kernel⟩,
   ⟨net, by decide +kernel⟩⟩

/-- A slave's offsets at the bounds of `PortsAndClockMessages`: the largest that is slewed, the smallest that unlocks, and the largest
that is good, after fifteen good ones; and a wake time that a step passes. -/
theorem witness_PortsAndClockMessages_offsets :
    (∃ (s : State) (ofs : ℤ), (s.portUp s.ptpPort = true) ∧ (s.ptpRole = ptpSlave) ∧ (ofs.natAbs ≤ 1000000) ∧ (1000000 < (ofs - 1).natAbs)) ∧
    (∃ (s : State) (ofs : ℤ), (s.portUp s.ptpPort = true) ∧ (s.ptpRole = ptpSlave) ∧ (10000 < ofs.natAbs) ∧ ((ofs - 1).natAbs ≤ 10000)) ∧
    (∃ (s : State) (ofs : ℤ), (s.portUp s.ptpPort = true) ∧ (s.ptpRole = ptpSlave) ∧ (ofs.natAbs ≤ 1000) ∧ (15 ≤ s.pkg.ptpGood)) ∧
    (∃ (s : State) (ofs : ℤ) (k : ℕ), (s.portUp s.ptpPort = true) ∧ (s.ptpRole = ptpSlave) ∧ (1000000 < ofs.natAbs) ∧ (k < 64) ∧ (s.now < s.wakeTime k) ∧
      (s.wakeTime k ≤ (((s.now : Int) - ofs) % 2 ^ 64).toNat) ∧ (s.slp k = slpStopped)) :=
  ⟨⟨net, -1000000, by decide +kernel⟩,
   ⟨net, 10001, by decide +kernel⟩,
   ⟨putP net fun p => { p with ptpGood := 15 }, 1000, by decide +kernel⟩,
   ⟨put net [(F.MGT_WAKETIME_LO_TIME_LO, 9, 0, 2000000), (F.MGT_WAKETIME_HI_TIME_HI, 9, 0, 0), (F.MGT_SLPSTAT_STATE, 9, 0, slpStopped)], -2000000, 9, by decide +kernel⟩⟩

/-- Concrete states and operands that meet the hypotheses of `IngestUnitsOpenAndClose`, clause by clause. -/
theorem witness_IngestUnitsOpenAndClose :
    (∃ (s : State) (p : ℕ) (v : ℕ) (d : ℕ) (n : ℕ) (pt : ℕ) (seq : ℕ) (ts : ℕ) (ssrc : ℕ) (parts : List NalPart) (id : ℕ), (s.portUp p = true) ∧ (64 ≤ n) ∧ (n ≤ 9216) ∧ (s.flowOf p v d (.rtpVideo pt seq ts ssrc false parts) = some id) ∧ ((s.stream id).ing.flow = 1) ∧ (s.isOn .ing (s.portTile p) = true) ∧ (s.sget F.ING_SW0_IKIND id ≤ 1) ∧ (s.sget F.ING_SW1_PT id = pt) ∧ ((s.stream id).ing.units = []) ∧ ((s.stream id).ing.closed = none)) ∧
    (∃ (s : State) (id : ℕ), ((s.stream id).ing.units ≠ [])) ∧
    (∃ (s : State) (id : ℕ), (s.isOpen id = true) ∧ ((s.stream id).ing.flow = 1) ∧ (s.sget F.ING_SW0_IKIND id ≤ 1 ∨ s.sget F.ING_SW0_IKIND id = 3) ∧ (s.portUp (s.sget F.ING_SW0_PORT id) = true)) :=
  ⟨⟨putS (put net [(F.ING_SW1_PT, 4, 0, 96), (F.ING_SW1_UDPPORT, 4, 0, 5004)]) 1024 { stages := 5, ing := { flow := 1 } }, 0, 0, 5004, 64, 96, 65535, 9000, 1, [⟨true, true, [0x65, 1]⟩], 1024, by decide +kernel⟩,
   ⟨putS net 1024 { stages := 5, ing := { flow := 1, units := [{ key := 1, ptime := 2 }] } }, 1024, by decide +kernel⟩,
   ⟨putS net 1024 { stages := 5, ing := { flow := 1 } }, 1024, by decide +kernel⟩⟩

/-- Concrete states and operands that meet the hypotheses of `HostLinkAndReads`, clause by clause. -/
theorem witness_HostLinkAndReads :
    (∃ (s : State) (g : ℕ) (w : ℕ) (v : ℕ), (s.get F.MGT_PARTID_TILES_OK pkgTile 0 = 0 ∨ s.inService pcieTile = true)) ∧
    (∃ (s : State), (s.wf = true)) ∧
    (∃ (s : State) (k : ℕ), (1 ≤ k) ∧ (k ≤ 64) ∧ (s.instState (instOfVf k) = instActive)) ∧
    (∃ (s : State) (k : ℕ), (1 ≤ k) ∧ (k ≤ 64) ∧ (s.instState (instOfVf k) = instFree)) ∧
    (∃ (s : State) (k : ℕ) (tag : ℕ) (x : Xfer) (data : List Byte) (pz : Bool), (s.hostRead k tag = some x) ∧ (data.length = x.len) ∧ (x.q < ringQueue 0) ∧ (x.fetch = false) ∧ (x.write = false) ∧ (s.stale x.inst x.epoch = false)) ∧
    (∃ (s : State) (k : ℕ) (tag : ℕ) (x : Xfer), (s.hostRead k tag = some x) ∧ (x.q < ringQueue 0) ∧ (x.fetch = false) ∧ (x.write = false) ∧ (s.stale x.inst x.epoch = false)) :=
  ⟨⟨net, 1, 2, 3, by decide +kernel⟩,
   ⟨putT net 4 { xfers := [hx], items := [hi1] }, by decide +kernel⟩,
   ⟨net, 1, by decide +kernel⟩,
   ⟨net, 64, by decide +kernel⟩,
   ⟨putT net 4 { xfers := [hx], items := [hi1] }, 4, 9, hx, [1, 2, 3, 4], true, by decide +kernel⟩,
   ⟨putT net 4 { xfers := [hx], items := [hi1] }, 4, 9, hx, by decide +kernel⟩⟩

/-- Concrete states and operands that meet the hypotheses of `MovonFramesReachTheirPaths`, clause by clause. -/
theorem witness_MovonFramesReachTheirPaths :
    (∃ (s : State) (f : MvFrame), (s.portUp f.port = true) ∧ (s.stage = 9) ∧ (s.get F.LNK_MVCFG_EN pkgTile 0 = 1) ∧ (s.movonTakes f = none) ∧ (1 ≤ f.mtype) ∧ (f.mtype ≤ 9)) ∧
    (∃ (s : State) (f : MvFrame) (p : ℕ), (nextOn s f p) ∧ (f.mtype ≠ mtProbe) ∧ (f.mtype ≠ mtLinkAck)) ∧
    (∃ (s : State) (f : MvFrame) (p : ℕ), (comesOn s f p) ∧ (f.mtype ≠ mtProbe) ∧ (f.mtype ≠ mtLinkAck) ∧ (lseqDist (link s f.src p).rx f.lseq ≠ 0) ∧ (lseqDist (link s f.src p).rx f.lseq < 2 ^ 31) ∧ ((link s f.src p).held.any (·.lseq == f.lseq) = false)) ∧
    (∃ (s : State) (f : MvFrame) (p : ℕ), (comesOn s f p) ∧ (f.mtype = mtProbe)) ∧
    (∃ (s : State) (f : MvFrame) (p : ℕ), (comesOn s f p) ∧ (f.mtype = mtLinkAck) ∧ (bitOf f.flags 1 = false)) ∧
    (∃ (s : State) (f : MvFrame) (p : ℕ) (x : MvTx), (comesOn s f p) ∧ (f.mtype = mtLinkAck) ∧ (bitOf f.flags 1 = true) ∧ (((link s f.src p).unacked.filter fun x => !(decide (1 ≤ lseqDist x.lseq f.lack) && decide (lseqDist x.lseq f.lack < 2 ^ 31))).find? (·.lseq == f.lack) = some x)) :=
  ⟨⟨mov {}, { mf 1 [] with dst := 9 }, by decide +kernel⟩,
   ⟨mov { links := [{}] }, mf 1 [], 0, by unfold nextOn comesOn; decide +kernel⟩,
   ⟨mov { links := [{}] }, { mf 1 [] with lseq := 2 ^ 31 - 1 }, 0, by unfold comesOn; decide +kernel⟩,
   ⟨mov { links := [{}] }, mf 8 [], 0, by unfold comesOn; decide +kernel⟩,
   ⟨mov { links := [{ up := false, unacked := [mx] }] }, { mf 9 [] with lack := 5 }, 0, by unfold comesOn; decide +kernel⟩,
   ⟨mov { links := [{ unacked := [mx] }] }, { mf 9 [] with lack := 4, flags := 2 }, 0, mx, by unfold comesOn; decide +kernel⟩⟩

/-- Concrete states and operands that meet the hypotheses of `MovonMessagesAct`, clause by clause. -/
theorem witness_MovonMessagesAct :
    (∃ (s : State) (f : MvFrame) (p : ℕ), (wholeNext s f p) ∧ (f.mtype = mtReq)) ∧
    (∃ (s : State) (f : MvFrame) (p : ℕ) (h : ReqHdr) (b : List Byte), (wholeNext s f p) ∧ (f.mtype = mtReq) ∧ (parseReq f.payload (bitOf f.flags 0) = (opNop, h, b)) ∧ (passes s (.movon f.src f.msgid) opNop h b)) ∧
    (∃ (s : State) (f : MvFrame) (p : ℕ), (wholeNext s f p) ∧ (f.mtype = mtCpl)) ∧
    (∃ (s : State) (f : MvFrame) (p : ℕ), (wholeNext s f p) ∧ (f.mtype = mtOsf) ∧ (s.stale f.inst f.epoch = false) ∧ (s.isOpen f.stream = true) ∧ ((s.stream f.stream).inst = f.inst) ∧ (bitOf (s.stream f.stream).stages stLsc = true)) ∧
    (∃ (s : State) (f : MvFrame) (p : ℕ), (wholeNext s f p) ∧ (f.mtype = mtOsf) ∧ (s.stale f.inst f.epoch = true)) ∧
    (∃ (s : State) (f : MvFrame) (p : ℕ), (wholeNext s f p) ∧ (f.mtype = mtWrite) ∧ (s.writeStatus f f.payload = 0) ∧ (isHost (leAt f.payload 0 8) = false)) ∧
    (∃ (s : State) (f : MvFrame) (p : ℕ), (wholeNext s f p) ∧ (f.mtype = mtWrite) ∧ (s.writeStatus f f.payload ≠ 0)) ∧
    (∃ (s : State) (f : MvFrame) (p : ℕ) (i : Xfer), (wholeNext s f p) ∧ (f.mtype = mtLate) ∧ (s.stale (Cpl.parse f.payload).inst (Cpl.parse f.payload).epoch = false) ∧ (s.isLive (Cpl.parse f.payload).stream = true) ∧ ((s.tile (homeOf (Cpl.parse f.payload).stream)).xfers.find? (fun x => x.write && x.remote && x.stream == (Cpl.parse f.payload).stream && x.addr == (Cpl.parse f.payload).digest) = some i) ∧ ((∀ y ∈ (s.tile (homeOf (Cpl.parse f.payload).stream)).items, y.q = i.q → y.slot = i.slot → y.late = false))) ∧
    (∃ (s : State) (f : MvFrame) (p : ℕ) (n : ℕ) (d : ℕ) (st : ℕ) (i : ℕ), (wholeNext s f p) ∧ (f.mtype = mtDir) ∧ (f.dir = some (.register n d st i)) ∧ (s.isMaster = true) ∧ (s.pkg.names.length < dirCapacity)) ∧
    (∃ (s : State) (f : MvFrame) (p : ℕ) (m : MvMsg), (nextOn s f p) ∧ (f.mtype = mtResp) ∧ ((s.peer f.src).msgs.find? (·.id == leAt f.payload 0 4) = some m) ∧ (m.ctx = .plain) ∧ (s.stale m.inst m.epoch = false)) ∧
    (∃ (s : State) (f : MvFrame) (p : ℕ) (m : MvMsg) (k : ℕ) (tag : ℕ), (nextOn s f p) ∧ (f.mtype = mtResp) ∧ ((s.peer f.src).msgs.find? (·.id == leAt f.payload 0 4) = some m) ∧ (m.ctx = .xfer k tag)) :=
  ⟨⟨mov { links := [{}] }, mf 1 nopReq, 0, by unfold wholeNext nextOn comesOn; decide +kernel⟩,
   ⟨mov { links := [{}] }, mf 1 nopReq, 0, (parseReq nopReq false).2.1, [], by unfold wholeNext nextOn comesOn passes; decide +kernel⟩,
   ⟨mov { links := [{}] }, mf 2 (zs 32), 0, by unfold wholeNext nextOn comesOn; decide +kernel⟩,
   ⟨mov { links := [{}] }, { mf 3 unit0 with stream := 1024 }, 0, by unfold wholeNext nextOn comesOn; decide +kernel⟩,
   ⟨mov { links := [{}] }, { mf 3 unit0 with stream := 1024, epoch := 1 }, 0, by unfold wholeNext nextOn comesOn; decide +kernel⟩,
   ⟨mov { links := [{}] }, mf 4 (toLe 8 (ws4 + 64) ++ zs 64), 0, by unfold wholeNext nextOn comesOn; decide +kernel⟩,
   ⟨mov { links := [{}] }, mf 4 (toLe 8 (ws4 + 64) ++ zs 63), 0, by unfold wholeNext nextOn comesOn; decide +kernel⟩,
   ⟨putT (mov { links := [{}] }) 4 { xfers := [rx1], items := [wi] }, mf 6 lateB, 0, rx1, by unfold wholeNext nextOn comesOn; decide +kernel⟩,
   ⟨put (mov { links := [{}] }) [(F.LNK_MVSTAT_MASTER, 64, 0, 1)], { mf 7 [] with dir := some (.register 5 1 1024 0) }, 0, 5, 1, 1024, 0, by unfold wholeNext nextOn comesOn; decide +kernel⟩,
   ⟨mov { links := [{}], msgs := [mm] }, mf 5 (toLe 4 7 ++ zs 4), 0, mm, by unfold nextOn comesOn; decide +kernel⟩,
   ⟨putT (mov { links := [{}], msgs := [{ mm with ctx := .xfer 4 9 }] }) 4 { xfers := [rx1], items := [wi] }, mf 5 (toLe 4 7 ++ zs 4), 0, { mm with ctx := .xfer 4 9 }, 4, 9, by unfold nextOn comesOn; decide +kernel⟩⟩

/-- Concrete states and operands that meet the hypotheses of `MovonTimersAndTransmission`, clause by clause. -/
theorem witness_MovonTimersAndTransmission :
    (∃ (s : State) (e : ℕ) (p : ℕ) (l : ℕ) (x : MvTx), ((link s e p).unacked.find? (·.lseq == l) = some x) ∧ (x.tries < 8) ∧ (p < (s.peer e).links.length)) ∧
    (∃ (s : State) (e : ℕ) (p : ℕ) (l : ℕ) (x : MvTx), ((link s e p).unacked.find? (·.lseq == l) = some x) ∧ (8 ≤ x.tries) ∧ (p < (s.peer e).links.length) ∧ ((s.peer e).kind ≠ 0)) ∧
    (∃ (s : State) (e : ℕ) (p : ℕ), ((link s e p).unacked.any (·.tries != 0) = true) ∧ (p < (s.peer e).links.length) ∧ ((s.peer e).kind ≠ 0)) ∧
    (∃ (s : State) (e : ℕ) (p : ℕ), ((s.peer e).kind ≠ 0) ∧ (p < (s.peer e).paths.length) ∧ (p < (s.peer e).links.length) ∧ ((link s e p).up = false) ∧ (s.portUp ((s.peer e).paths.getD p {}).port = true)) ∧
    (∃ (s : State) (e : ℕ) (i : ℕ) (m : MvMsg), ((s.peer e).msgs.find? (·.id == i) = some m) ∧ ((link s e m.path).unacked.any (·.tries != 0) = false) ∧ (m.ctx = .plain) ∧ (s.stale m.inst m.epoch = false)) ∧
    (∃ (s : State) (e : ℕ) (i : ℕ) (m : MvMsg) (k : ℕ) (tag : ℕ), ((s.peer e).msgs.find? (·.id == i) = some m) ∧ ((link s e m.path).unacked.any (·.tries != 0) = false) ∧ (m.ctx = .xfer k tag)) ∧
    (∃ (s : State), (s.get F.LNK_MVCFG_EN pkgTile 0 = 1) ∧ (s.isMaster = false) ∧ ((s.peer s.pkg.masterDev).kind ≠ 0) ∧ (s.pathUp s.pkg.masterDev [] = none)) ∧
    (∃ (s : State) (k : ℕ) (i : Item) (e : Egress), (nextEgress s k = some (i, e)) ∧ (s.sget F.LNK_SW0_EGKIND i.stream ≠ 0) ∧ (s.portUp (s.sget F.LNK_SW0_PORT i.stream) = true) ∧ ((s.peer (s.sget F.LNK_SW0_PEER i.stream)).kind ≠ 0)) ∧
    (∃ (s : State) (k : ℕ) (i : Item) (e : Egress), (nextEgress s k = some (i, e)) ∧ (s.sget F.LNK_SW0_EGKIND i.stream = 0) ∧ (gather ((osfSplit e.bytes.length false false e.bytes).filterMap fun u => u.map (·.raw)) [] ≠ []) ∧ ((s.qItems k egressQueue).find? (·.slot == i.slot) = some i) ∧ (s.pathUp (s.sget F.LNK_SW0_PEER i.stream) [] = none)) ∧
    (∃ (s : State) (k : ℕ) (i : Item) (e : Egress) (b : List Byte) (p : ℕ), (nextEgress s k = some (i, e)) ∧ (s.sget F.LNK_SW0_EGKIND i.stream = 0) ∧ (s.get F.LNK_MVCFG_EN pkgTile 0 = 1) ∧ (gather ((osfSplit e.bytes.length false false e.bytes).filterMap fun u => u.map (·.raw)) [] = [b]) ∧ ((s.peer (s.sget F.LNK_SW0_PEER i.stream)).kind ≠ 0) ∧ (s.pathUp (s.sget F.LNK_SW0_PEER i.stream) [] = some p)) :=
  ⟨⟨mov { links := [{ unacked := [mx] }] }, 2, 0, 4, mx, by decide +kernel⟩,
   ⟨mov { links := [{ unacked := [{ mx with tries := 8 }] }] }, 2, 0, 4, { mx with tries := 8 }, by decide +kernel⟩,
   ⟨mov { links := [{ unacked := [{ mx with tries := 1 }] }] }, 2, 0, by decide +kernel⟩,
   ⟨mov { links := [{ up := false }] }, 2, 0, by decide +kernel⟩,
   ⟨mov { links := [{}], msgs := [mm] }, 2, 7, mm, by decide +kernel⟩,
   ⟨putT (mov { links := [{}], msgs := [{ mm with ctx := .xfer 4 9 }] }) 4 { xfers := [rx1], items := [wi] }, 2, 7, { mm with ctx := .xfer 4 9 }, 4, 9, by decide +kernel⟩,
   ⟨putP (mov { links := [{ up := false }] }) fun p => { p with masterDev := 2 }, by decide +kernel⟩,
   ⟨egr 1 (zs 30) { links := [{}] }, 4, li, eg (zs 30), by decide +kernel⟩,
   ⟨egr 0 unit0 { links := [{ up := false }] }, 4, li, eg unit0, by decide +kernel⟩,
   ⟨egr 0 unit0 { links := [{}] }, 4, li, eg unit0, unit0, 0, by decide +kernel⟩⟩

/-- Concrete states and operands that meet the hypotheses of `YardEdgesAndQuiesce`, clause by clause. -/
theorem witness_YardEdgesAndQuiesce :
    (∃ (s : State) (k : ℕ) (p : ℕ), (s.portEdgeUp k p = true)) ∧
    (∃ (s : State) (k : ℕ) (p : ℕ) (u : ℕ) (e : ℕ × ℕ), (neighbour k p = some u) ∧ (edgeOf k p = some e) ∧ (s.portEdgeUp k p = true) ∧ (s.quiescing = false)) ∧
    (∃ (s : State) (q : Requester) (kt : ℕ) (x : ℕ), (s.lands q s.bootTile .YRD_QCTL 0 true = some (kt, x)) ∧ (s.quiescing = false)) ∧
    (∃ (s : State) (q : Requester) (kt : ℕ) (x : ℕ), (s.lands q s.bootTile .YRD_QCTL 0 true = some (kt, x)) ∧ (s.quiescing = true)) ∧
    (∃ (s : State), (s.quiescing = true) ∧ (s.pkg.yard.reached = false)) ∧
    (∃ (s : State) (bad : List (ℕ × ℕ)), (s.quiescing = true) ∧ (s.pkg.yard.reached = true)) ∧
    (∃ (s : State), (s.quiescing = true) ∧ (s.pkg.yard.reached = false)) ∧
    (∃ (s : State) (k : ℕ), (s.get F.PRT_TRST_BUSY k 0 = 1)) :=
  ⟨⟨yard, 9, 3, by decide +kernel⟩,
   ⟨yard, 9, 3, 8, (8, 2), by decide +kernel⟩,
   ⟨yard, .pm, 64, 0, by decide +kernel⟩,
   ⟨put yard [(F.YRD_QCTL_BUSY, 64, 0, 1)], .pm, 64, 0, by decide +kernel⟩,
   ⟨put yard [(F.YRD_QCTL_BUSY, 64, 0, 1)], by decide +kernel⟩,
   ⟨putP (put yard [(F.YRD_QCTL_BUSY, 64, 0, 1)]) fun p => { p with yard := { p.yard with reached := true } }, [(8, 2)], by decide +kernel⟩,
   ⟨put yard [(F.YRD_QCTL_BUSY, 64, 0, 1)], by decide +kernel⟩,
   ⟨put yard [(F.PRT_TRST_BUSY, 9, 0, 1)], 9, by decide +kernel⟩⟩

/-- Concrete states and operands that meet the hypotheses of `SnapshotsLatchTogether`, clause by clause. -/
theorem witness_SnapshotsLatchTogether :
    (∃ (s : State), (s.get F.SNP_SRC_PIN pkgTile 0 = 1) ∧ (s.pkg.snapT = none) ∧ (allArmed s)) ∧
    (∃ (s : State) (k : ℕ), (s.get F.SNP_SRC_PIN pkgTile 0 = 1) ∧ (s.pkg.snapT = none) ∧ (k < 64) ∧ (s.inService k = true) ∧ (s.get F.SNP_CTL_ARM k 0 = 0)) ∧
    (∃ (s : State) (q : Requester) (kt : ℕ) (x : ℕ), (s.lands q s.bootTile .SNP_TRIG 0 true = some (kt, x)) ∧ (s.get F.SNP_SRC_WR pkgTile 0 = 1) ∧ (s.pkg.snapT = none) ∧ (allArmed s)) ∧
    (∃ (s : State) (late : List ℕ) (T : ℕ) (k : ℕ), (s.pkg.snapT = some T) ∧ (s.wf = true) ∧ (k < 64) ∧ (s.inService k = true) ∧ (s.isGated k = false)) ∧
    (∃ (s : State) (q : Requester) (k : ℕ) (kt : ℕ) (x : ℕ) (v : Bool), (s.lands q k .SNP_CTL 0 true = some (kt, x))) :=
  ⟨⟨armed, by unfold allArmed; decide +kernel⟩,
   ⟨put armed [(F.SNP_CTL_ARM, 63, 0, 0)], 63, by decide +kernel⟩,
   ⟨armed, .pm, 64, 0, by unfold allArmed; decide +kernel⟩,
   ⟨putP armed fun p => { p with snapT := some 2000 }, [7], 2000, 7, by decide +kernel⟩,
   ⟨armed, .pm, 4, 4, 0, true, by decide +kernel⟩⟩

/-- Concrete states and operands that meet the hypotheses of `DigestRingAndDebugWindow`, clause by clause. -/
theorem witness_DigestRingAndDebugWindow :
    (∃ (s : State) (q : Requester) (k : ℕ) (kt : ℕ) (ix : ℕ) (v : ℕ), (s.lands q k .SNP_DGCFG 0 true = some (kt, ix)) ∧ (BitVec.ofNat 32 v ≠ s.reg .SNP_DGCFG kt ix) ∧ (bitOf v 0 = true) ∧ (s.digestRingOk (kt * 256 + ix) (bitsOf v 31 16) = true) ∧ (s.isLive (kt * 256 + ix) = false)) ∧
    (∃ (s : State) (q : Requester) (k : ℕ) (kt : ℕ) (ix : ℕ) (v : ℕ), (s.lands q k .SNP_DGCFG 0 true = some (kt, ix)) ∧ (BitVec.ofNat 32 v ≠ s.reg .SNP_DGCFG kt ix) ∧ (bitOf v 0 = true) ∧ (s.digestRingOk (kt * 256 + ix) (bitsOf v 31 16) = false)) ∧
    (∃ (s : State) (q : Requester) (k : ℕ) (kt : ℕ) (x : ℕ) (v : ℕ), (s.lands q k .SNP_DBGDATA 0 true = some (kt, x))) ∧
    (∃ (s : State) (k : ℕ), (s.inService k = true) ∧ (s.haspScope 0 = true)) ∧
    (∃ (s : State) (q : Requester) (k : ℕ) (kt : ℕ) (x : ℕ), (s.lands q k .SNP_DBGDATA 0 false = some (kt, x))) :=
  ⟨⟨put inst0 [(F.SNP_DGBASE_LO_BASE_LO, 4, 0, 0x10000), (F.SNP_DGBASE_HI_BASE_HI, 4, 0, 0x60)], .pm, 4, 4, 0, 0x10001, by decide +kernel⟩,
   ⟨inst0, .pm, 4, 4, 0, 1, by decide +kernel⟩,
   ⟨hasp 1, .pm, 4, 4, 0, 7, by decide +kernel⟩,
   ⟨hasp 1, 4, by decide +kernel⟩,
   ⟨hasp 1, .pm, 4, 4, 0, by decide +kernel⟩⟩

/-- Concrete states and operands that meet the hypotheses of `HaspOpensAndCloses`, clause by clause. -/
theorem witness_HaspOpensAndCloses :
    (∃ (s : State) (q : Requester) (kt : ℕ) (x : ℕ), (s.lands q s.bootTile .HSP_CMD 0 true = some (kt, x))) ∧
    (∃ (s : State) (q : Requester) (kt : ℕ) (x : ℕ), (s.lands q s.bootTile .HSP_CMD 0 true = some (kt, x)) ∧ (s.lockedOut = false) ∧ (s.responseOk = true)) ∧
    (∃ (s : State) (q : Requester) (kt : ℕ) (x : ℕ), (s.lands q s.bootTile .HSP_CMD 0 true = some (kt, x)) ∧ (s.lockedOut = false) ∧ (s.responseOk = false)) ∧
    (∃ (s : State) (q : Requester) (kt : ℕ) (x : ℕ), (s.lands q s.bootTile .HSP_CMD 0 true = some (kt, x)) ∧ (s.lockedOut = true)) ∧
    (∃ (s : State) (q : Requester) (kt : ℕ) (x : ℕ), (s.lands q s.bootTile .HSP_CMD 0 true = some (kt, x)) ∧ (s.lockedOut = false) ∧ (s.passwordOk = true)) ∧
    (∃ (s : State) (q : Requester) (kt : ℕ) (x : ℕ) (pw : List Byte), (s.lands q s.bootTile .HSP_CMD 0 true = some (kt, x)) ∧ (s.haspScope scopePwset = true) ∧ (s.password = some pw) ∧ (pwSlots s.fuses.pw < 4)) ∧
    (∃ (s : State) (q : Requester) (kt : ℕ) (x : ℕ), (s.lands q s.bootTile .HSP_CMD 0 true = some (kt, x))) ∧
    (∃ (s : State), (s.get F.HSP_STAT_OPEN pkgTile 0 = 1)) ∧
    (∃ (s : State) (q : Requester) (kt : ℕ) (x : ℕ) (arg : ℕ), (s.lands q s.bootTile .HSP_ACT 0 true = some (kt, x)) ∧ (s.haspScope scopeAct = true) ∧ (s.instState (arg % 64) = instActive)) ∧
    (∃ (s : State) (q : Requester) (kt : ℕ) (x : ℕ) (arg : ℕ), (s.lands q s.bootTile .HSP_ACT 0 true = some (kt, x)) ∧ (s.haspScope scopeDefect = true) ∧ (arg % 1024 < s.get F.MGT_DLCNT_COUNT pkgTile 0) ∧ (arg % 1024 < s.pkg.perm.defects.length)) :=
  ⟨⟨hasp 0, .pm, 64, 0, by decide +kernel⟩,
   ⟨hasp 0, .pm, 64, 0, by decide +kernel⟩,
   ⟨put (hasp 0) [(F.HSP_REQ_SCOPE, 64, 0, 2), (F.HSP_STAT_FAILS, 64, 0, 3)], .pm, 64, 0, by decide +kernel⟩,
   ⟨put (hasp 0) [(F.HSP_STAT_LOCKOUT, 64, 0, 1)], .pm, 64, 0, by decide +kernel⟩,
   ⟨hasp 0, .pm, 64, 0, by decide +kernel⟩,
   ⟨hasp 1, .pm, 64, 0, zs 16, by decide +kernel⟩,
   ⟨hasp 1, .pm, 64, 0, by decide +kernel⟩,
   ⟨hasp 1, by decide +kernel⟩,
   ⟨hasp 1, .pm, 64, 0, 0, by decide +kernel⟩,
   ⟨put (hasp 1) [(F.MGT_DLCNT_COUNT, 64, 0, 2)], .pm, 64, 0, 1, by decide +kernel⟩⟩

/-- Concrete states and operands that meet the hypotheses of `RegisterWordsAreWrittenFieldByField`, clause by clause. -/
theorem witness_RegisterWordsAreWrittenFieldByField :
    (∃ (s : State) (q : Requester) (a : ℕ) (v : ℕ) (k : ℕ) (o : ℕ) (r : Reg) (e : ℕ) (kt : ℕ) (ix : ℕ), (regAddr a = some (k, o)) ∧ (regAt k o = some (r, e)) ∧ (plain r) ∧ (r ≠ .SNP_CNT) ∧ (s.lands q k r e true = some (kt, ix)) ∧ ((r = .ECE_LSCW1 → s.get F.ECE_LSCW0_PROFILE kt ix ≠ 2)) ∧ ((s.judge r kt ix (BitVec.ofNat 32 (v % 2 ^ 32))).2 = [] ∨ (r ≠ r.place.blk.errReg.1 ∧ r ≠ r.place.blk.errReg.2))) ∧
    (∃ (s : State) (q : Requester) (a : ℕ) (be : ℕ) (v : ℕ) (k : ℕ) (o : ℕ) (r : Reg) (e : ℕ) (kt : ℕ) (ix : ℕ), (regAddr a = some (k, o)) ∧ (regAt k o = some (r, e)) ∧ (s.lands q k r e true = some (kt, ix)) ∧ (be % 16 ≠ 15)) ∧
    (∃ (s : State) (q : Requester) (a : ℕ) (be : ℕ) (v : ℕ), (regAddr a = none)) :=
  ⟨⟨run9, .pm, 0x8004380000, 0x1FFFFFFFE, 4, 0x380000, .BAL_CTL, 0, 4, 0, by exact ⟨by decide +kernel, by decide +kernel, fun _ _ _ _ => rfl, by decide, by decide +kernel, by decide, by decide +kernel⟩⟩,
   ⟨run9, .pm, 0x8004380000, 0x13, 2, 4, 0x380000, .BAL_CTL, 0, 4, 0, by decide⟩,
   ⟨run9, .pm, 0x7FFFFFFFFF, 15, 2, by decide +kernel⟩⟩

/-- Concrete states and operands that meet the hypotheses of `RegisterReadsAnswerAndLatch`, clause by clause. -/
theorem witness_RegisterReadsAnswerAndLatch :
    (∃ (s : State) (q : Requester) (a : ℕ) (k : ℕ) (o : ℕ) (r : Reg) (e : ℕ) (kt : ℕ) (ix : ℕ), (regAddr a = some (k, o)) ∧ (regAt k o = some (r, e)) ∧ (r ≠ .SNP_DBGDATA) ∧ (r ≠ .SNP_CNT) ∧ (s.lands q k r e false = some (kt, ix)) ∧ (s.viewed k r = false) ∧ (mapGet RegKey.code none s.latch ⟨r, kt, q.copy * 64 + e⟩ = none) ∧ ((∀ h, hiOf r = some h → s.viewed k h = false))) ∧
    (∃ (s : State) (q : Requester) (a : ℕ) (k : ℕ) (o : ℕ) (r : Reg) (e : ℕ) (kt : ℕ) (ix : ℕ) (h : Reg), (regAddr a = some (k, o)) ∧ (regAt k o = some (r, e)) ∧ (hiOf r = some h) ∧ (s.viewed k r = false) ∧ (s.viewed k h = false) ∧ (s.lands q k r e false = some (kt, ix)) ∧ (mapGet RegKey.code none s.latch ⟨r, kt, q.copy * 64 + e⟩ = none)) ∧
    (∃ (s : State) (q : Requester) (a : ℕ) (k : ℕ) (o : ℕ) (r : Reg) (e : ℕ) (kt : ℕ) (ix : ℕ) (w : Word), (regAddr a = some (k, o)) ∧ (regAt k o = some (r, e)) ∧ (r ≠ .SNP_DBGDATA) ∧ (s.lands q k r e false = some (kt, ix)) ∧ (mapGet RegKey.code none s.latch ⟨r, kt, q.copy * 64 + e⟩ = some w)) ∧
    (∃ (s : State) (q : Requester) (a : ℕ) (v : ℕ) (k : ℕ) (o : ℕ) (r : Reg) (e : ℕ) (kt : ℕ) (ix : ℕ), (regAddr a = some (k, o)) ∧ (regAt k o = some (r, e)) ∧ (hasShadow r = true) ∧ (settingsReg r = true) ∧ (plain r) ∧ (s.lands q k r e true = some (kt, ix)) ∧ (s.isLive (kt * 256 + ix) = true) ∧ ((s.judge r kt ix (BitVec.ofNat 32 (v % 2 ^ 32))).1 ≠ s.reg r kt ix)) :=
  ⟨⟨put run9 [(F.BAL_ERRCNT_COUNT, 4, 0, 7)], .pm, 0x8004380008, 4, 0x380008, .BAL_ERRCNT, 0, 4, 0, by exact ⟨by decide +kernel, by decide +kernel, by decide, by decide, by decide +kernel, by decide +kernel, by decide +kernel, fun h e => by simp [hiOf] at e⟩⟩,
   ⟨put run9 [(F.SNP_LAST_HI_T, 4, 0, 7)], .pm, 0x800470000C, 4, 0x70000C, .SNP_LAST_LO, 0, 4, 0, .SNP_LAST_HI, by decide +kernel⟩,
   ⟨{ run9 with latch := [(⟨.SNP_LAST_HI, 4, 0⟩, some 5)] }, .pm, 0x8004700010, 4, 0x700010, .SNP_LAST_HI, 0, 4, 0, 5, by decide +kernel⟩,
   ⟨sce 0 {} {}, .pm, 0x800429004C, 0x00200040, 4, 0x29004C, .SCE_SW3, 0, 4, 0, by exact ⟨by decide +kernel, by decide +kernel, by decide, by decide, fun _ _ _ _ => rfl, by decide +kernel, by decide +kernel, by decide +kernel⟩⟩⟩

/-- Concrete states and operands that meet the hypotheses of `HostAccessesReachMemoryAndRegisters`, clause by clause. -/
theorem witness_HostAccessesReachMemoryAndRegisters :
    (∃ (s : State) (off : ℕ) (n : ℕ), (s.get F.LNK_PCISTAT_DLUP pcieTile 0 = 1) ∧ (s.stage = 9) ∧ (let a := s.base40 F.LNK_APER_LO_BASE_LO F.LNK_APER_HI_BASE_HI pcieTile fnPm + off; (s.isDevice a n = true))) ∧
    (∃ (s : State) (off : ℕ) (data : List Byte) (pz : Bool), (s.get F.LNK_PCISTAT_DLUP pcieTile 0 = 1) ∧ (s.stage = 9) ∧ (let a := s.base40 F.LNK_APER_LO_BASE_LO F.LNK_APER_HI_BASE_HI pcieTile fnPm + off; (s.isDevice a data.length = true))) ∧
    (∃ (s : State) (w : ℕ), (s.get F.LNK_PCISTAT_DLUP pcieTile 0 = 1) ∧ (s.stage = 9)) ∧
    (∃ (s : State) (f : ℕ) (bar : ℕ) (off : ℕ) (n : ℕ), (s.get F.LNK_PCISTAT_DLUP pcieTile 0 = 1) ∧ (s.stage = 9) ∧ (f ≠ 0) ∧ (s.get F.LNK_PCISTAT_NUMVF pcieTile 0 < f)) :=
  ⟨⟨net, 0x1234, 4, by decide +kernel⟩,
   ⟨net, 0x1234, [1, 2], true, by decide +kernel⟩,
   ⟨net, 0x1000000, by decide +kernel⟩,
   ⟨net, 1, 4, 0, 4, by decide +kernel⟩⟩

/-- Concrete states and operands that meet the hypotheses of `StepRunsTheFrontCommand`, clause by clause. -/
theorem witness_StepRunsTheFrontCommand :
    (∃ (s : State) (c : Instr) (l : List Instr), (s.pending = c :: l)) :=
  ⟨run9.withPending [.hotminTick], .hotminTick, [], by decide +kernel⟩

/-- Concrete states and operands that meet the hypotheses of `EmptyQueueLetsTimePass`, clause by clause. -/
theorem witness_EmptyQueueLetsTimePass :
    (∃ (s : State), (s.pending = []) ∧ (s.pkg.aonSt.pgAon = false)) ∧
    (∃ (s : State), (s.pending = []) ∧ (s.pkg.aonSt.pgAon = true)) :=
  ⟨⟨State.reset, by decide +kernel⟩,
   ⟨run9, by decide +kernel⟩⟩

/-- Concrete states and operands that meet the hypotheses of `ResetLeavesTheTablesValues`, clause by clause. -/
theorem witness_ResetLeavesTheTablesValues :
    (∃ (r : Reg) (k : Nat) (ix : Nat) (f : FSpec), (f ∈ r.fields)) :=
  ⟨.BAL_CTL, 7, 0, ⟨"YCMPEN", 1, 1, .rw, 1, .sw⟩, by decide +kernel⟩

/-- Concrete states and operands that meet the hypotheses of `EscalationEventsAreRecordedAndChangeNothing`, clause by clause. -/
theorem witness_EscalationEventsAreRecordedAndChangeNothing :
    (∃ (s : State) (src : ℕ) (k : ℕ) (n : Nat), (src < 8) ∧ (k < 64) ∧ (n < 64)) ∧
    (∃ (s : State) (n : Nat), (n < 64) ∧ (s.instState n ≠ instFree) ∧ (s.instState n ≠ instActive) ∧ (s.get F.PRT_IFLIGHT_COUNT pkgTile n ≠ 0)) ∧
    (∃ (s : State) (k : ℕ) (b : Engine), (k < 64) ∧ (s.get (ctlState b) k 0 = fnDisabling)) ∧
    (∃ (s : State), (s.quiescing = true) ∧ (s.pkg.yard.reached = false)) ∧
    (∃ (s : State) (k : ℕ) (port : ℕ) (u : ℕ) (e : ℕ × ℕ), (k < 64) ∧ (neighbour k port = some u) ∧ (edgeOf k port = some e) ∧ (s.portEdgeUp k port = true)) :=
  ⟨⟨inst0, 2, 63, 63, by decide +kernel⟩,
   ⟨put inst0 [(F.PRT_ISTAT_STATE, 64, 0, 2), (F.PRT_IFLIGHT_COUNT, 64, 0, 1)], 0, by decide +kernel⟩,
   ⟨put inst0 [(F.ARR_CTL_STATE, 4, 0, fnDisabling)], 4, .arr, by decide +kernel⟩,
   ⟨put yard [(F.YRD_QCTL_BUSY, 64, 0, 1)], by decide +kernel⟩,
   ⟨yard, 63, 1, 55, (55, 0), by decide +kernel⟩⟩

/-- Concrete states and operands that meet the hypotheses of `PayloadsNeverOverflow`, clause by clause. -/
theorem witness_PayloadsNeverOverflow :
    (∃ (tabs : List CdfTable) (l : List EcSym), ((∀ t ∈ tabs, tableOk t)) ∧ ((∀ x ∈ l, symOk tabs x))) ∧
    (∃ (tabs : List CdfTable) (x : EcSym), ((∀ t ∈ tabs, tableOk t)) ∧ (symOk tabs x)) :=
  ⟨⟨[⟨0, [0, 1], []⟩, ⟨-254, (List.range 256).map (255 * ·), []⟩], [⟨32767, -32768, 0⟩, ⟨-32768, 255, 1⟩], by unfold tableOk symOk; decide +kernel⟩,
   ⟨[⟨0, [0, 1], []⟩], ⟨32767, -32768, 0⟩, by unfold tableOk symOk; decide +kernel⟩⟩

/-- Concrete states and operands that meet the hypotheses of `EveryPayloadDecodesToItsSymbols`, clause by clause. -/
theorem witness_EveryPayloadDecodesToItsSymbols :
    (∃ (tabs : List CdfTable) (l : List EcSym), ((∀ t ∈ tabs, tableOk t)) ∧ ((∀ x ∈ l, symOk tabs x))) :=
  ⟨[⟨0, [0, 1], []⟩, ⟨-254, (List.range 256).map (255 * ·), []⟩], [⟨32767, -32768, 0⟩, ⟨-32768, 255, 1⟩], by unfold tableOk symOk; decide +kernel⟩

/-- Concrete states and operands that meet the hypotheses of `OneStatusIsReported`, clause by clause. -/
theorem witness_OneStatusIsReported :
    (∃ (l : List ℕ), (l ≠ []) ∧ ((∀ x ∈ l, x ∈ byRank))) :=
  ⟨[0x0202, 0x0401, 0x0001], by decide +kernel⟩

/-- Concrete states and operands that meet the hypotheses of `EngineAndLinkCommandsComplete`, clause by clause. -/
theorem witness_EngineAndLinkCommandsComplete :
    (∃ (s : State) (q : Requester) (k : ℕ) (b : Engine) (kt : ℕ) (x : ℕ), (s.lands q k (ctlReg b) 0 true = some (kt, x)) ∧ (s.engineResets b kt = false) ∧ (s.get (ctlState b) kt 0 = fnOff) ∧ (s.canEnable b kt = true)) ∧
    (∃ (s : State) (k : ℕ) (b : Engine), (s.tileRuns k = true) ∧ (s.get (ctlState b) k 0 = fnEnabling) ∧ (s.get (ctlPend b) k 0 = 0)) ∧
    (∃ (s : State) (q : Requester) (k : ℕ) (kt : ℕ) (x : ℕ) (engines : ℕ), (s.lands q k .PRT_ERST 0 true = some (kt, x))) ∧
    (∃ (s : State) (k : ℕ) (b : Engine) (j : ℕ), (erstBit b = some j) ∧ (bitOf (s.get F.PRT_ERST_ENG k 0) j = true)) ∧
    (∃ (s : State) (p : ℕ), (s.portInService p = true) ∧ (s.isOn .lnk (s.portTile p) = true)) ∧
    (∃ (s : State) (p : ℕ), (s.portInService p = true)) ∧
    (∃ (s : State) (p : ℕ) (v : ℕ), (s.portUp p = true) ∧ ((s.iface p v).isSome = true)) ∧
    (∃ (s : State), (s.ptpRole = ptpSlave)) ∧
    (∃ (s : State), (s.portUp s.ptpPort = true) ∧ (s.ptpRole = ptpMaster ∨ s.ptpRole = ptpSlave)) ∧
    (∃ (s : State) (g : ℕ) (w : ℕ) (v : ℕ), (s.inService pcieTile = true)) ∧
    (∃ (s : State) (k : ℕ), (1 ≤ k) ∧ (k ≤ 64) ∧ (s.instState (instOfVf k) = instFree)) ∧
    (∃ (s : State) (k : ℕ) (tag : ℕ) (x : Xfer) (data : List Byte) (pz : Bool), (s.hostRead k tag = some x) ∧ (data.length = x.len) ∧ (x.q < ringQueue 0) ∧ (x.fetch = false) ∧ (x.write = false) ∧ (s.stale x.inst x.epoch = false)) ∧
    (∃ (s : State) (k : ℕ) (tag : ℕ) (x : Xfer), (s.hostRead k tag = some x) ∧ (x.q < ringQueue 0) ∧ (x.fetch = false) ∧ (x.write = false) ∧ (s.stale x.inst x.epoch = false)) :=
  ⟨⟨inst0, .pm, 4, .arr, 4, 0, by decide +kernel⟩,
   ⟨put inst0 [(F.FXG_CTL_STATE, 4, 0, fnEnabling)], 4, .fxg, by decide +kernel⟩,
   ⟨inst0, .pm, 4, 4, 0, 1, by decide +kernel⟩,
   ⟨put inst0 [(F.PRT_ERST_ENG, 4, 0, 0x7F)], 4, .fxg, 6, by decide +kernel⟩,
   ⟨put net [(F.LNK_LANESTAT_UP, 8, 0, 0)], 0, by decide +kernel⟩,
   ⟨net, 0, by decide +kernel⟩,
   ⟨putP net fun p => { p with ifaces := [{ port := 0, vlan := 7 }] }, 0, 7, by decide +kernel⟩,
   ⟨net, by decide +kernel⟩,
   ⟨net, by decide +kernel⟩,
   ⟨net, 1, 2, 3, by decide +kernel⟩,
   ⟨net, 64, by decide +kernel⟩,
   ⟨putT net 4 { xfers := [hx], items := [hi1] }, 4, 9, hx, [1, 2, 3, 4], true, by decide +kernel⟩,
   ⟨putT net 4 { xfers := [hx], items := [hi1] }, 4, 9, hx, by decide +kernel⟩⟩

/-- Concrete states and operands that meet the hypotheses of `TimerMemoryAndSnapshotCommandsComplete`, clause by clause. -/
theorem witness_TimerMemoryAndSnapshotCommandsComplete :
    (∃ (s : State) (id : ℕ), ((s.stream id).ing.units ≠ [])) ∧
    (∃ (s : State) (id : ℕ), (s.isOpen id = true) ∧ ((s.stream id).ing.flow = 1) ∧ (s.sget F.ING_SW0_IKIND id = 0) ∧ (s.portUp (s.sget F.ING_SW0_PORT id) = true)) ∧
    (∃ (s : State) (e : ℕ) (p : ℕ) (l : ℕ) (x : MvTx), ((link s e p).unacked.find? (·.lseq == l) = some x) ∧ (x.tries < 8) ∧ (p < (s.peer e).links.length)) ∧
    (∃ (s : State) (e : ℕ) (p : ℕ), ((link s e p).unacked.any (·.tries != 0) = true) ∧ (p < (s.peer e).links.length) ∧ ((s.peer e).kind ≠ 0)) ∧
    (∃ (s : State) (e : ℕ) (p : ℕ), ((s.peer e).kind ≠ 0) ∧ (p < (s.peer e).paths.length) ∧ (p < (s.peer e).links.length) ∧ ((link s e p).up = false) ∧ (s.portUp ((s.peer e).paths.getD p {}).port = true)) ∧
    (∃ (s : State) (e : ℕ) (i : ℕ) (m : MvMsg), ((s.peer e).msgs.find? (·.id == i) = some m) ∧ ((link s e m.path).unacked.any (·.tries != 0) = false) ∧ (m.ctx = .plain) ∧ (s.stale m.inst m.epoch = false)) ∧
    (∃ (s : State), (s.get F.LNK_MVCFG_EN pkgTile 0 = 1) ∧ (s.isMaster = false) ∧ ((s.peer s.pkg.masterDev).kind ≠ 0) ∧ (s.pathUp s.pkg.masterDev [] = none)) ∧
    (∃ (s : State) (k : ℕ) (i : Item) (e : Egress), (nextEgress s k = some (i, e)) ∧ (s.sget F.LNK_SW0_EGKIND i.stream ≠ 0) ∧ (s.portUp (s.sget F.LNK_SW0_PORT i.stream) = true) ∧ ((s.peer (s.sget F.LNK_SW0_PEER i.stream)).kind ≠ 0)) ∧
    (∃ (s : State), (s.get F.SNP_SRC_PIN pkgTile 0 = 1) ∧ (s.pkg.snapT = none) ∧ (allArmed s)) ∧
    (∃ (s : State) (q : Requester) (kt : ℕ) (x : ℕ), (s.lands q s.bootTile .SNP_TRIG 0 true = some (kt, x)) ∧ (s.get F.SNP_SRC_WR pkgTile 0 = 1) ∧ (s.pkg.snapT = none) ∧ (allArmed s)) ∧
    (∃ (s : State) (late : List ℕ) (T : ℕ) (k : ℕ), (s.pkg.snapT = some T) ∧ (k < 64) ∧ (s.inService k = true)) ∧
    (∃ (s : State) (q : Requester) (k : ℕ) (kt : ℕ) (x : ℕ) (v : Bool), (s.lands q k .SNP_CTL 0 true = some (kt, x))) ∧
    (∃ (s : State) (q : Requester) (k : ℕ) (kt : ℕ) (ix : ℕ) (v : ℕ), (s.lands q k .SNP_DGCFG 0 true = some (kt, ix)) ∧ (BitVec.ofNat 32 v ≠ s.reg .SNP_DGCFG kt ix) ∧ (bitOf v 0 = true) ∧ (s.digestRingOk (kt * 256 + ix) (bitsOf v 31 16) = true) ∧ (s.isLive (kt * 256 + ix) = false)) ∧
    (∃ (s : State) (k : ℕ), (s.inService k = true) ∧ (s.haspScope 0 = true)) ∧
    (∃ (s : State) (q : Requester) (k : ℕ) (kt : ℕ) (x : ℕ), (s.lands q k .SNP_DBGDATA 0 false = some (kt, x))) ∧
    (∃ (s : State) (q : Requester) (own : Option (ℕ × ℕ)) (a : ℕ) (data : List Byte) (pz : Bool), (isHbm a = true) ∧ (s.isDevice a data.length = true) ∧ (s.epochOk own = true)) ∧
    (∃ (s : State) (q : Requester) (own : Option (ℕ × ℕ)) (a : ℕ) (n : ℕ), (isHbm a = true) ∧ (s.isDevice a n = true) ∧ (s.epochOk own = true)) ∧
    (∃ (s : State) (k : ℕ) (a : ℕ) (l : WcLine), (s.ownerGone k = none) ∧ (isHbm a = true) ∧ (s.isDevice a 1 = true) ∧ ((s.tile (s.wcTile a)).wc.find? (·.line == a / 256) = some l) ∧ (l.filling = false)) ∧
    (∃ (s : State) (a : ℕ) (l : WcLine), ((s.tile (s.wcTile a)).wc.find? (fun l => l.line == a / 256 && l.filling) = some l)) ∧
    (∃ (s : State) (q : Requester) (k : ℕ) (kt : ℕ) (x : ℕ), (s.lands q k .MEM_WCCTL 0 true = some (kt, x))) ∧
    (∃ (s : State) (k : ℕ) (p : ℕ), (s.portEdgeUp k p = true)) ∧
    (∃ (s : State) (q : Requester) (kt : ℕ) (x : ℕ), (s.lands q s.bootTile .YRD_QCTL 0 true = some (kt, x)) ∧ (s.quiescing = false)) ∧
    (∃ (s : State), (s.quiescing = true) ∧ (s.pkg.yard.reached = false)) ∧
    (∃ (s : State) (bad : List (ℕ × ℕ)), (s.quiescing = true) ∧ (s.pkg.yard.reached = true)) ∧
    (∃ (s : State) (k : ℕ), (s.get F.PRT_TRST_BUSY k 0 = 1)) :=
  ⟨⟨putS net 1024 { stages := 5, ing := { flow := 1, units := [{ key := 1, ptime := 2 }] } }, 1024, by decide +kernel⟩,
   ⟨putS net 1024 { stages := 5, ing := { flow := 1 } }, 1024, by decide +kernel⟩,
   ⟨mov { links := [{ unacked := [{ mx with tries := 7 }] }] }, 2, 0, 4, { mx with tries := 7 }, by decide +kernel⟩,
   ⟨mov { links := [{ unacked := [{ mx with tries := 1 }] }] }, 2, 0, by decide +kernel⟩,
   ⟨mov { links := [{ up := false }] }, 2, 0, by decide +kernel⟩,
   ⟨mov { links := [{}], msgs := [mm] }, 2, 7, mm, by decide +kernel⟩,
   ⟨putP (mov { links := [{ up := false }] }) fun p => { p with masterDev := 2 }, by decide +kernel⟩,
   ⟨egr 1 (zs 30) { links := [{}] }, 4, li, eg (zs 30), by decide +kernel⟩,
   ⟨armed, by unfold allArmed; decide +kernel⟩,
   ⟨armed, .pm, 64, 0, by unfold allArmed; decide +kernel⟩,
   ⟨putP armed fun p => { p with snapT := some 2000 }, [7], 2000, 63, by decide +kernel⟩,
   ⟨armed, .pm, 4, 4, 0, true, by decide +kernel⟩,
   ⟨put inst0 [(F.SNP_DGBASE_LO_BASE_LO, 4, 0, 0x10000), (F.SNP_DGBASE_HI_BASE_HI, 4, 0, 0x60)], .pm, 4, 4, 0, 0x10001, by decide +kernel⟩,
   ⟨hasp 1, 4, by decide +kernel⟩,
   ⟨hasp 1, .pm, 4, 4, 0, by decide +kernel⟩,
   ⟨hbm, .pm, none, 0x1234500, [1, 2, 3], true, by decide +kernel⟩,
   ⟨hbm, .pm, none, 0x1234500, 4, by decide +kernel⟩,
   ⟨cached { line := 0x12345 }, 5, 0x1234500, { line := 0x12345 }, by decide +kernel⟩,
   ⟨cached { line := 0x12345, filling := true, waiters := [9] }, 0x1234500, { line := 0x12345, filling := true, waiters := [9] }, by decide +kernel⟩,
   ⟨cached { line := 0x12345, filling := true, waiters := [9] }, .pm, 17, 17, 0, by decide +kernel⟩,
   ⟨yard, 9, 3, by decide +kernel⟩,
   ⟨yard, .pm, 64, 0, by decide +kernel⟩,
   ⟨put yard [(F.YRD_QCTL_BUSY, 64, 0, 1)], by decide +kernel⟩,
   ⟨putP (put yard [(F.YRD_QCTL_BUSY, 64, 0, 1)]) fun p => { p with yard := { p.yard with reached := true } }, [(8, 2)], by decide +kernel⟩,
   ⟨put yard [(F.PRT_TRST_BUSY, 9, 0, 1)], 9, by decide +kernel⟩⟩

/-- The hypotheses of the third clause of `ControlRequestsExecute`: the container is opaque, so the witness is a binary that names no
section, mapping, overlay or head, and needs no host. -/
theorem witness_ControlRequestsExecute_load (h1 : ∀ b, Config.utgBridle b = none) (h2 : ∀ b, Config.utgMapping b = [])
    (h3 : ∀ b, Config.utgOverlays b = []) (h4 : ∀ b, Config.utgGraph b = []) (h5 : ∀ b, Config.utgHead b = none)
    (h6 : ∀ b, Config.utgNeedsHost b = false) :
    ∃ s o h p g, passes s o opLoadprog h p ∧ s.loadRequest h.inst p = .ok g := by
  have e : (strm 32).blockList (hdr 3 1 0 1 (toLe 8 ws4 ++ toLe 8 7)).inst (leAt (toLe 8 ws4 ++ toLe 8 7) 0 8) =
      .ok [⟨ws4 + 0x10000, 0x10000, false⟩] := by decide +kernel
  have e2 : (strm 32).bufPoisoned [⟨ws4 + 0x10000, 0x10000, false⟩] 0 (blocksLen [⟨ws4 + 0x10000, 0x10000, false⟩]) = false := by
    decide +kernel
  have e4 : ((toLe 8 ws4 ++ toLe 8 7).drop 10).any (· != 0) = false ∧ leAt (toLe 8 ws4 ++ toLe 8 7) 0 8 < 2 ^ 40 ∧
      ((strm 32).prog (hdr 3 1 0 1 (toLe 8 ws4 ++ toLe 8 7)).inst (leAt (toLe 8 ws4 ++ toLe 8 7) 8 2)).isSome = false := by decide +kernel
  have e3 : ∃ g, (strm 32).loadRequest (hdr 3 1 0 1 (toLe 8 ws4 ++ toLe 8 7)).inst (toLe 8 ws4 ++ toLe 8 7) = .ok g := by
    unfold State.loadRequest
    rw [e]
    simp only [e2, e4.1, e4.2.2, Nat.not_le.2 e4.2.1, State.loadBinary, h1, h2, h3, h4, h5, h6]
    exact ⟨_, rfl⟩
  obtain ⟨g, hg⟩ := e3
  exact ⟨strm 32, .image, hdr 3 1 0 1 (toLe 8 ws4 ++ toLe 8 7), toLe 8 ws4 ++ toLe 8 7, g, by unfold passes; decide +kernel, hg⟩

/-- A request in each case of `RefusedRequestsExecuteNothing`: poisoned, with a reserved bit, of an old epoch, behind the window, and a
duplicate with another digest and with its own. -/
theorem witness_RefusedRequestsExecuteNothing_cases :
    (∃ (s : State) (k r : Nat) (h : ReqHdr), s.stage = 9 ∧ s.cqRoom k r = false ∧ h.poison = true) ∧
    (∃ (s : State) (k r : Nat) (h : ReqHdr), s.stage = 9 ∧ s.cqRoom k r = false ∧ h.poison = false ∧ s.reqHeaderOk (.ring k r) h = false) ∧
    (∃ (s : State) (k r : Nat) (h : ReqHdr) (p : List Byte), s.stage = 9 ∧ s.cqRoom k r = false ∧ h.poison = false ∧
      s.reqHeaderOk (.ring k r) h = true ∧ s.reqStatus opNop h p ≠ 0) ∧
    (∃ (s : State) (k r : Nat) (h : ReqHdr) (p : List Byte), s.stage = 9 ∧ s.cqRoom k r = false ∧ h.poison = false ∧
      s.reqHeaderOk (.ring k r) h = true ∧ s.reqStatus opNop h p = 0 ∧ (s.window h.inst (isCtl h) h.stream).judge h.seq = .stale) ∧
    (∃ (s : State) (k r : Nat) (h : ReqHdr) (p : List Byte) (d : WinEntry), s.stage = 9 ∧ s.cqRoom k r = false ∧ h.poison = false ∧
      s.reqHeaderOk (.ring k r) h = true ∧ s.reqStatus opNop h p = 0 ∧
      (s.window h.inst (isCtl h) h.stream).judge h.seq = .dup d ∧ d.digest ≠ h.digest) ∧
    (∃ (s : State) (k r : Nat) (h : ReqHdr) (p : List Byte) (d : WinEntry) (c : Cpl), s.stage = 9 ∧ s.cqRoom k r = false ∧
      h.poison = false ∧ s.reqHeaderOk (.ring k r) h = true ∧ s.reqStatus opNop h p = 0 ∧
      (s.window h.inst (isCtl h) h.stream).judge h.seq = .dup d ∧ d.digest = h.digest ∧ d.done = some c) :=
  ⟨⟨inst0, 4, 0, { hdr 5 1 0 1 [] with poison := true }, by decide +kernel⟩,
   ⟨inst0, 4, 0, { hdr 5 1 0 1 [] with rsvd := true }, by decide +kernel⟩,
   ⟨inst0, 4, 0, { hdr 5 1 0 1 [] with epoch := 1 }, [], by decide +kernel⟩,
   ⟨putI inst0 0 { ctl := { high := some 65 } }, 4, 0, hdr 5 1 0 1 [], [], by decide +kernel⟩,
   ⟨putI inst0 0 { ctl := { high := some 64, entries := [⟨1, 7, none, []⟩] } }, 4, 0, hdr 5 1 0 1 [], [], ⟨1, 7, none, []⟩, by decide +kernel⟩,
   ⟨putI inst0 0 { ctl := { high := some 64, entries := [⟨1, (hdr 5 1 0 1 []).digest, some { status := 0x0402 }, []⟩] } }, 4, 0, hdr 5 1 0 1 [], [],
    ⟨1, (hdr 5 1 0 1 []).digest, some { status := 0x0402 }, []⟩, { status := 0x0402 }, by decide +kernel⟩⟩

/-- A state that keeps both invariants and takes a step. -/
theorem witness_EveryStepKeepsTheCanonicalForm : ∃ s t : State, s.wf = true ∧ step s = .next t :=
  ⟨State.reset, State.reset, by decide +kernel, rfl⟩
theorem witness_EveryStepKeepsReservedBitsZero : ∃ s t : State, s.wf = true ∧ s.regsClean ∧ step s = .next t := by
  refine ⟨State.reset.withPending [.snapOutEnd], State.reset.withPending [], by decide +kernel, ?_, rfl⟩
  intro r t ix
  show resetWord r &&& ~~~implMask r = 0
  cases r <;> decide

end Sys2Proof.Tests
end

section
/-! SUPPORT. Words whose fields are set one after another: what each field reads afterwards, and that no bit outside the fields is
set. -/
namespace Sys2Proof.Machine

/-! ## The fields of a register -/

/-- Two fields with no bit in common. -/
def FSpec.Apart (f g : FSpec) : Prop := f.hi < g.lo ∨ g.hi < f.lo

/-- A field of a 32-bit word whose reset value fits in it. -/
def FSpec.Fits (f : FSpec) : Prop := f.lo ≤ f.hi ∧ f.hi < 32 ∧ f.reset < 2 ^ (f.hi + 1 - f.lo)

theorem FSpec.Apart.symm {f g : FSpec} (h : f.Apart g) : g.Apart f := Or.symm h

theorem fields_fit (r : Reg) : ∀ f ∈ r.fields, f.Fits := by
  unfold FSpec.Fits
  cases r <;> decide

/-- The fields of a register overlap nowhere (R521). -/
theorem fields_apart (r : Reg) : r.fields.Pairwise FSpec.Apart := by
  unfold FSpec.Apart
  cases r <;> decide

/-! ## Setting a list of fields -/

/-- A word with each field of a list set in turn. -/
def setFields (fs : List FSpec) (v : FSpec → Nat) (w : Word) : Word := fs.foldl (fun w f => setBits w f.hi f.lo (v f)) w

theorem resetWord_eq_setFields (r : Reg) : resetWord r = setFields r.fields FSpec.reset 0 := (rfl)

/-- A bit of a mask is a bit of one of its fields. -/
theorem getLsbD_foldl_maskOf (fs : List FSpec) (w : Word) (i : Nat) :
    (fs.foldl (fun w f => w ||| maskOf f.hi f.lo) w).getLsbD i = true ↔
      w.getLsbD i = true ∨ i < 32 ∧ ∃ f ∈ fs, f.lo ≤ i ∧ i ≤ f.hi := by
  induction fs generalizing w with
  | nil => simp
  | cons f fs ih =>
    simp only [List.foldl_cons, ih, BitVec.getLsbD_or, Bool.or_eq_true, maskOf_getLsbD, Bool.and_eq_true, decide_eq_true_eq,
      List.mem_cons, exists_eq_or_imp]
    tauto

theorem implMask_getLsbD (r : Reg) (i : Nat) :
    (implMask r).getLsbD i = true ↔ i < 32 ∧ ∃ f ∈ r.fields, f.lo ≤ i ∧ i ≤ f.hi := by
  unfold implMask
  rw [getLsbD_foldl_maskOf]
  simp

/-- A bit of no field of the list stays as it was. -/
theorem getLsbD_setFields (fs : List FSpec) (v : FSpec → Nat) (w : Word) (i : Nat) (h : ∀ f ∈ fs, ¬ (f.lo ≤ i ∧ i ≤ f.hi)) :
    (setFields fs v w).getLsbD i = w.getLsbD i := by
  induction fs generalizing w with
  | nil => rfl
  | cons f fs ih =>
    calc (setFields fs v (setBits w f.hi f.lo (v f))).getLsbD i
        = (setBits w f.hi f.lo (v f)).getLsbD i := ih _ fun g hg => h g (.tail _ hg)
      _ = w.getLsbD i := by rw [setBits_getLsbD, if_neg (h f (.head _))]

/-- A field apart from every field of the list reads as before. -/
theorem getBits_setFields_apart (fs : List FSpec) (v : FSpec → Nat) (w : Word) (f : FSpec) (h : ∀ g ∈ fs, f.Apart g) :
    getBits (setFields fs v w) f.hi f.lo = getBits w f.hi f.lo := by
  induction fs generalizing w with
  | nil => rfl
  | cons g fs ih =>
    calc getBits (setFields fs v (setBits w g.hi g.lo (v g))) f.hi f.lo
        = getBits (setBits w g.hi g.lo (v g)) f.hi f.lo := ih _ fun x hx => h x (.tail _ hx)
      _ = getBits w f.hi f.lo := getBits_setBits_ne _ _ _ _ _ _ (h g (.head _)).symm

/-- Each field of a list without overlaps reads as it was set. -/
theorem getBits_setFields {fs : List FSpec} (hd : fs.Pairwise FSpec.Apart) {f : FSpec} (hf : f ∈ fs) (h32 : f.hi < 32)
    (v : FSpec → Nat) (w : Word) : getBits (setFields fs v w) f.hi f.lo = v f % 2 ^ (f.hi + 1 - f.lo) := by
  induction fs generalizing w with
  | nil => cases hf
  | cons g fs ih =>
    obtain ⟨hg, hd'⟩ := List.pairwise_cons.1 hd
    rcases List.mem_cons.1 hf with rfl | hf'
    · exact (getBits_setFields_apart fs v _ f hg).trans (getBits_setBits_self _ _ _ _ h32)
    · exact ih hd' hf' _

/-- A field of a register lies in the implemented bits. -/
theorem maskOf_sub_implMask {r : Reg} {f : FSpec} (hf : f ∈ r.fields) : maskOf f.hi f.lo &&& ~~~implMask r = 0 := by
  refine BitVec.eq_of_getLsbD_eq fun i hi => ?_
  rw [BitVec.getLsbD_and, BitVec.getLsbD_not, maskOf_getLsbD]
  by_cases hin : f.lo ≤ i ∧ i ≤ f.hi
  · rw [(implMask_getLsbD r i).2 ⟨hi, f, hf, hin⟩]
    simp
  · have : (decide (f.lo ≤ i) && decide (i ≤ f.hi)) = false := by simpa using hin
    simp [Bool.and_assoc, this]

/-! ## Reserved bits -/

theorem and_implMask_clean (r : Reg) (w : Word) : w &&& implMask r &&& ~~~implMask r = 0 := by
  rw [BitVec.and_assoc, BitVec.and_not_self]
  exact BitVec.and_zero

/-- A reset word has its reserved bits zero (R18, R532). -/
theorem resetWord_clean (r : Reg) : resetWord r &&& ~~~implMask r = 0 := by
  refine BitVec.eq_of_getLsbD_eq fun i hi => ?_
  rw [BitVec.getLsbD_and, BitVec.getLsbD_not]
  cases hm : (implMask r).getLsbD i with
  | true => simp
  | false =>
    have hno : ∀ f ∈ r.fields, ¬ (f.lo ≤ i ∧ i ≤ f.hi) := fun f hf hin =>
      absurd ((implMask_getLsbD r i).2 ⟨hi, f, hf, hin⟩) (by simp [hm])
    rw [resetWord_eq_setFields, getLsbD_setFields _ _ _ _ hno]
    simp

/-- Each field of a reset word holds the Reset column of its table (R532). -/
theorem getBits_resetWord {r : Reg} {f : FSpec} (hf : f ∈ r.fields) : getBits (resetWord r) f.hi f.lo = f.reset := by
  obtain ⟨_, h32, hlt⟩ := fields_fit r f hf
  rw [resetWord_eq_setFields, getBits_setFields (fields_apart r) hf h32, Nat.mod_eq_of_lt hlt]

end Sys2Proof.Machine
end

section
/-! What every command and every step is: a list of effects on the state. Hence runs are safe, and reserved bits stay zero. -/
namespace Sys2Proof.Machine

/-! ## Every step is a list of effects -/

/-- Each arm of the dispatch is a step with the snapshot watch at its end (R500). -/
theorem exec_eq_done (c : Instr) (s : State) : ∃ a, exec c s = done a s := by
  cases c <;> exact ⟨_, rfl⟩

theorem then_pending (s : State) (a : Act) : (s.then a).pending = s.pending :=
  run_keeps s (a s) (P := fun u => u.pending = s.pending) (fun u hu e _ => (pending_run u e).trans hu) rfl

theorem exec_next (c : Instr) (s : State) : ∃ t, exec c s = .next t ∧ t.pending = s.pending := by
  obtain ⟨a, ha⟩ := exec_eq_done c s
  exact ⟨_, ha, then_pending s _⟩

theorem withPending_self {s : State} {l : List Instr} (h : s.pending = l) : s.withPending l = s := by
  subst h; rfl

theorem step_of_pending_cons {s : State} {c : Instr} {l : List Instr} (h : s.pending = c :: l) :
    step s = exec c (s.withPending l) := by
  simp only [step, h]

theorem step_of_pending_nil {s : State} (h : s.pending = []) : step s = .next (s.then tick) := by
  simp only [step, h]

/-- What one step can do: a list of effects happens to the state with the rest of its queue. -/
theorem step_eq_then (s : State) : ∃ a, step s = .next ((s.withPending s.pending.tail).then a) := by
  cases h : s.pending with
  | nil => exact ⟨tick, by rw [step_of_pending_nil h, List.tail_nil, withPending_self h]⟩
  | cons c l =>
    obtain ⟨a, ha⟩ := exec_eq_done c (s.withPending l)
    exact ⟨_, (step_of_pending_cons h).trans ha⟩

theorem safeFor_all (n : Nat) (s : State) : safeFor n s := by
  induction n generalizing s with
  | zero => trivial
  | succ n ih =>
    obtain ⟨a, ha⟩ := step_eq_then s
    exact ⟨_, ha, ih _⟩

/-! ## The words listed in a register file -/

theorem mapGet_of_mem {K V : Type} (code : K → Nat) (d : V) {m : List (K × V)} (hs : mapSorted code m = true) {e : K × V}
    (he : e ∈ m) : mapGet code d m e.1 = e.2 := by
  rw [mapSorted_iff] at hs
  induction m with
  | nil => cases he
  | cons a m ih =>
    obtain ⟨ha, hm⟩ := List.pairwise_cons.1 hs
    rcases List.mem_cons.1 he with rfl | he'
    · simp [mapGet]
    · simp only [mapGet, if_neg (ha e he').ne, ih hm he']

theorem mapGet_eq_or_mem {K V : Type} (code : K → Nat) (d : V) (m : List (K × V)) (k : K) :
    mapGet code d m k = d ∨ ∃ e ∈ m, code e.1 = code k ∧ mapGet code d m k = e.2 := by
  induction m with
  | nil => exact .inl rfl
  | cons a m ih =>
    by_cases ha : code a.1 = code k
    · exact .inr ⟨a, .head _, ha, by simp [mapGet, ha]⟩
    · simp only [mapGet, if_neg ha]
      exact ih.imp_right fun ⟨e, he, h⟩ => ⟨e, .tail _ he, h⟩

theorem mem_mapPut {K V : Type} [DecidableEq V] (code : K → Nat) (d : V) (m : List (K × V)) (k : K) (v : V) (e : K × V)
    (h : e ∈ mapPut code d m k v) : e = (k, v) ∨ e ∈ m := by
  unfold mapPut at h
  split at h
  · exact .inr (List.mem_of_mem_filter h)
  · exact mem_mapInsert code k v m e h

/-- Every word that the register file lists has its reserved bits zero. A removal by any rule keeps this, where `regsClean` alone
would not be kept: it says nothing of an entry behind another one of the same key. -/
def State.listedClean (s : State) : Prop := ∀ e ∈ s.regs, e.2 &&& ~~~implMask e.1.reg = 0

theorem mapSorted_regs {s : State} (h : s.wf = true) : mapSorted RegKey.code s.regs = true := by
  simp only [State.wf, mapWf, Bool.and_eq_true] at h
  tauto

theorem listedClean_of_regsClean {s : State} (hwf : s.wf = true) (h : s.regsClean) : s.listedClean := by
  intro e he
  have hread : s.reg e.1.reg e.1.tile e.1.ix = e.2 := mapGet_of_mem RegKey.code _ (mapSorted_regs hwf) he
  exact hread ▸ h e.1.reg e.1.tile e.1.ix

theorem regsClean_of_listedClean {s : State} (h : s.listedClean) : s.regsClean := by
  intro r t ix
  unfold State.reg
  rcases mapGet_eq_or_mem RegKey.code (resetWord r) s.regs ⟨r, t, ix⟩ with hd | ⟨e, he, hk, hv⟩
  · rw [hd]
    exact resetWord_clean r
  · have hr : e.1.reg = r := ((RegKey.code_eq _ _).1 hk).1
    rw [hv, ← hr]
    exact h e he

theorem listedClean_setReg {s : State} (h : s.listedClean) (r : Reg) (t ix : Nat) (w : Word) : (s.setReg r t ix w).listedClean := by
  intro e he
  rcases mem_mapPut RegKey.code _ s.regs _ _ e he with rfl | he
  · exact and_implMask_clean r w
  · exact h e he

/-- Every effect keeps the reserved bits of the listed words zero: those that set a word mask it, and one that removes words lists
no new one. -/
theorem listedClean_run {s : State} (h : s.listedClean) (e : Eff) : (Eff.run s e).listedClean := by
  cases e with
  | fld f t ix v => exact listedClean_setReg h _ _ _ _
  | word r t ix w => exact listedClean_setReg h _ _ _ _
  | countU f t ix unit n => exact listedClean_setReg h f.reg t ix _
  | resetRegs p => exact fun e he => h e (List.mem_of_mem_filter he)
  | mem a bs => exact fun e he => h e (setBytes_regs s a bs ▸ he)
  | _ => exact h

theorem listedClean_then {s : State} (h : s.listedClean) (a : Act) : (s.then a).listedClean :=
  run_keeps s (a s) (fun _ hu e _ => listedClean_run hu e) h

theorem step_regsClean {s t : State} (hwf : s.wf = true) (hc : s.regsClean) (h : step s = .next t) : t.regsClean := by
  obtain ⟨a, ha⟩ := step_eq_then s
  obtain rfl : (s.withPending s.pending.tail).then a = t := Host.Outcome.next.inj (ha.symm.trans h)
  have hl : (s.withPending s.pending.tail).listedClean := listedClean_of_regsClean hwf hc
  exact regsClean_of_listedClean (listedClean_then hl a)

/-! ## The reset state -/

theorem reg_reset (r : Reg) (t ix : Nat) : State.reset.reg r t ix = resetWord r := (rfl)

theorem get_reset {r : Reg} {f : FSpec} (hf : f ∈ r.fields) (t ix : Nat) : State.reset.get ⟨r, f.hi, f.lo⟩ t ix = f.reset :=
  getBits_resetWord hf

/-! ## Obligations -/

/-- Settles O51: every effect keeps the listed words clean, and a step is a list of effects. -/
theorem everyStepKeepsReservedBitsZero : Obligations.EveryStepKeepsReservedBitsZero :=
  fun _ _ hwf hc h => step_regsClean hwf hc h

/-- Settles O49: every arm of the dispatch is a list of effects, and none of them touches the queue. -/
theorem noCommandSendsOrStopsTheRun : Obligations.NoCommandSendsOrStopsTheRun := ⟨exec_next, safeFor_all⟩

/-- Settles O47: a step with a command waiting is that command's arm of the dispatch. -/
theorem stepRunsTheFrontCommand : Obligations.StepRunsTheFrontCommand := fun _ _ _ h => step_of_pending_cons h

/-- Settles O52: nothing is listed at reset, so every register reads its reset word. -/
theorem powerUpStateKeepsTheInvariants : Obligations.PowerUpStateKeepsTheInvariants :=
  ⟨rfl, fun r t ix => reg_reset r t ix ▸ resetWord_clean r⟩

/-- Settles O53: every register reads its reset word, and every other map is empty. -/
theorem resetLeavesTheTablesValues : Obligations.ResetLeavesTheTablesValues := by
  refine ⟨fun r k ix f hf => get_reset hf k ix, fun k => ?_, rfl, rfl, fun _ => rfl, fun _ => rfl, fun _ => rfl, fun _ => ⟨rfl, rfl⟩⟩
  exact get_reset (r := .MGT_PARTID) (f := ⟨"PART", 31, 16, .ro, 0x6412, .hw⟩) (by decide) k 0

end Sys2Proof.Machine
end

section
/-! The status that an operation reports (R24): `pickStatus` takes the least rank, and the ranks rise along `byRank`. -/
namespace Sys2Proof.Machine
open Sys2Proof.Say

/-- The higher of two statuses, 0 standing for none: one round of `pickStatus`. -/
def higherStatus (a b : Nat) : Nat := if a = 0 then b else if b = 0 then a else if statusRank b < statusRank a then b else a

theorem pickStatus_eq_foldl (l : List Nat) : pickStatus l = l.foldl higherStatus 0 := (rfl)

theorem higherStatus_zero_left (b : Nat) : higherStatus 0 b = b := if_pos rfl

/-- Of two codes, one is taken, and neither outranks it. -/
theorem higherStatus_spec {a b : Nat} (ha : a ≠ 0) (hb : b ≠ 0) :
    (higherStatus a b = a ∨ higherStatus a b = b) ∧
      statusRank (higherStatus a b) ≤ statusRank a ∧ statusRank (higherStatus a b) ≤ statusRank b := by
  unfold higherStatus
  rw [if_neg ha, if_neg hb]
  split
  · exact ⟨.inr rfl, by omega, le_rfl⟩
  · exact ⟨.inl rfl, le_rfl, by omega⟩

theorem foldl_higherStatus_spec (l : List Nat) (a : Nat) (h : ∀ x ∈ a :: l, x ≠ 0) :
    l.foldl higherStatus a ∈ a :: l ∧ ∀ x ∈ a :: l, statusRank (l.foldl higherStatus a) ≤ statusRank x := by
  induction l generalizing a with
  | nil => simp
  | cons b l ih =>
    obtain ⟨ha, hb, hl⟩ : a ≠ 0 ∧ b ≠ 0 ∧ ∀ x ∈ l, x ≠ 0 := by simpa using h
    obtain ⟨hpick, hra, hrb⟩ := higherStatus_spec ha hb
    have hc : higherStatus a b ≠ 0 := by rcases hpick with e | e <;> rwa [e]
    obtain ⟨hmem, hle⟩ := ih (higherStatus a b) (by simpa [hc] using hl)
    have hle_c := hle _ (.head _)
    rw [List.foldl_cons]
    constructor
    · rcases List.mem_cons.1 hmem with e | hin
      · rw [e]
        rcases hpick with e' | e' <;> simp [e']
      · exact .tail _ (.tail _ hin)
    · intro x hx
      rcases List.mem_cons.1 hx with rfl | hx
      · exact hle_c.trans hra
      · rcases List.mem_cons.1 hx with rfl | hx
        · exact hle_c.trans hrb
        · exact hle x (.tail _ hx)

/-- The status picked is one of the codes, and none of them has a lower rank number. -/
theorem pickStatus_spec {l : List Nat} (hne : l ≠ []) (h : ∀ x ∈ l, x ≠ 0) :
    pickStatus l ∈ l ∧ ∀ x ∈ l, statusRank (pickStatus l) ≤ statusRank x := by
  obtain ⟨a, l, rfl⟩ := List.exists_cons_of_ne_nil hne
  rw [pickStatus_eq_foldl, List.foldl_cons, higherStatus_zero_left]
  exact foldl_higherStatus_spec l a h

theorem byRank_ne_zero : ∀ x ∈ byRank, x ≠ 0 := by decide

/-- `statusRank` orders the codes of R24 as the table lists them. -/
theorem idxOf_byRank_le : ∀ x ∈ byRank, ∀ y ∈ byRank, statusRank x ≤ statusRank y → byRank.idxOf x ≤ byRank.idxOf y := by decide

/-- Settles O58: the pick has the least rank, and rank follows the place in R24's table. -/
theorem oneStatusIsReported : Obligations.OneStatusIsReported := by
  refine ⟨rfl, fun l hne hl => ?_⟩
  obtain ⟨hmem, hle⟩ := pickStatus_spec hne fun x hx => byRank_ne_zero x (hl x hx)
  exact ⟨hmem, fun x hx => idxOf_byRank_le _ (hl _ hmem) x (hl x hx) (hle x hx)⟩

end Sys2Proof.Machine
end

section
/-! Writes of registers (R518, R521, R523, R535): what an access to an address comes to, what the judged word holds field by field,
and what a refusal records. -/
namespace Sys2Proof.Machine
open Sys2Proof.Say

variable (s : State)

/-! ## Steps that keep to the register file -/

theorem AllEff.mono {P Q : Eff → Prop} {a : Act} (h : AllEff P a) (hpq : ∀ e, P e → Q e) : AllEff Q a :=
  fun u e he => hpq e (h u e he)

/-- The effect changes registers, or what waits for a boundary in them. -/
def Eff.onRegs : Eff → Prop
  | .fld _ _ _ _ | .word _ _ _ _ | .hold _ _ _ => True
  | _ => False

/-- A command that keeps to the register file leaves memory and every context alone. -/
theorem same_of_onRegs {a : Act} {t : State} (h : AllEff Eff.onRegs a) (hst : SnapSame (s.then a) t) :
    sameMem s t ∧ sameContexts s t := by
  have hmem : (s.then a).mem = s.mem := mem_off s (h.mono fun e he => by cases e <;> trivial)
  have hstreams : (s.then a).streams = s.streams := streams_off s (h.mono fun e he => by cases e <;> trivial)
  have hinsts : (s.then a).insts = s.insts := insts_off s (h.mono fun e he => by cases e <;> trivial)
  have htiles : (s.then a).tiles = s.tiles := tiles_off s (h.mono fun e he => by cases e <;> trivial)
  refine ⟨fun b => ?_, fun id => ?_, fun n => ?_, fun k => ?_⟩
  · simp only [State.byte, hst.mem, hmem]
  · simp only [State.stream, hst.streams, hstreams]
  · simp only [State.inst, hst.insts, hinsts]
  · simp only [State.tile, hst.tiles, htiles]

/-! ## What a refusal records -/

theorem errReg_ne (b : Blk) : b.errReg.1 ≠ b.errReg.2 ∧ b.errReg.1 ≠ .SNP_CNT ∧ b.errReg.2 ≠ .SNP_CNT := by
  cases b <;> decide

theorem errReg_err_ok (b : Blk) : Fld.ok ⟨b.errReg.1, 31, 31⟩ = true := by cases b <;> decide

theorem errReg_cause_ok (b : Blk) : Fld.ok ⟨b.errReg.1, 25, 22⟩ = true := by cases b <;> decide

/-- The effect sets a field of one of the two error registers of a block. -/
def Eff.onErr (b : Blk) : Eff → Prop
  | .fld f _ _ _ => f.reg = b.errReg.1 ∨ f.reg = b.errReg.2
  | _ => False

theorem regErr_nil (b : Blk) (t : Nat) (q : Requester) (off : Nat) : regErr b t q off [] = Act.none := (rfl)

theorem regErr_onErr (b : Blk) (t : Nat) (q : Requester) (off : Nat) (causes : List Nat) :
    AllEff (Eff.onErr b) (regErr b t q off causes) := by
  intro u e he
  unfold regErr at he
  split at he
  · cases he
  · simp only [List.mem_cons, List.not_mem_nil, or_false] at he
    rcases he with rfl | rfl | rfl | rfl | rfl <;> simp [Eff.onErr]

theorem Eff.onRegs_of_onErr {b : Blk} {e : Eff} (h : e.onErr b) : e.onRegs := by
  cases e with
  | fld => trivial
  | _ => exact h.elim

theorem Eff.off_of_onErr {b : Blk} {r : Reg} (h1 : r ≠ b.errReg.1) (h2 : r ≠ b.errReg.2) {e : Eff} (h : e.onErr b) : e.off r := by
  cases e with
  | fld f t ix v => exact h.elim (fun hf hr => h1 (hr.symm.trans hf)) fun hf hr => h2 (hr.symm.trans hf)
  | _ => exact h.elim

/-- A refusal leaves every register alone but the two of its block. -/
theorem reg_regErr (b : Blk) (t : Nat) (q : Requester) (off : Nat) (causes : List Nat) {r : Reg} (h1 : r ≠ b.errReg.1)
    (h2 : r ≠ b.errReg.2) (k ix : Nat) : (s.then (regErr b t q off causes)).reg r k ix = s.reg r k ix :=
  reg_off s ((regErr_onErr b t q off causes).mono fun _ he => Eff.off_of_onErr h1 h2 he) k ix

/-- A field set in a list of effects reads as it was set there when no later effect touches it. -/
theorem get_run_fld {f : Fld} (hok : f.ok = true) (t ix v : Nat) (pre post : List Eff) (hpost : ∀ e ∈ post, e.offF f) :
    (s.run (pre ++ .fld f t ix v :: post)).get f t ix = v % 2 ^ (f.hi + 1 - f.lo) := by
  rw [run_append, run_cons]
  have hset : (Eff.run (s.run pre) (.fld f t ix v)).get f t ix = v % 2 ^ (f.hi + 1 - f.lo) := get_setF _ f t ix v hok
  exact run_keeps _ post (P := fun u => u.get f t ix = v % 2 ^ (f.hi + 1 - f.lo))
    (fun u hu e he => (get_run_off u hok (hpost e he) t ix).trans hu) hset

/-- One refusal's record: its error bit and its cause (R535). -/
theorem get_regErr_single (r : Reg) (k : Nat) (q : Requester) (off c : Nat) :
    (s.then (regErr r.place.blk k q off [c])).get ⟨r.place.blk.errReg.1, 25, 22⟩ (errTile s r k) 0 = c % 16 ∧
      (s.then (regErr r.place.blk k q off [c])).get ⟨r.place.blk.errReg.1, 31, 31⟩ (errTile s r k) 0 = 1 := by
  obtain ⟨hne, _, _⟩ := errReg_ne r.place.blk
  generalize hn : satAdd (2 ^ 32 - 1) (s.get ⟨r.place.blk.errReg.2, 31, 0⟩ (errTile s r k) 0) 1 = n
  have hrun : s.then (regErr r.place.blk k q off [c]) = s.run
      [.fld ⟨r.place.blk.errReg.1, 31, 31⟩ (errTile s r k) 0 1, .fld ⟨r.place.blk.errReg.1, 25, 22⟩ (errTile s r k) 0 c,
       .fld ⟨r.place.blk.errReg.1, 21, 19⟩ (errTile s r k) 0 q.code, .fld ⟨r.place.blk.errReg.1, 18, 2⟩ (errTile s r k) 0 (off / 4),
       .fld ⟨r.place.blk.errReg.2, 31, 0⟩ (errTile s r k) 0 n] := by
    subst hn; rfl
  rw [hrun]
  constructor
  · exact get_run_fld s (errReg_cause_ok r.place.blk) _ 0 c [_] [_, _, _] (by simp [Eff.offF, hne])
  · exact get_run_fld s (errReg_err_ok r.place.blk) _ 0 1 [] [_, _, _, _] (by simp [Eff.offF, hne])

/-! ## What a write makes of each field (R523) -/

section
variable {s} {r : Reg} {kt ix : Nat} {old new : Word} {f : FSpec}

theorem judgeField_lt : (s.judgeField r kt ix old new f).1 < 2 ^ (f.hi + 1 - f.lo) := by
  unfold State.judgeField
  cases f.acc with
  | ro | w1s | w1c => exact getBits_lt _ _ _
  | rc | wo | rw =>
    dsimp only
    split_ifs <;> exact getBits_lt _ _ _

theorem judgeField_ro_w1s (h : f.acc = .ro ∨ f.acc = .w1s) : (s.judgeField r kt ix old new f).1 = getBits old f.hi f.lo := by
  rcases h with h | h <;> simp only [State.judgeField, h]

theorem judgeField_rw_taken (h : f.acc = .rw) (ha : s.allowed r kt ix f.hi (getBits new f.hi f.lo) = true)
    (hd : s.deaf r f.hi ix = false) (ho : ¬ (s.takenAtOpen r f kt ix = true ∧ s.isLive (kt * 256 + ix) = true)) :
    (s.judgeField r kt ix old new f).1 = getBits new f.hi f.lo := by
  simp only [State.judgeField, h, ha, hd, if_neg ho, Bool.false_eq_true, or_false, Bool.not_true, if_false]
  split
  · exact Eq.symm ‹_›
  · rfl

theorem judgeField_rw_refused (h : f.acc = .rw) (ha : s.allowed r kt ix f.hi (getBits new f.hi f.lo) = false) :
    (s.judgeField r kt ix old new f).1 = getBits old f.hi f.lo := by
  simp only [State.judgeField, h, ha, Bool.not_false, if_true]
  split <;> rfl

theorem judgeField_w1c (h : f.acc = .w1c) : (s.judgeField r kt ix old new f).1 = getBits (old &&& ~~~new) f.hi f.lo := by
  simp only [State.judgeField, h]

theorem judgeField_rc_mrg (h : f.acc = .rc) (hc : f.coll = .mrg) : (s.judgeField r kt ix old new f).1 = getBits new f.hi f.lo := by
  simp only [State.judgeField, h, hc, if_true]

theorem judgeField_rc_other (h : f.acc = .rc) (hc : f.coll ≠ .mrg) : (s.judgeField r kt ix old new f).1 = getBits old f.hi f.lo := by
  simp only [State.judgeField, h, if_neg hc]

theorem judgeField_wo (h : f.acc = .wo) (ha : s.allowed r kt ix f.hi (getBits new f.hi f.lo) = true) :
    (s.judgeField r kt ix old new f).1 = getBits new f.hi f.lo := by
  simp only [State.judgeField, h, ha, if_true]

end

/-! ## The word that a write leaves -/

/-- `ECE_LSCW1` has its own layout under `PROFILE` 2 (R77); every other write is judged by its table's fields. -/
theorem fieldsOf_eq_fields {r : Reg} {kt ix : Nat} (h : r = .ECE_LSCW1 → s.get F.ECE_LSCW0_PROFILE kt ix ≠ 2) :
    s.fieldsOf r kt ix = r.fields := if_neg fun hc => h hc.1 hc.2

/-- The judged word sets each field to its judged value. -/
theorem judge_fst (r : Reg) (kt ix : Nat) (new : Word) : (s.judge r kt ix new).1 =
    setFields (s.fieldsOf r kt ix) (fun f => (s.judgeField r kt ix (s.reg r kt ix) new f).1)
      (s.reg r kt ix &&& (s.fieldsOf r kt ix).foldl (fun w f => w ||| maskOf f.hi f.lo) 0) :=
  (List.foldl_hom Prod.fst fun _ _ => rfl).symm

theorem getBits_judge {r : Reg} {kt ix : Nat} (hp : r = .ECE_LSCW1 → s.get F.ECE_LSCW0_PROFILE kt ix ≠ 2) (new : Word) {f : FSpec}
    (hf : f ∈ r.fields) : getBits ((s.judge r kt ix new).1 &&& implMask r) f.hi f.lo =
      (s.judgeField r kt ix (s.reg r kt ix) new f).1 := by
  obtain ⟨_, h32, _⟩ := fields_fit r f hf
  rw [getBits_and_mask _ _ _ _ (maskOf_sub_implMask hf), judge_fst, fieldsOf_eq_fields s hp,
    getBits_setFields (fields_apart r) hf h32, Nat.mod_eq_of_lt judgeField_lt]

/-! ## Writes that reach their register -/

/-- What `putWord` does at the key tile and index where its write lands. -/
def putWordAt (q : Requester) (t : Nat) (r : Reg) (e v : Nat) (more : List Nat) (kt ix : Nat) : Act := fun s =>
  Act.seq [.when (s.shadows r kt ix (BitVec.ofNat 32 v)) (.eff (.hold r kt ix :: shdPend r kt ix)),
    .eff [.word r kt ix (s.judge r kt ix (BitVec.ofNat 32 v)).1],
    regErr r.place.blk t q (r.place.off + e * r.place.stride) ((s.judge r kt ix (BitVec.ofNat 32 v)).2 ++ more)] s

variable {s} {q : Requester} {t : Nat} {r : Reg} {e kt ix : Nat}

theorem then_putWord (h : s.lands q t r e true = some (kt, ix)) (v : Nat) (more : List Nat) :
    s.then (putWord q t r e v more) = s.then (putWordAt q t r e v more kt ix) :=
  then_accessReg (k := putWordAt q t r e v more) h

theorem shdPend_onRegs (r : Reg) (kt ix : Nat) : ∀ x ∈ shdPend r kt ix, x.onRegs := by
  unfold shdPend
  split <;> simp [Eff.onRegs]

theorem putWordAt_onRegs (q : Requester) (t : Nat) (r : Reg) (e v : Nat) (more : List Nat) (kt ix : Nat) :
    AllEff Eff.onRegs (putWordAt q t r e v more kt ix) := by
  intro u
  refine AllEff.seq (fun a ha => ?_) u
  simp only [List.mem_cons, List.not_mem_nil, or_false] at ha
  rcases ha with rfl | rfl | rfl
  · exact .when fun _ => .eff fun x hx => (List.mem_cons.1 hx).elim (fun hx => hx ▸ trivial) (shdPend_onRegs r kt ix x)
  · exact .eff fun x hx => List.mem_singleton.1 hx ▸ trivial
  · exact (regErr_onErr _ _ _ _ _).mono fun _ => Eff.onRegs_of_onErr

/-- The register holds the judged word, unless its own block's refusal is recorded in it. -/
theorem reg_putWordAt {v : Nat} {more : List Nat} (h : (s.judge r kt ix (BitVec.ofNat 32 v)).2 ++ more = [] ∨
      r ≠ r.place.blk.errReg.1 ∧ r ≠ r.place.blk.errReg.2) :
    (s.then (putWordAt q t r e v more kt ix)).reg r kt ix = (s.judge r kt ix (BitVec.ofNat 32 v)).1 &&& implMask r := by
  unfold putWordAt
  rw [then_app, then_seq_cons, then_seq_cons, then_seq_cons, then_seq_nil]
  have hword (u : State) (w : Word) : (u.then (.eff [.word r kt ix w])).reg r kt ix = w &&& implMask r :=
    (reg_setReg u r r kt ix kt ix w).trans (if_pos ⟨rfl, rfl, rfl⟩)
  rcases h with hnil | ⟨h1, h2⟩
  · rw [hnil, regErr_nil, then_none, hword]
  · rw [reg_regErr _ _ _ _ _ _ h1 h2, hword]

/-! ## Writes at an address -/

section
variable {a k o : Nat}

theorem then_atAddr {w : Bool} {f : Nat → Reg → Nat → Act} (ha : regAddr a = some (k, o)) (hr : regAt k o = some (r, e)) :
    s.then (atAddr q a w f) = s.then (f k r e) := by
  simp only [State.then, atAddr, ha, hr]

theorem then_regWrite_whole (ha : regAddr a = some (k, o)) (hr : regAt k o = some (r, e)) (v : Nat) :
    s.then (regWrite q a 15 v) = s.then (writeWord q k r e (v % 2 ^ 32)) := then_atAddr ha hr

theorem then_regWrite_partial (ha : regAddr a = some (k, o)) (hr : regAt k o = some (r, e))
    (hl : s.lands q k r e true = some (kt, ix)) {be : Nat} (hbe : be % 16 ≠ 15) (v : Nat) :
    s.then (regWrite q a be v) = s.then (regErr r.place.blk k q (r.place.off + e * r.place.stride) [causeWidth]) := by
  unfold regWrite
  rw [then_atAddr ha hr, if_neg hbe]
  exact then_accessReg hl

theorem then_regWrite_outside (ha : regAddr a = none) (be v : Nat) :
    s.then (regWrite q a be v) = s.then (emit (.reply q 0 0x0104)) := by
  simp only [State.then, regWrite, atAddr, ha]

/-- A whole word written to a plain register leaves its judged word there, and changes neither memory nor a context. -/
theorem regWrite_whole (ha : regAddr a = some (k, o)) (hr : regAt k o = some (r, e)) (hp : plain r) (hcnt : r ≠ .SNP_CNT)
    (hl : s.lands q k r e true = some (kt, ix)) {v : Nat} (herr : (s.judge r kt ix (BitVec.ofNat 32 (v % 2 ^ 32))).2 = [] ∨
      r ≠ r.place.blk.errReg.1 ∧ r ≠ r.place.blk.errReg.2) :
    gives (.regWrite q a 15 v) s fun t => sameMem s t ∧ sameContexts s t ∧
      t.reg r kt ix = (s.judge r kt ix (BitVec.ofNat 32 (v % 2 ^ 32))).1 &&& implMask r := by
  have hthen : s.then (regWrite q a 15 v) = s.then (putWordAt q k r e (v % 2 ^ 32) [] kt ix) := by
    rw [then_regWrite_whole ha hr, hp, then_putWord hl]
  refine done_holds fun t hst => ?_
  rw [hthen] at hst
  obtain ⟨hmem, hctx⟩ := same_of_onRegs s (putWordAt_onRegs _ _ _ _ _ _ _ _) hst
  exact ⟨hmem, hctx, (hst.reg r kt ix hcnt).trans (reg_putWordAt (by simpa using herr))⟩

/-- A partial write is discarded and recorded with `WIDTH` (R521, R535). -/
theorem regWrite_partial (ha : regAddr a = some (k, o)) (hr : regAt k o = some (r, e))
    (hl : s.lands q k r e true = some (kt, ix)) {be : Nat} (hbe : be % 16 ≠ 15) (v : Nat) :
    gives (.regWrite q a be v) s fun t => t.get ⟨r.place.blk.errReg.1, 25, 22⟩ (errTile s r k) 0 = causeWidth ∧
      t.get ⟨r.place.blk.errReg.1, 31, 31⟩ (errTile s r k) 0 = 1 ∧
      sameRegs [r.place.blk.errReg.1, r.place.blk.errReg.2] s t ∧ sameMem s t ∧ sameContexts s t := by
  obtain ⟨_, hcnt, _⟩ := errReg_ne r.place.blk
  refine done_holds fun t hst => ?_
  rw [then_regWrite_partial ha hr hl hbe] at hst
  obtain ⟨hcause, hbit⟩ := get_regErr_single s r k q (r.place.off + e * r.place.stride) causeWidth
  refine ⟨(hst.get _ _ _ hcnt).trans hcause, (hst.get _ _ _ hcnt).trans hbit, fun r' hr' j x => ?_,
    same_of_onRegs s ((regErr_onErr _ _ _ _ _).mono fun _ => Eff.onRegs_of_onErr) hst⟩
  obtain ⟨hn, h1, h2⟩ : r' ≠ .SNP_CNT ∧ r' ≠ r.place.blk.errReg.1 ∧ r' ≠ r.place.blk.errReg.2 := by simpa using hr'
  exact (hst.reg r' j x hn).trans (reg_regErr s _ _ _ _ _ h1 h2 j x)

/-- A write outside register space completes with `ST_BAD_DESC` and changes nothing (R515). -/
theorem regWrite_outside (ha : regAddr a = none) (be v : Nat) :
    gives (.regWrite q a be v) s fun t =>
      t.out = s.out ++ [.reply q 0 0x0104] ∧ sameRegs [] s t ∧ sameMem s t ∧ sameContexts s t := by
  refine done_holds fun t hst => ?_
  rw [then_regWrite_outside ha, then_emit] at hst
  refine ⟨hst.out, fun r' hr' j x => hst.reg r' j x ?_, hst.byte, hst.stream, hst.inst, hst.tile⟩
  simpa using hr'

end

/-- Settles O44: a write that lands leaves the judged word, and each access code has its lemma about the judged field. -/
theorem registerWordsAreWrittenFieldByField : Obligations.RegisterWordsAreWrittenFieldByField := by
  refine ⟨fun s q a v k o r e kt ix ha hr hp hcnt hl hprof herr => ?_,
    fun s q a be v k o r e kt ix ha hr hl hbe => regWrite_partial ha hr hl hbe v,
    fun s q a be v ha => regWrite_outside ha be v⟩
  obtain ⟨t, hexec, hmem, hctx, hreg⟩ := regWrite_whole ha hr hp hcnt hl herr
  refine ⟨t, hexec, hmem, hctx, fun f hf => ?_⟩
  have hgot := (congrArg (fun w => getBits w f.hi f.lo) hreg).trans (getBits_judge s hprof _ hf)
  exact ⟨fun h => hgot.trans (judgeField_ro_w1s h), fun h hal hd ho => hgot.trans (judgeField_rw_taken h hal hd ho),
    fun h hal => hgot.trans (judgeField_rw_refused h hal), fun h => hgot.trans (judgeField_w1c h),
    fun h hc => hgot.trans (judgeField_rc_mrg h hc), fun h hc => hgot.trans (judgeField_rc_other h hc),
    fun h hal => hgot.trans (judgeField_wo h hal)⟩

end Sys2Proof.Machine
end

section
/-! Steps whose effects are all of a kind, list by list: the combinators of steps reduce to their parts, so that what a step can do
follows by `simp` from what the steps that it calls can do. -/
namespace Sys2Proof.Machine

/-- Every effect of a list is of a kind. -/
def Effs (P : Eff → Prop) (l : List Eff) : Prop := ∀ e ∈ l, P e

theorem allEff_iff {P : Eff → Prop} {a : Act} : AllEff P a ↔ ∀ u, Effs P (a u) := .rfl

theorem Effs.mono {P Q : Eff → Prop} {l : List Eff} (h : Effs P l) (hpq : ∀ e, P e → Q e) : Effs Q l :=
  fun e he => hpq e (h e he)

variable {P : Eff → Prop} {u : State}

@[simp] theorem effs_nil : Effs P [] := fun _ h => (List.not_mem_nil h).elim
@[simp] theorem effs_cons {e : Eff} {l : List Eff} : Effs P (e :: l) ↔ P e ∧ Effs P l := List.forall_mem_cons
@[simp] theorem effs_append {l m : List Eff} : Effs P (l ++ m) ↔ Effs P l ∧ Effs P m := List.forall_mem_append
@[simp] theorem effs_map {α : Type} {l : List α} {f : α → Eff} : Effs P (l.map f) ↔ ∀ x ∈ l, P (f x) := List.forall_mem_map

@[simp] theorem effs_ite {c : Prop} [Decidable c] {l m : List Eff} :
    Effs P (if c then l else m) ↔ (c → Effs P l) ∧ (¬c → Effs P m) := by split <;> simp [*]
@[simp] theorem effs_ite_act {c : Prop} [Decidable c] {a b : Act} :
    Effs P ((if c then a else b) u) ↔ (c → Effs P (a u)) ∧ (¬c → Effs P (b u)) := by split <;> simp [*]

@[simp] theorem effs_none : Effs P (Act.none u) := effs_nil
@[simp] theorem effs_eff {l : List Eff} : Effs P (Act.eff l u) ↔ Effs P l := .rfl
@[simp] theorem effs_seq_nil : Effs P (Act.seq [] u) := effs_nil
@[simp] theorem effs_seq_cons {a : Act} {l : List Act} :
    Effs P (Act.seq (a :: l) u) ↔ Effs P (a u) ∧ Effs P (Act.seq l (u.then a)) := effs_append
@[simp] theorem effs_when {c : Bool} {a : Act} : Effs P (Act.when c a u) ↔ (c = true → Effs P (a u)) := by
  cases c <;> simp [Act.when]
@[simp] theorem effs_read {f : State → Act} : Effs P (Act.read f u) ↔ Effs P (f u u) := .rfl
@[simp] theorem effs_opt {α : Type} {o : Option α} {f : α → Act} :
    Effs P (Act.opt o f u) ↔ ∀ x, o = some x → Effs P (f x u) := by
  cases o <;> simp [Act.opt]
@[simp] theorem effs_each {α : Type} {l : List α} {f : α → Act} (h : ∀ x v, Effs P (f x v)) : Effs P (Act.each l f u) :=
  AllEff.each (fun x _ => h x) u

@[simp] theorem effs_setF {f : Fld} {t v : Nat} : Effs P (setF f t v u) ↔ P (.fld f t 0 v) := by simp [setF]
@[simp] theorem effs_setFx {f : Fld} {t ix v : Nat} : Effs P (setFx f t ix v u) ↔ P (.fld f t ix v) := by simp [setFx]
@[simp] theorem effs_setS {f : Fld} {id v : Nat} : Effs P (setS f id v u) ↔ P (.fld f (homeOf id) (slotOf id) v) := effs_setFx
@[simp] theorem effs_countX {f : Fld} {t ix n : Nat} :
    Effs P (countX f t ix n u) ↔ P (.fld f t ix (satAdd f.maxVal (u.get f t ix) n)) := by simp [countX]
@[simp] theorem effs_count {f : Fld} {t n : Nat} :
    Effs P (count f t n u) ↔ P (.fld f t 0 (satAdd f.maxVal (u.get f t 0) n)) := effs_countX
@[simp] theorem effs_countS {f : Fld} {id n : Nat} :
    Effs P (countS f id n u) ↔ P (.fld f (homeOf id) (slotOf id) (satAdd f.maxVal (u.get f (homeOf id) (slotOf id)) n)) := effs_countX
@[simp] theorem effs_emit {m : Emission} : Effs P (emit m u) ↔ P (.emit m) := by simp [emit]
@[simp] theorem effs_updP {f : Pkg → Pkg} : Effs P (updP f u) ↔ P (.pkg f) := by simp [updP]
@[simp] theorem effs_updS {id : Nat} {f : Stream → Stream} : Effs P (updS id f u) ↔ P (.stream id f) := by simp [updS]
@[simp] theorem effs_updI {n : Nat} {f : Inst → Inst} : Effs P (updI n f u) ↔ P (.inst n f) := by simp [updI]
@[simp] theorem effs_updT {t : Nat} {f : Tile → Tile} : Effs P (updT t f u) ↔ P (.tile t f) := by simp [updT]

end Sys2Proof.Machine
end

section
/-! What no request reaches (R312 to R317): the link's state, the host windows, the enables of the rings and the states of
the tenants; nor does it change a tile's transfers, its items on chip or its submission rings. Step by step, from the records of
completion up to the request itself. -/
namespace Sys2Proof.Machine

/-- Registers of the PCIe link, of the host windows, of the rings' enables and of the tenants' states: no request sets them. -/
@[simp] def heldRegs : List Reg := [.LNK_PCISTAT, .LNK_HWE_LO, .LNK_HWE_HI, .SMV_SQCFG, .PRT_ISTAT]

/-- The effect leaves those registers alone, the mark of a function level reset, and what a tile has in flight. -/
@[simp] def Eff.spares : Eff → Prop
  | .fld f _ _ _ | .countU f _ _ _ _ => f.reg ∉ heldRegs
  | .word r _ _ _ => r ∉ heldRegs
  | .resetRegs p => ∀ k : RegKey, k.reg ∈ heldRegs → p k = false
  | .inst _ f => ∀ x, (f x).flr = x.flr
  | .tile _ f => ∀ c, (f c).xfers = c.xfers ∧ (f c).items = c.items ∧ (f c).sqRing = c.sqRing
  | _ => True

variable {u : State}

/-! ## Errors, memory and messages -/

@[simp] theorem spares_smvErr {t code id : Nat} : Effs Eff.spares (smvErr t code id u) := by
  simp [smvErr, blockErr, F.SMV_ERRSTAT_ERR, F.SMV_ERRSTAT_CODE, F.SMV_ERRCNT_COUNT, F.SMV_ERRSTAT_STREAM]

@[simp] theorem spares_lnkErr {t code id port : Nat} : Effs Eff.spares (lnkErr t code id port u) := by
  simp [lnkErr, blockErr, F.LNK_ERRSTAT_ERR, F.LNK_ERRSTAT_CODE, F.LNK_ERRCNT_COUNT, F.LNK_ERRSTAT_STREAM, F.LNK_ERRSTAT_PORT]

@[simp] theorem spares_poisonWrite {a n : Nat} {pz : Nat → Bool} : Effs Eff.spares (poisonWrite a n pz u) := by
  intro e he
  obtain ⟨g, _, hg⟩ := List.mem_filterMap.1 he
  split_ifs at hg <;> cases hg <;> trivial

@[simp] theorem spares_baleBlock {a n b : Nat} {ask : Bool} : Effs Eff.spares (baleBlock a n ask b u) := by
  simp [baleBlock, F.BAL_CLSCNT_COUNT, F.BAL_RMWCNT_COUNT]

@[simp] theorem spares_wcInvalidate {b : Nat} : Effs Eff.spares (wcInvalidate b u) := by
  simp [wcInvalidate, F.MEM_WCINV_INV]

@[simp] theorem spares_memWriteG {a : Nat} {bs : List Byte} {pz : Nat → Bool} {ask : Bool} :
    Effs Eff.spares (memWriteG a bs pz ask u) := by
  simp [memWriteG]

@[simp] theorem spares_memWrite {a : Nat} {bs : List Byte} {pz ask : Bool} : Effs Eff.spares (memWrite a bs pz ask u) :=
  spares_memWriteG

@[simp] theorem spares_yardPacket {k t g : Nat} : Effs Eff.spares (yardPacket k t g u) := by
  simp [yardPacket, F.BAL_YSAVED_COUNT, F.YRD_FLIT_COUNT]

@[simp] theorem spares_yardSend {t a : Nat} {bs : List Byte} {pz : Bool} : Effs Eff.spares (yardSend t a bs pz u) := by
  simp [yardSend]

@[simp] theorem spares_memWriteFrom {t a : Nat} {bs : List Byte} {pz ask : Bool} :
    Effs Eff.spares (memWriteFrom t a bs pz ask u) := by
  simp [memWriteFrom]

@[simp] theorem spares_putBytes {n a : Nat} {bs : List Byte} {pz : Bool} : Effs Eff.spares (putBytes n a bs pz u) := by
  unfold putBytes
  split
  · split <;> simp
  · simp

@[simp] theorem spares_mvPut {e path : Nat} {m : MvMsg} : Effs Eff.spares (mvPut e path m u) := by
  simp [mvPut, updLink, updPeer]

@[simp] theorem spares_mvSend {e mtype inst epoch id : Nat} {bs : List Byte} {pz : Bool} {ctx : MvCtx} :
    Effs Eff.spares (mvSend e mtype inst epoch id bs pz ctx .none u) := by
  unfold mvSend mvSendAs
  dsimp only
  split <;> simp [updPeer]

/-! ## Records and the completion of requests -/

@[simp] theorem spares_cqPush {t r : Nat} {c : Cpl} : Effs Eff.spares (cqPush t r c u) := by
  simp [cqPush, cqWrite, F.SMV_CQTAIL_TAIL]

@[simp] theorem spares_deliver {o : Origin} {c : Cpl} : Effs Eff.spares (deliver o c u) := by
  cases o <;> simp [deliver]

@[simp] theorem spares_updW {n id : Nat} {ctl : Bool} {f : Window → Window} : Effs Eff.spares (updW n ctl id f u) := by
  simp [updW]

@[simp] theorem spares_completeReq {n st id digest : Nat} {r : LiveReq} : Effs Eff.spares (completeReq n r st id digest u) := by
  simp [completeReq]

@[simp] theorem spares_completeHeld {n st id digest : Nat} {r : LiveReq} : Effs Eff.spares (completeHeld n r st id digest u) := by
  simp [completeHeld]

@[simp] theorem spares_workRecord {id frame st digest : Nat} : Effs Eff.spares (workRecord id frame st digest u) := by
  simp [workRecord]

theorem condCounter_not_held {st : Nat} {f : Fld} (h : condCounter st = some f) : f.reg ∉ heldRegs := by
  unfold condCounter at h
  split at h <;> cases h <;> decide

@[simp] theorem spares_countConditions {id : Nat} {l : List Nat} : Effs Eff.spares (countConditions id l u) :=
  effs_each fun st v => by simpa using fun f => condCounter_not_held (st := st)

/-! ## Items in flight -/

@[simp] theorem spares_syncLive {id : Nat} : Effs Eff.spares (syncLive id u) := by
  simp [syncLive, F.SMV_SLIVE0_INFLIGHT]

@[simp] theorem spares_syncResident {t : Nat} : Effs Eff.spares (syncResident t u) := by
  simp [syncResident, F.SMV_RESIDENT_ITEMS]

@[simp] theorem spares_updLive {id t q slot : Nat} {f : LiveItem → LiveItem} : Effs Eff.spares (updLive id t q slot f u) := by
  simp [updLive]

@[simp] theorem spares_finishLive {id t q slot st digest : Nat} : Effs Eff.spares (finishLive id t q slot st digest u) := by
  simp [finishLive]

@[simp] theorem spares_enqueue {t q id flags : Nat} {bs : List Byte} {req : Option LiveReq} :
    Effs Eff.spares (enqueue t q id bs flags req u) := by
  simp [enqueue, addLive, F.SMV_QTAIL_TAIL]

@[simp] theorem spares_stageBarrier {id : Nat} : Effs Eff.spares (stageBarrier id u) := by
  simp [stageBarrier]

@[simp] theorem spares_egressPump {id : Nat} : Effs Eff.spares (egressPump id u) := by
  simp [egressPump]

@[simp] theorem spares_putPieces {t n : Nat} {pz ask : Bool} {ps : List Block} {bs : List Byte} :
    Effs Eff.spares (putPieces t n pz ask ps bs u) := by
  induction ps generalizing bs u with
  | nil => exact effs_none
  | cons p ps ih => simp [putPieces, piecePut, ih]

@[simp] theorem spares_unitsOut {id frame : Nat} {bs : List Byte} : Effs Eff.spares (unitsOut id frame bs u) := by
  have hput : Effs Eff.spares (putOutput (homeOf id) id bs false false u) := by
    unfold putOutput
    dsimp only
    split <;> simp [writeBuf, updLsc]
  simp [unitsOut, hput]

/-! ## Mirrors of a context in registers -/

@[simp] theorem spares_syncTsets {t : Nat} : Effs Eff.spares (syncTsets t u) := by
  simp [syncTsets, F.ECE_TSET_VALID, F.ECE_TSET_PINNED, F.ECE_TSETPROG_PROG_ID]

@[simp] theorem spares_syncPins : Effs Eff.spares (syncPins u) := by
  simp [syncPins]

@[simp] theorem spares_syncMpres {t : Nat} : Effs Eff.spares (syncMpres t u) := by
  simp [syncMpres, F.SFU_MPRES_VALID, F.SFU_MPRES_INUSE]

@[simp] theorem spares_syncFence {t : Nat} : Effs Eff.spares (syncFence t u) := by
  simp [syncFence, F.ARR_QSTAT_FENCEWAIT]

@[simp] theorem spares_syncAdapt {id : Nat} : Effs Eff.spares (syncAdapt id u) := by
  simp [syncAdapt, F.FXG_ADPSTAT_STATE]

@[simp] theorem spares_syncFlows {t : Nat} : Effs Eff.spares (syncFlows t u) := by
  simp [syncFlows, F.LNK_FLOWS_USED]

/-! ## The learned-codec decoder -/

@[simp] theorem spares_updLsc {id : Nat} {f : Lsc → Lsc} : Effs Eff.spares (updLsc id f u) := by
  simp [updLsc]

@[simp] theorem spares_updFrame {id frame : Nat} {g : LscFrame → LscFrame} : Effs Eff.spares (updFrame id frame g u) := spares_updLsc

@[simp] theorem spares_putTensor {p : Prog} {li r q k : Nat} {v : Int} {bad : Bool} :
    Effs Eff.spares (putTensor p li r q k v bad u) := by
  unfold putTensor
  split <;> simp

@[simp] theorem spares_remakeAt {x : RunCx} {r q : Nat} : Effs Eff.spares (remakeAt x r q u) := by
  simp [remakeAt, putBlock, putPos]

@[simp] theorem spares_remake {p : Prog} {id ix j0 j1 : Nat} {f : LscFrame} {all bare : Bool} :
    Effs Eff.spares (remake p id f ix j0 j1 all bare u) := by
  refine effs_each fun li v => effs_opt.2 fun l _ => effs_each fun e w => effs_each fun r x => ?_
  simp

@[simp] theorem spares_decFences {id frame : Nat} : Effs Eff.spares (decFences id frame u) := by
  unfold decFences
  split
  · simp
  · split
    · simp
    · refine effs_each fun l v => effs_each fun e w => ?_
      simp

@[simp] theorem spares_lostMeans {id frame : Nat} : Effs Eff.spares (lostMeans id frame u) := by
  unfold lostMeans
  dsimp only
  repeat' split
  all_goals simp

@[simp] theorem spares_zeroPlot {id : Nat} {f : LscFrame} {e : Prog × Nat × Nat × Nat} {p : PlotSt} :
    Effs Eff.spares (zeroPlot id f e p u) := by
  simp [zeroPlot, syncFences]

@[simp] theorem spares_sendRefresh {id frame reason : Nat} {isNew : Bool} :
    Effs Eff.spares (sendRefresh id frame reason isNew u) := by
  unfold sendRefresh
  dsimp only
  split
  · simp
  · cases (u.stream id).lsc.fromPeer <;> simp [F.ECE_LSCCNT_REFCNT]

@[simp] theorem spares_repeatRefresh {id frame : Nat} : Effs Eff.spares (repeatRefresh id frame u) := by
  unfold repeatRefresh
  dsimp only
  split <;> simp

@[simp] theorem spares_decEvent {id reason : Nat} {f : LscFrame} : Effs Eff.spares (decEvent id f reason u) := by
  simp [decEvent, F.SMV_SCOND0_MISSREF]

@[simp] theorem spares_decAdvance {id : Nat} : Effs Eff.spares (decAdvance id u) := by
  unfold decAdvance
  split
  · simp
  · split
    · simp
    · split <;> simp

@[simp] theorem spares_closeFrame {id : Nat} : Effs Eff.spares (closeFrame id u) := by
  unfold closeFrame
  split <;> simp

@[simp] theorem spares_orphan {id : Nat} : Effs Eff.spares (orphan id u) := by
  simp [orphan, F.ECE_OSFCNT0_ORPHAN]

@[simp] theorem spares_refuseHeader {id frame st : Nat} : Effs Eff.spares (refuseHeader id frame st u) := by
  simp [refuseHeader, F.ECE_OSFSTAT_REFUSED, F.ECE_OSFCNT1_REFUSED]

@[simp] theorem spares_decHeader {id : Nat} {o : Osf} : Effs Eff.spares (decHeader id o u) := by
  unfold decHeader
  simp only [effs_seq_cons, effs_seq_nil, effs_read, and_true]
  refine ⟨by simp, by simp [applyRegs, F.ECE_LSCLIVE1_SHDPEND], ?_⟩
  generalize State.then _ _ = v
  refine effs_ite_act.2 ⟨fun _ => spares_refuseHeader, fun _ => ?_⟩
  generalize Option.filter _ _ = named
  cases named with
  | none => simp
  | some p =>
    simp [F.ECE_LSCW0_PROFILE, F.ECE_LSCW0_BITS, F.ECE_LSCW0_CHROMA, F.ECE_LSCW1_RATE, F.ECE_LSCW1_CHANNELS, F.ECE_LSCW1_HEIGHT,
      F.ECE_LSCW1_WIDTH, F.ECE_OSFSTAT_REFUSED, F.ECE_OSFSTAT_NOHDR, F.ECE_OSFSTAT_HGEN, F.ECE_OSFCNT2_HDRS]

@[simp] theorem spares_finalFrame {id st : Nat} {o : Osf} : Effs Eff.spares (finalFrame id o st u) := spares_updLsc

@[simp] theorem spares_decFrame {id : Nat} {o : Osf} : Effs Eff.spares (decFrame id o u) := by
  simp [decFrame]

@[simp] theorem spares_decPlot {id : Nat} {o : Osf} {pz : Bool} : Effs Eff.spares (decPlot id o pz u) := by
  unfold decPlot
  dsimp only
  split <;> simp [F.ECE_OSFCNT2_WITHHELD]

@[simp] theorem spares_decUnit {id : Nat} {pz : Bool} {o : Osf} : Effs Eff.spares (decUnit id pz o u) := by
  unfold decUnit
  dsimp only
  cases (u.stream id).lsc.refused <;> simp [F.ECE_OSFCNT1_SKIPPED, F.ECE_OSFCNT1_REFUSED]

@[simp] theorem spares_keyRequest {id : Nat} : Effs Eff.spares (keyRequest id u) := by
  simp [keyRequest, F.ECE_LSCCNT_REFCNT, F.ECE_LSCLIVE1_KEYPEND]

@[simp] theorem spares_osfRx {id : Nat} {peer : Option Nat} {pz : Bool} {bs : List Byte} :
    Effs Eff.spares (osfRx id peer pz bs u) := by
  unfold osfRx
  dsimp only
  split
  · exact effs_nil
  · refine effs_seq_cons.2 ⟨by simp, effs_seq_cons.2 ⟨effs_each fun o v => ?_, effs_seq_nil⟩⟩
    cases o <;> simp [encUnit, F.ECE_OSFCNT0_CRCERR]

/-! ## The standard codec engine -/

@[simp] theorem spares_updSce {id : Nat} {f : Sce → Sce} : Effs Eff.spares (updSce id f u) := by
  simp [updSce]

@[simp] theorem spares_sceKeyRequest {id : Nat} : Effs Eff.spares (sceKeyRequest id u) := by
  simp [sceKeyRequest, F.SCE_SCNT_REFCNT, F.SCE_SLIVE1_KEYPEND]

@[simp] theorem spares_sceFlush {id : Nat} : Effs Eff.spares (sceFlush id u) := by
  simp [sceFlush, scePump]

@[simp] theorem spares_putPicture {t base pitch : Nat} {rows : List (Nat × Nat)} {bs : List Byte} :
    Effs Eff.spares (putPicture t base pitch rows bs u) := by
  induction rows generalizing bs u with
  | nil => exact effs_none
  | cons e es ih => simp [putPicture, ih]

@[simp] theorem spares_sceOutput {t id j : Nat} : Effs Eff.spares (sceOutput t id j u) := by
  simp [sceOutput]

@[simp] theorem spares_sceDrain {id : Nat} : Effs Eff.spares (sceDrain id u) := by
  simp [sceDrain, sceDiscard]

/-- A slot's registers that are not held return to their reset words. -/
theorem spares_resetSlot {t ix : Nat} {rs : List Reg} (h : ∀ r ∈ rs, r ∉ heldRegs) :
    (Eff.resetRegs fun k => k.inTile t && k.atIx ix && rs.contains k.reg).spares := by
  intro k hk
  have hno : rs.contains k.reg = false := Bool.eq_false_iff.2 fun hc => h _ (List.contains_iff_mem.1 hc) hk
  show (_ && rs.contains k.reg) = false
  rw [hno, Bool.and_false]

@[simp] theorem spares_sceOpen {id : Nat} : Effs Eff.spares (sceOpen id u) := by
  unfold sceOpen
  refine effs_seq_cons.2 ⟨effs_cons.2 ⟨spares_resetSlot (by decide), effs_nil⟩, ?_⟩
  simp [F.SCE_SLIVE1_QPI, F.SCE_SLIVE1_QPP, F.SCE_SLIVE1_QPB]

/-! ## Opening and closing a stream -/

@[simp] theorem spares_lscEncOpen {id : Nat} : Effs Eff.spares (lscEncOpen id u) := by
  unfold lscEncOpen
  split <;> simp [F.ECE_LSCLIVE1_QK, F.ECE_LSCLIVE1_QD, F.ECE_OSFCNT2_HDRS]

@[simp] theorem spares_lscDecOpen {id : Nat} : Effs Eff.spares (lscDecOpen id u) := by
  simp [lscDecOpen, F.ECE_OSFSTAT_NOHDR]

@[simp] theorem spares_updHead {id : Nat} {f : Head → Head} : Effs Eff.spares (updHead id f u) := by
  simp [updHead]

@[simp] theorem spares_headOpen {id : Nat} : Effs Eff.spares (headOpen id u) := by
  simp [headOpen]

@[simp] theorem spares_endWindow {id reason st : Nat} {w : AdaptWin} : Effs Eff.spares (endWindow id w reason st u) := by
  simp [endWindow, F.FXG_ADPSTAT_REASON]

@[simp] theorem spares_closeHead {id : Nat} : Effs Eff.spares (closeHead id u) := by
  simp [closeHead]

@[simp] theorem spares_updIng {id : Nat} {f : Ing → Ing} : Effs Eff.spares (updIng id f u) := by
  simp [updIng]

@[simp] theorem spares_dropFlow {id : Nat} : Effs Eff.spares (dropFlow id u) := by
  simp [dropFlow]

@[simp] theorem spares_dirRegister {id : Nat} : Effs Eff.spares (dirRegister id u) := by
  have happly (m : DirMsg) : Effs Eff.spares (dirApply m u) := by
    cases m <;> simp [dirApply]
  simp [dirRegister, dirSend, happly]

@[simp] theorem spares_openSlot {n epoch id : Nat} {p : List Byte} : Effs Eff.spares (openSlot n epoch id p u) := by
  unfold openSlot
  refine effs_seq_cons.2 ⟨by simp, effs_seq_cons.2 ⟨effs_cons.2 ⟨spares_resetSlot (by decide), effs_nil⟩, ?_⟩⟩
  simp [F.SMV_SLIVE0_STATE]

@[simp] theorem spares_openRun {n : Nat} {r : LiveReq} {p : List Byte} : Effs Eff.spares (openRun n r p u) := by
  unfold openRun
  dsimp only
  split <;> simp

@[simp] theorem spares_closeRun {n : Nat} {r : LiveReq} {p : List Byte} : Effs Eff.spares (closeRun n r p u) := by
  simp [closeRun, F.SMV_SLIVE0_STATE]

/-! ## The other opcodes -/

@[simp] theorem spares_loadprogRun {n : Nat} {p : List Byte} {k : Nat → Act} (hk : ∀ e v, Effs Eff.spares (k e v)) :
    Effs Eff.spares (loadprogRun n p k u) := by
  unfold loadprogRun
  split <;> simp [hk]

@[simp] theorem spares_unloadprogRun {n : Nat} {p : List Byte} {k : Nat → Act} (hk : ∀ e v, Effs Eff.spares (k e v)) :
    Effs Eff.spares (unloadprogRun n p k u) := by
  unfold unloadprogRun
  dsimp only
  split
  · exact hk _ _
  · split <;> simp [hk, tsetDrop]

@[simp] theorem spares_submitTo {n t q flags : Nat} {r : LiveReq} {bs : List Byte} :
    Effs Eff.spares (submitTo n r t q bs flags u) := by
  simp [submitTo]

@[simp] theorem spares_inputRun {n : Nat} {r : LiveReq} {p : List Byte} : Effs Eff.spares (inputRun n r p u) := by
  unfold inputRun
  dsimp only
  split
  · simp
  · split <;> simp

@[simp] theorem spares_submitRun {n : Nat} {r : LiveReq} {p : List Byte} : Effs Eff.spares (submitRun n r p u) := by
  unfold submitRun
  dsimp only
  split
  · simp
  · split <;> simp

@[simp] theorem spares_execute {n opc : Nat} {r : LiveReq} {p : List Byte} : Effs Eff.spares (execute n opc r p u) := by
  simp [execute, barrierRun, addLive, keyreqRun, adaptRun, adaptQueue, revertRun, revertHead]

/-! ## Requests -/

@[simp] theorem spares_answer {o : Origin} {opc st : Nat} {h : ReqHdr} {p : List Byte} :
    Effs Eff.spares (answer o opc h p st u) := spares_deliver

@[simp] theorem spares_duplicate {o : Origin} {opc : Nat} {h : ReqHdr} {p : List Byte} {e : WinEntry} :
    Effs Eff.spares (duplicate o opc h p e u) := by
  cases hd : e.done <;> simp [duplicate, hd, F.SMV_SCOND3_DUP]

@[simp] theorem spares_accept {o : Origin} {opc : Nat} {h : ReqHdr} {p : List Byte} {newer : Bool} :
    Effs Eff.spares (accept o opc h p newer u) := by
  simp [accept, F.SMV_SLIVE1_HIGH]

/-- Whatever a request says, it is handled within these bounds. -/
@[simp] theorem spares_handleRequest {o : Origin} {opc : Nat} {h : ReqHdr} {p : List Byte} :
    Effs Eff.spares (handleRequest o opc h p u) := by
  unfold handleRequest
  dsimp only
  split
  · simp
  · split
    · simp
    · split
      · simp
      · split
        · simp
        · split <;> simp

end Sys2Proof.Machine
end

section
/-! What the end of a transfer does (R330 to R338): its tag is free, no transfer joins, and the rings and the registers that a request
spares are left alone. -/
namespace Sys2Proof.Machine

variable {u : State}

/-! ## What a transfer's end leaves alone -/

/-- The effect adds no transfer to a tile, and leaves its submission rings and the held registers alone. -/
@[simp] def Eff.ends : Eff → Prop
  | .tile _ f => ∀ c, (f c).xfers ⊆ c.xfers ∧ (f c).sqRing = c.sqRing
  | .inst _ _ => True
  | e => e.spares

theorem Eff.ends_of_spares {e : Eff} (h : e.spares) : e.ends := by
  cases e with
  | tile t f => exact fun c => ⟨(h c).1 ▸ List.Subset.refl _, (h c).2.2⟩
  | inst n f => trivial
  | _ => exact h

/-- What handles a request may stand in the end of a transfer. -/
@[simp] theorem ends_of_spares {l : List Eff} (h : Effs Eff.spares l) : Effs Eff.ends l := h.mono fun _ => Eff.ends_of_spares

@[simp] theorem ends_freeXfer {t tag : Nat} : Effs Eff.ends (freeXfer t tag u) := by
  simp [freeXfer, syncTags, F.SMV_TAGS_INUSE, F.SMV_TAGS_PEAK]

@[simp] theorem ends_updItem {t q slot : Nat} {f : Item → Item} : Effs Eff.ends (updItem t q slot f u) := by
  simp [updItem]

@[simp] theorem ends_leaveFlight {n : Nat} : Effs Eff.ends (leaveFlight n u) := by
  simp [leaveFlight, F.PRT_IFLIGHT_COUNT]

@[simp] theorem spares_yardReturn {t a n : Nat} : Effs Eff.spares (yardReturn t a n u) := by
  simp [yardReturn]

@[simp] theorem ends_fetchDone {t : Nat} {x : Xfer} : Effs Eff.ends (fetchDone t x u) := by
  have htake (slot : Nat) (v : State) : Effs Eff.ends (takeSlot t x.q slot v) := by
    simp [takeSlot]
  simp [fetchDone, htake, F.SMV_QHEAD_HEAD]

/-- Once an item has left the chip, the rest of its completion is within a request's bounds. -/
theorem spares_finishItem_tail {t st digest : Nat} {it : Item} {conds : List Nat} {live : Option Nat} :
    Effs Eff.spares (Act.seq [.when (bitOf it.flags 3 && !bitOf it.flags 2) (workRecord it.stream it.frame st digest),
      countConditions it.stream conds, .opt live fun id => finishLive id t it.q it.slot st digest] u) := by
  simp

@[simp] theorem ends_finishItem {t st digest : Nat} {it : Item} {conds : List Nat} :
    Effs Eff.ends (finishItem t it st digest conds u) :=
  effs_seq_cons.2 ⟨by simp [dropItem], ends_of_spares spares_finishItem_tail⟩

@[simp] theorem ends_settleItem {t q slot : Nat} : Effs Eff.ends (settleItem t q slot u) := by
  unfold settleItem
  split <;> simp

@[simp] theorem ends_writeSettled {t : Nat} {x : Xfer} : Effs Eff.ends (writeSettled t x u) := by
  simp [writeSettled]

@[simp] theorem spares_erPush {t n : Nat} {c : Cpl} : Effs Eff.spares (erPush t n c u) := by
  simp [erPush, erWrite, F.SMV_ERTAIL_TAIL, F.SMV_ERDROP_COUNT]

@[simp] theorem ends_writeFailed {t st : Nat} {x : Xfer} : Effs Eff.ends (writeFailed t x st u) := by
  simp [writeFailed, F.SMV_SLIVE0_FPW]

@[simp] theorem ends_writeDone {t st : Nat} {x : Xfer} : Effs Eff.ends (writeDone t x st u) := by
  simp [writeDone]

@[simp] theorem ends_readDone {t : Nat} {x : Xfer} {data : List Byte} {bad : List Nat} : Effs Eff.ends (readDone t x data bad u) := by
  simp [readDone]

@[simp] theorem ends_endXfer {t st : Nat} {x : Xfer} {data : Option (List Byte × Bool)} : Effs Eff.ends (endXfer t x st data u) := by
  cases data <;> simp [endXfer]

@[simp] theorem spares_ringSkip {t r : Nat} : Effs Eff.spares (ringSkip t r u) := by
  simp [ringSkip, F.SMV_SQHEAD_HEAD]

/-- With `ST_LINK_DOWN` a ring is not fetched on. -/
@[simp] theorem ends_hostReadEnd_linkDown {t : Nat} {x : Xfer} : Effs Eff.ends (hostReadEnd t x 0x0301 none u) := by
  simp [hostReadEnd]

/-- No transfer of the tile is left that was not there. -/
theorem xfers_subset_of_ends {es : List Eff} (h : Effs Eff.ends es) (k : Nat) : ((u.run es).tile k).xfers ⊆ (u.tile k).xfers := by
  refine run_keeps u es (P := fun v => (v.tile k).xfers ⊆ (u.tile k).xfers) (fun v hv e he => ?_) (List.Subset.refl _)
  cases e with
  | tile t f =>
    rw [tile_run]
    split
    · next ht => exact List.Subset.trans (h _ he (v.tile t)).1 (ht ▸ hv)
    · exact hv
  | mem a bs => simpa [State.tile, Eff.run] using hv
  | _ => exact hv

/-! ## The tag of an ended transfer is free -/

/-- No transfer of the tile holds the tag. -/
def State.tagFree (s : State) (t tag : Nat) : Prop := ∀ y ∈ (s.tile t).xfers, y.tag ≠ tag

theorem tagFree_of_ends {t tag : Nat} {es : List Eff} (h : u.tagFree t tag) (hes : Effs Eff.ends es) : (u.run es).tagFree t tag :=
  fun y hy => h y (xfers_subset_of_ends hes t hy)

/-- A tag freed among the steps of a transfer's end stays free. -/
theorem tagFree_seq_head {t tag : Nat} {a : Act} {l : List Act} (h : (u.then a).tagFree t tag)
    (hl : Effs Eff.ends (Act.seq l (u.then a))) : (u.then (.seq (a :: l))).tagFree t tag := by
  rw [then_seq_cons]
  exact tagFree_of_ends h hl

/-- The context of the tile once a transfer has left its tag. -/
theorem tile_freeXfer (s : State) (t tag : Nat) :
    (s.then (freeXfer t tag)).tile t = { s.tile t with xfers := (s.tile t).xfers.filter (·.tag != tag) } := by
  have hsync (v : State) : (v.then (syncTags t)).tile t = v.tile t := (rfl)
  rw [freeXfer, then_seq_cons, then_seq_cons, then_seq_nil, hsync, then_updT, tile_run, if_pos rfl]

theorem tagFree_freeXfer {t tag : Nat} : (u.then (freeXfer t tag)).tagFree t tag := by
  intro y hy
  rw [tile_freeXfer] at hy
  simpa using (List.mem_filter.1 hy).2

theorem tagFree_seq_freeXfer {t tag : Nat} {l : List Act} (h : ∀ v, Effs Eff.ends (Act.seq l v)) :
    (u.then (.seq (freeXfer t tag :: l))).tagFree t tag :=
  tagFree_seq_head tagFree_freeXfer (h _)

theorem tagFree_writeSettled {t : Nat} {x : Xfer} : (u.then (writeSettled t x)).tagFree t x.tag :=
  tagFree_seq_freeXfer fun v => by simp

theorem tagFree_writeDone {t st : Nat} {x : Xfer} : (u.then (writeDone t x st)).tagFree t x.tag := by
  have hlast (a : Act) : (u.then (.seq [a, writeSettled t x])).tagFree t x.tag := by
    rw [then_seq_cons, then_seq_cons, then_seq_nil]
    exact tagFree_writeSettled
  unfold State.then writeDone
  split_ifs
  · exact tagFree_seq_freeXfer fun v => by simp
  · exact hlast _
  · exact hlast _
  · exact hlast _
  · exact hlast _

/-- However a transfer ends, its tag is free (R332). -/
theorem tagFree_endXfer {t st : Nat} {x : Xfer} {data : Option (List Byte × Bool)} :
    (u.then (endXfer t x st data)).tagFree t x.tag := by
  unfold State.then endXfer
  split_ifs
  · exact tagFree_freeXfer
  · exact tagFree_seq_freeXfer fun v => by simp
  · exact tagFree_writeDone
  · exact tagFree_seq_freeXfer fun v => by simp
  · cases data with
    | some d => exact tagFree_seq_freeXfer fun v => by simp
    | none =>
      show (u.then (.seq [_, readDone t x _ _])).tagFree t x.tag
      rw [then_seq_cons]
      exact tagFree_seq_head (tagFree_seq_freeXfer fun v => by simp) effs_seq_nil
  · exact tagFree_seq_freeXfer fun v => by
      rw [effs_seq_cons, effs_read, effs_opt]
      exact ⟨fun i _ => ends_finishItem, effs_seq_nil⟩

theorem tagFree_hostReadEnd_linkDown {t : Nat} {x : Xfer} : (u.then (hostReadEnd t x 0x0301 none)).tagFree t x.tag := by
  unfold State.then hostReadEnd
  split_ifs
  · exact tagFree_endXfer
  · exact tagFree_seq_freeXfer fun v => by simp
  · exact tagFree_seq_freeXfer fun v => by simp

end Sys2Proof.Machine
end

section
/-! The PCIe link (R33, R320, R371, R372): its state, what its loss ends, and the rings that a reset of the link stops. -/
namespace Sys2Proof.Machine
open Sys2Proof.Say

variable {s u : State}

/-- What one round of a loop makes of a state in which `R` holds, and every later round keeps, holds after the loop. The rounds before
keep `R`. -/
theorem then_each_reaches {α : Type} {l : List α} {f : α → Act} {R Q : State → Prop} {a : α} (ha : a ∈ l)
    (hR : ∀ b, b ≠ a → ∀ u, R u → R (u.then (f b))) (hset : ∀ u, R u → Q (u.then (f a)))
    (hkeep : ∀ b u, Q u → Q (u.then (f b))) (hs : R s) : Q (s.then (.each l f)) := by
  have hrest (l : List α) (u : State) (hu : Q u) : Q (u.then (.each l f)) := by
    induction l generalizing u with
    | nil => exact hu
    | cons b l ih => exact then_each_cons u b l f ▸ ih _ (hkeep b u hu)
  induction l generalizing s with
  | nil => cases ha
  | cons b l ih =>
    rw [then_each_cons]
    by_cases hb : b = a
    · subst hb
      exact hrest l _ (hset s hs)
    · exact ih ((List.mem_cons.1 ha).resolve_left (Ne.symm hb)) (hR b hb s hs)

/-! ## The link -/

theorem Eff.off_of_spares {r : Reg} (hr : r ∈ heldRegs) {e : Eff} (h : e.spares) : e.off r := by
  cases e with
  | fld f | countU f | word f => exact fun hf => h (hf ▸ hr)
  | resetRegs p => exact fun k hk => h k (hk ▸ hr)
  | _ => trivial

theorem Eff.off_of_ends {r : Reg} (hr : r ∈ heldRegs) {e : Eff} (h : e.ends) : e.off r := by
  cases e with
  | tile => trivial
  | inst => trivial
  | _ => exact Eff.off_of_spares hr h

theorem fetchOne_off_pciStat {t r : Nat} : Effs (Eff.off .LNK_PCISTAT) (fetchOne t r u) := by
  have hreq {l : List Eff} (h : Effs Eff.spares l) : Effs (Eff.off .LNK_PCISTAT) l :=
    h.mono fun _ => Eff.off_of_spares (by decide)
  have htake {b : List Byte} {pz : Bool} {v : State} : Effs Eff.spares (ringTake t r b pz v) := by
    simp [ringTake, F.SMV_SQHEAD_HEAD]
  unfold fetchOne
  dsimp only
  split_ifs
  · exact effs_nil
  · exact effs_nil
  · split
    · simp [Eff.off]
    · exact hreq (by simp)
  · exact hreq htake
  · exact hreq spares_ringSkip

/-- Fetching requests, and handling them, leaves the link's state alone. -/
theorem pumpAllRings_off_pciStat : AllEff (Eff.off .LNK_PCISTAT) pumpAllRings :=
  .each fun _ _ _ => effs_each fun _ _ => effs_each fun _ _ => fetchOne_off_pciStat

theorem Eff.offF_of_off {f : Fld} {e : Eff} (h : e.off f.reg) : e.offF f := by
  cases e with
  | fld g | countU g => exact .inl (Ne.symm h)
  | _ => exact h

/-- A field of the link's state reads as `PCIE_LINK_UP` sets it, where no later field of the same list overlaps it. -/
theorem get_then_linkUp {f : Fld} (hreg : f.reg = .LNK_PCISTAT) (hok : f.ok = true) (v : Nat) (pre post : List Eff)
    (hpost : ∀ e ∈ post, e.offF f) :
    (s.then (.seq [.eff (pre ++ .fld f pcieTile 0 v :: post), pumpAllRings])).get f pcieTile 0 = v % 2 ^ (f.hi + 1 - f.lo) := by
  rw [then_seq_cons, then_seq_cons, then_seq_nil,
    get_off _ hok (pumpAllRings_off_pciStat.mono fun _ h => Eff.offF_of_off (hreg ▸ h))]
  exact get_run_fld s hok pcieTile 0 v pre post hpost

theorem pcieLinkUp_shows (h : s.get F.MGT_PARTID_TILES_OK pkgTile 0 = 0 ∨ s.inService pcieTile = true) (g w v : Nat) :
    gives (.pcieLinkUp g w v) s fun t => t.get F.LNK_PCISTAT_DLUP pcieTile 0 = 1 ∧ t.get F.LNK_PCISTAT_GEN pcieTile 0 = g % 2 ^ 4 ∧
      t.get F.LNK_PCISTAT_WIDTH pcieTile 0 = w % 2 ^ 8 ∧ t.get F.LNK_PCISTAT_NUMVF pcieTile 0 = v % 2 ^ 16 := by
  have hgo : ¬ (s.get F.MGT_PARTID_TILES_OK pkgTile 0 ≠ 0 ∧ (!s.inService pcieTile) = true) := by
    rcases h with h | h <;> simp [h]
  have hact : s.then (pcieLinkUpX g w v) = s.then (.seq [.eff [.fld F.LNK_PCISTAT_DLUP pcieTile 0 1,
      .fld F.LNK_PCISTAT_GEN pcieTile 0 g, .fld F.LNK_PCISTAT_WIDTH pcieTile 0 w, .fld F.LNK_PCISTAT_NUMVF pcieTile 0 v],
      pumpAllRings]) := by
    simp only [State.then, pcieLinkUpX, if_neg hgo]
  refine done_holds fun t hst => ?_
  rw [hact] at hst
  refine ⟨(hst.get _ _ _ (by decide)).trans ?_, (hst.get _ _ _ (by decide)).trans ?_, (hst.get _ _ _ (by decide)).trans ?_,
    (hst.get _ _ _ (by decide)).trans ?_⟩
  · exact get_then_linkUp rfl (by decide) 1 [] [_, _, _]
      (by simp [Eff.offF, F.LNK_PCISTAT_DLUP, F.LNK_PCISTAT_GEN, F.LNK_PCISTAT_WIDTH, F.LNK_PCISTAT_NUMVF])
  · exact get_then_linkUp rfl (by decide) g [_] [_, _]
      (by simp [Eff.offF, F.LNK_PCISTAT_GEN, F.LNK_PCISTAT_WIDTH, F.LNK_PCISTAT_NUMVF])
  · exact get_then_linkUp rfl (by decide) w [_, _] [_] (by simp [Eff.offF, F.LNK_PCISTAT_WIDTH, F.LNK_PCISTAT_NUMVF])
  · exact get_then_linkUp rfl (by decide) v [_, _, _] [] (by simp)

/-! ## The loss of the link -/

/-- Every read of host memory that the tiles listed hold ends with `ST_LINK_DOWN`. -/
def endHostReads (l : List (Nat × Tile)) : Act :=
  .each l fun e => .each (e.2.xfers.filter (·.host)) fun x => hostReadEnd e.1 x 0x0301 none

theorem then_pcieLinkDown :
    s.then pcieLinkDownX = (s.then (setF F.LNK_PCISTAT_DLUP pcieTile 0)).then (endHostReads s.tiles) :=
  (then_seq_cons s _ _).trans (then_seq_cons _ _ _)

theorem ends_endHostReads {l : List (Nat × Tile)} : Effs Eff.ends (endHostReads l u) :=
  effs_each fun _ _ => effs_each fun _ _ => ends_hostReadEnd_linkDown

theorem get_dlup_pcieLinkDown : (s.then pcieLinkDownX).get F.LNK_PCISTAT_DLUP pcieTile 0 = 0 := by
  have hoff : AllEff (Eff.offF F.LNK_PCISTAT_DLUP) (endHostReads s.tiles) := fun v =>
    ends_endHostReads.mono fun e he => Eff.offF_of_off (Eff.off_of_ends (by decide) he)
  rw [then_pcieLinkDown, get_off _ (by decide) hoff, get_then_setF s _ _ _ (by decide), Nat.zero_mod]

/-- Each host read that a tile held has lost its tag. -/
theorem tagFree_endHostReads {l : List (Nat × Tile)} {e : Nat × Tile} (he : e ∈ l) {x : Xfer} (hx : x ∈ e.2.xfers)
    (hhost : x.host = true) : (s.then (endHostReads l)).tagFree e.1 x.tag := by
  have hkeep (e' : Nat × Tile) (x' : Xfer) (u : State) (hu : u.tagFree e.1 x.tag) :
      (u.then (hostReadEnd e'.1 x' 0x0301 none)).tagFree e.1 x.tag := tagFree_of_ends hu ends_hostReadEnd_linkDown
  refine then_each_reaches (R := fun _ => True) (Q := fun u => u.tagFree e.1 x.tag) he (fun _ _ _ _ => trivial) (fun u _ => ?_)
    (fun b u hu => tagFree_of_ends hu (effs_each fun _ _ => ends_hostReadEnd_linkDown)) trivial
  exact then_each_reaches (R := fun _ => True) (Q := fun u => u.tagFree e.1 x.tag) (List.mem_filter.2 ⟨hx, hhost⟩)
    (fun _ _ _ _ => trivial) (fun u _ => tagFree_hostReadEnd_linkDown) (hkeep e) trivial

/-- No access to host memory stays in flight (R371): none is new, and each old one has lost its tag. -/
theorem no_host_pcieLinkDown (k : Nat) : ∀ y ∈ ((s.then pcieLinkDownX).tile k).xfers, y.host = false := by
  intro y hy
  rw [then_pcieLinkDown] at hy
  rw [Bool.eq_false_iff]
  intro hhost
  have hold : y ∈ (s.tile k).xfers := xfers_subset_of_ends (u := s.then _) ends_endHostReads k hy
  rcases mapGet_eq_or_mem id {} s.tiles k with hd | ⟨e, he, rfl, hv⟩
  · have hempty : (s.tile k).xfers = [] := congrArg Tile.xfers hd
    rw [hempty] at hold
    cases hold
  · have hxe : y ∈ e.2.xfers := hv ▸ hold
    exact tagFree_endHostReads he hxe hhost y hy rfl

/-! ## Rings in the host window -/

/-- A submission ring of a tile is disabled. -/
def State.ringOff (s : State) (t r : Nat) : Prop :=
  s.get F.SMV_SQCFG_EN t r = 0 ∧ ((s.tile t).sqRing.getD r {}).on = false

/-- The effect enables no submission ring. -/
@[simp] def Eff.enablesNone : Eff → Prop
  | .tile _ f => ∀ c r, (c.sqRing.getD r {}).on = false → ((f c).sqRing.getD r {}).on = false
  | .fld f _ _ v => f.reg ≠ .SMV_SQCFG ∨ f = F.SMV_SQCFG_EN ∧ v = 0
  | e => e.off .SMV_SQCFG

@[simp] theorem enablesNone_of_ends {l : List Eff} (h : Effs Eff.ends l) : Effs Eff.enablesNone l := by
  refine h.mono fun e he => ?_
  have hoff : e.off .SMV_SQCFG := Eff.off_of_ends (by decide) he
  cases e with
  | tile t f => exact fun c r hr => (he c).2 ▸ hr
  | fld f => exact .inl hoff
  | _ => exact hoff

/-- A field that reads zero reads zero after it is set to zero, wherever. -/
theorem get_setF_zero {f : Fld} (hok : f.ok = true) {t ix : Nat} (h : s.get f t ix = 0) (t' ix' : Nat) :
    (Eff.run s (.fld f t' ix' 0)).get f t ix = 0 := by
  by_cases hk : t' % 128 = t % 128 ∧ ix' % 65536 = ix % 65536
  · have hself := get_setF s f t' ix' 0 hok
    rw [Nat.zero_mod] at hself
    unfold State.get at hself ⊢
    rwa [run_fld_eq, reg_code _ _ t ix t' ix' hk.1.symm hk.2.symm]
  · unfold State.get
    rw [run_fld_eq, reg_setF_ne s f t' ix' 0 f.reg t ix (by tauto)]
    exact h

theorem ringOff_run {t r : Nat} {e : Eff} (he : e.enablesNone) (h : s.ringOff t r) : (Eff.run s e).ringOff t r := by
  obtain ⟨hen, hon⟩ := h
  have hoff (hreg : e.off .SMV_SQCFG) : (Eff.run s e).get F.SMV_SQCFG_EN t r = 0 :=
    (get_run_off s (by decide) (Eff.offF_of_off hreg) t r).trans hen
  cases e with
  | tile k f =>
    refine ⟨hoff trivial, ?_⟩
    rw [tile_run]
    split
    · next hk => exact he _ _ (hk ▸ hon)
    · exact hon
  | fld f k ix v =>
    rcases he with hf | ⟨rfl, rfl⟩
    · exact ⟨hoff hf, hon⟩
    · exact ⟨get_setF_zero (by decide) hen k ix, hon⟩
  | mem a bs => exact ⟨hoff trivial, by simpa [State.tile, Eff.run] using hon⟩
  | _ => exact ⟨hoff he, hon⟩

theorem ringOff_of_enablesNone {t r : Nat} {es : List Eff} (hes : Effs Eff.enablesNone es) (h : s.ringOff t r) :
    (s.run es).ringOff t r :=
  run_keeps s es (P := fun u => u.ringOff t r) (fun _ hu e he => ringOff_run (hes e he) hu) h

/-- What stops one submission ring. -/
def stopSq (t r : Nat) : Act := .seq [setFx F.SMV_SQCFG_EN t r 0, setRing t .sq r {}]

/-- Missing rings are off, as those that are added. -/
theorem getD_padded (l : List RingCfg) (n r : Nat) : (l ++ List.replicate n ({} : RingCfg)).getD r {} = l.getD r {} := by
  grind

theorem getD_setAt (l : List RingCfg) (r r' : Nat) (g : RingCfg) :
    (setAt l r g).getD r' {} = if r = r' ∧ r < l.length then g else l.getD r' {} := by
  unfold setAt
  grind

theorem enablesNone_stopSq {t r : Nat} : Effs Eff.enablesNone (stopSq t r u) := by
  refine effs_seq_cons.2 ⟨effs_setFx.2 (.inr ⟨rfl, rfl⟩), effs_seq_cons.2 ⟨effs_updT.2 fun c r' h => ?_, effs_seq_nil⟩⟩
  refine (congrArg RingCfg.on (getD_setAt _ r r' {})).trans ?_
  split
  · rfl
  · rwa [getD_padded]

theorem ringOff_stopSq {t r : Nat} (hr : r < 4) : (u.then (stopSq t r)).ringOff t r := by
  rw [stopSq, then_seq_cons, then_seq_cons, then_seq_nil]
  refine ⟨(get_then_setFx u _ t r 0 (by decide)).trans (Nat.zero_mod _), ?_⟩
  rw [setRing, then_updT, tile_run, if_pos rfl]
  refine congrArg RingCfg.on ((getD_setAt _ r r {}).trans (if_pos ⟨rfl, ?_⟩))
  rw [List.length_append, List.length_replicate]
  omega

/-- What the round of one ring pair of a tile does. -/
theorem enablesNone_stopPair {t r : Nat} {sq cq : Bool} : Effs Eff.enablesNone (Act.seq
    [.when sq (stopSq t r), .when cq (.seq [setFx F.SMV_CQCFG_EN t r 0, setRing t .cq r {}])] u) := by
  refine effs_seq_cons.2 ⟨effs_when.2 fun _ => enablesNone_stopSq, ?_⟩
  simp [setRing, F.SMV_CQCFG_EN]

/-- Stopping the rings of a tile that lie in the host window enables none. -/
theorem enablesNone_stopHostRings {t : Nat} : Effs Eff.enablesNone (stopHostRings t u) := by
  refine effs_seq_cons.2 ⟨effs_each fun r v => enablesNone_stopPair, ?_⟩
  simp [setRing, F.SMV_ERCFG_EN]

/-- The effect leaves the context of one tile alone. -/
@[simp] def Eff.offTileAt (k : Nat) : Eff → Prop
  | .tile t _ => t ≠ k
  | _ => True

theorem tile_of_offTileAt {k : Nat} {es : List Eff} (h : Effs (Eff.offTileAt k) es) : (u.run es).tile k = u.tile k := by
  refine run_keeps u es (P := fun v => v.tile k = u.tile k) (fun v hv e he => ?_) rfl
  cases e with
  | tile t f =>
    rw [tile_run, if_neg (h _ he)]
    exact hv
  | mem a bs => simpa [State.tile, Eff.run] using hv
  | _ => exact hv

theorem tile_stopHostRings_ne {t k : Nat} (h : t ≠ k) : (u.then (stopHostRings t)).tile k = u.tile k :=
  tile_of_offTileAt (by simp [stopHostRings, setRing, h])

/-- A ring that was on, with its base in the host window, is stopped (R372). -/
theorem ringOff_stopHostRings {k r : Nat} (hr : r < 4) (hon : ((u.tile k).sqRing.getD r {}).on = true)
    (hhost : isHost ((u.tile k).sqRing.getD r {}).base = true) : (u.then (stopHostRings k)).ringOff k r := by
  unfold stopHostRings
  rw [then_app, then_seq_cons]
  refine ringOff_of_enablesNone (by simp [setRing, F.SMV_ERCFG_EN]) ?_
  refine then_each_reaches (R := fun _ => True) (Q := fun v => v.ringOff k r) (List.mem_range.2 hr) (fun _ _ _ _ => trivial)
    (fun v _ => ?_) (fun r' v hv => ringOff_of_enablesNone enablesNone_stopPair hv) trivial
  rw [then_seq_cons, then_when, if_pos (by rw [hon, hhost]; rfl)]
  exact ringOff_of_enablesNone (by simp [setRing, F.SMV_CQCFG_EN]) (ringOff_stopSq hr)

theorem then_perstAssert : s.then perstAssertX =
    ((s.then (.each (List.range 64) stopHostRings)).then pcieLinkDownX).then (setF F.LNK_PCISTAT_NUMVF pcieTile 0) := by
  rw [perstAssertX, then_seq_cons, then_seq_cons, then_seq_cons, then_seq_nil]

theorem get_dlup_perstAssert : (s.then perstAssertX).get F.LNK_PCISTAT_DLUP pcieTile 0 = 0 := by
  have hnumvf : AllEff (Eff.offF F.LNK_PCISTAT_DLUP) (setF F.LNK_PCISTAT_NUMVF pcieTile 0) := .setF (.inr (.inr (by decide)))
  rw [then_perstAssert, get_off _ (by decide) hnumvf]
  exact get_dlup_pcieLinkDown

theorem get_numvf_perstAssert : (s.then perstAssertX).get F.LNK_PCISTAT_NUMVF pcieTile 0 = 0 := by
  rw [then_perstAssert, get_then_setF _ _ _ _ (by decide), Nat.zero_mod]

theorem no_host_perstAssert (k : Nat) : ∀ y ∈ ((s.then perstAssertX).tile k).xfers, y.host = false := by
  rw [then_perstAssert, then_setF, tile_setReg]
  exact no_host_pcieLinkDown k

theorem ringOff_perstAssert {k r : Nat} (hk : k < 64) (hr : r < 4) (hon : ((s.tile k).sqRing.getD r {}).on = true)
    (hhost : isHost ((s.tile k).sqRing.getD r {}).base = true) : (s.then perstAssertX).ringOff k r := by
  have hstop : (s.then (.each (List.range 64) stopHostRings)).ringOff k r :=
    then_each_reaches (R := fun u => u.tile k = s.tile k) (Q := fun u => u.ringOff k r) (List.mem_range.2 hk)
      (fun j hj u hu => (tile_stopHostRings_ne hj).trans hu)
      (fun u hu => ringOff_stopHostRings hr (hu ▸ hon) (hu ▸ hhost))
      (fun j u hu => ringOff_of_enablesNone enablesNone_stopHostRings hu) rfl
  rw [then_perstAssert, then_pcieLinkDown]
  refine ringOff_of_enablesNone ?_ (ringOff_of_enablesNone (enablesNone_of_ends ends_endHostReads) (ringOff_of_enablesNone ?_ hstop))
  · simp [F.LNK_PCISTAT_NUMVF]
  · simp [F.LNK_PCISTAT_DLUP]

/-! ## Function level resets -/

/-- The effect leaves the windows of the functions, the states of the tenants and the marks of function level resets alone. -/
@[simp] def Eff.keepsReset : Eff → Prop
  | .inst _ f => ∀ x, (f x).flr = x.flr
  | e => e.off .LNK_HWE_LO ∧ e.off .LNK_HWE_HI ∧ e.offF F.PRT_ISTAT_STATE

@[simp] theorem keepsReset_of_spares {l : List Eff} (h : Effs Eff.spares l) : Effs Eff.keepsReset l := by
  refine h.mono fun e he => ?_
  have hoff {r : Reg} (hr : r ∈ heldRegs) : e.off r := Eff.off_of_spares hr he
  cases e with
  | inst n f => exact he
  | _ => exact ⟨hoff (by decide), hoff (by decide), Eff.offF_of_off (f := F.PRT_ISTAT_STATE) (hoff (by decide))⟩

@[simp] theorem keepsReset_nextEpoch {n : Nat} {ts : List Nat} : Effs Eff.keepsReset (nextEpoch n ts u) := by
  simp [nextEpoch, Eff.off, Eff.offF, F.PRT_ISTAT_STATE, F.PRT_ISTAT_EPOCH, F.PRT_TOWN_EPOCH]

@[simp] theorem keepsReset_stopRings {t : Nat} : Effs Eff.keepsReset (stopRings t u) := by
  simp [stopRings, Eff.off, Eff.offF, F.PRT_ISTAT_STATE, F.SMV_SQCFG_EN, F.SMV_CQCFG_EN, F.SMV_ERCFG_EN]

@[simp] theorem spares_syncCur {t : Nat} : Effs Eff.spares (syncCur t u) := by
  unfold syncCur
  dsimp only
  split <;> simp [F.ARR_CUR_BUSY, F.ARR_CUR_QUEUE, F.ARR_CUR_STREAM, F.SFU_STAT_FUSED, F.SFU_STAT_ITEM, F.SFU_STAT_FUNC,
    F.SFU_STAT_COMPAT, F.SFU_STAT_STREAM]

@[simp] theorem spares_syncQstat {t : Nat} : Effs Eff.spares (syncQstat t u) := by
  simp [syncQstat, F.ARR_QSTAT_Q0, F.ARR_QSTAT_Q1, F.ARR_QSTAT_Q2, F.ARR_QSTAT_Q3]

@[simp] theorem spares_syncEce {t : Nat} : Effs Eff.spares (syncEce t u) := by
  simp [syncEce, F.ECE_INFLIGHT_ITEMS]

@[simp] theorem keepsReset_abandonTile {t : Nat} : Effs Eff.keepsReset (abandonTile t u) := by
  simp [abandonTile, Eff.off, Eff.offF, F.PRT_ISTAT_STATE, F.SMV_QHEAD_HEAD, F.SCE_STAT_BUSY]

@[simp] theorem spares_abandonStream {id : Nat} : Effs Eff.spares (abandonStream id u) := by
  simp [abandonStream, F.SMV_SLIVE0_INFLIGHT]

/-- What a tenant's reset sets before anything of the tenant is ended (R429). -/
def resetBegins (n cause : Nat) (destroy : Bool) : List Eff :=
  [.fld F.PRT_ISTAT_STATE pkgTile n (if destroy then instDestroying else instResetting), .fld F.PRT_ISTAT_PENDDES pkgTile n 0,
   .fld F.PRT_ISTAT_ESC pkgTile n 0, .fld F.PRT_ILAST_CAUSE pkgTile n cause]

/-- After it has begun, a reset changes neither the state nor what a function level reset has set. -/
theorem then_startReset (n cause : Nat) (destroy : Bool) : ∃ es, Effs Eff.keepsReset es ∧
    s.then (startReset n cause destroy) = (s.run (resetBegins n cause destroy)).run es := by
  unfold startReset
  rw [then_app, then_seq_cons]
  refine ⟨_, ?_, rfl⟩
  simp [Eff.off, Eff.offF, F.PRT_ISTAT_STATE, F.PRT_IRSTCNT_RESETS, F.PRT_IFLIGHT_COUNT]

end Sys2Proof.Machine
end

section
/-! Function level resets of virtual functions (R372, R423): an active tenant's reset begins, a free one's is done at once. -/
namespace Sys2Proof.Machine
open Sys2Proof.Say

variable {s u : State}

/-- A tenant's state, its mark of a function level reset and its function's window, as such a reset sets them. -/
def State.flrBegun (s : State) (n : Nat) : Prop :=
  s.instState n = instResetting ∧ (s.inst n).flr = true ∧
    ∀ e, e < 4 → s.reg .LNK_HWE_LO pcieTile (fnOf n * 4 + e) = 0 ∧ s.reg .LNK_HWE_HI pcieTile (fnOf n * 4 + e) = 0

theorem flr_run {n : Nat} {e : Eff} (he : e.keepsReset) : ((Eff.run u e).inst n).flr = (u.inst n).flr := by
  cases e with
  | inst m f =>
    rw [inst_run]
    split
    · next h => rw [he, h]
    · rfl
  | mem a bs => simp [State.inst, Eff.run]
  | _ => rfl

theorem flr_of_keepsReset {n : Nat} {es : List Eff} (h : Effs Eff.keepsReset es) : ((u.run es).inst n).flr = (u.inst n).flr :=
  run_keeps u es (P := fun v => (v.inst n).flr = (u.inst n).flr) (fun _ hv e he => (flr_run (h e he)).trans hv) rfl

theorem Eff.keepsReset.regs {e : Eff} (h : e.keepsReset) :
    e.off .LNK_HWE_LO ∧ e.off .LNK_HWE_HI ∧ e.offF F.PRT_ISTAT_STATE := by
  cases e with
  | inst n f => exact ⟨trivial, trivial, trivial⟩
  | _ => exact h

theorem flrBegun_of_keepsReset {n : Nat} {es : List Eff} (hes : Effs Eff.keepsReset es) (h : u.flrBegun n) :
    (u.run es).flrBegun n := by
  obtain ⟨hstate, hflr, hwin⟩ := h
  have hoff : Effs (fun e => e.off .LNK_HWE_LO ∧ e.off .LNK_HWE_HI ∧ e.offF F.PRT_ISTAT_STATE) es :=
    hes.mono fun _ => Eff.keepsReset.regs
  refine ⟨?_, (flr_of_keepsReset hes).trans hflr, fun e he => ⟨?_, ?_⟩⟩
  · exact (get_off u (a := .eff es) (by decide) (.eff fun x hx => (hoff x hx).2.2) _ _).trans hstate
  · exact (reg_off u (a := .eff es) (.eff fun x hx => (hoff x hx).1) _ _).trans (hwin e he).1
  · exact (reg_off u (a := .eff es) (.eff fun x hx => (hoff x hx).2.1) _ _).trans (hwin e he).2

/-- A register that a list of effects sets to zero reads zero, where the list sets only zeros. -/
theorem reg_run_zeros {r : Reg} {t ix : Nat} {es : List Eff} (h : ∀ e ∈ es, ∃ r' t' ix', e = .word r' t' ix' 0)
    (hmem : .word r t ix 0 ∈ es) : (s.run es).reg r t ix = 0 := by
  obtain ⟨pre, post, rfl⟩ := List.append_of_mem hmem
  rw [run_append, run_cons]
  refine run_keeps _ post (P := fun u => u.reg r t ix = 0) (fun u hu e he => ?_) ?_
  · obtain ⟨r', t', ix', rfl⟩ := h e (by simp [he])
    rw [run_word_eq, reg_setReg]
    split
    · simp
    · exact hu
  · rw [run_word_eq, reg_setReg, if_pos ⟨rfl, rfl, rfl⟩]
    simp

/-- The window entries of the function read zero. -/
theorem reg_clearWindow (fn : Nat) {e : Nat} (he : e < 4) :
    (s.then (clearWindow fn)).reg .LNK_HWE_LO pcieTile (fn * 4 + e) = 0 ∧
      (s.then (clearWindow fn)).reg .LNK_HWE_HI pcieTile (fn * 4 + e) = 0 := by
  have hzero : ∀ x ∈ (List.range 4).flatMap fun e =>
      [Eff.word .LNK_HWE_LO pcieTile (fn * 4 + e) 0, .word .LNK_HWE_HI pcieTile (fn * 4 + e) 0], ∃ r' t' ix', x = .word r' t' ix' 0 := by
    intro x hx
    obtain ⟨e, _, hx⟩ := List.mem_flatMap.1 hx
    simp only [List.mem_cons, List.not_mem_nil, or_false] at hx
    rcases hx with rfl | rfl <;> exact ⟨_, _, _, rfl⟩
  constructor
  · exact reg_run_zeros hzero (List.mem_flatMap.2 ⟨e, List.mem_range.2 he, by simp⟩)
  · exact reg_run_zeros hzero (List.mem_flatMap.2 ⟨e, List.mem_range.2 he, by simp⟩)

/-- Clearing a window sets its registers only. -/
theorem clearWindow_effs (fn : Nat) (P : Eff → Prop)
    (h : ∀ ix, P (.word .LNK_HWE_LO pcieTile ix 0) ∧ P (.word .LNK_HWE_HI pcieTile ix 0)) : AllEff P (clearWindow fn) := by
  intro u x hx
  obtain ⟨e, _, hx⟩ := List.mem_flatMap.1 hx
  simp only [List.mem_cons, List.not_mem_nil, or_false] at hx
  rcases hx with rfl | rfl
  · exact (h _).1
  · exact (h _).2

/-- The window of the function is cleared and the reset marked as a function level one, before it begins. -/
def flrMark (n : Nat) : Act := .seq [clearWindow (fnOf n), updI n fun x => { x with flr := true }]

theorem then_flrMark (n : Nat) :
    s.then (flrMark n) = Eff.run (s.then (clearWindow (fnOf n))) (.inst n fun x => { x with flr := true }) := by
  rw [flrMark, then_seq_cons, then_seq_cons, then_seq_nil, then_updI]

theorem instState_flrMark (n m : Nat) : (s.then (flrMark n)).instState m = s.instState m := by
  have hoff : AllEff (Eff.offF F.PRT_ISTAT_STATE) (clearWindow (fnOf n)) :=
    clearWindow_effs _ _ fun ix => by simp [Eff.offF, Eff.off, F.PRT_ISTAT_STATE]
  rw [then_flrMark, State.instState, State.instState, get_of_regs (run_inst_regs _ _ _), get_off s (by decide) hoff]

theorem then_pcieFlr_active {k : Nat} (h1 : 1 ≤ k) (h64 : k ≤ 64) (hact : s.instState (instOfVf k) = instActive) :
    s.then (pcieFlrX k) = (s.then (flrMark (instOfVf k))).then (startReset (instOfVf k) rstFlr false) := by
  have hno : ¬ (k = 0 ∨ 64 < k) := by omega
  have hfree : ¬ s.instState (instOfVf k) = instFree := by rw [hact]; decide
  have hstays := (instState_flrMark (s := s) (instOfVf k) (instOfVf k)).trans hact
  have hstart : (s.then (flrMark (instOfVf k))).then (resetCause (instOfVf k) rstFlr) =
      (s.then (flrMark (instOfVf k))).then (startReset (instOfVf k) rstFlr false) := by
    generalize s.then (flrMark (instOfVf k)) = u at hstays
    simp only [State.then, resetCause, if_pos hstays]
  have hsteps : s.then (pcieFlrX k) = s.then (.seq [clearWindow (fnOf (instOfVf k)),
      updI (instOfVf k) fun x => { x with flr := true }, resetCause (instOfVf k) rstFlr]) := by
    simp only [State.then, pcieFlrX, if_neg hno, if_neg hfree]
  rw [hsteps, ← hstart, flrMark]
  simp only [then_seq_cons, then_seq_nil]

theorem flrBegun_pcieFlr {k : Nat} (h1 : 1 ≤ k) (h64 : k ≤ 64) (hact : s.instState (instOfVf k) = instActive) :
    (s.then (pcieFlrX k)).flrBegun (instOfVf k) := by
  obtain ⟨es, hes, heq⟩ := then_startReset (s := s.then (flrMark (instOfVf k))) (instOfVf k) rstFlr false
  rw [then_pcieFlr_active h1 h64 hact, heq]
  refine flrBegun_of_keepsReset hes ⟨?_, ?_, fun e he => ?_⟩
  · exact get_run_fld (f := F.PRT_ISTAT_STATE) _ (by decide) pkgTile (instOfVf k) _ [] [_, _, _]
      (by simp [Eff.offF, F.PRT_ISTAT_STATE, F.PRT_ISTAT_PENDDES, F.PRT_ISTAT_ESC, F.PRT_ILAST_CAUSE])
  · have hinst (u : State) : (u.run (resetBegins (instOfVf k) rstFlr false)).insts = u.insts :=
      insts_off u (.eff (by simp [Eff.offInst]))
    rw [State.inst, hinst, ← State.inst, then_flrMark, inst_run, if_pos rfl]
  · have hoff {r : Reg} (h1 : r ≠ .PRT_ISTAT) (h2 : r ≠ .PRT_ILAST) (u : State) (ix : Nat) :
        (u.run (resetBegins (instOfVf k) rstFlr false)).reg r pcieTile ix = u.reg r pcieTile ix :=
      reg_off u (.eff (by simp [Eff.off, F.PRT_ISTAT_STATE, F.PRT_ISTAT_PENDDES, F.PRT_ISTAT_ESC, F.PRT_ILAST_CAUSE, h1.symm,
        h2.symm])) pcieTile ix
    rw [hoff (by decide) (by decide), hoff (by decide) (by decide), then_flrMark, reg_of_regs (run_inst_regs _ _ _),
      reg_of_regs (run_inst_regs _ _ _)]
    exact reg_clearWindow _ he

theorem then_pcieFlr_free {k : Nat} (h1 : 1 ≤ k) (h64 : k ≤ 64) (hfree : s.instState (instOfVf k) = instFree) :
    s.then (pcieFlrX k) = Eff.run (s.then (clearWindow (fnOf (instOfVf k)))) (.emit (.flrDone k)) := by
  have hno : ¬ (k = 0 ∨ 64 < k) := by omega
  have hsteps : s.then (pcieFlrX k) = s.then (.seq [clearWindow (fnOf (instOfVf k)), emit (.flrDone k)]) := by
    simp only [State.then, pcieFlrX, if_neg hno, if_pos hfree]
  rw [hsteps, then_seq_cons, then_seq_cons, then_seq_nil, then_emit]

theorem pcieFlr_free {k : Nat} (h1 : 1 ≤ k) (h64 : k ≤ 64) (hfree : s.instState (instOfVf k) = instFree) :
    gives (.pcieFlr k) s fun t => t.out = s.out ++ [.flrDone k] ∧ sameRegs [.LNK_HWE_LO, .LNK_HWE_HI] s t ∧ sameMem s t ∧
      sameContexts s t := by
  have hclear (P : Eff → Prop) := clearWindow_effs (fnOf (instOfVf k)) P
  obtain ⟨hmem, hstream, hinst, htile⟩ := same_of_onRegs s (hclear Eff.onRegs fun ix => ⟨trivial, trivial⟩) (.refl _)
  have hout := out_off s (hclear _ fun ix => ⟨trivial, trivial⟩)
  have hreg (r : Reg) (hlo : r ≠ .LNK_HWE_LO) (hhi : r ≠ .LNK_HWE_HI) :=
    reg_off s (hclear (Eff.off r) fun ix => ⟨hlo.symm, hhi.symm⟩)
  refine done_holds fun t hst => ?_
  rw [then_pcieFlr_free h1 h64 hfree] at hst
  generalize s.then (clearWindow (fnOf (instOfVf k))) = v at *
  refine ⟨?_, fun r hr j ix => ?_, fun b => (hst.byte b).trans (hmem b), fun id => (hst.stream id).trans (hstream id),
    fun n => (hst.inst n).trans (hinst n), fun j => (hst.tile j).trans (htile j)⟩
  · rw [hst.out, run_emit_out, hout]
  · obtain ⟨hcnt, hlo, hhi⟩ : r ≠ .SNP_CNT ∧ r ≠ .LNK_HWE_LO ∧ r ≠ .LNK_HWE_HI := by simpa using hr
    exact (hst.reg r j ix hcnt).trans (hreg r hlo hhi j ix)

end Sys2Proof.Machine
end

section
/-! How a read of host memory ends (R320, R371), and the obligation. -/
namespace Sys2Proof.Machine
open Sys2Proof.Say

variable {s u : State}

/-- A read that brings its data is staged. -/
theorem then_hostReadCompletion {k tag : Nat} {x : Xfer} {data : List Byte} (hx : s.hostRead k tag = some x)
    (hlen : data.length = x.len) (hq : x.q < ringQueue 0) (hf : x.fetch = false) (hw : x.write = false)
    (hs : s.stale x.inst x.epoch = false) (pz : Bool) :
    ∃ bad, s.then (hostReadCompletionX k tag data pz) = s.then (readDone k x data bad) := by
  refine ⟨if pz then (granules 0 x.len).map (· + x.off / 64) else [], ?_⟩
  simp only [State.then, hostReadCompletionX, hx, if_pos hlen, hostReadEnd, if_pos hq, endXfer, hf, hw, hs, Bool.false_eq_true,
    if_false, if_true]

theorem then_readDone (t : Nat) (x : Xfer) (data : List Byte) (bad : List Nat) : s.then (readDone t x data bad) =
    (s.then (freeXfer t x.tag)).then (updItem t x.q x.slot fun i => { i with got := i.got ++ [⟨x.off, data, bad⟩] }) := by
  rw [readDone, then_seq_cons, then_seq_cons, then_seq_nil]

theorem tagFree_readDone {t : Nat} {x : Xfer} {data : List Byte} {bad : List Nat} :
    (s.then (readDone t x data bad)).tagFree t x.tag :=
  tagFree_seq_freeXfer fun v => by simp

/-- The item of the read holds its data. -/
theorem got_readDone {t : Nat} {x : Xfer} {i : Item} (hi : i ∈ (s.tile t).items) (hq : i.q = x.q) (hslot : i.slot = x.slot)
    (data : List Byte) (bad : List Nat) :
    { i with got := i.got ++ [⟨x.off, data, bad⟩] } ∈ ((s.then (readDone t x data bad)).tile t).items := by
  rw [then_readDone, updItem, then_updT, tile_run, if_pos rfl, tile_freeXfer]
  exact List.mem_map.2 ⟨i, hi, if_pos ⟨hq, hslot⟩⟩

theorem hostReadCompletion_stages {k tag : Nat} {x : Xfer} {data : List Byte} (hx : s.hostRead k tag = some x)
    (hlen : data.length = x.len) (hq : x.q < ringQueue 0) (hf : x.fetch = false) (hw : x.write = false)
    (hs : s.stale x.inst x.epoch = false) (pz : Bool) : gives (.hostReadCompletion k tag data pz) s fun t =>
      (∀ y ∈ (t.tile k).xfers, y.tag ≠ x.tag) ∧
      (∀ i ∈ (s.tile k).items, i.q = x.q → i.slot = x.slot →
        ∃ y ∈ (t.tile k).items, y.q = x.q ∧ y.slot = x.slot ∧ ∃ e ∈ y.got, e.off = x.off ∧ e.data = data) ∧
      sameRegs [.SMV_TAGS] s t ∧ sameMem s t := by
  obtain ⟨bad, hread⟩ := then_hostReadCompletion hx hlen hq hf hw hs pz
  refine done_holds fun t hst => ?_
  rw [hread] at hst
  refine ⟨?_, fun i hi hiq his => ?_, fun r hr j ix => ?_, fun b => ?_⟩
  · rw [hst.tile]
    exact tagFree_readDone
  · rw [hst.tile]
    exact ⟨_, got_readDone hi hiq his data bad, hiq, his, _, List.mem_append_right _ (.head _), rfl, rfl⟩
  · obtain ⟨hcnt, htags⟩ : r ≠ .SNP_CNT ∧ r ≠ .SMV_TAGS := by simpa using hr
    have hoff : AllEff (Eff.off r) (readDone k x data bad) := allEff_iff.2 fun v => by
      simp [readDone, freeXfer, syncTags, updItem, Eff.off, F.SMV_TAGS_INUSE, F.SMV_TAGS_PEAK, htags.symm]
    exact (hst.reg r j ix hcnt).trans (reg_off s hoff j ix)
  · have hoff : AllEff Eff.offMem (readDone k x data bad) := allEff_iff.2 fun v => by
      simp [readDone, freeXfer, syncTags, updItem, Eff.offMem]
    rw [hst.byte, State.byte, State.byte, mem_off s hoff]

theorem items_of_spares {es : List Eff} (h : Effs Eff.spares es) (k : Nat) : ((u.run es).tile k).items = (u.tile k).items := by
  refine run_keeps u es (P := fun v => (v.tile k).items = (u.tile k).items) (fun v hv e he => ?_) rfl
  cases e with
  | tile t f =>
    rw [tile_run]
    split
    · next ht => exact ((h _ he (v.tile t)).2.1).trans (ht ▸ hv)
    · exact hv
  | mem a bs => simpa [State.tile, Eff.run] using hv
  | _ => exact hv

/-- The item that ends leaves the chip, and the rest stay. -/
theorem items_finishItem (t : Nat) (it : Item) (st digest : Nat) (conds : List Nat) :
    ((s.then (finishItem t it st digest conds)).tile t).items =
      (s.tile t).items.filter fun i => !(i.q == it.q && i.slot == it.slot) := by
  unfold finishItem
  rw [then_app, then_seq_cons]
  refine (items_of_spares spares_finishItem_tail t).trans ?_
  rw [dropItem, then_updT, tile_run, if_pos rfl]

/-- A read that brings no data frees its tag and ends its item. -/
theorem then_hostReadTimeout {k tag : Nat} {x : Xfer} (hx : s.hostRead k tag = some x) (hq : x.q < ringQueue 0)
    (hf : x.fetch = false) (hw : x.write = false) (hs : s.stale x.inst x.epoch = false) :
    s.then (hostReadTimeoutX k tag) = (s.then (freeXfer k x.tag)).then
      (.opt ((s.tile k).items.find? fun i => i.q == x.q && i.slot == x.slot) fun i => finishItem k i 0x0302 0 []) := by
  have hseq : s.then (hostReadTimeoutX k tag) = s.then (.seq [freeXfer k x.tag, .read fun v =>
      .opt ((v.tile k).items.find? fun i => i.q == x.q && i.slot == x.slot) fun i => finishItem k i 0x0302 0 []]) := by
    simp only [State.then, hostReadTimeoutX, hx, Act.opt, hostReadEnd, if_pos hq, endXfer, hf, hw, hs, Bool.false_eq_true, if_false]
    rfl
  rw [hseq, then_seq_cons, then_seq_cons, then_seq_nil, then_read, tile_freeXfer]

theorem hostReadTimeout_ends {k tag : Nat} {x : Xfer} (hx : s.hostRead k tag = some x)
    (hq : x.q < ringQueue 0) (hf : x.fetch = false) (hw : x.write = false) (hs : s.stale x.inst x.epoch = false) :
    gives (.hostReadTimeout k tag) s fun t =>
      (∀ y ∈ (t.tile k).xfers, y.tag ≠ x.tag) ∧ ∀ y ∈ (t.tile k).items, ¬ (y.q = x.q ∧ y.slot = x.slot) := by
  refine done_holds fun t hst => ?_
  rw [then_hostReadTimeout hx hq hf hw hs] at hst
  rw [hst.tile]
  have hitems : ((s.then (freeXfer k x.tag)).tile k).items = (s.tile k).items := by rw [tile_freeXfer]
  constructor
  · exact tagFree_of_ends tagFree_freeXfer (effs_opt.2 fun _ _ => ends_finishItem)
  · cases hfind : (s.tile k).items.find? fun i => i.q == x.q && i.slot == x.slot with
    | none =>
      intro y hy
      rw [then_opt_none, hitems] at hy
      simpa using List.find?_eq_none.1 hfind y hy
    | some i =>
      intro y hy
      rw [then_opt_some, items_finishItem] at hy
      have hi := List.find?_some hfind
      simp only [Bool.and_eq_true, beq_iff_eq] at hi
      simpa [hi.1, hi.2, imp_iff_not_or] using (List.mem_filter.1 hy).2

/-- Settles O36: fetched requests spare the link's state, its loss frees the tag of every host read in flight, and what follows the
first effects of a tenant's reset keeps what they set. -/
theorem hostLinkAndReads : Obligations.HostLinkAndReads := by
  refine ⟨fun s g w v h => pcieLinkUp_shows h g w v, fun s _ => done_holds fun t hst => ⟨?_, fun k => ?_⟩,
    fun s _ => done_holds fun t hst => ⟨?_, ?_, fun k => ?_, fun k r hk hr hon hhost => ?_⟩,
    fun s k h1 h64 hact => done_holds fun t hst => ?_, fun s k h1 h64 hfree => pcieFlr_free h1 h64 hfree,
    fun s k tag x data pz hx hlen hq hf hw hs => hostReadCompletion_stages hx hlen hq hf hw hs pz,
    fun s k tag x hx hq hf hw hs => hostReadTimeout_ends hx hq hf hw hs⟩
  · exact (hst.get _ _ _ (by decide)).trans get_dlup_pcieLinkDown
  · rw [hst.tile]
    exact no_host_pcieLinkDown k
  · exact (hst.get _ _ _ (by decide)).trans get_dlup_perstAssert
  · exact (hst.get _ _ _ (by decide)).trans get_numvf_perstAssert
  · rw [hst.tile]
    exact no_host_perstAssert k
  · obtain ⟨hen, hoff⟩ := ringOff_perstAssert hk hr hon hhost
    exact ⟨(hst.get _ _ _ (by decide)).trans hen, hst.tile k ▸ hoff⟩
  · obtain ⟨hstate, hflr, hwin⟩ := flrBegun_pcieFlr h1 h64 hact
    exact ⟨(hst.get _ _ _ (by decide)).trans hstate, hst.inst _ ▸ hflr, fun e he =>
      ⟨(hst.reg _ _ _ (by decide)).trans (hwin e he).1, (hst.reg _ _ _ (by decide)).trans (hwin e he).2⟩⟩

end Sys2Proof.Machine
end

section
/-! What leaves alone what a learned-codec stream shows of its frames (R77, R538): the registers `ECE_LSCLIVE0`, `ECE_LSCLIVE1` and
`ECE_RCSTAT`, and a view of the stream's learned-codec state. Step by step, from writes of memory up to the end of an item. -/
namespace Sys2Proof.Machine

/-- The registers in which a learned-codec stream shows its frames. -/
@[simp] def lscShown : List Reg := [.ECE_LSCLIVE0, .ECE_LSCLIVE1, .ECE_RCSTAT]

/-- The effect leaves those registers alone, and in every stream what `v` sees of the learned-codec state. -/
@[simp] def Eff.keepsLsc {α : Type} (v : Lsc → α) : Eff → Prop
  | .fld f _ _ _ | .countU f _ _ _ _ => f.reg ∉ lscShown
  | .word r _ _ _ => r ∉ lscShown
  | .resetRegs p => ∀ k : RegKey, k.reg ∈ lscShown → p k = false
  | .stream _ f => ∀ x, v (f x).lsc = v x.lsc
  | _ => True

/-- What the steps of a boundary see of a stream's frames: the frames themselves, the pool and the numbering. -/
def Lsc.course (l : Lsc) : List LscFrame × List PoolBuf × Nat × Bool := (l.frames, l.pool, l.nextFrame, l.started)

/-- How far a frame has come: its number, whether it is closed and its path done, and the phases of its plots. -/
def LscFrame.mark (f : LscFrame) : Nat × Bool × Bool × List PlotPhase := (f.frame, f.closed, f.pathDone, f.plots.map (·.phase))

/-- What the latent path of a frame sees of the stream: the pool and how far each frame has come. -/
def Lsc.marks (l : Lsc) : List PoolBuf × List (Nat × Bool × Bool × List PlotPhase) := (l.pool, l.frames.map (·.mark))

variable {α : Type} {v : Lsc → α} {u : State}

/-- What `v` sees of the learned-codec state is as before. -/
theorem lsc_of_keepsLsc {a : Act} (h : AllEff (Eff.keepsLsc v) a) (id : Nat) :
    v ((u.then a).stream id).lsc = v (u.stream id).lsc := by
  refine run_keeps u (a u) (P := fun w => v (w.stream id).lsc = v (u.stream id).lsc) (fun w hw e he => ?_) rfl
  cases e with
  | stream n f =>
    rw [stream_run]
    split
    · next hn => exact (h u _ he (w.stream n)).trans (hn ▸ hw)
    · exact hw
  | mem a bs => simpa [State.stream, Eff.run] using hw
  | _ => exact hw

theorem Eff.off_of_keepsLsc {r : Reg} (hr : r ∈ lscShown) {e : Eff} (h : e.keepsLsc v) : e.off r := by
  cases e with
  | fld f | countU f | word f => exact fun hf => h (hf ▸ hr)
  | resetRegs p => exact fun k hk => h k (hk ▸ hr)
  | _ => trivial

/-- The registers that show the frames read as before. -/
theorem sget_of_keepsLsc {a : Act} (h : AllEff (Eff.keepsLsc v) a) {f : Fld} (hr : f.reg ∈ lscShown) (id : Nat) :
    (u.then a).sget f id = u.sget f id :=
  congrArg (fun w => getBits w f.hi f.lo) (reg_off u (h.mono fun _ he => Eff.off_of_keepsLsc hr he) _ _)

/-! ## Memory and messages -/

@[simp] theorem keepsLsc_lnkErr {t code id port : Nat} : Effs (Eff.keepsLsc v) (lnkErr t code id port u) := by
  simp [lnkErr, blockErr, F.LNK_ERRSTAT_ERR, F.LNK_ERRSTAT_CODE, F.LNK_ERRCNT_COUNT, F.LNK_ERRSTAT_STREAM, F.LNK_ERRSTAT_PORT]

@[simp] theorem keepsLsc_poisonWrite {a n : Nat} {pz : Nat → Bool} : Effs (Eff.keepsLsc v) (poisonWrite a n pz u) := by
  intro e he
  obtain ⟨g, _, hg⟩ := List.mem_filterMap.1 he
  split_ifs at hg <;> cases hg <;> trivial

@[simp] theorem keepsLsc_memWriteG {a : Nat} {bs : List Byte} {pz : Nat → Bool} {ask : Bool} :
    Effs (Eff.keepsLsc v) (memWriteG a bs pz ask u) := by
  simp [memWriteG, baleBlock, wcInvalidate, F.BAL_CLSCNT_COUNT, F.BAL_RMWCNT_COUNT, F.MEM_WCINV_INV]

@[simp] theorem keepsLsc_memWrite {a : Nat} {bs : List Byte} {pz ask : Bool} : Effs (Eff.keepsLsc v) (memWrite a bs pz ask u) :=
  keepsLsc_memWriteG

@[simp] theorem keepsLsc_memWriteFrom {t a : Nat} {bs : List Byte} {pz ask : Bool} :
    Effs (Eff.keepsLsc v) (memWriteFrom t a bs pz ask u) := by
  simp [memWriteFrom, yardSend, yardPacket, F.BAL_YSAVED_COUNT, F.YRD_FLIT_COUNT]

@[simp] theorem keepsLsc_putBytes {n a : Nat} {bs : List Byte} {pz : Bool} : Effs (Eff.keepsLsc v) (putBytes n a bs pz u) := by
  unfold putBytes
  split
  · split <;> simp
  · simp

@[simp] theorem keepsLsc_mvSend {e mtype inst epoch id : Nat} {bs : List Byte} {pz : Bool} {ctx : MvCtx} :
    Effs (Eff.keepsLsc v) (mvSend e mtype inst epoch id bs pz ctx .none u) := by
  unfold mvSend mvSendAs
  dsimp only
  split <;> simp [updPeer, updLink, mvPut]

/-! ## Records and the completion of requests -/

@[simp] theorem keepsLsc_cqPush {t r : Nat} {c : Cpl} : Effs (Eff.keepsLsc v) (cqPush t r c u) := by
  simp [cqPush, cqWrite, F.SMV_CQTAIL_TAIL]

@[simp] theorem keepsLsc_workRecord {id frame st digest : Nat} : Effs (Eff.keepsLsc v) (workRecord id frame st digest u) := by
  simp [workRecord]

@[simp] theorem keepsLsc_deliver {o : Origin} {c : Cpl} : Effs (Eff.keepsLsc v) (deliver o c u) := by
  cases o <;> simp [deliver]

@[simp] theorem keepsLsc_completeHeld {n st id digest : Nat} {r : LiveReq} :
    Effs (Eff.keepsLsc v) (completeHeld n r st id digest u) := by
  simp [completeHeld, completeReq, updW]

theorem condCounter_not_shown {st : Nat} {f : Fld} (h : condCounter st = some f) : f.reg ∉ lscShown := by
  unfold condCounter at h
  split at h <;> cases h <;> decide

@[simp] theorem keepsLsc_countConditions {id : Nat} {l : List Nat} : Effs (Eff.keepsLsc v) (countConditions id l u) :=
  effs_each fun st w => by simpa using fun f => condCounter_not_shown (st := st)

/-! ## Items in flight -/

@[simp] theorem keepsLsc_syncLive {id : Nat} : Effs (Eff.keepsLsc v) (syncLive id u) := by
  simp [syncLive, F.SMV_SLIVE0_INFLIGHT]

@[simp] theorem keepsLsc_finishLive {id t q slot st digest : Nat} : Effs (Eff.keepsLsc v) (finishLive id t q slot st digest u) := by
  simp [finishLive, updLive]

@[simp] theorem keepsLsc_finishItem {t st digest : Nat} {it : Item} {conds : List Nat} :
    Effs (Eff.keepsLsc v) (finishItem t it st digest conds u) := by
  simp [finishItem, dropItem]

@[simp] theorem keepsLsc_finishInput {id slot : Nat} {conds : List Nat} : Effs (Eff.keepsLsc v) (finishInput id slot conds u) := by
  unfold finishInput
  split <;> simp

@[simp] theorem keepsLsc_enqueue {t q id flags : Nat} {bs : List Byte} {req : Option LiveReq} :
    Effs (Eff.keepsLsc v) (enqueue t q id bs flags req u) := by
  simp [enqueue, addLive, syncResident, F.SMV_QTAIL_TAIL, F.SMV_RESIDENT_ITEMS]

@[simp] theorem keepsLsc_egressPump {id : Nat} : Effs (Eff.keepsLsc v) (egressPump id u) := by
  simp [egressPump]

@[simp] theorem keepsLsc_releasePics {id : Nat} {l : List Nat} : Effs (Eff.keepsLsc v) (releasePics id l u) := by
  simp [releasePics, stageBarrier]

@[simp] theorem keepsLsc_srcDone {id frame n ptime incond : Nat} {conds : List Nat} :
    Effs (Eff.keepsLsc v) (srcDone id frame n ptime conds incond u) := by
  simp [srcDone]

@[simp] theorem keepsLsc_putPieces {t n : Nat} {pz ask : Bool} {ps : List Block} {bs : List Byte} :
    Effs (Eff.keepsLsc v) (putPieces t n pz ask ps bs u) := by
  induction ps generalizing bs u with
  | nil => exact effs_none
  | cons p ps ih => simp [putPieces, piecePut, ih]

/-! ## The learned-codec state of a stream -/

@[simp] theorem keepsLsc_updLsc {id : Nat} {f : Lsc → Lsc} :
    Effs (Eff.keepsLsc v) (updLsc id f u) ↔ ∀ x : Stream, v (f x.lsc) = v x.lsc := by
  simp [updLsc]

@[simp] theorem keepsCourse_putOutput {t id : Nat} {bs : List Byte} {pz ask : Bool} :
    Effs (Eff.keepsLsc Lsc.course) (putOutput t id bs pz ask u) := by
  unfold putOutput
  dsimp only
  split <;> simp [writeBuf, Lsc.course]

/-- The taps of a source stream are no part of the course of its frames. -/
@[simp] theorem keepsCourse_dropTaps {id lo : Nat} : Effs (Eff.keepsLsc Lsc.course) (dropTaps id lo u) := by
  simp [dropTaps, loseEval, updHead, Lsc.course, F.FXG_HDCNT_LOST, F.ECE_TAPCNT_LOST]

@[simp] theorem keepsLsc_noteTaps {id frame : Nat} : Effs (Eff.keepsLsc v) (noteTaps id frame u) := by
  simp [noteTaps, F.FXG_HDSTAT_NOTAP]

/-- A change of a frame's values alone leaves how far each frame has come. -/
theorem keepsMarks_updFrame {id frame : Nat} {g : LscFrame → LscFrame} (h : ∀ f, (g f).mark = f.mark) :
    Effs (Eff.keepsLsc Lsc.marks) (updFrame id frame g u) := by
  refine keepsLsc_updLsc.2 fun x => Prod.ext rfl ?_
  simp only [Lsc.marks, List.map_map]
  refine List.map_congr_left fun f _ => ?_
  simp only [Function.comp]
  split
  · exact h f
  · rfl

end Sys2Proof.Machine
end

section
/-! The registers of a slot and the learned-codec state of a stream after a step on them. -/
namespace Sys2Proof.Machine

variable {u : State} {f g : Fld} {id id' n : Nat}

theorem sget_setS (hf : f.ok = true) : (u.then (setS f id n)).sget f id = n % 2 ^ (f.hi + 1 - f.lo) :=
  get_then_setFx u f _ _ n hf

theorem sget_setS_ne (hg : g.ok = true) (h : g.reg ≠ f.reg ∨ f.hi < g.lo ∨ g.hi < f.lo) :
    (u.then (setS f id n)).sget g id' = u.sget g id' := get_setF_ne u f g _ _ _ _ n hg h

/-- A counter of a slot advances and stays at its largest value (R524). -/
theorem sget_countS (hf : f.ok = true) : (u.then (countS f id n)).sget f id = min f.maxVal (u.sget f id + n) := by
  have hlt : min f.maxVal (u.sget f id + n) < 2 ^ (f.hi + 1 - f.lo) :=
    (Nat.min_le_left _ _).trans_lt (Nat.sub_lt (Nat.two_pow_pos _) Nat.one_pos)
  exact (get_then_setFx u f _ _ _ hf).trans (Nat.mod_eq_of_lt hlt)

theorem sget_countS_ne (hg : g.ok = true) (h : g.reg ≠ f.reg ∨ f.hi < g.lo ∨ g.hi < f.lo) :
    (u.then (countS f id n)).sget g id' = u.sget g id' := get_setF_ne u f g _ _ _ _ _ hg h

@[simp] theorem sget_updLsc {h : Lsc → Lsc} : (u.then (updLsc id h)).sget g id' = u.sget g id' := (rfl)
@[simp] theorem sget_updFrame {frame : Nat} {h : LscFrame → LscFrame} :
    (u.then (updFrame id frame h)).sget g id' = u.sget g id' := (rfl)

@[simp] theorem stream_setS : (u.then (setS f id n)).stream id' = u.stream id' := (rfl)

@[simp] theorem stream_updS {h : Stream → Stream} : (u.then (updS id h)).stream id = h (u.stream id) :=
  (stream_run u id id h).trans (if_pos rfl)

@[simp] theorem stream_updLsc {h : Lsc → Lsc} :
    (u.then (updLsc id h)).stream id = { u.stream id with lsc := h (u.stream id).lsc } := stream_updS

@[simp] theorem stream_updFrame {frame : Nat} {h : LscFrame → LscFrame} :
    (u.then (updFrame id frame h)).stream id = { u.stream id with lsc := { (u.stream id).lsc with
      frames := (u.stream id).lsc.frames.map fun f => if f.frame = frame then h f else f } } := stream_updLsc

/-- A field of a slot reads after a command as its own step leaves it. -/
theorem SnapSame.sget {t : State} (h : SnapSame u t) (hf : f.reg ≠ .SNP_CNT) (id : Nat) : t.sget f id = u.sget f id :=
  h.get f _ _ hf

end Sys2Proof.Machine
end

section
/-! The boundaries of an encoder's frames (R51 to R53, R63, R67). -/
namespace Sys2Proof.Machine
open Sys2Proof.Say

variable {s u : State} {id : Nat}

/-! ## The shadow at a boundary -/

theorem then_digestBoundary (id stage : Nat) : u.then (digestBoundary id stage) = u ∨
    u.then (digestBoundary id stage) = u.then (applyRegs id [.SNP_DGCFG]) := by
  unfold digestBoundary
  rw [then_app, then_when]
  split
  · exact .inr rfl
  · exact .inl rfl

theorem stream_digestBoundary (stage i : Nat) : (u.then (digestBoundary id stage)).stream i = u.stream i := by
  rcases then_digestBoundary (u := u) id stage with h | h <;> rw [h]
  rfl

theorem inst_digestBoundary (stage n : Nat) : (u.then (digestBoundary id stage)).inst n = u.inst n := by
  rcases then_digestBoundary (u := u) id stage with h | h <;> rw [h]
  rfl

theorem sget_digestBoundary (stage : Nat) (f : Fld) (i : Nat) : (u.then (digestBoundary id stage)).sget f i = u.sget f i := by
  rcases then_digestBoundary (u := u) id stage with h | h <;> rw [h]
  rfl

/-- The words of a slot in some registers. -/
def slotKeys (id : Nat) (rs : List Reg) (k : RegKey) : Bool := k.inTile (homeOf id) && k.atIx (slotOf id) && rs.contains k.reg

theorem force_applyRegs (id : Nat) (rs : List Reg) : (u.then (applyRegs id rs)).force = mapDrop (slotKeys id rs) u.force := (rfl)

/-- Words of other registers than those that come into force stay as they are in force. -/
theorem liveReg_applyRegs {rs : List Reg} {r : Reg} (hr : r ∉ rs) (t ix : Nat) :
    (u.then (applyRegs id rs)).liveReg r t ix = u.liveReg r t ix := by
  have hno (k : RegKey) (hk : k.reg = r) : slotKeys id rs k = false := by simp [slotKeys, hk, hr]
  have hget : mapGet RegKey.code none (u.then (applyRegs id rs)).force ⟨r, t, ix⟩ = mapGet RegKey.code none u.force ⟨r, t, ix⟩ := by
    rw [force_applyRegs, mapGet_mapDrop _ _ _ _ _ fun a ha => ?_, hno ⟨r, t, ix⟩ rfl]
    · rfl
    · rw [hno a ((RegKey.code_eq _ _).1 ha).1, hno ⟨r, t, ix⟩ rfl]
  exact congrArg (fun o : Option Word => o.getD (u.reg r t ix)) hget

theorem slive_digestBoundary {f : Fld} (hf : f.reg ≠ .SNP_DGCFG) (stage i : Nat) :
    (u.then (digestBoundary id stage)).slive f i = u.slive f i := by
  rcases then_digestBoundary (u := u) id stage with h | h <;> rw [h]
  exact congrArg (fun w => getBits w f.hi f.lo) (liveReg_applyRegs (by simpa using hf) _ _)

/-- With nothing in the shadow and no reset of rate control, a boundary brings at most the digest's setting into force. -/
theorem then_lscEncShadow (hs : u.shadowed id lscRegs = []) (hrc : u.sget F.ECE_LSCCMD_RCRESET id = 0) :
    u.then (lscEncShadow id) = u.then (digestBoundary id stLsc) := by
  unfold lscEncShadow
  rw [then_app]
  simp [hs, hrc]

/-! ## What a boundary shows -/

/-- A boundary shows the frame's number and the frames since the last key frame, and then tells the heads. -/
def showFrame (id n since : Nat) (taps : Act) : Act :=
  .seq [setS F.ECE_LSCLIVE0_FRAME id n, setS F.ECE_LSCLIVE1_SINCEKEY id since, taps]

section
variable {n since : Nat} {taps : Act} (htaps : AllEff (Eff.keepsLsc Lsc.course) taps)

theorem then_showFrame (taps : Act) : u.then (showFrame id n since taps) =
    ((u.then (setS F.ECE_LSCLIVE0_FRAME id n)).then (setS F.ECE_LSCLIVE1_SINCEKEY id since)).then taps := by
  simp only [showFrame, then_seq_cons, then_seq_nil]

include htaps

theorem course_showFrame : ((u.then (showFrame id n since taps)).stream id).lsc.course = (u.stream id).lsc.course := by
  rw [then_showFrame]
  exact lsc_of_keepsLsc htaps id

theorem frame_showFrame : (u.then (showFrame id n since taps)).sget F.ECE_LSCLIVE0_FRAME id = n % 2 ^ 32 := by
  rw [then_showFrame, sget_of_keepsLsc htaps (by decide), sget_setS_ne (by decide) (by decide),
    sget_setS (by decide)]
  rfl

theorem sinceKey_showFrame (h : since < 2 ^ 10) :
    (u.then (showFrame id n since taps)).sget F.ECE_LSCLIVE1_SINCEKEY id = since := by
  rw [then_showFrame, sget_of_keepsLsc htaps (by decide), sget_setS (by decide)]
  exact Nat.mod_eq_of_lt h

theorem keyPend_showFrame :
    (u.then (showFrame id n since taps)).sget F.ECE_LSCLIVE1_KEYPEND id = u.sget F.ECE_LSCLIVE1_KEYPEND id := by
  rw [then_showFrame, sget_of_keepsLsc htaps (by decide), sget_setS_ne (by decide) (by decide),
    sget_setS_ne (by decide) (by decide)]

end

/-- The tap frames before `lo` go, and the heads due on frame `n` learn which taps it retains. -/
def turnTaps (id lo n : Nat) : Act := .seq [dropTaps id lo, noteTaps id n]

theorem keepsCourse_turnTaps {lo n : Nat} : AllEff (Eff.keepsLsc Lsc.course) (turnTaps id lo n) :=
  allEff_iff.2 fun w => by simp [turnTaps]

/-! ## A frame begins -/

/-- A key frame ends the request for one. -/
def endKeyRequest (id : Nat) : Act := .seq [setS F.ECE_LSCLIVE1_KEYPEND id 0, setS F.ECE_LSCCMD_KEYREQ id 0]

theorem keyPend_endKeyRequest : (u.then (endKeyRequest id)).sget F.ECE_LSCLIVE1_KEYPEND id = 0 := by
  rw [endKeyRequest, then_seq_cons, then_seq_cons, then_seq_nil, sget_setS_ne (by decide) (by decide), sget_setS (by decide),
    Nat.zero_mod]

/-- What a frame that begins does once its choices are made: `h` is its change of the stream's learned-codec state. -/
def beginFrame (id n since : Nat) (key : Bool) (h : Lsc → Lsc) : Act := .seq
  [updLsc id h, .when key (endKeyRequest id), setS F.ECE_LSCLIVE0_FRAME id n, setS F.ECE_LSCLIVE1_SINCEKEY id (min 1023 since),
   dropTaps id ((n + 2 ^ 32 - 1) % 2 ^ 32), noteTaps id n]

theorem then_beginFrame (n since : Nat) (key : Bool) (h : Lsc → Lsc) : u.then (beginFrame id n since key h) =
    ((u.then (updLsc id h)).then (.when key (endKeyRequest id))).then
      (showFrame id n (min 1023 since) (turnTaps id ((n + 2 ^ 32 - 1) % 2 ^ 32) n)) := by
  simp only [beginFrame, showFrame, turnTaps, then_seq_cons, then_seq_nil]

/-- The choices of a frame that begins (R51, R52, R63): its number, its time, and whether it is a key frame. -/
theorem then_encBegin {i : LscInput} {p : Prog} (hp : u.prog (u.stream id).inst (u.slive F.ECE_LSCW7_PROG_ID id) = some p) :
    ∃ since key h f, u.then (encBegin id i) = u.then (beginFrame id (u.stream id).lsc.nextFrame since key h) ∧
      (h (u.stream id).lsc).frames = (u.stream id).lsc.frames ++ [f] ∧
      (h (u.stream id).lsc).nextFrame = ((u.stream id).lsc.nextFrame + 1) % 2 ^ 32 ∧ (h (u.stream id).lsc).started = true ∧
      f.frame = (u.stream id).lsc.nextFrame ∧ f.ptime = i.ptime + 20000000 * i.done ∧ f.key = key ∧ (key = true → since = 0) ∧
      (u.sget F.ECE_LSCLIVE1_KEYPEND id = 1 ∨ (u.stream id).lsc.started = false → key = true) := by
  simp only [State.then, encBegin, hp]
  refine ⟨_, _, _, _, rfl, rfl, rfl, rfl, rfl, rfl, rfl, fun hk => if_pos hk, ?_⟩
  rintro (h | h) <;> simp [h]

/-- With no frame open and no buffer waiting, a boundary is the shadow's and then the frame's. -/
theorem then_lscEncFrameBoundary_none {i : LscInput} (he : s.isLscEnc id = true) (hi : s.lscInput id = some i)
    (hopen : (s.stream id).lsc.frames.find? (fun f => !f.ended) = none)
    (hpool : (s.stream id).lsc.pool.any (·.cur) = false ∨ (s.stream id).lsc.shape.camp = true) :
    s.then (lscEncFrameBoundaryX id) = (s.then (lscEncShadow id)).then (encBegin id i) := by
  have hgo : ((s.stream id).lsc.pool.any (·.cur) && !(s.stream id).lsc.shape.camp) = false := by
    rcases hpool with h | h <;> simp [h]
  rw [← then_seq_nil ((s.then _).then _), ← then_seq_cons, ← then_seq_cons]
  simp [State.then, lscEncFrameBoundaryX, he, hi, hopen, hgo]

theorem encFrame_begins {i : LscInput} {p : Prog} (he : s.isLscEnc id = true) (hi : s.lscInput id = some i)
    (hopen : (s.stream id).lsc.frames.find? (fun f => !f.ended) = none)
    (hpool : (s.stream id).lsc.pool.any (·.cur) = false ∨ (s.stream id).lsc.shape.camp = true)
    (hshadow : s.shadowed id lscRegs = []) (hrc : s.sget F.ECE_LSCCMD_RCRESET id = 0)
    (hp : s.prog (s.stream id).inst (s.slive F.ECE_LSCW7_PROG_ID id) = some p) : gives (.lscEncFrameBoundary id) s fun t =>
      ∃ f, (t.stream id).lsc.frames = (s.stream id).lsc.frames ++ [f] ∧ f.frame = (s.stream id).lsc.nextFrame ∧
        f.ptime = i.ptime + 20000000 * i.done ∧
        (s.sget F.ECE_LSCLIVE1_KEYPEND id = 1 ∨ (s.stream id).lsc.started = false → f.key = true) ∧
        (t.stream id).lsc.nextFrame = ((s.stream id).lsc.nextFrame + 1) % 2 ^ 32 ∧ (t.stream id).lsc.started = true ∧
        t.sget F.ECE_LSCLIVE0_FRAME id = (s.stream id).lsc.nextFrame % 2 ^ 32 ∧
        (f.key = true → t.sget F.ECE_LSCLIVE1_KEYPEND id = 0 ∧ t.sget F.ECE_LSCLIVE1_SINCEKEY id = 0) := by
  refine done_holds fun t hst => ?_
  rw [then_lscEncFrameBoundary_none he hi hopen hpool, then_lscEncShadow hshadow hrc] at hst
  have hstream := stream_digestBoundary (u := s) (id := id) stLsc id
  have hprog : (s.then (digestBoundary id stLsc)).prog ((s.then (digestBoundary id stLsc)).stream id).inst
      ((s.then (digestBoundary id stLsc)).slive F.ECE_LSCW7_PROG_ID id) = some p := by
    rw [hstream, slive_digestBoundary (by decide), State.prog, inst_digestBoundary]
    exact hp
  obtain ⟨since, key, h, f, hsteps, hframes, hnext, hstarted, hnum, htime, rfl, hsince, hkey⟩ := then_encBegin (i := i) hprog
  rw [hsteps, then_beginFrame, hstream] at hst
  rw [hstream] at hframes hnext hstarted hnum hkey
  rw [sget_digestBoundary] at hkey
  have hcourse : (t.stream id).lsc.course = (h (s.stream id).lsc).course := by
    rw [hst.stream, course_showFrame keepsCourse_turnTaps, ← hstream]
    cases f.key <;> simp [endKeyRequest]
  obtain ⟨hf, -, hn, hs⟩ : (t.stream id).lsc.frames = _ ∧ _ = _ ∧ _ = _ ∧ _ = _ := by
    simpa only [Lsc.course, Prod.mk.injEq] using hcourse
  refine ⟨f, hf.trans hframes, hnum, htime, hkey, hn.trans hnext, hs.trans hstarted,
    (hst.sget (by decide) id).trans (frame_showFrame keepsCourse_turnTaps), fun hk => ⟨?_, ?_⟩⟩
  · rw [hst.sget (by decide), keyPend_showFrame keepsCourse_turnTaps, hk]
    exact keyPend_endKeyRequest
  · rw [hst.sget (by decide), hsince hk]
    exact sinceKey_showFrame keepsCourse_turnTaps (by decide)

/-! ## A Campion plot goes on -/

/-- What the next 20 ms frame of an open plot changes: the numbering, and the frame's rows. -/
theorem then_encContinue {f : LscFrame} {i : LscInput} : ∃ h g,
    u.then (encContinue id f i) = ((u.then (updLsc id h)).then (updFrame id f.frame g)).then
      (showFrame id (u.stream id).lsc.nextFrame f.nrow
        (turnTaps id (((u.stream id).lsc.nextFrame + 2 ^ 32 - 1) % 2 ^ 32) (u.stream id).lsc.nextFrame)) ∧
    (h (u.stream id).lsc).frames = (u.stream id).lsc.frames ∧ (h (u.stream id).lsc).taps = (u.stream id).lsc.taps ∧
    (h (u.stream id).lsc).nextFrame = ((u.stream id).lsc.nextFrame + 1) % 2 ^ 32 ∧
    (g f).frame = f.frame ∧ (g f).nrow = f.nrow + 1 ∧ (g f).ended = f.ended := by
  unfold encContinue
  rw [then_app]
  simp only [then_seq_cons, then_seq_nil, showFrame, turnTaps]
  exact ⟨_, _, rfl, rfl, rfl, rfl, rfl, rfl, rfl⟩

/-- With no tap retained, no head loses an evaluation, and memory stays as it is. -/
theorem mem_turnTaps {lo n : Nat} (h : (u.stream id).lsc.taps = []) : (u.then (turnTaps id lo n)).mem = u.mem := by
  have hdrop : (u.then (dropTaps id lo)).mem = u.mem := by
    unfold dropTaps
    rw [then_app, h]
    rfl
  have hnote : AllEff Eff.offMem (noteTaps id n) := allEff_iff.2 fun w => by simp [noteTaps, Eff.offMem]
  rw [turnTaps, then_seq_cons, then_seq_cons, then_seq_nil, mem_off _ hnote, hdrop]

theorem encPlot_continues {i : LscInput} {f : LscFrame} (he : s.isLscEnc id = true) (hi : s.lscInput id = some i)
    (hopen : (s.stream id).lsc.frames.find? (fun f => !f.ended) = some f) (hrows : f.nrow < 50)
    (hkey : s.sget F.ECE_LSCLIVE1_KEYPEND id = 0) : gives (.lscEncFrameBoundary id) s fun t =>
      (∃ g ∈ (t.stream id).lsc.frames, g.frame = f.frame ∧ g.nrow = f.nrow + 1 ∧ g.ended = false) ∧
      (t.stream id).lsc.frames.length = (s.stream id).lsc.frames.length ∧
      (t.stream id).lsc.nextFrame = ((s.stream id).lsc.nextFrame + 1) % 2 ^ 32 ∧
      t.sget F.ECE_LSCLIVE1_SINCEKEY id = f.nrow ∧ ((s.stream id).lsc.taps = [] → sameMem s t) := by
  have hthen : s.then (lscEncFrameBoundaryX id) = s.then (encContinue id f i) := by
    simp [State.then, lscEncFrameBoundaryX, he, hi, hopen, hrows, hkey]
  obtain ⟨h, g, hsteps, hframes, htaps, hnext, hnum, hnrow, hended⟩ := then_encContinue (u := s) (id := id) (f := f) (i := i)
  refine done_holds fun t hst => ?_
  rw [hthen, hsteps] at hst
  have hcourse := (congrArg (fun x : Stream => x.lsc.course) (hst.stream id)).trans (course_showFrame keepsCourse_turnTaps)
  simp only [stream_updFrame, stream_updLsc, Lsc.course, Prod.mk.injEq, hframes, hnext] at hcourse
  obtain ⟨hf, -, hn, -⟩ := hcourse
  refine ⟨⟨g f, ?_, hnum, hnrow, ?_⟩, by rw [hf, List.length_map], hn, ?_, fun hno a => ?_⟩
  · rw [hf]
    exact List.mem_map.2 ⟨f, List.mem_of_find?_eq_some hopen, if_pos rfl⟩
  · simpa [hended] using List.find?_some hopen
  · rw [hst.sget (by decide)]
    exact sinceKey_showFrame keepsCourse_turnTaps (by omega)
  · rw [hst.byte, State.byte, State.byte, then_showFrame, mem_turnTaps (by simp [htaps, hno])]
    rfl

end Sys2Proof.Machine
end

section
/-! The boundaries of a decoder's frames (R67), and the commands of an encoder's slot (R52, R63, R71). -/
namespace Sys2Proof.Machine
open Sys2Proof.Say

variable {s u : State} {id : Nat}

/-! ## A decoder's frame begins -/

/-- The settings that come into force at a decoder's boundary. -/
def decShadow (id : Nat) (hold : Bool) : Act :=
  .seq [.when hold (.seq [applyRegs id lscRegs, setS F.ECE_LSCLIVE1_SHDPEND id 0, syncPins]), digestBoundary id stLsc]

theorem stream_decShadow (hold : Bool) (i : Nat) : (u.then (decShadow id hold)).stream i = u.stream i := by
  have htsets (t : Nat) (w : State) : Effs Eff.offStream (syncTsets t w) := by simp [syncTsets, Eff.offStream]
  have hoff : AllEff Eff.offStream (decShadow id hold) := allEff_iff.2 fun w => by
    simp [decShadow, applyRegs, syncPins, htsets, digestBoundary, Eff.offStream]
  rw [State.stream, streams_off u hoff, State.stream]

/-- The heads due on one of the frames that begin learn which taps each retains. -/
def turnPlotTaps (id lo : Nat) (ns : List Nat) (n : Nat) : Act :=
  .seq [dropTaps id lo, .each ns fun j => noteTaps id ((n + j) % 2 ^ 32)]

theorem keepsCourse_turnPlotTaps {lo n : Nat} {ns : List Nat} : AllEff (Eff.keepsLsc Lsc.course) (turnPlotTaps id lo ns n) :=
  allEff_iff.2 fun w => by simp [turnPlotTaps]

/-- What a decoder's frame that begins does: `h` and `g` are its changes of the stream's learned-codec state and of the frame. -/
def beginDecFrame (id n since lo : Nat) (hold : Bool) (ns : List Nat) (h : Lsc → Lsc) (g : LscFrame → LscFrame) : Act := .seq
  [.when hold (.seq [applyRegs id lscRegs, setS F.ECE_LSCLIVE1_SHDPEND id 0, syncPins]), digestBoundary id stLsc,
   updLsc id h, updFrame id n g, setS F.ECE_LSCLIVE0_FRAME id n, setS F.ECE_LSCLIVE1_SINCEKEY id (min 1023 since),
   dropTaps id lo, .each ns fun j => noteTaps id ((n + j) % 2 ^ 32)]

theorem then_beginDecFrame (n since lo : Nat) (hold : Bool) (ns : List Nat) (h : Lsc → Lsc) (g : LscFrame → LscFrame) :
    u.then (beginDecFrame id n since lo hold ns h g) = (((u.then (decShadow id hold)).then (updLsc id h)).then (updFrame id n g)).then
      (showFrame id n (min 1023 since) (turnPlotTaps id lo ns n)) := by
  simp only [beginDecFrame, then_seq_cons, then_seq_nil, showFrame, turnPlotTaps, decShadow]

section
variable {f : LscFrame} {rest : List LscFrame} (hd : s.isLscDec id = true) (hframes : (s.stream id).lsc.frames = f :: rest)
  (hfinal : f.final = none) (hbegun : f.begun = false) (href : f.refDone = true) (hok : (s.stream id).lsc.refused = none)
  (hgo : f.closed = true ∨ f.plots.any (fun p => p.phase == .arrived) = true)
include hd hframes hfinal hbegun href hok hgo

/-- What the begin of a decoder's frame changes: the pool's marks, and the mark that it has begun. -/
theorem then_lscDecFrameBoundary : ∃ since lo hold ns h g,
    s.then (lscDecFrameBoundaryX id) = s.then (beginDecFrame id f.frame since lo hold ns h g) ∧
      (h (s.stream id).lsc).frames = (s.stream id).lsc.frames ∧ (h (s.stream id).lsc).pool =
        (if f.shape.camp then poolTurn ((f.frame + 2 ^ 32 - 1) % 2 ^ 32) (s.stream id).lsc.pool
          else poolBegin (s.stream id).lsc.pool) ∧
      (g f).frame = f.frame ∧ (g f).begun = true ∧ (f.key = true → since = 0) := by
  have hno : ¬ ((!s.isLscDec id) = true ∨ (s.stream id).lsc.refused.isSome = true ∨ f.final.isSome = true ∨ f.begun = true ∨
      (!f.refDone) = true ∨ (!(f.closed || f.plots.any fun p => p.phase == .arrived)) = true) := by
    rcases hgo with h | h <;> simp [hd, hok, hfinal, hbegun, href, h]
  simp only [State.then, lscDecFrameBoundaryX, hframes, List.head?_cons, if_neg hno]
  exact ⟨_, _, _, _, _, _, rfl, hframes, rfl, rfl, rfl, fun hk => if_pos hk⟩

theorem decFrame_begins : gives (.lscDecFrameBoundary id) s fun t =>
      (∃ g l, (t.stream id).lsc.frames = g :: l ∧ g.frame = f.frame ∧ g.begun = true) ∧
      (f.shape.camp = false → (t.stream id).lsc.pool = poolBegin (s.stream id).lsc.pool) ∧
      (f.shape.camp = true → (t.stream id).lsc.pool = poolTurn ((f.frame + 2 ^ 32 - 1) % 2 ^ 32) (s.stream id).lsc.pool) ∧
      t.sget F.ECE_LSCLIVE0_FRAME id = f.frame % 2 ^ 32 ∧ (f.key = true → t.sget F.ECE_LSCLIVE1_SINCEKEY id = 0) := by
  obtain ⟨since, lo, hold, ns, h, g, hsteps, hsame, hpool, hnum, hbegin, hsince⟩ :=
    then_lscDecFrameBoundary hd hframes hfinal hbegun href hok hgo
  refine done_holds fun t hst => ?_
  rw [hsteps, then_beginDecFrame] at hst
  have hcourse := (congrArg (fun x : Stream => x.lsc.course) (hst.stream id)).trans (course_showFrame keepsCourse_turnPlotTaps)
  simp only [stream_updFrame, stream_updLsc, stream_decShadow, Lsc.course, Prod.mk.injEq, hsame, hpool, hframes, List.map_cons,
    if_true] at hcourse
  obtain ⟨hf, hp, -, -⟩ := hcourse
  refine ⟨⟨g f, _, hf, hnum, hbegin⟩, fun hc => ?_, fun hc => ?_,
    (hst.sget (by decide) id).trans (frame_showFrame keepsCourse_turnPlotTaps), fun hk => ?_⟩
  · rw [hp, hc]
    rfl
  · rw [hp, hc]
    rfl
  · rw [hst.sget (by decide), hsince hk]
    exact sinceKey_showFrame keepsCourse_turnPlotTaps (by decide)

end

/-! ## Commands of an encoder's slot -/

variable {q : Requester} {k kt ix : Nat}

/-- A slot's fields by its tile and its number there. -/
theorem sget_slot (h64 : kt < 64) (h256 : ix < 256) (f : Fld) : u.sget f (kt * 256 + ix) = u.get f kt ix := by
  have hhome : homeOf (kt * 256 + ix) = kt := by unfold homeOf; omega
  have hslot : slotOf (kt * 256 + ix) = ix := by unfold slotOf; omega
  rw [State.sget, hhome, hslot]

/-- A command that reaches an encoder's slot sets its bit and is carried out. -/
theorem then_lscCommand {f : Fld} {a : Nat → Act} (hl : s.lands q k .ECE_LSCCMD 0 true = some (kt, ix))
    (he : s.isLscEnc (kt * 256 + ix) = true) :
    s.then (lscCommand q k f a) = (s.then (setS f (kt * 256 + ix) 1)).then (a (kt * 256 + ix)) := by
  have hthen : s.then (lscCommand q k f a) = s.then (.seq [setS f (kt * 256 + ix) 1, a (kt * 256 + ix)]) := by
    unfold lscCommand writeReg
    rw [then_accessReg hl]
    simp only [State.then, if_pos he]
  rw [hthen, then_seq_cons, then_seq_cons, then_seq_nil]

/-- The effect sets a field of a register of a list. -/
def Eff.inRegs (l : List Reg) : Eff → Prop
  | .fld f _ _ _ => f.reg ∈ l
  | _ => False

/-- A command that sets registers of a list leaves every other register alone, memory and the contexts. -/
theorem same_of_inRegs {l : List Reg} {a : Act} {t : State} (h : AllEff (Eff.inRegs l) a) (hst : SnapSame (s.then a) t) :
    sameRegs l s t ∧ sameMem s t ∧ sameContexts s t := by
  refine ⟨fun r hr j x => ?_, same_of_onRegs s (h.mono fun e he => ?_) hst⟩
  · obtain ⟨hcnt, hl⟩ : r ≠ .SNP_CNT ∧ r ∉ l := by simpa using hr
    refine (hst.reg r j x hcnt).trans (reg_off s (h.mono fun e he => ?_) j x)
    cases e with
    | fld f => exact fun hf => hl (hf ▸ he)
    | _ => exact he.elim
  · cases e with
    | fld f => trivial
    | _ => exact he.elim

theorem keyreq_lands (hl : s.lands q k .ECE_LSCCMD 0 true = some (kt, ix)) (h64 : kt < 64) (h256 : ix < 256)
    (he : s.isLscEnc (kt * 256 + ix) = true) : gives (.lscKeyreq q k) s fun t =>
      t.get F.ECE_LSCCMD_KEYREQ kt ix = 1 ∧ t.get F.ECE_LSCLIVE1_KEYPEND kt ix = 1 ∧
      t.get F.ECE_LSCCNT_REFCNT kt ix = min F.ECE_LSCCNT_REFCNT.maxVal (s.get F.ECE_LSCCNT_REFCNT kt ix + 1) ∧
      sameRegs [.ECE_LSCCMD, .ECE_LSCCNT, .ECE_LSCLIVE1] s t ∧ sameMem s t ∧ sameContexts s t := by
  refine done_holds fun t hst => ?_
  have hall : AllEff (Eff.inRegs [.ECE_LSCCMD, .ECE_LSCCNT, .ECE_LSCLIVE1])
      (.seq [setS F.ECE_LSCCMD_KEYREQ (kt * 256 + ix) 1, keyRequest (kt * 256 + ix)]) := allEff_iff.2 fun w => by
    simp [keyRequest, Eff.inRegs, F.ECE_LSCCMD_KEYREQ, F.ECE_LSCCNT_REFCNT, F.ECE_LSCLIVE1_KEYPEND]
  rw [lscKeyreqX, then_lscCommand hl he] at hst
  refine ⟨?_, ?_, ?_, same_of_inRegs hall (by simpa only [then_seq_cons, then_seq_nil] using hst)⟩
  all_goals
    rw [← sget_slot h64 h256, hst.sget (by decide), keyRequest, then_seq_cons, then_seq_cons, then_seq_nil]
  · rw [sget_setS_ne (by decide) (by decide), sget_countS_ne (by decide) (by decide)]
    exact sget_setS (by decide)
  · exact sget_setS (by decide)
  · rw [sget_setS_ne (by decide) (by decide), sget_countS (by decide), sget_setS_ne (by decide) (by decide), sget_slot h64 h256]

theorem rcreset_lands (hl : s.lands q k .ECE_LSCCMD 0 true = some (kt, ix)) (h64 : kt < 64) (h256 : ix < 256)
    (he : s.isLscEnc (kt * 256 + ix) = true) : gives (.lscRcreset q k) s fun t =>
      t.get F.ECE_LSCCMD_RCRESET kt ix = 1 ∧ sameRegs [.ECE_LSCCMD] s t ∧ sameMem s t ∧ sameContexts s t := by
  refine done_holds fun t hst => ?_
  have hall : AllEff (Eff.inRegs [.ECE_LSCCMD]) (setS F.ECE_LSCCMD_RCRESET (kt * 256 + ix) 1) := allEff_iff.2 fun w => by
    simp [Eff.inRegs, F.ECE_LSCCMD_RCRESET]
  rw [lscRcresetX, then_lscCommand hl he, then_none] at hst
  refine ⟨?_, same_of_inRegs hall hst⟩
  rw [← sget_slot h64 h256, hst.sget (by decide)]
  exact sget_setS (by decide)

/-- Settles O24: each boundary is its choices and changes, and then what it shows; the taps and heads that follow leave that alone. -/
theorem learnedFramesBegin : Obligations.LearnedFramesBegin :=
  ⟨fun _ _ _ _ he hi hopen hpool hshadow hrc hp => encFrame_begins he hi hopen hpool hshadow hrc hp,
    fun _ _ _ _ he hi hopen hrows hkey => encPlot_continues he hi hopen hrows hkey,
    fun _ _ _ _ hd hframes hfinal hbegun href hok hgo => decFrame_begins hd hframes hfinal hbegun href hok hgo,
    fun _ _ _ _ _ hl h64 h256 he => keyreq_lands hl h64 h256 he,
    fun _ _ _ _ _ hl h64 h256 he => rcreset_lands hl h64 h256 he⟩

end Sys2Proof.Machine
end

section
/-! What goes on beside a learned-codec frame: its taps, and in a decoder the missing references and plots of the oldest frame. How
far the frames have come, and the pool, stay as they are. -/
namespace Sys2Proof.Machine

variable {α : Type} {v : Lsc → α} {u : State}

/-- A change of plots that leaves the phase of each leaves the phases. -/
theorem phases_map {l : List PlotSt} {k : PlotSt → PlotSt} (h : ∀ p, (k p).phase = p.phase) :
    (l.map k).map (·.phase) = l.map (·.phase) := by
  rw [List.map_map]
  exact List.map_congr_left fun p _ => h p

/-! ## Taps -/

@[simp] theorem keepsMarks_putTap {id tap frame keyAt : Nat} {dims : Nat × Nat × Nat} {bytes : List Byte} {bad : Bool} :
    Effs (Eff.keepsLsc Lsc.marks) (putTap id tap frame keyAt dims bytes bad u) := by
  simp [putTap, Lsc.marks, F.ECE_TAPSTAT_READYFRAME, F.ECE_TAPCNT_READY]

@[simp] theorem keepsMarks_tapStep {id frame : Nat} {taps : List Nat} {force : Bool} :
    Effs (Eff.keepsLsc Lsc.marks) (tapStep id frame taps force u) := by
  unfold tapStep
  split
  · simp
  · split
    · simp
    · split
      · simp
      · refine effs_each fun n w => ?_
        split <;> simp

@[simp] theorem keepsMarks_tapCampion {id frame : Nat} : Effs (Eff.keepsLsc Lsc.marks) (tapCampion id frame u) := by
  unfold tapCampion
  split
  · simp
  · split
    · simp
    · refine effs_each fun e w => effs_opt.2 fun b _ => ?_
      exact effs_seq_cons.2 ⟨keepsMarks_putTap, effs_seq_cons.2 ⟨keepsMarks_updFrame fun _ => rfl, effs_seq_nil⟩⟩

/-! ## Layers made again -/

@[simp] theorem keepsLsc_putTensor {p : Prog} {li r q k : Nat} {z : Int} {bad : Bool} :
    Effs (Eff.keepsLsc v) (putTensor p li r q k z bad u) := by
  unfold putTensor
  split <;> simp

@[simp] theorem keepsLsc_remakeAt {x : RunCx} {r q : Nat} : Effs (Eff.keepsLsc v) (remakeAt x r q u) := by
  simp [remakeAt, putBlock, putPos]

@[simp] theorem keepsLsc_remake {p : Prog} {id ix j0 j1 : Nat} {f : LscFrame} {all bare : Bool} :
    Effs (Eff.keepsLsc v) (remake p id f ix j0 j1 all bare u) := by
  refine effs_each fun li w => effs_opt.2 fun l _ => effs_each fun e w => effs_each fun r w => ?_
  simp

@[simp] theorem keepsLsc_decFences {id frame : Nat} : Effs (Eff.keepsLsc v) (decFences id frame u) := by
  unfold decFences
  split
  · simp
  · split
    · simp
    · exact effs_each fun l w => effs_each fun e w => effs_updT.2 trivial

@[simp] theorem keepsLsc_syncFence {t : Nat} : Effs (Eff.keepsLsc v) (syncFence t u) := by
  simp [syncFence, F.ARR_QSTAT_FENCEWAIT]

/-! ## The oldest frame of a decoder -/

@[simp] theorem keepsMarks_lostMeans {id frame : Nat} : Effs (Eff.keepsLsc Lsc.marks) (lostMeans id frame u) := by
  unfold lostMeans
  split
  · exact effs_nil
  · split
    · exact effs_nil
    · dsimp only
      split
      · exact effs_nil
      · split
        · exact effs_nil
        · split
          · exact effs_nil
          · refine effs_seq_cons.2 ⟨keepsMarks_updFrame fun f => ?_, by simp⟩
            simp only [LscFrame.mark, Prod.mk.injEq, true_and]
            exact phases_map fun p => by split <;> rfl

@[simp] theorem keepsMarks_zeroPlot {id : Nat} {f : LscFrame} {e : Prog × Nat × Nat × Nat} {p : PlotSt} :
    Effs (Eff.keepsLsc Lsc.marks) (zeroPlot id f e p u) := by
  refine effs_seq_cons.2 ⟨by simp, effs_seq_cons.2 ⟨keepsMarks_updFrame fun f => ?_, by simp [syncFences]⟩⟩
  simp only [LscFrame.mark, Prod.mk.injEq, true_and]
  exact phases_map fun p => by split <;> rfl

@[simp] theorem keepsMarks_sendRefresh {id frame reason : Nat} {isNew : Bool} :
    Effs (Eff.keepsLsc Lsc.marks) (sendRefresh id frame reason isNew u) := by
  unfold sendRefresh
  dsimp only
  split
  · simp
  · cases (u.stream id).lsc.fromPeer <;> simp [Lsc.marks, F.ECE_LSCCNT_REFCNT]

@[simp] theorem keepsMarks_decEvent {id reason : Nat} {f : LscFrame} : Effs (Eff.keepsLsc Lsc.marks) (decEvent id f reason u) :=
  effs_seq_cons.2 ⟨keepsMarks_updFrame fun _ => rfl, by simp [F.SMV_SCOND0_MISSREF]⟩

/-- Going on with the oldest frame leaves how far the frames have come (R72, R73, R129). -/
theorem keepsMarks_decAdvance {id : Nat} : AllEff (Eff.keepsLsc Lsc.marks) (decAdvance id) := by
  have href (f : LscFrame) (w : State) : Effs (Eff.keepsLsc Lsc.marks) (updFrame id f.frame (fun f => { f with refDone := true }) w) :=
    keepsMarks_updFrame fun _ => rfl
  refine allEff_iff.2 fun u => ?_
  unfold decAdvance
  split
  · simp
  · split
    · simp
    · split <;> simp [href]

end Sys2Proof.Machine
end

section
/-! The latent path of a frame ends (R56), and frames complete and leave (R63 to R65, R72, R73). -/
namespace Sys2Proof.Machine
open Sys2Proof.Say

variable {s u : State} {id : Nat}

/-! ## A latent path ends -/

/-- What the end of a frame's latent path makes of the pool (R56). -/
def poolAfterPath (l : Lsc) (f : LscFrame) : List PoolBuf :=
  if f.shape.camp then
    if l.frames.getLast?.elim false (·.frame == f.frame) then poolDone true false ((f.frame + f.nrow + 2 ^ 32 - 1) % 2 ^ 32) l.pool
    else l.pool
  else poolDone f.key f.ltr f.frame l.pool

theorem lsc_pathPool {f : LscFrame} {e : Prog × Nat × Nat × Nat} : ((u.then (pathPool id f e)).stream id).lsc =
    { (u.stream id).lsc with pool := poolAfterPath (u.stream id).lsc f } := by
  unfold poolAfterPath
  by_cases hc : f.shape.camp = true
  · have hthen : u.then (pathPool id f e) = u.then (.when ((u.stream id).lsc.frames.getLast?.elim false (·.frame == f.frame))
        (updLsc id fun l => { l with pool := poolDone true false ((f.frame + f.nrow + 2 ^ 32 - 1) % 2 ^ 32) l.pool })) := by
      simp only [State.then, pathPool, if_pos hc]
    rw [hthen, then_when, if_pos hc]
    split
    · rw [stream_updLsc]
    · rfl
  · have hthen : ∃ put : Act, AllEff (Eff.keepsLsc fun l => l) put ∧ u.then (pathPool id f e) =
        u.then (.seq [put, updLsc id fun l => { l with pool := poolDone f.key f.ltr f.frame l.pool }]) := by
      simp only [State.then, pathPool, if_neg hc]
      exact ⟨_, .opt fun j => allEff_iff.2 fun w => keepsLsc_memWriteFrom, rfl⟩
    obtain ⟨put, hput, heq⟩ := hthen
    rw [heq, then_seq_cons, then_seq_cons, then_seq_nil, stream_updLsc, lsc_of_keepsLsc hput, if_neg hc]

theorem then_lscLatentPathDone {f : LscFrame} {e : Prog × Nat × Nat × Nat}
    (hf : (s.stream id).lsc.frames.find? (fun f => !f.pathDone && f.final.isNone) = some f)
    (he : ((s.prog (s.stream id).inst f.shape.prog).bind fun p => p.tensors.map fun w => (p, w)) = some e)
    (hready : s.pathReady id f e = true) : s.then (lscLatentPathDoneX id) = (((s.then (pathPool id f e)).then
      (if f.shape.camp then tapCampion id f.frame else tapStep id f.frame [0, 1, 2, 3] true)).then
      (updFrame id f.frame fun f => { f with pathDone := true })).then (.each f.taken fun k => finishInput id k f.srcConds) := by
  have hthen : s.then (lscLatentPathDoneX id) = s.then (.seq [pathPool id f e,
      if f.shape.camp then tapCampion id f.frame else tapStep id f.frame [0, 1, 2, 3] true,
      updFrame id f.frame fun f => { f with pathDone := true }, .each f.taken fun k => finishInput id k f.srcConds]) := by
    simp only [State.then, lscLatentPathDoneX, hf, he, hready, Bool.not_true, Bool.false_eq_true, if_false]
  rw [hthen]
  simp only [then_seq_cons, then_seq_nil]

theorem latentPath_ends {f : LscFrame} {e : Prog × Nat × Nat × Nat}
    (hf : (s.stream id).lsc.frames.find? (fun f => !f.pathDone && f.final.isNone) = some f)
    (he : ((s.prog (s.stream id).inst f.shape.prog).bind fun p => p.tensors.map fun w => (p, w)) = some e)
    (hready : s.pathReady id f e = true) : gives (.lscLatentPathDone id) s fun t =>
      (∀ g ∈ (t.stream id).lsc.frames, g.frame = f.frame → g.pathDone = true) ∧
      (t.stream id).lsc.frames.length = (s.stream id).lsc.frames.length ∧
      (t.stream id).lsc.pool = poolAfterPath (s.stream id).lsc f := by
  refine done_holds fun t hst => ?_
  rw [then_lscLatentPathDone hf he hready] at hst
  have htaps : AllEff (Eff.keepsLsc Lsc.marks)
      (if f.shape.camp then tapCampion id f.frame else tapStep id f.frame [0, 1, 2, 3] true) :=
    .ite (fun _ => allEff_iff.2 fun w => keepsMarks_tapCampion) fun _ => allEff_iff.2 fun w => keepsMarks_tapStep
  have hinputs : AllEff (Eff.keepsLsc fun l => l) (.each f.taken fun k => finishInput id k f.srcConds) :=
    .each fun _ _ => allEff_iff.2 fun w => keepsLsc_finishInput
  have hmarks := lsc_of_keepsLsc (u := s.then (pathPool id f e)) htaps id
  rw [lsc_pathPool] at hmarks
  have hlsc := (congrArg Stream.lsc (hst.stream id)).trans (lsc_of_keepsLsc hinputs id)
  rw [stream_updFrame] at hlsc
  generalize ((s.then (pathPool id f e)).then _).stream id = x at hmarks hlsc
  obtain ⟨hpool, hframes⟩ := Prod.mk.inj hmarks
  rw [hlsc]
  refine ⟨fun g hg hnum => ?_, ?_, hpool⟩
  · obtain ⟨y, -, rfl⟩ := List.mem_map.1 hg
    split at hnum
    · next hy => rw [if_pos hy]
    · next hy => exact absurd hnum hy
  · rw [List.length_map]
    simpa using congrArg List.length hframes

/-! ## An encoder's frame completes -/

/-- What `ECE_RCSTAT` shows of a frame that completes (R64, R65). -/
def showRate (id : Nat) (f : LscFrame) : Act := .seq
  [setS F.ECE_RCSTAT_FILLED id (b2n (f.fill != 0)), setS F.ECE_RCSTAT_LASTBYTES id (min (2 ^ 24 - 1) f.coded),
   .when f.clampEvent (.seq [setS F.ECE_RCSTAT_CLAMP id 1, countS F.ECE_LSCCNT_CLAMPS id 1])]

theorem b2n_lt_two (b : Bool) : b2n b < 2 := by cases b <;> decide

theorem sget_showRate (f : LscFrame) :
    (u.then (showRate id f)).sget F.ECE_RCSTAT_LASTBYTES id = min (2 ^ 24 - 1) f.coded ∧
    (u.then (showRate id f)).sget F.ECE_RCSTAT_FILLED id = b2n (f.fill != 0) ∧
    (f.clampEvent = true → (u.then (showRate id f)).sget F.ECE_RCSTAT_CLAMP id = 1) := by
  have hclamp {g : Fld} (hok : g.ok = true) (h1 : g.reg ≠ .ECE_LSCCNT) (h2 : 24 < g.lo ∨ g.hi < 24) (w : State) :
      (w.then (.when f.clampEvent (.seq [setS F.ECE_RCSTAT_CLAMP id 1, countS F.ECE_LSCCNT_CLAMPS id 1]))).sget g id =
        w.sget g id := by
    rw [then_when]
    split
    · rw [then_seq_cons, then_seq_cons, then_seq_nil, sget_countS_ne hok (.inl h1), sget_setS_ne hok (.inr h2)]
    · rfl
  simp only [showRate, then_seq_cons, then_seq_nil]
  refine ⟨?_, ?_, fun hc => ?_⟩
  · rw [hclamp (by decide) (by decide) (by decide), sget_setS (by decide)]
    exact Nat.mod_eq_of_lt ((Nat.min_le_left _ _).trans_lt (by decide))
  · rw [hclamp (by decide) (by decide) (by decide), sget_setS_ne (by decide) (by decide), sget_setS (by decide)]
    exact Nat.mod_eq_of_lt (b2n_lt_two _)
  · rw [then_when, if_pos hc, then_seq_cons, then_seq_cons, then_seq_nil, sget_countS_ne (by decide) (by decide)]
    exact sget_setS (by decide)

/-- The quality indices that the next frame starts from (R63). -/
def carryQuality (id : Nat) (f : LscFrame) : Act :=
  if f.shape.camp then updLsc id fun l => { l with
      campQ := (List.range f.shape.channels).map fun c => (f.lastQ c).getD (f.start.getD c 0) }
  else .opt (f.lastQ 0) fun q => setS (if f.key then F.ECE_LSCLIVE1_QK else F.ECE_LSCLIVE1_QD) id q

theorem sget_carryQuality {f : LscFrame} {g : Fld} (hok : g.ok = true) (hg : g.reg = .ECE_RCSTAT) :
    (u.then (carryQuality id f)).sget g id = u.sget g id := by
  unfold carryQuality
  split
  · rfl
  · cases f.lastQ 0 with
    | none => rfl
    | some q =>
      rw [then_opt_some, sget_setS_ne hok (.inl ?_)]
      rw [hg]
      split <;> decide

/-- Between what a frame that completes shows and its leaving stands only its report: its record, its conditions and its source's
mark. -/
theorem then_lscFrameComplete {f : LscFrame} {rest : List LscFrame} {p : Prog} (he : s.isLscEnc id = true)
    (hframes : (s.stream id).lsc.frames = f :: rest) (hout : f.emitted = true) (hpath : f.pathDone = true)
    (hrecon : s.slive F.ECE_LSCW4_RECON_EN id = 0) (hp : s.prog (s.stream id).inst f.shape.prog = some p) :
    ∃ report : Act, AllEff (Eff.keepsLsc Lsc.course) report ∧ s.then (lscFrameCompleteX id) =
      ((((s.then (showRate id f)).then (carryQuality id f)).then report).then (updLsc id fun l => { l with frames := rest })).then
        (.seq [releasePics id f.pics, egressPump id]) := by
  have hthen : s.then (lscFrameCompleteX id) = s.then (.seq [setS F.ECE_RCSTAT_FILLED id (b2n (f.fill != 0)),
      setS F.ECE_RCSTAT_LASTBYTES id (min (2 ^ 24 - 1) f.coded),
      .when f.clampEvent (.seq [setS F.ECE_RCSTAT_CLAMP id 1, countS F.ECE_LSCCNT_CLAMPS id 1]), carryQuality id f,
      .when false (putOutput (homeOf id) id (s.recon p f).1 (s.recon p f).2.2 false),
      countConditions id (s.frameConds id f), workRecord id f.frame (pickStatus (s.frameConds id f)) f.digest,
      srcDone id f.frame (if f.shape.camp then f.nrow else 1) f.ptime (s.frameConds id f) f.incondOut,
      updLsc id fun l => { l with frames := rest }, releasePics id f.pics, egressPump id]) := by
    simp only [State.then, lscFrameCompleteX, he, hframes, hp, hout, hpath, hrecon]
    rfl
  refine ⟨.seq [countConditions id (s.frameConds id f), workRecord id f.frame (pickStatus (s.frameConds id f)) f.digest,
      srcDone id f.frame (if f.shape.camp then f.nrow else 1) f.ptime (s.frameConds id f) f.incondOut],
    allEff_iff.2 fun w => by simp, ?_⟩
  rw [hthen]
  simp only [then_seq_cons, then_seq_nil, showRate, then_when, Bool.false_eq_true, if_false]

theorem encFrame_completes {f : LscFrame} {rest : List LscFrame} {p : Prog} (he : s.isLscEnc id = true)
    (hframes : (s.stream id).lsc.frames = f :: rest) (hout : f.emitted = true) (hpath : f.pathDone = true)
    (hrecon : s.slive F.ECE_LSCW4_RECON_EN id = 0) (hp : s.prog (s.stream id).inst f.shape.prog = some p) :
    gives (.lscFrameComplete id) s fun t =>
      (t.stream id).lsc.frames = rest ∧ t.sget F.ECE_RCSTAT_LASTBYTES id = min (2 ^ 24 - 1) f.coded ∧
      t.sget F.ECE_RCSTAT_FILLED id = b2n (f.fill != 0) ∧ (f.clampEvent = true → t.sget F.ECE_RCSTAT_CLAMP id = 1) := by
  obtain ⟨report, hreport, hsteps⟩ := then_lscFrameComplete he hframes hout hpath hrecon hp
  refine done_holds fun t hst => ?_
  rw [hsteps] at hst
  have hleave : AllEff (Eff.keepsLsc Lsc.frames) (.seq [releasePics id f.pics, egressPump id]) := allEff_iff.2 fun w => by simp
  have hshown {g : Fld} (hok : g.ok = true) (hg : g.reg = .ECE_RCSTAT) : t.sget g id = (s.then (showRate id f)).sget g id := by
    have hmem : g.reg ∈ lscShown := by simp [hg]
    rw [hst.sget (by simp [hg]), sget_of_keepsLsc hleave hmem, sget_updLsc, sget_of_keepsLsc hreport hmem, sget_carryQuality hok hg]
  obtain ⟨hbytes, hfilled, hclamp⟩ := sget_showRate (u := s) (id := id) f
  refine ⟨?_, (hshown (by decide) rfl).trans hbytes, (hshown (by decide) rfl).trans hfilled,
    fun hc => (hshown (by decide) rfl).trans (hclamp hc)⟩
  rw [hst.stream]
  refine (lsc_of_keepsLsc hleave id).trans ?_
  rw [stream_updLsc]

/-! ## A decoder's frame completes -/

theorem length_decAdvance : ((u.then (decAdvance id)).stream id).lsc.frames.length = (u.stream id).lsc.frames.length := by
  simpa using congrArg List.length (Prod.mk.inj (lsc_of_keepsLsc (u := u) (keepsMarks_decAdvance (id := id)) id)).2

/-- The oldest frame leaves. -/
theorem length_dropFrame : ((u.then (dropFrame id)).stream id).lsc.frames.length = (u.stream id).lsc.frames.tail.length := by
  rw [dropFrame, then_seq_cons, then_seq_cons, then_seq_nil, length_decAdvance, stream_updLsc]

theorem sget_dropFrame {g : Fld} (hg : g.reg ∈ lscShown) : (u.then (dropFrame id)).sget g id = u.sget g id := by
  rw [dropFrame, then_seq_cons, then_seq_cons, then_seq_nil, sget_of_keepsLsc keepsMarks_decAdvance hg,
    sget_updLsc]

/-- A frame that waited only for its turn is recorded and leaves (R150). -/
theorem then_lscDecFrameComplete_final {f : LscFrame} {rest : List LscFrame} {st : Nat} (hd : s.isLscDec id = true)
    (hframes : (s.stream id).lsc.frames = f :: rest) (hfinal : f.final = some st) :
    s.then (lscDecFrameCompleteX id) = (s.then (workRecord id f.frame st 0)).then (dropFrame id) := by
  have hthen : s.then (lscDecFrameCompleteX id) = s.then (.seq [workRecord id f.frame st 0, dropFrame id]) := by
    simp only [State.then, lscDecFrameCompleteX, hd, hframes, List.head?_cons, hfinal, Bool.not_true, Bool.false_eq_true, if_false]
  rw [hthen, then_seq_cons, then_seq_cons, then_seq_nil]

theorem then_lscDecFrameComplete {f : LscFrame} {rest : List LscFrame} {p : Prog} (hd : s.isLscDec id = true)
    (hframes : (s.stream id).lsc.frames = f :: rest) (hfinal : f.final = none) (hpath : f.pathDone = true)
    (hp : s.prog (s.stream id).inst f.shape.prog = some p) (hdone : s.reconDone p f id = true) :
    ∃ report : Act, AllEff (Eff.keepsLsc Lsc.course) report ∧ s.then (lscDecFrameCompleteX id) =
      (((s.then (setS F.ECE_LSCLIVE1_CONCEAL id (b2n (f.event || (s.sget F.ECE_LSCLIVE1_CONCEAL id == 1 && !f.key))))).then
        (setS F.ECE_RCSTAT_LASTBYTES id (min (2 ^ 24 - 1) f.coded))).then report).then (dropFrame id) := by
  have hthen : ∃ written bytes bad good conds digest, s.then (lscDecFrameCompleteX id) = s.then (.seq
      [setS F.ECE_LSCLIVE1_CONCEAL id (b2n (f.event || (s.sget F.ECE_LSCLIVE1_CONCEAL id == 1 && !f.key))),
        setS F.ECE_RCSTAT_LASTBYTES id (min (2 ^ 24 - 1) f.coded), .when written (putOutput (homeOf id) id bytes bad false),
        .when good (updLsc id fun l => { l with lastGood := f.frame }), countConditions id conds,
        workRecord id f.frame (pickStatus conds) digest,
        srcDone id f.frame (if f.shape.camp then f.nrow else 1) f.ptime conds f.incond, dropFrame id]) := by
    simp only [State.then, lscDecFrameCompleteX, hd, hframes, List.head?_cons, hfinal, hp, hpath, hdone, Bool.not_true,
      Bool.false_eq_true, and_false, or_false, if_false]
    exact ⟨_, _, _, _, _, _, rfl⟩
  obtain ⟨written, bytes, bad, good, conds, digest, heq⟩ := hthen
  refine ⟨.seq [.when written (putOutput (homeOf id) id bytes bad false),
    .when good (updLsc id fun l => { l with lastGood := f.frame }), countConditions id conds, workRecord id f.frame (pickStatus conds) digest,
    srcDone id f.frame (if f.shape.camp then f.nrow else 1) f.ptime conds f.incond],
    allEff_iff.2 fun w => by simp [Lsc.course], ?_⟩
  rw [heq]
  simp only [then_seq_cons, then_seq_nil]

theorem decFrame_completes {f : LscFrame} {rest : List LscFrame} {p : Prog} (hd : s.isLscDec id = true)
    (hframes : (s.stream id).lsc.frames = f :: rest) (hfinal : f.final = none) (hpath : f.pathDone = true)
    (hp : s.prog (s.stream id).inst f.shape.prog = some p) (hdone : s.reconDone p f id = true) :
    gives (.lscDecFrameComplete id) s fun t =>
      t.sget F.ECE_LSCLIVE1_CONCEAL id = b2n (f.event || (s.sget F.ECE_LSCLIVE1_CONCEAL id == 1 && !f.key)) ∧
      (t.stream id).lsc.frames.length = rest.length ∧ t.sget F.ECE_RCSTAT_LASTBYTES id = min (2 ^ 24 - 1) f.coded := by
  obtain ⟨report, hreport, hsteps⟩ := then_lscDecFrameComplete hd hframes hfinal hpath hp hdone
  refine done_holds fun t hst => ?_
  rw [hsteps] at hst
  refine ⟨?_, ?_, ?_⟩
  · rw [hst.sget (by decide), sget_dropFrame (by decide), sget_of_keepsLsc hreport (by decide),
      sget_setS_ne (by decide) (by decide), sget_setS (by decide)]
    exact Nat.mod_eq_of_lt (b2n_lt_two _)
  · rw [hst.stream, length_dropFrame, (Prod.mk.inj (lsc_of_keepsLsc hreport id)).1, stream_setS, stream_setS, hframes,
      List.tail_cons]
  · rw [hst.sget (by decide), sget_dropFrame (by decide), sget_of_keepsLsc hreport (by decide),
      sget_setS (by decide)]
    exact Nat.mod_eq_of_lt ((Nat.min_le_left _ _).trans_lt (by decide))

theorem finalFrame_leaves {f : LscFrame} {rest : List LscFrame} {st : Nat} (hd : s.isLscDec id = true)
    (hframes : (s.stream id).lsc.frames = f :: rest) (hfinal : f.final = some st) : gives (.lscDecFrameComplete id) s fun t =>
      (t.stream id).lsc.frames.length = rest.length ∧ t.sget F.ECE_LSCLIVE1_CONCEAL id = s.sget F.ECE_LSCLIVE1_CONCEAL id := by
  have hrecord : AllEff (Eff.keepsLsc Lsc.frames) (workRecord id f.frame st 0) := allEff_iff.2 fun w => keepsLsc_workRecord
  refine done_holds fun t hst => ?_
  rw [then_lscDecFrameComplete_final hd hframes hfinal] at hst
  constructor
  · rw [hst.stream, length_dropFrame, lsc_of_keepsLsc hrecord, hframes, List.tail_cons]
  · rw [hst.sget (by decide), sget_dropFrame (by decide), sget_of_keepsLsc hrecord (by decide)]

/-! ## A frame closes -/

/-- A frame without the plots that have not arrived (R73). -/
def LscFrame.close (f : LscFrame) : LscFrame := { f with closed := true, plots := f.plots.map fun p =>
  if p.phase = .waiting then { p with phase := .missing } else p }

theorem not_waiting_close {f : LscFrame} : PlotPhase.waiting ∉ f.close.plots.map (·.phase) := by
  simp only [LscFrame.close, List.map_map, List.mem_map, not_exists, not_and, Function.comp]
  intro p _
  split
  · exact PlotPhase.noConfusion
  · assumption

theorem then_closeFrame {f : LscFrame} (hopen : (s.stream id).lsc.openFrame = some f) :
    s.then (closeFrame id) = (s.then (updFrame id f.frame LscFrame.close)).then (decAdvance id) := by
  have hthen : s.then (closeFrame id) = s.then (.seq [updFrame id f.frame LscFrame.close, decAdvance id]) := by
    simp only [State.then, closeFrame, hopen]
    rfl
  rw [hthen, then_seq_cons, then_seq_cons, then_seq_nil]

theorem openFrame_closes {f : LscFrame} (hd : s.isLscDec id = true) (hwait : s.slive F.ECE_LSCW2_DEC_WAIT id ≠ 0)
    (hopen : (s.stream id).lsc.openFrame = some f) : gives (.decWaitExpiry id) s fun t =>
      (∀ g ∈ (t.stream id).lsc.frames, g.frame = f.frame → g.closed = true ∧ ∀ p ∈ g.plots, p.phase ≠ .waiting) ∧
      (t.stream id).lsc.frames.length = (s.stream id).lsc.frames.length := by
  have hthen : s.then (decWaitExpiryX id) = s.then (closeFrame id) := by
    simp only [State.then, decWaitExpiryX, if_pos (And.intro hd hwait)]
  refine done_holds fun t hst => ?_
  rw [hthen, then_closeFrame hopen] at hst
  have hmarks := (congrArg (fun x : Stream => x.lsc.marks) (hst.stream id)).trans (lsc_of_keepsLsc keepsMarks_decAdvance id)
  rw [stream_updFrame] at hmarks
  have hframes := (Prod.mk.inj hmarks).2
  refine ⟨fun g hg hnum => ?_, by simpa using congrArg List.length hframes⟩
  obtain ⟨y, hy, hmark⟩ := List.mem_map.1 (hframes ▸ List.mem_map_of_mem hg)
  obtain ⟨x, -, rfl⟩ := List.mem_map.1 hy
  simp only [LscFrame.mark, Prod.mk.injEq] at hmark
  obtain ⟨hsame, hclosed, -, hphases⟩ := hmark
  rw [hnum] at hsame
  split at hsame
  · next hx =>
    rw [if_pos hx] at hclosed hphases
    refine ⟨hclosed.symm, fun p hp hw => not_waiting_close (f := x) ?_⟩
    rw [hphases]
    exact List.mem_map.2 ⟨p, hp, hw⟩
  · next hx => exact absurd hsame hx

/-- Settles O25: what stands beside a frame's completion leaves its pool, the frames and what they show. -/
theorem learnedFramesComplete : Obligations.LearnedFramesComplete := by
  refine ⟨fun s id f e hf he hready => ?_,
    fun _ _ _ _ _ he hframes hout hpath hrecon hp => encFrame_completes he hframes hout hpath hrecon hp,
    fun _ _ _ _ _ hd hframes hfinal hpath hp hdone => decFrame_completes hd hframes hfinal hpath hp hdone,
    fun _ _ _ _ _ hd hframes hfinal => finalFrame_leaves hd hframes hfinal,
    fun _ _ _ hd hwait hopen => openFrame_closes hd hwait hopen⟩
  obtain ⟨t, hexec, hdone, hlen, hpool⟩ := latentPath_ends hf he hready
  refine ⟨t, hexec, hdone, hlen, fun hc => ?_, fun hc => ?_⟩
  · rw [hpool, poolAfterPath, hc]
    rfl
  · rw [hpool, poolAfterPath, if_pos hc]

end Sys2Proof.Machine
end

section
/-! What storing bytes and sending a record or a message can do (R318 to R321, R371, R375, R393 to R397): counters of memory, of the
Yard and of the link, and the tail of a completion ring; no context of a stream or a tenant, and no item, cut or block of a tile. -/
namespace Sys2Proof.Machine

/-- The registers that count what is stored and sent, and that hold the tails of the completion rings. -/
@[simp] def sentRegs : List Reg :=
  [.SMV_CQTAIL, .LNK_ERRSTAT, .LNK_ERRCNT, .BAL_CLSCNT, .BAL_RMWCNT, .MEM_WCINV, .BAL_YSAVED, .YRD_FLIT]

/-- The effect stores or sends, or counts it. -/
@[simp] def Eff.sends : Eff → Prop
  | .fld f _ _ _ | .countU f _ _ _ _ => f.reg ∈ sentRegs
  | .mem _ _ | .poison _ _ | .bale _ _ | .pkg _ | .emit _ | .draw _ => True
  | .tile _ f => ∀ c, (f c).items = c.items ∧ (f c).runs = c.runs ∧ (f c).blocks = c.blocks
  | _ => False

variable {u : State}

@[simp] theorem sends_lnkErr {t code id port : Nat} : Effs Eff.sends (lnkErr t code id port u) := by
  simp [lnkErr, blockErr, F.LNK_ERRSTAT_ERR, F.LNK_ERRSTAT_CODE, F.LNK_ERRCNT_COUNT, F.LNK_ERRSTAT_STREAM, F.LNK_ERRSTAT_PORT]

@[simp] theorem sends_poisonWrite {a n : Nat} {pz : Nat → Bool} : Effs Eff.sends (poisonWrite a n pz u) := by
  intro e he
  obtain ⟨g, _, hg⟩ := List.mem_filterMap.1 he
  split_ifs at hg <;> cases hg <;> trivial

@[simp] theorem sends_memWriteG {a : Nat} {bs : List Byte} {pz : Nat → Bool} {ask : Bool} :
    Effs Eff.sends (memWriteG a bs pz ask u) := by
  simp [memWriteG, baleBlock, wcInvalidate, F.BAL_CLSCNT_COUNT, F.BAL_RMWCNT_COUNT, F.MEM_WCINV_INV]

@[simp] theorem sends_memWrite {a : Nat} {bs : List Byte} {pz ask : Bool} : Effs Eff.sends (memWrite a bs pz ask u) :=
  sends_memWriteG

@[simp] theorem sends_yardSend {t a : Nat} {bs : List Byte} {pz : Bool} : Effs Eff.sends (yardSend t a bs pz u) := by
  simp [yardSend, yardPacket, F.BAL_YSAVED_COUNT, F.YRD_FLIT_COUNT]

@[simp] theorem sends_memWriteFrom {t a : Nat} {bs : List Byte} {pz ask : Bool} :
    Effs Eff.sends (memWriteFrom t a bs pz ask u) := by
  simp [memWriteFrom]

@[simp] theorem sends_putBytes {n a : Nat} {bs : List Byte} {pz : Bool} : Effs Eff.sends (putBytes n a bs pz u) := by
  unfold putBytes
  split
  · split <;> simp
  · simp

@[simp] theorem sends_mvSend {e mtype inst epoch id : Nat} {bs : List Byte} {pz : Bool} {ctx : MvCtx} :
    Effs Eff.sends (mvSend e mtype inst epoch id bs pz ctx .none u) := by
  unfold mvSend mvSendAs
  dsimp only
  split <;> simp [updPeer, updLink, mvPut]

@[simp] theorem sends_cqPush {t r : Nat} {c : Cpl} : Effs Eff.sends (cqPush t r c u) := by
  simp [cqPush, cqWrite, F.SMV_CQTAIL_TAIL]

@[simp] theorem sends_workRecord {id frame st digest : Nat} : Effs Eff.sends (workRecord id frame st digest u) := by
  simp [workRecord]

@[simp] theorem sends_deliver {o : Origin} {c : Cpl} : Effs Eff.sends (deliver o c u) := by
  cases o <;> simp [deliver]

@[simp] theorem sends_putPieces {t n : Nat} {pz ask : Bool} {ps : List Block} {bs : List Byte} :
    Effs Eff.sends (putPieces t n pz ask ps bs u) := by
  induction ps generalizing bs u with
  | nil => exact effs_none
  | cons p ps ih => simp [putPieces, piecePut, ih]

@[simp] theorem sends_putBlock {x : RunCx} {b : BlockAt} {o : BlockOut} {bad : Bool} : Effs Eff.sends (putBlock x b o bad u) := by
  simp [putBlock, putPos]

/-! ## What it leaves alone -/

variable {a : Act}

theorem streams_of_sends (h : AllEff Eff.sends a) : (u.then a).streams = u.streams :=
  streams_off u (h.mono fun e he => by cases e <;> trivial)

theorem insts_of_sends (h : AllEff Eff.sends a) : (u.then a).insts = u.insts :=
  insts_off u (h.mono fun e he => by cases e <;> trivial)

theorem window_of_sends (h : AllEff Eff.sends a) (n : Nat) (ctl : Bool) (id : Nat) :
    (u.then a).window n ctl id = u.window n ctl id := by
  simp only [State.window, State.inst, State.stream, insts_of_sends h, streams_of_sends h]

end Sys2Proof.Machine
end

section
/-! Requests that pass the checks of R315 (R316, R319): they stand in their window while they are executed, and the window holds the
record of one that completes. -/
namespace Sys2Proof.Machine
open Sys2Proof.Say

variable {s u : State} {o : Origin} {opc : Nat} {h : ReqHdr} {p : List Byte}

/-- Steps that come to the same effects lead to the same state. -/
theorem then_congr {a b : Act} (hab : a u = b u) : u.then a = u.then b := congrArg u.run hab

/-! ## Windows -/

theorem window_updW {n id : Nat} {ctl : Bool} {f : Window → Window} :
    (u.then (updW n ctl id f)).window n ctl id = f (u.window n ctl id) := by
  cases ctl
  · exact congrArg Stream.window ((stream_run u id id fun x => { x with window := f x.window }).trans (if_pos rfl))
  · exact congrArg Inst.ctl ((inst_run u n n fun x => { x with ctl := f x.ctl }).trans (if_pos rfl))

/-- The requests that a tenant has in flight are no part of a window. -/
theorem window_updI {n m id : Nat} {ctl : Bool} {f : Inst → Inst} (hf : ∀ x, (f x).ctl = x.ctl) :
    (u.then (updI n f)).window m ctl id = u.window m ctl id := by
  cases ctl
  · rfl
  · show ((Eff.run u (.inst n f)).inst m).ctl = (u.inst m).ctl
    rw [inst_run]
    split
    · next hn => rw [hf, hn]
    · rfl

/-- The window of a request as it is kept is the one of its header. -/
theorem window_liveOf : u.window h.inst (liveOf o opc h).ctl (liveOf o opc h).stream = u.window h.inst (isCtl h) h.stream := by
  unfold liveOf State.window
  split <;> simp_all

/-! ## Completion -/

/-- A request completes: it leaves its tenant, its window keeps a record, and the record goes out. -/
theorem then_completeReq (n : Nat) (r : LiveReq) (st id digest : Nat) : ∃ (c : Cpl) (dups : List Origin),
    c.status = st ∧ c.seq = r.seq ∧
    u.then (completeReq n r st id digest) = u.then (.seq [updI n fun x => { x with reqs := x.reqs.erase r },
      updW n r.ctl r.stream fun w => { w with entries := w.entries.map fun e =>
        if e.seq = r.seq then { e with done := some c, dups := [] } else e },
      deliver r.origin c, .each dups fun o => deliver o c.replay]) :=
  ⟨_, _, rfl, rfl, then_congr rfl⟩

/-- A request waits in its window for its record. -/
def State.entered (u : State) (h : ReqHdr) : Prop := ∃ e ∈ (u.window h.inst (isCtl h) h.stream).entries, e.seq = h.seq

/-- The window of a request that completes holds its record (R316). -/
theorem recorded_completeReq (st id digest : Nat) (hin : u.entered h) :
    recorded (u.then (completeReq h.inst (liveOf o opc h) st id digest)) h st := by
  obtain ⟨e, he, hseq⟩ := hin
  have hkey : e.seq = (Say.liveOf o opc h).seq := hseq
  obtain ⟨c, dups, hst, hcseq, hthen⟩ := then_completeReq (u := u) h.inst (liveOf o opc h) st id digest
  have hrecs : AllEff Eff.sends (Act.each dups fun o => deliver o c.replay) := allEff_iff.2 fun v => by simp
  rw [hthen, recorded, ← window_liveOf (o := o) (opc := opc)]
  simp only [then_seq_cons, then_seq_nil]
  rw [window_of_sends hrecs, window_of_sends (allEff_iff.2 fun v => sends_deliver), window_updW, window_updI, window_liveOf]
  · exact ⟨_, List.mem_map_of_mem he, by rw [if_pos hkey]; exact hseq, c, by rw [if_pos hkey], hst, hcseq⟩
  · exact fun _ => rfl

/-- After the command the record still stands. -/
theorem SnapSame.recorded {t : State} {st : Nat} (hst : SnapSame u t) (hr : recorded u h st) : recorded t h st := by
  unfold Say.recorded State.window at *
  rwa [hst.inst, hst.stream]

/-! ## Acceptance -/

/-- The state in which an accepted request is executed. -/
def State.accepted (s : State) (o : Origin) (opc : Nat) (h : ReqHdr) (newer : Bool) : State :=
  s.then (.seq [updW h.inst (isCtl h) h.stream fun w => w.enter h.seq h.digest newer,
    .when (newer && !isCtl h) (setS F.SMV_SLIVE1_HIGH h.stream h.seq),
    updI h.inst fun x => { x with reqs := x.reqs ++ [Say.liveOf o opc h] }])

/-- A request that passes the checks is accepted and executed. -/
theorem then_handleRequest (hp : passes s o opc h p) : ∃ newer, s.then (handleRequest o opc h p) =
    (s.accepted o opc h newer).then (execute h.inst opc (liveOf o opc h) p) := by
  obtain ⟨hstage, hpoison, hhdr, hstatus, -, hjudge⟩ := hp
  have hnot : ¬ (s.stage ≠ 9 ∧ o ≠ .image) := by tauto
  have haccept (newer : Bool) : s.then (accept o opc h p newer) =
      (s.accepted o opc h newer).then (execute h.inst opc (liveOf o opc h) p) := by
    rw [← then_seq_nil ((s.accepted o opc h newer).then _), ← then_seq_cons]
    exact then_seq_append s [_, _, _] [_]
  rcases hjudge with hj | hj
  · refine ⟨true, (then_congr ?_).trans (haccept true)⟩
    simp [handleRequest, hnot, hpoison, hhdr, hstatus, hj]
  · refine ⟨false, (then_congr ?_).trans (haccept false)⟩
    simp [handleRequest, hnot, hpoison, hhdr, hstatus, hj]

theorem mem_entries_enter (w : Window) (seq digest : Nat) (newer : Bool) : ∃ e ∈ (w.enter seq digest newer).entries, e.seq = seq := by
  refine ⟨⟨seq, digest, none, []⟩, ?_, rfl⟩
  cases newer <;> simp [Window.enter]

theorem entered_accepted (newer : Bool) : (s.accepted o opc h newer).entered h := by
  have hhigh (v : State) : (v.then (.when (newer && !isCtl h) (setS F.SMV_SLIVE1_HIGH h.stream h.seq))).window h.inst (isCtl h) h.stream =
      v.window h.inst (isCtl h) h.stream := by
    rw [then_when]
    split <;> rfl
  simp only [State.entered, State.accepted, then_seq_cons, then_seq_nil]
  rw [window_updI, hhigh, window_updW]
  · exact mem_entries_enter _ _ _ _
  · exact fun _ => rfl

/-- The state with other tenants' contexts. -/
def State.withInsts (s : State) (l : List (Nat × Inst)) : State := { s with insts := l }

/-- What a tenant has loaded: its programs and its overlays. -/
def Inst.loaded (x : Inst) : List Prog × List Nat := (x.progs, x.overlays)

/-- The contexts hold what the state's own have loaded. -/
def State.sameLoaded (s : State) (l : List (Nat × Inst)) : Prop := ∀ n, ((s.withInsts l).inst n).loaded = (s.inst n).loaded

theorem inst_updI_keeps {α : Type} {v : Inst → α} {n : Nat} {f : Inst → Inst} (hf : ∀ x, v (f x) = v x) (m : Nat) :
    v ((u.then (updI n f)).inst m) = v (u.inst m) := by
  rw [then_updI, inst_run]
  split
  · next hn => rw [hf, hn]
  · rfl

/-- A request of the control window changes its tenant alone when it is accepted, and neither its programs nor its overlays. -/
theorem accepted_of_ctl (hc : isCtl h = true) (newer : Bool) : ∃ l, s.accepted o opc h newer = s.withInsts l ∧ s.sameLoaded l := by
  have hthen : s.accepted o opc h newer = (s.then (updI h.inst fun x => { x with ctl := x.ctl.enter h.seq h.digest newer })).then
      (updI h.inst fun x => { x with reqs := x.reqs ++ [liveOf o opc h] }) := by
    simp [State.accepted, hc, updW]
  refine ⟨(s.accepted o opc h newer).insts, by rw [hthen]; rfl, fun n => ?_⟩
  show ((s.accepted o opc h newer).inst n).loaded = (s.inst n).loaded
  rw [hthen, inst_updI_keeps (v := Inst.loaded), inst_updI_keeps (v := Inst.loaded)]
  all_goals exact fun _ => rfl

end Sys2Proof.Machine
end

section
/-! What leaves a slot as it stands (R306, R310): its state, the tenant, epoch and stages of its stream, and the requests that a
control window names. Step by step, from items in flight up to the opening of the stages and to a closing decoder's last pictures. -/
namespace Sys2Proof.Machine

/-- What names a stream: its tenant, epoch and stages. -/
def Stream.face (x : Stream) : Nat × Nat × Nat := (x.inst, x.epoch, x.stages)

/-- The effect leaves the state of every slot alone, what names every stream, and the sequence numbers in every control window. -/
@[simp] def Eff.keepsSlot : Eff → Prop
  | .fld f _ _ _ | .countU f _ _ _ _ => Reg.SMV_SLIVE0 ≠ f.reg ∨ f.hi < 30 ∨ 31 < f.lo
  | .word r _ _ _ => r ≠ .SMV_SLIVE0
  | .resetRegs p => ∀ k : RegKey, k.reg = .SMV_SLIVE0 → p k = false
  | .stream _ f => ∀ x, (f x).face = x.face
  | .inst _ f => ∀ x, (f x).ctl.entries.map (·.seq) = x.ctl.entries.map (·.seq)
  | _ => True

theorem Eff.keepsSlot_of_sends {e : Eff} (h : e.sends) : e.keepsSlot := by
  cases e with
  | fld f | countU f => exact .inl fun hf => absurd (hf ▸ h : Reg.SMV_SLIVE0 ∈ sentRegs) (by decide)
  | tile | mem | poison | bale | pkg | emit | draw => trivial
  | _ => exact h.elim

/-- What stores or sends leaves a slot as it stands. -/
@[simp] theorem keepsSlot_of_sends {l : List Eff} (h : Effs Eff.sends l) : Effs Eff.keepsSlot l := h.mono fun _ => Eff.keepsSlot_of_sends

variable {u : State} {a : Act}

theorem slotState_of_keepsSlot (h : AllEff Eff.keepsSlot a) (id : Nat) : (u.then a).slotState id = u.slotState id :=
  get_off (g := F.SMV_SLIVE0_STATE) u (by decide) (h.mono fun e he => by cases e <;> first | exact he | trivial) _ _

theorem face_of_keepsSlot (h : AllEff Eff.keepsSlot a) (id : Nat) : ((u.then a).stream id).face = (u.stream id).face := by
  refine run_keeps u (a u) (P := fun w => (w.stream id).face = (u.stream id).face) (fun w hw e he => ?_) rfl
  have hk := h u e he
  cases e with
  | stream n f =>
    rw [stream_run]
    split
    · next hn => exact (hk (w.stream n)).trans (hn ▸ hw)
    · exact hw
  | mem b bs => simpa [State.stream, Eff.run] using hw
  | _ => exact hw

theorem ctlSeqs_of_keepsSlot (h : AllEff Eff.keepsSlot a) (n : Nat) :
    ((u.then a).inst n).ctl.entries.map (·.seq) = (u.inst n).ctl.entries.map (·.seq) := by
  refine run_keeps u (a u) (P := fun w => (w.inst n).ctl.entries.map (·.seq) = (u.inst n).ctl.entries.map (·.seq)) (fun w hw e he => ?_) rfl
  have hk := h u e he
  cases e with
  | inst m f =>
    rw [inst_run]
    split
    · next hm => exact (hk (w.inst m)).trans (hm ▸ hw)
    · exact hw
  | mem b bs => simpa [State.inst, Eff.run] using hw
  | _ => exact hw

/-! ## Records, items in flight, and output -/

@[simp] theorem keepsSlot_completeReq {n st id digest : Nat} {r : LiveReq} : Effs Eff.keepsSlot (completeReq n r st id digest u) := by
  have hseq (c : Cpl) (l : List WinEntry) :
      (l.map fun e => if e.seq = r.seq then { e with done := some c, dups := [] } else e).map (·.seq) = l.map (·.seq) := by
    rw [List.map_map]
    exact List.map_congr_left fun e _ => by simp only [Function.comp]; split <;> rfl
  unfold completeReq updW
  simp only [effs_seq_cons, effs_ite_act]
  simp [hseq, Stream.face]

theorem condCounter_ne_live {st : Nat} {f : Fld} (h : condCounter st = some f) : Reg.SMV_SLIVE0 ≠ f.reg := by
  unfold condCounter at h
  split at h <;> cases h <;> decide

@[simp] theorem keepsSlot_countConditions {id : Nat} {l : List Nat} : Effs Eff.keepsSlot (countConditions id l u) :=
  effs_each fun st v => by simpa using fun f hf => .inl (condCounter_ne_live hf)

@[simp] theorem keepsSlot_syncLive {id : Nat} : Effs Eff.keepsSlot (syncLive id u) := by
  simp [syncLive, Stream.face, F.SMV_SLIVE0_INFLIGHT]

@[simp] theorem keepsSlot_enqueue {t q id flags : Nat} {bs : List Byte} {req : Option LiveReq} :
    Effs Eff.keepsSlot (enqueue t q id bs flags req u) := by
  simp [enqueue, addLive, syncResident, Stream.face, F.SMV_QTAIL_TAIL, F.SMV_RESIDENT_ITEMS]

@[simp] theorem keepsSlot_stageBarrier {id : Nat} : Effs Eff.keepsSlot (stageBarrier id u) := by
  simp [stageBarrier, Stream.face]

@[simp] theorem keepsSlot_egressPump {id : Nat} : Effs Eff.keepsSlot (egressPump id u) := by
  simp [egressPump, Stream.face]

@[simp] theorem keepsSlot_updLsc {id : Nat} {f : Lsc → Lsc} : Effs Eff.keepsSlot (updLsc id f u) := by
  simp [updLsc, Stream.face]

@[simp] theorem keepsSlot_unitsOut {id frame : Nat} {bs : List Byte} : Effs Eff.keepsSlot (unitsOut id frame bs u) := by
  have hput : Effs Eff.keepsSlot (putOutput (homeOf id) id bs false false u) := by
    unfold putOutput
    dsimp only
    split <;> simp [writeBuf]
  simp [unitsOut, hput, Stream.face]

/-! ## The stages of a slot open -/

@[simp] theorem keepsSlot_updSce {id : Nat} {f : Sce → Sce} : Effs Eff.keepsSlot (updSce id f u) := by
  simp [updSce, Stream.face]

@[simp] theorem keepsSlot_sceOpen {id : Nat} : Effs Eff.keepsSlot (sceOpen id u) := by
  simp +contextual [sceOpen, F.SCE_SLIVE1_QPI, F.SCE_SLIVE1_QPP, F.SCE_SLIVE1_QPB]

@[simp] theorem keepsSlot_lscEncOpen {id : Nat} : Effs Eff.keepsSlot (lscEncOpen id u) := by
  unfold lscEncOpen
  split <;> simp [F.ECE_LSCLIVE1_QK, F.ECE_LSCLIVE1_QD, F.ECE_OSFCNT2_HDRS]

@[simp] theorem keepsSlot_lscDecOpen {id : Nat} : Effs Eff.keepsSlot (lscDecOpen id u) := by
  simp [lscDecOpen, F.ECE_OSFSTAT_NOHDR]

@[simp] theorem keepsSlot_dirRegister {id : Nat} : Effs Eff.keepsSlot (dirRegister id u) := by
  have happly (m : DirMsg) : Effs Eff.keepsSlot (dirApply m u) := by
    cases m <;> simp [dirApply]
  simp [dirRegister, dirSend, happly]

@[simp] theorem keepsSlot_syncTsets {t : Nat} : Effs Eff.keepsSlot (syncTsets t u) := by
  simp [syncTsets, F.ECE_TSET_VALID, F.ECE_TSET_PINNED, F.ECE_TSETPROG_PROG_ID]

/-- The stages of a slot that opens, its name and the table sets that it pins: what follows its first record as open. -/
def openStages (id st : Nat) : List Act :=
  [.when (bitOf st stSce) (sceOpen id),
    .when (bitOf st stLsc) (.read fun s => if s.sget F.ECE_LSCW0_DIR id = 0 then lscEncOpen id else lscDecOpen id),
    .when (bitOf st stIng) (.seq [updIng id fun g => { g with flow := 1 },
      .read fun s => syncFlows (s.portTile (s.sget F.ING_SW0_PORT id))]),
    .when (bitOf st stHead) (headOpen id), dirRegister id, syncPins]

theorem keepsSlot_openStages {id st : Nat} : AllEff Eff.keepsSlot (.seq (openStages id st)) := by
  refine allEff_iff.2 fun u => ?_
  simp [openStages, updIng, syncFlows, headOpen, updHead, syncPins, Stream.face, F.LNK_FLOWS_USED]

/-! ## The last pictures of a closing decoder -/

@[simp] theorem keepsSlot_putPicture {t base pitch : Nat} {rows : List (Nat × Nat)} {bs : List Byte} :
    Effs Eff.keepsSlot (putPicture t base pitch rows bs u) := by
  induction rows generalizing bs u with
  | nil => exact effs_none
  | cons e es ih => simp [putPicture, ih]

theorem keepsSlot_sceDrain {id : Nat} : AllEff Eff.keepsSlot (sceDrain id) := by
  refine allEff_iff.2 fun u => ?_
  simp [sceDrain, sceOutput, sceDiscard]

end Sys2Proof.Machine
end

section
/-! The requests of the control window (R103, R104, R310, R311) and `NOP`, and the obligation. -/
namespace Sys2Proof.Machine
open Sys2Proof.Say

variable {s u : State} {o : Origin} {opc : Nat} {h : ReqHdr} {p : List Byte} {l : List (Nat × Inst)}

/-! ## What reads the tenants -/

theorem progs_withInsts (hl : s.sameLoaded l) (n : Nat) : ((s.withInsts l).inst n).progs = (s.inst n).progs := congrArg Prod.fst (hl n)

theorem overlays_withInsts (hl : s.sameLoaded l) (n : Nat) : ((s.withInsts l).inst n).overlays = (s.inst n).overlays :=
  congrArg Prod.snd (hl n)

theorem prog_withInsts (hl : s.sameLoaded l) (n id : Nat) : (s.withInsts l).prog n id = s.prog n id := by
  rw [State.prog, progs_withInsts hl, State.prog]

@[simp] theorem sget_withInsts (f : Fld) (id : Nat) : (s.withInsts l).sget f id = s.sget f id := (rfl)
@[simp] theorem inMem_withInsts (n a len : Nat) : (s.withInsts l).inMem n a len = s.inMem n a len := (rfl)
@[simp] theorem stream_withInsts (id : Nat) : (s.withInsts l).stream id = s.stream id := (rfl)
@[simp] theorem portInService_withInsts (k : Nat) : (s.withInsts l).portInService k = s.portInService k := (rfl)

theorem openIng_withInsts (n id a : Nat) : (s.withInsts l).openIng n id a = s.openIng n id a := by
  have hlist : (s.withInsts l).blockList n a = s.blockList n a := rfl
  have hflows : (s.withInsts l).flows = s.flows := rfl
  have hkey (id : Nat) : (s.withInsts l).flowKey id = s.flowKey id := rfl
  have htile (k : Nat) : (s.withInsts l).portTile k = s.portTile k := rfl
  have hon (k : Nat) : (s.withInsts l).flowsOn k = s.flowsOn k := rfl
  simp only [State.openIng, sget_withInsts, portInService_withInsts, hlist, hflows, hkey, htile, hon]

theorem openLsc_withInsts (hl : s.sameLoaded l) (n id : Nat) : (s.withInsts l).openLsc n id = s.openLsc n id := by
  have htaps (kt ix v : Nat) : (s.withInsts l).tapsReserved kt ix v = s.tapsReserved kt ix v := by
    have hlive (id : Nat) : (s.withInsts l).isLive id = s.isLive id := rfl
    have howner : (s.withInsts l).owner kt = s.owner kt := rfl
    have hget (f : Fld) : (s.withInsts l).get f kt ix = s.get f kt ix := rfl
    simp only [State.tapsReserved, hlive, stream_withInsts, howner, hget, progs_withInsts hl]
  simp only [State.openLsc, State.lscEncOk, State.lscPool, prog_withInsts hl, htaps, sget_withInsts, inMem_withInsts]

theorem openHead_withInsts (hl : s.sameLoaded l) (n id : Nat) : (s.withInsts l).openHead n id = s.openHead n id := by
  have hopen (id : Nat) : (s.withInsts l).isOpen id = s.isOpen id := rfl
  simp only [State.openHead, State.ringBase, hopen, stream_withInsts, prog_withInsts hl, sget_withInsts, inMem_withInsts]

/-- The checks of an `OPEN` read nothing of a tenant but its programs. -/
theorem openStatus_withInsts (hl : s.sameLoaded l) (n id : Nat) : (s.withInsts l).openStatus n p id = s.openStatus n p id := by
  have hstate : (s.withInsts l).slotState id = s.slotState id := rfl
  have hsce (g : Fld → Nat) : (s.withInsts l).sceOk n id g = s.sceOk n id g := by
    simp only [State.sceOk, State.scePool, sget_withInsts, inMem_withInsts]
  have hegress (st : Nat) : (s.withInsts l).openEgress id st = s.openEgress id st := rfl
  unfold State.openStatus State.openCodes
  simp only [sget_withInsts]
  rw [hstate, openIng_withInsts, hsce, openLsc_withInsts hl, openHead_withInsts hl, hegress]

/-- What a `LOADPROG` loads depends on nothing of a tenant but its programs and overlays. -/
theorem loadRequest_withInsts (hl : s.sameLoaded l) (n : Nat) : (s.withInsts l).loadRequest n p = s.loadRequest n p := by
  have hbin (id : Nat) (b : List Byte) : (s.withInsts l).loadBinary n id b = s.loadBinary n id b := by
    unfold State.loadBinary
    simp only [overlays_withInsts hl]
    rfl
  unfold State.loadRequest
  simp only [prog_withInsts hl, hbin]
  rfl

/-! ## Control requests are executed -/

theorem isCtl_of_passes (hp : passes s o opc h p) (hne : opc ≠ opNop) (hlt : opc < 0x10) : isCtl h = true := by
  obtain ⟨-, -, -, -, hctl, -⟩ := hp
  simpa [opCtlOk, hne, hlt] using hctl

/-- A control request that passes the checks is executed in a state that holds the same programs, where its window awaits its
record. -/
theorem then_controlRequest (hp : passes s o opc h p) (hc : isCtl h = true) : ∃ l, s.sameLoaded l ∧ (s.withInsts l).entered h ∧
    s.then (handleRequest o opc h p) = (s.withInsts l).then (execute h.inst opc (liveOf o opc h) p) := by
  obtain ⟨newer, hthen⟩ := then_handleRequest hp
  obtain ⟨l, hacc, hl⟩ := accepted_of_ctl (s := s) (o := o) (opc := opc) hc newer
  exact ⟨l, hl, hacc ▸ entered_accepted newer, hacc ▸ hthen⟩

theorem entered_iff_of_ctl (hc : isCtl h = true) : u.entered h ↔ h.seq ∈ (u.inst h.inst).ctl.entries.map (·.seq) := by
  simp [State.entered, State.window, hc]

theorem entered_of_keepsSlot {a : Act} (hc : isCtl h = true) (ha : AllEff Eff.keepsSlot a) (hin : u.entered h) : (u.then a).entered h := by
  rw [entered_iff_of_ctl hc] at hin ⊢
  rwa [ctlSeqs_of_keepsSlot ha]

theorem progs_updW {n id : Nat} {ctl : Bool} {f : Window → Window} (m : Nat) :
    ((u.then (updW n ctl id f)).inst m).progs = (u.inst m).progs := by
  cases ctl
  · rfl
  · exact inst_updI_keeps (v := Inst.progs) (f := fun x => { x with ctl := f x.ctl }) (fun _ => rfl) m

/-- The completion of a request leaves the programs of every tenant. -/
theorem progs_completeReq {n st id digest : Nat} {r : LiveReq} (m : Nat) :
    ((u.then (completeReq n r st id digest)).inst m).progs = (u.inst m).progs := by
  obtain ⟨c, dups, -, -, hthen⟩ := then_completeReq (u := u) n r st id digest
  have hrecs : AllEff Eff.sends (Act.each dups fun o => deliver o c.replay) := allEff_iff.2 fun v => by simp
  rw [hthen]
  simp only [then_seq_cons, then_seq_nil]
  rw [State.inst, insts_of_sends hrecs, insts_of_sends (allEff_iff.2 fun v => sends_deliver)]
  exact (progs_updW m).trans (inst_updI_keeps (v := Inst.progs) (f := fun x => { x with reqs := x.reqs.erase r }) (fun _ => rfl) m)

/-- `NOP` (R314): it completes in its window, the tenant's or the stream's. -/
theorem nop_completes (hp : passes s o opNop h p) : gives (.nop o h p) s fun t => recorded t h 0 := by
  obtain ⟨newer, hthen⟩ := then_handleRequest hp
  have hexec : execute h.inst opNop (liveOf o opNop h) p = completeReq h.inst (liveOf o opNop h) 0 (liveOf o opNop h).stream 0 := rfl
  refine done_holds fun t hst => ?_
  rw [hthen, hexec] at hst
  exact hst.recorded (recorded_completeReq _ _ _ (entered_accepted newer))

/-! ## OPEN (R310) -/

theorem execute_open {r : LiveReq} (n : Nat) (hc : r.ctl = true) : execute n opOpen r p = openRun n r p := by
  simp [execute, hc, opCtlOk, opOpen]

/-- The context of a stream that opens. -/
def openedStream (n epoch id : Nat) (p : List Byte) : Stream :=
  { inst := n, epoch := epoch, stages := leAt p 2 1, cplcfg := leAt p 3 1, xfq := leAt p 4 1, seed := leAt p 8 8, tiles := leAt p 16 8,
    iblist := leAt p 24 8, oblist := leAt p 32 8, name := Config.streamName id }

/-- A slot opens: its context is new, its registers are reset, it is shown open, and its stages start. -/
theorem then_openSlot (n epoch id : Nat) : u.then (openSlot n epoch id p) =
    (((u.then (updS id fun _ => openedStream n epoch id p)).then (.eff [.resetRegs fun k => k.inTile (homeOf id) && k.atIx (slotOf id) &&
      [Reg.SMV_SCOND0, .SMV_SCOND1, .SMV_SCOND2, .SMV_SCOND3, .SMV_SLIVE0, .SMV_SLIVE1].contains k.reg])).then
      (setS F.SMV_SLIVE0_STATE id slotOpen)).then (.seq (openStages id (leAt p 2 1))) := by
  rw [← then_seq_cons, ← then_seq_cons, ← then_seq_cons]
  exact then_congr rfl

theorem slotState_openSlot (n epoch id : Nat) : (u.then (openSlot n epoch id p)).slotState id = slotOpen := by
  rw [then_openSlot, slotState_of_keepsSlot keepsSlot_openStages]
  exact sget_setS (by decide)

theorem face_openSlot (n epoch id : Nat) : ((u.then (openSlot n epoch id p)).stream id).face = (n, epoch, leAt p 2 1) := by
  rw [then_openSlot, face_of_keepsSlot keepsSlot_openStages]
  exact congrArg Stream.face (stream_updS (u := u) (id := id) (h := fun _ => openedStream n epoch id p))

theorem entered_openSlot (hc : isCtl h = true) (n epoch id : Nat) (hin : u.entered h) : (u.then (openSlot n epoch id p)).entered h := by
  rw [then_openSlot]
  refine entered_of_keepsSlot hc keepsSlot_openStages ?_
  rw [entered_iff_of_ctl hc] at hin ⊢
  exact hin

/-- An `OPEN` that keeps R309 and the rules of its stages opens its slot and completes. -/
theorem then_openRun {n id : Nat} {r : LiveReq} (hform : u.openFormOk n p = true) (htarget : u.openTarget p = some id)
    (hstatus : u.openStatus n p id = 0) :
    u.then (openRun n r p) = (u.then (openSlot n r.epoch id p)).then (completeReq n r 0 id 0) := by
  have hcodes : pickStatus (u.openCodes n p id) = 0 := hstatus
  have hthen : u.then (openRun n r p) = u.then (.seq [openSlot n r.epoch id p, completeReq n r 0 id 0]) := by
    refine then_congr ?_
    simp [openRun, htarget, hform, hcodes]
  rw [hthen, then_seq_cons, then_seq_cons, then_seq_nil]

theorem open_executes {id : Nat} (hp : passes s o opOpen h p) (hform : s.openFormOk h.inst p = true)
    (htarget : s.openTarget p = some id) (hstatus : s.openStatus h.inst p id = 0) : gives (.openStream o h p) s fun t =>
      t.isOpen id = true ∧ (t.stream id).inst = h.inst ∧ (t.stream id).epoch = h.epoch ∧ (t.stream id).stages = leAt p 2 1 ∧
      recorded t h 0 := by
  have hc := isCtl_of_passes hp (by decide) (by decide)
  obtain ⟨l, hl, hin, hthen⟩ := then_controlRequest hp hc
  refine done_holds fun t hst => ?_
  rw [hthen, execute_open (r := Say.liveOf o opOpen h) _ hc,
    then_openRun (u := s.withInsts l) (id := id) hform htarget ((openStatus_withInsts hl _ _).trans hstatus)] at hst
  have hrec : AllEff Eff.keepsSlot (completeReq h.inst (liveOf o opOpen h) 0 id 0) := allEff_iff.2 fun v => keepsSlot_completeReq
  have hstate : t.slotState id = slotOpen :=
    (hst.sget (by decide) id).trans ((slotState_of_keepsSlot hrec id).trans (slotState_openSlot _ _ _))
  have hface : (t.stream id).face = (h.inst, h.epoch, leAt p 2 1) := by
    rw [hst.stream, face_of_keepsSlot hrec, face_openSlot]
    rfl
  simp only [Stream.face, Prod.mk.injEq] at hface
  obtain ⟨hinst, hepoch, hstages⟩ := hface
  exact ⟨by rw [State.isOpen, hstate]; rfl, hinst, hepoch, hstages,
    hst.recorded (recorded_completeReq _ _ _ (entered_openSlot hc _ _ _ hin))⟩

/-! ## CLOSE (R311) -/

theorem execute_close {r : LiveReq} (n : Nat) (hc : r.ctl = true) : execute n opClose r p = closeRun n r p := by
  simp [execute, hc, opCtlOk, opClose, opOpen]

/-- A `CLOSE` of an open stream of the tenant ends with its slot shown closing, and the last pictures of a decoder. -/
theorem then_closeRun {n : Nat} {r : LiveReq} (hid : leAt p 0 2 < 2 ^ 14) (hrest : leAt p 2 6 = 0) (hopen : u.isOpen (leAt p 0 2) = true)
    (hinst : (u.stream (leAt p 0 2)).inst = n) : ∃ v : State,
      u.then (closeRun n r p) = (v.then (setS F.SMV_SLIVE0_STATE (leAt p 0 2) slotClosing)).then (sceDrain (leAt p 0 2)) := by
  have hok : ¬ (2 ^ 14 ≤ leAt p 0 2 ∨ leAt p 2 6 ≠ 0 ∨ !u.isOpen (leAt p 0 2) ∨ (u.stream (leAt p 0 2)).inst ≠ n) := by
    rintro (hge | hne | hclosed | hother)
    · exact absurd hid (Nat.not_lt.2 hge)
    · exact hne hrest
    · rw [hopen] at hclosed
      exact Bool.noConfusion hclosed
    · exact hother hinst
  have hthen : closeRun n r p u = _ := if_neg hok
  rw [State.then, hthen, ← then_def]
  simp only [then_seq_cons, then_seq_nil]
  exact ⟨_, rfl⟩

theorem close_executes (hp : passes s o opClose h p) (hid : leAt p 0 2 < 2 ^ 14) (hrest : leAt p 2 6 = 0)
    (hopen : s.isOpen (leAt p 0 2) = true) (hinst : (s.stream (leAt p 0 2)).inst = h.inst) : gives (.closeStream o h p) s fun t =>
      t.slotState (leAt p 0 2) = slotClosing := by
  have hc := isCtl_of_passes hp (by decide) (by decide)
  obtain ⟨l, -, -, hthen⟩ := then_controlRequest hp hc
  obtain ⟨v, hclose⟩ := then_closeRun (u := s.withInsts l) (r := liveOf o opClose h) hid hrest hopen hinst
  refine done_holds fun t hst => ?_
  rw [hthen, execute_close (r := Say.liveOf o opClose h) _ hc, hclose] at hst
  exact (hst.sget (by decide) _).trans ((slotState_of_keepsSlot keepsSlot_sceDrain _).trans (sget_setS (by decide)))

/-! ## LOADPROG and UNLOADPROG (R103, R104) -/

theorem execute_loadprog {r : LiveReq} (n : Nat) (hc : r.ctl = true) :
    execute n opLoadprog r p = loadprogRun n p fun st => completeReq n r st r.stream 0 := by
  simp [execute, hc, opCtlOk, opLoadprog, opOpen, opClose]

theorem execute_unloadprog {r : LiveReq} (n : Nat) (hc : r.ctl = true) :
    execute n opUnloadprog r p = unloadprogRun n p fun st => completeReq n r st r.stream 0 := by
  simp [execute, hc, opCtlOk, opUnloadprog, opLoadprog, opOpen, opClose]

theorem inst_updI {n : Nat} {f : Inst → Inst} : (u.then (updI n f)).inst n = f (u.inst n) := (inst_run u n n f).trans (if_pos rfl)

theorem entered_updI {n : Nat} {f : Inst → Inst} (hf : ∀ x, (f x).ctl = x.ctl) (hin : u.entered h) : (u.then (updI n f)).entered h := by
  rwa [State.entered, window_updI hf]

/-- A program joins a tenant, and its overlays start (R103). -/
def Inst.load (x : Inst) (g : Prog) : Inst := { x with progs := x.progs ++ [g], overlays := x.overlays ++ g.overlays }

/-- A program leaves a tenant with its overlays (R104). -/
def Inst.unload (x : Inst) (id : Nat) (g : Prog) : Inst :=
  { x with progs := x.progs.filter (·.id != id), overlays := x.overlays.filter fun t => !g.overlays.contains t }

theorem loadprog_executes {g : Prog} (hp : passes s o opLoadprog h p) (hload : s.loadRequest h.inst p = .ok g) :
    gives (.loadprog o h p) s fun t => (t.inst h.inst).progs = (s.inst h.inst).progs ++ [g] ∧ recorded t h 0 := by
  have hc := isCtl_of_passes hp (by decide) (by decide)
  obtain ⟨l, hl, hin, hthen⟩ := then_controlRequest hp hc
  have hrun (k : Nat → Act) : (s.withInsts l).then (loadprogRun h.inst p k) =
      ((s.withInsts l).then (updI h.inst (·.load g))).then (k 0) := by
    rw [← then_seq_nil (State.then _ (k 0)), ← then_seq_cons, ← then_seq_cons]
    refine then_congr ?_
    simp only [loadprogRun, loadRequest_withInsts hl, hload]
    rfl
  refine done_holds fun t hst => ?_
  rw [hthen, execute_loadprog (r := Say.liveOf o opLoadprog h) _ hc, hrun] at hst
  constructor
  · rw [hst.inst, progs_completeReq, inst_updI, Inst.load, progs_withInsts hl]
  · exact hst.recorded (recorded_completeReq _ _ _ (entered_updI (f := (·.load g)) (fun _ => rfl) hin))

/-- The table sets, microprograms, fences and halos of a program leave a tile. -/
def clearProg (n id t : Nat) : Act := .seq [tsetDrop t fun e => e.inst == n && e.prog == id,
  updT t fun c => { c with
    micro := c.micro.filter (·.prog != id), fences := c.fences.filter (·.prog != id), halosIn := c.halosIn.filter (·.prog != id) },
  syncMpres t]

/-- What a program leaves on the tiles of its tenant goes, and no stream and no tenant changes. -/
theorem contexts_clearProg (n id : Nat) (ts : List Nat) : (u.then (.each ts (clearProg n id))).streams = u.streams ∧
    (u.then (.each ts (clearProg n id))).insts = u.insts := by
  refine ⟨streams_off u (allEff_iff.2 fun v => ?_), insts_off u (allEff_iff.2 fun v => ?_)⟩
  · simp [clearProg, tsetDrop, syncTsets, syncMpres, Eff.offStream]
  · simp [clearProg, tsetDrop, syncTsets, syncMpres, Eff.offInst]

theorem unloadprog_executes {g : Prog} (hp : passes s o opUnloadprog h p) (hrest : (p.drop 2).all (· == 0) = true)
    (hnamed : s.progNamed h.inst (leAt p 0 2) = false) (hprog : s.prog h.inst (leAt p 0 2) = some g) :
    gives (.unloadprog o h p) s fun t =>
      (t.inst h.inst).progs = (s.inst h.inst).progs.filter (·.id != leAt p 0 2) ∧ recorded t h 0 := by
  have hc := isCtl_of_passes hp (by decide) (by decide)
  obtain ⟨l, hl, hin, hthen⟩ := then_controlRequest hp hc
  have hok : ¬ ((p.drop 2).any (· != 0) ∨ (s.withInsts l).progNamed h.inst (leAt p 0 2)) := by
    have hn : (s.withInsts l).progNamed h.inst (leAt p 0 2) = false := hnamed
    rintro (hany | hname)
    · obtain ⟨b, hb, hne⟩ := List.any_eq_true.1 hany
      exact absurd (List.all_eq_true.1 hrest b hb) (by simpa using hne)
    · rw [hn] at hname
      exact Bool.noConfusion hname
  have hrun (k : Nat → Act) : (s.withInsts l).then (unloadprogRun h.inst p k) = (((s.withInsts l).then
      (updI h.inst (·.unload (leAt p 0 2) g))).then (.each ((s.withInsts l).tilesOf h.inst) (clearProg h.inst (leAt p 0 2)))).then (k 0) := by
    rw [← then_seq_nil (State.then _ (k 0)), ← then_seq_cons, ← then_seq_cons, ← then_seq_cons]
    refine then_congr ?_
    simp only [unloadprogRun, if_neg hok, prog_withInsts hl, hprog]
    rfl
  refine done_holds fun t hst => ?_
  rw [hthen, execute_unloadprog (r := Say.liveOf o opUnloadprog h) _ hc, hrun] at hst
  obtain ⟨hstreams, hinsts⟩ := contexts_clearProg (u := (s.withInsts l).then (updI h.inst (·.unload (leAt p 0 2) g)))
    h.inst (leAt p 0 2) ((s.withInsts l).tilesOf h.inst)
  constructor
  · rw [hst.inst, progs_completeReq, State.inst, hinsts, ← State.inst, inst_updI, Inst.unload, progs_withInsts hl]
  · refine hst.recorded (recorded_completeReq _ _ _ ?_)
    have hleft := entered_updI (n := h.inst) (f := (·.unload (leAt p 0 2) g)) (fun _ => rfl) hin
    unfold State.entered State.window State.inst State.stream at *
    rwa [hinsts, hstreams]

/-- Settles O13: an accepted request awaits its record in its window, what its opcode does leaves the slot and the programs so, and its
completion records it. -/
theorem controlRequestsExecute : Obligations.ControlRequestsExecute :=
  ⟨fun _ _ _ _ _ hp hform htarget hstatus => open_executes hp hform htarget hstatus,
    fun _ _ _ _ hp hid hrest hopen hinst => close_executes hp hid hrest hopen hinst,
    fun _ _ _ _ _ hp hload => loadprog_executes hp hload,
    fun _ _ _ _ _ hp hrest hnamed hprog => unloadprog_executes hp hrest hnamed hprog,
    fun _ _ _ _ hp => nop_completes hp⟩

end Sys2Proof.Machine
end

section
/-! Steps that change registers of a list alone, and how an item of a tile ends (R322, R336): it leaves the chip, and neither the cuts nor
the blocks of the array change, nor what the array shows of its refusals. -/
namespace Sys2Proof.Machine
open Sys2Proof.Say

variable {s u : State} {a : Act}

/-! ## Steps that show and count -/

/-- The effect changes a register of a list, or uses free values up. -/
@[simp] def Eff.showsIn (l : List Reg) : Eff → Prop
  | .fld f _ _ _ | .countU f _ _ _ _ => f.reg ∈ l
  | .word r _ _ _ => r ∈ l
  | .draw _ => True
  | _ => False

theorem Eff.off_of_showsIn {l : List Reg} {r : Reg} (hr : r ∉ l) {e : Eff} (h : e.showsIn l) : e.off r := by
  cases e with
  | fld f | countU f | word f => exact fun hf => hr (hf ▸ h)
  | draw => trivial
  | _ => exact h.elim

theorem Eff.showsIn_mono {l m : List Reg} (hlm : l ⊆ m) {e : Eff} (h : e.showsIn l) : e.showsIn m := by
  cases e with
  | fld | countU | word => exact hlm h
  | draw => trivial
  | _ => exact h.elim

/-- Such a step leaves memory and every context alone. -/
theorem contexts_of_showsIn {l : List Reg} (h : AllEff (Eff.showsIn l) a) : (u.then a).mem = u.mem ∧
    (u.then a).streams = u.streams ∧ (u.then a).insts = u.insts ∧ (u.then a).tiles = u.tiles :=
  ⟨mem_off u (h.mono fun e he => by cases e <;> trivial),
    streams_off u (h.mono fun e he => by cases e <;> trivial),
    insts_off u (h.mono fun e he => by cases e <;> trivial),
    tiles_off u (h.mono fun e he => by cases e <;> trivial)⟩

theorem get_of_showsIn {l : List Reg} (h : AllEff (Eff.showsIn l) a) {f : Fld} (hf : f.reg ∉ l) (t ix : Nat) :
    (u.then a).get f t ix = u.get f t ix :=
  congrArg (fun w => getBits w f.hi f.lo) (reg_off u (h.mono fun _ he => Eff.off_of_showsIn hf he) t ix)

theorem tile_of_showsIn {l : List Reg} (h : AllEff (Eff.showsIn l) a) (t : Nat) : (u.then a).tile t = u.tile t := by
  rw [State.tile, (contexts_of_showsIn h).2.2.2, ← State.tile]

/-- A command that ends with such a step leaves the rest as it stood before it. -/
theorem same_of_showsIn {l : List Reg} {t : State} (h : AllEff (Eff.showsIn l) a) (hst : SnapSame (u.then a) t) :
    sameRegs l u t ∧ sameMem u t ∧ sameContexts u t := by
  obtain ⟨hmem, hstreams, hinsts, htiles⟩ := contexts_of_showsIn (u := u) h
  refine ⟨fun r hr k ix => ?_, fun b => ?_, fun id => ?_, fun n => ?_, fun k => ?_⟩
  · obtain ⟨hcnt, hl⟩ : r ≠ .SNP_CNT ∧ r ∉ l := by simpa using hr
    exact (hst.reg r k ix hcnt).trans (reg_off u (h.mono fun _ he => Eff.off_of_showsIn hl he) k ix)
  · simp only [State.byte, hst.mem, hmem]
  · simp only [State.stream, hst.streams, hstreams]
  · simp only [State.inst, hst.insts, hinsts]
  · simp only [State.tile, hst.tiles, htiles]

@[simp] theorem tile_updT {t : Nat} {f : Tile → Tile} : (u.then (updT t f)).tile t = f (u.tile t) := (tile_run u t t f).trans (if_pos rfl)

/-! ## The cuts, blocks and items of a tile -/

/-- The effect leaves the cuts and the blocks of every tile's array alone, and brings no item to a tile. -/
@[simp] def Eff.keepsWork : Eff → Prop
  | .tile _ f => ∀ c, (f c).runs = c.runs ∧ (f c).blocks = c.blocks ∧ (f c).items ⊆ c.items
  | _ => True

theorem Eff.keepsWork_of_sends {e : Eff} (h : e.sends) : e.keepsWork := by
  cases e with
  | tile t f => exact fun c => ⟨(h c).2.1, (h c).2.2, (h c).1 ▸ List.Subset.refl _⟩
  | _ => trivial

/-- What stores or sends leaves the work of a tile. -/
@[simp] theorem keepsWork_of_sends {l : List Eff} (h : Effs Eff.sends l) : Effs Eff.keepsWork l := h.mono fun _ => Eff.keepsWork_of_sends

theorem tile_of_keepsWork (h : AllEff Eff.keepsWork a) (t : Nat) : ((u.then a).tile t).runs = (u.tile t).runs ∧
    ((u.then a).tile t).blocks = (u.tile t).blocks ∧ ((u.then a).tile t).items ⊆ (u.tile t).items := by
  refine run_keeps u (a u) (P := fun w => (w.tile t).runs = (u.tile t).runs ∧ (w.tile t).blocks = (u.tile t).blocks ∧
    (w.tile t).items ⊆ (u.tile t).items) (fun w hw e he => ?_) ⟨rfl, rfl, List.Subset.refl _⟩
  have hk := h u e he
  cases e with
  | tile n f =>
    rw [tile_run]
    split
    · next hn =>
      subst hn
      obtain ⟨hruns, hblocks, hitems⟩ := hk (w.tile n)
      exact ⟨hruns.trans hw.1, hblocks.trans hw.2.1, List.Subset.trans hitems hw.2.2⟩
    · exact hw
  | mem b bs => simpa [State.tile, Eff.run] using hw
  | _ => exact hw

/-! ## The end of an item -/

/-- The registers in which the array shows a refusal. -/
@[simp] def arrStatus : List Reg := [.ARR_ERRSTAT, .ARR_BRSTAT, .ARR_BRREF]

/-- The effect leaves what the array shows of a refusal. -/
@[simp] def Eff.sparesArr : Eff → Prop
  | .fld f _ _ _ | .countU f _ _ _ _ => f.reg ∉ arrStatus
  | .word r _ _ _ => r ∉ arrStatus
  | .resetRegs p => ∀ k : RegKey, k.reg ∈ arrStatus → p k = false
  | _ => True

theorem Eff.sparesArr_of_sends {e : Eff} (h : e.sends) : e.sparesArr := by
  have hdisj : ∀ r ∈ sentRegs, r ∉ arrStatus := by decide
  cases e with
  | fld | countU => exact hdisj _ h
  | word | resetRegs => exact h.elim
  | _ => trivial

@[simp] theorem sparesArr_of_sends {l : List Eff} (h : Effs Eff.sends l) : Effs Eff.sparesArr l := h.mono fun _ => Eff.sparesArr_of_sends

theorem get_of_sparesArr (h : AllEff Eff.sparesArr a) {f : Fld} (hf : f.reg ∈ arrStatus) (t ix : Nat) :
    (u.then a).get f t ix = u.get f t ix := by
  refine congrArg (fun w => getBits w f.hi f.lo) (reg_off u (h.mono fun e he => ?_) t ix)
  cases e with
  | fld g | countU g | word g => exact fun hg => he (hg ▸ hf)
  | resetRegs p => exact fun k hk => he k (hk ▸ hf)
  | _ => trivial

/-- Once an item has left the chip, the rest of its completion (R322). -/
def itemTail (it : Item) (st digest : Nat) (conds : List Nat) (live : Option Nat) (t : Nat) : List Act :=
  [.when (bitOf it.flags 3 && !bitOf it.flags 2) (workRecord it.stream it.frame st digest), countConditions it.stream conds,
    .opt live fun id => finishLive id t it.q it.slot st digest]

theorem then_finishItem (t : Nat) (it : Item) (st digest : Nat) (conds : List Nat) :
    u.then (finishItem t it st digest conds) =
      (u.then (dropItem t it.q it.slot)).then (.seq (itemTail it st digest conds (u.liveOf t it.q it.slot) t)) := by
  rw [← then_seq_cons]
  rfl

theorem condCounter_not_arr {st : Nat} {f : Fld} (h : condCounter st = some f) : f.reg ∉ arrStatus := by
  unfold condCounter at h
  split at h <;> cases h <;> decide

theorem keepsWork_itemTail {it : Item} {st digest t : Nat} {conds : List Nat} {live : Option Nat} :
    AllEff Eff.keepsWork (.seq (itemTail it st digest conds live t)) := by
  have hconds (v : State) : Effs Eff.keepsWork (countConditions it.stream conds v) := effs_each fun st v => by simp
  have hheld (n id : Nat) (r : LiveReq) (v : State) : Effs Eff.keepsWork (completeHeld n r st id digest v) := by
    simp [completeHeld, completeReq, updW]
  refine allEff_iff.2 fun v => ?_
  simp [itemTail, hconds, finishLive, updLive, hheld, syncLive]

theorem sparesArr_itemTail {it : Item} {st digest t : Nat} {conds : List Nat} {live : Option Nat} :
    AllEff Eff.sparesArr (.seq (itemTail it st digest conds live t)) := by
  have hconds (v : State) : Effs Eff.sparesArr (countConditions it.stream conds v) :=
    effs_each fun st v => by simpa using fun f => condCounter_not_arr (st := st)
  have hheld (n id : Nat) (r : LiveReq) (v : State) : Effs Eff.sparesArr (completeHeld n r st id digest v) := by
    simp [completeHeld, completeReq, updW]
  refine allEff_iff.2 fun v => ?_
  simp [itemTail, hconds, finishLive, updLive, hheld, syncLive, F.SMV_SLIVE0_INFLIGHT]

/-- An item that ends has left the chip, and the cuts of the array are as before. -/
theorem tile_finishItem (t : Nat) (it : Item) (st digest : Nat) (conds : List Nat) :
    ((u.then (finishItem t it st digest conds)).tile t).runs = (u.tile t).runs ∧
    ∀ y ∈ ((u.then (finishItem t it st digest conds)).tile t).items, ¬ (y.q = it.q ∧ y.slot = it.slot) := by
  obtain ⟨hruns, -, hitems⟩ := tile_of_keepsWork (u := u.then (dropItem t it.q it.slot)) (keepsWork_itemTail (it := it) (st := st)
    (digest := digest) (conds := conds) (live := u.liveOf t it.q it.slot) (t := t)) t
  rw [then_finishItem]
  rw [dropItem, tile_updT] at hruns hitems
  exact ⟨hruns, fun y hy => by simpa [imp_iff_not_or] using (List.mem_filter.1 (hitems hy)).2⟩

end Sys2Proof.Machine
end

section
/-! `ARR_ITEM_START` (R225): a cut that passes its checks runs, and one that fails them is shown and ends. -/
namespace Sys2Proof.Machine
open Sys2Proof.Say

variable {s u : State} {k q : Nat} {i : Item}

/-! ## What a refusal shows -/

/-- The array's error register after an error (R228). -/
theorem get_arrErr (t code stream queue : Nat) : (u.then (arrErr t code stream queue)).get F.ARR_ERRSTAT_ERR t 0 = 1 ∧
    (u.then (arrErr t code stream queue)).get F.ARR_ERRSTAT_CODE t 0 = code % 16 := by
  have hcount : AllEff (Eff.showsIn [.ARR_ERRCNT]) (.seq [count F.ARR_ERRCNT_COUNT t 1]) := allEff_iff.2 fun v => by
    simp [F.ARR_ERRCNT_COUNT]
  unfold arrErr blockErr
  rw [then_seq_cons, get_of_showsIn hcount (by decide), get_of_showsIn hcount (by decide)]
  constructor
  · exact get_run_fld u (by decide) t 0 1 [] _
      (by simp [Eff.offF, F.ARR_ERRSTAT_ERR, F.ARR_ERRSTAT_CODE, F.ARR_ERRSTAT_STREAM, F.ARR_ERRSTAT_QUEUE])
  · exact get_run_fld u (by decide) t 0 code [_] _ (by simp [Eff.offF, F.ARR_ERRSTAT_CODE, F.ARR_ERRSTAT_STREAM, F.ARR_ERRSTAT_QUEUE])

theorem showsIn_arrErr {t code stream queue : Nat} : AllEff (Eff.showsIn [.ARR_ERRSTAT, .ARR_ERRCNT]) (arrErr t code stream queue) :=
  allEff_iff.2 fun v => by
    simp [arrErr, blockErr, F.ARR_ERRSTAT_ERR, F.ARR_ERRSTAT_CODE, F.ARR_ERRCNT_COUNT, F.ARR_ERRSTAT_STREAM, F.ARR_ERRSTAT_QUEUE]

/-- What the Bridle registers take of a refused descriptor (R107). -/
def bridleRefusal (t stream viol : Nat) : Act := .seq [.eff [.fld F.ARR_BRSTAT_VIOL t 0 1, .fld F.ARR_BRSTAT_LASTVIOL t 0 viol,
  .fld F.ARR_BRSTAT_STREAM t 0 stream], count F.ARR_BRREF_COUNT t 1]

theorem showsIn_bridleRefusal {t stream viol : Nat} {bridle : Bool} :
    AllEff (Eff.showsIn [.ARR_BRSTAT, .ARR_BRREF]) (.when bridle (bridleRefusal t stream viol)) :=
  allEff_iff.2 fun v => by
    simp [bridleRefusal, F.ARR_BRSTAT_VIOL, F.ARR_BRSTAT_LASTVIOL, F.ARR_BRSTAT_STREAM, F.ARR_BRREF_COUNT]

/-- A counter of a tile advances and stays at its largest value (R524). -/
theorem get_count {f : Fld} (hf : f.ok = true) (t n : Nat) : (u.then (count f t n)).get f t 0 = min f.maxVal (u.get f t 0 + n) := by
  have hlt : min f.maxVal (u.get f t 0 + n) < 2 ^ (f.hi + 1 - f.lo) :=
    (Nat.min_le_left _ _).trans_lt (Nat.sub_lt (Nat.two_pow_pos _) Nat.one_pos)
  exact (get_then_setFx u f _ _ _ hf).trans (Nat.mod_eq_of_lt hlt)

theorem get_bridleRefusal (t stream viol : Nat) : (u.then (bridleRefusal t stream viol)).get F.ARR_BRSTAT_VIOL t 0 = 1 ∧
    (u.then (bridleRefusal t stream viol)).get F.ARR_BRREF_COUNT t 0 =
      min F.ARR_BRREF_COUNT.maxVal (u.get F.ARR_BRREF_COUNT t 0 + 1) := by
  have hcount : AllEff (Eff.showsIn [.ARR_BRREF]) (count F.ARR_BRREF_COUNT t 1) := allEff_iff.2 fun v => by
    simp [F.ARR_BRREF_COUNT]
  have hstat : AllEff (Eff.showsIn [.ARR_BRSTAT]) (.eff [.fld F.ARR_BRSTAT_VIOL t 0 1, .fld F.ARR_BRSTAT_LASTVIOL t 0 viol,
      .fld F.ARR_BRSTAT_STREAM t 0 stream]) := allEff_iff.2 fun v => by
    simp [F.ARR_BRSTAT_VIOL, F.ARR_BRSTAT_LASTVIOL, F.ARR_BRSTAT_STREAM]
  rw [bridleRefusal, then_seq_cons, then_seq_cons, then_seq_nil, get_of_showsIn hcount (by decide)]
  constructor
  · exact get_run_fld u (by decide) t 0 1 [] _ (by
      simp [Eff.offF, F.ARR_BRSTAT_VIOL, F.ARR_BRSTAT_LASTVIOL, F.ARR_BRSTAT_STREAM])
  · rw [get_count (by decide), get_of_showsIn hstat (by decide)]

theorem showsIn_syncQstat {t : Nat} : AllEff (Eff.showsIn [.ARR_QSTAT]) (syncQstat t) := allEff_iff.2 fun v => by
  simp [syncQstat, F.ARR_QSTAT_Q0, F.ARR_QSTAT_Q1, F.ARR_QSTAT_Q2, F.ARR_QSTAT_Q3]

theorem showsIn_syncFence {t : Nat} : AllEff (Eff.showsIn [.ARR_QSTAT]) (syncFence t) := allEff_iff.2 fun v => by
  simp [syncFence, F.ARR_QSTAT_FENCEWAIT]

/-- An array item that is refused is shown, and ends (R225). -/
theorem then_refuseCut (t : Nat) (i : Item) (bridle : Bool) (codes viols : List Nat) : ∃ code viol : Nat,
    (viols = [] → code = codes.min?.getD 0) ∧ u.then (refuseCut t i bridle codes viols) =
      (((u.then (arrErr t code i.stream i.q)).then (.when bridle (bridleRefusal t i.stream viol))).then
        (finishItem t i 0x0104 0 [])).then (syncQstat t) := by
  refine ⟨(codes ++ if viols = [] then [] else [14]).min?.getD 0, viols.min?.getD 0, ?_, ?_⟩
  · rintro rfl
    rw [if_pos rfl, List.append_nil]
  · rw [← then_seq_nil (State.then _ (syncQstat t)), ← then_seq_cons, ← then_seq_cons, ← then_seq_cons, ← then_seq_cons]
    exact then_congr rfl

/-- A refusal shows its error, in the Bridle registers too where the descriptor asks for it; the cuts stay, and the item is gone. -/
theorem refuseCut_shows (t : Nat) (i : Item) (bridle : Bool) (codes viols : List Nat) :
    let v := u.then (refuseCut t i bridle codes viols)
    v.get F.ARR_ERRSTAT_ERR t 0 = 1 ∧ (viols = [] → v.get F.ARR_ERRSTAT_CODE t 0 = codes.min?.getD 0 % 16) ∧
    (bridle = true → v.get F.ARR_BRSTAT_VIOL t 0 = 1 ∧
      v.get F.ARR_BRREF_COUNT t 0 = min F.ARR_BRREF_COUNT.maxVal (u.get F.ARR_BRREF_COUNT t 0 + 1)) ∧
    (v.tile t).runs = (u.tile t).runs ∧ ∀ y ∈ (v.tile t).items, ¬ (y.q = i.q ∧ y.slot = i.slot) := by
  obtain ⟨code, viol, hcode, hthen⟩ := then_refuseCut (u := u) t i bridle codes viols
  have hend (w : State) {f : Fld} (hf : f.reg ∈ arrStatus) :
      ((w.then (finishItem t i 0x0104 0 [])).then (syncQstat t)).get f t 0 = w.get f t 0 := by
    rw [get_of_showsIn showsIn_syncQstat (fun h => by revert hf; rw [List.mem_singleton.1 h]; decide), then_finishItem,
      get_of_sparesArr sparesArr_itemTail hf]
    rfl
  obtain ⟨herr, hstat⟩ := get_arrErr (u := u) t code i.stream i.q
  obtain ⟨hruns, hitems⟩ := tile_finishItem (u := (u.then (arrErr t code i.stream i.q)).then (.when bridle (bridleRefusal t i.stream viol)))
    t i 0x0104 0 []
  rw [tile_of_showsIn showsIn_bridleRefusal, tile_of_showsIn showsIn_arrErr] at hruns
  simp only [hthen]
  refine ⟨?_, fun hviols => ?_, fun hb => ?_, ?_, ?_⟩
  · rw [hend _ (by decide), get_of_showsIn showsIn_bridleRefusal (by decide), herr]
  · rw [hend _ (by decide), get_of_showsIn showsIn_bridleRefusal (by decide), hstat, hcode hviols]
  · subst hb
    obtain ⟨hviol, hcount⟩ := get_bridleRefusal (u := u.then (arrErr t code i.stream i.q)) t i.stream viol
    rw [hend _ (by decide), hend _ (by decide), then_when, if_pos rfl, hviol, hcount, get_of_showsIn showsIn_arrErr (by decide)]
    exact ⟨rfl, rfl⟩
  · rw [tile_of_showsIn showsIn_syncQstat, hruns]
  · rw [tile_of_showsIn showsIn_syncQstat]
    exact hitems

/-! ## Items start -/

/-- A cut of a program that the item names, in the queue it names, is refused where it fails a check, and else runs. -/
theorem cut_starts {x : RunCx} (hon : s.isOn .arr k = true) (hi : nextCut s k q = some i) (hflags : bitOf i.flags 2 = false)
    (hx : s.runCx (s.stream i.stream).inst (leAt i.payload 0 2) (leAt i.payload 4 4) i.stream i.frame = some x) (hq : x.c.queue = q)
    (hchecks : s.cutChecks (s.stream i.stream).inst i.stream k x = ([], [])) : gives (.arrItemStart k q) s fun t =>
      (t.tile k).runs = (s.tile k).runs ++
        [{ q := q, slot := i.slot, stream := i.stream, frame := i.frame, prog := leAt i.payload 0 2, cut := leAt i.payload 4 4 }] ∧
      sameRegs [.ARR_QSTAT] s t ∧ sameMem s t ∧ (∀ id, t.stream id = s.stream id) ∧ ∀ n, t.inst n = s.inst n := by
  unfold nextCut at hi
  have hthen : s.then (arrItemStartX k q) = (s.then (updT k fun c => { c with runs := c.runs ++
      [{ q := q, slot := i.slot, stream := i.stream, frame := i.frame, prog := leAt i.payload 0 2, cut := leAt i.payload 4 4 }] })).then
      (.seq [syncQstat k, syncFence k]) := by
    rw [← then_seq_cons]
    refine then_congr ?_
    simp [arrItemStartX, hi, hon, hx, hq, hchecks, hflags, Act.seq, Act.when, Act.none]
  have hshow : AllEff (Eff.showsIn [.ARR_QSTAT]) (.seq [syncQstat k, syncFence k]) := .seq fun a ha => by
    rcases List.mem_pair.1 ha with rfl | rfl
    · exact showsIn_syncQstat
    · exact showsIn_syncFence
  refine done_holds fun t hst => ?_
  rw [hthen] at hst
  obtain ⟨hregs, hmem, hstreams, hinsts, htiles⟩ := same_of_showsIn hshow hst
  exact ⟨by rw [htiles, tile_updT], hregs, hmem, hstreams, hinsts⟩

theorem unknownCut_refused (hon : s.isOn .arr k = true) (hi : nextCut s k q = some i)
    (hx : s.runCx (s.stream i.stream).inst (leAt i.payload 0 2) (leAt i.payload 4 4) i.stream i.frame = none) :
    gives (.arrItemStart k q) s fun t => t.get F.ARR_ERRSTAT_ERR k 0 = 1 ∧ t.get F.ARR_ERRSTAT_CODE k 0 = 8 ∧
      (t.tile k).runs = (s.tile k).runs ∧ ∀ y ∈ (t.tile k).items, ¬ (y.q = i.q ∧ y.slot = i.slot) := by
  unfold nextCut at hi
  have hthen : s.then (arrItemStartX k q) = s.then (refuseCut k i false [8] []) := then_congr (by
    simp [arrItemStartX, hi, hon, hx])
  obtain ⟨herr, hcode, -, hruns, hitems⟩ := refuseCut_shows (u := s) k i false [8] []
  refine done_holds fun t hst => ?_
  rw [hthen] at hst
  rw [hst.get _ _ _ (by decide), hst.get _ _ _ (by decide), hst.tile]
  exact ⟨herr, hcode rfl, hruns, hitems⟩

theorem failedCut_refused {x : RunCx} (hon : s.isOn .arr k = true) (hi : nextCut s k q = some i)
    (hx : s.runCx (s.stream i.stream).inst (leAt i.payload 0 2) (leAt i.payload 4 4) i.stream i.frame = some x) (hq : x.c.queue = q)
    (hchecks : s.cutChecks (s.stream i.stream).inst i.stream k x ≠ ([], [])) : gives (.arrItemStart k q) s fun t =>
      t.get F.ARR_ERRSTAT_ERR k 0 = 1 ∧
      (x.l.bridle = true → t.get F.ARR_BRSTAT_VIOL k 0 = 1 ∧
        t.get F.ARR_BRREF_COUNT k 0 = min F.ARR_BRREF_COUNT.maxVal (s.get F.ARR_BRREF_COUNT k 0 + 1)) ∧
      (t.tile k).runs = (s.tile k).runs ∧ ∀ y ∈ (t.tile k).items, ¬ (y.q = i.q ∧ y.slot = i.slot) := by
  unfold nextCut at hi
  rcases hck : s.cutChecks (s.stream i.stream).inst i.stream k x with ⟨codes, viols⟩
  have hfails : codes ≠ [] ∨ viols ≠ [] := by
    rw [hck] at hchecks
    by_contra hnone
    simp only [not_or, not_not] at hnone
    exact hchecks (by rw [hnone.1, hnone.2])
  have hthen : s.then (arrItemStartX k q) = s.then (refuseCut k i x.l.bridle codes viols) := then_congr (by
    simp only [arrItemStartX, hi, hon, hx, hq, hck, if_pos hfails, Bool.not_true, Bool.false_eq_true, if_false, ne_eq,
      not_true_eq_false])
  obtain ⟨herr, -, hbridle, hruns, hitems⟩ := refuseCut_shows (u := s) k i x.l.bridle codes viols
  refine done_holds fun t hst => ?_
  rw [hthen] at hst
  rw [hst.get _ _ _ (by decide), hst.get _ _ _ (by decide), hst.get _ _ _ (by decide), hst.tile]
  exact ⟨herr, hbridle, hruns, hitems⟩

end Sys2Proof.Machine
end

section
/-! `ARR_BLOCK_START` (R222, R223, R228): the next block of the first queue that can start joins the array, which shows its queue. -/
namespace Sys2Proof.Machine
open Sys2Proof.Say

variable {s u : State} {k q : Nat} {r : CutRun} {x : RunCx}

theorem showsIn_syncCur {t : Nat} : AllEff (Eff.showsIn [.ARR_CUR, .SFU_STAT]) (syncCur t) := allEff_iff.2 fun v => by
  refine effs_append.2 ⟨?_, by simp [F.SFU_STAT_FUSED, F.SFU_STAT_ITEM, F.SFU_STAT_FUNC, F.SFU_STAT_COMPAT, F.SFU_STAT_STREAM]⟩
  split <;> simp [F.ARR_CUR_BUSY, F.ARR_CUR_QUEUE, F.ARR_CUR_STREAM]

theorem showsIn_syncMpres {t : Nat} : AllEff (Eff.showsIn [.SFU_MPRES]) (syncMpres t) := allEff_iff.2 fun v => by
  simp [syncMpres, F.SFU_MPRES_VALID, F.SFU_MPRES_INUSE]

/-- `ARR_CUR` shows the cut of the youngest block (R228). -/
theorem get_syncCur {t : Nat} (hr : ((u.tile t).blocks.getLast?).bind (u.runOf t) = some r) :
    (u.then (syncCur t)).get F.ARR_CUR_BUSY t 0 = 1 ∧ (u.then (syncCur t)).get F.ARR_CUR_QUEUE t 0 = r.q % 4 := by
  simp only [State.then, syncCur, hr, List.cons_append, List.nil_append]
  constructor
  · exact get_run_fld u (by decide) t 0 1 [] _ (by
      simp [Eff.offF, F.ARR_CUR_BUSY, F.ARR_CUR_QUEUE, F.ARR_CUR_STREAM, F.SFU_STAT_FUSED, F.SFU_STAT_ITEM, F.SFU_STAT_FUNC,
        F.SFU_STAT_COMPAT, F.SFU_STAT_STREAM])
  · exact get_run_fld u (by decide) t 0 r.q [_] _ (by
      simp [Eff.offF, F.ARR_CUR_QUEUE, F.ARR_CUR_STREAM, F.SFU_STAT_FUSED, F.SFU_STAT_ITEM, F.SFU_STAT_FUNC, F.SFU_STAT_COMPAT,
        F.SFU_STAT_STREAM])

/-- The cut of a block in the array is found, in the block's queue. -/
theorem exists_runOf {b : ArrBlock} (hmem : r ∈ (u.tile k).runs) (hq : r.q = b.q) (hslot : r.slot = b.slot) :
    ∃ v, u.runOf k b = some v ∧ v.q = b.q := by
  have hsome : (u.runOf k b).isSome := List.find?_isSome.2 ⟨r, hmem, by simp [hq, hslot]⟩
  obtain ⟨v, hv⟩ := Option.isSome_iff_exists.1 hsome
  have hp := List.find?_some hv
  simp only [Bool.and_eq_true, beq_iff_eq] at hp
  exact ⟨v, hv, hp.1⟩

/-- The head item of a queue that can start is a cut of that queue in the array. -/
theorem mem_runs_of_qHead {b : BlockAt} (h : s.qHead k q = .ready r x b) : r ∈ (s.tile k).runs ∧ r.q = q := by
  unfold State.qHead at h
  split at h
  · cases h
  · next r' hfind =>
    have hmem : r' ∈ (s.tile k).runs ∧ r'.q = q := by
      refine ⟨List.mem_of_find?_eq_some hfind, ?_⟩
      have hp := List.find?_some hfind
      simp only [Bool.and_eq_true, beq_iff_eq] at hp
      exact hp.1
    split at h
    · cases h
    · dsimp only at h
      split_ifs at h
      injection h with hr
      exact hr ▸ hmem

/-- The queue whose block is next is one of the array's four, and its cut is in the array. -/
theorem queue_of_nextBlock (h : nextBlock s k = some (q, r, x)) : q < 4 ∧ r ∈ (s.tile k).runs ∧ r.q = q := by
  unfold nextBlock at h
  obtain ⟨j, hj, hhead⟩ := List.exists_of_findSome?_eq_some h
  split at hhead
  · next hready =>
    cases hhead
    exact ⟨List.mem_range.1 (List.mem_filter.1 hj).1, mem_runs_of_qHead hready⟩
  · cases hhead

/-- A block starts: its cut goes on to the next, the block joins the array, and the registers show it. -/
theorem then_arrBlockStart (hon : s.isOn .arr k = true) (hlen : (s.tile k).blocks.length < 2) (hnext : nextBlock s k = some (q, r, x)) :
    ∃ (fill : Bool) (f : Tile → Tile),
      (∀ c, (f c).blocks = c.blocks ++ [⟨q, r.slot, r.next, x.blockCycles r.next⟩] ∧ (f c).runs = c.runs) ∧
      s.then (arrBlockStartX k) = (((s.then (updRun k q r.slot fun u => { u with next := u.next + 1 })).then (updT k f)).then
        (.when fill (count F.ARR_FILLCNT_COUNT k 1))).then (.seq [syncCur k, syncMpres k, syncFence k]) := by
  have hgo : ¬ (!s.isOn .arr k ∨ 2 ≤ (s.tile k).blocks.length) := by
    rw [hon]
    exact fun h => h.elim Bool.false_ne_true (Nat.not_le.2 hlen)
  have hsteps : ∃ (fill : Bool) (f : Tile → Tile),
      (∀ c, (f c).blocks = c.blocks ++ [⟨q, r.slot, r.next, x.blockCycles r.next⟩] ∧ (f c).runs = c.runs) ∧
      arrBlockStartX k s = Act.seq [updRun k q r.slot fun u => { u with next := u.next + 1 }, updT k f,
        .when fill (count F.ARR_FILLCNT_COUNT k 1), syncCur k, syncMpres k, syncFence k] s := by
    unfold arrBlockStartX
    rw [if_neg hgo]
    dsimp only
    split
    · next hnone => cases hnext.symm.trans hnone
    · next hsome =>
      cases hnext.symm.trans hsome
      refine ⟨_, _, ?_, rfl⟩
      exact fun c => ⟨rfl, rfl⟩
  obtain ⟨fill, f, hf, hsteps⟩ := hsteps
  refine ⟨fill, f, hf, ?_⟩
  rw [← then_seq_cons, ← then_seq_cons, ← then_seq_cons]
  exact then_congr hsteps

theorem block_starts (hon : s.isOn .arr k = true) (hlen : (s.tile k).blocks.length < 2) (hnext : nextBlock s k = some (q, r, x)) :
    gives (.arrBlockStart k) s fun t =>
      (t.tile k).blocks = (s.tile k).blocks ++ [⟨q, r.slot, r.next, x.blockCycles r.next⟩] ∧
      (t.tile k).runs = ((s.tile k).runs.map fun u => if u.q = q ∧ u.slot = r.slot then { u with next := u.next + 1 } else u) ∧
      t.get F.ARR_CUR_BUSY k 0 = 1 ∧ t.get F.ARR_CUR_QUEUE k 0 = q ∧
      sameRegs [.ARR_FILLCNT, .ARR_CUR, .SFU_STAT, .SFU_MPRES, .ARR_QSTAT] s t ∧ sameMem s t ∧
      (∀ id, t.stream id = s.stream id) ∧ ∀ n, t.inst n = s.inst n := by
  obtain ⟨hq4, hmem, hrq⟩ := queue_of_nextBlock hnext
  obtain ⟨fill, f, hf, hthen⟩ := then_arrBlockStart hon hlen hnext
  have hfill : AllEff (Eff.showsIn [.ARR_FILLCNT]) (.when fill (count F.ARR_FILLCNT_COUNT k 1)) := allEff_iff.2 fun v => by
    simp [F.ARR_FILLCNT_COUNT]
  have hlast : AllEff (Eff.showsIn [.SFU_MPRES, .ARR_QSTAT]) (.seq [syncMpres k, syncFence k]) := .seq fun a ha => by
    rcases List.mem_pair.1 ha with rfl | rfl
    · exact showsIn_syncMpres.mono fun _ => Eff.showsIn_mono (by simp)
    · exact showsIn_syncFence.mono fun _ => Eff.showsIn_mono (by simp)
  refine done_holds fun t hst => ?_
  rw [hthen] at hst
  generalize hw : (s.then (updRun k q r.slot fun u => { u with next := u.next + 1 })).then (updT k f) = w at hst
  have hblocks : (w.tile k).blocks = (s.tile k).blocks ++ [⟨q, r.slot, r.next, x.blockCycles r.next⟩] := by
    rw [← hw, tile_updT, (hf _).1, updRun, tile_updT]
  have hruns : (w.tile k).runs = (s.tile k).runs.map fun u => if u.q = q ∧ u.slot = r.slot then { u with next := u.next + 1 } else u := by
    rw [← hw, tile_updT, (hf _).2, updRun, tile_updT]
  have htile := tile_of_showsIn (u := w) hfill k
  obtain ⟨v, hv, hvq⟩ := exists_runOf (u := w.then (.when fill (count F.ARR_FILLCNT_COUNT k 1))) (k := k)
    (r := { r with next := r.next + 1 }) (b := ⟨q, r.slot, r.next, x.blockCycles r.next⟩) (by
      rw [htile, hruns]
      exact List.mem_map.2 ⟨r, hmem, if_pos ⟨hrq, rfl⟩⟩) hrq rfl
  obtain ⟨hbusy, hqueue⟩ := get_syncCur (u := w.then (.when fill (count F.ARR_FILLCNT_COUNT k 1))) (r := v) (t := k) (by
    rw [htile, hblocks, List.getLast?_concat]
    exact hv)
  have hall : AllEff (Eff.showsIn [.ARR_FILLCNT, .ARR_CUR, .SFU_STAT, .SFU_MPRES, .ARR_QSTAT])
      (.seq [.when fill (count F.ARR_FILLCNT_COUNT k 1), syncCur k, syncMpres k, syncFence k]) := .seq fun a ha => by
    simp only [List.mem_cons, List.not_mem_nil, or_false] at ha
    rcases ha with rfl | rfl | rfl | rfl
    · exact hfill.mono fun _ => Eff.showsIn_mono (by simp)
    · exact showsIn_syncCur.mono fun _ => Eff.showsIn_mono (by simp)
    · exact showsIn_syncMpres.mono fun _ => Eff.showsIn_mono (by simp)
    · exact showsIn_syncFence.mono fun _ => Eff.showsIn_mono (by simp)
  obtain ⟨hregs, hsame, hstreams, hinsts, htiles⟩ := same_of_showsIn (u := w) hall (by rwa [then_seq_cons])
  have hcur (g : Fld) (hg : g.reg = .ARR_CUR) :
      t.get g k 0 = ((w.then (.when fill (count F.ARR_FILLCNT_COUNT k 1))).then (syncCur k)).get g k 0 := by
    rw [hst.get _ _ _ (by rw [hg]; decide), then_seq_cons, get_of_showsIn hlast (by rw [hg]; decide)]
  subst hw
  refine ⟨by rw [htiles, hblocks], by rw [htiles, hruns], ?_, ?_, hregs, hsame, hstreams, hinsts⟩
  · rw [hcur _ rfl, hbusy]
  · rw [hcur _ rfl, hqueue, hvq]
    exact Nat.mod_eq_of_lt hq4

end Sys2Proof.Machine
end

section
/-! What goes on when a row of a cut is stored, or its last block (R218, R220, R224, R498): fences, stripes, the latent pool, rates,
taps, reconstructions, digests and the end of the item. None of it touches the blocks in an array. -/
namespace Sys2Proof.Machine

/-- The effect leaves the blocks of every tile's array alone. -/
@[simp] def Eff.keepsBlocks : Eff → Prop
  | .tile _ f => ∀ c, (f c).blocks = c.blocks
  | _ => True

theorem Eff.keepsBlocks_of_keepsWork {e : Eff} (h : e.keepsWork) : e.keepsBlocks := by
  cases e with
  | tile t f => exact fun c => (h c).2.1
  | _ => trivial

@[simp] theorem keepsBlocks_of_sends {l : List Eff} (h : Effs Eff.sends l) : Effs Eff.keepsBlocks l :=
  h.mono fun _ he => Eff.keepsBlocks_of_keepsWork (Eff.keepsWork_of_sends he)

theorem keepsBlocks_of_showsIn {l : List Reg} {a : Act} (h : AllEff (Eff.showsIn l) a) {u : State} : Effs Eff.keepsBlocks (a u) :=
  (allEff_iff.1 h u).mono fun e he => by cases e <;> trivial

variable {u : State}

theorem blocks_of_keepsBlocks {a : Act} (h : AllEff Eff.keepsBlocks a) (t : Nat) : ((u.then a).tile t).blocks = (u.tile t).blocks := by
  refine run_keeps u (a u) (P := fun w => (w.tile t).blocks = (u.tile t).blocks) (fun w hw e he => ?_) rfl
  have hk := h u e he
  cases e with
  | tile n f =>
    rw [tile_run]
    split
    · next hn => exact (hk (w.tile n)).trans (hn ▸ hw)
    · exact hw
  | mem b bs => simpa [State.tile, Eff.run] using hw
  | _ => exact hw

@[simp] theorem keepsBlocks_updLsc {id : Nat} {f : Lsc → Lsc} : Effs Eff.keepsBlocks (updLsc id f u) := by
  simp [updLsc]

@[simp] theorem keepsBlocks_updFrame {id frame : Nat} {g : LscFrame → LscFrame} : Effs Eff.keepsBlocks (updFrame id frame g u) :=
  keepsBlocks_updLsc

@[simp] theorem keepsBlocks_syncCur {t : Nat} : Effs Eff.keepsBlocks (syncCur t u) := keepsBlocks_of_showsIn showsIn_syncCur

@[simp] theorem keepsBlocks_syncQstat {t : Nat} : Effs Eff.keepsBlocks (syncQstat t u) := keepsBlocks_of_showsIn showsIn_syncQstat

@[simp] theorem keepsBlocks_syncMpres {t : Nat} : Effs Eff.keepsBlocks (syncMpres t u) := keepsBlocks_of_showsIn showsIn_syncMpres

/-! ## Rows -/

@[simp] theorem keepsBlocks_turnStripe {x : RunCx} : Effs Eff.keepsBlocks (turnStripe x u) := by
  refine effs_each fun pl v => effs_each fun e w => ?_
  simp

@[simp] theorem keepsBlocks_campPool {id frame : Nat} : Effs Eff.keepsBlocks (campPool id frame u) := by
  unfold campPool
  dsimp only
  repeat' split
  all_goals simp [putCampRef]

@[simp] theorem keepsBlocks_decFences {id frame : Nat} : Effs Eff.keepsBlocks (decFences id frame u) := by
  unfold decFences
  split
  · simp
  · split
    · simp
    · refine effs_each fun l v => effs_each fun e w => ?_
      simp

@[simp] theorem keepsBlocks_lostMeans {id frame : Nat} : Effs Eff.keepsBlocks (lostMeans id frame u) := by
  unfold lostMeans
  dsimp only
  repeat' split
  all_goals simp

@[simp] theorem keepsBlocks_rateStep {id frame : Nat} : Effs Eff.keepsBlocks (rateStep id frame u) := by
  unfold rateStep
  repeat' split
  all_goals simp

@[simp] theorem keepsBlocks_putTap {id tap frame keyAt : Nat} {dims : Nat × Nat × Nat} {bytes : List Byte} {bad : Bool} :
    Effs Eff.keepsBlocks (putTap id tap frame keyAt dims bytes bad u) := by
  simp [putTap]

@[simp] theorem keepsBlocks_frameTaps {id frame : Nat} : Effs Eff.keepsBlocks (frameTaps id frame u) := by
  have hstep (l : List Nat) (v : State) : Effs Eff.keepsBlocks (tapStep id frame l false v) := by
    unfold tapStep
    split
    · simp
    · split
      · simp
      · split
        · simp
        · refine effs_each fun n w => ?_
          split <;> simp
  have hcamp (v : State) : Effs Eff.keepsBlocks (tapCampion id frame v) := by
    unfold tapCampion
    split
    · simp
    · split
      · simp
      · refine effs_each fun e w => effs_opt.2 fun b _ => ?_
        simp
  simp [frameTaps, hstep, hcamp]

@[simp] theorem keepsBlocks_reconStep {id frame : Nat} : Effs Eff.keepsBlocks (reconStep id frame u) := by
  unfold reconStep
  dsimp only
  repeat' split
  all_goals simp

/-! ## The last block -/

@[simp] theorem keepsBlocks_convStats {t id layer : Nat} {c : ConvRun} : Effs Eff.keepsBlocks (convStats t id layer c u) := by
  simp [convStats]

@[simp] theorem keepsBlocks_secondOutput {t id : Nat} {x : RunCx} : Effs Eff.keepsBlocks (secondOutput t id x u) := by
  unfold secondOutput
  dsimp only
  split
  · simp
  · refine effs_each fun e v => ?_
    simp

@[simp] theorem keepsBlocks_keepDigest {r : CutRun} : Effs Eff.keepsBlocks (keepDigest r u) := by
  have hwrite (id prog frame ch : Nat) (cuts : List (Nat × Cut)) (v : State) :
      Effs Eff.keepsBlocks (writeDigests id prog frame ch cuts v) := by
    unfold writeDigests
    dsimp only
    split
    · simp
    · refine effs_each fun l w => ?_
      simp
  unfold keepDigest
  dsimp only
  split
  · simp
  · split <;> simp [hwrite]

@[simp] theorem keepsBlocks_finishCut {t : Nat} {x : RunCx} {r : CutRun} : Effs Eff.keepsBlocks (finishCut t x r u) := by
  have hitem (it : Item) (st digest : Nat) (conds : List Nat) (v : State) : Effs Eff.keepsBlocks (finishItem t it st digest conds v) :=
    effs_seq_cons.2 ⟨by simp [dropItem], (allEff_iff.1 keepsWork_itemTail _).mono fun _ => Eff.keepsBlocks_of_keepsWork⟩
  simp [finishCut, hitem]

end Sys2Proof.Machine
end

section
/-! `ARR_BLOCK_DONE` (R215, R218, R224): the oldest block of the array leaves it, and what it computed is stored, counted and kept. -/
namespace Sys2Proof.Machine
open Sys2Proof.Say

variable {s u : State} {k : Nat} {b : ArrBlock} {rest : List ArrBlock} {r : CutRun} {x : RunCx} {c : BlockAt}

/-! ## What a block that drains does -/

/-- What a block that drains stores: its positions and codes, whether it read poison, and whether it is stored as poisoned. -/
structure BlockEnd where
  pos : BlockAt
  out : BlockOut
  read : Bool
  bad : Bool

/-- The end of a block of a cut (R224). -/
def State.blockEnd (s : State) (x : RunCx) (r : CutRun) (b : ArrBlock) : BlockEnd :=
  let own := x.block b.block
  let c := (x.stored own).getD { own with nk := 0 }
  let o := s.blockOut x c
  let read := o.bad || (x.stored own).isNone && (s.blockOut x own).bad
  let bad := read || r.microBad
  ⟨c, if bad then s.spoilt x o else o, read, bad⟩

/-- The block is counted after it has been stored, and shown where it read poison (R107, R228, R274). -/
def tallySteps (k : Nat) (x : RunCx) (r : CutRun) (b : ArrBlock) (e : BlockEnd) : List Act :=
  [yardBlock k x e.pos e.bad, .when e.bad (.eff [.draw (e.out.codes.length + e.out.scales.length)]), countBlock k x r b e.pos e.out,
    .when e.read (.seq [arrErr k 13 r.stream r.q, .when (x.usesSfu && x.c.role != rolePartial) (sfuErr k 1 r.stream)])]

/-- A cut with one more block done: its values are kept for the digest. -/
def CutRun.afterBlock (u : CutRun) (x : RunCx) (e : BlockEnd) : CutRun :=
  let ng := if e.pos.nq = 0 then 1 else e.out.scales.length / e.pos.nq
  { u with
    done := u.done + 1, bad := u.bad || e.bad, outs := u.outs ++ keyed e.pos e.out.codes e.pos.nk e.pos.k0,
    scales := u.scales ++ keyed e.pos e.out.scales ng (if x.p.ogran x.li = 2 then e.pos.k0 / 32 else 0) }

/-- The block ends a row of the cut. -/
def rowEnds (x : RunCx) (b : ArrBlock) (c : BlockAt) : Bool := (x.block (b.block + 1)).row != c.row || b.block + 1 == x.blocks

/-- The block ends a stripe of the cut that is not its last. -/
def stripeEnds (x : RunCx) (b : ArrBlock) (c : BlockAt) : Bool :=
  x.c.mode == cutStripe && rowEnds x b c && (c.row + 1 - x.c.row0) % max 1 x.c.stripe == 0 && b.block + 1 != x.blocks

/-- What goes on once a row is stored (R218, R220). -/
def rowSteps (x : RunCx) (r : CutRun) (b : ArrBlock) (c : BlockAt) : List Act :=
  [.when (rowEnds x b c) (advanceFence x r (c.row + 1 - x.c.row0)), .when (stripeEnds x b c) (turnStripe x),
    .when (rowEnds x b c && x.p.codec && x.p.yLayer == some x.li) (campPool r.stream r.frame),
    .when (rowEnds x b c && x.p.codec && x.p.pLayer == some x.li) (lostMeans r.stream r.frame),
    .when (rowEnds x b c && x.p.codec) (rateStep r.stream r.frame),
    .when (rowEnds x b c && x.p.codec) (frameTaps r.stream r.frame),
    .when (rowEnds x b c && x.p.sLayer == some x.li) (reconStep r.stream r.frame)]

/-- The cut ends with its last block (R224, R539). -/
def lastBlock (k : Nat) (x : RunCx) (r : CutRun) : Act := .read fun s =>
  .opt ((s.tile k).runs.find? fun u => u.q == r.q && u.slot == r.slot) fun u => .when (decide (x.blocks ≤ u.done)) (finishCut k x u)

/-- What the registers show of the blocks that are left. -/
def showBlocks (k n : Nat) : List Act := [syncCur k, syncMpres k, syncFences n]

/-- A block of a cut is stored and counted, its cut goes on, it leaves the array, and what its row and its cut wait for follows. -/
theorem then_arrBlockDone (hb : (s.tile k).blocks = b :: rest)
    (hr : (s.tile k).runs.find? (fun u => u.q == b.q && u.slot == b.slot) = some r) (hx : s.cxOf r = some x) :
    let e := s.blockEnd x r b
    s.then (arrBlockDoneX k) = ((((s.then (putBlock x e.pos e.out e.bad)).then (.seq (tallySteps k x r b e))).then
      (updRun k r.q r.slot (·.afterBlock x e))).then (updT k fun c => { c with blocks := rest })).then
      (.seq (rowSteps x r b e.pos ++ lastBlock k x r :: showBlocks k (s.stream r.stream).inst)) := by
  intro e
  have hsteps : arrBlockDoneX k s = Act.seq (putBlock x e.pos e.out e.bad :: (tallySteps k x r b e ++ updRun k r.q r.slot (·.afterBlock x e) ::
      updT k (fun c => { c with blocks := rest }) ::
      (rowSteps x r b e.pos ++ lastBlock k x r :: showBlocks k (s.stream r.stream).inst))) s := by
    simp only [arrBlockDoneX, hb, hr, hx]
    rfl
  rw [then_congr hsteps, then_seq_cons, then_seq_append, then_seq_cons, then_seq_cons]

/-! ## The oldest block leaves the array -/

theorem keepsBlocks_rowSteps {n : Nat} : AllEff Eff.keepsBlocks (.seq (rowSteps x r b c ++ lastBlock k x r :: showBlocks k n)) := by
  have hfence (t : Nat) (v : State) : Effs Eff.keepsBlocks (syncFence t v) := keepsBlocks_of_showsIn showsIn_syncFence
  refine allEff_iff.2 fun v => ?_
  simp [rowSteps, lastBlock, showBlocks, advanceFence, syncFences, hfence]

theorem oldestBlock_leaves (hb : (s.tile k).blocks = b :: rest) : gives (.arrBlockDone k) s fun t => (t.tile k).blocks = rest := by
  have hleft (w : State) {l : List Act} (hl : AllEff Eff.keepsBlocks (.seq l)) :
      (((w.then (updT k fun c => { c with blocks := rest })).then (.seq l)).tile k).blocks = rest := by
    rw [blocks_of_keepsBlocks hl, tile_updT]
  have hnoCut (h : arrBlockDoneX k s = Act.seq [updT k fun c => { c with blocks := rest }, syncCur k] s) :
      ((s.then (arrBlockDoneX k)).tile k).blocks = rest := by
    rw [then_congr h, then_seq_cons]
    exact hleft s (allEff_iff.2 fun v => by simp)
  refine done_holds fun t hst => ?_
  rw [hst.tile]
  rcases hr : (s.tile k).runs.find? fun u => u.q == b.q && u.slot == b.slot with _ | r
  · exact hnoCut (by simp only [arrBlockDoneX, hb, hr])
  · rcases hx : s.cxOf r with _ | x
    · exact hnoCut (by simp only [arrBlockDoneX, hb, hr, hx])
    · rw [then_arrBlockDone hb hr hx]
      exact hleft _ keepsBlocks_rowSteps

/-! ## A block within a row -/

theorem showsIn_convStats {t id layer : Nat} {o : ConvRun} : AllEff (Eff.showsIn [.ARR_CVSAT, .ARR_CVNAN, .ARR_CVCNT, .ARR_CVSSE_LO,
    .ARR_CVSSE_HI, .ARR_CVSSX_LO, .ARR_CVSSX_HI]) (convStats t id layer o) := allEff_iff.2 fun v => by
  simp [convStats, F.ARR_CVSAT_COUNT, F.ARR_CVNAN_COUNT, F.ARR_CVCNT_COUNT, F.ARR_CVSSE_LO_SSE_LO, F.ARR_CVSSE_HI_SSE_HI,
    F.ARR_CVSSX_LO_SSX_LO, F.ARR_CVSSX_HI_SSX_HI]

/-- The registers that count what a block adds. -/
def blockCounters : List Reg := [.ARR_BUSYCNT, .ARR_MACCNT, .ARR_FREQCNT, .ARR_SPILLCNT, .ARR_BRSAT, .ARR_CVSAT, .ARR_CVNAN, .ARR_CVCNT,
  .ARR_CVSSE_LO, .ARR_CVSSE_HI, .ARR_CVSSX_LO, .ARR_CVSSX_HI, .SFU_EVALCNT, .SFU_COMPATCNT, .SFU_NANCNT, .SFU_STALLCNT]

theorem showsIn_countBlock {o : BlockOut} : AllEff (Eff.showsIn blockCounters) (countBlock k x r b c o) := allEff_iff.2 fun v => by
  have hconv (w : State) : Effs (Eff.showsIn blockCounters) (convStats k r.stream x.li o.conv w) :=
    (allEff_iff.1 showsIn_convStats w).mono fun _ => Eff.showsIn_mono (by decide)
  simp only [countBlock, effs_seq_cons, effs_seq_nil, effs_when, hconv]
  simp [count256, countUnit, blockCounters, F.ARR_BUSYCNT_COUNT, F.ARR_MACCNT_COUNT, F.ARR_FREQCNT_COUNT, F.ARR_SPILLCNT_COUNT,
    F.ARR_BRSAT_COUNT, F.SFU_EVALCNT_COUNT, F.SFU_COMPATCNT_COUNT, F.SFU_NANCNT_COUNT, F.SFU_STALLCNT_COUNT]

theorem showsIn_yardBlock {bad : Bool} : AllEff (Eff.showsIn [.BAL_YSAVED, .YRD_FLIT]) (yardBlock k x c bad) := allEff_iff.2 fun v => by
  have hsend (a : Nat) (bs : List Byte) (w : State) : Effs (Eff.showsIn [.BAL_YSAVED, .YRD_FLIT]) (yardSend k a bs bad w) := by
    simp [yardSend, yardPacket, F.BAL_YSAVED_COUNT, F.YRD_FLIT_COUNT]
  simp [yardBlock, hsend]

/-- The registers that a block changes once it has been stored. -/
def tallyRegs : List Reg := .BAL_YSAVED :: .YRD_FLIT :: .ARR_ERRSTAT :: .ARR_ERRCNT :: .SFU_ERRSTAT :: .SFU_ERRCNT :: blockCounters

theorem showsIn_sfuErr {t code id : Nat} : AllEff (Eff.showsIn [.SFU_ERRSTAT, .SFU_ERRCNT]) (sfuErr t code id) := allEff_iff.2 fun v => by
  simp [sfuErr, blockErr, F.SFU_ERRSTAT_ERR, F.SFU_ERRSTAT_CODE, F.SFU_ERRCNT_COUNT, F.SFU_ERRSTAT_STREAM]

theorem showsIn_tallySteps {e : BlockEnd} : AllEff (Eff.showsIn tallyRegs) (.seq (tallySteps k x r b e)) := allEff_iff.2 fun v => by
  simp only [tallySteps, effs_seq_cons, effs_seq_nil, effs_when, effs_eff, and_true]
  refine ⟨(allEff_iff.1 showsIn_yardBlock _).mono fun _ => Eff.showsIn_mono (by decide), fun _ => by simp,
    (allEff_iff.1 showsIn_countBlock _).mono fun _ => Eff.showsIn_mono (by decide), fun _ =>
    ⟨(allEff_iff.1 showsIn_arrErr _).mono fun _ => Eff.showsIn_mono (by decide), fun _ =>
      (allEff_iff.1 showsIn_sfuErr _).mono fun _ => Eff.showsIn_mono (by decide)⟩⟩

/-- A block that read poison is shown (R224, R228). -/
theorem get_tallySteps {e : BlockEnd} (hread : e.read = true) : (u.then (.seq (tallySteps k x r b e))).get F.ARR_ERRSTAT_ERR k 0 = 1 ∧
    (u.then (.seq (tallySteps k x r b e))).get F.ARR_ERRSTAT_CODE k 0 = 13 := by
  have hsfu (p : Bool) : AllEff (Eff.showsIn [.SFU_ERRSTAT, .SFU_ERRCNT]) (.when p (sfuErr k 1 r.stream)) := .when fun _ => showsIn_sfuErr
  simp only [tallySteps, then_seq_cons, then_seq_nil, hread]
  rw [then_when _ true, if_pos rfl, then_seq_cons, then_seq_cons, then_seq_nil, get_of_showsIn (hsfu _) (by decide),
    get_of_showsIn (hsfu _) (by decide)]
  exact get_arrErr k 13 r.stream r.q

theorem showsIn_showBlocks {n : Nat} : AllEff (Eff.showsIn [.ARR_CUR, .SFU_STAT, .SFU_MPRES, .ARR_QSTAT]) (.seq (showBlocks k n)) :=
  .seq fun a ha => by
    simp only [showBlocks, List.mem_cons, List.not_mem_nil, or_false] at ha
    rcases ha with rfl | rfl | rfl
    · exact showsIn_syncCur.mono fun _ => Eff.showsIn_mono (by decide)
    · exact showsIn_syncMpres.mono fun _ => Eff.showsIn_mono (by decide)
    · have hfence (t : Nat) : AllEff (Eff.showsIn [.ARR_CUR, .SFU_STAT, .SFU_MPRES, .ARR_QSTAT]) (syncFence t) :=
        showsIn_syncFence.mono fun _ => Eff.showsIn_mono (by decide)
      exact fun v => AllEff.each (fun t _ => hfence t) v

/-- Within a row of a cut that goes on, nothing follows a block but what the registers show. -/
theorem then_rowSteps {n : Nat} {v : CutRun} (hrow : rowEnds x b c = false)
    (hv : (u.tile k).runs.find? (fun u => u.q == r.q && u.slot == r.slot) = some v) (hmore : v.done < x.blocks) :
    u.then (.seq (rowSteps x r b c ++ lastBlock k x r :: showBlocks k n)) = u.then (.seq (showBlocks k n)) := by
  have hstripe : stripeEnds x b c = false := by simp [stripeEnds, hrow]
  have hnot : ¬ x.blocks ≤ v.done := Nat.not_le.2 hmore
  rw [then_seq_append, then_seq_cons]
  simp [rowSteps, lastBlock, hrow, hstripe, hv, hnot]

/-- The first cut of a place in the array is still the first when it goes on. -/
theorem find_goesOn {l : List CutRun} {f : CutRun → CutRun} (hf : ∀ u, (f u).q = u.q ∧ (f u).slot = u.slot)
    (hr : l.find? (fun u => u.q == r.q && u.slot == r.slot) = some r) :
    (l.map fun u => if u.q = r.q ∧ u.slot = r.slot then f u else u).find? (fun u => u.q == r.q && u.slot == r.slot) = some (f r) := by
  have hplace : ((fun u : CutRun => u.q == r.q && u.slot == r.slot) ∘ fun u => if u.q = r.q ∧ u.slot = r.slot then f u else u) =
      fun u => u.q == r.q && u.slot == r.slot := by
    funext u
    simp only [Function.comp]
    split
    · rw [(hf u).1, (hf u).2]
    · rfl
  rw [List.find?_map, hplace, hr]
  exact congrArg some (if_pos ⟨rfl, rfl⟩)

/-- A block that ends neither a row nor its cut is stored, and changes its cut and what the registers show alone. -/
theorem midBlock_stored (hb : (s.tile k).blocks = b :: rest)
    (hr : (s.tile k).runs.find? (fun u => u.q == b.q && u.slot == b.slot) = some r) (hx : s.cxOf r = some x)
    (hrow : rowEnds x b (s.blockEnd x r b).pos = false) (hmore : r.done + 1 < x.blocks) :
    gives (.arrBlockDone k) s fun t =>
      let e := s.blockEnd x r b
      (∀ a, t.byte a = (s.then (putBlock x e.pos e.out e.bad)).byte a) ∧ r.afterBlock x e ∈ (t.tile k).runs ∧
      (e.read = true → t.get F.ARR_ERRSTAT_ERR k 0 = 1 ∧ t.get F.ARR_ERRSTAT_CODE k 0 = 13) ∧
      (∀ id, t.stream id = s.stream id) ∧ ∀ n, t.inst n = s.inst n := by
  obtain ⟨hbq, hbslot⟩ : r.q = b.q ∧ r.slot = b.slot := by simpa using List.find?_some hr
  rw [← hbq, ← hbslot] at hr
  refine done_holds fun t hst => ?_
  rw [then_arrBlockDone hb (by rwa [← hbq, ← hbslot]) hx] at hst
  generalize s.blockEnd x r b = e at hst hrow ⊢
  have hput : AllEff Eff.sends (putBlock x e.pos e.out e.bad) := allEff_iff.2 fun v => sends_putBlock
  generalize hp : s.then (putBlock x e.pos e.out e.bad) = p at hst ⊢
  generalize hw : ((p.then (.seq (tallySteps k x r b e))).then (updRun k r.q r.slot (·.afterBlock x e))).then
    (updT k fun c => { c with blocks := rest }) = w at hst
  obtain ⟨hpmem, hpstreams, hpinsts, -⟩ := contexts_of_showsIn (u := p)
    (showsIn_tallySteps (k := k) (x := x) (r := r) (b := b) (e := e))
  have hruns : (w.tile k).runs = (s.tile k).runs.map fun u => if u.q = r.q ∧ u.slot = r.slot then u.afterBlock x e else u := by
    have hkept : (p.tile k).runs = (s.tile k).runs := by
      rw [← hp]
      exact (tile_of_keepsWork (hput.mono fun _ => Eff.keepsWork_of_sends) k).1
    rw [← hw, tile_updT, updRun, tile_updT, tile_of_showsIn showsIn_tallySteps, ← hkept]
  have hfound : (w.tile k).runs.find? (fun u => u.q == r.q && u.slot == r.slot) = some (r.afterBlock x e) := by
    rw [hruns]
    exact find_goesOn (fun _ => ⟨rfl, rfl⟩) hr
  have hmem : w.mem = p.mem := by simp only [← hw, updRun, then_updT, run_tile_mem, hpmem]
  have hstreams : w.streams = s.streams := by
    simp only [← hw, updRun, then_updT, run_tile_streams, hpstreams]
    exact hp ▸ streams_of_sends hput
  have hinsts : w.insts = s.insts := by
    simp only [← hw, updRun, then_updT, run_tile_insts, hpinsts]
    exact hp ▸ insts_of_sends hput
  have hget (f : Fld) : w.get f k 0 = (p.then (.seq (tallySteps k x r b e))).get f k 0 :=
    get_of_regs (by simp only [← hw, updRun, then_updT, run_tile_regs]) f k 0
  rw [then_rowSteps hrow hfound hmore] at hst
  obtain ⟨-, hbytes, hids, hns, htiles⟩ := same_of_showsIn showsIn_showBlocks hst
  refine ⟨fun a => ?_, ?_, fun hread => ?_, fun id => ?_, fun n => ?_⟩
  · exact (hbytes a).trans (by simp only [State.byte, hmem, hp])
  · rw [htiles]
    exact List.mem_of_find?_eq_some hfound
  · rw [hst.get _ _ _ (by decide), hst.get _ _ _ (by decide), get_of_showsIn showsIn_showBlocks (by decide),
      get_of_showsIn showsIn_showBlocks (by decide), hget, hget]
    exact get_tallySteps hread
  · exact (hids id).trans (by simp only [State.stream, hstreams])
  · exact (hns n).trans (by simp only [State.inst, hinsts])

/-- The end of a block whose positions are stored: they are those, and what was computed there is stored unless it is poisoned. -/
theorem blockEnd_of_stored (hc : x.stored (x.block b.block) = some c) : s.blockEnd x r b =
    ⟨c, if ((s.blockOut x c).bad || r.microBad) = true then s.spoilt x (s.blockOut x c) else s.blockOut x c, (s.blockOut x c).bad,
      (s.blockOut x c).bad || r.microBad⟩ := by
  simp [State.blockEnd, hc]

theorem rowEnds_of_sameRow (hlast : b.block + 1 ≠ x.blocks) (hrow : (x.block (b.block + 1)).row = c.row) : rowEnds x b c = false := by
  simp [rowEnds, hlast, hrow]

/-- Settles O22: an item start is a refusal or a run, a block start adds a block, and the end of a block within a row stores its
positions, goes on with its cut, and leaves the array. -/
theorem arrayItemsAndBlocksRun : Obligations.ArrayItemsAndBlocksRun := by
  refine ⟨fun _ _ _ _ _ hon hi hflags hx hq hchecks => cut_starts hon hi hflags hx hq hchecks,
    fun _ _ _ _ hon hi hx => unknownCut_refused hon hi hx,
    fun _ _ _ _ _ hon hi hx hq hchecks => failedCut_refused hon hi hx hq hchecks,
    fun _ _ _ _ _ hon hlen hnext => block_starts hon hlen hnext,
    fun _ _ _ _ hb => oldestBlock_leaves hb,
    fun s k b rest r x c hb hr hx hc hlast hrow hmore => ?_⟩
  have hend := blockEnd_of_stored (s := s) (r := r) hc
  obtain ⟨t, hexec, hbytes, hrun, hshown, hstreams, hinsts⟩ := midBlock_stored hb hr hx
    (hend ▸ rowEnds_of_sameRow hlast hrow) hmore
  rw [hend] at hbytes hrun hshown
  refine ⟨fun hgood hmicro => ⟨t, hexec, ?_, ⟨_, hrun, rfl, rfl, rfl, ?_, ?_⟩, hstreams, hinsts⟩,
    fun hbad => ⟨t, hexec, (hshown hbad).1, (hshown hbad).2, ⟨_, hrun, rfl, rfl, rfl, ?_⟩, hstreams, hinsts⟩⟩
  · simpa [hgood, hmicro] using hbytes
  · simp [CutRun.afterBlock, hgood, hmicro]
  · simp [CutRun.afterBlock, hgood, hmicro]
  · simp [CutRun.afterBlock, hbad]

end Sys2Proof.Machine
end

section
/-! The rANS coder (R117 to R121): what one coding step does to a lane, and that the decoder takes it back. -/
namespace Sys2Proof.Machine
open Sys2Proof.Say

/-! ## One coding step -/

/-- The interval of a coding step is not empty and lies in [0, 65,536). -/
def stepOk (cf : Nat × Nat) : Prop := 0 < cf.2 ∧ cf.1 + cf.2 ≤ 65536

/-- The range of a lane's state between two steps. -/
def laneOk (s : Nat) : Prop := 65536 ≤ s ∧ s < 4294967296

theorem laneOk_init : laneOk 0x10000 := ⟨le_rfl, by decide⟩

/-- The state that the interval is coded into: the encoder's after its renormalisation. -/
theorem encStep_eq (s : Nat) (cf : Nat × Nat) : ∃ s1, (encStep s cf).2 = (s1 / cf.2) * 65536 + s1 % cf.2 + cf.1 ∧
    ((cf.2 * 65536 ≤ s ∧ s1 = s / 65536 ∧ (encStep s cf).1 = [s % 65536]) ∨ (s < cf.2 * 65536 ∧ s1 = s ∧ (encStep s cf).1 = [])) := by
  unfold encStep
  by_cases h : cf.2 * 65536 ≤ s
  · exact ⟨s / 65536, by simp [h], .inl ⟨h, rfl, by simp [h]⟩⟩
  · exact ⟨s, by simp [h], .inr ⟨by omega, rfl, by simp [h]⟩⟩

/-- The renormalised state lies in [f, 65,536 f). -/
theorem renormalised_range {s s1 f : Nat} (hf : 0 < f) (hs : laneOk s) (h65536 : f ≤ 65536)
    (h : (f * 65536 ≤ s ∧ s1 = s / 65536) ∨ (s < f * 65536 ∧ s1 = s)) : f ≤ s1 ∧ s1 < f * 65536 := by
  obtain ⟨hlo, hhi⟩ := hs
  omega

theorem decRenorm_reads {s : Nat} (h : s < 0x10000) (w : Nat) (rest : List Nat) : decRenorm s (w :: rest) = .ok (s * 65536 + w, rest) :=
  if_pos h

theorem decRenorm_keeps {s : Nat} (h : 0x10000 ≤ s) (rest : List Nat) : decRenorm s rest = .ok (s, rest) := if_neg (by omega)

section
variable {s : Nat} {cf : Nat × Nat}

theorem encStep_laneOk (hs : laneOk s) (hcf : stepOk cf) : laneOk (encStep s cf).2 := by
  obtain ⟨hf, hle⟩ := hcf
  obtain ⟨s1, he, h⟩ := encStep_eq s cf
  obtain ⟨hlo, hhi⟩ := renormalised_range (s1 := s1) hf hs (by omega) (by tauto)
  have hq : s1 / cf.2 < 65536 := Nat.div_lt_of_lt_mul hhi
  have hq1 : 1 ≤ s1 / cf.2 := Nat.div_pos hlo hf
  have hr : s1 % cf.2 < cf.2 := Nat.mod_lt _ hf
  rw [he]
  constructor <;> omega

/-- The step stands in the low half of the new state. -/
theorem encStep_slot (hcf : stepOk cf) : cf.1 ≤ (encStep s cf).2 % 65536 ∧ (encStep s cf).2 % 65536 < cf.1 + cf.2 := by
  obtain ⟨hf, hle⟩ := hcf
  obtain ⟨s1, he, -⟩ := encStep_eq s cf
  have hr : s1 % cf.2 < cf.2 := Nat.mod_lt _ hf
  rw [he]
  omega

/-- Taking the interval out of the new state and renormalising gives back the old state, and reads the word the step wrote. -/
theorem decRenorm_encStep (hs : laneOk s) (hcf : stepOk cf) (rest : List Nat) :
    decRenorm (cf.2 * ((encStep s cf).2 / 65536) + (encStep s cf).2 % 65536 - cf.1) ((encStep s cf).1 ++ rest) = .ok (s, rest) := by
  obtain ⟨hf, hle⟩ := hcf
  obtain ⟨s1, he, h⟩ := encStep_eq s cf
  have hr : s1 % cf.2 < cf.2 := Nat.mod_lt _ hf
  have hdiv : (encStep s cf).2 / 65536 = s1 / cf.2 := by rw [he]; omega
  have hmod : (encStep s cf).2 % 65536 = s1 % cf.2 + cf.1 := by rw [he]; omega
  have hback : cf.2 * (s1 / cf.2) + (s1 % cf.2 + cf.1) - cf.1 = s1 := by
    have := Nat.div_add_mod s1 cf.2
    omega
  obtain ⟨hlo, hhi⟩ := hs
  rw [hdiv, hmod, hback]
  rcases h with ⟨hge, rfl, hw⟩ | ⟨hlt, rfl, hw⟩
  · have hword : s / 65536 * 65536 + s % 65536 = s := Nat.div_add_mod' s 65536
    rw [hw, List.singleton_append, decRenorm_reads (by omega), hword]
  · rw [hw, List.nil_append, decRenorm_keeps hlo]

end

theorem encStep_words (s : Nat) (cf : Nat × Nat) : (encStep s cf).1.length ≤ 1 ∧ ∀ w ∈ (encStep s cf).1, w < 65536 := by
  obtain ⟨s1, -, h⟩ := encStep_eq s cf
  rcases h with ⟨-, -, hw⟩ | ⟨-, -, hw⟩ <;> rw [hw]
  · simpa using Nat.mod_lt s (by decide : 0 < 65536)
  · simp

/-- The interval of a bypass step of `k` bits. -/
theorem stepOk_bypass {k b : Nat} (hk : k ≤ 16) (hb : b < 2 ^ k) : stepOk (b * 2 ^ (16 - k), 2 ^ (16 - k)) := by
  refine ⟨by positivity, ?_⟩
  calc b * 2 ^ (16 - k) + 2 ^ (16 - k) = (b + 1) * 2 ^ (16 - k) := (Nat.succ_mul _ _).symm
    _ ≤ 2 ^ k * 2 ^ (16 - k) := Nat.mul_le_mul_right _ hb
    _ = 65536 := by rw [← pow_add, Nat.add_sub_cancel' hk]; rfl

theorem decBypass_eq (s : Nat) (rest : List Nat) (k : Nat) : decBypass s rest k =
    (decRenorm (2 ^ (16 - k) * (s / 65536) + s % 65536 - s % 65536 / 2 ^ (16 - k) * 2 ^ (16 - k)) rest).map
      fun p => (s % 65536 / 2 ^ (16 - k), p) := by
  unfold decBypass
  dsimp only
  split <;> (rename_i h; rw [h]; rfl)

/-- A bypass step gives its bits back. -/
theorem decBypass_encStep {s k b : Nat} (hs : laneOk s) (hk : k ≤ 16) (hb : b < 2 ^ k) (rest : List Nat) :
    decBypass (encStep s (b * 2 ^ (16 - k), 2 ^ (16 - k))).2 ((encStep s (b * 2 ^ (16 - k), 2 ^ (16 - k))).1 ++ rest) k = .ok (b, s, rest) := by
  have hcf := stepOk_bypass hk hb
  obtain ⟨hlo, hhi⟩ := encStep_slot (s := s) hcf
  have hbits := Nat.div_eq_of_lt_le hlo (hhi.trans_eq (Nat.succ_mul _ _).symm)
  rw [decBypass_eq, hbits, decRenorm_encStep hs hcf rest]
  rfl

/-- One single bit is read back. -/
theorem decBypass_bit {s b : Nat} (hs : laneOk s) (hb : b < 2) (rest : List Nat) :
    decBypass (encStep s (b * 32768, 32768)).2 ((encStep s (b * 32768, 32768)).1 ++ rest) 1 = .ok (b, s, rest) := by
  have hf : 2 ^ (16 - 1) = 32768 := by norm_num
  have h := decBypass_encStep hs (k := 1) (by decide) (b := b) (by simpa using hb) rest
  rwa [hf] at h

/-! ## The steps of a symbol -/

/-- The words and the state that coding a list of steps, the last one first, leaves of a state. -/
def encSteps (s : Nat) (steps : List (Nat × Nat)) : List Nat × Nat :=
  steps.foldr (fun cf a => ((encStep a.2 cf).1 ++ a.1, (encStep a.2 cf).2)) ([], s)

theorem encSymbol_eq (e : EncState) (lane : Nat) (steps : List (Nat × Nat)) : encSymbol e lane steps =
    ⟨e.x.set lane (encSteps (e.x.getD lane 0) steps).2, (encSteps (e.x.getD lane 0) steps).1 ++ e.stk⟩ := (rfl)

@[simp] theorem encSteps_nil (s : Nat) : encSteps s [] = ([], s) := (rfl)

@[simp] theorem encSteps_cons (s : Nat) (cf : Nat × Nat) (steps : List (Nat × Nat)) : encSteps s (cf :: steps) =
    ((encStep (encSteps s steps).2 cf).1 ++ (encSteps s steps).1, (encStep (encSteps s steps).2 cf).2) := (rfl)

theorem encSteps_laneOk {s : Nat} (hs : laneOk s) : ∀ {steps : List (Nat × Nat)}, (∀ cf ∈ steps, stepOk cf) → laneOk (encSteps s steps).2
  | [], _ => hs
  | _ :: _, h => encStep_laneOk (encSteps_laneOk hs fun cf hcf => h cf (.tail _ hcf)) (h _ (.head _))

/-- Each step writes at most one word. -/
theorem encSteps_words (s : Nat) (steps : List (Nat × Nat)) :
    (encSteps s steps).1.length ≤ steps.length ∧ ∀ w ∈ (encSteps s steps).1, w < 65536 := by
  induction steps with
  | nil => simp
  | cons cf steps ih =>
    obtain ⟨hlen, hlt⟩ := ih
    obtain ⟨hlen1, hlt1⟩ := encStep_words (encSteps s steps).2 cf
    simp only [encSteps_cons, List.length_append, List.length_cons, List.mem_append]
    exact ⟨by omega, fun w hw => hw.elim (hlt1 w) (hlt w)⟩

/-! ## The zeros and the one that an escape begins with -/

/-- The steps of `k` zeros and a one. -/
def prefixSteps (k : Nat) : List (Nat × Nat) := List.replicate k (0, 32768) ++ [(32768, 32768)]

theorem prefixSteps_ok (k : Nat) : ∀ cf ∈ prefixSteps k, stepOk cf := by
  intro cf h
  rcases List.mem_append.1 h with h | h
  · obtain rfl := List.eq_of_mem_replicate h
    exact ⟨by decide, by decide⟩
  · obtain rfl := List.mem_singleton.1 h
    exact ⟨by decide, by decide⟩

theorem prefixSteps_zero : prefixSteps 0 = [(32768, 32768)] := (rfl)

theorem prefixSteps_succ (k : Nat) : prefixSteps (k + 1) = (0, 32768) :: prefixSteps k := (rfl)

theorem decPrefix_one {s s' fuel k : Nat} {rest rest' : List Nat} (h : decBypass s rest 1 = .ok (1, s', rest')) :
    decPrefix (fuel + 1) k s rest = .ok (k, s', rest') := by
  simp [decPrefix, h]

theorem decPrefix_zero {s s' fuel k : Nat} {rest rest' : List Nat} (h : decBypass s rest 1 = .ok (0, s', rest')) :
    decPrefix (fuel + 1) k s rest = decPrefix fuel (k + 1) s' rest' := by
  simp [decPrefix, h]

/-- The decoder counts the zeros that its fuel suffices for. -/
theorem decPrefix_encSteps {s : Nat} (hs : laneOk s) (k k0 fuel : Nat) (hk : k < fuel) (tail : List (Nat × Nat)) (rest : List Nat)
    (htail : ∀ cf ∈ tail, stepOk cf) :
    decPrefix fuel k0 (encSteps s (prefixSteps k ++ tail)).2 ((encSteps s (prefixSteps k ++ tail)).1 ++ rest) =
      .ok (k0 + k, (encSteps s tail).2, (encSteps s tail).1 ++ rest) := by
  obtain ⟨fuel, rfl⟩ : ∃ m, fuel = m + 1 := ⟨fuel - 1, by omega⟩
  induction k generalizing k0 fuel with
  | zero =>
    have hbit := decBypass_bit (b := 1) (encSteps_laneOk hs htail) (by decide) ((encSteps s tail).1 ++ rest)
    rw [prefixSteps_zero, List.singleton_append, encSteps_cons, List.append_assoc]
    exact decPrefix_one hbit
  | succ k ih =>
    have hok : ∀ cf ∈ prefixSteps k ++ tail, stepOk cf := fun cf h => (List.mem_append.1 h).elim (prefixSteps_ok k cf) (htail cf)
    have hbit := decBypass_bit (b := 0) (encSteps_laneOk hs hok) (by decide) ((encSteps s (prefixSteps k ++ tail)).1 ++ rest)
    obtain ⟨fuel, rfl⟩ : ∃ m, fuel = m + 1 := ⟨fuel - 1, by omega⟩
    rw [Nat.zero_mul] at hbit
    rw [prefixSteps_succ, List.cons_append, encSteps_cons, List.append_assoc, decPrefix_zero hbit, ih (k0 + 1) fuel (by omega), Nat.add_right_comm, Nat.add_assoc]

end Sys2Proof.Machine
end

section
/-! One symbol (R108 to R111): the intervals of its steps, and that the decoder gives the symbol back. -/
namespace Sys2Proof.Machine
open Sys2Proof.Say

/-! ## The intervals of a table -/

section
variable {t : CdfTable} {j : Nat}

theorem cum_of_lt (h : j < t.nsym) : t.cum j = t.cdf[j]'h := List.getD_eq_getElem _ _ h

theorem cum_nsym (t : CdfTable) : t.cum t.nsym = 65536 := by simp [CdfTable.cum, CdfTable.nsym]

theorem cum_lt_succ (ht : tableOk t) (h : j < t.nsym) : t.cum j < t.cum (j + 1) := by
  obtain ⟨-, -, -, -, -, -, hrise, hlt⟩ := ht
  rw [cum_of_lt h]
  rcases Nat.lt_or_ge (j + 1) t.nsym with h1 | h1
  · rw [cum_of_lt h1]
    exact List.pairwise_iff_getElem.1 hrise _ _ _ _ (Nat.lt_succ_self j)
  · rw [show j + 1 = t.nsym by omega, cum_nsym]
    exact hlt _ (List.getElem_mem _)

theorem cum_le (ht : tableOk t) (j : Nat) : t.cum j ≤ 65536 := by
  obtain ⟨-, -, -, -, -, -, -, hlt⟩ := ht
  rcases Nat.lt_or_ge j t.nsym with h | h
  · rw [cum_of_lt h]
    exact (hlt _ (List.getElem_mem _)).le
  · exact (List.getD_eq_default _ _ h).le

theorem cum_add_freq (ht : tableOk t) (h : j < t.nsym) : t.cum j + t.freq j = t.cum (j + 1) :=
  Nat.add_sub_cancel' (cum_lt_succ ht h).le

theorem stepOk_symbol (ht : tableOk t) (h : j < t.nsym) : stepOk (t.cum j, t.freq j) :=
  ⟨Nat.sub_pos_of_lt (cum_lt_succ ht h), (cum_add_freq ht h).le.trans (cum_le ht _)⟩

/-- The decoder's search finds the symbol whose interval the slot lies in. -/
theorem length_filter_cdf (ht : tableOk t) (h : j < t.nsym) {slot : Nat} (hlo : t.cum j ≤ slot) (hhi : slot < t.cum (j + 1)) :
    (t.cdf.filter fun c => c ≤ slot).length = j + 1 := by
  obtain ⟨-, -, -, -, -, -, hrise, -⟩ := ht
  have hmono : ∀ a b (ha : a < t.cdf.length) (hb : b < t.cdf.length), a ≤ b → t.cdf[a] ≤ t.cdf[b] := by
    intro a b ha hb hab
    rcases hab.eq_or_lt with rfl | hlt
    · exact le_rfl
    · exact (List.pairwise_iff_getElem.1 hrise _ _ _ _ hlt).le
  have htake : (t.cdf.take (j + 1)).filter (fun c => c ≤ slot) = t.cdf.take (j + 1) := by
    refine List.filter_eq_self.2 fun c hc => ?_
    obtain ⟨i, hi, rfl⟩ := List.mem_take_iff_getElem.1 hc
    rw [cum_of_lt h] at hlo
    exact decide_eq_true ((hmono i j (by omega) h (by omega)).trans hlo)
  have hdrop : (t.cdf.drop (j + 1)).filter (fun c => c ≤ slot) = [] := by
    refine List.filter_eq_nil_iff.2 fun c hc => ?_
    obtain ⟨i, hi, rfl⟩ := List.mem_drop_iff_getElem.1 hc
    rw [cum_of_lt (show j + 1 < t.nsym by unfold CdfTable.nsym; omega)] at hhi
    have := hmono (j + 1) (j + 1 + i) (by omega) (by omega) (by omega)
    simp only [decide_eq_true_eq]
    omega
  calc (t.cdf.filter fun c => c ≤ slot).length
      = ((t.cdf.take (j + 1) ++ t.cdf.drop (j + 1)).filter fun c => c ≤ slot).length := by rw [List.take_append_drop]
    _ = j + 1 := by rw [List.filter_append, htake, hdrop, List.append_nil, List.length_take]; exact Nat.min_eq_left h

/-! ## Escapes -/

theorem not_isEscape_iff {d : Int} : isEscape t d = false ↔ t.off ≤ d ∧ d ≤ t.h := by simp [isEscape]

theorem escapeInv_escapeMap {d : Int} (h : isEscape t d = true) : escapeInv t (escapeMap t d) = d := by
  have hesc : ¬ (t.off ≤ d ∧ d ≤ t.h) := fun hin => by simp [not_isEscape_iff.2 hin] at h
  unfold escapeInv escapeMap
  split <;> split <;> omega

/-- The residual of a symbol lies in -34,816 to 34,815 (R108). -/
theorem residual_range {v mu : Int} (hv : -32768 ≤ v ∧ v ≤ 32767) (hm : -32768 ≤ mu ∧ mu ≤ 32767) :
    -34816 ≤ v - rmean mu ∧ v - rmean mu ≤ 34815 := by
  unfold rmean
  omega

/-- Under the limits of R112, u + 1 is below 2^17 (R111). -/
theorem escapeMap_lt (ht : tableOk t) {d : Int} (hd : -34816 ≤ d ∧ d ≤ 34815) : escapeMap t d + 1 < 2 ^ 17 := by
  obtain ⟨-, -, hoff, hoff0, hh, -⟩ := ht
  unfold escapeMap
  split <;> omega

/-- The number k of zeros that the code of an escaped residual begins with (R111). -/
def prefixLen (t : CdfTable) (d : Int) : Nat := Nat.log2 (escapeMap t d + 1)

/-- The step of the suffix bits, where there are any. -/
def suffixSteps (u k : Nat) : List (Nat × Nat) := if k = 0 then [] else [((u + 1 - 2 ^ k) * 2 ^ (16 - k), 2 ^ (16 - k))]

theorem prefixLen_le (ht : tableOk t) {d : Int} (hd : -34816 ≤ d ∧ d ≤ 34815) : prefixLen t d ≤ 16 :=
  Nat.le_of_lt_succ ((Nat.log2_lt (Nat.succ_ne_zero _)).2 (escapeMap_lt ht hd))

/-- u + 1 is 2^k and the suffix bits. -/
theorem prefixLen_spec (t : CdfTable) (d : Int) : 2 ^ prefixLen t d ≤ escapeMap t d + 1 ∧ escapeMap t d + 1 < 2 ^ (prefixLen t d + 1) :=
  ⟨Nat.log2_self_le (Nat.succ_ne_zero _), Nat.lt_log2_self⟩

theorem ransSteps_escape {v mu : Int} (h : isEscape t (v - rmean mu) = true) : ransSteps t v mu =
    (t.cum (t.nsym - 1), t.freq (t.nsym - 1)) ::
      (prefixSteps (prefixLen t (v - rmean mu)) ++ suffixSteps (escapeMap t (v - rmean mu)) (prefixLen t (v - rmean mu))) := 
  if_pos h

theorem ransSteps_symbol {v mu : Int} (h : isEscape t (v - rmean mu) = false) : ransSteps t v mu =
    [(t.cum (v - rmean mu - t.off).toNat, t.freq (v - rmean mu - t.off).toNat)] := by
  simp [ransSteps, h]

theorem suffix_lt (t : CdfTable) (d : Int) : escapeMap t d + 1 - 2 ^ prefixLen t d < 2 ^ prefixLen t d := by
  obtain ⟨hlo, hhi⟩ := prefixLen_spec t d
  rw [pow_succ] at hhi
  omega

end

end Sys2Proof.Machine
end

section
/-! A symbol and a list of symbols decode to what was coded (R117, R118). -/
namespace Sys2Proof.Machine
open Sys2Proof.Say

section
variable {t : CdfTable} {v mu : Int}

/-- A residual within the table is the number of a symbol that is no escape. -/
theorem symbol_lt (ht : tableOk t) {d : Int} (h : isEscape t d = false) : (d - t.off).toNat < t.nsym - 1 := by
  obtain ⟨hn, -⟩ := ht
  obtain ⟨hlo, hhi⟩ := not_isEscape_iff.1 h
  unfold CdfTable.h at hhi
  omega

theorem suffixSteps_ok (u : Nat) {k : Nat} (hk : k ≤ 16) (hu : u + 1 - 2 ^ k < 2 ^ k) : ∀ cf ∈ suffixSteps u k, stepOk cf := by
  unfold suffixSteps
  split
  · simp
  · intro cf hcf
    obtain rfl := List.mem_singleton.1 hcf
    exact stepOk_bypass hk hu

/-- The steps of a symbol are well formed. -/
theorem ransSteps_ok (ht : tableOk t) (hd : -34816 ≤ v - rmean mu ∧ v - rmean mu ≤ 34815) : ∀ cf ∈ ransSteps t v mu, stepOk cf := by
  obtain ⟨hn, -⟩ := id ht
  intro cf hcf
  cases h : isEscape t (v - rmean mu) with
  | false =>
    rw [ransSteps_symbol h, List.mem_singleton] at hcf
    exact hcf ▸ stepOk_symbol ht (by have := symbol_lt ht h; omega)
  | true =>
    rw [ransSteps_escape h, List.mem_cons, List.mem_append] at hcf
    rcases hcf with rfl | hcf | hcf
    · exact stepOk_symbol ht (by omega)
    · exact prefixSteps_ok _ cf hcf
    · exact suffixSteps_ok _ (prefixLen_le ht hd) (suffix_lt t _) cf hcf

/-- What the decoder makes of the residual that it has read: the value, or failure 5 when it is no INT16. -/
def decValue (mu : Int) (lane : Nat) (x : List Nat) (d : Int) (s : Nat) (rest : List Nat) : Except Nat (Int × DecState) :=
  if rmean mu + d < -32768 ∨ 32767 < rmean mu + d then .error 5 else .ok (rmean mu + d, ⟨x.set lane s, rest⟩)

theorem decValue_residual (hv : -32768 ≤ v ∧ v ≤ 32767) (lane : Nat) (x : List Nat) (s : Nat) (rest : List Nat) :
    decValue mu lane x (v - rmean mu) s rest = .ok (v, ⟨x.set lane s, rest⟩) := by
  rw [decValue, add_sub_cancel, if_neg (by omega)]

/-- The rest of an escape: its zeros and its one, its suffix bits where it has any, and the value. -/
def decEscaped (t : CdfTable) (mu : Int) (lane : Nat) (x : List Nat) (s : Nat) (rest : List Nat) : Except Nat (Int × DecState) :=
  match decPrefix 17 0 s rest with
  | .error e => .error e
  | .ok (k, s2, r2) =>
    if k = 0 then decValue mu lane x (escapeInv t 0) s2 r2
    else
      match decBypass s2 r2 k with
      | .error e => .error e
      | .ok (b, s3, r3) => decValue mu lane x (escapeInv t (2 ^ k - 1 + b)) s3 r3

/-- The zeros, the one and the suffix bits give back the number that the residual was mapped to. -/
theorem decEscaped_encSteps {d : Int} (hk : prefixLen t d ≤ 16) {s : Nat} (hs : laneOk s) (lane : Nat) (x rest : List Nat) :
    let a := encSteps s (prefixSteps (prefixLen t d) ++ suffixSteps (escapeMap t d) (prefixLen t d))
    decEscaped t mu lane x a.2 (a.1 ++ rest) = decValue mu lane x (escapeInv t (escapeMap t d)) s rest := by
  have hsuffix := suffix_lt t d
  obtain ⟨hlo, hhi⟩ := prefixLen_spec t d
  generalize prefixLen t d = k at *
  generalize escapeMap t d = u at *
  intro a
  rw [decEscaped, decPrefix_encSteps hs k 0 17 (by omega) _ rest (suffixSteps_ok u hk hsuffix), Nat.zero_add]
  rcases Nat.eq_zero_or_pos k with rfl | hpos
  · obtain rfl : u = 0 := by omega
    rfl
  · have hsteps : suffixSteps u k = [((u + 1 - 2 ^ k) * 2 ^ (16 - k), 2 ^ (16 - k))] := if_neg hpos.ne'
    have hbits := decBypass_encStep hs hk hsuffix rest
    have hu : 2 ^ k - 1 + (u + 1 - 2 ^ k) = u := by
      have := Nat.two_pow_pos k
      omega
    simp only [hsteps, encSteps_cons, encSteps_nil, List.append_nil, if_neg hpos.ne', hbits, hu]

/-- The decoder's first step finds the symbol `j` that was coded and takes its interval out. -/
theorem decSymbol_of_coded (ht : tableOk t) {j s : Nat} (hj : j < t.nsym) (hs : laneOk s) (lane : Nat) (d : DecState) (rest : List Nat)
    (hx : d.x.getD lane 0 = (encStep s (t.cum j, t.freq j)).2) (hrest : d.rest = (encStep s (t.cum j, t.freq j)).1 ++ rest) :
    decSymbol t mu lane d =
      if j < t.nsym - 1 then decValue mu lane d.x (t.off + j) s rest else decEscaped t mu lane d.x s rest := by
  have hcf := stepOk_symbol ht hj
  obtain ⟨hlo, hhi⟩ := encStep_slot (s := s) hcf
  have hfind := length_filter_cdf ht hj hlo (hhi.trans_eq (cum_add_freq ht hj))
  have hback := decRenorm_encStep hs hcf rest
  rw [← hx] at hfind hback
  rw [← hrest] at hback
  simp only [decSymbol, hfind, Nat.add_sub_cancel, hback]
  rfl

/-- Decoding a symbol takes back what coding it did to its lane and to the words. -/
theorem decSymbol_encSymbol (ht : tableOk t) (hv : -32768 ≤ v ∧ v ≤ 32767) (hm : -32768 ≤ mu ∧ mu ≤ 32767) {e : EncState} {lane : Nat}
    (hlane : lane < e.x.length) (hs : laneOk (e.x.getD lane 0)) :
    decSymbol t mu lane ⟨(encSymbol e lane (ransSteps t v mu)).x, (encSymbol e lane (ransSteps t v mu)).stk⟩ = .ok (v, ⟨e.x, e.stk⟩) := by
  have hd := residual_range hv hm
  have hget : ∀ s, (e.x.set lane s).getD lane 0 = s := fun s => by simp [hlane]
  have hset : ∀ s, (e.x.set lane s).set lane (e.x.getD lane 0) = e.x := fun s => by simp [hlane]
  have hlast : t.nsym - 1 < t.nsym := by
    obtain ⟨hn, -⟩ := ht
    omega
  rw [encSymbol_eq]
  generalize e.x.getD lane 0 = s at *
  cases hesc : isEscape t (v - rmean mu) with
  | false =>
    have hj := symbol_lt ht hesc
    obtain ⟨hoff, -⟩ := not_isEscape_iff.1 hesc
    rw [ransSteps_symbol hesc, encSteps_cons, encSteps_nil, List.append_nil,
      decSymbol_of_coded ht (hj.trans hlast) hs lane _ e.stk (hget _) rfl, if_pos hj, Int.toNat_of_nonneg (by omega), add_sub_cancel,
      decValue_residual hv, hset]
  | true =>
    have hsteps : ∀ cf ∈ ransSteps t v mu, stepOk cf := ransSteps_ok ht hd
    rw [ransSteps_escape hesc] at hsteps ⊢
    rw [encSteps_cons, List.append_assoc,
      decSymbol_of_coded ht hlast (encSteps_laneOk hs fun cf hcf => hsteps cf (.tail _ hcf)) lane _ _ (hget _) rfl, if_neg (lt_irrefl _),
      decEscaped_encSteps (prefixLen_le ht hd) hs, escapeInv_escapeMap hesc, decValue_residual hv, hset]

end

end Sys2Proof.Machine
end

section
/-! Payloads (R119 to R121): what the encoder leaves of a list of symbols, its words as bytes, and the obligations about them. -/
namespace Sys2Proof.Machine
open Sys2Proof.Say

/-! ## The encoder's state -/

/-- The encoder's state when the symbols from number `i` on are coded. -/
def encodeFrom (tabs : List CdfTable) (l : List EcSym) (i : Nat) : EncState :=
  (l.zipIdx i).foldr (fun p e => encSymbol e (p.2 % 8) (ransSteps (tableOf tabs p.1) p.1.v p.1.mu)) ⟨List.replicate 8 0x10000, []⟩

@[simp] theorem encodeFrom_nil (tabs : List CdfTable) (i : Nat) : encodeFrom tabs [] i = ⟨List.replicate 8 0x10000, []⟩ := (rfl)

@[simp] theorem encodeFrom_cons (tabs : List CdfTable) (x : EcSym) (l : List EcSym) (i : Nat) : encodeFrom tabs (x :: l) i =
    encSymbol (encodeFrom tabs l (i + 1)) (i % 8) (ransSteps (tableOf tabs x) x.v x.mu) := (rfl)

/-- The eight lane states as they are flushed: high word first (R119). -/
def flushed (x : List Nat) : List Nat := (x.map fun s => [s / 65536, s % 65536]).flatten

theorem encodeWords_eq (tabs : List CdfTable) (l : List EcSym) :
    encodeWords tabs l = flushed (encodeFrom tabs l 0).x ++ (encodeFrom tabs l 0).stk := (rfl)

/-- Eight lanes hold states in range, and the words written are 16 bits wide. -/
def EncState.ok (e : EncState) : Prop := e.x.length = 8 ∧ (∀ s ∈ e.x, laneOk s) ∧ ∀ w ∈ e.stk, w < 65536

theorem EncState.ok.lane {e : EncState} (h : e.ok) (i : Nat) : i % 8 < e.x.length ∧ laneOk (e.x.getD (i % 8) 0) := by
  obtain ⟨hlen, hx, -⟩ := h
  have hi : i % 8 < e.x.length := by omega
  rw [List.getD_eq_getElem _ _ hi]
  exact ⟨hi, hx _ (List.getElem_mem hi)⟩

theorem encSymbol_ok {e : EncState} (h : e.ok) (i : Nat) {steps : List (Nat × Nat)} (hsteps : ∀ cf ∈ steps, stepOk cf) :
    (encSymbol e (i % 8) steps).ok := by
  obtain ⟨-, hlane⟩ := h.lane i
  obtain ⟨hlen, hx, hstk⟩ := h
  obtain ⟨-, hwords⟩ := encSteps_words (e.x.getD (i % 8) 0) steps
  rw [encSymbol_eq]
  refine ⟨by simpa using hlen, fun s hs => ?_, fun w hw => (List.mem_append.1 hw).elim (hwords w) (hstk w)⟩
  rcases List.mem_or_eq_of_mem_set hs with hs | rfl
  · exact hx s hs
  · exact encSteps_laneOk hlane hsteps

theorem tableOf_ok {tabs : List CdfTable} {x : EcSym} (ht : ∀ t ∈ tabs, tableOk t) (hx : symOk tabs x) : tableOk (tableOf tabs x) := by
  obtain ⟨hlt, -⟩ := hx
  rw [tableOf, List.getD_eq_getElem _ _ hlt]
  exact ht _ (List.getElem_mem hlt)

theorem symOk_steps {tabs : List CdfTable} {x : EcSym} (ht : ∀ t ∈ tabs, tableOk t) (hx : symOk tabs x) :
    ∀ cf ∈ ransSteps (tableOf tabs x) x.v x.mu, stepOk cf := by
  obtain ⟨-, hv1, hv2, hm1, hm2⟩ := id hx
  exact ransSteps_ok (tableOf_ok ht hx) (residual_range ⟨hv1, hv2⟩ ⟨hm1, hm2⟩)

section
variable {tabs : List CdfTable} (ht : ∀ t ∈ tabs, tableOk t)
include ht

theorem encodeFrom_ok : ∀ {l : List EcSym} (_ : ∀ x ∈ l, symOk tabs x) (i : Nat), (encodeFrom tabs l i).ok
  | [], _, _ => ⟨rfl, fun _ hs => List.eq_of_mem_replicate hs ▸ laneOk_init, by simp⟩
  | _ :: _, hl, i => encSymbol_ok (encodeFrom_ok (fun x hx => hl x (.tail _ hx)) (i + 1)) i (symOk_steps ht (hl _ (.head _)))

/-- From the state that the encoder leaves, the decoder reads every symbol and every word, and returns to the initial states. -/
theorem decSymbols_encodeFrom {l : List EcSym} (hl : ∀ x ∈ l, symOk tabs x) (i : Nat) :
    decSymbols tabs (l.map fun x => (x.mu, x.t)) i ⟨(encodeFrom tabs l i).x, (encodeFrom tabs l i).stk⟩ =
      .ok (l.map fun x => x.v, ⟨List.replicate 8 0x10000, []⟩) := by
  induction l generalizing i with
  | nil => rfl
  | cons x l ih =>
    have htail : ∀ y ∈ l, symOk tabs y := fun y hy => hl y (.tail _ hy)
    have hx : symOk tabs x := hl x (.head _)
    obtain ⟨-, hv1, hv2, hm1, hm2⟩ := id hx
    obtain ⟨hlane, hs⟩ := (encodeFrom_ok ht htail (i + 1)).lane i
    have hfirst := decSymbol_encSymbol (tableOf_ok ht hx) ⟨hv1, hv2⟩ ⟨hm1, hm2⟩ hlane hs
    rw [tableOf] at hfirst
    simp only [List.map_cons, decSymbols, encodeFrom_cons, tableOf, hfirst, ih htail (i + 1)]

end

/-! ## Words and bytes -/

theorem payloadBytes_cons (w : Nat) (ws : List Nat) : payloadBytes (w :: ws) =
    BitVec.ofNat 8 w :: BitVec.ofNat 8 (w / 256) :: payloadBytes ws := (rfl)

theorem length_payloadBytes (ws : List Nat) : (payloadBytes ws).length = 2 * ws.length := by
  induction ws with
  | nil => rfl
  | cons w ws ih =>
    rw [payloadBytes_cons, List.length_cons, List.length_cons, List.length_cons, ih]
    omega

theorem payloadWords_payloadBytes {ws : List Nat} (h : ∀ w ∈ ws, w < 65536) : payloadWords (payloadBytes ws) = ws := by
  induction ws with
  | nil => rfl
  | cons w ws ih =>
    have hw : w < 65536 := h w (.head _)
    have hword : w % 256 + 256 * (w / 256 % 256) = w := by omega
    rw [payloadBytes_cons, payloadWords, ih fun v hv => h v (.tail _ hv)]
    simpa using hword

theorem length_flushed (x : List Nat) : (flushed x).length = 2 * x.length := by
  induction x with
  | nil => rfl
  | cons s x ih =>
    simp only [flushed, List.map_cons, List.flatten_cons, List.length_append, List.length_cons, List.length_nil] at ih ⊢
    omega

theorem flushed_lt {x : List Nat} (h : ∀ s ∈ x, laneOk s) : ∀ w ∈ flushed x, w < 65536 := by
  intro w hw
  obtain ⟨p, hp, hw⟩ := List.mem_flatten.1 hw
  obtain ⟨s, hs, rfl⟩ := List.mem_map.1 hp
  obtain ⟨-, hhi⟩ := h s hs
  simp only [List.mem_cons, List.not_mem_nil, or_false] at hw
  omega

/-- The decoder takes the flushed states up again. -/
theorem initStates_flushed {x : List Nat} (h : x.length = 8) (ws : List Nat) : initStates (flushed x ++ ws) = x := by
  obtain ⟨a, b, c, d, e, f, g, i, rfl⟩ : ∃ a b c d e f g i, x = [a, b, c, d, e, f, g, i] := by
    match x, h with
    | [a, b, c, d, e, f, g, i], _ => exact ⟨a, b, c, d, e, f, g, i, rfl⟩
  simp [initStates, flushed, List.range_succ, Nat.div_add_mod']

/-- The checks of R121 before and after the symbols, on a payload whose symbols decode and leave the initial states and no word. -/
theorem decodePayload_of_decSymbols {tabs : List CdfTable} {mts : List (Int × Nat)} {e : EncState} (he : e.ok) {vs : List Int}
    (h : decSymbols tabs mts 0 ⟨e.x, e.stk⟩ = .ok (vs, ⟨List.replicate 8 0x10000, []⟩)) :
    decodePayload tabs mts (payloadBytes (flushed e.x ++ e.stk)) = .ok vs := by
  obtain ⟨hlen, hx, hstk⟩ := he
  have hflush : (flushed e.x).length = 16 := by rw [length_flushed, hlen]
  have hwords : ∀ w ∈ flushed e.x ++ e.stk, w < 65536 := fun w hw => (List.mem_append.1 hw).elim (flushed_lt hx w) (hstk w)
  have hsize : ¬ ((payloadBytes (flushed e.x ++ e.stk)).length % 2 ≠ 0 ∨ (payloadBytes (flushed e.x ++ e.stk)).length < 32) := by
    rw [length_payloadBytes, List.length_append, hflush]
    omega
  have hstates : e.x.any (· < 0x10000) = false := List.any_eq_false.2 fun s hs => by
    obtain ⟨hlo, -⟩ := hx s hs
    simpa using hlo
  have hrest : (flushed e.x ++ e.stk).drop 16 = e.stk := List.drop_left' hflush
  rw [decodePayload, if_neg hsize]
  simp only [payloadWords_payloadBytes hwords, initStates_flushed hlen, hstates, hrest, h]
  simp

/-- Settles O56, by induction on the symbols: each symbol's decoding undoes its coding. -/
theorem everyPayloadDecodesToItsSymbols : Obligations.EveryPayloadDecodesToItsSymbols := fun _ _ ht hl =>
  decodePayload_of_decSymbols (encodeFrom_ok ht hl 0) (decSymbols_encodeFrom ht hl 0)

/-! ## The size of a payload -/

theorem length_ransSteps {t : CdfTable} {v mu : Int} (ht : tableOk t) (hd : -34816 ≤ v - rmean mu ∧ v - rmean mu ≤ 34815) :
    (ransSteps t v mu).length ≤ 19 ∧
      ((ransSteps t v mu).length = 19 ↔ isEscape t (v - rmean mu) = true ∧ prefixLen t (v - rmean mu) = 16) := by
  cases h : isEscape t (v - rmean mu) with
  | false => simp [ransSteps_symbol h]
  | true =>
    have hk := prefixLen_le ht hd
    rw [ransSteps_escape h]
    simp only [prefixSteps, suffixSteps, List.length_cons, List.length_append, List.length_replicate, List.length_nil, true_and]
    split <;> simp only [List.length_cons, List.length_nil] <;> omega

theorem symOk_length {tabs : List CdfTable} {x : EcSym} (ht : ∀ t ∈ tabs, tableOk t) (hx : symOk tabs x) :
    (ransSteps (tableOf tabs x) x.v x.mu).length ≤ 19 ∧ ((ransSteps (tableOf tabs x) x.v x.mu).length = 19 ↔
      isEscape (tableOf tabs x) (x.v - rmean x.mu) = true ∧ escK (tableOf tabs x) x = 16) := by
  obtain ⟨-, hv1, hv2, hm1, hm2⟩ := id hx
  exact length_ransSteps (tableOf_ok ht hx) (residual_range ⟨hv1, hv2⟩ ⟨hm1, hm2⟩)

theorem length_stk_encodeFrom {tabs : List CdfTable} (ht : ∀ t ∈ tabs, tableOk t) {l : List EcSym} (hl : ∀ x ∈ l, symOk tabs x) (i : Nat) :
    (encodeFrom tabs l i).stk.length ≤ 19 * l.length := by
  induction l generalizing i with
  | nil => simp
  | cons x l ih =>
    have htail := ih (fun y hy => hl y (.tail _ hy)) (i + 1)
    obtain ⟨hsteps, -⟩ := symOk_length ht (hl x (.head _))
    obtain ⟨hwords, -⟩ := encSteps_words ((encodeFrom tabs l (i + 1)).x.getD (i % 8) 0) (ransSteps (tableOf tabs x) x.v x.mu)
    rw [encodeFrom_cons, encSymbol_eq, List.length_append, List.length_cons]
    omega

theorem length_encodeWords {tabs : List CdfTable} (ht : ∀ t ∈ tabs, tableOk t) {l : List EcSym} (hl : ∀ x ∈ l, symOk tabs x) :
    (encodeWords tabs l).length ≤ 16 + 19 * l.length := by
  have hstk := length_stk_encodeFrom ht hl 0
  obtain ⟨hlen, -⟩ := encodeFrom_ok ht hl 0
  rw [encodeWords_eq, List.length_append, length_flushed, hlen]
  omega

/-- Settles O55: a step writes at most one word, and the symbol 32,767 with mean -32,768 over a table of one residual takes 19 steps. -/
theorem payloadsNeverOverflow : Obligations.PayloadsNeverOverflow := by
  refine ⟨fun tabs l ht hl => ?_, fun tabs x => symOk_length, [⟨0, [0, 1], []⟩], ⟨32767, -32768, 0⟩, ?_, ?_, ?_⟩
  · have hwords := length_encodeWords ht hl
    rw [length_payloadBytes]
    exact ⟨hwords, by omega⟩
  · simp [tableOk, CdfTable.nsym, CdfTable.h]
  · simp [symOk]
  · decide

end Sys2Proof.Machine
end

section
/-! What requests, items and frames leave of the engines: the control registers (R427), `PRT_ERST` (R441) and the items in flight in
an ECE. Step by step, from the writes of memory up to the requests of a ring. -/
namespace Sys2Proof.Machine

/-- The control registers of the engines, and the register of their resets. -/
@[simp] def engRegs : List Reg := [.PRT_ERST, .ARR_CTL, .SFU_CTL, .ECE_CTL, .SCE_CTL, .SMV_CTL, .ING_CTL, .LNK_CTL, .FXG_CTL]

/-- The effect leaves those registers alone. -/
@[simp] def Eff.offCtl : Eff → Prop
  | .fld f _ _ _ | .countU f _ _ _ _ => f.reg ∉ engRegs
  | .word r _ _ _ => r ∉ engRegs
  | .resetRegs p => ∀ k : RegKey, k.reg ∈ engRegs → p k = false
  | _ => True

/-- The effect leaves those registers alone, and the items in flight in every ECE. -/
@[simp] def Eff.keepsEng : Eff → Prop
  | .tile _ f => ∀ c, (f c).ece = c.ece
  | e => e.offCtl

theorem Eff.offCtl_of_keepsEng {e : Eff} (h : e.keepsEng) : e.offCtl := by
  cases e with
  | tile t f => trivial
  | _ => exact h

@[simp] theorem offCtl_of_keepsEng {l : List Eff} (h : Effs Eff.keepsEng l) : Effs Eff.offCtl l := h.mono fun _ => Eff.offCtl_of_keepsEng

theorem Eff.off_of_offCtl {r : Reg} (hr : r ∈ engRegs) {e : Eff} (h : e.offCtl) : e.off r := by
  cases e with
  | fld f | countU f | word f => exact fun hf => h (hf ▸ hr)
  | resetRegs p => exact fun k hk => h k (hk ▸ hr)
  | _ => trivial

variable {u : State}

/-- A field of those registers reads as before. -/
theorem get_of_offCtl {a : Act} (h : AllEff Eff.offCtl a) {f : Fld} (hf : f.reg ∈ engRegs) (t ix : Nat) :
    (u.then a).get f t ix = u.get f t ix :=
  congrArg (fun w => getBits w f.hi f.lo) (reg_off u (h.mono fun _ => Eff.off_of_offCtl hf) t ix)

/-- The items in flight in an ECE are as before. -/
theorem ece_of_keepsEng {a : Act} (h : AllEff Eff.keepsEng a) (t : Nat) : ((u.then a).tile t).ece = (u.tile t).ece := by
  refine run_keeps u (a u) (P := fun w => (w.tile t).ece = (u.tile t).ece) (fun w hw e he => ?_) rfl
  cases e with
  | tile n f =>
    rw [tile_run]
    split
    · next hn => exact (h u _ he (w.tile n)).trans (hn ▸ hw)
    · exact hw
  | mem a bs => simpa [State.tile, Eff.run] using hw
  | _ => exact hw

/-! ## Memory and messages -/

@[simp] theorem keepsEng_blockErr {err code cnt : Fld} {t c : Nat} {more : List (Fld × Nat)} : Effs Eff.keepsEng (blockErr err code cnt t c more u) ↔
    err.reg ∉ engRegs ∧ code.reg ∉ engRegs ∧ (∀ e ∈ more, e.1.reg ∉ engRegs) ∧ cnt.reg ∉ engRegs := by
  simp [blockErr, and_assoc]

@[simp] theorem keepsEng_lnkErr {t code id port : Nat} : Effs Eff.keepsEng (lnkErr t code id port u) := by
  simp +decide [lnkErr]

@[simp] theorem keepsEng_poisonWrite {a n : Nat} {pz : Nat → Bool} : Effs Eff.keepsEng (poisonWrite a n pz u) := by
  intro e he
  obtain ⟨g, _, hg⟩ := List.mem_filterMap.1 he
  split_ifs at hg <;> cases hg <;> trivial

@[simp] theorem keepsEng_memWriteG {a : Nat} {bs : List Byte} {pz : Nat → Bool} {ask : Bool} :
    Effs Eff.keepsEng (memWriteG a bs pz ask u) := by
  simp +decide [memWriteG, baleBlock, wcInvalidate]

@[simp] theorem keepsEng_memWrite {a : Nat} {bs : List Byte} {pz ask : Bool} : Effs Eff.keepsEng (memWrite a bs pz ask u) :=
  keepsEng_memWriteG

@[simp] theorem keepsEng_memWriteFrom {t a : Nat} {bs : List Byte} {pz ask : Bool} :
    Effs Eff.keepsEng (memWriteFrom t a bs pz ask u) := by
  simp +decide [memWriteFrom, yardSend, yardPacket]

@[simp] theorem keepsEng_putBytes {n a : Nat} {bs : List Byte} {pz : Bool} : Effs Eff.keepsEng (putBytes n a bs pz u) := by
  unfold putBytes
  split
  · split <;> simp
  · simp

@[simp] theorem keepsEng_putPieces {t n : Nat} {pz ask : Bool} {ps : List Block} {bs : List Byte} :
    Effs Eff.keepsEng (putPieces t n pz ask ps bs u) := by
  induction ps generalizing bs u with
  | nil => exact effs_none
  | cons p ps ih => simp [putPieces, piecePut, ih]

@[simp] theorem keepsEng_mvSend {e mtype inst epoch id : Nat} {bs : List Byte} {pz : Bool} {ctx : MvCtx} :
    Effs Eff.keepsEng (mvSend e mtype inst epoch id bs pz ctx .none u) := by
  unfold mvSend mvSendAs
  dsimp only
  split <;> simp +decide [updPeer, updLink, mvPut]

/-! ## Records and the completion of requests and items -/

@[simp] theorem keepsEng_cqPush {t r : Nat} {c : Cpl} : Effs Eff.keepsEng (cqPush t r c u) := by
  simp +decide [cqPush, cqWrite]

@[simp] theorem keepsEng_deliver {o : Origin} {c : Cpl} : Effs Eff.keepsEng (deliver o c u) := by
  cases o <;> simp [deliver]

@[simp] theorem keepsEng_updW {n id : Nat} {ctl : Bool} {f : Window → Window} : Effs Eff.keepsEng (updW n ctl id f u) := by
  simp [updW]

@[simp] theorem keepsEng_completeReq {n st id digest : Nat} {r : LiveReq} : Effs Eff.keepsEng (completeReq n r st id digest u) := by
  simp [completeReq]

@[simp] theorem keepsEng_completeHeld {n st id digest : Nat} {r : LiveReq} : Effs Eff.keepsEng (completeHeld n r st id digest u) := by
  simp [completeHeld]

@[simp] theorem keepsEng_workRecord {id frame st digest : Nat} : Effs Eff.keepsEng (workRecord id frame st digest u) := by
  simp [workRecord]

theorem condCounter_not_eng {st : Nat} {f : Fld} (h : condCounter st = some f) : f.reg ∉ engRegs := by
  unfold condCounter at h
  split at h <;> cases h <;> decide

@[simp] theorem keepsEng_countConditions {id : Nat} {l : List Nat} : Effs Eff.keepsEng (countConditions id l u) :=
  effs_each fun st v => by simpa using fun f => condCounter_not_eng (st := st)

@[simp] theorem keepsEng_syncLive {id : Nat} : Effs Eff.keepsEng (syncLive id u) := by
  simp +decide [syncLive]

@[simp] theorem keepsEng_finishLive {id t q slot st digest : Nat} : Effs Eff.keepsEng (finishLive id t q slot st digest u) := by
  simp [finishLive, updLive]

@[simp] theorem keepsEng_finishItem {t st digest : Nat} {it : Item} {conds : List Nat} :
    Effs Eff.keepsEng (finishItem t it st digest conds u) := by
  simp [finishItem, dropItem]

@[simp] theorem keepsEng_finishInput {id slot : Nat} {conds : List Nat} : Effs Eff.keepsEng (finishInput id slot conds u) := by
  unfold finishInput
  split <;> simp

@[simp] theorem keepsEng_addLive {id : Nat} {i : LiveItem} : Effs Eff.keepsEng (addLive id i u) := by
  simp [addLive]

@[simp] theorem keepsEng_enqueue {t q id flags : Nat} {bs : List Byte} {req : Option LiveReq} :
    Effs Eff.keepsEng (enqueue t q id bs flags req u) := by
  simp +decide [enqueue, syncResident]

@[simp] theorem keepsEng_stageBarrier {id : Nat} : Effs Eff.keepsEng (stageBarrier id u) := by
  simp [stageBarrier]

@[simp] theorem keepsEng_egressPump {id : Nat} : Effs Eff.keepsEng (egressPump id u) := by
  simp [egressPump]

/-! ## Mirrors of a context in registers -/

@[simp] theorem keepsEng_syncTsets {t : Nat} : Effs Eff.keepsEng (syncTsets t u) := by
  simp +decide [syncTsets]

@[simp] theorem keepsEng_syncPins : Effs Eff.keepsEng (syncPins u) := by
  simp [syncPins]

@[simp] theorem keepsEng_syncMpres {t : Nat} : Effs Eff.keepsEng (syncMpres t u) := by
  simp +decide [syncMpres]

@[simp] theorem keepsEng_syncFences {n : Nat} : Effs Eff.keepsEng (syncFences n u) :=
  effs_each fun t v => by simp +decide [syncFence]

@[simp] theorem keepsEng_syncAdapt {id : Nat} : Effs Eff.keepsEng (syncAdapt id u) := by
  simp +decide [syncAdapt]

@[simp] theorem keepsEng_syncFlows {t : Nat} : Effs Eff.keepsEng (syncFlows t u) := by
  simp +decide [syncFlows]

/-! ## The learned codec -/

@[simp] theorem keepsEng_updLsc {id : Nat} {f : Lsc → Lsc} : Effs Eff.keepsEng (updLsc id f u) := by
  simp [updLsc]

@[simp] theorem keepsEng_updFrame {id frame : Nat} {g : LscFrame → LscFrame} : Effs Eff.keepsEng (updFrame id frame g u) :=
  keepsEng_updLsc

@[simp] theorem keepsEng_updPlot {id frame ix : Nat} {g : PlotSt → PlotSt} : Effs Eff.keepsEng (updPlot id frame ix g u) :=
  keepsEng_updFrame

@[simp] theorem keepsEng_noteStatus {id frame st : Nat} : Effs Eff.keepsEng (noteStatus id frame st u) :=
  keepsEng_updFrame

@[simp] theorem keepsEng_putOutput {t id : Nat} {bs : List Byte} {pz ask : Bool} : Effs Eff.keepsEng (putOutput t id bs pz ask u) := by
  unfold putOutput
  dsimp only
  split <;> simp [writeBuf]

@[simp] theorem keepsEng_unitsOut {id frame : Nat} {bs : List Byte} : Effs Eff.keepsEng (unitsOut id frame bs u) := by
  simp [unitsOut]

@[simp] theorem keepsEng_emitFrames {id : Nat} : Effs Eff.keepsEng (emitFrames id u) :=
  effs_each fun f v => by simp +decide [emitFrame]

@[simp] theorem keepsEng_keyRequest {id : Nat} : Effs Eff.keepsEng (keyRequest id u) := by
  simp +decide [keyRequest]

@[simp] theorem keepsEng_withholdPlot {id frame ix st : Nat} : Effs Eff.keepsEng (withholdPlot id frame ix st u) := by
  simp [withholdPlot]

@[simp] theorem keepsEng_putTensor {p : Prog} {li r q k : Nat} {v : Int} {bad : Bool} :
    Effs Eff.keepsEng (putTensor p li r q k v bad u) := by
  unfold putTensor
  split <;> simp

@[simp] theorem keepsEng_remake {p : Prog} {id ix j0 j1 : Nat} {f : LscFrame} {all bare : Bool} :
    Effs Eff.keepsEng (remake p id f ix j0 j1 all bare u) := by
  refine effs_each fun li v => effs_opt.2 fun l _ => effs_each fun e w => effs_each fun r x => ?_
  simp [remakeAt, putBlock, putPos]

@[simp] theorem keepsEng_decFences {id frame : Nat} : Effs Eff.keepsEng (decFences id frame u) := by
  unfold decFences
  split
  · simp
  · split
    · simp
    · refine effs_each fun l v => effs_each fun e w => ?_
      simp

@[simp] theorem keepsEng_lostMeans {id frame : Nat} : Effs Eff.keepsEng (lostMeans id frame u) := by
  unfold lostMeans
  dsimp only
  repeat' split
  all_goals simp

@[simp] theorem keepsEng_zeroPlot {id : Nat} {f : LscFrame} {e : Prog × Nat × Nat × Nat} {p : PlotSt} :
    Effs Eff.keepsEng (zeroPlot id f e p u) := by
  simp [zeroPlot]

@[simp] theorem keepsEng_sendRefresh {id frame reason : Nat} {isNew : Bool} :
    Effs Eff.keepsEng (sendRefresh id frame reason isNew u) := by
  unfold sendRefresh
  dsimp only
  split
  · simp
  · cases (u.stream id).lsc.fromPeer <;> simp +decide

@[simp] theorem keepsEng_repeatRefresh {id frame : Nat} : Effs Eff.keepsEng (repeatRefresh id frame u) := by
  unfold repeatRefresh
  dsimp only
  split <;> simp

@[simp] theorem keepsEng_decEvent {id reason : Nat} {f : LscFrame} : Effs Eff.keepsEng (decEvent id f reason u) := by
  simp +decide [decEvent]

@[simp] theorem keepsEng_decAdvance {id : Nat} : Effs Eff.keepsEng (decAdvance id u) := by
  unfold decAdvance
  split
  · simp
  · split
    · simp
    · split <;> simp

@[simp] theorem keepsEng_losePlot {id frame ix : Nat} : Effs Eff.keepsEng (losePlot id frame ix u) := by
  simp [losePlot]

@[simp] theorem keepsEng_putTap {id tap frame keyAt : Nat} {dims : Nat × Nat × Nat} {bs : List Byte} {bad : Bool} :
    Effs Eff.keepsEng (putTap id tap frame keyAt dims bs bad u) := by
  simp +decide [putTap]

@[simp] theorem keepsEng_frameTaps {id frame : Nat} : Effs Eff.keepsEng (frameTaps id frame u) := by
  have hstep (taps : List Nat) (v : State) : Effs Eff.keepsEng (tapStep id frame taps false v) := by
    unfold tapStep
    split
    · simp
    · refine effs_ite.2 ⟨fun _ => effs_nil, fun _ => ?_⟩
      split
      · simp
      · refine effs_each fun n w => ?_
        split <;> simp
  have hcamp (v : State) : Effs Eff.keepsEng (tapCampion id frame v) := by
    unfold tapCampion
    dsimp only
    split
    · simp
    · split <;> simp
  simp [frameTaps, hstep, hcamp]

end Sys2Proof.Machine
end

section
/-! What a request, the fetch of a ring and an abandoned item leave of the engines (R312, R320, R437). -/
namespace Sys2Proof.Machine

variable {u : State}

@[simp] theorem keepsEng_smvErr {t code id : Nat} : Effs Eff.keepsEng (smvErr t code id u) := by
  simp +decide [smvErr]

@[simp] theorem keepsEng_count256 {f : Fld} {t n : Nat} : Effs Eff.keepsEng (count256 f t n u) ↔ f.reg ∉ engRegs := by
  simp [count256]

/-! ## Opening and closing a stream -/

/-- A slot's registers, the engines' not among them, return to their reset words. -/
theorem keepsEng_resetSlot {t ix : Nat} {rs : List Reg} (h : ∀ r ∈ rs, r ∉ engRegs) :
    (Eff.resetRegs fun k => k.inTile t && k.atIx ix && rs.contains k.reg).keepsEng := by
  intro k hk
  have hno : rs.contains k.reg = false := Bool.eq_false_iff.2 fun hc => h _ (List.contains_iff_mem.1 hc) hk
  show (_ && rs.contains k.reg) = false
  rw [hno, Bool.and_false]

@[simp] theorem keepsEng_updSce {id : Nat} {f : Sce → Sce} : Effs Eff.keepsEng (updSce id f u) := by
  simp [updSce]

@[simp] theorem keepsEng_sceKeyRequest {id : Nat} : Effs Eff.keepsEng (sceKeyRequest id u) := by
  simp +decide [sceKeyRequest]

@[simp] theorem keepsEng_putPicture {t base pitch : Nat} {rows : List (Nat × Nat)} {bs : List Byte} :
    Effs Eff.keepsEng (putPicture t base pitch rows bs u) := by
  induction rows generalizing bs u with
  | nil => exact effs_none
  | cons e es ih => simp [putPicture, ih]

@[simp] theorem keepsEng_sceDrain {id : Nat} : Effs Eff.keepsEng (sceDrain id u) := by
  simp [sceDrain, sceDiscard, sceOutput]

@[simp] theorem keepsEng_sceFlush {id : Nat} : Effs Eff.keepsEng (sceFlush id u) := by
  simp [sceFlush, scePump]

@[simp] theorem keepsEng_sceOpen {id : Nat} : Effs Eff.keepsEng (sceOpen id u) := by
  unfold sceOpen
  refine effs_seq_cons.2 ⟨effs_cons.2 ⟨keepsEng_resetSlot (by decide), effs_nil⟩, ?_⟩
  simp +decide

@[simp] theorem keepsEng_lscEncOpen {id : Nat} : Effs Eff.keepsEng (lscEncOpen id u) := by
  unfold lscEncOpen
  split <;> simp +decide

@[simp] theorem keepsEng_lscDecOpen {id : Nat} : Effs Eff.keepsEng (lscDecOpen id u) := by
  simp +decide [lscDecOpen]

@[simp] theorem keepsEng_closeFrame {id : Nat} : Effs Eff.keepsEng (closeFrame id u) := by
  unfold closeFrame
  split <;> simp

@[simp] theorem keepsEng_updHead {id : Nat} {f : Head → Head} : Effs Eff.keepsEng (updHead id f u) := by
  simp [updHead]

@[simp] theorem keepsEng_endWindow {id reason st : Nat} {w : AdaptWin} : Effs Eff.keepsEng (endWindow id w reason st u) := by
  simp +decide [endWindow]

@[simp] theorem keepsEng_closeHead {id : Nat} : Effs Eff.keepsEng (closeHead id u) := by
  simp [closeHead]

@[simp] theorem keepsEng_updIng {id : Nat} {f : Ing → Ing} : Effs Eff.keepsEng (updIng id f u) := by
  simp [updIng]

@[simp] theorem keepsEng_dirRegister {id : Nat} : Effs Eff.keepsEng (dirRegister id u) := by
  have happly (m : DirMsg) : Effs Eff.keepsEng (dirApply m u) := by
    cases m <;> simp [dirApply]
  simp [dirRegister, dirSend, happly]

@[simp] theorem keepsEng_openSlot {n epoch id : Nat} {p : List Byte} : Effs Eff.keepsEng (openSlot n epoch id p u) := by
  unfold openSlot
  refine effs_seq_cons.2 ⟨by simp, effs_seq_cons.2 ⟨effs_cons.2 ⟨keepsEng_resetSlot (by decide), effs_nil⟩, ?_⟩⟩
  simp +decide [headOpen]

@[simp] theorem keepsEng_openRun {n : Nat} {r : LiveReq} {p : List Byte} : Effs Eff.keepsEng (openRun n r p u) := by
  unfold openRun
  dsimp only
  split <;> simp

@[simp] theorem keepsEng_closeRun {n : Nat} {r : LiveReq} {p : List Byte} : Effs Eff.keepsEng (closeRun n r p u) := by
  simp +decide [closeRun, dropFlow]

/-! ## Received units -/

@[simp] theorem keepsEng_orphan {id : Nat} : Effs Eff.keepsEng (orphan id u) := by
  simp +decide [orphan]

@[simp] theorem keepsEng_refuseHeader {id frame st : Nat} : Effs Eff.keepsEng (refuseHeader id frame st u) := by
  simp +decide [refuseHeader]

@[simp] theorem keepsEng_decHeader {id : Nat} {o : Osf} : Effs Eff.keepsEng (decHeader id o u) := by
  unfold decHeader
  simp only [effs_seq_cons, effs_seq_nil, effs_read, and_true]
  refine ⟨by simp, by simp +decide [applyRegs], ?_⟩
  generalize State.then _ _ = v
  refine effs_ite_act.2 ⟨fun _ => keepsEng_refuseHeader, fun _ => ?_⟩
  generalize Option.filter _ _ = named
  cases named <;> simp +decide

@[simp] theorem keepsEng_finalFrame {id st : Nat} {o : Osf} : Effs Eff.keepsEng (finalFrame id o st u) := keepsEng_updLsc

@[simp] theorem keepsEng_decFrame {id : Nat} {o : Osf} : Effs Eff.keepsEng (decFrame id o u) := by
  simp [decFrame]

@[simp] theorem keepsEng_decPlot {id : Nat} {o : Osf} {pz : Bool} : Effs Eff.keepsEng (decPlot id o pz u) := by
  unfold decPlot
  dsimp only
  split <;> simp +decide

@[simp] theorem keepsEng_decUnit {id : Nat} {pz : Bool} {o : Osf} : Effs Eff.keepsEng (decUnit id pz o u) := by
  unfold decUnit
  dsimp only
  cases (u.stream id).lsc.refused <;> simp +decide

@[simp] theorem keepsEng_osfRx {id : Nat} {peer : Option Nat} {pz : Bool} {bs : List Byte} :
    Effs Eff.keepsEng (osfRx id peer pz bs u) := by
  unfold osfRx
  dsimp only
  split
  · exact effs_nil
  · refine effs_seq_cons.2 ⟨by simp, effs_seq_cons.2 ⟨effs_each fun o v => ?_, effs_seq_nil⟩⟩
    cases o <;> simp +decide [encUnit]

/-! ## Requests -/

@[simp] theorem keepsEng_loadprogRun {n : Nat} {p : List Byte} {k : Nat → Act} (hk : ∀ e v, Effs Eff.keepsEng (k e v)) :
    Effs Eff.keepsEng (loadprogRun n p k u) := by
  unfold loadprogRun
  split <;> simp [hk]

@[simp] theorem keepsEng_unloadprogRun {n : Nat} {p : List Byte} {k : Nat → Act} (hk : ∀ e v, Effs Eff.keepsEng (k e v)) :
    Effs Eff.keepsEng (unloadprogRun n p k u) := by
  unfold unloadprogRun
  dsimp only
  split
  · exact hk _ _
  · split <;> simp +decide [hk, tsetDrop]

@[simp] theorem keepsEng_submitTo {n t q flags : Nat} {r : LiveReq} {bs : List Byte} :
    Effs Eff.keepsEng (submitTo n r t q bs flags u) := by
  simp [submitTo]

@[simp] theorem keepsEng_inputRun {n : Nat} {r : LiveReq} {p : List Byte} : Effs Eff.keepsEng (inputRun n r p u) := by
  unfold inputRun
  dsimp only
  split
  · simp
  · split <;> simp

@[simp] theorem keepsEng_submitRun {n : Nat} {r : LiveReq} {p : List Byte} : Effs Eff.keepsEng (submitRun n r p u) := by
  unfold submitRun
  dsimp only
  split
  · simp
  · split <;> simp

@[simp] theorem keepsEng_execute {n opc : Nat} {r : LiveReq} {p : List Byte} : Effs Eff.keepsEng (execute n opc r p u) := by
  simp [execute, barrierRun, keyreqRun, adaptRun, adaptQueue, revertRun, revertHead]

@[simp] theorem keepsEng_answer {o : Origin} {opc st : Nat} {h : ReqHdr} {p : List Byte} :
    Effs Eff.keepsEng (answer o opc h p st u) := keepsEng_deliver

@[simp] theorem keepsEng_duplicate {o : Origin} {opc : Nat} {h : ReqHdr} {p : List Byte} {e : WinEntry} :
    Effs Eff.keepsEng (duplicate o opc h p e u) := by
  cases hd : e.done <;> simp +decide [duplicate, hd]

@[simp] theorem keepsEng_accept {o : Origin} {opc : Nat} {h : ReqHdr} {p : List Byte} {newer : Bool} :
    Effs Eff.keepsEng (accept o opc h p newer u) := by
  simp +decide [accept]

/-- Whatever a request says, it is handled within these bounds. -/
@[simp] theorem keepsEng_handleRequest {o : Origin} {opc : Nat} {h : ReqHdr} {p : List Byte} :
    Effs Eff.keepsEng (handleRequest o opc h p u) := by
  unfold handleRequest
  dsimp only
  split
  · simp
  · split
    · simp
    · split
      · simp
      · split
        · simp
        · split <;> simp

/-- Fetching the requests of a tile's rings, and handling them. -/
theorem keepsEng_pumpRings {t : Nat} : Effs Eff.keepsEng (pumpRings t u) := by
  have hskip (r : Nat) (v : State) : Effs Eff.keepsEng (ringSkip t r v) := by
    simp +decide [ringSkip]
  refine effs_each fun _ v => effs_each fun r w => ?_
  unfold fetchOne
  dsimp only
  repeat' split
  all_goals simp +decide [ringTake, hskip]

/-! ## What an engine abandons (R437) -/

@[simp] theorem keepsEng_loseFrame {id frame : Nat} : Effs Eff.keepsEng (loseFrame id frame u) := by
  unfold loseFrame
  split
  · simp
  · simp [loseDecFrame, dropEncFrame]

@[simp] theorem keepsEng_abandonRun {t : Nat} {r : CutRun} : Effs Eff.keepsEng (abandonRun t r u) := by
  have hcur (v : State) : Effs Eff.keepsEng (syncCur t v) := by
    unfold syncCur
    dsimp only
    split <;> simp +decide
  have hstat (v : State) : Effs Eff.keepsEng (syncQstat t v) := by
    simp +decide [syncQstat]
  simp [abandonRun, hcur, hstat]

@[simp] theorem offCtl_eceEnd {t slot : Nat} : Effs Eff.offCtl (eceEnd t slot u) := by
  simp +decide [eceEnd, syncEce]

@[simp] theorem offCtl_abandonEce {t : Nat} {r : EceRun} : Effs Eff.offCtl (abandonEce t r u) := by
  simp [abandonEce, eceFinish, putResultLen]

@[simp] theorem keepsEng_abandonPicture {t : Nat} : Effs Eff.keepsEng (abandonPicture t u) := by
  have hidle (id : Nat) (v : State) : Effs Eff.keepsEng (sceIdle t id 0 v) := by
    simp +decide [sceIdle]
  unfold abandonPicture
  split
  · simp
  · split
    · exact hidle _ _
    · simp +decide [hidle, sceErr, sceEvent, sceRefresh, sceGiveUp, sceRetire]

/-! ## Transfers and messages that end -/

@[simp] theorem keepsEng_freeXfer {t tag : Nat} : Effs Eff.keepsEng (freeXfer t tag u) := by
  simp +decide [freeXfer, syncTags]

@[simp] theorem keepsEng_leaveFlight {n : Nat} : Effs Eff.keepsEng (leaveFlight n u) := by
  simp +decide [leaveFlight]

@[simp] theorem keepsEng_updItem {t q slot : Nat} {f : Item → Item} : Effs Eff.keepsEng (updItem t q slot f u) := by
  simp [updItem]

@[simp] theorem keepsEng_writeSettled {t : Nat} {x : Xfer} : Effs Eff.keepsEng (writeSettled t x u) := by
  have hsettle (v : State) : Effs Eff.keepsEng (settleItem t x.q x.slot v) := by
    unfold settleItem
    split <;> simp
  simp [writeSettled, hsettle, updLive]

@[simp] theorem keepsEng_erPush {t n : Nat} {c : Cpl} : Effs Eff.keepsEng (erPush t n c u) := by
  simp +decide [erPush, erWrite]

@[simp] theorem keepsEng_yardSend {t a : Nat} {bs : List Byte} {pz : Bool} : Effs Eff.keepsEng (yardSend t a bs pz u) := by
  simp +decide [yardSend, yardPacket]

@[simp] theorem keepsEng_writeDone {t st : Nat} {x : Xfer} : Effs Eff.keepsEng (writeDone t x st u) := by
  simp +decide [writeDone, writeFailed]

@[simp] theorem keepsEng_egressDone {t slot st : Nat} : Effs Eff.keepsEng (egressDone t slot st u) := by
  unfold egressDone
  split <;> simp +decide [countEgress]

@[simp] theorem keepsEng_msgEnd {e st : Nat} {m : MvMsg} {here : Bool} : Effs Eff.keepsEng (msgEnd e m st here u) := by
  unfold msgEnd
  refine effs_seq_cons.2 ⟨by simp [updPeer], effs_seq_cons.2 ⟨?_, effs_seq_nil⟩⟩
  rw [effs_read]
  cases m.ctx <;> simp +decide [countEgress]

@[simp] theorem keepsEng_pathDown {e p : Nat} : Effs Eff.keepsEng (pathDown e p u) := by
  have hmsg (m : MvMsg) (v : State) : Effs Eff.keepsEng (msgPathDown e p m v) := by
    unfold msgPathDown
    split <;> simp [updPeer, mvPut, updLink]
  simp [pathDown, hmsg, updLink, updPeer]

@[simp] theorem keepsEng_tilePortsDown {t : Nat} : Effs Eff.keepsEng (tilePortsDown t u) :=
  effs_each fun p v => by simp +decide [portDown, portLanes, setMask, portPathsDown]

end Sys2Proof.Machine
end

section
/-! Function states (R427, R428): what a write of EN does, how a transition ends, and the timeout of a block that does not drain. -/
namespace Sys2Proof.Machine
open Sys2Proof.Say

variable {s u : State} {b : Engine} {k kt x : Nat} {q : Requester}

/-! ## Control registers -/

theorem ctlState_eq (b : Engine) : ctlState b = ⟨ctlReg b, 3, 2⟩ := by cases b <;> rfl

theorem ctlState_ok (b : Engine) : (ctlState b).ok = true := by cases b <;> decide

theorem ctlEn_ok (b : Engine) : (ctlEn b).ok = true := by cases b <;> decide

theorem ctlPend_ok (b : Engine) : (ctlPend b).ok = true := by cases b <;> decide

theorem ctlReg_mem_engRegs (b : Engine) : ctlReg b ∈ engRegs := by cases b <;> decide

theorem ctlReg_ne (b : Engine) : ctlReg b ≠ .SNP_CNT ∧ ctlReg b ≠ .PRT_ERST := by cases b <;> decide

theorem ctlReg_injective : Function.Injective ctlReg := fun a b => by cases a <;> cases b <;> decide

theorem get_run_fld_self {f : Fld} (hf : f.ok = true) (t ix v : Nat) : (Eff.run u (.fld f t ix v)).get f t ix = v % 2 ^ (f.hi + 1 - f.lo) :=
  get_setF u f t ix v hf

theorem get_run_fld_ne {f g : Fld} (hg : g.ok = true) (h : g.reg ≠ f.reg ∨ f.hi < g.lo ∨ g.hi < f.lo) (t ix v t' ix' : Nat) :
    (Eff.run u (.fld f t ix v)).get g t' ix' = u.get g t' ix' := get_setF_ne u f g t ix t' ix' v hg h

section
variable (t v : Nat)

theorem ctlState_after_state : (Eff.run u (.fld (ctlState b) t 0 v)).get (ctlState b) t 0 = v % 4 := by
  rw [get_run_fld_self (ctlState_ok b), ctlState_eq]
  rfl

theorem ctlState_after_en : (Eff.run u (.fld (ctlEn b) t 0 v)).get (ctlState b) t 0 = u.get (ctlState b) t 0 :=
  get_run_fld_ne (ctlState_ok b) (by simp [ctlState_eq, ctlEn]) _ _ _ _ _

theorem ctlState_after_pend : (Eff.run u (.fld (ctlPend b) t 0 v)).get (ctlState b) t 0 = u.get (ctlState b) t 0 :=
  get_run_fld_ne (ctlState_ok b) (by simp [ctlState_eq, ctlPend]) _ _ _ _ _

theorem ctlEn_after_en : (Eff.run u (.fld (ctlEn b) t 0 v)).get (ctlEn b) t 0 = v % 2 := get_run_fld_self (ctlEn_ok b) t 0 v

theorem ctlEn_after_state : (Eff.run u (.fld (ctlState b) t 0 v)).get (ctlEn b) t 0 = u.get (ctlEn b) t 0 :=
  get_run_fld_ne (ctlEn_ok b) (by simp [ctlState_eq, ctlEn]) _ _ _ _ _

theorem ctlPend_after_pend : (Eff.run u (.fld (ctlPend b) t 0 v)).get (ctlPend b) t 0 = v % 2 := get_run_fld_self (ctlPend_ok b) t 0 v

theorem ctlPend_after_state : (Eff.run u (.fld (ctlState b) t 0 v)).get (ctlPend b) t 0 = u.get (ctlPend b) t 0 :=
  get_run_fld_ne (ctlPend_ok b) (by simp [ctlState_eq, ctlPend]) _ _ _ _ _

end

/-! ## Writes of EN -/

theorem then_funcEnWrite (h : s.lands q k (ctlReg b) 0 true = some (kt, x)) (en : Bool) :
    s.then (funcEnWriteX q k b en) = s.then (enWrite b kt en) :=
  then_accessReg (k := fun t _ => enWrite b t en) h

theorem enWrite_showsIn (t : Nat) (en : Bool) : AllEff (Eff.showsIn [ctlReg b]) (enWrite b t en) := allEff_iff.2 fun v => by
  unfold enWrite
  cases en <;> simp [ctlState_eq, ctlEn, ctlPend]

/-- A write of EN changes the control register alone, which reads as the write's effects leave it. -/
theorem funcEnWrite_gives (h : s.lands q k (ctlReg b) 0 true = some (kt, x)) (en : Bool) {es : List Eff} (hes : enWrite b kt en s = es) :
    gives (.funcEnWrite q k b en) s fun t => (∀ f : Fld, f.reg = ctlReg b → t.get f kt 0 = (s.run es).get f kt 0) ∧
      sameRegs [ctlReg b] s t ∧ sameMem s t ∧ sameContexts s t := by
  obtain ⟨hcnt, -⟩ := ctlReg_ne b
  refine done_holds fun t hst => ?_
  rw [then_funcEnWrite h] at hst
  refine ⟨fun f hf => ?_, same_of_showsIn (enWrite_showsIn kt en) hst⟩
  rw [hst.get f kt 0 (hf ▸ hcnt), then_def, hes]

section
variable (hr : s.engineResets b kt = false)
include hr

theorem enWrite_off (hst : s.get (ctlState b) kt 0 = fnOff) (hc : s.canEnable b kt = true) :
    enWrite b kt true s = [.fld (ctlEn b) kt 0 1, .fld (ctlState b) kt 0 fnEnabling] := by
  simp [enWrite, hr, hst, hc, b2n]

theorem enWrite_on (hst : s.get (ctlState b) kt 0 = fnOn) :
    enWrite b kt false s = [.fld (ctlEn b) kt 0 0, .fld (ctlState b) kt 0 fnDisabling] := by
  simp [enWrite, hr, hst, b2n, fnOn, fnOff, fnEnabling]

theorem enWrite_disabling (hst : s.get (ctlState b) kt 0 = fnDisabling) (hc : s.canEnable b kt = true) :
    enWrite b kt true s = [.fld (ctlEn b) kt 0 1, .fld (ctlPend b) kt 0 1] := by
  simp [enWrite, hr, hst, hc, b2n, fnOn, fnOff, fnEnabling, fnDisabling]

theorem enWrite_enabling (hst : s.get (ctlState b) kt 0 = fnEnabling) :
    enWrite b kt false s = [.fld (ctlEn b) kt 0 0, .fld (ctlPend b) kt 0 1] := by
  simp [enWrite, hr, hst, b2n, fnOff, fnEnabling]

end

theorem enWrite_ignored (hc : s.canEnable b kt = false) : enWrite b kt true s = [] := by simp [enWrite, hc]

theorem enWrite_resetting (hr : s.engineResets b kt = true) (hc : s.canEnable b kt = true) (en : Bool) :
    enWrite b kt en s = [.fld (ctlEn b) kt 0 (b2n en)] := by simp [enWrite, hr, hc]

/-- A write that changes EN and the function state. -/
theorem en_state_written (h : s.lands q k (ctlReg b) 0 true = some (kt, x)) {en : Bool} {e st : Nat} (he : e < 2) (hlt : st < 4)
    (hes : enWrite b kt en s = [.fld (ctlEn b) kt 0 e, .fld (ctlState b) kt 0 st]) :
    gives (.funcEnWrite q k b en) s fun t => t.get (ctlEn b) kt 0 = e ∧ t.get (ctlState b) kt 0 = st ∧
      sameRegs [ctlReg b] s t ∧ sameMem s t ∧ sameContexts s t := by
  obtain ⟨t, hexec, hget, hsame⟩ := funcEnWrite_gives h en hes
  refine ⟨t, hexec, ?_, ?_, hsame⟩
  · rw [hget _ rfl, run_cons, run_cons, run_nil, ctlEn_after_state, ctlEn_after_en, Nat.mod_eq_of_lt he]
  · rw [hget _ (by rw [ctlState_eq]), run_cons, run_cons, run_nil, ctlState_after_state, Nat.mod_eq_of_lt hlt]

/-- A write that changes EN and waits for the end of the transition. -/
theorem en_pends (h : s.lands q k (ctlReg b) 0 true = some (kt, x)) {en : Bool} {e st : Nat} (hst : s.get (ctlState b) kt 0 = st)
    (hes : enWrite b kt en s = [.fld (ctlEn b) kt 0 e, .fld (ctlPend b) kt 0 1]) :
    gives (.funcEnWrite q k b en) s fun t => t.get (ctlPend b) kt 0 = 1 ∧ t.get (ctlState b) kt 0 = st ∧
      sameRegs [ctlReg b] s t ∧ sameMem s t ∧ sameContexts s t := by
  obtain ⟨t, hexec, hget, hsame⟩ := funcEnWrite_gives h en hes
  refine ⟨t, hexec, ?_, ?_, hsame⟩
  · rw [hget _ rfl, run_cons, run_cons, run_nil, ctlPend_after_pend]
  · rw [hget _ (by rw [ctlState_eq]), run_cons, run_cons, run_nil, ctlState_after_pend, ctlState_after_en, hst]

theorem en_ignored (h : s.lands q k (ctlReg b) 0 true = some (kt, x)) (hc : s.canEnable b kt = false) :
    gives (.funcEnWrite q k b true) s fun t => sameRegs [] s t ∧ sameMem s t ∧ sameContexts s t := by
  refine done_holds fun t hst => ?_
  rw [then_funcEnWrite h, then_def, enWrite_ignored hc] at hst
  exact same_of_showsIn (a := Act.none) AllEff.none hst

theorem en_resetting (h : s.lands q k (ctlReg b) 0 true = some (kt, x)) (hr : s.engineResets b kt = true) (hc : s.canEnable b kt = true)
    (on : Bool) : gives (.funcEnWrite q k b on) s fun t => t.get (ctlEn b) kt 0 = b2n on ∧
      t.get (ctlState b) kt 0 = s.get (ctlState b) kt 0 ∧ sameRegs [ctlReg b] s t ∧ sameMem s t ∧ sameContexts s t := by
  obtain ⟨t, hexec, hget, hsame⟩ := funcEnWrite_gives h on (enWrite_resetting hr hc on)
  refine ⟨t, hexec, ?_, ?_, hsame⟩
  · rw [hget _ rfl, run_cons, run_nil, ctlEn_after_en]
    cases on <;> rfl
  · rw [hget _ (by rw [ctlState_eq]), run_cons, run_nil, ctlState_after_en]

/-! ## The end of a transition -/

/-- What a transition's end sets: nothing pends, and the function state is the one given. -/
def endsIn (b : Engine) (t st : Nat) : Act := .eff [.fld (ctlPend b) t 0 0, .fld (ctlState b) t 0 st]

theorem endsIn_showsIn (t st : Nat) : AllEff (Eff.showsIn [ctlReg b]) (endsIn b t st) := allEff_iff.2 fun v => by
  simp [endsIn, ctlState_eq, ctlPend]

theorem get_endsIn (t : Nat) {st : Nat} (hst : st < 4) : (u.then (endsIn b t st)).get (ctlState b) t 0 = st ∧
    (u.then (endsIn b t st)).get (ctlPend b) t 0 = 0 := by
  rw [endsIn, then_eff, run_cons, run_cons, run_nil]
  exact ⟨(ctlState_after_state t st).trans (Nat.mod_eq_of_lt hst), (ctlPend_after_state t st).trans (ctlPend_after_pend t 0)⟩

/-- Where an ENABLING block comes to. -/
def enabledState (s : State) (b : Engine) (t : Nat) : Nat := if s.get (ctlPend b) t 0 = 1 then fnDisabling else fnOn

/-- Where a DISABLING block comes to. -/
def disabledState (s : State) (b : Engine) (t : Nat) : Nat :=
  if s.get (ctlPend b) t 0 = 1 ∧ s.canEnable b t = true then fnEnabling else fnOff

theorem then_transitionEnd_enabling (hrun : s.tileRuns k = true) (hst : s.get (ctlState b) k 0 = fnEnabling) :
    s.then (funcTransitionEndX k b) = (s.then (endsIn b k (enabledState s b k))).then (.when (b == .smv) (pumpRings k)) := by
  have hact : funcTransitionEndX k b s = Act.seq [endsIn b k (enabledState s b k), .when (b == .smv) (pumpRings k)] s := by
    simp only [funcTransitionEndX, hrun, hst, Bool.not_true, Bool.false_eq_true, if_false, if_true, endsIn, enabledState]
  rw [then_def, hact, ← then_def, then_seq_cons, then_seq_cons, then_seq_nil]

theorem then_transitionEnd_disabling (hrun : s.tileRuns k = true) (hst : s.get (ctlState b) k 0 = fnDisabling)
    (hd : s.blockDrained b k = true) : s.then (funcTransitionEndX k b) =
      (s.then (.when (b == .lnk) (tilePortsDown k))).then (endsIn b k (disabledState s b k)) := by
  have hact : funcTransitionEndX k b s = Act.seq [.when (b == .lnk) (tilePortsDown k), endsIn b k (disabledState s b k)] s := by
    have hne : ¬ fnDisabling = fnEnabling := by decide
    simp only [funcTransitionEndX, hrun, hst, hd, hne, Bool.not_true, Bool.false_eq_true, if_false, and_self, if_true, endsIn, disabledState]
  rw [then_def, hact, ← then_def, then_seq_cons, then_seq_cons, then_seq_nil]

theorem enabling_ends (hrun : s.tileRuns k = true) (hst : s.get (ctlState b) k 0 = fnEnabling) : gives (.funcTransitionEnd k b) s fun t =>
    t.get (ctlState b) k 0 = (if s.get (ctlPend b) k 0 = 1 then fnDisabling else fnOn) ∧ t.get (ctlPend b) k 0 = 0 ∧
      (b ≠ .smv → sameRegs [ctlReg b] s t ∧ sameMem s t ∧ sameContexts s t) := by
  obtain ⟨hcnt, -⟩ := ctlReg_ne b
  have hlt : enabledState s b k < 4 := by unfold enabledState; split <;> decide
  obtain ⟨hstate, hpend⟩ := get_endsIn (u := s) (b := b) k hlt
  have hpump : AllEff Eff.offCtl (.when (b == .smv) (pumpRings k)) :=
    .when fun _ => allEff_iff.2 fun v => offCtl_of_keepsEng keepsEng_pumpRings
  refine done_holds fun t ht => ?_
  rw [then_transitionEnd_enabling hrun hst] at ht
  refine ⟨?_, ?_, fun hb => ?_⟩
  · have hreg : (ctlState b).reg = ctlReg b := by rw [ctlState_eq]
    rw [ht.get _ _ _ (hreg ▸ hcnt), get_of_offCtl hpump (hreg ▸ ctlReg_mem_engRegs b), hstate]
    rfl
  · rw [ht.get _ _ _ hcnt, get_of_offCtl hpump (ctlReg_mem_engRegs b), hpend]
  · rw [then_when, if_neg (by simpa using hb)] at ht
    exact same_of_showsIn (endsIn_showsIn _ _) ht

theorem disabling_ends (hrun : s.tileRuns k = true) (hst : s.get (ctlState b) k 0 = fnDisabling) (hd : s.blockDrained b k = true) :
    gives (.funcTransitionEnd k b) s fun t =>
      t.get (ctlState b) k 0 = (if s.get (ctlPend b) k 0 = 1 ∧ s.canEnable b k = true then fnEnabling else fnOff) ∧
      t.get (ctlPend b) k 0 = 0 ∧ (b ≠ .lnk → sameRegs [ctlReg b] s t ∧ sameMem s t ∧ sameContexts s t) := by
  obtain ⟨hcnt, -⟩ := ctlReg_ne b
  have hlt : disabledState s b k < 4 := by unfold disabledState; split <;> decide
  refine done_holds fun t ht => ?_
  rw [then_transitionEnd_disabling hrun hst hd] at ht
  obtain ⟨hstate, hpend⟩ := get_endsIn (u := s.then (.when (b == .lnk) (tilePortsDown k))) (b := b) k hlt
  refine ⟨?_, (ht.get _ _ _ hcnt).trans hpend, fun hb => ?_⟩
  · rw [ht.get _ _ _ (by rw [ctlState_eq]; exact hcnt), hstate]
    rfl
  · rw [then_when, if_neg (by simpa using hb)] at ht
    exact same_of_showsIn (endsIn_showsIn _ _) ht

/-! ## The timeout of DISABLING -/

/-- The effects of an escalation event (R438): its record, its interrupt, and its entry in the always-on memory. -/
theorem then_escalate (src t n : Nat) : ∃ (m : Emission) (f : Pkg → Pkg), u.then (escalate src t n) =
    u.run [.fld F.PRT_ESC_EVT pkgTile 0 1, .fld F.PRT_ESC_SRC pkgTile 0 src, .fld F.PRT_ESC_TILE pkgTile 0 t,
      .fld F.PRT_ESC_INST pkgTile 0 n, .emit m, .pkg f] := ⟨_, _, rfl⟩

theorem get_escalate (src t n : Nat) : (u.then (escalate src t n)).get F.PRT_ESC_EVT pkgTile 0 = 1 ∧
    (u.then (escalate src t n)).get F.PRT_ESC_SRC pkgTile 0 = src % 8 ∧
    (u.then (escalate src t n)).get F.PRT_ESC_TILE pkgTile 0 = t % 64 ∧
    (u.then (escalate src t n)).get F.PRT_ESC_INST pkgTile 0 = n % 64 := by
  obtain ⟨m, f, h⟩ := then_escalate (u := u) src t n
  rw [h]
  refine ⟨get_run_fld u (by decide) pkgTile 0 1 [] _ ?_, get_run_fld u (by decide) pkgTile 0 src [_] _ ?_,
    get_run_fld u (by decide) pkgTile 0 t [_, _] _ ?_, get_run_fld u (by decide) pkgTile 0 n [_, _, _] _ ?_⟩ <;>
  simp [Eff.offF, Eff.off, F.PRT_ESC_EVT, F.PRT_ESC_SRC, F.PRT_ESC_TILE, F.PRT_ESC_INST]

/-- An escalation event changes `PRT_ESC` alone of the registers, and neither memory nor a context. -/
theorem same_of_escalate {src n : Nat} {t : State} (ht : SnapSame (s.then (escalate src k n)) t) :
    sameRegs [.PRT_ESC] s t ∧ sameMem s t ∧ sameContexts s t := by
  obtain ⟨m, f, h⟩ := then_escalate (u := s) src k n
  rw [h] at ht
  refine ⟨fun r hr j ix => ?_, ht.byte, ht.stream, ht.inst, ht.tile⟩
  obtain ⟨hcnt, hne⟩ : r ≠ .SNP_CNT ∧ r ≠ .PRT_ESC := by simpa using hr
  refine (ht.reg r j ix hcnt).trans (reg_off (a := .eff _) s (.eff ?_) j ix)
  simp [Eff.off, F.PRT_ESC_EVT, F.PRT_ESC_SRC, F.PRT_ESC_TILE, F.PRT_ESC_INST, hne.symm]

theorem disable_timeout (hst : s.get (ctlState b) k 0 = fnDisabling) : gives (.funcDisableTimeout k b) s fun t =>
    t.get F.PRT_ESC_EVT pkgTile 0 = 1 ∧ t.get F.PRT_ESC_SRC pkgTile 0 = 2 ∧ t.get F.PRT_ESC_TILE pkgTile 0 = k % 64 ∧
    t.get F.PRT_ESC_INST pkgTile 0 = s.instOfTile k % 64 ∧ sameRegs [.PRT_ESC] s t ∧ sameMem s t ∧ sameContexts s t := by
  have hact : s.then (funcDisableTimeoutX k b) = s.then (escalate 2 k (s.instOfTile k)) := by
    rw [then_def, funcDisableTimeoutX, if_pos hst, ← then_def]
  obtain ⟨hevt, hsrc, htile, hinst⟩ := get_escalate (u := s) 2 k (s.instOfTile k)
  refine done_holds fun t ht => ?_
  rw [hact] at ht
  exact ⟨(ht.get _ _ _ (by decide)).trans hevt, (ht.get _ _ _ (by decide)).trans hsrc, (ht.get _ _ _ (by decide)).trans htile,
    (ht.get _ _ _ (by decide)).trans hinst, same_of_escalate ht⟩

end Sys2Proof.Machine
end

section
/-! Engine resets (R437, R441): the bits of `PRT_ERST`, the engines that they turn off, and what an idle tile keeps. -/
namespace Sys2Proof.Machine
open Sys2Proof.Say

variable {s u : State} {b : Engine} {k kt x engines : Nat} {q : Requester}

/-! ## The bits of `PRT_ERST` -/

theorem bitOf_eq_testBit (n i : Nat) : bitOf n i = n.testBit i := by
  rw [Nat.testBit_eq_decide_div_mod_eq]
  rfl

theorem testBit_foldl_or (l : List Nat) (m i : Nat) : (l.foldl (fun m j => m ||| 2 ^ j) m).testBit i = (m.testBit i || decide (i ∈ l)) := by
  induction l generalizing m with
  | nil => simp
  | cons j l ih =>
    rw [List.foldl_cons, ih, Nat.testBit_or, Nat.testBit_two_pow, Bool.or_assoc]
    simp [eq_comm (a := i)]

theorem maskList_testBit (l : List Nat) (i : Nat) : (maskList l).testBit i = decide (i ∈ l) := by
  rw [maskList, testBit_foldl_or, Nat.zero_testBit, Bool.false_or]

/-- The bits of a write that stand for nothing yet. -/
def newResets (old engines : Nat) : List Nat := (bitList 7 engines).filter fun k => !bitOf old k

theorem mem_newResets {old j : Nat} : j ∈ newResets old engines ↔ j < 7 ∧ bitOf engines j = true ∧ bitOf old j = false := by
  simp only [newResets, bitList, List.mem_filter, List.mem_range, Bool.not_eq_true', and_assoc]

theorem or_newResets (old engines : Nat) : old ||| maskList (newResets old engines) = old ||| engines % 2 ^ 7 := by
  apply Nat.eq_of_testBit_eq
  intro i
  have hmem : decide (i ∈ newResets old engines) = (decide (i < 7) && engines.testBit i && !old.testBit i) := by
    simp [mem_newResets, bitOf_eq_testBit, Bool.and_assoc]
  rw [Nat.testBit_or, Nat.testBit_or, maskList_testBit, Nat.testBit_mod_two_pow, hmem]
  cases old.testBit i <;> simp

/-! ## Registers that return to their reset words -/

/-- A register reads after a reset of registers as its reset word or as before. -/
theorem reg_resetRegs {p : RegKey → Bool} {r : Reg} {t ix : Nat} (hp : ∀ a : RegKey, a.code = RegKey.code ⟨r, t, ix⟩ → p a = p ⟨r, t, ix⟩) :
    (Eff.run u (.resetRegs p)).reg r t ix = if p ⟨r, t, ix⟩ = true then resetWord r else u.reg r t ix :=
  mapGet_mapDrop RegKey.code (resetWord r) p u.regs ⟨r, t, ix⟩ hp

theorem ctlState_resetWord (b : Engine) : getBits (resetWord (ctlReg b)) 3 2 = fnOff := by cases b <;> decide

/-- The registers of the link engine that its reset returns to their reset words (R533). -/
def linkKeys (t : Nat) (k : RegKey) : Bool :=
  k.inTile t && k.reg.place.blk == .LNK && decide (k.reg.place.off < 0x10000) && k.reg != .LNK_QUADCFG && k.reg != .LNK_LANESTAT

theorem linkKeys_of_code {t : Nat} {a c : RegKey} (h : a.code = c.code) : linkKeys t a = linkKeys t c := by
  obtain ⟨hreg, htile, -⟩ := (RegKey.code_eq a c).1 h
  simp [linkKeys, RegKey.inTile, hreg, htile]

/-! ## What an engine abandons -/

/-- What a link engine abandons before its registers return to their reset words. -/
theorem then_abandonLink (t : Nat) : ∃ a : Act, AllEff Eff.offCtl a ∧
    u.then (abandonLink t) = Eff.run (u.then a) (.resetRegs (linkKeys t)) := by
  refine ⟨.seq [tilePortsDown t, .each ((u.qItems t egressQueue).filter (·.started)) fun i => .seq
    [updS i.stream fun x => { x with egress := x.egress.filter (·.slot != some i.slot) }, finishItem t i stEngineReset 0 []]],
    allEff_iff.2 fun v => by simp, ?_⟩
  unfold abandonLink
  rw [then_app, then_seq_cons, then_seq_cons, then_seq_cons, then_seq_nil, then_seq_cons, then_seq_cons, then_seq_nil]
  rfl

/-- Every other engine leaves the engines' registers alone as it abandons what it does. -/
theorem abandonEngine_offCtl (hb : b ≠ .lnk) (t : Nat) : AllEff Eff.offCtl (abandonEngine b t) := allEff_iff.2 fun v => by
  cases b with
  | lnk => exact absurd rfl hb
  | _ => simp [abandonEngine, abandonUnits, abandonCores]

/-- An engine that is OFF stays OFF while another is reset. -/
theorem ctlState_abandonEngine (c : Engine) (t : Nat) (h : u.get (ctlState b) t 0 = fnOff) :
    (u.then (abandonEngine c t)).get (ctlState b) t 0 = fnOff := by
  have hkeep {a : Act} (ha : AllEff Eff.offCtl a) : (u.then a).get (ctlState b) t 0 = fnOff :=
    (get_of_offCtl ha (by rw [ctlState_eq]; exact ctlReg_mem_engRegs b) t 0).trans h
  by_cases hc : c = .lnk
  · subst hc
    obtain ⟨a, ha, hthen⟩ := then_abandonLink (u := u) t
    have hact : u.then (abandonEngine .lnk t) = u.then (abandonLink t) := (rfl)
    have hold := hkeep ha
    rw [ctlState_eq, State.get] at hold ⊢
    rw [hact, hthen, reg_resetRegs fun a h => linkKeys_of_code h]
    split
    · exact ctlState_resetWord b
    · exact hold
  · exact hkeep (abandonEngine_offCtl hc t)

theorem erst_abandonEngine (c : Engine) (t j ix : Nat) : (u.then (abandonEngine c t)).reg .PRT_ERST j ix = u.reg .PRT_ERST j ix := by
  have hkeep {a : Act} (ha : AllEff Eff.offCtl a) : (u.then a).reg .PRT_ERST j ix = u.reg .PRT_ERST j ix :=
    reg_off u (ha.mono fun _ => Eff.off_of_offCtl (by decide)) j ix
  by_cases hc : c = .lnk
  · subst hc
    obtain ⟨a, ha, hthen⟩ := then_abandonLink (u := u) t
    have hact : u.then (abandonEngine .lnk t) = u.then (abandonLink t) := (rfl)
    have hno : linkKeys t ⟨.PRT_ERST, j, ix⟩ = false := by simp [linkKeys, show (Reg.PRT_ERST.place.blk == Blk.LNK) = false by decide]
    rw [hact, hthen, reg_resetRegs fun a h => linkKeys_of_code h, hno]
    exact hkeep ha
  · exact hkeep (abandonEngine_offCtl hc t)

/-! ## One engine's reset -/

/-- What the reset of an engine sets. -/
def turnsOff (t : Nat) (b : Engine) : Act := .eff [.fld (ctlState b) t 0 fnOff, .fld (ctlPend b) t 0 0]

theorem then_engineReset (t : Nat) (b : Engine) : u.then (engineReset t b) = (u.then (turnsOff t b)).then (abandonEngine b t) := by
  rw [engineReset, then_seq_cons, then_seq_cons, then_seq_nil]
  rfl

theorem turnsOff_showsIn (t : Nat) (b : Engine) : AllEff (Eff.showsIn [ctlReg b]) (turnsOff t b) := allEff_iff.2 fun v => by
  simp [turnsOff, ctlState_eq, ctlPend]

theorem ctlState_turnsOff (t : Nat) (b : Engine) : (u.then (turnsOff t b)).get (ctlState b) t 0 = fnOff := by
  rw [turnsOff, then_eff, run_cons, run_cons, run_nil, ctlState_after_pend, ctlState_after_state]
  rfl

theorem ctlState_engineReset (t : Nat) (b : Engine) : (u.then (engineReset t b)).get (ctlState b) t 0 = fnOff := by
  rw [then_engineReset]
  exact ctlState_abandonEngine b t (ctlState_turnsOff t b)

/-- An engine that is OFF stays OFF through the reset of any engine. -/
theorem ctlState_stays_off (t : Nat) (c : Engine) (h : u.get (ctlState b) t 0 = fnOff) :
    (u.then (engineReset t c)).get (ctlState b) t 0 = fnOff := by
  by_cases hc : c = b
  · exact hc ▸ ctlState_engineReset t c
  · have hreg : (ctlState b).reg ∉ [ctlReg c] := by
      rw [ctlState_eq, List.mem_singleton]
      exact fun he => hc (ctlReg_injective he).symm
    rw [then_engineReset]
    exact ctlState_abandonEngine c t ((get_of_showsIn (turnsOff_showsIn t c) hreg t 0).trans h)

theorem erst_engineReset (t : Nat) (b : Engine) (j ix : Nat) : (u.then (engineReset t b)).reg .PRT_ERST j ix = u.reg .PRT_ERST j ix := by
  obtain ⟨-, hne⟩ := ctlReg_ne b
  rw [then_engineReset, erst_abandonEngine]
  exact reg_off u ((turnsOff_showsIn t b).mono fun _ => Eff.off_of_showsIn (by simpa using hne.symm)) j ix

/-! ## The write -/

theorem then_engineResetX (h : s.lands q k .PRT_ERST 0 true = some (kt, x)) (engines : Nat) : s.then (engineResetX q k engines) =
    ((s.then (setF F.PRT_ERST_ENG kt (s.get F.PRT_ERST_ENG kt 0 ||| engines % 2 ^ 7))).then
      (.each (newResets (s.get F.PRT_ERST_ENG kt 0) engines) fun j => engineReset kt (erstEngine j))).then
        (regErr .PRT kt q 0x10008 (if engines / 2 ^ 7 = 0 then [] else [causeRsvd])) := by
  have hacc := then_accessReg (k := fun t _ => fun s =>
    Act.seq [setF F.PRT_ERST_ENG t (s.get F.PRT_ERST_ENG t 0 ||| maskList (newResets (s.get F.PRT_ERST_ENG t 0) engines)),
      .each (newResets (s.get F.PRT_ERST_ENG t 0) engines) fun k => engineReset t (erstEngine k),
      regErr .PRT t q 0x10008 (if engines / 2 ^ 7 = 0 then [] else [causeRsvd])] s) h
  refine hacc.trans ?_
  rw [then_app, then_seq_cons, then_seq_cons, then_seq_cons, then_seq_nil, or_newResets]

theorem reset_turns_off (h : s.lands q k .PRT_ERST 0 true = some (kt, x)) : gives (.engineReset q k engines) s fun t =>
    t.get F.PRT_ERST_ENG kt 0 = s.get F.PRT_ERST_ENG kt 0 ||| engines % 2 ^ 7 ∧
    ∀ j, j < 7 → bitOf engines j = true → bitOf (s.get F.PRT_ERST_ENG kt 0) j = false → t.get (ctlState (erstEngine j)) kt 0 = fnOff := by
  have herr {u : State} {f : Fld} (hf : f.reg ∈ engRegs) (cs : List Nat) :
      (u.then (regErr .PRT kt q 0x10008 cs)).get f kt 0 = u.get f kt 0 := by
    refine congrArg (fun w => getBits w f.hi f.lo) (reg_regErr u .PRT kt q 0x10008 cs ?_ ?_ kt 0)
    · exact fun he => absurd (he ▸ hf) (by decide)
    · exact fun he => absurd (he ▸ hf) (by decide)
  refine done_holds fun t ht => ?_
  rw [then_engineResetX h] at ht
  refine ⟨?_, fun j hj hon hold => ?_⟩
  · have hlt : s.get F.PRT_ERST_ENG kt 0 ||| engines % 2 ^ 7 < 2 ^ 8 :=
      Nat.or_lt_two_pow (getBits_lt _ 7 0) ((Nat.mod_lt _ (by decide)).trans (by decide))
    have heach (l : List Nat) (u : State) : (u.then (.each l fun j => engineReset kt (erstEngine j))).get F.PRT_ERST_ENG kt 0 =
        u.get F.PRT_ERST_ENG kt 0 := by
      induction l generalizing u with
      | nil => rfl
      | cons j l ih => rw [then_each_cons, ih, State.get, State.get, F.PRT_ERST_ENG, erst_engineReset]
    rw [ht.get _ _ _ (by decide), herr (by decide), heach, get_then_setF _ _ _ _ (by decide)]
    exact Nat.mod_eq_of_lt hlt
  · obtain ⟨hcnt, -⟩ := ctlReg_ne (erstEngine j)
    have hreg : (ctlState (erstEngine j)).reg = ctlReg (erstEngine j) := by rw [ctlState_eq]
    rw [ht.get _ _ _ (hreg ▸ hcnt), herr (hreg ▸ ctlReg_mem_engRegs _)]
    exact then_each_reaches (R := fun _ => True) (Q := fun u => u.get (ctlState (erstEngine j)) kt 0 = fnOff)
      (mem_newResets.2 ⟨hj, hon, hold⟩) (fun _ _ _ _ => trivial) (fun u _ => ctlState_engineReset kt _)
      (fun i u hu => ctlState_stays_off kt _ hu) trivial

/-! ## A tile without work -/

/-- The tile has no cut, no item and no picture. -/
def State.idleTile (s : State) (t : Nat) : Prop :=
  (s.tile t).runs = [] ∧ (s.tile t).ece = [] ∧ (s.tile t).items = [] ∧ (s.tile t).sceBusy = none

/-- The registers that a reset of an idle tile's engines changes, but for those of its lanes. -/
def idleResetRegs : List Reg := [.PRT_ERST, .ARR_CTL, .SFU_CTL, .ECE_CTL, .SCE_CTL, .FXG_CTL]

theorem abandonEngine_idle (hidle : u.idleTile k) (h1 : b ≠ .ing) (h2 : b ≠ .lnk) : abandonEngine b k u = [] := by
  obtain ⟨hruns, hece, hitems, hsce⟩ := hidle
  cases b with
  | arr => simp [abandonEngine, State.lostRuns, hruns, Act.each, Act.seq, Act.none]
  | sfu => simp [abandonEngine, State.lostRuns, hruns, Act.each, Act.seq, Act.none]
  | ece => simp [abandonEngine, hece, Act.each, Act.seq, Act.none]
  | sce => simp [abandonEngine, abandonPicture, hsce]
  | smv => rfl
  | ing => exact absurd rfl h1
  | lnk => exact absurd rfl h2
  | fxg => simp [abandonEngine, abandonCores, hitems, Act.each, Act.seq, Act.none]

/-- On an idle tile the resets of engines without lanes only turn them off. -/
theorem then_engineResets_idle {l : List Nat} (hl : ∀ j ∈ l, erstEngine j ≠ .ing ∧ erstEngine j ≠ .lnk) (hidle : u.idleTile k) :
    u.then (.each l fun j => engineReset k (erstEngine j)) = u.then (.each l fun j => turnsOff k (erstEngine j)) := by
  induction l generalizing u with
  | nil => rfl
  | cons j l ih =>
    obtain ⟨h1, h2⟩ := hl j (.head _)
    have hidle' : (u.then (turnsOff k (erstEngine j))).idleTile k := by
      rw [State.idleTile, tile_of_showsIn (turnsOff_showsIn k _)]
      exact hidle
    rw [then_each_cons, then_each_cons, then_engineReset, then_def _ (abandonEngine _ _), abandonEngine_idle hidle' h1 h2, run_nil,
      ih (fun i hi => hl i (.tail _ hi)) hidle']

theorem erstEngine_no_lane {j : Nat} (hlt : j < 7) (h4 : j ≠ 4) (h5 : j ≠ 5) : erstEngine j ≠ .ing ∧ erstEngine j ≠ .lnk ∧
    ctlReg (erstEngine j) ∈ idleResetRegs := by
  interval_cases j <;> simp_all [erstEngine, ctlReg, idleResetRegs]

theorem idle_reset (h : s.lands q k .PRT_ERST 0 true = some (kt, x)) (hlt : engines < 2 ^ 7) (h4 : bitOf engines 4 = false)
    (h5 : bitOf engines 5 = false) (hidle : s.idleTile kt) : gives (.engineReset q k engines) s fun t =>
      sameRegs idleResetRegs s t ∧ sameMem s t ∧ sameContexts s t := by
  have hnew : ∀ j ∈ newResets (s.get F.PRT_ERST_ENG kt 0) engines, erstEngine j ≠ .ing ∧ erstEngine j ≠ .lnk ∧
      ctlReg (erstEngine j) ∈ idleResetRegs := fun j hj => by
    obtain ⟨hj7, hon, -⟩ := mem_newResets.1 hj
    exact erstEngine_no_lane hj7 (fun e => by simp [e, h4] at hon) fun e => by simp [e, h5] at hon
  have hset : AllEff (Eff.showsIn idleResetRegs) (.seq [setF F.PRT_ERST_ENG kt (s.get F.PRT_ERST_ENG kt 0 ||| engines % 2 ^ 7),
      .each (newResets (s.get F.PRT_ERST_ENG kt 0) engines) fun j => turnsOff kt (erstEngine j)]) := by
    refine .seq fun a ha => ?_
    simp only [List.mem_cons, List.not_mem_nil, or_false] at ha
    rcases ha with rfl | rfl
    · exact .setF (show F.PRT_ERST_ENG.reg ∈ idleResetRegs by decide)
    · refine .each fun j hj => (turnsOff_showsIn kt _).mono fun e he => Eff.showsIn_mono ?_ he
      obtain ⟨-, -, hreg⟩ := hnew j hj
      simpa using hreg
  have hidle' : (s.then (setF F.PRT_ERST_ENG kt (s.get F.PRT_ERST_ENG kt 0 ||| engines % 2 ^ 7))).idleTile kt := hidle
  refine done_holds fun t ht => ?_
  rw [then_engineResetX h, if_pos (by omega), regErr_nil, then_none,
    then_engineResets_idle (fun j hj => ⟨(hnew j hj).1, (hnew j hj).2.1⟩) hidle', ← then_seq_nil (s.then _ |>.then _), ← then_seq_cons,
    ← then_seq_cons] at ht
  exact same_of_showsIn hset ht

/-! ## The end of an engine's reset -/

theorem erst_sub {w j : Nat} (hw : w < 2 ^ 8) : (w - 2 ^ j) % 2 ^ 8 = w - 2 ^ j := Nat.mod_eq_of_lt ((Nat.sub_le _ _).trans_lt hw)

theorem reset_done {j : Nat} (hj : erstBit b = some j) (hon : bitOf (s.get F.PRT_ERST_ENG k 0) j = true) :
    gives (.engineResetDone k b) s fun t => t.get F.PRT_ERST_ENG k 0 = s.get F.PRT_ERST_ENG k 0 - 2 ^ j ∧
      t.get (ctlState b) k 0 = (if s.get (ctlEn b) k 0 = 1 ∧ s.canEnable b k = true then fnOn else fnOff) ∧
      sameRegs [.PRT_ERST, ctlReg b] s t ∧ sameMem s t ∧ sameContexts s t := by
  obtain ⟨hcnt, hne⟩ := ctlReg_ne b
  have hreg : (ctlState b).reg = ctlReg b := by rw [ctlState_eq]
  generalize hst : (if s.get (ctlEn b) k 0 = 1 ∧ s.canEnable b k = true then fnOn else fnOff) = st
  have hlt : st < 4 := by
    rw [← hst]
    split <;> decide
  have hact : s.then (engineResetDoneX k b) =
      s.then (.eff [.fld F.PRT_ERST_ENG k 0 (s.get F.PRT_ERST_ENG k 0 - 2 ^ j), .fld (ctlState b) k 0 st]) := by
    rw [then_def, then_def, engineResetDoneX, hj]
    simp only [hon, Bool.not_true, Bool.false_eq_true, if_false, hst, Act.eff]
  have hshow : AllEff (Eff.showsIn [.PRT_ERST, ctlReg b])
      (.eff [.fld F.PRT_ERST_ENG k 0 (s.get F.PRT_ERST_ENG k 0 - 2 ^ j), .fld (ctlState b) k 0 st]) :=
    allEff_iff.2 fun v => by simp [hreg, F.PRT_ERST_ENG]
  refine done_holds fun t ht => ?_
  rw [hact] at ht
  refine ⟨?_, ?_, same_of_showsIn hshow ht⟩
  · rw [ht.get _ _ _ (by decide), then_eff, run_cons, run_cons, run_nil,
      get_run_fld_ne (by decide) (.inl (hreg ▸ hne.symm)), get_run_fld_self (by decide)]
    exact erst_sub (getBits_lt _ 7 0)
  · rw [ht.get _ _ _ (hreg ▸ hcnt), then_eff, run_cons, run_cons, run_nil, ctlState_after_state, Nat.mod_eq_of_lt hlt]

/-- Settles O11: the write's effects in each function state, the two ends of a transition, and a reset that abandons what its engines
do and leaves the control registers alone. -/
theorem engineStatesFollowEnable : Obligations.EngineStatesFollowEnable :=
  ⟨fun _ _ _ _ _ _ h hr hst hc => en_state_written h (by decide) (by decide) (enWrite_off hr hst hc),
    fun _ _ _ _ _ _ h hr hst => en_state_written h (by decide) (by decide) (enWrite_on hr hst),
    fun _ _ _ _ _ _ h hr hst hc => en_pends h hst (enWrite_disabling hr hst hc),
    fun _ _ _ _ _ _ h hr hst => en_pends h hst (enWrite_enabling hr hst),
    fun _ _ _ _ _ _ h hc => en_ignored h hc,
    fun _ _ _ _ _ _ on h hr hc => en_resetting h hr hc on,
    fun _ _ _ hrun hst => enabling_ends hrun hst,
    fun _ _ _ hrun hst hd => disabling_ends hrun hst hd,
    fun _ _ _ hst => disable_timeout hst,
    fun _ _ _ _ _ _ h => reset_turns_off h,
    fun _ _ _ _ _ _ h hlt h4 h5 hruns hece hitems hsce => idle_reset h hlt h4 h5 ⟨hruns, hece, hitems, hsce⟩,
    fun _ _ _ _ hj hon => reset_done hj hon⟩

end Sys2Proof.Machine
end

section
/-! The entropy coder's items and table sets (R115 to R127): how they start, load, are released and end. -/
namespace Sys2Proof.Machine
open Sys2Proof.Say

variable {s u : State} {k : Nat} {r : EceRun} {x : EceCx}

/-! ## Steps that change one tile and show it -/

/-- A command that changes the context of one tile and then shows registers of a list. -/
theorem same_of_updT_showsIn {l : List Reg} {f : Tile → Tile} {a : Act} {t : State} (h : AllEff (Eff.showsIn l) a)
    (ht : SnapSame ((u.then (updT k f)).then a) t) : t.tile k = f (u.tile k) ∧ sameRegs l u t ∧ sameMem u t ∧
      (∀ id, t.stream id = u.stream id) ∧ ∀ n, t.inst n = u.inst n := by
  obtain ⟨hregs, hmem, hstreams, hinsts, htiles⟩ := same_of_showsIn h ht
  exact ⟨(htiles k).trans tile_updT, hregs, hmem, hstreams, hinsts⟩

theorem syncTsets_showsIn {t : Nat} : AllEff (Eff.showsIn [.ECE_TSET, .ECE_TSETPROG]) (syncTsets t) := allEff_iff.2 fun v => by
  simp +decide [syncTsets]

theorem syncEce_showsIn {t : Nat} : AllEff (Eff.showsIn [.ECE_INFLIGHT]) (syncEce t) := allEff_iff.2 fun v => by
  simp +decide [syncEce]

/-! ## Items start -/

/-- The first item that can start is the one taken. -/
theorem then_eceStart {dec : Bool} {a : Act} (hon : s.isOn .ece k = true) (hlen : (s.tile k).ece.length < 16)
    (hnext : eceNext s dec k = some x) (htake : s.eceTake k x = some a) : s.then (eceStartX dec k) = s.then a := by
  unfold eceNext at hnext
  split at hnext
  · next hall =>
    have hgood : (eceMine s dec k).find? (fun i => !s.eceOk k (EceDesc.parse i.payload)) = none :=
      List.find?_eq_none.2 fun i hi => by simpa using List.all_eq_true.1 hall i hi
    have hfirst : (((eceMine s dec k).filterMap s.eceCx).filter s.ecePresent).findSome? (s.eceTake k) = some a := by
      rw [← List.head?_filter] at hnext
      obtain ⟨rest, hrest⟩ := List.head?_eq_some_iff.1 hnext
      rw [hrest, List.findSome?_cons, htake]
    unfold eceMine at hgood hfirst
    have hact : eceStartX dec k s = a s := by
      unfold eceStartX
      rw [if_neg (by simp [hon, hlen])]
      simp only [hgood, hfirst, Option.elim_some]
    rw [then_def, then_def, hact]
  · cases hnext

theorem gives_eceStart {dec : Bool} {a : Act} {P : State → Prop} (hon : s.isOn .ece k = true) (hlen : (s.tile k).ece.length < 16)
    (hnext : eceNext s dec k = some x) (htake : s.eceTake k x = some a) (h : ∀ t, SnapSame (s.then a) t → P t) :
    gives (eceStartOf dec k) s P := by
  have hall : ∀ t, SnapSame (s.then (eceStartX dec k)) t → P t := fun t ht => h t (then_eceStart hon hlen hnext htake ▸ ht)
  cases dec <;> exact done_holds hall

/-- What a run that begins has of its item and of its payload. -/
theorem eceBegin_eq (s : State) (t : Nat) (x : EceCx) : ∃ r : EceRun, s.then (eceBegin t x) =
      ((s.then (tsetUse t x.n x.p.id)).then (updT t fun c => { c with ece := c.ece ++ [r] })).then (syncEce t) ∧
    r.slot = x.it.slot ∧ r.stream = x.d.stream ∧ r.frame = x.f.frame ∧ r.plot = x.d.plot ∧ r.cap = x.d.cap ∧ r.addr = x.d.addr ∧
    r.prog = x.p.id ∧ (x.d.op = 1 → r.payload = s.bytes x.d.addr x.d.cap) := by
  unfold eceBegin
  rw [then_app, then_seq_cons, then_seq_cons, then_seq_cons, then_seq_nil]
  refine ⟨_, rfl, ?_⟩
  by_cases hop : x.d.op = 1
  · simp [hop]
  · simp only [hop, if_false, false_implies, and_true]
    split <;> simp

theorem item_starts {dec : Bool} {e : TSet} (hon : s.isOn .ece k = true) (hlen : (s.tile k).ece.length < 16)
    (hnext : eceNext s dec k = some x) (hset : s.tset k x.n x.p.id = some e) (hload : e.loading = false) :
    gives (eceStartOf dec k) s fun t =>
      (∃ r, (t.tile k).ece = (s.tile k).ece ++ [r] ∧ r.slot = x.it.slot ∧ r.stream = x.d.stream ∧ r.frame = x.f.frame ∧
        r.plot = x.d.plot ∧ r.cap = x.d.cap ∧ r.addr = x.d.addr ∧ r.prog = x.p.id ∧
        (x.d.op = 1 → r.payload = s.bytes x.d.addr x.d.cap)) ∧
      t.get F.ECE_INFLIGHT_ITEMS k 0 = (s.tile k).ece.length + 1 ∧ sameRegs [.ECE_INFLIGHT] s t ∧ sameMem s t ∧
      (∀ id, t.stream id = s.stream id) ∧ ∀ n, t.inst n = s.inst n := by
  have htake : s.eceTake k x = some (eceBegin k x) := by simp [State.eceTake, hset, hload]
  obtain ⟨r, hthen, hr⟩ := eceBegin_eq s k x
  have huse : ((s.then (tsetUse k x.n x.p.id)).tile k).ece = (s.tile k).ece := by rw [tsetUse, tile_updT]
  refine gives_eceStart hon hlen hnext htake fun t ht => ?_
  rw [hthen] at ht
  obtain ⟨htile, hsame⟩ := same_of_updT_showsIn syncEce_showsIn ht
  refine ⟨⟨r, ?_, hr⟩, ?_, hsame⟩
  · rw [htile, huse]
  · unfold syncEce at ht
    rw [ht.get _ _ _ (by decide), then_app, get_then_setF _ _ _ _ (by decide), tile_updT, huse, List.length_append]
    exact Nat.mod_eq_of_lt (show (s.tile k).ece.length + 1 < 32 by omega)

/-! ## Table sets -/

theorem set_starts_to_load {dec : Bool} {i : Nat} (hon : s.isOn .ece k = true) (hlen : (s.tile k).ece.length < 16)
    (hnext : eceNext s dec k = some x) (hset : s.tset k x.n x.p.id = none) (hplace : s.tsetPlace k = some i) :
    gives (eceStartOf dec k) s fun t =>
      (t.tile k).tsets = (s.tile k).tsets.filter (·.ix != i) ++ [⟨i, x.n, x.p.id, true, 0⟩] ∧ (t.tile k).ece = (s.tile k).ece ∧
      sameRegs [.ECE_TSET, .ECE_TSETPROG] s t ∧ sameMem s t := by
  have htake : s.eceTake k x = some (tsetLoad k x.n x.p.id i) := by simp [State.eceTake, hset, hplace]
  refine gives_eceStart hon hlen hnext htake fun t ht => ?_
  rw [tsetLoad, then_seq_cons, then_seq_cons, then_seq_nil] at ht
  obtain ⟨htile, hregs, hmem, -⟩ := same_of_updT_showsIn syncTsets_showsIn ht
  rw [htile]
  exact ⟨rfl, rfl, hregs, hmem⟩

theorem set_becomes_resident {e : TSet} (he : (s.tile k).tsets.find? (·.loading) = some e) : gives (.eceTsetLoadDone k) s fun t =>
      (t.tile k).tsets = ((s.tile k).tsets.map fun g => if g.ix = e.ix then { g with loading := false } else g) ∧
      sameRegs [.ECE_TSET, .ECE_TSETPROG] s t ∧ sameMem s t := by
  refine done_holds fun t ht => ?_
  have hthen : s.then (eceTsetLoadDoneX k) = (s.then (updT k fun c => { c with tsets := c.tsets.map fun g =>
      if g.ix = e.ix then { g with loading := false } else g })).then (syncTsets k) := by
    rw [then_def, eceTsetLoadDoneX, he, ← then_def, then_seq_cons, then_seq_cons, then_seq_nil]
  rw [hthen] at ht
  obtain ⟨htile, hregs, hmem, -⟩ := same_of_updT_showsIn syncTsets_showsIn ht
  rw [htile]
  exact ⟨rfl, hregs, hmem⟩

end Sys2Proof.Machine
end

section
/-! The entropy coder's items end, and the groups of a decode item are released (R49, R121, R123, R124). -/
namespace Sys2Proof.Machine
open Sys2Proof.Say

variable {s u : State} {k : Nat} {r : EceRun} {x : EceCx}

/-! ## A run leaves the ECE -/

@[simp] theorem keepsEng_eceErr {t code : Nat} {d : EceDesc} : Effs Eff.keepsEng (eceErr t code d u) := by
  simp +decide [eceErr]

@[simp] theorem keepsEng_countSteps {t : Nat} {tabs : List CdfTable} {l : List EcSym} : Effs Eff.keepsEng (countSteps t tabs l u) := by
  simp +decide [countSteps]

@[simp] theorem keepsEng_putResultLen {t slot n : Nat} : Effs Eff.keepsEng (putResultLen t slot n u) := by
  simp [putResultLen]

theorem tile_eceEnd (t slot : Nat) :
    (u.then (eceEnd t slot)).tile t = { u.tile t with ece := (u.tile t).ece.filter (·.slot != slot) } := by
  rw [eceEnd, then_seq_cons, then_seq_cons, then_seq_nil, tile_of_showsIn syncEce_showsIn, tile_updT]

theorem then_eceFinish (t st digest : Nat) (conds : List Nat) : u.then (eceFinish t r st digest conds) =
    (u.then (eceEnd t r.slot)).then (.opt ((u.qItems t eceQueue).find? (·.slot == r.slot)) fun i => finishItem t i st digest conds) := by
  unfold eceFinish
  rw [then_app, then_seq_cons, then_seq_cons, then_seq_nil]

theorem ece_eceFinish (t st digest : Nat) (conds : List Nat) :
    ((u.then (eceFinish t r st digest conds)).tile t).ece = (u.tile t).ece.filter (·.slot != r.slot) := by
  rw [then_eceFinish, ece_of_keepsEng (allEff_iff.2 fun v => by simp), tile_eceEnd]

/-- The run's item has left the chip. -/
theorem items_eceFinish (t st digest : Nat) (conds : List Nat) :
    ∀ y ∈ ((u.then (eceFinish t r st digest conds)).tile t).items, ¬ (y.q = eceQueue ∧ y.slot = r.slot) := by
  have hend : ((u.then (eceEnd t r.slot)).tile t).items = (u.tile t).items := by rw [tile_eceEnd]
  rw [then_eceFinish]
  cases hi : (u.qItems t eceQueue).find? (·.slot == r.slot) with
  | none =>
    rw [then_opt_none, hend]
    rintro y hy ⟨hq, hslot⟩
    have hin : y ∈ u.qItems t eceQueue := List.mem_filter.2 ⟨hy, by simp [hq]⟩
    simpa [hslot] using List.find?_eq_none.1 hi y hin
  | some i =>
    have hslot : i.slot = r.slot := by simpa using List.find?_some hi
    have hq : i.q = eceQueue := by simpa using (List.mem_filter.1 (List.mem_of_find?_eq_some hi)).2
    rw [then_opt_some, items_finishItem, hq, hslot]
    intro y hy
    simpa [imp_iff_not_or] using (List.mem_filter.1 hy).2

/-- Where a run ends between steps that keep the items in flight, it alone leaves. -/
theorem ece_finished_between {pre post : List Act} (hpre : AllEff Eff.keepsEng (.seq pre)) (hpost : AllEff Eff.keepsEng (.seq post))
    (t st digest : Nat) (conds : List Nat) : ((u.then (.seq (pre ++ eceFinish t r st digest conds :: post))).tile t).ece =
      (u.tile t).ece.filter (·.slot != r.slot) := by
  rw [then_seq_append, then_seq_cons, ece_of_keepsEng hpost, ece_eceFinish, ece_of_keepsEng hpre]

/-! ## Encoding -/

/-- What the plots of a stream's frames hold: for each frame its number and its plots. -/
def Lsc.plotted (l : Lsc) : List (Nat × List PlotSt) := l.frames.map fun f => (f.frame, f.plots)

theorem keepsPlots_updFrame {id frame : Nat} {g : LscFrame → LscFrame} (hf : ∀ f, (g f).frame = f.frame ∧ (g f).plots = f.plots) :
    Effs (Eff.keepsLsc Lsc.plotted) (updFrame id frame g u) := by
  refine keepsLsc_updLsc.2 fun x => ?_
  simp only [Lsc.plotted, List.map_map]
  refine List.map_congr_left fun f _ => ?_
  simp only [Function.comp]
  split <;> simp [hf]

@[simp] theorem keepsPlots_unitsOut {id frame : Nat} {bs : List Byte} : Effs (Eff.keepsLsc Lsc.plotted) (unitsOut id frame bs u) := by
  have hput : Effs (Eff.keepsLsc Lsc.plotted) (putOutput (homeOf id) id bs false false u) := by
    unfold putOutput
    dsimp only
    split <;> simp [writeBuf, Lsc.plotted]
  simp [unitsOut, stageBarrier, hput]

/-- Frames that leave keep their plots. -/
theorem keepsPlots_emitFrames {id : Nat} : AllEff (Eff.keepsLsc Lsc.plotted) (emitFrames id) := fun v =>
  effs_each fun f w => by
    have hlast {g : Lsc → List Byte} (w : State) : Effs (Eff.keepsLsc Lsc.plotted) (updLsc id (fun l => { l with lastHdr := g l }) w) :=
      keepsLsc_updLsc.2 fun _ => rfl
    have hsent {b : Bool} {n d : Nat} (w : State) : Effs (Eff.keepsLsc Lsc.plotted)
        (updFrame id f.frame (fun g => { g with emitted := b, fill := n, digest := d }) w) := keepsPlots_updFrame fun _ => ⟨rfl, rfl⟩
    simp +decide [emitFrame, hlast, hsent]

theorem spares_emitFrames {id : Nat} : AllEff Eff.spares (emitFrames id) := fun v =>
  effs_each fun f w => by simp +decide [emitFrame]

theorem keepsPlots_eceFinish {t st digest : Nat} {conds : List Nat} :
    AllEff (Eff.keepsLsc Lsc.plotted) (eceFinish t r st digest conds) := allEff_iff.2 fun v => by
  simp +decide [eceFinish, eceEnd, syncEce]

/-- The plot of a frame is coded with a payload. -/
def plotCoded (frame ix : Nat) (out : List Byte) (l : List (Nat × List PlotSt)) : Prop :=
  ∀ f ∈ l, f.1 = frame → ∀ g ∈ f.2, g.ix = ix → g.phase = .coded ∧ g.payload = out

theorem plotCoded_updPlot {id frame ix : Nat} {out : List Byte} {g : PlotSt → PlotSt}
    (hg : ∀ p, (g p).phase = .coded ∧ (g p).payload = out) :
    plotCoded frame ix out ((u.then (updPlot id frame ix g)).stream id).lsc.plotted := by
  rw [updPlot, stream_updFrame]
  intro e he hframe p hp hix
  obtain ⟨f', hf', rfl⟩ := List.mem_map.1 he
  obtain ⟨f, -, rfl⟩ := List.mem_map.1 hf'
  have hf : f.frame = frame := by
    dsimp only at hframe
    split at hframe
    · assumption
    · exact hframe
  rw [if_pos hf] at hp
  obtain ⟨p', -, rfl⟩ := List.mem_map.1 hp
  split
  · exact hg p'
  · next hne =>
    rw [if_neg hne] at hix
    exact absurd hix hne

/-- What a run that fits does, as a list of steps. -/
theorem then_encodeDone {p : Prog} (hr : (s.tile k).ece.find? (fun r => !r.dec) = some r) (hp : s.prog r.inst r.prog = some p)
    (hbad : r.bad = false) (hcap : (payloadBytes (encodeWords p.tables r.ecSyms)).length ≤ r.cap) :
    ∃ (pre : List Act) (g : PlotSt → PlotSt), AllEff Eff.keepsEng (.seq (pre ++ [updPlot r.stream r.frame r.plot g])) ∧
      (∀ q, (g q).phase = .coded ∧ (g q).payload = payloadBytes (encodeWords p.tables r.ecSyms)) ∧
      s.then (eceEncodeDoneX k) = s.then (.seq ((pre ++ [updPlot r.stream r.frame r.plot g]) ++
        eceFinish k r 0 (crc64 (payloadBytes (encodeWords p.tables r.ecSyms))) [] :: [emitFrames r.stream])) := by
  refine ⟨[countSteps k p.tables r.ecSyms,
    memWriteFrom k (r.addr + r.cap - (payloadBytes (encodeWords p.tables r.ecSyms)).length) (payloadBytes (encodeWords p.tables r.ecSyms))
      false true, putResultLen k r.slot (payloadBytes (encodeWords p.tables r.ecSyms)).length],
    fun q => { q with syms := if p.profile = some 2 then r.syms else [], phase := .coded,
                      payload := payloadBytes (encodeWords p.tables r.ecSyms) },
    allEff_iff.2 fun v => by simp, fun _ => ⟨rfl, rfl⟩, ?_⟩
  rw [then_def, then_def]
  simp only [eceEncodeDoneX, hr, hp, hbad, Bool.false_eq_true, if_false, if_neg (Nat.not_lt.2 hcap)]
  rfl

theorem encode_ends {p : Prog} (hr : (s.tile k).ece.find? (fun r => !r.dec) = some r) (hp : s.prog r.inst r.prog = some p)
    (hbad : r.bad = false) (hcap : (payloadBytes (encodeWords p.tables r.ecSyms)).length ≤ r.cap) :
    gives (.eceEncodeDone k) s fun t => (t.tile k).ece = (s.tile k).ece.filter (·.slot != r.slot) ∧
      (∀ y ∈ (t.tile k).items, ¬ (y.q = eceQueue ∧ y.slot = r.slot)) ∧
      ∀ f ∈ (t.stream r.stream).lsc.frames, f.frame = r.frame → ∀ g ∈ f.plots, g.ix = r.plot →
        g.phase = .coded ∧ g.payload = payloadBytes (encodeWords p.tables r.ecSyms) := by
  obtain ⟨pre, g, hpre, hg, hthen⟩ := then_encodeDone hr hp hbad hcap
  refine done_holds fun t ht => ?_
  rw [hthen] at ht
  refine ⟨?_, ?_, ?_⟩
  · rw [ht.tile]
    exact ece_finished_between hpre (allEff_iff.2 fun v => by simp) _ _ _ _
  · rw [ht.tile, then_seq_append, then_seq_cons, then_seq_cons, then_seq_nil]
    exact fun y hy => items_eceFinish _ _ _ _ y (items_of_spares (spares_emitFrames _) k ▸ hy)
  · have hcoded : plotCoded r.frame r.plot (payloadBytes (encodeWords p.tables r.ecSyms)) (t.stream r.stream).lsc.plotted := by
      rw [ht.stream, then_seq_append, then_seq_cons, then_seq_cons, then_seq_nil, lsc_of_keepsLsc keepsPlots_emitFrames,
        lsc_of_keepsLsc keepsPlots_eceFinish, then_seq_append, then_seq_cons, then_seq_nil]
      exact plotCoded_updPlot hg
    exact fun f hf hframe g hg hix => hcoded _ (List.mem_map_of_mem hf) hframe g hg hix

end Sys2Proof.Machine
end

section
/-! Decode items: the release of their groups (R49, R124) and their end (R121, R129); and the obligation. -/
namespace Sys2Proof.Machine
open Sys2Proof.Say

variable {s u : State} {k slot : Nat} {r : EceRun} {x : EceCx}

/-! ## Groups are released -/

theorem offInst_of_sends {l : List Eff} (h : Effs Eff.sends l) : Effs Eff.offInst l := h.mono fun e he => by
  cases e <;> trivial

/-- Making the means of a block row again stores bytes and uses free values up. -/
theorem sends_remake {p : Prog} {id ix j0 j1 : Nat} {f : LscFrame} {all bare : Bool} :
    AllEff Eff.sends (remake p id f ix j0 j1 all bare) := fun v => by
  refine effs_each fun li v => effs_opt.2 fun l _ => effs_each fun e w => effs_each fun r x => ?_
  have hat (y : RunCx) (m q : Nat) (v : State) : Effs Eff.sends (remakeAt y m q v) := by
    simp [remakeAt]
  simp [hat]

/-- What follows the release: the fences that open with the first group, and a Campion row's reference. -/
def releaseRest (x : EceCx) (r : EceRun) (vs : List (Int × Bool)) : Act :=
  .seq [.when (r.released == 0) (.seq [decFences r.stream r.frame, syncFences x.n]),
    .when (x.f.shape.camp && decide (0 < r.released) && r.released % 2 == 0) (putCampRef r.stream x.f (r.released / 2 - 1) vs)]

theorem keepsEng_releaseRest {vs : List (Int × Bool)} : AllEff Eff.keepsEng (releaseRest x r vs) := allEff_iff.2 fun v => by
  simp [releaseRest, putCampRef]

theorem offInst_releaseRest {vs : List (Int × Bool)} : AllEff Eff.offInst (releaseRest x r vs) := allEff_iff.2 fun v => by
  have hfences (id frame : Nat) (v : State) : Effs Eff.offInst (decFences id frame v) := by
    unfold decFences
    split
    · exact effs_nil
    · split
      · exact effs_nil
      · exact effs_each fun l v => effs_each fun e w => by simp [Eff.offInst]
  have hsync (n : Nat) (v : State) : Effs Eff.offInst (syncFences n v) := effs_each fun t w => by simp [syncFence, Eff.offInst]
  simp [releaseRest, putCampRef, hfences, hsync, offInst_of_sends, updFrame, updLsc, Eff.offInst]

/-- The release of a group once its models are read: the run that is released, and what follows from it. -/
theorem then_eceRelease {g : List SymAt} {ms : List (Int × Nat × Bool)} (hms : allSome (u.model x.p x.w.2.2) g = some ms) :
    ∃ (r' : EceRun) (vs : List (Int × Bool)), r'.slot = r.slot ∧ r'.released = r.released + 1 ∧
      u.then (eceRelease k slot x r g) =
        (u.then (updT k fun c => { c with ece := c.ece.map fun e => if e.slot = slot then r' else e })).then (releaseRest x r vs) := by
  rw [then_def, eceRelease]
  simp only [hms]
  refine ⟨_, _, ?_, ?_, (then_seq_cons ..)⟩ <;> rfl

/-- The command that releases a group, as the means made again and then the release. -/
theorem then_groupReady {g : List SymAt} (hr : (s.tile k).ece.find? (fun r => r.dec && r.slot == slot) = some r)
    (hx : ((s.qItems k eceQueue).find? (·.slot == slot)).bind s.eceCx = some x) (hg : x.groups[r.released]? = some g)
    (hmeans : s.meansStored x r = true) : s.then (eceGroupReadyX k slot) = (atGroup s x r).then (eceRelease k slot x r g) := by
  have hact : eceGroupReadyX k slot s = Act.seq [.when (decide (0 < r.released) && r.released % 2 == 0)
      (remake x.p r.stream x.f x.d.plot ((groupRow x.f.shape x.d.plot r.released).getD 0)
        ((groupRow x.f.shape x.d.plot r.released).getD 0 + 1) false false), eceRelease k slot x r g] s := by
    rw [eceGroupReadyX]
    simp [hr, hx, hg, hmeans]
  have hcond : (decide (0 < r.released) && r.released % 2 == 0) = decide (0 < r.released ∧ r.released % 2 = 0) := by
    simp only [Bool.decide_and, beq_eq_decide]
  rw [then_def, hact, ← then_def, then_seq_cons, then_seq_cons, then_seq_nil, then_when, hcond, atGroup]
  simp only [decide_eq_true_eq]

theorem ece_atGroup : ((atGroup s x r).tile k).ece = (s.tile k).ece := by
  unfold atGroup
  split
  · exact ece_of_keepsEng (allEff_iff.2 fun v => by simp) k
  · rfl

theorem insts_atGroup : (atGroup s x r).insts = s.insts := by
  unfold atGroup
  split
  · exact insts_of_sends sends_remake
  · rfl

theorem group_released {g : List SymAt} {ms : List (Int × Nat × Bool)}
    (hr : (s.tile k).ece.find? (fun r => r.dec && r.slot == slot) = some r)
    (hx : ((s.qItems k eceQueue).find? (·.slot == slot)).bind s.eceCx = some x) (hg : x.groups[r.released]? = some g)
    (hmeans : s.meansStored x r = true) (hms : allSome ((atGroup s x r).model x.p x.w.2.2) g = some ms) :
    gives (.eceGroupReady k slot) s fun t => (∃ u ∈ (t.tile k).ece, u.slot = slot ∧ u.released = r.released + 1) ∧
      (t.tile k).ece.length = (s.tile k).ece.length ∧ ∀ n, t.inst n = s.inst n := by
  obtain ⟨r', vs, hslot', hrel, hthen⟩ := then_eceRelease (k := k) (slot := slot) (r := r) hms
  have hslot : r.slot = slot := by
    have := List.find?_some hr
    simp only [Bool.and_eq_true, beq_iff_eq] at this
    exact this.2
  refine done_holds fun t ht => ?_
  rw [then_groupReady hr hx hg hmeans, hthen] at ht
  have hece : (t.tile k).ece = (s.tile k).ece.map fun e => if e.slot = slot then r' else e := by
    rw [ht.tile, ece_of_keepsEng keepsEng_releaseRest, tile_updT, ece_atGroup]
  have hinsts : t.insts = s.insts := by
    rw [ht.insts, insts_off _ offInst_releaseRest, insts_off _ (allEff_iff.2 fun v => by simp [Eff.offInst]), insts_atGroup]
  refine ⟨⟨r', ?_, hslot'.trans hslot, hrel⟩, ?_, fun n => ?_⟩
  · rw [hece]
    exact List.mem_map.2 ⟨r, List.mem_of_find?_eq_some hr, if_pos hslot⟩
  · rw [hece, List.length_map]
  · rw [State.inst, State.inst, hinsts]

/-! ## Decode items end -/

/-- The oldest decode run, where it has come to an end, is the one that completes. -/
theorem first_ended (hr : ((s.tile k).ece.filter (·.dec)).head? = some r)
    (hx : ((s.qItems k eceQueue).find? (·.slot == r.slot)).bind s.eceCx = some x)
    (hend : r.decEnd x.p.tables x.groups.length ≠ .wait) :
    (((s.tile k).ece.filter (·.dec)).filterMap fun r =>
      ((s.qItems k eceQueue).find? (·.slot == r.slot)).bind s.eceCx |>.map fun x =>
        (r, x, r.decEnd x.p.tables x.groups.length)).find? (fun e => e.2.2 != .wait) =
      some (r, x, r.decEnd x.p.tables x.groups.length) := by
  obtain ⟨rest, hrest⟩ := List.head?_eq_some_iff.1 hr
  rw [hrest, List.filterMap_cons]
  simp only [hx, Option.map_some]
  exact List.find?_cons_of_pos (bne_iff_ne.2 hend)

/-- What a decode run that has ended does: steps that keep the items in flight, its end, and more such steps. -/
theorem then_decodeDone (hr : ((s.tile k).ece.filter (·.dec)).head? = some r)
    (hx : ((s.qItems k eceQueue).find? (·.slot == r.slot)).bind s.eceCx = some x)
    (hend : r.decEnd x.p.tables x.groups.length ≠ .wait) :
    ∃ (pre post : List Act) (st digest : Nat) (conds : List Nat), AllEff Eff.keepsEng (.seq pre) ∧ AllEff Eff.keepsEng (.seq post) ∧
      s.then (eceDecodeDoneX k) = s.then (.seq (pre ++ eceFinish k r st digest conds :: post)) := by
  rw [then_def, eceDecodeDoneX]
  simp only [first_ended hr hx hend]
  cases he : r.decEnd x.p.tables x.groups.length with
  | wait => exact absurd he hend
  | poison =>
    refine ⟨[eceErr k 7 x.d], [losePlot r.stream r.frame r.plot, frameTaps r.stream r.frame], 0x0201, 0, [0x0201], ?_, ?_, rfl⟩ <;>
      exact allEff_iff.2 fun v => by simp
  | fail c =>
    refine ⟨[countSteps k x.p.tables (r.before x.p.tables), eceErr k c x.d],
      [losePlot r.stream r.frame r.plot, frameTaps r.stream r.frame], 0x0203, 0, [0x0203],
      allEff_iff.2 fun v => by simp, allEff_iff.2 fun v => by simp, ?_⟩
    rw [← then_def, then_seq_cons, then_seq_cons, then_seq_nil]
    exact (then_seq_cons ..).symm
  | ok vs =>
    refine ⟨[countSteps k x.p.tables { r with syms := (vs.zip r.syms).map fun v => (v.1, v.2.2) : EceRun }.ecSyms,
        .each (x.groups.flatten.zip vs) fun e => putTensor x.p (if e.1.z then x.w.2.1 else x.w.1) e.1.r e.1.q e.1.k e.2 false,
        updPlot r.stream r.frame r.plot fun g => { g with
          phase := .decoded, syms := if x.f.shape.camp then (vs.zip r.syms).map fun v => (v.1, v.2.2) else [] }],
      [decFences r.stream r.frame, syncFences x.n, frameTaps r.stream r.frame], 0, crc64 (int16Bytes vs), [],
      allEff_iff.2 fun v => by simp, allEff_iff.2 fun v => by simp, ?_⟩
    exact (then_def ..).symm

theorem decode_ends (hr : ((s.tile k).ece.filter (·.dec)).head? = some r)
    (hx : ((s.qItems k eceQueue).find? (·.slot == r.slot)).bind s.eceCx = some x)
    (hend : r.decEnd x.p.tables x.groups.length ≠ .wait) :
    gives (.eceDecodeDone k) s fun t => (t.tile k).ece = (s.tile k).ece.filter (·.slot != r.slot) := by
  obtain ⟨pre, post, st, digest, conds, hpre, hpost, hthen⟩ := then_decodeDone hr hx hend
  refine done_holds fun t ht => ?_
  rw [ht.tile, hthen, ece_finished_between hpre hpost]

/-- Settles O26: an item that starts, a table set and a release each change the tile's context in one step; an item that ends leaves it
between steps that keep the other items in flight. -/
theorem entropyItemsRun : Obligations.EntropyItemsRun :=
  ⟨fun _ _ _ _ _ => item_starts, fun _ _ _ _ _ => set_starts_to_load, fun _ _ _ => set_becomes_resident,
    fun _ _ _ _ => encode_ends, fun _ _ _ _ _ _ _ => group_released, fun _ _ _ _ => decode_ends⟩

end Sys2Proof.Machine
end

section
/-! What steps leave of a stream's context and of the registers, and what memory reads once bytes are stored (R24, R318 to R321, R341). -/
namespace Sys2Proof.Machine

variable {α : Type} {v : Stream → α} {u : State} {a : Act}

/-! ## A stream's context -/

/-- The effect leaves what `v` takes of every stream's context. -/
@[simp] def Eff.keepsOf (v : Stream → α) : Eff → Prop
  | .stream _ f => ∀ x, v (f x) = v x
  | _ => True

theorem stream_of_keepsOf (h : AllEff (Eff.keepsOf v) a) (id : Nat) : v ((u.then a).stream id) = v (u.stream id) := by
  refine run_keeps u (a u) (P := fun w => v (w.stream id) = v (u.stream id)) (fun w hw e he => ?_) rfl
  cases e with
  | stream n f =>
    rw [stream_run]
    split
    · next hn => exact (h u _ he (w.stream n)).trans (hn ▸ hw)
    · exact hw
  | mem b bs => simpa [State.stream, Eff.run] using hw
  | _ => exact hw

/-- What stores or sends leaves every stream's context. -/
@[simp] theorem keepsOf_of_sends {l : List Eff} (h : Effs Eff.sends l) : Effs (Eff.keepsOf v) l := h.mono fun e he => by
  cases e with
  | stream => exact he.elim
  | _ => trivial

@[simp] theorem keepsOf_countConditions {id : Nat} {l : List Nat} : Effs (Eff.keepsOf v) (countConditions id l u) :=
  effs_each fun st w => by simp

/-- The completion of a request changes a stream's window alone. -/
@[simp] theorem keepsOf_completeReq (hv : ∀ x w, v { x with window := w } = v x) {n st id digest : Nat} {r : LiveReq} :
    Effs (Eff.keepsOf v) (completeReq n r st id digest u) := by
  unfold completeReq updW
  simp only [effs_seq_cons, effs_ite_act]
  simp [hv]

@[simp] theorem keepsOf_completeHeld (hv : ∀ x w, v { x with window := w } = v x) {n st id digest : Nat} {r : LiveReq} :
    Effs (Eff.keepsOf v) (completeHeld n r st id digest u) := by
  simp [completeHeld, hv]

/-! ## Registers -/

theorem Eff.off_of_sends {r : Reg} (hr : r ∉ sentRegs) {e : Eff} (h : e.sends) : e.off r := by
  cases e with
  | fld f | countU f => exact fun hf => hr (hf ▸ h)
  | tile | mem | poison | bale | pkg | emit | draw => trivial
  | _ => exact h.elim

theorem off_of_sends {r : Reg} (hr : r ∉ sentRegs) {l : List Eff} (h : Effs Eff.sends l) : Effs (Eff.off r) l :=
  h.mono fun _ => Eff.off_of_sends hr

theorem off_completeReq {r : Reg} (hr : r ∉ sentRegs) {n st id digest : Nat} {q : LiveReq} :
    Effs (Eff.off r) (completeReq n q st id digest u) := by
  have hdeliver (o : Origin) (c : Cpl) (w : State) : Effs (Eff.off r) (deliver o c w) := off_of_sends hr sends_deliver
  unfold completeReq updW
  simp only [effs_seq_cons, effs_ite_act]
  simp [hdeliver, Eff.off]

theorem off_completeHeld {r : Reg} (hr : r ∉ sentRegs) {n st id digest : Nat} {q : LiveReq} :
    Effs (Eff.off r) (completeHeld n q st id digest u) := by
  simp [completeHeld, off_completeReq hr]

/-- The counters of the conditions (R341). -/
theorem off_countConditions {r : Reg} (hr : r ∉ [Reg.SMV_SCOND0, .SMV_SCOND1, .SMV_SCOND2]) {id : Nat} {l : List Nat} :
    Effs (Eff.off r) (countConditions id l u) := effs_each fun st w => effs_opt.2 fun f hf => effs_countS.2 fun hreg => by
  subst hreg
  unfold condCounter at hf
  split at hf <;> cases hf <;> simp +decide at hr

theorem get_of_off {f : Fld} (h : AllEff (Eff.off f.reg) a) (t ix : Nat) : (u.then a).get f t ix = u.get f t ix :=
  congrArg (fun w => getBits w f.hi f.lo) (reg_off u h t ix)

theorem get_count_ne {f g : Fld} (hg : g.ok = true) (h : g.reg ≠ f.reg ∨ f.hi < g.lo ∨ g.hi < f.lo) (t n t' ix : Nat) :
    (u.then (count f t n)).get g t' ix = u.get g t' ix := get_setF_ne u f g _ _ _ _ _ hg h

/-! ## Memory -/

/-- A write stores its bytes and no other. -/
theorem byte_memWrite (b : Nat) (bs : List Byte) (pz ask : Bool) (x : Nat) : (u.then (memWrite b bs pz ask)).byte x =
    if b ≤ x ∧ x < b + bs.length then bs.getD (x - b) 0 else u.byte x := by
  have hrest (w : State) : Effs Eff.offMem (Act.seq [poisonWrite b bs.length fun _ => pz,
      .when (isHbm b) (.each (blocks b bs.length) fun k => .seq [baleBlock b bs.length ask k, wcInvalidate k])] w) := by
    have hpoison (w : State) : Effs Eff.offMem (poisonWrite b bs.length (fun _ => pz) w) := fun e he => by
      obtain ⟨g, -, hg⟩ := List.mem_filterMap.1 he
      split_ifs at hg <;> cases hg <;> trivial
    simp [hpoison, baleBlock, wcInvalidate, Eff.offMem]
  have hthen : u.then (memWrite b bs pz ask) = (Eff.run u (.mem b bs)).then (.seq [poisonWrite b bs.length fun _ => pz,
      .when (isHbm b) (.each (blocks b bs.length) fun k => .seq [baleBlock b bs.length ask k, wcInvalidate k])]) :=
    then_seq_cons u (.eff [.mem b bs]) _
  rw [hthen, State.byte, mem_off _ (allEff_iff.2 hrest), ← State.byte]
  exact byte_setBytes u b bs x

theorem bytes_memWrite (b : Nat) (bs : List Byte) (pz ask : Bool) : (u.then (memWrite b bs pz ask)).bytes b bs.length = bs := by
  refine List.ext_getElem (by simp [State.bytes]) fun i hi hbs => ?_
  simp [State.bytes, byte_memWrite, hbs]

theorem pkg_memWrite (b : Nat) (bs : List Byte) (pz ask : Bool) : (u.then (memWrite b bs pz ask)).pkg = u.pkg := by
  have hpoison (w : State) : Effs Eff.offPkg (poisonWrite b bs.length (fun _ => pz) w) := fun e he => by
    obtain ⟨g, -, hg⟩ := List.mem_filterMap.1 he
    split_ifs at hg <;> cases hg <;> trivial
  exact pkg_off u (allEff_iff.2 fun w => by simp [memWrite, memWriteG, hpoison, baleBlock, wcInvalidate, Eff.offPkg])

theorem length_toLe (n x : Nat) : (toLe n x).length = n := by
  induction n generalizing x with
  | zero => rfl
  | succ n ih => exact congrArg (· + 1) (ih _)

end Sys2Proof.Machine
end

section
/-! The Paddock port (R181 to R184, R368): what its parser makes of a frame, and the labels that a paired response gives. -/
namespace Sys2Proof.Machine
open Sys2Proof.Say

variable {s : State}

/-- With `EN` set, a good frame is parsed. -/
theorem then_paddockParsed (hon : s.isOn .lnk paddockTile = true) (hlock : s.padLock = true)
    (hen : s.get F.LNK_LBLCTL_EN paddockTile 0 = 1) (b : PadBody) : s.then (paddockFrameRxX true b) = s.then (paddockBody b) :=
  then_congr (by simp [paddockFrameRxX, hon, hlock, hen])

/-- A frame that fails its check is counted, whatever `EN` says. -/
theorem then_paddockDropped (hon : s.isOn .lnk paddockTile = true) (hlock : s.padLock = true) (b : PadBody) :
    s.then (paddockFrameRxX false b) = s.then (.seq [count F.LNK_RXDROP_COUNT paddockTile 1, lnkErr paddockTile 1 0 0]) :=
  then_congr (by simp [paddockFrameRxX, hon, hlock])

/-! ## Counters -/

/-- A command that counts in one register of the Paddock port alone. -/
theorem same_of_count {f : Fld} {t : State} (k n : Nat) (ht : SnapSame (s.then (count f k n)) t) :
    sameRegs [f.reg] s t ∧ sameMem s t ∧ sameContexts s t :=
  same_of_showsIn (allEff_iff.2 fun u => by simp) ht

theorem secured_counted (hon : s.isOn .lnk paddockTile = true) (hlock : s.padLock = true)
    (hen : s.get F.LNK_LBLCTL_EN paddockTile 0 = 1) : gives (.paddockFrameRx true .secured) s fun t =>
      t.get F.LNK_LBLCNT1_SECURED paddockTile 0 = min 0xFFFF (s.get F.LNK_LBLCNT1_SECURED paddockTile 0 + 1) ∧
      sameRegs [.LNK_LBLCNT1] s t ∧ sameMem s t ∧ sameContexts s t := by
  refine done_holds fun t ht => ?_
  rw [then_paddockParsed hon hlock hen] at ht
  exact ⟨(ht.get _ _ _ (by decide)).trans (get_count (by decide) _ _), same_of_count _ _ ht⟩

theorem badFrame_dropped (hon : s.isOn .lnk paddockTile = true) (hlock : s.padLock = true) (b : PadBody) :
    gives (.paddockFrameRx false b) s fun t =>
      t.get F.LNK_RXDROP_COUNT paddockTile 0 = min 0xFFFFFFFF (s.get F.LNK_RXDROP_COUNT paddockTile 0 + 1) ∧
      t.get F.LNK_ERRSTAT_CODE paddockTile 0 = 1 ∧ sameRegs [.LNK_RXDROP, .LNK_ERRSTAT, .LNK_ERRCNT] s t ∧ sameMem s t := by
  have hshows : AllEff (Eff.showsIn [.LNK_RXDROP, .LNK_ERRSTAT, .LNK_ERRCNT])
      (.seq [count F.LNK_RXDROP_COUNT paddockTile 1, lnkErr paddockTile 1 0 0]) := allEff_iff.2 fun u => by
    simp +decide [lnkErr, blockErr]
  have herr : AllEff (Eff.off .LNK_RXDROP) (lnkErr paddockTile 1 0 0) := allEff_iff.2 fun u => by
    simp +decide [lnkErr, blockErr, Eff.off]
  refine done_holds fun t ht => ?_
  rw [then_paddockDropped hon hlock] at ht
  obtain ⟨hregs, hmem, -⟩ := same_of_showsIn hshows ht
  simp only [then_seq_cons, then_seq_nil] at ht
  refine ⟨?_, ?_, hregs, hmem⟩
  · rw [ht.get _ _ _ (by decide), get_of_off herr, get_count (by decide)]
    rfl
  · rw [ht.get _ _ _ (by decide), then_def]
    exact get_run_fld _ (f := F.LNK_ERRSTAT_CODE) (by decide) _ 0 1 [_] [_, _, .fld F.LNK_ERRCNT_COUNT paddockTile 0 _]
      (by simp +decide [Eff.offF])

/-! ## Requests -/

/-- A request waits for its response, in the place of an earlier one of its transaction. -/
def Pkg.await (m : MbReq) (p : Pkg) : Pkg := { p with mbs := p.mbs.filter (fun x => !(x.tuple == m.tuple && x.tid == m.tid)) ++ [m] }

/-- A command that changes the package's context and then shows registers of a list. -/
theorem same_of_updP_showsIn {l : List Reg} {f : Pkg → Pkg} {a : Act} {t : State} (h : AllEff (Eff.showsIn l) a)
    (ht : SnapSame ((s.then (updP f)).then a) t) : sameRegs l s t ∧ sameMem s t ∧ sameContexts s t :=
  same_of_showsIn (u := s.then (updP f)) h ht

/-- A request that asks for no binding's registers counts. -/
theorem then_modbusReq (tu tid sv un fc a n : Nat) : s.then (paddockBody (.modbusReq tu tid sv un fc a n)) =
    (s.then (updP (Pkg.await ⟨tu, tid, sv, un, fc, a, n, false⟩))).then
      (.when (!s.modbusBound sv un fc a n) (count F.LNK_LBLCNT0_UNMATCHED paddockTile 1)) := by
  simp only [paddockBody, then_seq_cons, then_seq_nil]
  rfl

theorem modbusRequest_waits (hon : s.isOn .lnk paddockTile = true) (hlock : s.padLock = true)
    (hen : s.get F.LNK_LBLCTL_EN paddockTile 0 = 1) (tu tid sv un fc a n : Nat) :
    gives (.paddockFrameRx true (.modbusReq tu tid sv un fc a n)) s fun t =>
      (⟨tu, tid, sv, un, fc, a, n, false⟩ : MbReq) ∈ t.pkg.mbs ∧
      t.get F.LNK_LBLCNT0_UNMATCHED paddockTile 0 = (if s.modbusBound sv un fc a n = true then s.get F.LNK_LBLCNT0_UNMATCHED paddockTile 0
        else min F.LNK_LBLCNT0_UNMATCHED.maxVal (s.get F.LNK_LBLCNT0_UNMATCHED paddockTile 0 + 1)) ∧
      t.get F.LNK_LBLCNT0_LABELS paddockTile 0 = s.get F.LNK_LBLCNT0_LABELS paddockTile 0 ∧
      sameRegs [.LNK_LBLCNT0] s t ∧ sameMem s t ∧ sameContexts s t := by
  refine done_holds fun t ht => ?_
  rw [then_paddockParsed hon hlock hen, then_modbusReq] at ht
  refine ⟨?_, ?_, ?_, same_of_updP_showsIn (allEff_iff.2 fun u => by simp +decide) ht⟩
  · rw [ht.pkg_rest, then_when]
    split <;> exact List.mem_append_right _ (List.mem_singleton.2 rfl)
  · rw [ht.get _ _ _ (by decide), then_when]
    cases s.modbusBound sv un fc a n
    · exact get_count (by decide) _ _
    · rfl
  · rw [ht.get _ _ _ (by decide), then_when]
    split
    · exact get_count_ne (by decide) (by decide) _ _ _ _
    · rfl

/-- A request pairs no more (R183). -/
def Pkg.expire (tu tid : Nat) (p : Pkg) : Pkg := { p with mbs := p.mbs.filter fun m => !(m.tuple == tu && m.tid == tid) }

theorem pair_expires (tu tid : Nat) : gives (.modbusPairExpiry tu tid) s fun t =>
    t.pkg.mbs = s.pkg.mbs.filter (fun m => !(m.tuple == tu && m.tid == tid)) ∧ sameRegs [] s t ∧ sameMem s t ∧ sameContexts s t :=
  done_holds fun t ht => ⟨by rw [ht.pkg_rest]; rfl, same_of_updP_showsIn (f := Pkg.expire tu tid) (a := .none) (allEff_iff.2 fun u => effs_none) ht⟩

theorem lock_follows (lock : Bool) : gives (.paddockLockChange lock) s fun t => t.get F.LNK_LANESTAT_LOCK paddockTile 0 = b2n lock ∧
    sameRegs [.LNK_LANESTAT] s t ∧ sameMem s t ∧ sameContexts s t := by
  refine done_holds fun t ht => ⟨?_, same_of_showsIn (allEff_iff.2 fun u => by simp +decide [paddockLockChangeX]) ht⟩
  rw [ht.get _ _ _ (by decide)]
  exact (get_then_setF s _ _ _ (by decide)).trans (Nat.mod_eq_of_lt ((b2n_lt_two lock).trans (by decide)))

/-! ## Responses -/

/-- A transaction has its answer. -/
def Pkg.answer (tu tid : Nat) (p : Pkg) : Pkg :=
  { p with mbs := p.mbs.map fun x => if x.tuple = tu ∧ x.tid = tid then { x with answered := true } else x }

theorem answered_of_answer {tu tid : Nat} {p : Pkg} : ∀ x ∈ (p.answer tu tid).mbs, x.tuple = tu → x.tid = tid → x.answered = true := by
  intro x hx htu htid
  obtain ⟨y, -, rfl⟩ := List.mem_map.1 hx
  by_cases hy : y.tuple = tu ∧ y.tid = tid
  · simp only [if_pos hy]
  · simp only [if_neg hy] at htu htid
    exact absurd ⟨htu, htid⟩ hy

/-- The first good response with as many registers as were asked for, and one binding, answers its request and gives one label. -/
theorem then_modbusRsp {m : MbReq} {e : LblBind} {raw : Num} {isb : Bool} {tu tid sv un fc : Nat} {regs : List Nat}
    (hm : s.pkg.mbs.find? (fun m => m.tuple == tu && m.tid == tid) = some m) (hans : m.answered = false)
    (hlen : regs.length = m.count) (hls : s.modbusLabels m sv un fc regs = [(e, raw, isb)]) :
    s.then (paddockBody (.modbusRsp tu tid sv un fc false regs)) = (s.then (updP (Pkg.answer tu tid))).then (putLabel e raw isb) := by
  have hthen : s.then (paddockBody (.modbusRsp tu tid sv un fc false regs)) = s.then (.seq [updP (Pkg.answer tu tid),
      .each [(e, raw, isb)] fun l => putLabel l.1 l.2.1 l.2.2]) :=
    then_congr (by simp only [paddockBody, hm, hans, hlen, hls]; simp; rfl)
  rw [hthen]
  simp only [then_seq_cons, then_each_cons, then_seq_nil, then_each_nil]

/-- The place of a binding's next label in its ring. -/
def LblBind.next (b : LblBind) : Nat := b.ring + 16 * (b.seq % (b.pages * 256))

/-- A binding has given one label more. -/
def Pkg.labelled (ix : Nat) (p : Pkg) : Pkg :=
  { p with lbls := p.lbls.map fun x => if x.ix = ix then { x with seq := x.seq + 1 } else x }

theorem length_labelRecord (ptime value seq bind : Nat) (isb : Bool) : (labelRecord ptime value seq bind isb).length = 16 := by
  simp [labelRecord, length_toLe]

theorem then_putLabel {e b : LblBind} (raw : Num) (isb : Bool) (hb : s.pkg.lbls.find? (·.ix == e.ix) = some b)
    (hdev : s.inDev b.inst b.next 16 = true) : s.then (putLabel e raw isb) =
      ((s.then (memWrite b.next (labelRecord s.now (lblValue b raw) b.seq b.ix isb) false false)).then
        (updP (Pkg.labelled b.ix))).then
        (count F.LNK_LBLCNT0_LABELS paddockTile 1) := by
  unfold LblBind.next at *
  have hthen : s.then (putLabel e raw isb) = s.then (.seq [memWrite (b.ring + 16 * (b.seq % (b.pages * 256)))
      (labelRecord s.now (lblValue b raw) b.seq b.ix isb) false false,
      updP (Pkg.labelled b.ix),
      count F.LNK_LBLCNT0_LABELS paddockTile 1]) :=
    then_congr (by simp only [putLabel, hb, hdev]; rfl)
  rw [hthen]
  simp only [then_seq_cons, then_seq_nil]

/-- A label is stored at its place and nowhere else, and counted. -/
theorem putLabel_stores {e b : LblBind} (raw : Num) (isb : Bool) (hb : s.pkg.lbls.find? (·.ix == e.ix) = some b)
    (hdev : s.inDev b.inst b.next 16 = true) :
    (s.then (putLabel e raw isb)).bytes b.next 16 = labelRecord s.now (lblValue b raw) b.seq b.ix isb ∧
    sameMemBut b.next 16 s (s.then (putLabel e raw isb)) ∧
    (s.then (putLabel e raw isb)).get F.LNK_LBLCNT0_LABELS paddockTile 0 =
      min 0xFFFF (s.get F.LNK_LBLCNT0_LABELS paddockTile 0 + 1) ∧ (s.then (putLabel e raw isb)).pkg.mbs = s.pkg.mbs := by
  rw [then_putLabel raw isb hb hdev]
  have hrec := length_labelRecord s.now (lblValue b raw) b.seq b.ix isb
  generalize labelRecord _ _ _ _ _ = r at hrec ⊢
  have hwrite : AllEff (Eff.off .LNK_LBLCNT0) (memWrite b.next r false false) := fun w => off_of_sends (by decide) sends_memWrite
  refine ⟨?_, fun x hx => ?_, ?_, ?_⟩
  · have hread := bytes_memWrite (u := s) b.next r false false
    rwa [hrec] at hread
  · have hread := byte_memWrite (u := s) b.next r false false x
    rwa [hrec, if_neg hx] at hread
  · rw [get_count (by decide)]
    exact congrArg (fun n => min 0xFFFF (n + 1)) (get_of_off (f := F.LNK_LBLCNT0_LABELS) hwrite _ _)
  · show (s.then (memWrite b.next r false false)).pkg.mbs = s.pkg.mbs
    rw [pkg_memWrite]

theorem modbusResponse_labels {m : MbReq} {e b : LblBind} {raw : Num} {isb : Bool} {tu tid sv un fc : Nat} {regs : List Nat}
    (hon : s.isOn .lnk paddockTile = true) (hlock : s.padLock = true) (hen : s.get F.LNK_LBLCTL_EN paddockTile 0 = 1)
    (hm : s.pkg.mbs.find? (fun m => m.tuple == tu && m.tid == tid) = some m) (hans : m.answered = false)
    (hlen : regs.length = m.count) (hls : s.modbusLabels m sv un fc regs = [(e, raw, isb)])
    (hb : s.pkg.lbls.find? (·.ix == e.ix) = some b) (hdev : s.inDev b.inst b.next 16 = true) :
    gives (.paddockFrameRx true (.modbusRsp tu tid sv un fc false regs)) s fun t =>
      t.bytes b.next 16 = labelRecord s.now (lblValue b raw) b.seq b.ix isb ∧ sameMemBut b.next 16 s t ∧
      t.get F.LNK_LBLCNT0_LABELS paddockTile 0 = min 0xFFFF (s.get F.LNK_LBLCNT0_LABELS paddockTile 0 + 1) ∧
      ∀ x ∈ t.pkg.mbs, x.tuple = tu → x.tid = tid → x.answered = true := by
  refine done_holds fun t ht => ?_
  rw [then_paddockParsed hon hlock hen, then_modbusRsp hm hans hlen hls] at ht
  obtain ⟨hbytes, hrest, hcount, hmbs⟩ := putLabel_stores (s := s.then (updP (Pkg.answer tu tid))) raw isb hb hdev
  have hbyte (x : Nat) := ht.byte x
  refine ⟨?_, fun x hx => (hbyte x).trans (hrest x hx), (ht.get _ _ _ (by decide)).trans hcount, ?_⟩
  · rw [State.bytes, List.map_congr_left fun i _ => hbyte _]
    exact hbytes
  · rw [ht.pkg_rest]
    exact fun x hx => answered_of_answer x (hmbs ▸ hx)

/-- Settles O33: a frame is dropped, or parsed to a wait, a count, or one stored label. -/
theorem paddockFramesGiveLabels : Obligations.PaddockFramesGiveLabels :=
  ⟨fun _ tu tid sv un fc a n hon hlock hen => modbusRequest_waits hon hlock hen tu tid sv un fc a n,
    fun _ _ _ _ _ _ _ _ _ _ _ _ hon hlock hen hm hans hlen hls hb hdev =>
      modbusResponse_labels hon hlock hen hm hans hlen hls hb hdev,
    fun _ hon hlock hen => secured_counted hon hlock hen,
    fun _ b hon hlock => badFrame_dropped hon hlock b,
    fun _ tu tid => pair_expires tu tid,
    fun _ lock => lock_follows lock⟩

end Sys2Proof.Machine
end

section
/-! The tables of labels, publish channels and Movon peers (R182, R367, R375): when a write reads them, and what it leaves. -/
namespace Sys2Proof.Machine
open Sys2Proof.Say

variable {s u w : State} {a : Act} {q : Requester} {r : Reg} {t kt x : Nat}

/-! ## Where the control words stand -/

theorem keyTile_of_lands {e : Nat} {wr : Bool} (h : s.lands q t r e wr = some (kt, x)) : s.keyTile r t = some kt := by
  unfold State.lands at h
  split at h
  · obtain ⟨k, hk, hkx⟩ := Option.map_eq_some_iff.1 h
    exact hk.trans (congrArg some (Prod.mk.inj hkx).1)
  · cases h

/-- A register of the package stands under the package's number. -/
theorem pkgTile_of_lands {e : Nat} {wr : Bool} (hr : r.place.home = .pkg) (h : s.lands q t r e wr = some (kt, x)) : kt = pkgTile := by
  have hkey := keyTile_of_lands h
  unfold State.keyTile at hkey
  rw [hr] at hkey
  dsimp only at hkey
  split at hkey
  · exact (Option.some.inj hkey).symm
  · cases hkey

/-- A register of one tile stands under that tile's number. -/
theorem tile_of_lands {e n : Nat} {wr : Bool} (hr : r.place.home = .fixed n) (h : s.lands q n r e wr = some (kt, x)) : kt = n := by
  have hkey := keyTile_of_lands h
  unfold State.keyTile at hkey
  rw [hr] at hkey
  exact (Option.some.inj ((if_pos rfl).symm.trans hkey)).symm

/-! ## Steps that read a table -/

/-- The registers in which the link block records the broken entries of a table (R535). -/
def tableErrRegs : List Reg := [.LNK_REGERR, .LNK_REGERRCNT]

theorem showsIn_regErr {b : Blk} {k off : Nat} {causes : List Nat} :
    AllEff (Eff.showsIn [b.errReg.1, b.errReg.2]) (regErr b k q off causes) := (regErr_onErr b k q off causes).mono fun e he => by
  cases e with
  | fld f => exact List.mem_pair.2 he
  | _ => exact he.elim

theorem showsIn_lnkRegErr {k off : Nat} {causes : List Nat} : AllEff (Eff.showsIn tableErrRegs) (regErr .LNK k q off causes) :=
  showsIn_regErr

theorem showsIn_badEntries {k n : Nat} (hr : r.place.blk = .LNK) : AllEff (Eff.showsIn tableErrRegs) (badEntries r k n q) := fun v => by
  unfold badEntries
  rw [hr]
  exact showsIn_lnkRegErr v

/-- The step changes the package's context by `f`, and else records broken entries alone. -/
def loads (a : Act) (f : State → Pkg → Pkg) : Prop :=
  ∀ u : State, ∃ rest, AllEff (Eff.showsIn tableErrRegs) rest ∧ u.then a = (u.then (updP (f u))).then rest

/-- Memory and the contexts of streams, tenants and tiles stand as before. -/
def State.restOf (s w : State) : Prop := w.mem = s.mem ∧ w.streams = s.streams ∧ w.insts = s.insts ∧ w.tiles = s.tiles

theorem State.restOf.trans {v : State} (h : s.restOf u) (h2 : u.restOf v) : s.restOf v := by
  obtain ⟨hmem, hstreams, hinsts, htiles⟩ := h
  obtain ⟨hmem2, hstreams2, hinsts2, htiles2⟩ := h2
  exact ⟨hmem2.trans hmem, hstreams2.trans hstreams, hinsts2.trans hinsts, htiles2.trans htiles⟩

theorem same_of_restOf {v : State} (h : s.restOf u) (hv : SnapSame u v) : sameMem s v ∧ sameContexts s v := by
  obtain ⟨hmem, hstreams, hinsts, htiles⟩ := h
  refine ⟨fun b => ?_, fun id => ?_, fun n => ?_, fun k => ?_⟩
  · rw [hv.byte, State.byte, hmem, ← State.byte]
  · rw [hv.stream, State.stream, hstreams, ← State.stream]
  · rw [hv.inst, State.inst, hinsts, ← State.inst]
  · rw [hv.tile, State.tile, htiles, ← State.tile]

theorem pkg_of_showsIn {l : List Reg} (h : AllEff (Eff.showsIn l) a) : (u.then a).pkg = u.pkg :=
  pkg_off u (h.mono fun e he => by cases e <;> trivial)

theorem poison_of_showsIn {l : List Reg} (h : AllEff (Eff.showsIn l) a) : (u.then a).poison = u.poison :=
  AllEff.keeps u h (Q := fun w => w.poison = u.poison) (fun w e he hw => by cases e <;> first | exact hw | exact he.elim) rfl

theorem when_loads {f : State → Pkg → Pkg} (ha : loads a f) (b : Bool) :
    (u.then (.when b a)).pkg = (if b then f u u.pkg else u.pkg) ∧ u.restOf (u.then (.when b a)) ∧
    ∀ g : Fld, g.reg ∉ tableErrRegs → ∀ k ix, (u.then (.when b a)).get g k ix = u.get g k ix := by
  obtain ⟨rest, hrest, hthen⟩ := ha u
  cases b
  · exact ⟨rfl, ⟨rfl, rfl, rfl, rfl⟩, fun _ _ _ _ => rfl⟩
  · rw [then_when, if_pos rfl, if_pos rfl, hthen]
    exact ⟨pkg_of_showsIn hrest, contexts_of_showsIn (u := u.then (updP (f u))) hrest,
      fun g hg k ix => get_of_showsIn (u := u.then (updP (f u))) hrest hg k ix⟩

theorem loads_of_eq {f : State → Pkg → Pkg} (hr : r.place.blk = .LNK)
    (ha : ∀ u, ∃ k n, a u = Act.seq [updP (f u), .when (n != 0) (badEntries r k n q)] u) : loads a f := fun u => by
  obtain ⟨k, n, hau⟩ := ha u
  refine ⟨.when (n != 0) (badEntries r k n q), .when fun _ => showsIn_badEntries hr, ?_⟩
  rw [then_congr hau, then_seq_cons, then_seq_cons, then_seq_nil]

/-! ## The three tables -/

theorem loadLabels_reads : ∃ f, loads (loadLabels q) f ∧ ∀ u p, (f u p).lbls = labelTable u :=
  ⟨_, loads_of_eq (r := .LNK_LBLCTL) rfl fun _ => ⟨_, _, rfl⟩, fun _ _ => List.filterMap_congr fun e _ => by cases e <;> rfl⟩

theorem loadPubs_reads : ∃ f, loads (loadPubs q) f ∧ ∀ u, (f u u.pkg).pubs = pubTable u :=
  ⟨_, loads_of_eq (r := .LNK_PUBCTL) rfl fun _ => ⟨_, _, rfl⟩, fun _ => List.filterMap_congr fun e _ => by cases e <;> rfl⟩

theorem loadPeers_reads : ∃ f, loads (loadPeers q) f ∧ ∀ u, (f u u.pkg).peers = peerTable u := by
  refine ⟨_, loads_of_eq (r := .LNK_MVCFG) rfl fun _ => ⟨_, _, rfl⟩, fun u => ?_⟩
  unfold peerTable
  dsimp only
  rw [List.filterMap_filterMap]
  refine List.filterMap_congr fun e _ => ?_
  cases hp : peerEntry e.1 e.2 with
  | none => rfl
  | some y => cases y <;> rfl

/-- The peer table reads memory, its base and the peers as they were. -/
theorem peerTable_congr (hmem : w.mem = u.mem) (hpoison : w.poison = u.poison) (hpkg : w.pkg = u.pkg)
    (hget : ∀ f : Fld, f.reg ∈ [Reg.LNK_MVPEER_LO, .LNK_MVPEER_HI] → ∀ k ix, w.get f k ix = u.get f k ix) : peerTable w = peerTable u := by
  have hbase : w.base40 F.LNK_MVPEER_LO_BASE_LO F.LNK_MVPEER_HI_BASE_HI pkgTile 0 =
      u.base40 F.LNK_MVPEER_LO_BASE_LO F.LNK_MVPEER_HI_BASE_HI pkgTile 0 := by
    simp only [State.base40, hget F.LNK_MVPEER_LO_BASE_LO (by decide), hget F.LNK_MVPEER_HI_BASE_HI (by decide)]
  have hbad (b n : Nat) : w.poisonedIn b n = u.poisonedIn b n := by simp only [State.poisonedIn, State.poisoned, hpoison]
  have hbytes (b n : Nat) : w.bytes b n = u.bytes b n := by simp only [State.bytes, State.byte, hmem]
  simp only [peerTable, hbase, State.table, hbad, hbytes, State.peer, hpkg]

/-! ## Writes of `LNK_LBLCTL` and `LNK_PUBCTL` -/

/-- A write with no reserved bit reads the table when `EN` rises or `RELOAD` is 1, and then sets `EN`. -/
theorem then_tableCtl (h : s.lands q t r 0 true = some (kt, x)) {en : Fld} {v : Nat} {load : Requester → Act}
    (hv : BitVec.ofNat 32 v &&& ~~~implMask r = 0) : s.then (tableCtl q t r en v load) =
      (s.then (.when ((bitsOf v en.hi en.lo == 1 && s.get en kt 0 == 0) || bitOf v 1) (load q))).then
        (setF en kt (bitsOf v en.hi en.lo)) := by
  have hseq : s.then (tableCtl q t r en v load) = _ := then_accessReg (k := fun kt _ s => _) h
  rw [hseq, hv]
  change s.then (.seq [_, _, _]) = _
  simp only [then_seq_cons, then_seq_nil, bne_self_eq_false]
  rfl

/-- What such a write leaves: `EN` as written, and the package's context with the table read, or as it was. -/
theorem tableCtl_leaves {α : Type} {view : Pkg → α} (hview : ∀ p T S L, view { p with snapT := T, snapSrc := S, snapTile := L } = view p)
    (h : s.lands q t r 0 true = some (kt, x)) {v : Nat} {load : Requester → Act} {f : State → Pkg → Pkg} (hload : loads (load q) f)
    (hv : BitVec.ofNat 32 v &&& ~~~implMask r = 0) (hok : Fld.ok ⟨r, 0, 0⟩ = true) (hcnt : r ≠ .SNP_CNT)
    (hw : SnapSame (s.then (tableCtl q t r ⟨r, 0, 0⟩ v load)) w) :
    w.get ⟨r, 0, 0⟩ kt 0 = bitsOf v 0 0 ∧ sameMem s w ∧ sameContexts s w ∧
    view w.pkg = view (if (bitsOf v 0 0 == 1 && s.get ⟨r, 0, 0⟩ kt 0 == 0) || bitOf v 1 then f s s.pkg else s.pkg) := by
  rw [then_tableCtl h hv] at hw
  obtain ⟨hpkg, hrest, -⟩ := when_loads (u := s) hload ((bitsOf v 0 0 == 1 && s.get ⟨r, 0, 0⟩ kt 0 == 0) || bitOf v 1)
  obtain ⟨hmem, hctx⟩ := same_of_restOf (hrest.trans (contexts_of_showsIn (l := [r]) (allEff_iff.2 fun u => by simp))) hw
  refine ⟨?_, hmem, hctx, ?_⟩
  · rw [hw.get _ _ _ hcnt, get_then_setF _ _ _ _ hok]
    exact Nat.mod_eq_of_lt (Nat.mod_lt _ (Nat.two_pow_pos _))
  · rw [hw.pkg_rest, hview, ← hpkg]
    rfl

theorem get_bit_lt_two (r : Reg) (n k ix : Nat) : s.get ⟨r, n, n⟩ k ix < 2 := by
  have hlt := getBits_lt (s.reg r k ix) n n
  rwa [Nat.add_sub_cancel_left] at hlt

/-- The word of a reload keeps `EN` and sets `RELOAD`. -/
theorem reloadWord {n : Nat} (hn : n < 2) : bitsOf (2 + n) 0 0 = n ∧ bitOf (2 + n) 1 = true := by
  interval_cases n <;> decide

/-- Enabling reads the table when `EN` was 0. -/
theorem tableEnable_leaves {α : Type} {view : Pkg → α} (hview : ∀ p T S L, view { p with snapT := T, snapSrc := S, snapTile := L } = view p)
    (h : s.lands q t r 0 true = some (kt, x)) {load : Requester → Act} {f : State → Pkg → Pkg} (hload : loads (load q) f)
    (hmask : ∀ v < 4, BitVec.ofNat 32 v &&& ~~~implMask r = 0) (hok : Fld.ok ⟨r, 0, 0⟩ = true) (hcnt : r ≠ .SNP_CNT)
    (hw : SnapSame (s.then (tableCtl q t r ⟨r, 0, 0⟩ 1 load)) w) :
    w.get ⟨r, 0, 0⟩ kt 0 = 1 ∧ sameMem s w ∧ sameContexts s w ∧ (s.get ⟨r, 0, 0⟩ kt 0 = 0 → view w.pkg = view (f s s.pkg)) ∧
    (s.get ⟨r, 0, 0⟩ kt 0 = 1 → view w.pkg = view s.pkg) := by
  obtain ⟨hen, hmem, hctx, hpkg⟩ := tableCtl_leaves hview h hload (hmask 1 (by decide)) hok hcnt hw
  exact ⟨hen, hmem, hctx, fun h0 => by rw [hpkg, h0]; rfl, fun h1 => by rw [hpkg, h1]; rfl⟩

/-- Reloading reads the table whatever `EN` is, and leaves it. -/
theorem tableReload_leaves {α : Type} {view : Pkg → α} (hview : ∀ p T S L, view { p with snapT := T, snapSrc := S, snapTile := L } = view p)
    (h : s.lands q t r 0 true = some (kt, x)) {load : Requester → Act} {f : State → Pkg → Pkg} (hload : loads (load q) f)
    (hmask : ∀ v < 4, BitVec.ofNat 32 v &&& ~~~implMask r = 0) (hok : Fld.ok ⟨r, 0, 0⟩ = true) (hcnt : r ≠ .SNP_CNT)
    (hw : SnapSame (s.then (tableCtl q t r ⟨r, 0, 0⟩ (2 + s.get ⟨r, 0, 0⟩ kt 0) load)) w) :
    w.get ⟨r, 0, 0⟩ kt 0 = s.get ⟨r, 0, 0⟩ kt 0 ∧ view w.pkg = view (f s s.pkg) ∧ sameMem s w ∧ sameContexts s w := by
  have hlt := get_bit_lt_two (s := s) r 0 kt 0
  obtain ⟨hword, hreload⟩ := reloadWord hlt
  obtain ⟨hen, hmem, hctx, hpkg⟩ := tableCtl_leaves hview h hload (hmask _ (by omega)) hok hcnt hw
  exact ⟨hen.trans hword, by rw [hpkg, hreload, Bool.or_true]; rfl, hmem, hctx⟩

theorem label_enable (h : s.lands q paddockTile .LNK_LBLCTL 0 true = some (kt, x)) : gives (.labelEnable q) s fun t =>
    t.get F.LNK_LBLCTL_EN kt 0 = 1 ∧ sameMem s t ∧ sameContexts s t ∧
    (s.get F.LNK_LBLCTL_EN kt 0 = 0 → t.pkg.lbls = labelTable s) ∧ (s.get F.LNK_LBLCTL_EN kt 0 = 1 → t.pkg.lbls = s.pkg.lbls) := by
  obtain ⟨f, hload, hf⟩ := loadLabels_reads (q := q)
  rw [← hf s s.pkg]
  exact done_holds fun t ht => tableEnable_leaves (view := Pkg.lbls) (fun _ _ _ _ => rfl) h hload (by decide) (by decide) (by decide) ht

theorem label_reload (h : s.lands q paddockTile .LNK_LBLCTL 0 true = some (kt, x)) : gives (.labelReload q) s fun t =>
    t.get F.LNK_LBLCTL_EN kt 0 = s.get F.LNK_LBLCTL_EN kt 0 ∧ t.pkg.lbls = labelTable s ∧ sameMem s t ∧ sameContexts s t := by
  obtain ⟨f, hload, hf⟩ := loadLabels_reads (q := q)
  rw [← hf s s.pkg]
  obtain rfl := tile_of_lands rfl h
  exact done_holds fun t ht => tableReload_leaves (view := Pkg.lbls) (fun _ _ _ _ => rfl) h hload (by decide) (by decide) (by decide) ht

theorem pub_enable (h : s.lands q s.bootTile .LNK_PUBCTL 0 true = some (kt, x)) : gives (.pubEnable q) s fun t =>
    t.get F.LNK_PUBCTL_EN kt 0 = 1 ∧ sameMem s t ∧ sameContexts s t ∧
    (s.get F.LNK_PUBCTL_EN kt 0 = 0 → t.pkg.pubs = pubTable s) ∧ (s.get F.LNK_PUBCTL_EN kt 0 = 1 → t.pkg.pubs = s.pkg.pubs) := by
  obtain ⟨f, hload, hf⟩ := loadPubs_reads (q := q)
  rw [← hf s]
  exact done_holds fun t ht => tableEnable_leaves (view := Pkg.pubs) (fun _ _ _ _ => rfl) h hload (by decide) (by decide) (by decide) ht

theorem pub_reload (h : s.lands q s.bootTile .LNK_PUBCTL 0 true = some (kt, x)) : gives (.pubReload q) s fun t =>
    t.get F.LNK_PUBCTL_EN kt 0 = s.get F.LNK_PUBCTL_EN kt 0 ∧ t.pkg.pubs = pubTable s ∧ sameMem s t ∧ sameContexts s t := by
  obtain ⟨f, hload, hf⟩ := loadPubs_reads (q := q)
  rw [← hf s]
  obtain rfl := pkgTile_of_lands rfl h
  exact done_holds fun t ht => tableReload_leaves (view := Pkg.pubs) (fun _ _ _ _ => rfl) h hload (by decide) (by decide) (by decide) ht

/-! ## Writes of `LNK_MVCFG` (R379, R388) -/

/-- What a write of `LNK_MVCFG` does where it lands, before the table is read. -/
def mvFields (q : Requester) (t v kt : Nat) : Act := .seq
  [.when (bitsOf v 5 4 != 0 || decide (bitsOf v 31 16 < 80)) (regErr .LNK t q Reg.LNK_MVCFG.place.off
    ((if bitsOf v 31 16 < 80 then [causeRange] else []) ++ (if bitsOf v 5 4 != 0 then [causeRsvd] else []))),
    .when (decide (80 ≤ bitsOf v 31 16)) (setF F.LNK_MVCFG_E2E kt (bitsOf v 31 16)), setF F.LNK_MVCFG_UDPPORT kt (bitsOf v 15 8)]

theorem then_mvCfg (h : s.lands q t .LNK_MVCFG 0 true = some (kt, x)) (v : Nat) : s.then (mvCfg q t v) =
    ((s.then (mvFields q t v kt)).then (.when ((bitOf v 6 && s.get F.LNK_MVCFG_EN kt 0 == 0) || bitOf v 7) (loadPeers q))).then
      (setF F.LNK_MVCFG_EN kt (bitsOf v 6 6)) := by
  have hseq : s.then (mvCfg q t v) = _ := then_accessReg (k := fun kt _ s => _) h
  rw [hseq, mvFields]
  change s.then (.seq [_, _, _, _, _]) = _
  simp only [then_seq_cons, then_seq_nil]

/-- The fields of the word as `LNK_MVCFG` reads, with `EN` and `RELOAD` as given. -/
theorem mvCfgWord_fields (en reload : Bool) : bitsOf (s.mvCfgWord en reload) 31 16 = s.get F.LNK_MVCFG_E2E pkgTile 0 ∧
    bitsOf (s.mvCfgWord en reload) 15 8 = s.get F.LNK_MVCFG_UDPPORT pkgTile 0 ∧ bitOf (s.mvCfgWord en reload) 7 = reload ∧
    bitOf (s.mvCfgWord en reload) 6 = en ∧ bitsOf (s.mvCfgWord en reload) 6 6 = b2n en := by
  have he : s.get F.LNK_MVCFG_E2E pkgTile 0 < 2 ^ 16 := getBits_lt _ 31 16
  have hu : s.get F.LNK_MVCFG_UDPPORT pkgTile 0 < 2 ^ 8 := getBits_lt _ 15 8
  unfold State.mvCfgWord
  generalize s.get F.LNK_MVCFG_E2E pkgTile 0 = e at *
  generalize s.get F.LNK_MVCFG_UDPPORT pkgTile 0 = p at *
  cases en <;> cases reload <;>
    simp only [bitsOf, bitOf, b2n, if_true, Bool.false_eq_true, if_false, beq_eq_false_iff_ne, beq_iff_eq] <;> omega

/-- The fields beside `EN` and `RELOAD` are written as they were, and nothing else changes but the errors. -/
theorem showsIn_mvFields (v : Nat) : AllEff (Eff.showsIn (.LNK_MVCFG :: tableErrRegs)) (mvFields q t v kt) := allEff_iff.2 fun w => by
  have herr (l : List Nat) : Effs (Eff.showsIn (.LNK_MVCFG :: tableErrRegs)) (regErr .LNK t q Reg.LNK_MVCFG.place.off l w) :=
    Effs.mono (showsIn_lnkRegErr w) fun _ => Eff.showsIn_mono (by decide)
  simp +decide [mvFields, herr]

theorem get_mvFields (v : Nat) (he : bitsOf v 31 16 = s.get F.LNK_MVCFG_E2E kt 0) (hu : bitsOf v 15 8 = s.get F.LNK_MVCFG_UDPPORT kt 0) :
    (s.then (mvFields q t v kt)).get F.LNK_MVCFG_E2E kt 0 = s.get F.LNK_MVCFG_E2E kt 0 ∧
    (s.then (mvFields q t v kt)).get F.LNK_MVCFG_UDPPORT kt 0 = s.get F.LNK_MVCFG_UDPPORT kt 0 := by
  have herr (b : Bool) (l : List Nat) : (s.then (.when b (regErr .LNK t q Reg.LNK_MVCFG.place.off l))).get F.LNK_MVCFG_E2E kt 0 =
      s.get F.LNK_MVCFG_E2E kt 0 := get_of_showsIn (l := tableErrRegs) (.when fun _ => showsIn_lnkRegErr) (by decide) _ _
  unfold mvFields
  simp only [then_seq_cons, then_seq_nil, he, hu]
  constructor
  · rw [then_setF, get_setF_ne _ _ _ _ _ _ _ _ (by decide) (by decide), then_when]
    split
    · rw [get_then_setF _ _ _ _ (by decide)]
      exact Nat.mod_eq_of_lt (getBits_lt _ 31 16)
    · exact herr _ _
  · rw [get_then_setF _ _ _ _ (by decide)]
    exact Nat.mod_eq_of_lt (getBits_lt _ 15 8)

/-- What a write of the word as it reads leaves, with `EN` and `RELOAD` as given. -/
theorem mvCfg_leaves (h : s.lands q t .LNK_MVCFG 0 true = some (kt, x)) (en reload : Bool)
    (hw : SnapSame (s.then (mvCfg q t (s.mvCfgWord en reload))) w) :
    w.get F.LNK_MVCFG_EN kt 0 = b2n en ∧ w.get F.LNK_MVCFG_E2E kt 0 = s.get F.LNK_MVCFG_E2E kt 0 ∧
    w.get F.LNK_MVCFG_UDPPORT kt 0 = s.get F.LNK_MVCFG_UDPPORT kt 0 ∧ sameMem s w ∧ sameContexts s w ∧
    w.pkg.peers = if (en && s.get F.LNK_MVCFG_EN kt 0 == 0) || reload then peerTable s else s.pkg.peers := by
  obtain ⟨f, hload, hf⟩ := loadPeers_reads (q := q)
  obtain rfl := pkgTile_of_lands rfl h
  obtain ⟨he2e, hudp, hrel, hen, hen6⟩ := mvCfgWord_fields (s := s) en reload
  obtain ⟨hge, hgu⟩ := get_mvFields (s := s) (q := q) (t := t) _ he2e hudp
  have hshows := showsIn_mvFields (q := q) (t := t) (kt := pkgTile) (s.mvCfgWord en reload)
  rw [then_mvCfg h, hrel, hen, hen6] at hw
  generalize mvFields q t (s.mvCfgWord en reload) pkgTile = fields at *
  generalize hc : ((en && s.get F.LNK_MVCFG_EN pkgTile 0 == 0) || reload) = c at *
  obtain ⟨hpkg, hrest, hget⟩ := when_loads (u := s.then fields) hload c
  obtain ⟨hmem, hctx⟩ := same_of_restOf (s := s) ((State.restOf.trans (contexts_of_showsIn hshows) hrest).trans
    (contexts_of_showsIn (l := [.LNK_MVCFG]) (allEff_iff.2 fun u => by simp +decide))) hw
  have hkept {g : Fld} (hok : g.ok = true) (hreg : g.reg = .LNK_MVCFG) (happart : 6 < g.lo ∨ g.hi < 6) :
      w.get g pkgTile 0 = (s.then fields).get g pkgTile 0 := by
    rw [hw.get _ _ _ (by rw [hreg]; decide), then_setF, get_setF_ne _ _ _ _ _ _ _ _ hok (.inr happart),
      hget g (by rw [hreg]; decide)]
  refine ⟨?_, (hkept (by decide) rfl (by decide)).trans hge, (hkept (by decide) rfl (by decide)).trans hgu, hmem, hctx, ?_⟩
  · rw [hw.get _ _ _ (by decide), get_then_setF _ _ _ _ (by decide)]
    exact Nat.mod_eq_of_lt (b2n_lt_two en)
  · have hpeers : w.pkg.peers = (if c then f (s.then fields) (s.then fields).pkg else (s.then fields).pkg).peers := by
      rw [hw.peers, ← hpkg]
      rfl
    have hbase : ∀ r ∈ [Reg.LNK_MVPEER_LO, .LNK_MVPEER_HI], r ∉ Reg.LNK_MVCFG :: tableErrRegs := by decide
    rw [hpeers, pkg_of_showsIn hshows]
    split
    · rw [← pkg_of_showsIn (u := s) hshows, hf]
      exact peerTable_congr (contexts_of_showsIn hshows).1 (poison_of_showsIn hshows) (pkg_of_showsIn hshows)
        fun g hg k ix => get_of_showsIn hshows (hbase _ hg) k ix
    · rfl

theorem then_movonEnable : s.then (movonEnableX q) = s.then (mvCfg q s.bootTile (s.mvCfgWord true false)) :=
  then_app s fun s => mvCfg q s.bootTile (s.mvCfgWord true false)

theorem then_movonReload : s.then (movonReloadX q) =
    s.then (mvCfg q s.bootTile (s.mvCfgWord (s.get F.LNK_MVCFG_EN pkgTile 0 == 1) true)) :=
  then_app s fun s => mvCfg q s.bootTile (s.mvCfgWord (s.get F.LNK_MVCFG_EN pkgTile 0 == 1) true)

theorem movon_enable (h : s.lands q s.bootTile .LNK_MVCFG 0 true = some (kt, x)) : gives (.movonEnable q) s fun t =>
    t.get F.LNK_MVCFG_EN kt 0 = 1 ∧ t.get F.LNK_MVCFG_E2E kt 0 = s.get F.LNK_MVCFG_E2E kt 0 ∧
    t.get F.LNK_MVCFG_UDPPORT kt 0 = s.get F.LNK_MVCFG_UDPPORT kt 0 ∧ sameMem s t ∧ sameContexts s t ∧
    (s.get F.LNK_MVCFG_EN kt 0 = 0 → t.pkg.peers = peerTable s) ∧ (s.get F.LNK_MVCFG_EN kt 0 = 1 → t.pkg.peers = s.pkg.peers) := by
  refine done_holds fun t ht => ?_
  rw [then_movonEnable] at ht
  obtain ⟨hen, he2e, hudp, hmem, hctx, hpeers⟩ := mvCfg_leaves h true false ht
  exact ⟨hen, he2e, hudp, hmem, hctx, fun h0 => by rw [hpeers, h0]; rfl, fun h1 => by rw [hpeers, h1]; rfl⟩

theorem movon_reload (h : s.lands q s.bootTile .LNK_MVCFG 0 true = some (kt, x)) : gives (.movonReload q) s fun t =>
    t.get F.LNK_MVCFG_EN kt 0 = s.get F.LNK_MVCFG_EN kt 0 ∧ t.pkg.peers = peerTable s ∧ sameMem s t ∧ sameContexts s t := by
  have hlt := get_bit_lt_two (s := s) .LNK_MVCFG 6 kt 0
  obtain rfl := pkgTile_of_lands rfl h
  refine done_holds fun t ht => ?_
  rw [then_movonReload] at ht
  obtain ⟨hen, -, -, hmem, hctx, hpeers⟩ := mvCfg_leaves h (s.get F.LNK_MVCFG_EN pkgTile 0 == 1) true ht
  refine ⟨hen.trans ?_, by rw [hpeers, Bool.or_true]; rfl, hmem, hctx⟩
  change s.get F.LNK_MVCFG_EN pkgTile 0 < 2 at hlt
  generalize s.get F.LNK_MVCFG_EN pkgTile 0 = n at hlt
  interval_cases n <;> rfl

/-- Settles O32: a write of a control word that reads its table changes the package's context by it, and else shows errors alone. -/
theorem tablesAreReadWhenEnabledOrReloaded : Obligations.TablesAreReadWhenEnabledOrReloaded :=
  ⟨fun _ _ _ _ => label_enable, fun _ _ _ _ => label_reload, fun _ _ _ _ => pub_enable, fun _ _ _ _ => pub_reload,
    fun _ _ _ _ => movon_enable, fun _ _ _ _ => movon_reload⟩

end Sys2Proof.Machine
end

section
/-! Analytics heads (R170 to R176): an evaluation that starts, one that finds taps of another shape, and one that ends. -/
namespace Sys2Proof.Machine
open Sys2Proof.Say

variable {s u : State} {a : Act} {id : Nat}

/-! ## Steps on a head -/

/-- The effect changes a stream's context, brings written words into force, or changes a register of a list. -/
@[simp] def Eff.turns (l : List Reg) : Eff → Prop
  | .stream _ _ | .apply _ => True
  | e => e.showsIn l

/-- A command of such a step leaves the other registers, memory, and the contexts of tenants and tiles. -/
theorem same_of_turns {l : List Reg} {t : State} (h : AllEff (Eff.turns l) a) (ht : SnapSame (s.then a) t) :
    sameRegs l s t ∧ sameMem s t ∧ (∀ n, t.inst n = s.inst n) ∧ ∀ k, t.tile k = s.tile k := by
  refine ⟨fun r hr k ix => ?_, fun b => ?_, fun n => ?_, fun k => ?_⟩
  · obtain ⟨hcnt, hl⟩ : r ≠ .SNP_CNT ∧ r ∉ l := by simpa using hr
    refine (ht.reg r k ix hcnt).trans (reg_off s (h.mono fun e he => ?_) k ix)
    cases e with
    | stream | apply => trivial
    | _ => exact Eff.off_of_showsIn hl he
  · rw [ht.byte, State.byte, mem_off s (h.mono fun e he => by cases e <;> trivial), ← State.byte]
  · rw [ht.inst, State.inst, insts_off s (h.mono fun e he => by cases e <;> trivial), ← State.inst]
  · rw [ht.tile, State.tile, tiles_off s (h.mono fun e he => by cases e <;> trivial), ← State.tile]

@[simp] theorem stream_updHead {f : Head → Head} :
    (u.then (updHead id f)).stream id = { u.stream id with head := f (u.stream id).head } := stream_updS

@[simp] theorem sget_updHead {f : Head → Head} {g : Fld} {i : Nat} : (u.then (updHead id f)).sget g i = u.sget g i := (rfl)

/-! ## The boundary (R175) -/

theorem turns_headBoundary : AllEff (Eff.turns [.FXG_HDGEN]) (headBoundary id) := allEff_iff.2 fun v => by
  simp +decide [headBoundary, digestBoundary, applyRegs]

theorem then_headBoundary : u.then (headBoundary id) = ((u.then (.when (u.get F.FXG_HDSEL_HOLD (homeOf id) (4096 + slotOf id) == 0)
    (applyRegs id headRegs))).then (digestBoundary id stHead)).then (setS F.FXG_HDGEN_GEN id ((u.stream id).head.gen % 2 ^ 32)) := by
  have hseq : u.then (headBoundary id) = _ := then_app u fun v => .seq _
  rw [hseq]
  simp only [then_seq_cons, then_seq_nil]

theorem stream_headBoundary : (u.then (headBoundary id)).stream id = u.stream id := by
  rw [then_headBoundary, stream_setS, stream_digestBoundary, then_when]
  split <;> rfl

/-- The generation in use is shown. -/
theorem gen_headBoundary : (u.then (headBoundary id)).sget F.FXG_HDGEN_GEN id = (u.stream id).head.gen % 2 ^ 32 := by
  rw [then_headBoundary, sget_setS (by decide)]
  exact Nat.mod_mod _ _

/-! ## An evaluation starts (R171, R174) -/

/-- What a head reads of a frame: its taps, and whether they follow its last frame (R173). -/
def takenRun (s : State) (id f : Nat) : HeadRun :=
  let fs := (s.stream (s.sget F.FXG_HDW0_SRC id)).lsc.taps.filter fun g => g.frame == f && (s.headTaps id).contains g.tap
  let keyAt := (fs.head?).elim f (·.keyAt)
  { frame := f
    cleared := (s.stream id).head.seen.elim (keyAt == f) fun l => frameLater keyAt l
    taps := fs.map fun g => (g.tap, (s.tapRead g).1)
    bad := fs.any fun g => (s.tapRead g).2 }

/-- A head takes a frame with its generation and weights; its history starts again where the run is cleared. -/
def Head.takes (r : HeadRun) (h : Head) : Head :=
  { h with
    last := some r.frame, seen := some r.frame, hist := if r.cleared then 0 else h.hist,
    run := some { r with gen := h.gen, weights := h.weights } }

theorem then_headEvalStart {f : Nat} (hopen : s.isOpen id = true) (hstage : bitOf (s.stream id).stages stHead = true)
    (hidle : (s.stream id).head.run = none) (hsrc : s.sget F.FXG_HDSTAT_SRCGONE id ≠ 1) (hnext : s.headNext id = some f)
    (hshape : s.shapeOk id (s.sget F.FXG_HDW0_SRC id) f = true) : s.then (headEvalStartX id) =
      (s.then (headBoundary id)).then (updHead id (Head.takes (takenRun s id f))) := by
  have hact : headEvalStartX id s = Act.seq [headBoundary id, updHead id (Head.takes (takenRun s id f))] s := by
    unfold headEvalStartX
    rw [if_neg (by simp [hopen, hstage, hidle, hsrc]), hnext]
    exact if_neg (by simp [hshape])
  rw [then_congr hact, then_seq_cons, then_seq_cons, then_seq_nil]

theorem then_headEvalStart_shape {f : Nat} (hopen : s.isOpen id = true) (hstage : bitOf (s.stream id).stages stHead = true)
    (hidle : (s.stream id).head.run = none) (hsrc : s.sget F.FXG_HDSTAT_SRCGONE id ≠ 1) (hnext : s.headNext id = some f)
    (hshape : s.shapeOk id (s.sget F.FXG_HDW0_SRC id) f = false) : s.then (headEvalStartX id) =
      (((s.then (headBoundary id)).then (setS F.FXG_HDSTAT_SHAPE id 1)).then
        (updHead id fun h => { h with last := some f, seq := h.seq + 1 })).then (workRecord id f 0x0104 0) := by
  have hthen : s.then (headEvalStartX id) = s.then (.seq [headBoundary id, setS F.FXG_HDSTAT_SHAPE id 1,
      updHead id fun h => { h with last := some f, seq := h.seq + 1 }, workRecord id f 0x0104 0]) :=
    then_congr (by simp [headEvalStartX, hopen, hstage, hidle, hsrc, hnext, hshape])
  rw [hthen]
  simp only [then_seq_cons, then_seq_nil]

theorem evaluation_starts {f : Nat} (hopen : s.isOpen id = true) (hstage : bitOf (s.stream id).stages stHead = true)
    (hidle : (s.stream id).head.run = none) (hsrc : s.sget F.FXG_HDSTAT_SRCGONE id ≠ 1) (hnext : s.headNext id = some f)
    (hshape : s.shapeOk id (s.sget F.FXG_HDW0_SRC id) f = true) : gives (.headEvalStart id) s fun t =>
      (∃ r, (t.stream id).head.run = some r ∧ r.frame = f ∧ r.gen = (s.stream id).head.gen ∧ r.weights = (s.stream id).head.weights) ∧
      (t.stream id).head.last = some f ∧ t.sget F.FXG_HDGEN_GEN id = (s.stream id).head.gen % 2 ^ 32 ∧
      sameRegs [.FXG_HDGEN] s t ∧ sameMem s t ∧ (∀ n, t.inst n = s.inst n) ∧ ∀ k, t.tile k = s.tile k := by
  have hturns : AllEff (Eff.turns [.FXG_HDGEN]) (.seq [headBoundary id, updHead id (Head.takes (takenRun s id f))]) := allEff_iff.2 fun v => by
    simp [allEff_iff.1 turns_headBoundary v, updHead]
  refine done_holds fun t ht => ?_
  rw [then_headEvalStart hopen hstage hidle hsrc hnext hshape] at ht
  have hstream : (t.stream id).head = Head.takes (takenRun s id f) (s.stream id).head := by
    rw [ht.stream, stream_updHead, stream_headBoundary]
  refine ⟨⟨_, by rw [hstream]; rfl, rfl, rfl, rfl⟩, by rw [hstream]; rfl, ?_, ?_⟩
  · rw [ht.sget (by decide), sget_updHead, gen_headBoundary]
  · rw [← then_seq_nil (State.then _ (updHead id _)), ← then_seq_cons, ← then_seq_cons] at ht
    exact same_of_turns hturns ht

theorem shape_refused {f : Nat} (hopen : s.isOpen id = true) (hstage : bitOf (s.stream id).stages stHead = true)
    (hidle : (s.stream id).head.run = none) (hsrc : s.sget F.FXG_HDSTAT_SRCGONE id ≠ 1) (hnext : s.headNext id = some f)
    (hshape : s.shapeOk id (s.sget F.FXG_HDW0_SRC id) f = false) : gives (.headEvalStart id) s fun t =>
      (t.stream id).head.run = none ∧ (t.stream id).head.last = some f ∧ t.sget F.FXG_HDSTAT_SHAPE id = 1 ∧
      (t.stream id).head.evals = (s.stream id).head.evals := by
  have hrecord : AllEff (Eff.keepsOf Stream.head) (workRecord id f 0x0104 0) := allEff_iff.2 fun v => by simp
  have hoff : AllEff (Eff.off .FXG_HDSTAT) (workRecord id f 0x0104 0) := allEff_iff.2 fun v => off_of_sends (by decide) sends_workRecord
  refine done_holds fun t ht => ?_
  rw [then_headEvalStart_shape hopen hstage hidle hsrc hnext hshape] at ht
  have hstream : (t.stream id).head = { (s.stream id).head with last := some f, seq := (s.stream id).head.seq + 1 } := by
    rw [ht.stream, stream_of_keepsOf hrecord, stream_updHead, stream_setS, stream_headBoundary]
  rw [hstream]
  refine ⟨hidle, rfl, ?_, rfl⟩
  rw [ht.sget (by decide), State.sget, get_of_off (f := F.FXG_HDSTAT_SHAPE) hoff, ← State.sget, sget_updHead,
    sget_setS (by decide)]
  rfl

/-! ## An evaluation ends (R172, R173, R176) -/

/-- What a head keeps while its evaluation is published. -/
def Head.course (h : Head) : Nat × List TailTensor × Nat := (h.evals, h.weights, h.gen)

theorem keepsCourse_publish {value status ptime frame gen : Nat} {alarm : Bool} :
    AllEff (Eff.keepsOf fun x => x.head.course) (publish id value status ptime frame gen alarm) := allEff_iff.2 fun v => by
  unfold publish
  split
  · exact effs_nil
  · split
    · exact effs_nil
    · simp [updHead, Head.course]

theorem off_publish {value status ptime frame gen : Nat} {alarm : Bool} :
    AllEff (Eff.off .FXG_HDSTAT) (publish id value status ptime frame gen alarm) := allEff_iff.2 fun v => by
  unfold publish
  split
  · exact effs_nil
  · split
    · exact effs_nil
    · simp +decide [updHead, Eff.off]

/-- A head's evaluation of a run is over. -/
def Head.evaluated (p : Prog) (r : HeadRun) (h : Head) : Head :=
  { h with run := none, seq := h.seq + 1, evals := h.evals + 1, hist := Config.headState p.digest h.hist r.taps }

/-- What ends an evaluation: its entry, the alarm, which is 0 for a head that is no detector and for one that read poison, what is
published, the head's state, and the record with its conditions. -/
theorem then_headEvalDone {r : HeadRun} {p : Prog} {f : SrcFrame} (hr : (s.stream id).head.run = some r) (hp : s.headProg id = some p)
    (hf : (s.stream (s.sget F.FXG_HDW0_SRC id)).srcs.find? (fun f => decide ((r.frame + 2 ^ 32 - f.frame) % 2 ^ 32 < f.n)) = some f) :
    ∃ (entry pub report : Act) (alarm : Bool), AllEff Eff.sends entry ∧
      (AllEff (Eff.keepsOf fun x => x.head.course) pub ∧ AllEff (Eff.off .FXG_HDSTAT) pub) ∧
      (AllEff (Eff.keepsOf Stream.head) report ∧ AllEff (Eff.off .FXG_HDSTAT) report) ∧
      (alarm = true → (s.headInfo id).detector = true ∧ r.bad = false ∧ 0x0201 ∉ f.conds) ∧
      s.then (headEvalDoneX id) = ((((s.then entry).then (setS F.FXG_HDSTAT_ALARM id (b2n alarm))).then pub).then
        (updHead id (Head.evaluated p r))).then report := by
  have hact : ∃ (full : Bool) (a : Nat) (bs : List Byte) (value status st digest : Nat) (alarm : Bool) (conds : List Nat),
      (alarm = true → (s.headInfo id).detector = true ∧ r.bad = false ∧ 0x0201 ∉ f.conds) ∧
      headEvalDoneX id s = Act.seq [.when full (putBytes (s.stream id).inst a bs false), setS F.FXG_HDSTAT_ALARM id (b2n alarm),
        publish id value status f.ptime r.frame r.gen alarm, updHead id (Head.evaluated p r), countConditions id conds,
        workRecord id r.frame st digest] s := by
    simp only [headEvalDoneX, hr, hp, hf]
    refine ⟨_, _, _, _, _, _, _, _, _, fun halarm => ?_, rfl⟩
    simp only [Bool.and_eq_true, Bool.not_eq_true', Bool.or_eq_false_iff] at halarm
    obtain ⟨⟨⟨hdetector, hgood, -⟩, -⟩, -⟩ := halarm
    simp only [List.contains_eq_mem, List.mem_append, decide_eq_false_iff_not, not_or] at hgood
    exact ⟨hdetector, by simpa using hgood.2, hgood.1⟩
  obtain ⟨full, a, bs, value, status, st, digest, alarm, conds, halarm, hact⟩ := hact
  refine ⟨.when full (putBytes (s.stream id).inst a bs false), publish id value status f.ptime r.frame r.gen alarm,
    .seq [countConditions id conds, workRecord id r.frame st digest], alarm, allEff_iff.2 fun v => by simp,
    ⟨keepsCourse_publish, off_publish⟩, ⟨allEff_iff.2 fun v => by simp, allEff_iff.2 fun v => ?_⟩, halarm, ?_⟩
  · rw [effs_seq_cons, effs_seq_cons]
    exact ⟨off_countConditions (by decide), off_of_sends (by decide) sends_workRecord, effs_nil⟩
  · rw [then_congr hact]
    simp only [then_seq_cons, then_seq_nil]

theorem evaluation_ends {r : HeadRun} {p : Prog} {f : SrcFrame} (hr : (s.stream id).head.run = some r) (hp : s.headProg id = some p)
    (hf : (s.stream (s.sget F.FXG_HDW0_SRC id)).srcs.find? (fun f => decide ((r.frame + 2 ^ 32 - f.frame) % 2 ^ 32 < f.n)) = some f) :
    gives (.headEvalDone id) s fun t =>
      (t.stream id).head.run = none ∧ (t.stream id).head.evals = (s.stream id).head.evals + 1 ∧
      (t.stream id).head.weights = (s.stream id).head.weights ∧ (t.stream id).head.gen = (s.stream id).head.gen ∧
      ((s.headInfo id).detector = false → t.sget F.FXG_HDSTAT_ALARM id = 0) ∧
      (r.bad = true ∨ 0x0201 ∈ f.conds → t.sget F.FXG_HDSTAT_ALARM id = 0) := by
  obtain ⟨entry, pub, report, alarm, hentry, ⟨hpub, hpubOff⟩, ⟨hreport, hreportOff⟩, halarm, hthen⟩ := then_headEvalDone hr hp hf
  refine done_holds fun t ht => ?_
  rw [hthen] at ht
  have hstart : ((s.then entry).stream id) = s.stream id := by rw [State.stream, streams_of_sends hentry, ← State.stream]
  have hcourse : (((((s.then entry).then (setS F.FXG_HDSTAT_ALARM id (b2n alarm))).then pub).stream id).head).course =
      (s.stream id).head.course := by
    rw [stream_of_keepsOf hpub, stream_setS, hstart]
  have hhead : (t.stream id).head = Head.evaluated p r
      ((((s.then entry).then (setS F.FXG_HDSTAT_ALARM id (b2n alarm))).then pub).stream id).head := by
    rw [ht.stream, stream_of_keepsOf hreport, stream_updHead]
  have hshown : t.sget F.FXG_HDSTAT_ALARM id = b2n alarm := by
    rw [ht.sget (by decide), State.sget, get_of_off (f := F.FXG_HDSTAT_ALARM) hreportOff, ← State.sget, sget_updHead, State.sget,
      get_of_off (f := F.FXG_HDSTAT_ALARM) hpubOff, ← State.sget, sget_setS (by decide)]
    cases alarm <;> rfl
  simp only [Head.course, Prod.mk.injEq] at hcourse
  obtain ⟨hevals, hweights, hgen⟩ := hcourse
  have hquiet (h : ¬((s.headInfo id).detector = true ∧ r.bad = false ∧ 0x0201 ∉ f.conds)) : t.sget F.FXG_HDSTAT_ALARM id = 0 := by
    rw [hshown, Bool.eq_false_iff.2 fun ha => h (halarm ha)]
    rfl
  exact ⟨by rw [hhead]; rfl, by rw [hhead, ← hevals]; rfl, by rw [hhead, ← hweights]; rfl, by rw [hhead, ← hgen]; rfl,
    fun hno => hquiet fun ⟨hdetector, _⟩ => by simp [hno] at hdetector,
    fun hpoison => hquiet fun ⟨_, hgood, hsound⟩ => hpoison.elim (by simp [hgood]) hsound⟩

/-- Settles O27: a start of an evaluation is the boundary and then a head that takes the frame, or one that refuses its taps; what ends an
evaluation leaves the head's weights and generation, and an alarm needs a detector and a sound value. -/
theorem headEvaluationsRun : Obligations.HeadEvaluationsRun :=
  ⟨fun _ _ _ => evaluation_starts, fun _ _ _ => shape_refused, fun _ _ _ _ _ => evaluation_ends⟩

end Sys2Proof.Machine
end

section
/-! Adaptation windows (R185 to R191): how one opens, steps, validates and ends. -/
namespace Sys2Proof.Machine
open Sys2Proof.Say

variable {s u : State} {a : Act} {id : Nat} {w : AdaptWin} {rest : List AdaptWin}

/-! ## The first window -/

/-- What ADPSTAT shows of the first window (R185). -/
def AdaptWin.state (w : AdaptWin) : Nat := if w.validating then 3 else if w.opened.isSome then 2 else 1

theorem then_updWin {f : AdaptWin → AdaptWin} (hwins : (u.stream id).head.wins = w :: rest) :
    ((u.then (updWin id f)).stream id).head = { (u.stream id).head with wins := f w :: rest } := by
  rw [updWin, stream_updHead, hwins]
  rfl

theorem then_syncAdapt (hwins : (u.stream id).head.wins = w :: rest) :
    u.then (syncAdapt id) = u.then (setS F.FXG_ADPSTAT_STATE id (AdaptWin.state w)) :=
  then_congr (by rw [syncAdapt, hwins]; rfl)

theorem stream_syncAdapt : (u.then (syncAdapt id)).stream id = u.stream id := (rfl)

theorem turns_syncAdapt : Effs (Eff.turns [.FXG_ADPSTAT]) (syncAdapt id u) := by
  simp [syncAdapt, F.FXG_ADPSTAT_STATE]

/-- A command that ends by showing its first window gives a head with these windows. -/
theorem shown_syncAdapt {t : State} (hwins : (u.stream id).head.wins = w :: rest) (ht : SnapSame (u.then (syncAdapt id)) t) :
    (t.stream id).head = (u.stream id).head ∧ t.sget F.FXG_ADPSTAT_STATE id = AdaptWin.state w % 4 := by
  refine ⟨by rw [ht.stream, stream_syncAdapt], ?_⟩
  rw [ht.sget (by decide), then_syncAdapt hwins, sget_setS (by decide)]
  rfl

/-! ## Opening, steps and validation (R186 to R190) -/

/-- A window opens with the samples that its descriptor draws (R186). -/
def AdaptWin.openIn (s : State) (id : Nat) (d : WinDesc) (w : AdaptWin) : AdaptWin :=
  let p := s.windowPairs id d
  { w with opened := some s.now, train := p.1, valid := p.2.1, unpaired := p.2.2 }

theorem window_opens (hwins : (s.stream id).head.wins = w :: rest) (hopened : w.opened = none)
    (hstart : (WinDesc.parse w.desc).start ≤ s.now) (hvalid : w.validating = false) : gives (.adaptWindowOpen id) s fun t =>
      (t.stream id).head.wins = openedWin s id w :: rest ∧
      (t.stream id).head.cand = (s.stream id).head.weights ∧ t.sget F.FXG_ADPSTAT_STATE id = 2 ∧
      sameRegs [.FXG_ADPSTAT] s t ∧ sameMem s t := by
  have hthen : s.then (adaptWindowOpenX id) = s.then (.seq [updWin id (AdaptWin.openIn s id (WinDesc.parse w.desc)),
      updHead id fun h => { h with cand := h.weights }, syncAdapt id]) := then_congr (by
    simp only [adaptWindowOpenX, hwins]
    exact if_neg (by simp [hopened, hstart]))
  refine done_holds fun t ht => ?_
  rw [hthen] at ht
  obtain ⟨hregs, hmem, -, -⟩ := same_of_turns (l := [.FXG_ADPSTAT])
    (allEff_iff.2 fun v => by simp [updWin, updHead, turns_syncAdapt]) ht
  simp only [then_seq_cons, then_seq_nil] at ht
  have hhead := then_updWin (f := AdaptWin.openIn s id (WinDesc.parse w.desc)) hwins
  obtain ⟨hshown, hstate⟩ := shown_syncAdapt (w := openedWin s id w) (rest := rest) (by rw [stream_updHead, hhead]; rfl) ht
  rw [stream_updHead, hhead] at hshown
  exact ⟨by rw [hshown]; rfl, by rw [hshown], by simp [hstate, AdaptWin.state, openedWin, hvalid], hregs, hmem⟩

/-- The candidate weights after the next step of a window (R188, R189). -/
def Head.step (s : State) (id : Nat) (p : Prog) (w : AdaptWin) (h : Head) : Head :=
  let d := WinDesc.parse w.desc
  { h with cand := adaptStep (AdaptRec.parse (s.headInfo id).adapt) (backward p h.cand (batchOf w.train w.steps (s.batch id))
      (bitList 64 d.tiles).length) d.seed (s.sget F.FXG_ADPSTEP_STEP id + 1) h.cand }

theorem window_steps {p : Prog} (hwins : (s.stream id).head.wins = w :: rest) (hp : s.headProg id = some p) (hopened : w.opened ≠ none)
    (hvalid : w.validating = false) (hsteps : w.steps < (WinDesc.parse w.desc).steps) (hover : s.windowOver w = false)
    (htrain : w.train ≠ []) : gives (.adaptStepDone id) s fun t =>
      (t.stream id).head.wins = { w with steps := w.steps + 1 } :: rest ∧
      (t.stream id).head.weights = (s.stream id).head.weights ∧ (t.stream id).head.gen = (s.stream id).head.gen ∧
      t.sget F.FXG_ADPSTEP_STEP id = (s.sget F.FXG_ADPSTEP_STEP id + 1) % 2 ^ 32 ∧ sameRegs [.FXG_ADPSTEP] s t ∧ sameMem s t := by
  have hthen : s.then (adaptStepDoneX id) = s.then (.seq [setS F.FXG_ADPSTEP_STEP id (s.sget F.FXG_ADPSTEP_STEP id + 1),
      updHead id (Head.step s id p w), updWin id fun w => { w with steps := w.steps + 1 }]) := then_congr (by
    simp only [adaptStepDoneX, hwins, hp]
    exact if_neg (by simp [hopened, hvalid, hsteps, hover, htrain]))
  refine done_holds fun t ht => ?_
  rw [hthen] at ht
  obtain ⟨hregs, hmem, -, -⟩ := same_of_turns (l := [.FXG_ADPSTEP])
    (allEff_iff.2 fun v => by simp [updWin, updHead, F.FXG_ADPSTEP_STEP]) ht
  simp only [then_seq_cons, then_seq_nil] at ht
  have hhead := (congrArg Stream.head (ht.stream id)).trans (then_updWin (w := w) (rest := rest)
    (by rw [stream_updHead, stream_setS]; exact hwins))
  rw [stream_updHead, stream_setS] at hhead
  refine ⟨by rw [hhead], by rw [hhead]; rfl, by rw [hhead]; rfl, ?_, hregs, hmem⟩
  rw [ht.sget (by decide), updWin, sget_updHead, sget_updHead, sget_setS (by decide)]
  rfl

theorem validation_begins (hwins : (s.stream id).head.wins = w :: rest) (hopened : w.opened ≠ none) (hvalid : w.validating = false)
    (hdone : (WinDesc.parse w.desc).steps ≤ w.steps ∨ s.windowOver w = true) : gives (.adaptWindowEnd id) s fun t =>
      (t.stream id).head.wins = { w with validating := true } :: rest ∧
      t.sget F.FXG_ADPSTAT_STATE id = 3 ∧ sameRegs [.FXG_ADPSTAT] s t ∧ sameMem s t := by
  have hthen : s.then (adaptWindowEndX id) =
      s.then (.seq [updWin id fun w => { w with validating := true }, syncAdapt id]) := then_congr (by
    simp only [adaptWindowEndX, hwins]
    exact if_neg (by simpa [hopened, hvalid] using fun h : w.steps < _ => hdone.resolve_left h.not_ge))
  refine done_holds fun t ht => ?_
  rw [hthen] at ht
  obtain ⟨hregs, hmem, -, -⟩ := same_of_turns (l := [.FXG_ADPSTAT])
    (allEff_iff.2 fun v => by simp [updWin, updHead, turns_syncAdapt]) ht
  simp only [then_seq_cons, then_seq_nil] at ht
  have hhead := then_updWin (f := fun w => { w with validating := true }) hwins
  obtain ⟨hshown, hstate⟩ := shown_syncAdapt (w := { w with validating := true }) (rest := rest) (by rw [hhead]) ht
  exact ⟨by rw [hshown, hhead], by simp [hstate, AdaptWin.state], hregs, hmem⟩

/-! ## The outcome (R191, R192) -/

/-- The candidate weights come into use as a new generation. -/
def Head.commit (h : Head) : Head := { h with prevW := h.weights, hasPrev := true, weights := h.cand, gen := h.gen + 1 }

/-- A window comes off: ADPSTAT gives its outcome, and its request completes. -/
theorem window_ends {t : State} {reason status : Nat} (hwins : (u.stream id).head.wins = w :: rest)
    (ht : SnapSame (u.then (endWindow id w reason status)) t) :
    (t.stream id).head = { (u.stream id).head with wins := rest } ∧ t.sget F.FXG_ADPSTAT_REASON id = reason % 16 := by
  have hend : u.then (endWindow id w reason status) = ((((u.then (updHead id fun h => { h with wins := h.wins.erase w })).then
      (setS F.FXG_ADPSTAT_REASON id reason)).then (syncAdapt id)).then (completeHeld (u.stream id).inst w.req status id 0)) := by
    have hseq : u.then (endWindow id w reason status) = u.then (.seq [updHead id fun h => { h with wins := h.wins.erase w },
        setS F.FXG_ADPSTAT_REASON id reason, syncAdapt id, completeHeld (u.stream id).inst w.req status id 0]) := then_congr rfl
    rw [hseq]
    simp only [then_seq_cons, then_seq_nil]
  have hkeeps : AllEff (Eff.keepsOf Stream.head) (completeHeld (u.stream id).inst w.req status id 0) := allEff_iff.2 fun v => by simp
  have hoff : AllEff (Eff.off .FXG_ADPSTAT) (completeHeld (u.stream id).inst w.req status id 0) := allEff_iff.2 fun v =>
    off_completeHeld (by decide)
  have hsync (v : State) : (v.then (syncAdapt id)).sget F.FXG_ADPSTAT_REASON id = v.sget F.FXG_ADPSTAT_REASON id :=
    sget_setS_ne (by decide) (by decide)
  rw [hend] at ht
  refine ⟨?_, ?_⟩
  · rw [ht.stream, stream_of_keepsOf hkeeps, stream_syncAdapt, stream_setS, stream_updHead, hwins, List.erase_cons_head]
  · rw [ht.sget (by decide), State.sget, get_of_off (f := F.FXG_ADPSTAT_REASON) hoff, ← State.sget, hsync,
      sget_setS (by decide)]
    rfl

/-- What ends a validation: its loss, its outcome, the candidate weights where they are better, and the window's end. -/
theorem then_adaptValidationDone {p : Prog} (hwins : (s.stream id).head.wins = w :: rest) (hp : s.headProg id = some p)
    (hvalid : w.validating = true) : ∃ loss reason status, reason < 16 ∧
      (w.valid.length < 32 ∨ w.train.length < s.batch id → reason = reFewPairs) ∧
      s.then (adaptValidationDoneX id) = (((s.then (setS F.FXG_ADPLOSS_LOSS id loss)).then
        (.when (reason == reCommitted) (updHead id Head.commit))).then (endWindow id w reason status)) := by
  have hact : ∃ loss reason status, reason < 16 ∧ (w.valid.length < 32 ∨ w.train.length < s.batch id → reason = reFewPairs) ∧
      adaptValidationDoneX id s = Act.seq [setS F.FXG_ADPLOSS_LOSS id loss, .when (reason == reCommitted) (updHead id Head.commit),
        endWindow id w reason status] s := by
    simp only [adaptValidationDoneX, hwins, hp]
    rw [if_neg (by simp [hvalid])]
    refine ⟨_, _, _, ?_, fun hfew => if_pos hfew, rfl⟩
    split_ifs <;> decide
  obtain ⟨loss, reason, status, hlt, hfew, hact⟩ := hact
  refine ⟨loss, reason, status, hlt, hfew, ?_⟩
  rw [then_congr hact]
  simp only [then_seq_cons, then_seq_nil]

theorem window_validated {p : Prog} (hwins : (s.stream id).head.wins = w :: rest) (hp : s.headProg id = some p)
    (hvalid : w.validating = true) : gives (.adaptValidationDone id) s fun t => (t.stream id).head.wins = rest ∧
      (w.valid.length < 32 ∨ w.train.length < s.batch id → t.sget F.FXG_ADPSTAT_REASON id = 3) ∧
      (t.sget F.FXG_ADPSTAT_REASON id = 1 → (t.stream id).head.weights = (s.stream id).head.cand ∧
        (t.stream id).head.prevW = (s.stream id).head.weights ∧ (t.stream id).head.gen = (s.stream id).head.gen + 1) ∧
      (t.sget F.FXG_ADPSTAT_REASON id ≠ 1 → (t.stream id).head.weights = (s.stream id).head.weights ∧
        (t.stream id).head.gen = (s.stream id).head.gen) := by
  obtain ⟨loss, reason, status, hlt, hfew, hthen⟩ := then_adaptValidationDone hwins hp hvalid
  refine done_holds fun t ht => ?_
  rw [hthen] at ht
  have hcommitted : (((s.then (setS F.FXG_ADPLOSS_LOSS id loss)).then
      (.when (reason == reCommitted) (updHead id Head.commit))).stream id).head = if reason = 1 then (s.stream id).head.commit else (s.stream id).head := by
    rw [then_when]
    by_cases hreason : reason = 1
    · simp [hreason, reCommitted]
    · simp [hreason, reCommitted]
  obtain ⟨hhead, hreason⟩ := window_ends (rest := rest) (by rw [hcommitted]; split <;> exact hwins) ht
  rw [hcommitted] at hhead
  rw [hreason, Nat.mod_eq_of_lt hlt]
  refine ⟨by rw [hhead], hfew, fun hone => ?_, fun hother => ?_⟩
  · rw [hhead, if_pos hone]
    exact ⟨rfl, rfl, rfl⟩
  · rw [hhead, if_neg hother]
    exact ⟨rfl, rfl⟩

/-- Settles O28: each event of a window changes the first window and shows its state, and only the better loss commits the weights. -/
theorem adaptationWindowsRun : Obligations.AdaptationWindowsRun :=
  ⟨fun _ _ _ _ => window_opens, fun _ _ _ _ _ => window_steps, fun _ _ _ _ => validation_begins, fun _ _ _ _ _ => window_validated⟩

end Sys2Proof.Machine
end

section
/-! What a learned decoder does with a received unit leaves the windows of streams (R314). -/
namespace Sys2Proof.Machine

variable {u : State}

/-- The effect leaves every stream's window. -/
abbrev Eff.keepsWindow : Eff → Prop := Eff.keepsOf Stream.window

/-! ## Output -/

@[simp] theorem keepsWindow_updLsc {id : Nat} {f : Lsc → Lsc} : Effs Eff.keepsWindow (updLsc id f u) := by
  simp [updLsc]

@[simp] theorem keepsWindow_updFrame {id frame : Nat} {g : LscFrame → LscFrame} : Effs Eff.keepsWindow (updFrame id frame g u) :=
  keepsWindow_updLsc

@[simp] theorem keepsWindow_syncLive {id : Nat} : Effs Eff.keepsWindow (syncLive id u) := by
  simp [syncLive]

@[simp] theorem keepsWindow_enqueue {t q id flags : Nat} {bs : List Byte} {req : Option LiveReq} :
    Effs Eff.keepsWindow (enqueue t q id bs flags req u) := by
  simp [enqueue, syncResident, addLive]

@[simp] theorem keepsWindow_egressPump {id : Nat} : Effs Eff.keepsWindow (egressPump id u) := by
  simp [egressPump]

@[simp] theorem keepsWindow_unitsOut {id frame : Nat} {bs : List Byte} : Effs Eff.keepsWindow (unitsOut id frame bs u) := by
  have hput : Effs Eff.keepsWindow (putOutput (homeOf id) id bs false false u) := by
    unfold putOutput
    dsimp only
    split <;> simp [writeBuf]
  simp [unitsOut, stageBarrier, hput]

/-! ## Planes and fences -/

@[simp] theorem keepsWindow_putTensor {p : Prog} {li r q k : Nat} {v : Int} {bad : Bool} :
    Effs Eff.keepsWindow (putTensor p li r q k v bad u) := by
  unfold putTensor
  split <;> simp

@[simp] theorem keepsWindow_remakeAt {x : RunCx} {r q : Nat} : Effs Eff.keepsWindow (remakeAt x r q u) := by
  simp [remakeAt, putBlock, putPos]

@[simp] theorem keepsWindow_remake {p : Prog} {id ix j0 j1 : Nat} {f : LscFrame} {all bare : Bool} :
    Effs Eff.keepsWindow (remake p id f ix j0 j1 all bare u) := by
  refine effs_each fun li v => effs_opt.2 fun l _ => effs_each fun e w => effs_each fun r x => ?_
  simp

@[simp] theorem keepsWindow_decFences {id frame : Nat} : Effs Eff.keepsWindow (decFences id frame u) := by
  unfold decFences
  split
  · simp
  · split
    · simp
    · refine effs_each fun l v => effs_each fun e w => ?_
      simp

@[simp] theorem keepsWindow_lostMeans {id frame : Nat} : Effs Eff.keepsWindow (lostMeans id frame u) := by
  unfold lostMeans
  dsimp only
  repeat' split
  all_goals simp

@[simp] theorem keepsWindow_zeroPlot {id : Nat} {f : LscFrame} {e : Prog × Nat × Nat × Nat} {p : PlotSt} :
    Effs Eff.keepsWindow (zeroPlot id f e p u) := by
  have hfence (n : Nat) (v : State) : Effs Eff.keepsWindow (syncFences n v) := effs_each fun k w => by simp [syncFence]
  simp [zeroPlot, hfence]

/-! ## Frames -/

@[simp] theorem keepsWindow_sendRefresh {id frame reason : Nat} {isNew : Bool} :
    Effs Eff.keepsWindow (sendRefresh id frame reason isNew u) := by
  unfold sendRefresh
  dsimp only
  split
  · simp
  · cases (u.stream id).lsc.fromPeer <;> simp

@[simp] theorem keepsWindow_repeatRefresh {id frame : Nat} : Effs Eff.keepsWindow (repeatRefresh id frame u) := by
  unfold repeatRefresh
  dsimp only
  split <;> simp

@[simp] theorem keepsWindow_decEvent {id reason : Nat} {f : LscFrame} : Effs Eff.keepsWindow (decEvent id f reason u) := by
  simp [decEvent]

@[simp] theorem keepsWindow_decAdvance {id : Nat} : Effs Eff.keepsWindow (decAdvance id u) := by
  unfold decAdvance
  split
  · simp
  · split
    · simp
    · split <;> simp

@[simp] theorem keepsWindow_closeFrame {id : Nat} : Effs Eff.keepsWindow (closeFrame id u) := by
  unfold closeFrame
  split <;> simp

/-! ## Units -/

@[simp] theorem keepsWindow_syncPins : Effs Eff.keepsWindow (syncPins u) := by
  have htsets (k : Nat) (v : State) : Effs Eff.keepsWindow (syncTsets k v) := by simp [syncTsets]
  simp [syncPins, htsets]

@[simp] theorem keepsWindow_orphan {id : Nat} : Effs Eff.keepsWindow (orphan id u) := by
  simp [orphan]

@[simp] theorem keepsWindow_finalFrame {id st : Nat} {o : Osf} : Effs Eff.keepsWindow (finalFrame id o st u) := keepsWindow_updLsc

@[simp] theorem keepsWindow_refuseHeader {id frame st : Nat} : Effs Eff.keepsWindow (refuseHeader id frame st u) := by
  simp [refuseHeader]

@[simp] theorem keepsWindow_decHeader {id : Nat} {o : Osf} : Effs Eff.keepsWindow (decHeader id o u) := by
  unfold decHeader
  simp only [effs_seq_cons, effs_seq_nil, effs_read, and_true]
  refine ⟨by simp, by simp [applyRegs], ?_⟩
  generalize State.then _ _ = v
  refine effs_ite_act.2 ⟨fun _ => keepsWindow_refuseHeader, fun _ => ?_⟩
  generalize Option.filter _ _ = named
  cases named <;> simp

@[simp] theorem keepsWindow_decFrame {id : Nat} {o : Osf} : Effs Eff.keepsWindow (decFrame id o u) := by
  simp [decFrame]

@[simp] theorem keepsWindow_decPlot {id : Nat} {o : Osf} {pz : Bool} : Effs Eff.keepsWindow (decPlot id o pz u) := by
  unfold decPlot
  dsimp only
  split <;> simp

@[simp] theorem keepsWindow_decUnit {id : Nat} {pz : Bool} {o : Osf} : Effs Eff.keepsWindow (decUnit id pz o u) := by
  unfold decUnit
  dsimp only
  cases (u.stream id).lsc.refused <;> simp

/-- The units that a request brings leave its window. -/
theorem keepsWindow_osfRx {id : Nat} {peer : Option Nat} {pz : Bool} {bs : List Byte} : AllEff Eff.keepsWindow (osfRx id peer pz bs) :=
  allEff_iff.2 fun u => by
  unfold osfRx
  dsimp only
  split
  · exact effs_nil
  · refine effs_seq_cons.2 ⟨by simp, effs_seq_cons.2 ⟨effs_each fun o v => ?_, effs_seq_nil⟩⟩
    cases o <;> simp [encUnit, keyRequest]

end Sys2Proof.Machine
end

section
/-! The state in which an accepted request is executed reads as the state before it, but for its window and its tenant's requests. -/
namespace Sys2Proof.Machine
open Sys2Proof.Say

variable {s u : State} {o : Origin} {opc : Nat} {h : ReqHdr} {p : List Byte}

/-! ## States that read alike -/

/-- A stream's context apart from its window. -/
def Stream.bare (x : Stream) : Stream := { x with window := {} }

/-- The state differs at most in windows, in the requests of tenants, and in what `SMV_SLIVE1` shows. -/
structure State.ReadsAs (s u : State) : Prop where
  rest : ∃ c x l, u = { s with regs := c, streams := x, insts := l }
  reg : ∀ r t ix, r ≠ .SMV_SLIVE1 → u.reg r t ix = s.reg r t ix
  stream : ∀ id, (u.stream id).bare = (s.stream id).bare
  loaded : ∀ n, (u.inst n).loaded = (s.inst n).loaded

theorem readsAs_accepted (newer : Bool) : s.ReadsAs (s.accepted o opc h newer) where
  rest := by
    unfold State.accepted updW
    cases isCtl h <;> cases newer <;> exact ⟨_, _, _, rfl⟩
  reg r t ix hr := reg_off s (allEff_iff.2 fun v => by
    cases hc : isCtl h <;> cases newer <;> simp [updW, F.SMV_SLIVE1_HIGH, Eff.off, hr.symm]) t ix
  stream id := stream_of_keepsOf (allEff_iff.2 fun v => by
    cases hc : isCtl h <;> simp [updW, Stream.bare]) id
  loaded n := by
    have hhigh (v : State) : ((v.then (.when (newer && !isCtl h) (setS F.SMV_SLIVE1_HIGH h.stream h.seq))).inst n).loaded =
        (v.inst n).loaded := by
      rw [then_when]
      split <;> rfl
    have hwindow : ((s.then (updW h.inst (isCtl h) h.stream fun w => w.enter h.seq h.digest newer)).inst n).loaded = (s.inst n).loaded := by
      cases isCtl h with
      | false => rfl
      | true => exact inst_updI_keeps (v := Inst.loaded) (f := fun x => { x with ctl := x.ctl.enter h.seq h.digest newer }) (fun _ => rfl) n
    simp only [State.accepted, then_seq_cons, then_seq_nil]
    rw [inst_updI_keeps (v := Inst.loaded), hhigh, hwindow]
    exact fun _ => rfl

namespace State.ReadsAs

variable (hu : s.ReadsAs u)
include hu

theorem get {f : Fld} (hf : f.reg ≠ .SMV_SLIVE1) (t ix : Nat) : u.get f t ix = s.get f t ix :=
  congrArg (fun w => getBits w f.hi f.lo) (hu.reg f.reg t ix hf)

theorem sget {f : Fld} (hf : f.reg ≠ .SMV_SLIVE1) (id : Nat) : u.sget f id = s.sget f id := hu.get hf _ _

theorem slive {f : Fld} (hf : f.reg ≠ .SMV_SLIVE1) (id : Nat) : u.slive f id = s.slive f id := by
  have hforce : u.force = s.force := by
    obtain ⟨_, _, _, rfl⟩ := hu.rest
    rfl
  simp only [State.slive, State.live, State.liveReg, hforce, hu.reg _ _ _ hf]

theorem tile (t : Nat) : u.tile t = s.tile t := by
  obtain ⟨_, _, _, rfl⟩ := hu.rest
  rfl

theorem bytes (a n : Nat) : u.bytes a n = s.bytes a n := by
  obtain ⟨_, _, _, rfl⟩ := hu.rest
  rfl

theorem poisonedIn (a n : Nat) : u.poisonedIn a n = s.poisonedIn a n := by
  obtain ⟨_, _, _, rfl⟩ := hu.rest
  rfl

theorem pkg : u.pkg = s.pkg := by
  obtain ⟨_, _, _, rfl⟩ := hu.rest
  rfl

theorem now : u.now = s.now := by
  obtain ⟨_, _, _, rfl⟩ := hu.rest
  rfl

theorem mem (b : Nat) : u.byte b = s.byte b := by
  obtain ⟨_, _, _, rfl⟩ := hu.rest
  rfl

theorem stages (id : Nat) : (u.stream id).stages = (s.stream id).stages := (congrArg Stream.stages (hu.stream id) :)
theorem tenant (id : Nat) : (u.stream id).inst = (s.stream id).inst := (congrArg Stream.inst (hu.stream id) :)
theorem iblist (id : Nat) : (u.stream id).iblist = (s.stream id).iblist := (congrArg Stream.iblist (hu.stream id) :)
theorem head (id : Nat) : (u.stream id).head = (s.stream id).head := (congrArg Stream.head (hu.stream id) :)
theorem xfq (id : Nat) : (u.stream id).xfq = (s.stream id).xfq := (congrArg Stream.xfq (hu.stream id) :)
theorem barriers (id : Nat) : (u.stream id).barriers = (s.stream id).barriers := (congrArg Stream.barriers (hu.stream id) :)

theorem prog (n id : Nat) : u.prog n id = s.prog n id := by
  have hprogs : (u.inst n).progs = (s.inst n).progs := congrArg Prod.fst (hu.loaded n)
  rw [State.prog, hprogs, State.prog]

theorem overlays (n : Nat) : (u.inst n).overlays = (s.inst n).overlays := congrArg Prod.snd (hu.loaded n)

theorem inMem (n a len : Nat) : u.inMem n a len = s.inMem n a len := by
  have hhost (fn e : Nat) : u.hostEntry fn e = s.hostEntry fn e := by
    simp only [State.hostEntry, hu.get (f := F.LNK_HWE_LO_EN) (by decide), hu.get (f := F.LNK_PCISTAT_NUMVF) (by decide),
      hu.get (f := F.LNK_HWE_LO_HBASE_LO) (by decide), hu.get (f := F.LNK_HWE_HI_HBASE_HI) (by decide)]
  have howner (k : Nat) : u.owner k = s.owner k := by
    simp only [State.owner, hu.get (f := F.PRT_TOWN_ASSIGNED) (by decide), hu.get (f := F.PRT_TOWN_INST) (by decide)]
  have hunit (k : Nat) : u.unitOwner k = s.unitOwner k := by
    simp only [State.unitOwner, hu.reg .PRT_MOWN _ _ (by decide)]
  have hreach : u.hbmReach = s.hbmReach := by
    simp only [State.hbmReach, State.ports, hu.get (f := F.MGT_HBMCFG_INSVC) (by decide)]
  simp only [State.inMem, State.hbmOwned, hhost, howner, hunit, hreach]

theorem blockList (n a : Nat) : u.blockList n a = s.blockList n a := by
  simp only [State.blockList, State.inDev, hu.inMem, hu.poisonedIn, hu.bytes]

theorem isLive (id : Nat) : u.isLive id = s.isLive id := by
  simp only [State.isLive, State.slotState, hu.sget (f := F.SMV_SLIVE0_STATE) (by decide)]

theorem takesInput (id : Nat) : u.takesInput id = s.takesInput id := by
  simp only [State.takesInput, hu.stages]

theorem isLscDec (id : Nat) : u.isLscDec id = s.isLscDec id := by
  simp only [State.isLscDec, hu.isLive, hu.stages, hu.slive (f := F.ECE_LSCW0_DIR) (by decide)]

theorem isLscEnc (id : Nat) : u.isLscEnc id = s.isLscEnc id := by
  simp only [State.isLscEnc, hu.isLive, hu.stages, hu.slive (f := F.ECE_LSCW0_DIR) (by decide)]

theorem isSceEnc (id : Nat) : u.isSceEnc id = s.isSceEnc id := by
  simp only [State.isSceEnc, hu.isLive, hu.stages, hu.slive (f := F.SCE_SW0_DIR) (by decide)]

theorem qDepth (k q : Nat) : u.qDepth k q = s.qDepth k q := by
  simp only [State.qDepth, hu.get (f := F.SMV_QCFG_LOGDEPTH) (by decide)]

theorem qFull (k q : Nat) : u.qFull k q = s.qFull k q := by
  rw [State.qFull, State.qResident, hu.qDepth, hu.get (f := F.SMV_QTAIL_TAIL) (by decide), hu.get (f := F.SMV_QHEAD_HEAD) (by decide)]
  rfl

theorem qSlotAddr (k q slot : Nat) : u.qSlotAddr k q slot = s.qSlotAddr k q slot := by
  simp only [State.qSlotAddr, hu.qDepth, hu.tile]

theorem itemPlace (n id : Nat) (i : Item) : u.itemPlace n id i = s.itemPlace n id i := by
  simp only [State.itemPlace, hu.prog, hu.overlays, hu.xfq]

theorem adaptStatus (n id : Nat) : u.adaptStatus n id p = s.adaptStatus n id p := by
  have htiles : u.tilesOf n = s.tilesOf n := by
    rw [State.tilesOf, State.instState, State.itiles, hu.get (f := F.PRT_ISTAT_STATE) (by decide),
      hu.get (f := F.PRT_ITILES_LO_TILES) (by decide), hu.get (f := F.PRT_ITILES_HI_TILES) (by decide)]
    rfl
  rw [State.adaptStatus, State.headProg, State.headInfo, htiles, hu.stages, hu.tenant, hu.head, hu.pkg, hu.now,
    hu.sget (f := F.FXG_HDW1_PROG_ID) (by decide), hu.sget (f := F.FXG_HDW5_FRPAGES) (by decide), hu.prog]
  rfl

theorem revertStatus (n id : Nat) : u.revertStatus n id = s.revertStatus n id := by
  simp only [State.revertStatus, hu.stages, hu.tenant, hu.head]

end State.ReadsAs

/-! ## The requests of streams -/

/-- The opcodes of streams go without `CTL` (R314). -/
theorem isCtl_of_stream (hp : passes s o opc h p) (hopc : 0x10 ≤ opc) : isCtl h = false := by
  obtain ⟨-, -, -, -, hctl, -⟩ := hp
  simpa [opCtlOk, opNop, hopc.not_gt, show opc ≠ 5 by omega] using hctl

theorem stream_liveOf (hc : isCtl h = false) : (liveOf o opc h).stream = h.stream := by
  simp [Say.liveOf, hc]

/-- A request that passes the checks is executed in a state that reads alike, where its window awaits its record. -/
theorem then_request (hp : passes s o opc h p) : ∃ u, s.ReadsAs u ∧ u.entered h ∧
    s.then (handleRequest o opc h p) = u.then (execute h.inst opc (liveOf o opc h) p) :=
  let ⟨newer, hthen⟩ := then_handleRequest hp
  ⟨_, readsAs_accepted newer, entered_accepted newer, hthen⟩

/-- The payload of a request that passes the checks has its opcode's size. -/
theorem length_of_passes {n : Nat} (hp : passes s o opc h p) (hsize : opSize opc = some n) : p.length = n := by
  obtain ⟨-, -, -, hstatus, -⟩ := hp
  have hform : ¬ (h.digest ≠ rdigest (reqHead opc h) p ∨ p.length ≠ h.len ∨ opSize opc ≠ some h.len) := by
    intro hbad
    unfold State.reqStatus at hstatus
    rw [if_pos hbad] at hstatus
    split at hstatus <;> cases hstatus
  simp only [not_or, not_not] at hform
  obtain ⟨-, hlen, hopsize⟩ := hform
  exact hlen.trans (Option.some.inj (hopsize.symm.trans hsize))

end Sys2Proof.Machine
end

section
/-! The requests of streams (R185, R192, R314, R323, R335), and the obligation. -/
namespace Sys2Proof.Machine
open Sys2Proof.Say

variable {s u t : State} {o : Origin} {h : ReqHdr} {p : List Byte} {n id k q : Nat} {r : LiveReq}

/-! ## Items in flight (R322, R323) -/

theorem stream_syncLive : (u.then (syncLive id)).stream id =
    { u.stream id with items := (u.stream id).items.filter fun i => !i.done || i.writes != 0 } := by
  rw [syncLive, then_seq_cons, then_seq_cons, then_seq_nil, then_read, stream_setS, stream_updS]

/-- An item that joins a stream waits with its request. -/
theorem waitsFor_addLive {i : LiveItem} (hdone : i.done = false) (hreq : i.req = some r) :
    waitsFor ((u.then (addLive id i)).then (syncLive id)) id i.tile i.q i.slot r := by
  rw [waitsFor, stream_syncLive, addLive, stream_updS]
  exact ⟨{ i with no := (u.stream id).barriers }, by simp [hdone], rfl, rfl, rfl, hreq, hdone⟩

/-- The item of a request in a slot of a queue. -/
def LiveItem.queued (k q slot flags : Nat) (r : LiveReq) : LiveItem := { tile := k, q := q, slot := slot, flags := flags, req := some r }

/-- What follows once a queue's slot is written: the tile's count of resident items, and the item in flight. -/
def joinStream (k id : Nat) (i : LiveItem) : Act := .seq [syncResident k, addLive id i, syncLive id]

theorem off_joinStream {i : LiveItem} : AllEff (Eff.off .SMV_QTAIL) (joinStream k id i) := allEff_iff.2 fun v => by
  simp [joinStream, syncResident, addLive, syncLive, F.SMV_RESIDENT_ITEMS, F.SMV_SLIVE0_INFLIGHT, Eff.off]

theorem offMem_joinStream {i : LiveItem} : AllEff Eff.offMem (joinStream k id i) := allEff_iff.2 fun v => by
  simp [joinStream, syncResident, addLive, syncLive, Eff.offMem]

theorem then_enqueue (bs : List Byte) (flags : Nat) : u.then (enqueue k q id bs flags (some r)) =
    ((u.then (memWrite (u.qSlotAddr k q (u.get F.SMV_QTAIL_TAIL k q)) bs false false)).then
      (setFx F.SMV_QTAIL_TAIL k q (cnt32 (u.get F.SMV_QTAIL_TAIL k q + 1)))).then
      (joinStream k id (LiveItem.queued k q (u.get F.SMV_QTAIL_TAIL k q) flags r)) := by
  rw [joinStream, ← then_seq_cons, ← then_seq_cons]
  exact then_congr rfl

/-- An item joins a queue: the tail advances, the slot holds its bytes, and it waits with its request. -/
theorem enqueued {bs : List Byte} {flags : Nat} (ht : SnapSame (u.then (enqueue k q id bs flags (some r))) t) :
    t.get F.SMV_QTAIL_TAIL k q = (u.get F.SMV_QTAIL_TAIL k q + 1) % 2 ^ 32 ∧
    t.bytes (u.qSlotAddr k q (u.get F.SMV_QTAIL_TAIL k q)) bs.length = bs ∧
    waitsFor t id k q (u.get F.SMV_QTAIL_TAIL k q) r := by
  rw [then_enqueue] at ht
  refine ⟨?_, ?_, ?_⟩
  · rw [ht.get _ _ _ (by decide), get_of_off (f := F.SMV_QTAIL_TAIL) off_joinStream, get_then_setFx _ _ _ _ _ (by decide)]
    exact Nat.mod_mod _ _
  · have hbyte (b : Nat) : t.byte b = (u.then (memWrite (u.qSlotAddr k q (u.get F.SMV_QTAIL_TAIL k q)) bs false false)).byte b := by
      rw [ht.byte, State.byte, mem_off _ offMem_joinStream]
      rfl
    rw [State.bytes, List.map_congr_left fun i _ => hbyte _]
    exact bytes_memWrite _ _ _ _
  · rw [waitsFor, ht.stream, joinStream, then_seq_cons, then_seq_cons, then_seq_cons, then_seq_nil]
    exact waitsFor_addLive rfl rfl

/-! ## INPUT (R314) -/

theorem entered_of_keepsWindow {a : Act} (hc : isCtl h = false) (ha : AllEff Eff.keepsWindow a) (hin : u.entered h) :
    (u.then a).entered h := by
  simp only [State.entered, State.window, hc] at hin ⊢
  exact (stream_of_keepsOf ha h.stream).symm ▸ hin

theorem execute_input (hc : r.ctl = false) : execute n opInput r p = inputRun n r p := by
  cases r
  cases hc
  rfl

/-- An `INPUT` whose bytes lie in the stream's blocks goes to a decoder at once or into the input queue. -/
theorem inputRun_eq {l : List Block} (htakes : u.takesInput r.stream = true) (hrsvd : leAt p 12 4 = 0)
    (hib : (u.stream r.stream).iblist ≠ 0) (hl : u.blockList n (u.stream r.stream).iblist = .ok l)
    (hin : leAt p 0 8 + leAt p 8 4 ≤ blocksLen l) : ∃ (pz : Bool) (units item : List Byte), inputRun n r p u =
      (if u.isLscDec r.stream ∧ !bitOf (u.stream r.stream).stages stSce then
        Act.seq [osfRx r.stream none pz units, completeReq n r 0 r.stream 0]
      else submitTo n r (homeOf r.stream) inputQueue item 0) u := by
  have hok : ¬ (!u.takesInput r.stream ∨ leAt p 12 4 ≠ 0 ∨ (u.stream r.stream).iblist = 0) := by simp [htakes, hrsvd, hib]
  simp only [inputRun, if_neg hok, hl, if_neg hin.not_gt]
  split
  · exact ⟨_, _, [], rfl⟩
  · exact ⟨false, [], _, rfl⟩

/-- An accepted `INPUT` is executed in a state that reads alike. -/
theorem then_input {l : List Block} (hp : passes s o opInput h p) (htakes : s.takesInput h.stream = true) (hrsvd : leAt p 12 4 = 0)
    (hib : (s.stream h.stream).iblist ≠ 0) (hl : s.blockList h.inst (s.stream h.stream).iblist = .ok l)
    (hin : leAt p 0 8 + leAt p 8 4 ≤ blocksLen l) : ∃ (u : State) (pz : Bool) (units item : List Byte), s.ReadsAs u ∧ u.entered h ∧
      s.then (handleRequest o opInput h p) = u.then (if s.isLscDec h.stream ∧ !bitOf (s.stream h.stream).stages stSce then
        Act.seq [osfRx h.stream none pz units, completeReq h.inst (liveOf o opInput h) 0 h.stream 0]
      else submitTo h.inst (liveOf o opInput h) (homeOf h.stream) inputQueue item 0) := by
  have hc := isCtl_of_stream hp (by decide)
  obtain ⟨u, hu, hentered, hthen⟩ := then_request hp
  rw [← hu.takesInput] at htakes
  rw [← hu.iblist] at hib hl
  rw [← hu.blockList] at hl
  rw [← stream_liveOf (o := o) (opc := opInput) hc] at htakes hib hl
  obtain ⟨pz, units, item, hrun⟩ := inputRun_eq htakes hrsvd hib hl hin
  rw [stream_liveOf hc, hu.isLscDec, hu.stages] at hrun
  exact ⟨u, pz, units, item, hu, hentered, by rw [hthen, execute_input hc, then_congr hrun]⟩

theorem input_queued {l : List Block} (hp : passes s o opInput h p) (htakes : s.takesInput h.stream = true) (hrsvd : leAt p 12 4 = 0)
    (hib : (s.stream h.stream).iblist ≠ 0) (hl : s.blockList h.inst (s.stream h.stream).iblist = .ok l)
    (hin : leAt p 0 8 + leAt p 8 4 ≤ blocksLen l)
    (hwait : ¬ (s.isLscDec h.stream = true ∧ bitOf (s.stream h.stream).stages stSce = false))
    (hfull : s.qFull (homeOf h.stream) inputQueue = false) : gives (.input o h p) s fun t =>
      let k := homeOf h.stream
      let tail := s.get F.SMV_QTAIL_TAIL k inputQueue
      t.get F.SMV_QTAIL_TAIL k inputQueue = (tail + 1) % 2 ^ 32 ∧ waitsFor t h.stream k inputQueue tail (liveOf o opInput h) := by
  have hc := isCtl_of_stream hp (by decide)
  obtain ⟨u, _, _, item, hu, -, hthen⟩ := then_input hp htakes hrsvd hib hl hin
  have hrun : submitTo h.inst (liveOf o opInput h) (homeOf h.stream) inputQueue item 0 u =
      enqueue (homeOf h.stream) inputQueue h.stream item 0 (some (liveOf o opInput h)) u := by
    simp [submitTo, stream_liveOf hc, hu.qFull, hfull]
  refine done_holds fun t ht => ?_
  rw [hthen, if_neg (by simpa using hwait), then_congr hrun] at ht
  obtain ⟨htail, -, hitem⟩ := enqueued ht
  rw [hu.get (by decide)] at htail hitem
  exact ⟨htail, hitem⟩

theorem input_decoded {l : List Block} (hp : passes s o opInput h p) (htakes : s.takesInput h.stream = true) (hrsvd : leAt p 12 4 = 0)
    (hib : (s.stream h.stream).iblist ≠ 0) (hl : s.blockList h.inst (s.stream h.stream).iblist = .ok l)
    (hin : leAt p 0 8 + leAt p 8 4 ≤ blocksLen l) (hdec : s.isLscDec h.stream = true)
    (hsce : bitOf (s.stream h.stream).stages stSce = false) : gives (.input o h p) s fun t => recorded t h 0 := by
  have hc := isCtl_of_stream hp (by decide)
  obtain ⟨u, _, _, _, -, hentered, hthen⟩ := then_input hp htakes hrsvd hib hl hin
  refine done_holds fun t ht => ?_
  rw [hthen, if_pos (by simp [hdec, hsce]), then_seq_cons, then_seq_cons, then_seq_nil] at ht
  exact ht.recorded (recorded_completeReq _ _ _ (entered_of_keepsWindow hc keepsWindow_osfRx hentered))

/-! ## SUBMIT (R323, R325) -/

theorem execute_submit (hc : r.ctl = false) : execute n opSubmit r p = submitRun n r p := by
  cases r
  cases hc
  rfl

theorem submit_queued (hp : passes s o opSubmit h p) (hid : (parseItem 0 0 p).stream = h.stream) (harr : (parseItem 0 0 p).engine ≠ 1)
    (hsce : (parseItem 0 0 p).engine ≠ 4) (hplace : s.itemPlace h.inst h.stream (parseItem 0 0 p) = some (k, q))
    (hfull : s.qFull k q = false) : gives (.submit o h p) s fun t =>
      let tail := s.get F.SMV_QTAIL_TAIL k q
      t.get F.SMV_QTAIL_TAIL k q = (tail + 1) % 2 ^ 32 ∧ t.bytes (s.qSlotAddr k q tail) 64 = p ∧
      waitsFor t h.stream k q tail (liveOf o opSubmit h) := by
  have hc := isCtl_of_stream hp (by decide)
  obtain ⟨u, hu, -, hthen⟩ := then_request hp
  have hrun : submitRun h.inst (liveOf o opSubmit h) p u =
      enqueue k q h.stream p (parseItem 0 0 p).flags (some (liveOf o opSubmit h)) u := by
    simp [submitRun, submitTo, stream_liveOf hc, hid, harr, hsce, hu.itemPlace, hplace, hu.qFull, hfull]
  refine done_holds fun t ht => ?_
  rw [hthen, execute_submit hc, then_congr hrun] at ht
  obtain ⟨htail, hbytes, hitem⟩ := enqueued ht
  rw [hu.get (by decide)] at htail hbytes hitem
  rw [hu.qSlotAddr, length_of_passes hp (n := 64) rfl] at hbytes
  exact ⟨htail, hbytes, hitem⟩

/-! ## BARRIER (R335) -/

theorem execute_barrier (hc : r.ctl = false) : execute n opBarrier r p = barrierRun r := by
  cases r
  cases hc
  rfl

theorem barrier_joins (hp : passes s o opBarrier h p) : gives (.barrierReq o h p) s fun t =>
    waitsFor t h.stream (homeOf h.stream) barrierQueue (s.stream h.stream).barriers (liveOf o opBarrier h) ∧ sameMem s t := by
  have hc := isCtl_of_stream hp (by decide)
  obtain ⟨u, hu, -, hthen⟩ := then_request hp
  have hrun : u.then (barrierRun (liveOf o opBarrier h)) = (u.then (addLive h.stream
      { tile := homeOf h.stream, q := barrierQueue, slot := (s.stream h.stream).barriers, flags := 1,
        req := some (liveOf o opBarrier h) })).then (syncLive h.stream) := by
    rw [← hu.barriers, ← then_seq_nil (State.then _ (syncLive _)), ← then_seq_cons, ← then_seq_cons]
    exact then_congr (by rw [barrierRun, stream_liveOf hc])
  refine done_holds fun t ht => ?_
  rw [hthen, execute_barrier hc, hrun] at ht
  refine ⟨?_, fun b => (ht.byte b).trans (hu.mem b)⟩
  rw [waitsFor, ht.stream]
  exact waitsFor_addLive rfl rfl

/-! ## KEYREQ (R314) -/

theorem execute_keyreq (hc : r.ctl = false) : execute n opKeyreq r p = keyreqRun n r := by
  cases r
  cases hc
  rfl

theorem then_keyreqRun : u.then (keyreqRun n r) = ((u.then (.when (u.isSceEnc r.stream) (sceKeyRequest r.stream))).then
    (.when (u.isLscEnc r.stream) (keyRequest r.stream))).then
      (completeReq n r (if u.isSceEnc r.stream || u.isLscEnc r.stream then 0 else 0x0104) r.stream 0) := by
  rw [← then_seq_nil (State.then _ (completeReq _ _ _ _ _)), ← then_seq_cons, ← then_seq_cons, ← then_seq_cons]
  exact then_congr rfl

/-- A key request of a coder is shown until it is taken. -/
theorem keypend_requests {sce lsc : Bool} {v : State} (hv : v = (u.then (.when sce (sceKeyRequest id))).then (.when lsc (keyRequest id))) :
    (sce = true → v.sget F.SCE_SLIVE1_KEYPEND id = 1) ∧ (lsc = true → v.sget F.ECE_LSCLIVE1_KEYPEND id = 1) := by
  have hoff : AllEff (Eff.off .SCE_SLIVE1) (.when lsc (keyRequest id)) := allEff_iff.2 fun v => by
    simp [keyRequest, F.ECE_LSCCNT_REFCNT, F.ECE_LSCLIVE1_KEYPEND, Eff.off]
  subst hv
  refine ⟨?_, ?_⟩
  · rintro rfl
    rw [State.sget, get_of_off (f := F.SCE_SLIVE1_KEYPEND) hoff, ← State.sget, then_when, if_pos rfl, sceKeyRequest, then_seq_cons,
      then_seq_cons, then_seq_nil, sget_setS (by decide)]
    rfl
  · rintro rfl
    rw [then_when, if_pos rfl, keyRequest, then_seq_cons, then_seq_cons, then_seq_nil, sget_setS (by decide)]
    rfl

theorem key_requested (hp : passes s o opKeyreq h p) (henc : s.isSceEnc h.stream = true ∨ s.isLscEnc h.stream = true) :
    gives (.keyreq o h p) s fun t => recorded t h 0 ∧ (s.isSceEnc h.stream = true → t.sget F.SCE_SLIVE1_KEYPEND h.stream = 1) ∧
      (s.isLscEnc h.stream = true → t.sget F.ECE_LSCLIVE1_KEYPEND h.stream = 1) := by
  have hc := isCtl_of_stream hp (by decide)
  obtain ⟨u, hu, hentered, hthen⟩ := then_request hp
  have hkeys : AllEff Eff.keepsWindow (.seq [.when (s.isSceEnc h.stream) (sceKeyRequest h.stream),
      .when (s.isLscEnc h.stream) (keyRequest h.stream)]) := allEff_iff.2 fun v => by simp [sceKeyRequest, keyRequest]
  have hin := entered_of_keepsWindow hc hkeys hentered
  simp only [then_seq_cons, then_seq_nil] at hin
  obtain ⟨hsce, hlsc⟩ := keypend_requests (u := u) (id := h.stream) rfl
  refine done_holds fun t ht => ?_
  rw [hthen, execute_keyreq hc, then_keyreqRun, stream_liveOf hc, hu.isSceEnc, hu.isLscEnc, if_pos (by simpa using henc)] at ht
  refine ⟨ht.recorded (recorded_completeReq _ _ _ hin), fun h => ?_, fun h => ?_⟩
  · rw [ht.sget (by decide), State.sget, get_of_off (f := F.SCE_SLIVE1_KEYPEND) (allEff_iff.2 fun v => off_completeReq (by decide)),
      ← State.sget, hsce h]
  · rw [ht.sget (by decide), State.sget, get_of_off (f := F.ECE_LSCLIVE1_KEYPEND) (allEff_iff.2 fun v => off_completeReq (by decide)),
      ← State.sget, hlsc h]

/-! ## ADAPT and REVERT (R185, R192) -/

theorem execute_adapt (hc : r.ctl = false) : execute n opAdapt r p = adaptRun n r p := by
  cases r
  cases hc
  rfl

theorem execute_revert (hc : r.ctl = false) : execute n opRevert r p = revertRun n r := by
  cases r
  cases hc
  rfl

theorem adapt_queued (hp : passes s o opAdapt h p) (hstatus : s.adaptStatus h.inst h.stream p = 0) : gives (.adapt o h p) s fun t =>
    (t.stream h.stream).head.wins = (s.stream h.stream).head.wins ++ [{ desc := p, req := liveOf o opAdapt h }] ∧ sameMem s t := by
  have hc := isCtl_of_stream hp (by decide)
  obtain ⟨u, hu, -, hthen⟩ := then_request hp
  have hrun : u.then (adaptRun h.inst (liveOf o opAdapt h) p) = (u.then (updHead h.stream fun x =>
      { x with wins := x.wins ++ [{ desc := p, req := liveOf o opAdapt h }] })).then (syncAdapt h.stream) := by
    rw [← then_seq_nil (State.then _ (syncAdapt _)), ← then_seq_cons, ← then_seq_cons]
    exact then_congr (by simp [adaptRun, adaptQueue, stream_liveOf hc, hu.adaptStatus, hstatus])
  refine done_holds fun t ht => ?_
  rw [hthen, execute_adapt hc, hrun] at ht
  refine ⟨?_, fun b => (ht.byte b).trans (hu.mem b)⟩
  rw [ht.stream, stream_syncAdapt, stream_updHead, hu.head]

theorem head_reverts (hp : passes s o opRevert h p) (hstatus : s.revertStatus h.inst h.stream = 0) : gives (.revert o h p) s fun t =>
    (t.stream h.stream).head.weights = (s.stream h.stream).head.prevW ∧
    (t.stream h.stream).head.gen = (s.stream h.stream).head.gen + 1 ∧ recorded t h 0 := by
  have hc := isCtl_of_stream hp (by decide)
  obtain ⟨u, hu, hentered, hthen⟩ := then_request hp
  have hrun : u.then (revertRun h.inst (liveOf o opRevert h)) = (u.then (revertHead h.stream)).then
      (completeReq h.inst (liveOf o opRevert h) 0 h.stream 0) := by
    rw [← then_seq_nil (State.then _ (completeReq _ _ _ _ _)), ← then_seq_cons, ← then_seq_cons]
    exact then_congr (by simp [revertRun, stream_liveOf hc, hu.revertStatus, hstatus, Act.when])
  have hrevert : AllEff Eff.keepsWindow (revertHead h.stream) := allEff_iff.2 fun v => by simp [revertHead, updHead]
  have hcomplete : AllEff (Eff.keepsOf Stream.head) (completeReq h.inst (liveOf o opRevert h) 0 h.stream 0) := allEff_iff.2 fun v => by simp
  refine done_holds fun t ht => ?_
  rw [hthen, execute_revert hc, hrun] at ht
  have hhead : (t.stream h.stream).head = ((u.then (revertHead h.stream)).stream h.stream).head := by
    rw [ht.stream, stream_of_keepsOf hcomplete]
  rw [revertHead, stream_updHead, hu.head] at hhead
  exact ⟨by rw [hhead], by rw [hhead], ht.recorded (recorded_completeReq _ _ _ (entered_of_keepsWindow hc hrevert hentered))⟩

/-- Settles O14: an accepted request is executed in a state that reads as before, and what its opcode does there joins a queue, a
stream's items or a head's windows, or ends in the record of its window. -/
theorem streamRequestsExecute : Obligations.StreamRequestsExecute :=
  ⟨fun _ _ _ _ _ hp htakes hrsvd hib hl hin hwait hfull => input_queued hp htakes hrsvd hib hl hin hwait hfull,
    fun _ _ _ _ _ hp htakes hrsvd hib hl hin hdec hsce => input_decoded hp htakes hrsvd hib hl hin hdec hsce,
    fun _ _ _ _ _ _ hp hid harr hsce hplace hfull => submit_queued hp hid harr hsce hplace hfull,
    fun _ _ _ _ hp => barrier_joins hp,
    fun _ _ _ _ hp henc => key_requested hp henc,
    fun _ _ _ _ hp hstatus => adapt_queued hp hstatus,
    fun _ _ _ _ hp hstatus => head_reverts hp hstatus⟩

end Sys2Proof.Machine
end

section
/-! Halos, microprograms and the conversion statistics (R217, R218, R248, R266): what a halo's rows and a load change beside the cut that
waits for them, and the clear of the statistics. -/
namespace Sys2Proof.Machine
open Sys2Proof.Say

variable {s u : State} {k q : Nat} {r : CutRun} {x : RunCx} {a : Act}

/-! ## A halo arrives (R217, R218) -/

/-- The registers that count what a halo's rows store, and show what its fence releases. -/
@[simp] def haloRegs : List Reg := [.ARR_HALOCNT, .ARR_QSTAT, .BAL_CLSCNT, .BAL_RMWCNT, .BAL_YSAVED, .YRD_FLIT, .MEM_WCINV]

/-- The effect stores bytes or changes a register of the halos, and leaves the work of the tiles and every other context. -/
@[simp] def Eff.storesHalo : Eff → Prop
  | .fld f _ _ _ | .countU f _ _ _ _ => f.reg ∈ haloRegs
  | .mem _ _ | .poison _ _ | .bale _ _ => True
  | .tile t f => (Eff.tile t f).keepsWork
  | _ => False

theorem Eff.off_of_storesHalo {g : Reg} (hg : g ∉ haloRegs) {e : Eff} (h : e.storesHalo) : e.off g := by
  cases e with
  | fld f | countU f => exact fun hf => hg (hf ▸ h)
  | mem | poison | bale | tile => trivial
  | _ => exact h.elim

theorem Eff.keepsWork_of_storesHalo {e : Eff} (h : e.storesHalo) : e.keepsWork := by
  cases e with
  | tile => exact h
  | _ => trivial

theorem Eff.offContexts_of_storesHalo {e : Eff} (h : e.storesHalo) : e.offStream ∧ e.offInst := by
  cases e with
  | stream | inst => exact h.elim
  | _ => exact ⟨trivial, trivial⟩

/-- Such a step leaves the other registers, the cuts of the arrays, and the contexts of streams and instances alone. -/
theorem same_of_storesHalo (h : AllEff Eff.storesHalo a) : sameRegs haloRegs u (u.then a) ∧
    ((u.then a).tile k).runs = (u.tile k).runs ∧ (u.then a).streams = u.streams ∧ (u.then a).insts = u.insts :=
  ⟨fun _ hg j ix => reg_off u (h.mono fun _ => Eff.off_of_storesHalo (List.not_mem_of_not_mem_cons hg)) j ix,
    (tile_of_keepsWork (h.mono fun _ => Eff.keepsWork_of_storesHalo) k).1,
    streams_off u (h.mono fun _ he => (Eff.offContexts_of_storesHalo he).1),
    insts_off u (h.mono fun _ he => (Eff.offContexts_of_storesHalo he).2)⟩

theorem storesHalo_memWrite {p : Nat} {bs : List Byte} {pz ask : Bool} : Effs Eff.storesHalo (memWrite p bs pz ask u) := by
  have hpoison (v : State) : Effs Eff.storesHalo (poisonWrite p bs.length (fun _ => pz) v) := by
    intro e he
    obtain ⟨g, _, hg⟩ := List.mem_filterMap.1 he
    split_ifs at hg <;> cases hg <;> trivial
  simp [memWrite, memWriteG, hpoison, baleBlock, wcInvalidate, F.BAL_CLSCNT_COUNT, F.BAL_RMWCNT_COUNT, F.MEM_WCINV_INV]

theorem storesHalo_yardReturn {t p n : Nat} : Effs Eff.storesHalo (yardReturn t p n u) := by
  simp [yardReturn, yardPacket, F.BAL_YSAVED_COUNT, F.YRD_FLIT_COUNT]

theorem storesHalo_syncFences {n : Nat} : Effs Eff.storesHalo (syncFences n u) := by
  have hfence (t : Nat) (v : State) : Effs Eff.storesHalo (syncFence t v) := by simp [syncFence, F.ARR_QSTAT_FENCEWAIT]
  simp [syncFences, hfence]

/-- A halo whose source has stored its rows is stored and counted; then its cut has it, and the registers show its fence. -/
theorem then_haloArrival {side : Nat} (hr : haloRun s k q side = some r) (hx : s.cxOf r = some x)
    (hready : s.haloReady x r side = true) : ∃ moved shown : List Act,
      AllEff Eff.storesHalo (.seq moved) ∧ AllEff Eff.storesHalo (.seq shown) ∧
      s.then (haloArrivalX k q side) =
        ((s.then (.seq moved)).then (updRun k q r.slot fun u => { u with halos := u.halos ++ [side] })).then (.seq shown) := by
  have hsteps : ∃ moved shown : List Act, AllEff Eff.storesHalo (.seq moved) ∧ AllEff Eff.storesHalo (.seq shown) ∧
      haloArrivalX k q side s =
        Act.seq (moved ++ updRun k q r.slot (fun u => { u with halos := u.halos ++ [side] }) :: shown) s := by
    unfold haloRun at hr
    simp only [haloArrivalX, hr, hx, hready, Bool.not_true, Bool.false_eq_true, if_false]
    refine ⟨[_, _, _], [_, _], ?_, ?_, rfl⟩
    · refine allEff_iff.2 fun v => ?_
      simp [storesHalo_memWrite, storesHalo_yardReturn, countUnit, F.ARR_HALOCNT_COUNT]
    · refine allEff_iff.2 fun v => ?_
      simp [storesHalo_syncFences]
  obtain ⟨moved, shown, hmoved, hshown, hsteps⟩ := hsteps
  refine ⟨moved, shown, hmoved, hshown, ?_⟩
  rw [← then_seq_cons, ← then_seq_append]
  exact then_congr hsteps

theorem halo_arrives {side : Nat} (hr : haloRun s k q side = some r) (hx : s.cxOf r = some x) (hready : s.haloReady x r side = true) :
    gives (.haloArrival k q side) s fun t =>
      (t.tile k).runs = ((s.tile k).runs.map fun u => if u.q = q ∧ u.slot = r.slot then { u with halos := u.halos ++ [side] } else u) ∧
      sameRegs haloRegs s t ∧ (∀ id, t.stream id = s.stream id) ∧ ∀ n, t.inst n = s.inst n := by
  obtain ⟨moved, shown, hmoved, hshown, hthen⟩ := then_haloArrival hr hx hready
  refine done_holds fun t hst => ?_
  rw [hthen] at hst
  generalize hw : (s.then (.seq moved)).then (updRun k q r.slot fun u => { u with halos := u.halos ++ [side] }) = w at hst
  obtain ⟨hregs, hruns, hstreams, hinsts⟩ := same_of_storesHalo (u := s) (k := k) hmoved
  obtain ⟨hregs', hruns', hstreams', hinsts'⟩ := same_of_storesHalo (u := w) (k := k) hshown
  refine ⟨?_, fun g hg j ix => ?_, fun id => ?_, fun n => ?_⟩
  · rw [hst.tile, hruns', ← hw, updRun, tile_updT, hruns]
  · rw [hst.reg _ _ _ (List.ne_of_not_mem_cons hg), hregs' g hg, ← hregs g hg, ← hw]
    rfl
  · rw [hst.stream, State.stream, hstreams', ← hw, updRun, then_updT, run_tile_streams, hstreams, ← State.stream]
  · rw [hst.inst, State.inst, hinsts', ← hw, updRun, then_updT, run_tile_insts, hinsts, ← State.inst]

/-! ## A microprogram loads (R266) -/

/-- The SFU's error register after an error (R272). -/
theorem get_sfuErr (t code stream : Nat) : (u.then (sfuErr t code stream)).get F.SFU_ERRSTAT_ERR t 0 = 1 ∧
    (u.then (sfuErr t code stream)).get F.SFU_ERRSTAT_CODE t 0 = code % 16 := by
  have hcount : AllEff (Eff.showsIn [.SFU_ERRCNT]) (.seq [count F.SFU_ERRCNT_COUNT t 1]) := allEff_iff.2 fun v => by
    simp [F.SFU_ERRCNT_COUNT]
  unfold sfuErr blockErr
  rw [then_seq_cons, get_of_showsIn hcount (by decide), get_of_showsIn hcount (by decide)]
  constructor
  · exact get_run_fld u (by decide) t 0 1 [] _ (by simp [Eff.offF, F.SFU_ERRSTAT_ERR, F.SFU_ERRSTAT_CODE, F.SFU_ERRSTAT_STREAM])
  · exact get_run_fld u (by decide) t 0 code [_] _ (by simp [Eff.offF, F.SFU_ERRSTAT_CODE, F.SFU_ERRSTAT_STREAM])

theorem get_updT (t : Nat) (f : Tile → Tile) (g : Fld) (j ix : Nat) : (u.then (updT t f)).get g j ix = u.get g j ix :=
  get_of_regs (run_tile_regs u t f) g j ix

/-- A command that shows registers of a list before and after it changes the context of one tile. -/
theorem same_of_showsIn_updT {l : List Reg} {f : Tile → Tile} {b : Act} {t : State} (ha : AllEff (Eff.showsIn l) a)
    (hb : AllEff (Eff.showsIn l) b) (ht : SnapSame (((u.then a).then (updT k f)).then b) t) :
    t.tile k = f (u.tile k) ∧ sameRegs l u t ∧ sameMem u t := by
  obtain ⟨hregs, hmem, -, -, htiles⟩ := same_of_showsIn ha (.refl (u.then a))
  obtain ⟨htile, hregs', hmem', -, -⟩ := same_of_updT_showsIn hb ht
  exact ⟨htile.trans (congrArg f (htiles k)), fun g hg j ix => (hregs' g hg j ix).trans (hregs g hg j ix),
    fun p => (hmem' p).trans (hmem p)⟩

/-- Two loads that failed their check poison the cut. -/
theorem badMicro_poisons {fails : Nat} (hr : loadingCut s k q = some r) (hfails : 2 ≤ fails) :
    gives (.sfuMicroLoadDone k q fails) s fun t => t.get F.SFU_ERRSTAT_ERR k 0 = 1 ∧ t.get F.SFU_ERRSTAT_CODE k 0 = 2 ∧
      (t.tile k).runs = ((s.tile k).runs.map fun u => if u.q = q ∧ u.slot = r.slot then { u with microBad := true } else u) ∧
      sameRegs [.SFU_ERRSTAT, .SFU_ERRCNT] s t ∧ sameMem s t := by
  unfold loadingCut at hr
  have hthen : s.then (sfuMicroLoadDoneX k q fails) =
      ((s.then (sfuErr k 2 r.stream)).then (updRun k q r.slot fun u => { u with microBad := true })).then .none := by
    rw [then_none, ← then_seq_nil (State.then _ (updRun _ _ _ _)), ← then_seq_cons, ← then_seq_cons]
    exact then_congr (by simp only [sfuMicroLoadDoneX, hr, if_pos hfails])
  obtain ⟨herr, hcode⟩ := get_sfuErr (u := s) k 2 r.stream
  refine done_holds fun t hst => ?_
  rw [hthen] at hst
  obtain ⟨htile, hsame⟩ := same_of_showsIn_updT showsIn_sfuErr (allEff_iff.2 fun _ => effs_none) hst
  refine ⟨?_, ?_, by rw [htile], hsame⟩
  · rw [hst.get _ _ _ (by decide), then_none, updRun, get_updT, herr]
  · rw [hst.get _ _ _ (by decide), then_none, updRun, get_updT, hcode]

/-- A microprogram that passed its check, at once or the second time, takes the place chosen for it. -/
theorem micro_loads {fails m j : Nat} {l : List Micro} (hr : loadingCut s k q = some r) (hfails : fails < 2) (hx : s.cxOf r = some x)
    (hm : x.micro = some m) (hplace : microPlace (s.tile k).micro (bitList 16 (s.get F.SFU_MPRES_INUSE k 0)) = some (j, l)) :
    gives (.sfuMicroLoadDone k q fails) s fun t => (∃ n, (t.tile k).micro = l ++ [⟨j, r.prog, m, n⟩]) ∧
      (fails = 1 → t.get F.SFU_ERRSTAT_CODE k 0 = 3) ∧ sameRegs [.SFU_ERRSTAT, .SFU_ERRCNT, .SFU_MPRES] s t ∧ sameMem s t := by
  unfold loadingCut at hr
  have hsteps : ∃ f : Tile → Tile, (∃ n, (f (s.tile k)).micro = l ++ [⟨j, r.prog, m, n⟩]) ∧ sfuMicroLoadDoneX k q fails s =
      Act.seq [.when (fails == 1) (sfuErr k 3 r.stream), updT k f, syncMpres k] s := by
    simp only [sfuMicroLoadDoneX, hr, if_neg (Nat.not_le.2 hfails), hx, Option.bind_some, hm]
    refine ⟨_, ?_, rfl⟩
    simp only [hplace]
    exact ⟨_, rfl⟩
  obtain ⟨f, hf, hsteps⟩ := hsteps
  have hthen := then_congr hsteps
  rw [then_seq_cons, then_seq_cons, then_seq_cons, then_seq_nil] at hthen
  have herr : AllEff (Eff.showsIn [.SFU_ERRSTAT, .SFU_ERRCNT, .SFU_MPRES]) (.when (fails == 1) (sfuErr k 3 r.stream)) :=
    .when fun _ => showsIn_sfuErr.mono fun _ => Eff.showsIn_mono (by simp)
  refine done_holds fun t hst => ?_
  rw [hthen] at hst
  obtain ⟨htile, hsame⟩ := same_of_showsIn_updT herr (showsIn_syncMpres.mono fun _ => Eff.showsIn_mono (by simp)) hst
  refine ⟨htile ▸ hf, fun hone => ?_, hsame⟩
  subst hone
  rw [hst.get _ _ _ (by decide), get_of_showsIn showsIn_syncMpres (by decide), get_updT, then_when, if_pos (beq_self_eq_true 1),
    (get_sfuErr k 3 r.stream).2]

/-! ## The conversion statistics are cleared (R248) -/

/-- The seven conversion statistics. -/
def cvStats : List Reg := [.ARR_CVCNT, .ARR_CVSSE_LO, .ARR_CVSSE_HI, .ARR_CVSSX_LO, .ARR_CVSSX_HI, .ARR_CVSAT, .ARR_CVNAN]

theorem resetWord_cvStats : ∀ g ∈ cvStats, resetWord g = 0 := by decide

/-- A clear of a tile returns its statistics to their reset words. -/
theorem reg_cvClear {g : Reg} (hg : g ≠ .ARR_CVCTL) (t j ix : Nat) : (u.then (cvClear t)).reg g j ix =
    if ((RegKey.mk g j ix).inTile t && cvStats.contains g) = true then resetWord g else u.reg g j ix := by
  refine (reg_setReg_ne _ _ _ _ _ _ _ _ hg).trans (reg_resetRegs (fun c hc => ?_))
  obtain ⟨hreg, htile, -⟩ := (RegKey.code_eq _ _).1 hc
  simp [RegKey.inTile, hreg, htile]

/-- A clear that reaches its register zeroes the statistics and ends itself. -/
theorem cvctl_clears {p : Requester} {kt ix : Nat} (hl : s.lands p k .ARR_CVCTL 0 true = some (kt, ix)) :
    gives (.arrCvctlClr p k) s fun t => (∀ g ∈ cvStats, t.reg g kt 0 = 0) ∧ t.get F.ARR_CVCTL_CLR kt 0 = 0 ∧
      sameRegs (cvStats ++ [.ARR_CVCTL]) s t ∧ sameMem s t ∧ sameContexts s t := by
  refine done_holds fun t hst => ?_
  rw [arrCvctlClrX, writeReg, then_accessReg hl] at hst
  refine ⟨fun g hg => ?_, ?_, fun g hg j i => ?_, hst.byte, hst.stream, hst.inst, hst.tile⟩
  · obtain ⟨hcnt, hctl⟩ : g ≠ .SNP_CNT ∧ g ≠ .ARR_CVCTL := by revert g; decide
    rw [hst.reg _ _ _ hcnt, reg_cvClear hctl, if_pos (by simpa [RegKey.inTile] using hg), resetWord_cvStats g hg]
  · exact (hst.get _ _ _ (by decide)).trans (get_setF _ _ _ _ _ (by decide))
  · obtain ⟨hcnt, hstat, hctl⟩ : g ≠ .SNP_CNT ∧ g ∉ cvStats ∧ g ≠ .ARR_CVCTL := by simpa using hg
    rw [hst.reg _ _ _ hcnt, reg_cvClear hctl, if_neg (by simp [hstat])]

/-- Settles O23: the rows of a halo and a load change nothing beside the cut and the entry they come for but what they count and show,
and a clear is a reset of the seven statistics. -/
theorem halosAndMicroprogramsArrive : Obligations.HalosAndMicroprogramsArrive := by
  refine ⟨fun _ _ _ _ _ _ hr hx hready => halo_arrives hr hx hready, fun _ _ _ _ _ hr hfails => badMicro_poisons hr hfails,
    fun _ _ _ _ _ _ _ _ _ hr hfails hx hm hplace => micro_loads hr hfails hx hm hplace, fun s p k kt x hl => ?_⟩
  obtain ⟨t, hexec, hzero, hsame⟩ := cvctl_clears hl
  simp only [cvStats, List.forall_mem_cons, List.not_mem_nil, false_implies, implies_true, and_true] at hzero
  obtain ⟨hcnt, hsseLo, hsseHi, hssxLo, hssxHi, hsat, hnan⟩ := hzero
  exact ⟨t, hexec, hcnt, hsseLo, hsseHi, hssxLo, hssxHi, hsat, hnan, hsame⟩

end Sys2Proof.Machine
end

section
/-! What leaves alone what the standard codec engine shows and is busy with (R286, R302, R538): its status and error registers, what a
stream shows of its pictures, the stream that an engine is busy with, and a view of the stream's SCE state. Step by step, from writes of
memory up to the completion of a picture. -/
namespace Sys2Proof.Machine

/-- The registers in which an SCE shows its state and its last error, and a stream its pictures. -/
@[simp] def sceShown : List Reg := [.SCE_STAT, .SCE_ERRSTAT, .SCE_SLIVE0, .SCE_SLIVE1, .SCE_RCSTAT]

/-- The effect leaves alone which stream every engine is busy with. -/
@[simp] def Eff.keepsBusy : Eff → Prop
  | .tile _ f => ∀ c, (f c).sceBusy = c.sceBusy
  | _ => True

/-- The effect leaves those registers alone, which stream every engine is busy with, and in every stream what `v` sees of the SCE state. -/
@[simp] def Eff.keepsSce {α : Type} (v : Sce → α) : Eff → Prop
  | .fld f _ _ _ | .countU f _ _ _ _ => f.reg ∉ sceShown
  | .word r _ _ _ => r ∉ sceShown
  | .resetRegs p => ∀ k : RegKey, k.reg ∈ sceShown → p k = false
  | .stream _ f => ∀ x, v (f x).sce = v x.sce
  | .tile t f => (Eff.tile t f).keepsBusy
  | _ => True

/-- What the steps beside a picture keep of a stream's SCE state: the count of pictures taken in, whether there was one, and the one in
progress. -/
def Sce.course (c : Sce) : Nat × Bool × Option ScePic := (c.nextIn, c.started, c.run)

variable {α : Type} {v : Sce → α} {u : State} {a : Act}

theorem Eff.off_of_keepsSce {r : Reg} (hr : r ∈ sceShown) {e : Eff} (h : e.keepsSce v) : e.off r := by
  cases e with
  | fld f | countU f | word f => exact fun hf => h (hf ▸ hr)
  | resetRegs p => exact fun k hk => h k (hk ▸ hr)
  | _ => trivial

theorem get_of_keepsSce (h : AllEff (Eff.keepsSce v) a) {f : Fld} (hf : f.reg ∈ sceShown) (t ix : Nat) :
    (u.then a).get f t ix = u.get f t ix :=
  get_of_off (h.mono fun _ => Eff.off_of_keepsSce hf) t ix

theorem sget_of_keepsSce (h : AllEff (Eff.keepsSce v) a) {f : Fld} (hf : f.reg ∈ sceShown) (id : Nat) :
    (u.then a).sget f id = u.sget f id := get_of_keepsSce h hf _ _

theorem sce_of_keepsSce (h : AllEff (Eff.keepsSce v) a) (id : Nat) : v ((u.then a).stream id).sce = v (u.stream id).sce :=
  stream_of_keepsOf (v := fun x => v x.sce) (h.mono fun e he => by
    cases e with
    | stream => exact he
    | _ => trivial) id

theorem run_of_keepsCourse (h : AllEff (Eff.keepsSce Sce.course) a) (id : Nat) :
    ((u.then a).stream id).sce.run = (u.stream id).sce.run :=
  congrArg (fun c : Nat × Bool × Option ScePic => c.2.2) (sce_of_keepsSce h id)

theorem busy_of_keepsBusy (h : AllEff Eff.keepsBusy a) (t : Nat) : ((u.then a).tile t).sceBusy = (u.tile t).sceBusy := by
  refine run_keeps u (a u) (P := fun w => (w.tile t).sceBusy = (u.tile t).sceBusy) (fun w hw e he => ?_) rfl
  cases e with
  | tile n f =>
    rw [tile_run]
    split
    · next hn => exact (h u _ he (w.tile n)).trans (hn ▸ hw)
    · exact hw
  | mem b bs => simpa [State.tile, Eff.run] using hw
  | _ => exact hw

theorem busy_of_keepsSce (h : AllEff (Eff.keepsSce v) a) (t : Nat) : ((u.then a).tile t).sceBusy = (u.tile t).sceBusy :=
  busy_of_keepsBusy (h.mono fun e he => by
    cases e with
    | tile => exact he
    | _ => trivial) t

/-! ## Memory and messages -/

@[simp] theorem keepsSce_lnkErr {t code id port : Nat} : Effs (Eff.keepsSce v) (lnkErr t code id port u) := by
  simp +decide [lnkErr, blockErr]

@[simp] theorem keepsSce_poisonWrite {a n : Nat} {pz : Nat → Bool} : Effs (Eff.keepsSce v) (poisonWrite a n pz u) := by
  intro e he
  obtain ⟨g, _, hg⟩ := List.mem_filterMap.1 he
  split_ifs at hg <;> cases hg <;> trivial

@[simp] theorem keepsSce_memWriteG {a : Nat} {bs : List Byte} {pz : Nat → Bool} {ask : Bool} :
    Effs (Eff.keepsSce v) (memWriteG a bs pz ask u) := by
  simp +decide [memWriteG, baleBlock, wcInvalidate]

@[simp] theorem keepsSce_memWrite {a : Nat} {bs : List Byte} {pz ask : Bool} : Effs (Eff.keepsSce v) (memWrite a bs pz ask u) :=
  keepsSce_memWriteG

@[simp] theorem keepsSce_yardPacket {k t g : Nat} : Effs (Eff.keepsSce v) (yardPacket k t g u) := by
  simp +decide [yardPacket]

@[simp] theorem keepsSce_memWriteFrom {t a : Nat} {bs : List Byte} {pz ask : Bool} :
    Effs (Eff.keepsSce v) (memWriteFrom t a bs pz ask u) := by
  simp [memWriteFrom, yardSend]

@[simp] theorem keepsSce_putBytes {n a : Nat} {bs : List Byte} {pz : Bool} : Effs (Eff.keepsSce v) (putBytes n a bs pz u) := by
  unfold putBytes
  split
  · split <;> simp
  · simp

@[simp] theorem keepsSce_putPieces {t n : Nat} {pz ask : Bool} {ps : List Block} {bs : List Byte} :
    Effs (Eff.keepsSce v) (putPieces t n pz ask ps bs u) := by
  induction ps generalizing bs u with
  | nil => exact effs_none
  | cons p ps ih => simp [putPieces, piecePut, ih]

@[simp] theorem keepsSce_mvSend {e mtype inst epoch id : Nat} {bs : List Byte} {pz : Bool} {ctx : MvCtx} :
    Effs (Eff.keepsSce v) (mvSend e mtype inst epoch id bs pz ctx .none u) := by
  unfold mvSend mvSendAs
  dsimp only
  split <;> simp +decide [updPeer, updLink, mvPut]

/-! ## Records, the completion of requests, and items in flight -/

@[simp] theorem keepsSce_cqPush {t r : Nat} {c : Cpl} : Effs (Eff.keepsSce v) (cqPush t r c u) := by
  simp +decide [cqPush, cqWrite]

@[simp] theorem keepsSce_workRecord {id frame st digest : Nat} : Effs (Eff.keepsSce v) (workRecord id frame st digest u) := by
  simp [workRecord]

@[simp] theorem keepsSce_completeHeld {n st id digest : Nat} {r : LiveReq} :
    Effs (Eff.keepsSce v) (completeHeld n r st id digest u) := by
  have hdeliver (o : Origin) (c : Cpl) (w : State) : Effs (Eff.keepsSce v) (deliver o c w) := by
    cases o <;> simp [deliver]
  simp [completeHeld, completeReq, updW, hdeliver]

theorem condCounter_not_sce {st : Nat} {f : Fld} (h : condCounter st = some f) : f.reg ∉ sceShown := by
  unfold condCounter at h
  split at h <;> cases h <;> decide

@[simp] theorem keepsSce_countConditions {id : Nat} {l : List Nat} : Effs (Eff.keepsSce v) (countConditions id l u) :=
  effs_each fun st w => by simpa using fun f => condCounter_not_sce (st := st)

@[simp] theorem keepsSce_syncLive {id : Nat} : Effs (Eff.keepsSce v) (syncLive id u) := by
  simp +decide [syncLive]

@[simp] theorem keepsSce_finishItem {t st digest : Nat} {it : Item} {conds : List Nat} :
    Effs (Eff.keepsSce v) (finishItem t it st digest conds u) := by
  simp [finishItem, dropItem, finishLive, updLive]

@[simp] theorem keepsSce_finishInput {id slot : Nat} {conds : List Nat} : Effs (Eff.keepsSce v) (finishInput id slot conds u) := by
  unfold finishInput
  split <;> simp

@[simp] theorem keepsSce_enqueue {t q id flags : Nat} {bs : List Byte} {req : Option LiveReq} :
    Effs (Eff.keepsSce v) (enqueue t q id bs flags req u) := by
  simp +decide [enqueue, addLive, syncResident]

@[simp] theorem keepsSce_stageBarrier {id : Nat} : Effs (Eff.keepsSce v) (stageBarrier id u) := by
  simp [stageBarrier]

@[simp] theorem keepsSce_egressPump {id : Nat} : Effs (Eff.keepsSce v) (egressPump id u) := by
  simp [egressPump]

@[simp] theorem keepsSce_putOutput {t id : Nat} {bs : List Byte} {pz ask : Bool} :
    Effs (Eff.keepsSce v) (putOutput t id bs pz ask u) := by
  unfold putOutput
  dsimp only
  split <;> simp [writeBuf, updLsc]

/-! ## Pictures -/

@[simp] theorem keepsSce_updSce {id : Nat} {f : Sce → Sce} :
    Effs (Eff.keepsSce v) (updSce id f u) ↔ ∀ x : Stream, v (f x.sce) = v x.sce := by
  simp [updSce]

theorem length_mapFirst {β : Type} (p : β → Bool) (f : β → β) (l : List β) : (mapFirst p f l).length = l.length := by
  induction l with
  | nil => rfl
  | cons x xs ih =>
    rw [mapFirst]
    split
    · rfl
    · exact congrArg (· + 1) ih

/-- Work items are made for pictures of the queue, which stay as many as they were. -/
theorem keepsSce_scePump (hv : ∀ (c : Sce) l, l.length = c.queue.length → v { c with queue := l } = v c) (id : Nat) :
    Effs (Eff.keepsSce v) (scePump id u) := by
  refine effs_each fun p w => ?_
  simp [hv, length_mapFirst]

@[simp] theorem keepsCourse_scePump {id : Nat} : Effs (Eff.keepsSce Sce.course) (scePump id u) :=
  keepsSce_scePump (fun _ _ _ => rfl) id

@[simp] theorem keepsCourse_sceFlush {id : Nat} : Effs (Eff.keepsSce Sce.course) (sceFlush id u) := by
  refine effs_seq_cons.2 ⟨keepsSce_updSce.2 fun x => ?_, by simp⟩
  split <;> rfl

@[simp] theorem keepsCourse_scePlace {id : Nat} {p : ScePic} : Effs (Eff.keepsSce Sce.course) (scePlace id p u) := by
  simp [scePlace, Sce.course]

@[simp] theorem keepsSce_putPicture {t base pitch : Nat} {rows : List (Nat × Nat)} {bs : List Byte} :
    Effs (Eff.keepsSce v) (putPicture t base pitch rows bs u) := by
  induction rows generalizing bs u with
  | nil => exact effs_none
  | cons e es ih => simp [putPicture, ih]

@[simp] theorem keepsCourse_sceOutput {t id j : Nat} : Effs (Eff.keepsSce Sce.course) (sceOutput t id j u) := by
  simp [sceOutput, updLsc, Sce.course]

@[simp] theorem keepsCourse_sceDiscard {id j : Nat} : Effs (Eff.keepsSce Sce.course) (sceDiscard id j u) := by
  simp [sceDiscard, Sce.course]

@[simp] theorem keepsCourse_sceDrain {id : Nat} : Effs (Eff.keepsSce Sce.course) (sceDrain id u) := by
  simp [sceDrain]

@[simp] theorem keepsSce_sceRetire {t id : Nat} {p : ScePic} {conds : List Nat} : Effs (Eff.keepsSce v) (sceRetire t id p conds u) := by
  simp +decide [sceRetire]

@[simp] theorem keepsSce_sceGiveUp {t id st : Nat} {p : ScePic} : Effs (Eff.keepsSce v) (sceGiveUp t id p st u) := by
  simp [sceGiveUp]

@[simp] theorem keepsCourse_sceStat {t id w h qpavg st bytes cplx : Nat} {p : ScePic} {blocks : List Byte} :
    Effs (Eff.keepsSce Sce.course) (sceStat t id p w h qpavg st bytes cplx blocks u) := by
  simp [sceStat, Sce.course]

@[simp] theorem keepsSce_auOut {t id frame : Nat} {bs : List Byte} : Effs (Eff.keepsSce v) (auOut t id frame bs u) := by
  simp [auOut]

end Sys2Proof.Machine
end

section
/-! Pictures are taken in (R282, R287, R288), and the commands of an encoder's slot (R288, R290). -/
namespace Sys2Proof.Machine
open Sys2Proof.Say

variable {s u : State} {id : Nat}

/-! ## Small steps -/

@[simp] theorem stream_updSce {f : Sce → Sce} :
    (u.then (updSce id f)).stream id = { u.stream id with sce := f (u.stream id).sce } := stream_updS

@[simp] theorem sget_updSce {f : Sce → Sce} {g : Fld} {i : Nat} : (u.then (updSce id f)).sget g i = u.sget g i := (rfl)

@[simp] theorem get_updSce {f : Sce → Sce} {g : Fld} {t ix : Nat} : (u.then (updSce id f)).get g t ix = u.get g t ix := (rfl)

theorem get_setS_ne {f g : Fld} {n t ix : Nat} (hg : g.ok = true) (h : g.reg ≠ f.reg ∨ f.hi < g.lo ∨ g.hi < f.lo) :
    (u.then (setS f id n)).get g t ix = u.get g t ix := get_setF_ne u f g _ _ _ _ n hg h

theorem sget_of_off {a : Act} (f : Fld) (h : AllEff (Eff.off f.reg) a) (i : Nat) : (u.then a).sget f i = u.sget f i :=
  get_of_off h _ _

@[simp] theorem stream_setF {f : Fld} {t n i : Nat} : (u.then (setF f t n)).stream i = u.stream i := (rfl)
@[simp] theorem tile_setF {f : Fld} {t n j : Nat} : (u.then (setF f t n)).tile j = u.tile j := (rfl)
@[simp] theorem stream_updT {t i : Nat} {f : Tile → Tile} : (u.then (updT t f)).stream i = u.stream i := (rfl)

/-! ## Pictures are taken in -/

/-- With nothing in the shadow, a boundary brings at most the digest's setting into force. -/
theorem then_sceShadow (hs : u.shadowed id sceRegs = []) (k : Bool → Act) : u.then (sceShadow id k) =
    (u.then (digestBoundary id stSce)).then (k (u.sget F.SCE_SCMD_RCRESET id == 1)) := by
  unfold sceShadow
  rw [then_app]
  simp [hs]

/-- A picture is taken in, a key picture or not, with its settings: the counts of the boundary, and its place in the coding order. -/
def takeIn (id since : Nat) (key : Bool) (set : SceSet) (p : ScePic) : Act := .seq
  [updSce id fun x => { x with nextIn := x.nextIn + 1, started := true, last := set, sinceTrue := since },
   setS F.SCE_SLIVE1_SINCEKEY id (min 1023 since),
   .when key (.seq [setS F.SCE_SLIVE1_KEYPEND id 0, setS F.SCE_SCMD_KEYREQ id 0]), scePlace id p]

/-- The choices of a picture that is taken in (R287, R288): a key request and a stream's first picture make it a key picture. -/
theorem then_sceTakeEnc {it : Item} (hs : s.shadowed id sceRegs = []) (hrc : s.sget F.SCE_SCMD_RCRESET id = 0) :
    ∃ since key set p, s.then (sceTakeEnc id it) = (s.then (digestBoundary id stSce)).then (takeIn id since key set p) ∧
      (key = true → since = 0) ∧ (s.sget F.SCE_SLIVE1_KEYPEND id = 1 ∨ (s.stream id).sce.started = false → key = true) := by
  have hpend := sget_digestBoundary (u := s) (id := id) stSce F.SCE_SLIVE1_KEYPEND id
  have hstream := stream_digestBoundary (u := s) (id := id) stSce id
  rw [sceTakeEnc, then_sceShadow hs, hrc]
  generalize s.then (digestBoundary id stSce) = w at hpend hstream ⊢
  refine ⟨_, _, _, _, rfl, fun hk => if_pos hk, ?_⟩
  rw [← hpend, ← hstream]
  rintro (h | h) <;> simp [h]

theorem sce_takeIn {since : Nat} {key : Bool} {set : SceSet} {p : ScePic} :
    ((u.then (takeIn id since key set p)).stream id).sce.course =
      ((u.stream id).sce.nextIn + 1, true, (u.stream id).sce.run) := by
  rw [takeIn]
  simp only [then_seq_cons, then_seq_nil]
  rw [sce_of_keepsSce (allEff_iff.2 fun _ => keepsCourse_scePlace)]
  cases key <;> simp [Sce.course]

/-- A key picture ends the key request and begins the count anew. -/
theorem sget_takeIn_key {set : SceSet} {p : ScePic} : (u.then (takeIn id 0 true set p)).sget F.SCE_SLIVE1_KEYPEND id = 0 ∧
    (u.then (takeIn id 0 true set p)).sget F.SCE_SLIVE1_SINCEKEY id = 0 := by
  have hplace {f : Fld} (hf : f.reg ∈ sceShown) (w : State) : (w.then (scePlace id p)).sget f id = w.sget f id :=
    sget_of_keepsSce (allEff_iff.2 fun _ => keepsCourse_scePlace) hf _
  rw [takeIn]
  simp only [then_seq_cons, then_seq_nil, then_when, if_true]
  rw [hplace (by decide), hplace (by decide)]
  constructor
  · rw [sget_setS_ne (by decide) (by decide), sget_setS (by decide), Nat.zero_mod]
  · rw [sget_setS_ne (by decide) (by decide), sget_setS_ne (by decide) (by decide), sget_setS (by decide)]
    rfl

theorem encPicture_taken {it : Item} (hi : s.sceInput id = some it) (he : s.isSceEnc id = true) (hs : s.shadowed id sceRegs = [])
    (hrc : s.sget F.SCE_SCMD_RCRESET id = 0) : gives (.sceInputTaken id) s fun t =>
      (t.stream id).sce.nextIn = (s.stream id).sce.nextIn + 1 ∧ (t.stream id).sce.started = true ∧
      (s.sget F.SCE_SLIVE1_KEYPEND id = 1 ∨ (s.stream id).sce.started = false →
        t.sget F.SCE_SLIVE1_KEYPEND id = 0 ∧ t.sget F.SCE_SLIVE1_SINCEKEY id = 0) := by
  have hthen : s.then (sceInputTakenX id) = s.then (sceTakeEnc id it) := then_congr (by simp [sceInputTakenX, hi, he])
  obtain ⟨since, key, set, p, hsteps, hsince, hkey⟩ := then_sceTakeEnc (it := it) hs hrc
  refine done_holds fun t ht => ?_
  rw [hthen, hsteps] at ht
  have hcourse := sce_takeIn (u := s.then (digestBoundary id stSce)) (id := id) (since := since) (key := key) (set := set) (p := p)
  rw [← ht.stream, stream_digestBoundary, Sce.course, Prod.mk.injEq, Prod.mk.injEq] at hcourse
  obtain ⟨hnext, hstarted, -⟩ := hcourse
  refine ⟨hnext, hstarted, fun hk => ?_⟩
  obtain rfl := hkey hk
  obtain rfl := hsince rfl
  rw [ht.sget (by decide), ht.sget (by decide)]
  exact sget_takeIn_key

/-- The picture of a decoder's input, by its number. -/
def inputPic (it : Item) (n : Nat) : ScePic :=
  let i := InputItem.parse it.payload
  { n := n, item := it.slot, off := i.off, len := i.len, ptime := i.ptime, incond := i.incond, conds := i.conds }

theorem then_sceInputTaken_dec {it : Item} (hi : s.sceInput id = some it) (hd : s.isSceDec id = true) : s.then (sceInputTakenX id) =
    (s.then (updSce id fun x => { x with nextIn := x.nextIn + 1, queue := x.queue ++ [inputPic it x.nextIn] })).then (scePump id) := by
  have he : s.isSceEnc id = false := by
    simp only [State.isSceDec, Bool.and_eq_true, beq_iff_eq] at hd
    simp [State.isSceEnc, hd.2]
  have hact : sceInputTakenX id s = Act.seq
      [updSce id fun x => { x with nextIn := x.nextIn + 1, queue := x.queue ++ [inputPic it x.nextIn] }, scePump id] s := by
    simp [sceInputTakenX, hi, he, hd, inputPic]
  rw [then_congr hact, then_seq_cons, then_seq_cons, then_seq_nil]

theorem decPicture_taken {it : Item} (hi : s.sceInput id = some it) (hd : s.isSceDec id = true) :
    gives (.sceInputTaken id) s fun t => (t.stream id).sce.nextIn = (s.stream id).sce.nextIn + 1 ∧
      (t.stream id).sce.queue.length = (s.stream id).sce.queue.length + 1 := by
  have hpump : AllEff (Eff.keepsSce fun c => (c.nextIn, c.queue.length)) (scePump id) :=
    allEff_iff.2 fun w => keepsSce_scePump (fun _ _ hl => Prod.ext rfl hl) id
  refine done_holds fun t ht => ?_
  rw [← Prod.mk.injEq, ht.stream, then_sceInputTaken_dec hi hd, sce_of_keepsSce (v := fun c => (c.nextIn, c.queue.length)) hpump]
  simp

/-! ## Commands of an encoder's slot -/

variable {q : Requester} {k kt ix : Nat}

/-- A command that reaches an encoder's slot sets its bit and is carried out. -/
theorem then_sceCommand {f : Fld} {a : Nat → Act} (hl : s.lands q k .SCE_SCMD 0 true = some (kt, ix))
    (he : s.isSceEnc (kt * 256 + ix) = true) :
    s.then (sceCommand q k f a) = (s.then (setS f (kt * 256 + ix) 1)).then (a (kt * 256 + ix)) := by
  have hthen : s.then (sceCommand q k f a) = s.then (.seq [setS f (kt * 256 + ix) 1, a (kt * 256 + ix)]) := by
    unfold sceCommand writeReg
    rw [then_accessReg hl]
    simp only [State.then, if_pos he]
  rw [hthen, then_seq_cons, then_seq_cons, then_seq_nil]

theorem sceKeyreq_lands (hl : s.lands q k .SCE_SCMD 0 true = some (kt, ix)) (h64 : kt < 64) (h256 : ix < 256)
    (he : s.isSceEnc (kt * 256 + ix) = true) : gives (.sceKeyreq q k) s fun t =>
      t.get F.SCE_SCMD_KEYREQ kt ix = 1 ∧ t.get F.SCE_SLIVE1_KEYPEND kt ix = 1 ∧
      t.get F.SCE_SCNT_REFCNT kt ix = min F.SCE_SCNT_REFCNT.maxVal (s.get F.SCE_SCNT_REFCNT kt ix + 1) ∧
      sameRegs [.SCE_SCMD, .SCE_SCNT, .SCE_SLIVE1] s t ∧ sameMem s t ∧ sameContexts s t := by
  have hall : AllEff (Eff.showsIn [.SCE_SCMD, .SCE_SCNT, .SCE_SLIVE1])
      (.seq [setS F.SCE_SCMD_KEYREQ (kt * 256 + ix) 1, sceKeyRequest (kt * 256 + ix)]) := allEff_iff.2 fun w => by
    simp +decide [sceKeyRequest]
  refine done_holds fun t ht => ?_
  rw [sceKeyreqX, then_sceCommand hl he] at ht
  refine ⟨?_, ?_, ?_, same_of_showsIn hall (by simpa only [then_seq_cons, then_seq_nil] using ht)⟩
  all_goals rw [← sget_slot h64 h256, ht.sget (by decide), sceKeyRequest, then_seq_cons, then_seq_cons, then_seq_nil]
  · rw [sget_setS_ne (by decide) (by decide), sget_countS_ne (by decide) (by decide)]
    exact sget_setS (by decide)
  · exact sget_setS (by decide)
  · rw [sget_setS_ne (by decide) (by decide), sget_countS (by decide), sget_setS_ne (by decide) (by decide), sget_slot h64 h256]

theorem sceRcreset_lands (hl : s.lands q k .SCE_SCMD 0 true = some (kt, ix)) (h64 : kt < 64) (h256 : ix < 256)
    (he : s.isSceEnc (kt * 256 + ix) = true) : gives (.sceRcreset q k) s fun t =>
      t.get F.SCE_SCMD_RCRESET kt ix = 1 ∧ sameRegs [.SCE_SCMD] s t ∧ sameMem s t ∧ sameContexts s t := by
  have hall : AllEff (Eff.showsIn [.SCE_SCMD]) (setS F.SCE_SCMD_RCRESET (kt * 256 + ix) 1) := allEff_iff.2 fun w => by
    simp +decide
  refine done_holds fun t ht => ?_
  rw [sceRcresetX, then_sceCommand hl he, then_none] at ht
  refine ⟨?_, same_of_showsIn hall ht⟩
  rw [← sget_slot h64 h256, ht.sget (by decide)]
  exact sget_setS (by decide)

end Sys2Proof.Machine
end

section
/-! An encoder's picture starts (R278, R285): the engine takes up its stream, and the picture is begun and runs. -/
namespace Sys2Proof.Machine
open Sys2Proof.Say

variable {s u : State} {k id : Nat} {p : ScePic} {h : SceHdr}

/-! ## The engine takes up a stream -/

/-- The oldest ready picture is the one that starts (R278). -/
theorem then_scePictureStart (hon : s.isOn .sce k = true) (hidle : (s.tile k).sceBusy = none) (hready : sceReady s k = some (id, p)) :
    s.then (scePictureStartX k h) = s.then (if s.isSceEnc id then sceStartEnc k id p else sceStartDec k id p h) := by
  obtain ⟨rest, hrest⟩ := List.head?_eq_some_iff.1 hready
  refine then_congr ?_
  simp only [scePictureStartX, hon, hidle, hrest, Bool.not_true, Bool.false_eq_true, Option.isSome_none, or_self, if_false]
  split <;> rfl

theorem stream_sceSwitch {codec i : Nat} : (u.then (sceSwitch k id codec)).stream i = u.stream i := by
  have hoff : AllEff Eff.offStream (sceSwitch k id codec) := allEff_iff.2 fun w => by simp [sceSwitch, Eff.offStream]
  rw [State.stream, streams_off u hoff, ← State.stream]

theorem force_sceSwitch {codec : Nat} : (u.then (sceSwitch k id codec)).force = u.force := by
  unfold sceSwitch
  rw [then_app]
  simp only [then_seq_cons, then_seq_nil, then_when]
  split <;> rfl

theorem shadowed_sceSwitch {codec : Nat} (i : Nat) (rs : List Reg) : (u.then (sceSwitch k id codec)).shadowed i rs = u.shadowed i rs := by
  simp only [State.shadowed, force_sceSwitch]

theorem reg_sceSwitch {codec : Nat} {r : Reg} (hr : r ∉ [Reg.SCE_STAT, .SCE_SWCNT]) (t ix : Nat) :
    (u.then (sceSwitch k id codec)).reg r t ix = u.reg r t ix := by
  obtain ⟨hstat, hcnt⟩ : r ≠ .SCE_STAT ∧ r ≠ .SCE_SWCNT := by simpa using hr
  exact reg_off u (allEff_iff.2 fun w => by
    simp [sceSwitch, Eff.off, F.SCE_STAT_STREAM, F.SCE_STAT_DIR, F.SCE_STAT_CODEC, F.SCE_SWCNT_COUNT, hstat.symm, hcnt.symm]) t ix

/-- A picture that is begun shows the next number. -/
theorem frame_sceBegin : (u.then (sceBegin id)).sget F.SCE_SLIVE0_FRAME id = ((u.stream id).sce.nextFrame + 1) % 2 ^ 32 := by
  rw [sceBegin, then_seq_cons, then_seq_cons, then_seq_nil, then_read, sget_setS (by decide), stream_updSce]
  exact Nat.mod_mod _ _

/-- A picture with the first `FREE` buffer of its pool. -/
def State.inBuffer (u : State) (id : Nat) (p : ScePic) : ScePic :=
  { p with buf := ((u.stream id).sce.pool.findIdx? SceBuf.free).getD 0 }

theorem then_sceRun : u.then (sceRun k id p) = ((u.then (updSce id fun x => { x with
      pool := mapFirst SceBuf.free (fun _ => { cur := true }) x.pool, run := some (u.inBuffer id p) })).then
    (updT k fun c => { c with sceBusy := some id })).then (setF F.SCE_STAT_BUSY k 1) := by
  unfold sceRun
  rw [then_app, then_seq_cons, then_seq_cons, then_seq_cons, then_seq_nil]
  rfl

/-- The picture is in progress in its stream, with which its engine is busy. -/
def running (t : State) (k id : Nat) (p : ScePic) : Prop := (t.tile k).sceBusy = some id ∧ t.get F.SCE_STAT_BUSY k 0 = 1 ∧
  ∃ r, (t.stream id).sce.run = some r ∧ r.n = p.n ∧ r.frame = p.frame ∧ r.hdr = p.hdr

/-- A picture that has its buffer is in progress. -/
theorem running_sceRun : running (u.then (sceRun k id p)) k id p := by
  rw [then_sceRun]
  exact ⟨by simp, get_then_setF _ _ _ _ (by decide), u.inBuffer id p, by simp, rfl, rfl, rfl⟩

theorem sget_sceRun {f : Fld} (hf : f.reg ≠ .SCE_STAT) (i : Nat) : (u.then (sceRun k id p)).sget f i = u.sget f i :=
  sget_of_off f (allEff_iff.2 fun w => by simpa [sceRun, updSce, Eff.off, F.SCE_STAT_BUSY] using hf.symm) i

theorem offMem_sceRun {t : Nat} : Effs Eff.offMem (sceRun t id p u) := by
  simp [sceRun, updSce, Eff.offMem]

theorem SnapSame.running {t : State} (ht : SnapSame u t) (hu : running u k id p) : running t k id p := by
  unfold Machine.running at *
  rwa [ht.tile, ht.get _ _ _ (by decide), ht.stream]

/-! ## An encoder's picture starts -/

/-- An encoder's picture is begun; one that changes the structure frees its pool (R283). -/
def encBegins (k id : Nat) (p : ScePic) : Act := .seq
  [sceSwitch k id p.set.codec, sceBegin id, .when p.struct (updSce id fun x => { x with pool := x.pool.map fun _ => {} })]

theorem then_sceStartEnc (hpool : sceNeed true p.set 0 0 ≤ s.sget F.SCE_SW6_POOLN id) (hin : s.inputPoisoned id p = false) :
    s.then (sceStartEnc k id p) =
      (s.then (encBegins k id p)).then (sceRun k id { p with frame := ((s.stream id).sce.nextFrame + 1) % 2 ^ 32 }) := by
  have hin' (n : Nat) : s.inputPoisoned id { p with frame := n } = false := hin
  rw [encBegins, ← then_seq_nil (State.then _ (sceRun _ _ _)), ← then_seq_cons, ← then_seq_append]
  exact then_congr (by simp [sceStartEnc, Nat.not_lt.2 hpool, hin'])

theorem frame_encBegins : (u.then (encBegins k id p)).sget F.SCE_SLIVE0_FRAME id = ((u.stream id).sce.nextFrame + 1) % 2 ^ 32 := by
  rw [encBegins, then_seq_cons, then_seq_cons, then_seq_cons, then_seq_nil, then_when]
  have hbegin := frame_sceBegin (u := u.then (sceSwitch k id p.set.codec)) (id := id)
  rw [stream_sceSwitch] at hbegin
  split
  · rw [sget_updSce]
    exact hbegin
  · exact hbegin

theorem encPicture_starts (hon : s.isOn .sce k = true) (hidle : (s.tile k).sceBusy = none) (hready : sceReady s k = some (id, p))
    (he : s.isSceEnc id = true) (hpool : sceNeed true p.set 0 0 ≤ s.sget F.SCE_SW6_POOLN id) (hin : s.inputPoisoned id p = false) :
    gives (.scePictureStart k h) s fun t =>
      (t.tile k).sceBusy = some id ∧ t.get F.SCE_STAT_BUSY k 0 = 1 ∧
      (∃ r, (t.stream id).sce.run = some r ∧ r.n = p.n ∧ r.frame = ((s.stream id).sce.nextFrame + 1) % 2 ^ 32) ∧
      t.sget F.SCE_SLIVE0_FRAME id = ((s.stream id).sce.nextFrame + 1) % 2 ^ 32 ∧ sameMem s t := by
  refine done_holds fun t ht => ?_
  rw [then_scePictureStart hon hidle hready, if_pos he, then_sceStartEnc hpool hin] at ht
  obtain ⟨hbusy, hstat, r, hr, hn, hframe, -⟩ := ht.running running_sceRun
  refine ⟨hbusy, hstat, ⟨r, hr, hn, hframe⟩, ?_, fun a => ?_⟩
  · rw [ht.sget (by decide), sget_sceRun (by decide), frame_encBegins]
  · have hoff : AllEff Eff.offMem (encBegins k id p) := allEff_iff.2 fun w => by
      simp [encBegins, sceSwitch, sceBegin, updSce, Eff.offMem]
    rw [ht.byte, State.byte, mem_off _ (allEff_iff.2 fun _ => offMem_sceRun), mem_off _ hoff, ← State.byte]

end Sys2Proof.Machine
end

section
/-! A decoder's picture starts (R276, R283, R285, R294, R295): its boundary, the checks of its headers, and what it shows. -/
namespace Sys2Proof.Machine
open Sys2Proof.Say

variable {s u : State} {k id : Nat} {p : ScePic} {h : SceHdr}

/-! ## The boundary -/

/-- The state in which a decoder's picture is judged: the engine has taken up its stream, and its boundary has passed. -/
def State.atPicture (s : State) (k id : Nat) : State :=
  (s.then (sceSwitch k id (s.slive F.SCE_SW0_CODEC id))).then (digestBoundary id stSce)

theorem stream_atPicture (i : Nat) : (s.atPicture k id).stream i = s.stream i := by
  rw [State.atPicture, stream_digestBoundary, stream_sceSwitch]

theorem sget_atPicture {f : Fld} (hf : f.reg ∉ [Reg.SCE_STAT, .SCE_SWCNT]) (i : Nat) : (s.atPicture k id).sget f i = s.sget f i := by
  rw [State.atPicture, sget_digestBoundary, State.sget, State.get, reg_sceSwitch hf, ← State.get, ← State.sget]

theorem slive_atPicture {f : Fld} (hf : f.reg ∉ [Reg.SCE_STAT, .SCE_SWCNT]) (hd : f.reg ≠ .SNP_DGCFG) (i : Nat) :
    (s.atPicture k id).slive f i = s.slive f i := by
  rw [State.atPicture, slive_digestBoundary hd]
  simp only [State.slive, State.live, State.liveReg, force_sceSwitch, reg_sceSwitch hf]

/-- A boundary without a shadow leaves the settings in force, and so the judgement of a sequence. -/
theorem sceSet_atPicture (i : Nat) : (s.atPicture k id).sceSet i = s.sceSet i := by
  simp +decide [State.sceSet, slive_atPicture]

theorem sceSuffices_atPicture : (s.atPicture k id).sceSuffices id h = s.sceSuffices id h := by
  simp +decide [State.sceSuffices, sceSet_atPicture, sget_atPicture]

theorem busy_atPicture (j : Nat) : ((s.atPicture k id).tile j).sceBusy = (s.tile j).sceBusy := by
  have hkeeps : AllEff Eff.keepsBusy (.seq [sceSwitch k id (s.slive F.SCE_SW0_CODEC id), digestBoundary id stSce]) :=
    allEff_iff.2 fun w => by simp [sceSwitch, digestBoundary, applyRegs]
  simpa only [State.atPicture, then_seq_cons, then_seq_nil] using busy_of_keepsBusy hkeeps (u := s) j

theorem mem_atPicture : (s.atPicture k id).mem = s.mem := by
  have hoff : AllEff Eff.offMem (.seq [sceSwitch k id (s.slive F.SCE_SW0_CODEC id), digestBoundary id stSce]) :=
    allEff_iff.2 fun w => by simp [sceSwitch, digestBoundary, applyRegs, Eff.offMem]
  rw [State.atPicture, ← mem_off s hoff]
  simp only [then_seq_cons, then_seq_nil]

/-! ## A decoder's picture starts -/

/-- A decoder's picture is begun, with its distance from the key picture. -/
def decBegins (id since : Nat) : Act :=
  .seq [sceBegin id, updSce id fun x => { x with sinceTrue := since }, setS F.SCE_SLIVE1_SINCEKEY id (min 1023 since)]

/-- A picture that is not refused: a key picture ends what a refusal began, and a refresh request may be due again. -/
def decGoes (id since : Nat) (h : SceHdr) : Act := .seq [decBegins id since, .when h.key (.seq [setS F.SCE_SLIVE1_REFUSED id 0,
  updSce id fun x => { x with rfr := none, skipRasl := h.kind == .bla || (h.kind == .cra && !x.decoded) }]), sceRepeat id]

/-- What is reported of poisoned input and of missing references. -/
def decReports (k id frame : Nat) (pz miss : Bool) : Act := .seq
  [.when pz (.seq [sceErr k 6 id 0 frame, countS F.SCE_SCNT2_LOSTREG id 1]), .when miss (sceErr k 4 id 0 frame),
    .when (miss || pz) (sceEvent id)]

/-- Firmware refuses a picture (R276). -/
def decRefuses (k id since frame : Nat) : Act := .seq
  [decBegins id since, sceErr k 1 id 0 frame, setS F.SCE_SLIVE1_REFUSED id 1,
    updSce id fun x => { x with decoded := false }]

/-- How many pictures a decoder's picture follows the last key picture by. -/
def State.sinceKey (s : State) (id : Nat) (h : SceHdr) : Nat := if h.key then 0 else (s.stream id).sce.sinceTrue + 1

/-- A decoder's picture with what its boundary and its headers give it. -/
def State.headed (s : State) (id : Nat) (p : ScePic) (h : SceHdr) : ScePic :=
  let c := (s.stream id).sce
  { p with frame := (c.nextFrame + 1) % 2 ^ 32, set := s.sceSet id, hdr := some h, typ := h.typ, poc := h.poc (!c.decoded) c.prevPoc }

/-- Such a picture as it runs: whether it opens an event of R295 or follows one, and whether its input is poisoned. -/
def State.decPic (s : State) (id : Nat) (p : ScePic) (h : SceHdr) (miss : Bool) : ScePic :=
  { s.headed id p h with
    event := miss || s.inputPoisoned id p, concealed := !h.key && s.sget F.SCE_SLIVE1_CONCEAL id == 1,
    conds := p.conds ++ if s.inputPoisoned id p then [0x0201] else [] }

/-- A header that firmware does not support is refused with its picture. -/
theorem then_sceStartDec_refused (hs : s.shadowed id sceRegs = []) (hsup : h.supported = false) : ∃ since p',
    s.then (sceStartDec k id p h) = ((s.atPicture k id).then (decRefuses k id since p'.frame)).then
      (.seq [sceGiveUp k id p' 0x0104, sceDrain id]) := by
  have hshadow : (s.then (sceSwitch k id (s.slive F.SCE_SW0_CODEC id))).shadowed id sceRegs = [] := by rwa [shadowed_sceSwitch]
  rw [sceStartDec, then_seq_cons, then_seq_cons, then_seq_nil, then_read, then_sceShadow hshadow, ← State.atPicture]
  generalize s.atPicture k id = w
  refine ⟨w.sinceKey id h, w.headed id p h, (then_congr (b := .seq [decBegins id (w.sinceKey id h),
    sceErr k 1 id 0 (w.headed id p h).frame, setS F.SCE_SLIVE1_REFUSED id 1, updSce id fun x => { x with decoded := false },
    sceGiveUp k id (w.headed id p h) 0x0104, sceDrain id]) ?_).trans ?_⟩
  · simp only [hsup, Bool.not_false, true_or, if_true]
    rfl
  · simp only [decRefuses, then_seq_cons, then_seq_nil]

/-- A picture that passes the checks of R276, R283 and R285 goes on. -/
theorem then_sceStartDec_goes (hs : s.shadowed id sceRegs = []) (hsup : h.supported = true) (hnew : h.existing = none)
    (hrasl : h.kind ≠ .rasl ∨ (s.stream id).sce.skipRasl = false) (href : s.sget F.SCE_SLIVE1_REFUSED id = 0 ∨ h.key = true)
    (hfits : s.sceSuffices id h = true) : ∃ since pz p',
    p'.n = p.n ∧ p'.hdr = some h ∧ p'.frame = ((s.stream id).sce.nextFrame + 1) % 2 ^ 32 ∧
    s.then (sceStartDec k id p h) = (((s.atPicture k id).then (decGoes id since h)).then
      (decReports k id p'.frame pz (missingRefs (s.sceSet id).codec h (s.stream id).sce))).then (sceRun k id p') := by
  have hshadow : (s.then (sceSwitch k id (s.slive F.SCE_SW0_CODEC id))).shadowed id sceRegs = [] := by rwa [shadowed_sceSwitch]
  have href' : ¬ ((s.sget F.SCE_SLIVE1_REFUSED id == 1) = true ∧ (!h.key) = true) := by
    rcases href with hr | hkey
    · simp [hr]
    · simp [hkey]
  have hrasl' : ¬ (h.kind = .rasl ∧ (s.stream id).sce.skipRasl = true) := by
    rcases hrasl with hkind | hskip
    · simp [hkind]
    · simp [hskip]
  rw [sceStartDec, then_seq_cons, then_seq_cons, then_seq_nil, then_read, then_sceShadow hshadow, ← State.atPicture]
  rw [← sget_atPicture (k := k) (id := id) (by decide)] at href'
  rw [← sceSuffices_atPicture (k := k)] at hfits
  rw [← stream_atPicture (k := k) (id := id)] at hrasl' ⊢
  rw [← sceSet_atPicture (k := k) (id := id)]
  generalize s.atPicture k id = w at *
  generalize hmiss : missingRefs (w.sceSet id).codec h (w.stream id).sce = miss
  refine ⟨w.sinceKey id h, w.inputPoisoned id p, w.decPic id p h miss, rfl, rfl, rfl,
    (then_congr (b := .seq [decGoes id (w.sinceKey id h) h,
      .when (w.inputPoisoned id p) (.seq [sceErr k 6 id 0 (w.decPic id p h miss).frame, countS F.SCE_SCNT2_LOSTREG id 1]),
      .when miss (sceErr k 4 id 0 (w.decPic id p h miss).frame), .when (miss || w.inputPoisoned id p) (sceEvent id),
      sceRun k id (w.decPic id p h miss)]) ?_).trans ?_⟩
  · simp only [hsup, hnew, href', hrasl', hfits, hmiss, Bool.not_true, Bool.false_eq_true, or_self, if_false, Option.isSome_none]
    rfl
  · simp only [decReports, then_seq_cons, then_seq_nil]

/-! ## What a decoder's picture shows -/

variable {since frame : Nat} {pz miss : Bool}

theorem frame_decBegins :
    (u.then (decBegins id since)).sget F.SCE_SLIVE0_FRAME id = ((u.stream id).sce.nextFrame + 1) % 2 ^ 32 := by
  rw [decBegins, then_seq_cons, then_seq_cons, then_seq_cons, then_seq_nil, sget_setS_ne (by decide) (by decide), sget_updSce,
    frame_sceBegin]

theorem refused_decBegins : (u.then (decBegins id since)).sget F.SCE_SLIVE1_REFUSED id = u.sget F.SCE_SLIVE1_REFUSED id :=
  get_off u (by decide) (allEff_iff.2 fun w => by
    simp +decide [decBegins, sceBegin, updSce, Eff.offF, Eff.off]) _ _

/-- A refresh request changes none of what the stream shows of its pictures. -/
theorem off_sceRefresh {r : Reg} (hr : r ≠ .SCE_SCNT) : AllEff (Eff.off r) (sceRefresh id) := allEff_iff.2 fun w => by
  simp [sceRefresh, updSce, Eff.off, F.SCE_SCNT_REFCNT, hr.symm]

theorem off_sceRepeat {r : Reg} (hr : r ≠ .SCE_SCNT) : AllEff (Eff.off r) (sceRepeat id) := allEff_iff.2 fun w => by
  have hrefresh := allEff_iff.1 (off_sceRefresh (id := id) hr) w
  unfold sceRepeat
  dsimp only
  split
  · exact effs_nil
  · simp [hrefresh]

theorem frame_decGoes :
    (u.then (decGoes id since h)).sget F.SCE_SLIVE0_FRAME id = ((u.stream id).sce.nextFrame + 1) % 2 ^ 32 := by
  rw [decGoes, then_seq_cons, then_seq_cons, then_seq_cons, then_seq_nil,
    sget_of_off F.SCE_SLIVE0_FRAME (off_sceRepeat (by decide))]
  cases h.key
  · rw [then_when, if_neg (by decide), frame_decBegins]
  · rw [then_when, if_pos rfl, then_seq_cons, then_seq_cons, then_seq_nil, sget_updSce, sget_setS_ne (by decide) (by decide),
      frame_decBegins]

/-- A picture that goes on is not refused, and a key picture ends the refusal (R276). -/
theorem refused_decGoes (href : u.sget F.SCE_SLIVE1_REFUSED id = 0 ∨ h.key = true) :
    (u.then (decGoes id since h)).sget F.SCE_SLIVE1_REFUSED id = 0 := by
  rw [decGoes, then_seq_cons, then_seq_cons, then_seq_cons, then_seq_nil,
    sget_of_off F.SCE_SLIVE1_REFUSED (off_sceRepeat (by decide))]
  cases hkey : h.key
  · rw [then_when, if_neg (by decide), refused_decBegins]
    simpa [hkey] using href
  · rw [then_when, if_pos rfl, then_seq_cons, then_seq_cons, then_seq_nil, sget_updSce, sget_setS (by decide), Nat.zero_mod]

/-- What is reported leaves the picture's number and the refusal alone. -/
theorem sget_decReports {f : Fld} (hf : f = F.SCE_SLIVE0_FRAME ∨ f = F.SCE_SLIVE1_REFUSED) :
    (u.then (decReports k id frame pz miss)).sget f id = u.sget f id := by
  have hall (w : State) : Effs (Eff.offF f) (decReports k id frame pz miss w) := by
    rcases hf with rfl | rfl <;>
      simp +decide [decReports, sceErr, blockErr, sceEvent, sceRefresh, updSce, Eff.offF, Eff.off]
  exact get_off u (by rcases hf with rfl | rfl <;> decide) (allEff_iff.2 hall) _ _

/-- A missing reference is concealed (R295). -/
theorem conceal_decReports : (u.then (decReports k id frame pz true)).sget F.SCE_SLIVE1_CONCEAL id = 1 := by
  simp only [decReports, Bool.true_or, then_when, if_true, then_seq_cons, then_seq_nil, sceEvent]
  rw [sget_of_off F.SCE_SLIVE1_CONCEAL (off_sceRefresh (by decide)), sget_setS (by decide)]
  rfl

/-- Nothing of this is in memory. -/
theorem offMem_decoder : AllEff Eff.offMem (.seq [decGoes id since h, decReports k id frame pz miss]) := allEff_iff.2 fun w => by
  have hrefresh (w : State) : Effs Eff.offMem (sceRefresh id w) := by simp [sceRefresh, updSce, Eff.offMem]
  have hrepeat (w : State) : Effs Eff.offMem (sceRepeat id w) := by
    unfold sceRepeat
    dsimp only
    split <;> simp [hrefresh]
  simp [decGoes, decBegins, sceBegin, decReports, sceErr, blockErr, sceEvent, hrefresh, hrepeat, updSce, Eff.offMem]

theorem decPicture_starts (hon : s.isOn .sce k = true) (hidle : (s.tile k).sceBusy = none) (hready : sceReady s k = some (id, p))
    (he : s.isSceEnc id = false) (hs : s.shadowed id sceRegs = []) (hsup : h.supported = true) (hnew : h.existing = none)
    (hrasl : h.kind ≠ .rasl ∨ (s.stream id).sce.skipRasl = false) (href : s.sget F.SCE_SLIVE1_REFUSED id = 0 ∨ h.key = true)
    (hfits : s.sceSuffices id h = true) : gives (.scePictureStart k h) s fun t =>
      (t.tile k).sceBusy = some id ∧ t.get F.SCE_STAT_BUSY k 0 = 1 ∧ t.sget F.SCE_SLIVE1_REFUSED id = 0 ∧
      t.sget F.SCE_SLIVE0_FRAME id = ((s.stream id).sce.nextFrame + 1) % 2 ^ 32 ∧
      (missingRefs (s.sceSet id).codec h (s.stream id).sce = true → t.sget F.SCE_SLIVE1_CONCEAL id = 1) ∧
      (∃ r, (t.stream id).sce.run = some r ∧ r.n = p.n ∧ r.hdr = some h ∧ r.frame = ((s.stream id).sce.nextFrame + 1) % 2 ^ 32) ∧
      sameMem s t := by
  obtain ⟨since, pz, p', hn, hhdr, hframe, hthen⟩ := then_sceStartDec_goes (k := k) (p := p) hs hsup hnew hrasl href hfits
  refine done_holds fun t ht => ?_
  rw [then_scePictureStart hon hidle hready, he, if_neg (by decide), hthen] at ht
  obtain ⟨hbusy, hstat, r, hr, hrn, hrframe, hrhdr⟩ := ht.running running_sceRun
  refine ⟨hbusy, hstat, ?_, ?_, fun hmiss => ?_, ⟨r, hr, hrn.trans hn, hrhdr.trans hhdr, hrframe.trans hframe⟩, fun a => ?_⟩
  · rw [ht.sget (by decide), sget_sceRun (by decide), sget_decReports (.inr rfl)]
    exact refused_decGoes (by rwa [sget_atPicture (by decide)])
  · rw [ht.sget (by decide), sget_sceRun (by decide), sget_decReports (.inl rfl), frame_decGoes, stream_atPicture]
  · rw [ht.sget (by decide), sget_sceRun (by decide), hmiss]
    exact conceal_decReports
  · have hmem := mem_off (s.atPicture k id) (offMem_decoder (k := k) (id := id) (since := since) (h := h) (frame := p'.frame)
      (pz := pz) (miss := missingRefs (s.sceSet id).codec h (s.stream id).sce))
    simp only [then_seq_cons, then_seq_nil] at hmem
    rw [ht.byte, State.byte, mem_off _ (allEff_iff.2 fun _ => offMem_sceRun), hmem, mem_atPicture, ← State.byte]

/-! ## An unsupported header -/

/-- The engine shows the code of its last error (R302). -/
theorem code_sceErr (code row : Nat) : (u.then (sceErr k code id row frame)).get F.SCE_ERRSTAT_CODE k 0 = code % 16 := by
  unfold sceErr blockErr
  rw [then_seq_cons, then_seq_cons, then_seq_nil, get_count_ne (by decide) (by decide)]
  exact get_run_fld u (by decide) k 0 code [_] _ (by simp +decide [Eff.offF])

/-- The engine's code and the stream's refusal after a picture that is refused. -/
theorem shown_decRefuses : (u.then (decRefuses k id since frame)).get F.SCE_ERRSTAT_CODE k 0 = 1 ∧
    (u.then (decRefuses k id since frame)).sget F.SCE_SLIVE1_REFUSED id = 1 := by
  simp only [decRefuses, then_seq_cons, then_seq_nil]
  rw [sget_updSce, sget_setS (by decide)]
  refine ⟨?_, rfl⟩
  rw [get_updSce, get_setS_ne (by decide) (by decide), code_sceErr]

theorem run_decRefuses : ((u.then (decRefuses k id since frame)).stream id).sce.run = (u.stream id).sce.run :=
  stream_of_keepsOf (v := fun x => x.sce.run) (allEff_iff.2 fun w => by
    simp [decRefuses, decBegins, sceBegin, sceErr, blockErr, updSce]) id

theorem busy_decRefuses : ((u.then (decRefuses k id since frame)).tile k).sceBusy = (u.tile k).sceBusy :=
  busy_of_keepsBusy (allEff_iff.2 fun w => by simp [decRefuses, decBegins, sceBegin, sceErr, blockErr, updSce]) k

theorem decPicture_refused (hon : s.isOn .sce k = true) (hidle : (s.tile k).sceBusy = none) (hready : sceReady s k = some (id, p))
    (he : s.isSceEnc id = false) (hs : s.shadowed id sceRegs = []) (hsup : h.supported = false) :
    gives (.scePictureStart k h) s fun t =>
      (t.tile k).sceBusy = none ∧ (t.stream id).sce.run = (s.stream id).sce.run ∧ t.get F.SCE_ERRSTAT_CODE k 0 = 1 ∧
      t.sget F.SCE_SLIVE1_REFUSED id = 1 := by
  obtain ⟨since, p', hthen⟩ := then_sceStartDec_refused (k := k) (p := p) hs hsup
  have htail : AllEff (Eff.keepsSce Sce.course) (.seq [sceGiveUp k id p' 0x0104, sceDrain id]) := allEff_iff.2 fun w => by simp
  obtain ⟨hcode, hrefused⟩ := shown_decRefuses (u := s.atPicture k id) (k := k) (id := id) (since := since) (frame := p'.frame)
  refine done_holds fun t ht => ?_
  rw [then_scePictureStart hon hidle hready, he, if_neg (by decide), hthen] at ht
  refine ⟨?_, ?_, ?_, ?_⟩
  · rw [ht.tile, busy_of_keepsSce htail, busy_decRefuses, busy_atPicture, hidle]
  · rw [ht.stream, run_of_keepsCourse htail, run_decRefuses, stream_atPicture]
  · rw [ht.get _ _ _ (by decide), get_of_keepsSce htail (by decide), hcode]
  · rw [ht.sget (by decide), sget_of_keepsSce htail (by decide), hrefused]

end Sys2Proof.Machine
end

section
/-! A picture completes (R279, R286, R292, R296, R300): the engine and the stream are idle again, and an encoder shows its access unit; and
the obligation. -/
namespace Sys2Proof.Machine
open Sys2Proof.Say

variable {s u : State} {k id : Nat} {p : ScePic} {a : Act}

/-! ## The engine is free again -/

/-- Neither the engine nor the stream has a picture in progress. -/
def sceDone (u : State) (k id : Nat) : Prop :=
  (u.tile k).sceBusy = none ∧ u.get F.SCE_STAT_BUSY k 0 = 0 ∧ (u.stream id).sce.run = none

theorem then_sceIdle (n : Nat) : u.then (sceIdle k id n) = (((u.then (updSce id fun x => { x with run := none })).then
    (updT k fun c => { c with sceBusy := none })).then (setF F.SCE_STAT_BUSY k 0)).then (count256 F.SCE_BUSYCNT_COUNT k n) := by
  simp only [sceIdle, then_seq_cons, then_seq_nil]

theorem keepsSce_busyCount {α : Type} {v : Sce → α} {n : Nat} : AllEff (Eff.keepsSce v) (count256 F.SCE_BUSYCNT_COUNT k n) :=
  allEff_iff.2 fun w => by simp +decide [count256]

/-- What comes after leaves it so. -/
theorem sceDone_keeps (hu : sceDone u k id) (h : AllEff (Eff.keepsSce Sce.course) a) : sceDone (u.then a) k id := by
  obtain ⟨hbusy, hstat, hrun⟩ := hu
  exact ⟨(busy_of_keepsSce h k).trans hbusy, (get_of_keepsSce h (by decide) k 0).trans hstat, (run_of_keepsCourse h id).trans hrun⟩

theorem sceDone_sceIdle (n : Nat) : sceDone (u.then (sceIdle k id n)) k id := by
  rw [then_sceIdle]
  exact sceDone_keeps ⟨by simp, get_then_setF _ _ _ _ (by decide), by simp⟩ keepsSce_busyCount

theorem sceDone_sceKeyRequest (hu : sceDone u k id) : sceDone (u.then (sceKeyRequest id)) k id := by
  have hoff : AllEff (Eff.off .SCE_STAT) (sceKeyRequest id) := allEff_iff.2 fun w => by
    simp +decide [sceKeyRequest, Eff.off]
  obtain ⟨hbusy, hstat, hrun⟩ := hu
  exact ⟨hbusy, (get_of_off (f := F.SCE_STAT_BUSY) hoff k 0).trans hstat, hrun⟩

/-! ## Pictures complete -/

/-- A step that is one of two lists of steps. -/
theorem run_ite_seq {c : Prop} [Decidable c] {l m : List Act} :
    s.run (if c then Act.seq l s else Act.seq m s) = if c then s.then (.seq l) else s.then (.seq m) := by split <;> rfl

theorem sceDone_sceDoneEnc (stall : Nat) : sceDone (s.then (sceDoneEnc k id p stall)) k id := by
  rw [then_def]
  unfold sceDoneEnc
  dsimp only
  rw [run_ite_seq]
  split <;> simp only [then_seq_cons, then_seq_nil]
  · exact sceDone_sceKeyRequest (sceDone_keeps (sceDone_sceIdle _) (allEff_iff.2 fun _ => keepsSce_sceGiveUp))
  · exact sceDone_keeps (sceDone_keeps (sceDone_keeps (sceDone_keeps (sceDone_sceIdle _) (allEff_iff.2 fun _ => keepsSce_countConditions))
      (allEff_iff.2 fun _ => keepsSce_workRecord)) (allEff_iff.2 fun _ => keepsSce_sceRetire)) (allEff_iff.2 fun _ => keepsCourse_scePump)

theorem sceDone_sceDoneDec (h : SceHdr) (stall : Nat) : sceDone (s.then (sceDoneDec k id p h stall)) k id := by
  rw [then_def]
  unfold sceDoneDec
  dsimp only
  rw [← then_def]
  simp only [then_seq_cons, then_seq_nil]
  exact sceDone_keeps (sceDone_keeps (sceDone_keeps (sceDone_keeps (sceDone_sceIdle _) (allEff_iff.2 fun w => by simp [Sce.course]))
    (allEff_iff.2 fun _ => keepsSce_sceRetire)) (allEff_iff.2 fun _ => keepsCourse_sceDrain)) (allEff_iff.2 fun _ => keepsCourse_scePump)

/-- An encoder's access unit that fits is shown by its size, with its filler (R292). -/
theorem lastBytes_sceDoneEnc (stall : Nat) (hfit : s.auFits id (codedUnit s id p).length = true) :
    (s.then (sceDoneEnc k id p stall)).sget F.SCE_RCSTAT_LASTBYTES id = min (2 ^ 24 - 1) (codedUnit s id p).length := by
  have hkeep {a : Act} {w : State} (ha : AllEff (Eff.keepsSce Sce.course) a) :
      (w.then a).sget F.SCE_RCSTAT_LASTBYTES id = w.sget F.SCE_RCSTAT_LASTBYTES id := sget_of_keepsSce ha (by decide) _
  have hidle (n : Nat) : AllEff (Eff.off .SCE_RCSTAT) (sceIdle k id n) := allEff_iff.2 fun w => by
    simp +decide [sceIdle, count256, updSce, Eff.off]
  have hclamp (c : Bool) : AllEff (Eff.offF F.SCE_RCSTAT_LASTBYTES)
      (.when c (.seq [setS F.SCE_RCSTAT_CLAMP id 1, countS F.SCE_SCNT_CLAMPS id 1])) := allEff_iff.2 fun w => by
    simp +decide [Eff.offF]
  rw [then_def]
  unfold sceDoneEnc
  dsimp only
  rw [run_ite_seq, if_neg (by simpa [codedUnit] using hfit)]
  simp only [then_seq_cons, then_seq_nil]
  rw [hkeep (allEff_iff.2 fun _ => keepsCourse_scePump), hkeep (allEff_iff.2 fun _ => keepsSce_sceRetire),
    hkeep (allEff_iff.2 fun _ => keepsSce_workRecord), hkeep (allEff_iff.2 fun _ => keepsSce_countConditions),
    sget_of_off F.SCE_RCSTAT_LASTBYTES (hidle _),
    hkeep (allEff_iff.2 fun _ => keepsSce_auOut), hkeep (allEff_iff.2 fun _ => keepsCourse_sceStat),
    State.sget, get_off _ (by decide) (hclamp _), ← State.sget, sget_setS (by decide)]
  exact Nat.mod_eq_of_lt ((Nat.min_le_left _ _).trans_lt (by decide))

theorem picture_completes {r : SceRes} (hbusy : (s.tile k).sceBusy = some id) (hrun : (s.stream id).sce.run = some p) :
    gives (.scePictureDone k r) s fun t =>
      (t.tile k).sceBusy = none ∧ t.get F.SCE_STAT_BUSY k 0 = 0 ∧ (t.stream id).sce.run = none ∧
      (p.hdr = none → s.auFits id (codedUnit s id p).length = true →
        t.sget F.SCE_RCSTAT_LASTBYTES id = min (2 ^ 24 - 1) (codedUnit s id p).length) := by
  refine done_holds fun t ht => ?_
  rw [ht.tile, ht.get _ _ _ (by decide), ht.stream, ht.sget (by decide)]
  cases hhdr : p.hdr with
  | none =>
    have hthen : s.then (scePictureDoneX k r) = s.then (sceDoneEnc k id p r.stall) :=
      then_congr (by simp [scePictureDoneX, hbusy, hrun, hhdr])
    rw [hthen]
    obtain ⟨hfree, hstat, hnone⟩ := sceDone_sceDoneEnc (s := s) (k := k) (id := id) (p := p) r.stall
    exact ⟨hfree, hstat, hnone, fun _ hfit => lastBytes_sceDoneEnc r.stall hfit⟩
  | some h =>
    have hthen : s.then (scePictureDoneX k r) = s.then (sceDoneDec k id p h r.stall) :=
      then_congr (by simp [scePictureDoneX, hbusy, hrun, hhdr])
    rw [hthen]
    obtain ⟨hfree, hstat, hnone⟩ := sceDone_sceDoneDec (s := s) (k := k) (id := id) (p := p) h r.stall
    exact ⟨hfree, hstat, hnone, fun hno => by cases hno⟩

/-- Settles O29: a picture that is taken in or started is its boundary's choices and then what they change, which neither its reports nor
a refusal's completion undo; and once the engine is idle, what a picture's end still does leaves it so. -/
theorem standardPicturesRun : Obligations.StandardPicturesRun :=
  ⟨fun _ _ _ hi he hs hrc => encPicture_taken hi he hs hrc, fun _ _ _ hi hd => decPicture_taken hi hd,
    fun _ _ _ _ _ hon hidle hready he hpool hin => encPicture_starts hon hidle hready he hpool hin,
    fun _ _ _ _ _ hon hidle hready he hs hsup hnew hrasl href hfits =>
      decPicture_starts hon hidle hready he hs hsup hnew hrasl href hfits,
    fun _ _ _ _ _ hon hidle hready he hs hsup => decPicture_refused hon hidle hready he hs hsup,
    fun _ _ _ _ _ hbusy hrun => picture_completes hbusy hrun,
    fun _ _ _ _ _ hl h64 h256 he => sceKeyreq_lands hl h64 h256 he,
    fun _ _ _ _ _ hl h64 h256 he => sceRcreset_lands hl h64 h256 he⟩

end Sys2Proof.Machine
end

section
/-! The canonical form of the whole state: every effect keeps it, map by map, and so does every step. -/
namespace Sys2Proof.Machine

/-- The canonical form `State.wf`, map by map. -/
structure State.Canonical (s : State) : Prop where
  regs : mapWf RegKey.code (fun k => resetWord k.reg) s.regs = true
  force : mapWf RegKey.code (fun _ => none) s.force = true
  latch : mapWf RegKey.code (fun _ => none) s.latch = true
  resid : mapWf RegKey.code (fun _ => 0) s.resid = true
  snap : mapWf RegKey.code (fun _ => none) s.snap = true
  mem : Memory.wf s.mem = true
  poison : mapWf id (fun _ => false) s.poison = true
  bale : mapWf id (fun _ => baleDefault) s.bale = true
  streams : mapWf id (fun _ => {}) s.streams = true
  insts : mapWf id (fun _ => {}) s.insts = true
  tiles : mapWf id (fun _ => {}) s.tiles = true

theorem State.wf_iff_canonical (s : State) : s.wf = true ↔ s.Canonical := by
  simp only [State.wf, Bool.and_eq_true, and_assoc]
  exact ⟨fun ⟨h1, h2, h3, h4, h5, h6, h7, h8, h9, h10, h11⟩ => ⟨h1, h2, h3, h4, h5, h6, h7, h8, h9, h10, h11⟩,
    fun ⟨h1, h2, h3, h4, h5, h6, h7, h8, h9, h10, h11⟩ => ⟨h1, h2, h3, h4, h5, h6, h7, h8, h9, h10, h11⟩⟩

/-- A store keeps the canonical form of a map whose unlisted keys all read alike. -/
theorem mapWf_store {K V : Type} [DecidableEq V] {code : K → Nat} {d : V} {m : List (K × V)} (k : K) (v : V)
    (h : mapWf code (fun _ => d) m = true) : mapWf code (fun _ => d) (mapPut code d m k v) = true :=
  mapWf_mapPut code (fun _ => d) m k v h

/-- A list of stores keeps the canonical form. -/
theorem mapWf_stores {K V W : Type} [DecidableEq V] {code : K → Nat} {d : V} (g : W → V) (l : List (K × W)) {m : List (K × V)}
    (h : mapWf code (fun _ => d) m = true) :
    mapWf code (fun _ => d) (l.foldl (fun m e => mapPut code d m e.1 (g e.2)) m) = true := by
  induction l generalizing m with
  | nil => exact h
  | cons e l ih => exact ih (mapWf_store e.1 (g e.2) h)

theorem State.Canonical.setReg {s : State} (h : s.Canonical) (r : Reg) (t ix : Nat) (w : Word) : (s.setReg r t ix w).Canonical :=
  { h with regs := mapWf_mapPut RegKey.code (fun k => resetWord k.reg) s.regs ⟨r, t, ix⟩ _ h.regs }

theorem State.Canonical.setBytes {s : State} (h : s.Canonical) (a : Nat) (bs : List Byte) : (s.setBytes a bs).Canonical := by
  induction bs generalizing s a with
  | nil => exact h
  | cons b bs ih =>
    have hb : (s.setByte a b).Canonical := { h with mem := memWf_setByte s a b h.mem }
    exact ih hb (a + 1)

/-- Every effect keeps every map in its canonical form: it stores values in one, or removes entries. -/
theorem State.Canonical.run {s : State} (h : s.Canonical) (e : Eff) : (Eff.run s e).Canonical := by
  cases e with
  | fld f t ix v => exact h.setReg _ _ _ _
  | word r t ix w => exact h.setReg _ _ _ _
  | resetRegs p =>
    exact { h with regs := mapWf_mapDrop _ _ _ _ h.regs, force := mapWf_mapDrop _ _ _ _ h.force, resid := mapWf_mapDrop _ _ _ _ h.resid }
  | hold r t ix => exact { h with force := mapWf_store (RegKey.mk r t ix) (some (s.liveReg r t ix)) h.force }
  | apply p => exact { h with force := mapWf_mapDrop _ _ _ _ h.force }
  | latch r t c w => exact { h with latch := mapWf_store _ _ h.latch }
  | unlatch => exact { h with latch := rfl }
  | countU f t ix unit n => exact { h.setReg f.reg t ix _ with resid := mapWf_store _ _ h.resid }
  | snapshot t l => exact { h with snap := mapWf_stores some l (mapWf_mapDrop _ _ _ _ h.snap) }
  | mem a bs => exact h.setBytes a bs
  | memZero a n => exact { h with mem := memWf_run s (.memZero a n) h.mem }
  | poison g b => exact { h with poison := mapWf_store _ _ h.poison }
  | unpoison lo hi =>
    exact { h with poison := mapWf_mapDrop _ _ (fun k => decide (lo ≤ k) && decide (k < hi)) _ h.poison }
  | bale b c => exact { h with bale := mapWf_store _ _ h.bale }
  | stream id f => exact { h with streams := mapWf_store _ _ h.streams }
  | inst n f => exact { h with insts := mapWf_store _ _ h.insts }
  | tile t f => exact { h with tiles := mapWf_store _ _ h.tiles }
  | pkg _ | emit _ | draw _ | setNow _ | tick _ | startAon => exact { h with }

theorem State.Canonical.then {s : State} (h : s.Canonical) (a : Act) : (s.then a).Canonical :=
  run_keeps s (a s) (P := State.Canonical) (fun _ hu e _ => hu.run e) h

/-- Settles O50: every effect keeps every map's canonical form, and a step is a list of effects. -/
theorem everyStepKeepsTheCanonicalForm : Obligations.EveryStepKeepsTheCanonicalForm := by
  intro s t hwf h
  obtain ⟨a, ha⟩ := step_eq_then s
  obtain rfl : (s.withPending s.pending.tail).then a = t := Host.Outcome.next.inj (ha.symm.trans h)
  have hs : s.Canonical := s.wf_iff_canonical.1 hwf
  have hp : (s.withPending s.pending.tail).Canonical := { hs with }
  exact (State.wf_iff_canonical _).2 (hp.then a)

end Sys2Proof.Machine
end

section
/-! The replay window (R316): its verdict on a sequence number, and what an accepted newer one leaves. -/
namespace Sys2Proof.Machine
open Sys2Proof.Say

variable {w : Window} {hi seq : Nat}

/-- How far a sequence number lies behind the highest one, modulo 2^32. -/
def seqBehind (hi seq : Nat) : Nat := (hi + 2 ^ 32 - seq) % 2 ^ 32

theorem judge_newer (hw : w.high = some hi) (ha : 2 ^ 31 < seqBehind hi seq) : w.judge seq = .newer := by
  unfold seqBehind at ha
  simp only [Window.judge, hw, if_pos ha]

theorem judge_stale (hw : w.high = some hi) (h64 : 64 ≤ seqBehind hi seq) (ha : seqBehind hi seq ≤ 2 ^ 31) : w.judge seq = .stale := by
  unfold seqBehind at h64 ha
  simp only [Window.judge, hw, if_neg (not_lt.2 ha), if_pos h64]

/-- Within 64 of the highest number the window's entries decide. -/
theorem judge_near (hw : w.high = some hi) (ha : seqBehind hi seq < 64) :
    w.judge seq = ((w.entries.find? (·.seq == seq)).elim .late .dup) := by
  unfold seqBehind at ha
  have hnear : ¬ 2 ^ 31 < (hi + 2 ^ 32 - seq) % 2 ^ 32 := by omega
  simp only [Window.judge, hw, if_neg hnear, if_neg (not_le.2 ha)]
  cases w.entries.find? (·.seq == seq) <;> rfl

theorem judge_near_dup (hw : w.high = some hi) (ha : seqBehind hi seq < 64) {e : WinEntry} (he : w.judge seq = .dup e) :
    e ∈ w.entries ∧ e.seq = seq := by
  rw [judge_near hw ha] at he
  cases hf : w.entries.find? (·.seq == seq) with
  | none => simp [hf] at he
  | some d =>
    obtain rfl : d = e := by simpa [hf] using he
    exact ⟨List.mem_of_find?_eq_some hf, by simpa using List.find?_some hf⟩

theorem judge_near_held (hw : w.high = some hi) (ha : seqBehind hi seq < 64) (he : ∃ e ∈ w.entries, e.seq = seq) :
    ∃ e, w.judge seq = .dup e := by
  obtain ⟨e, hmem, hseq⟩ := he
  obtain ⟨d, hd⟩ := Option.isSome_iff_exists.1 (List.find?_isSome (p := fun x : WinEntry => x.seq == seq) |>.2 ⟨e, hmem, by simpa⟩)
  exact ⟨d, by simp [judge_near hw ha, hd]⟩

theorem judge_near_late (hw : w.high = some hi) (ha : seqBehind hi seq < 64) (hno : ∀ e ∈ w.entries, e.seq ≠ seq) :
    w.judge seq = .late := by
  have hf : w.entries.find? (·.seq == seq) = none := List.find?_eq_none.2 fun e he => by simpa using hno e he
  simp [judge_near hw ha, hf]

/-- The entries after a newer number: those within 64 of it, and its own. -/
theorem entries_enter_newer (w : Window) (seq digest : Nat) : (w.enter seq digest true).entries =
    (w.entries.filter fun e => decide (seqBehind seq e.seq < 64)) ++ [⟨seq, digest, none, []⟩] := (rfl)

/-- Settles O17: the verdict by distance and by what the window holds, and the eviction of what lies 64 or more behind. -/
theorem replayWindowFollowsItsTable : Obligations.ReplayWindowFollowsItsTable := by
  refine ⟨fun w seq hw => by simp [Window.judge, hw], fun w hi seq hw _ _ => ⟨judge_newer hw, judge_stale hw, fun ha =>
    ⟨fun e he => judge_near_dup hw ha he, judge_near_held hw ha, judge_near_late hw ha⟩⟩, fun w seq digest => ⟨rfl, fun e he => ?_, ?_⟩⟩
  · rw [entries_enter_newer, List.mem_append, List.mem_filter, List.mem_singleton] at he
    rcases he with ⟨-, hnear⟩ | rfl
    · exact of_decide_eq_true hnear
    · simp
  · exact ⟨⟨seq, digest, none, []⟩, by simp [entries_enter_newer], rfl, rfl, rfl⟩

end Sys2Proof.Machine
end

section
/-! The end of a closing stream (R306, R311): its registers return to their reset words and its context is empty, which neither the pins
of table sets nor the completion of its `CLOSE` undo. -/
namespace Sys2Proof.Machine
open Sys2Proof.Say

variable {s u : State} {id : Nat} {r : Reg}

/-- Which registers a key names does not hang on how its tile and index are written. -/
theorem slotReg_code {k k' : RegKey} (h : k.code = k'.code) : slotReg id k = slotReg id k' := by
  obtain ⟨hreg, htile, hix⟩ := (RegKey.code_eq k k').1 h
  simp only [slotReg, RegKey.inTile, RegKey.atIx, hreg, htile, hix]

theorem reg_reset_slotReg (h : slotReg id ⟨r, homeOf id, slotOf id⟩ = true) :
    (Eff.run u (.resetRegs (slotReg id))).reg r (homeOf id) (slotOf id) = resetWord r := by
  rw [reg_resetRegs fun _ => slotReg_code, if_pos h]

/-- What the pins of the table sets, a sent record and the snapshot watch set are no registers of a slot. -/
theorem not_mem_of_slotReg {t ix : Nat} (h : slotReg id ⟨r, t, ix⟩ = true) : r ∉ Reg.SNP_CNT :: .ECE_TSET :: .ECE_TSETPROG :: sentRegs := by
  have hplace : ∀ q ∈ Reg.SNP_CNT :: .ECE_TSET :: .ECE_TSETPROG :: sentRegs, q.place.ix = .none ∨ q.place.ix = .addr := by decide
  intro hr
  rcases hplace r hr with hix | hix <;> simp [slotReg, hix] at h

/-- The effect leaves an empty stream empty. -/
@[simp] def Eff.keepsEmpty : Eff → Prop
  | .stream _ f => f {} = {}
  | _ => True

theorem stream_of_keepsEmpty {a : Act} (h : AllEff Eff.keepsEmpty a) (hu : u.stream id = {}) : (u.then a).stream id = {} := by
  refine run_keeps u (a u) (P := fun w => w.stream id = {}) (fun w hw e he => ?_) hu
  cases e with
  | stream n f =>
    rw [stream_run]
    split
    · next hn => rw [hn, hw]; exact h u _ he
    · exact hw
  | mem b bs => simpa [State.stream, Eff.run] using hw
  | _ => exact hw

theorem keepsEmpty_of_sends {l : List Eff} (h : Effs Eff.sends l) : Effs Eff.keepsEmpty l := h.mono fun e he => by
  cases e with
  | stream => exact he.elim
  | _ => trivial

/-- An empty window holds no record of the request that completes. -/
theorem keepsEmpty_completeHeld {n st d : Nat} {q : LiveReq} : Effs Eff.keepsEmpty (completeHeld n q st id d u) := by
  have hdeliver (o : Origin) (c : Cpl) (w : State) : Effs Eff.keepsEmpty (deliver o c w) := keepsEmpty_of_sends sends_deliver
  simp only [completeHeld, completeReq, updW, effs_when, effs_seq_cons, effs_ite_act]
  simp [hdeliver]

/-- What follows once the slot's registers and context are reset. -/
def closeTail (id : Nat) (s : State) : Act :=
  .seq [syncPins, .opt (s.stream id).closeReq fun r => completeHeld (s.stream id).inst r 0 id 0]

/-- The pins of the table sets show in the entropy coder's registers alone. -/
theorem showsIn_syncPins : Effs (Eff.showsIn [.ECE_TSET, .ECE_TSETPROG]) (syncPins u) :=
  effs_each fun t v => by simp [syncTsets, F.ECE_TSET_VALID, F.ECE_TSET_PINNED, F.ECE_TSETPROG_PROG_ID]

theorem keepsEmpty_closeTail : AllEff Eff.keepsEmpty (closeTail id s) := allEff_iff.2 fun v => by
  have hpins : Effs Eff.keepsEmpty (syncPins v) := showsIn_syncPins.mono fun e he => by
    cases e with
    | stream => exact he.elim
    | _ => trivial
  simp [closeTail, hpins, keepsEmpty_completeHeld]

theorem off_closeTail (hr : r ∉ Reg.SNP_CNT :: .ECE_TSET :: .ECE_TSETPROG :: sentRegs) : AllEff (Eff.off r) (closeTail id s) := by
  have hpins : r ∉ [Reg.ECE_TSET, .ECE_TSETPROG] := fun h => hr (.tail _ (List.mem_append_left sentRegs h))
  have hsent : r ∉ sentRegs := fun h => hr (.tail _ (.tail _ (.tail _ h)))
  refine allEff_iff.2 fun v => ?_
  simp [closeTail, showsIn_syncPins.mono fun _ => Eff.off_of_showsIn hpins, off_completeHeld hsent]

/-- A closing stream that has drained ends: what leaves it first, its registers and its context, and the rest. -/
theorem then_closeCompleteX (hstate : s.slotState id = slotClosing) (hdrained : s.drained id = true) :
    ∃ v, s.then (closeCompleteX id) = (Eff.run (Eff.run v (.resetRegs (slotReg id))) (.stream id fun _ => {})).then (closeTail id s) := by
  have hthen : s.then (closeCompleteX id) = s.then (.seq [closeSlot id, .opt (s.stream id).closeReq fun r =>
      completeHeld (s.stream id).inst r 0 id 0]) := then_congr (by simp [closeCompleteX, hstate, hdrained])
  refine ⟨((s.then (dirRemove id)).then (dropFlow id)).then (sourceGone id), hthen.trans ?_⟩
  simp only [closeSlot, closeTail, then_seq_cons, then_seq_nil, then_eff, run_cons, run_nil, then_updS]

/-- Settles O15: the slot's registers and context are reset, and what follows touches neither. -/
theorem closedStreamLeavesNothing : Obligations.ClosedStreamLeavesNothing := by
  intro s id hstate hdrained
  obtain ⟨v, hthen⟩ := then_closeCompleteX hstate hdrained
  refine done_holds fun t hst => ?_
  have hreg (r : Reg) (h : slotReg id ⟨r, homeOf id, slotOf id⟩ = true) : t.reg r (homeOf id) (slotOf id) = resetWord r := by
    have hr := not_mem_of_slotReg h
    rw [hst.reg r _ _ fun hcnt => hr (hcnt ▸ .head _), hthen, reg_off _ (off_closeTail hr)]
    exact reg_reset_slotReg h
  refine ⟨?_, ?_, hreg⟩
  · have hslot : slotReg id ⟨.SMV_SLIVE0, homeOf id, slotOf id⟩ = true := by
      simp [slotReg, RegKey.inTile, RegKey.atIx, Reg.place]
    have hword : t.slotState id = getBits (resetWord .SMV_SLIVE0) F.SMV_SLIVE0_STATE.hi F.SMV_SLIVE0_STATE.lo :=
      congrArg (fun w => getBits w _ _) (hreg .SMV_SLIVE0 hslot)
    rw [hword]
    decide
  · rw [hst.stream, hthen]
    exact stream_of_keepsEmpty keepsEmpty_closeTail ((stream_run _ id id _).trans (if_pos rfl))

end Sys2Proof.Machine
end

section
/-! Requests that are not executed (R315 to R317), from a ring whose completion ring takes nothing: what the stream mover records of them,
and the record that waits. -/
namespace Sys2Proof.Machine
open Sys2Proof.Say

variable {s u t : State} {k r : Nat} {h : ReqHdr} {p : List Byte} {opc : Nat} {l : List Reg} {a : Act}

/-- Every request opcode's command checks and executes its request. -/
theorem gives_request {e : Nat × (Origin → ReqHdr → List Byte → Instr)} (he : e ∈ requests) {o : Origin} {P : State → Prop}
    (hP : ∀ t, SnapSame (s.then (handleRequest o e.1 h p)) t → P t) : gives (e.2 o h p) s P := by
  have hexec : exec (e.2 o h p) s = done (handleRequest o e.1 h p) s := by
    simp only [requests, List.mem_cons, List.not_mem_nil, or_false] at he
    rcases he with rfl | rfl | rfl | rfl | rfl | rfl | rfl | rfl | rfl | rfl | rfl <;> rfl
  rw [gives, hexec]
  exact done_holds hP

/-! ## What the stream mover records (R342) -/

theorem showsIn_smvErr {t code id : Nat} : Effs (Eff.showsIn [.SMV_ERRSTAT, .SMV_ERRCNT]) (smvErr t code id u) := by
  simp [smvErr, blockErr, F.SMV_ERRSTAT_ERR, F.SMV_ERRSTAT_CODE, F.SMV_ERRCNT_COUNT, F.SMV_ERRSTAT_STREAM]

theorem get_smvErr_code {t code id : Nat} (hc : code < 16) : (u.then (smvErr t code id)).get F.SMV_ERRSTAT_CODE t 0 = code := by
  have hrun : u.then (smvErr t code id) = u.run ([.fld F.SMV_ERRSTAT_ERR t 0 1] ++ .fld F.SMV_ERRSTAT_CODE t 0 code ::
      [.fld F.SMV_ERRSTAT_STREAM t 0 id, .fld F.SMV_ERRCNT_COUNT t 0 (satAdd F.SMV_ERRCNT_COUNT.maxVal (u.get F.SMV_ERRCNT_COUNT t 0) 1)]) := by
    have hcnt : ((u.then (.eff [.fld F.SMV_ERRSTAT_ERR t 0 1, .fld F.SMV_ERRSTAT_CODE t 0 code, .fld F.SMV_ERRSTAT_STREAM t 0 id]))).get
        F.SMV_ERRCNT_COUNT t 0 = u.get F.SMV_ERRCNT_COUNT t 0 :=
      get_off u (by decide) (allEff_iff.2 fun v => by simp [Eff.offF, F.SMV_ERRSTAT_ERR, F.SMV_ERRSTAT_CODE, F.SMV_ERRSTAT_STREAM, F.SMV_ERRCNT_COUNT]) t 0
    rw [← hcnt]
    rfl
  rw [hrun, get_run_fld u (by decide) t 0 code _ _ (by simp [Eff.offF, F.SMV_ERRSTAT_STREAM, F.SMV_ERRSTAT_CODE, F.SMV_ERRCNT_COUNT])]
  exact Nat.mod_eq_of_lt hc

theorem now_smvErr {t code id : Nat} : (u.then (smvErr t code id)).now = u.now := (rfl)

/-- A command that records an error changes its registers alone. -/
theorem recorded_smvErr {t code id : Nat} {v : State} (hc : code < 16) (hst : SnapSame (u.then (smvErr t code id)) v) :
    v.get F.SMV_ERRSTAT_CODE t 0 = code ∧ sameRegs [.SMV_ERRSTAT, .SMV_ERRCNT] u v ∧ sameMem u v ∧ sameContexts u v :=
  ⟨(hst.get _ _ _ (by decide)).trans (get_smvErr_code hc), same_of_showsIn (allEff_iff.2 fun _ => showsIn_smvErr) hst⟩

/-! ## Records that wait (R320) -/

/-- A step that shows what it does elsewhere leaves a completion ring its room. -/
theorem cqRoom_of_showsIn (ha : AllEff (Eff.showsIn l) a) (htail : Reg.SMV_CQTAIL ∉ l) (hhead : Reg.SMV_CQHEAD ∉ l) (k r : Nat) :
    (s.then a).cqRoom k r = s.cqRoom k r := by
  unfold State.cqRoom
  rw [tile_of_showsIn ha, get_of_showsIn ha htail, get_of_showsIn ha hhead]

/-- A record due to a ring without room waits. -/
theorem then_cqPush_waits (hroom : u.cqRoom k r = false) (c : Cpl) :
    u.then (cqPush k r c) = Eff.run u (.tile k fun x => { x with cqWait := x.cqWait ++ [⟨r, c⟩] }) :=
  then_congr (b := updT k fun x => { x with cqWait := x.cqWait ++ [⟨r, c⟩] }) (by simp [cqPush, hroom])

/-- A step that shows what it does, and then a record that waits. -/
theorem waits_of_showsIn (ha : AllEff (Eff.showsIn l) a) (htail : Reg.SMV_CQTAIL ∉ l) (hhead : Reg.SMV_CQHEAD ∉ l)
    (hroom : s.cqRoom k r = false) {c : Cpl} (hst : SnapSame ((s.then a).then (cqPush k r c)) t) :
    ((∀ id, t.stream id = s.stream id) ∧ (∀ n, t.inst n = s.inst n) ∧ sameMem s t) ∧
    (t.tile k).cqWait = (s.tile k).cqWait ++ [⟨r, c⟩] ∧ sameRegs l s t ∧
    ∀ f : Fld, f.reg ≠ .SNP_CNT → ∀ j ix, t.get f j ix = (s.then a).get f j ix := by
  obtain ⟨hmem, hstreams, hinsts, -⟩ := contexts_of_showsIn (u := s) ha
  rw [then_cqPush_waits ((cqRoom_of_showsIn ha htail hhead k r).trans hroom)] at hst
  refine ⟨⟨fun id => ?_, fun n => ?_, fun b => ?_⟩, ?_, fun q hq j ix => ?_, fun f hf j ix => hst.get f j ix hf⟩
  · rw [hst.stream, State.stream, run_tile_streams, hstreams, ← State.stream]
  · rw [hst.inst, State.inst, run_tile_insts, hinsts, ← State.inst]
  · rw [hst.byte, State.byte, run_tile_mem, hmem, ← State.byte]
  · rw [hst.tile, tile_run, if_pos rfl, tile_of_showsIn ha]
  · obtain ⟨hcnt, hl⟩ : q ≠ .SNP_CNT ∧ q ∉ l := by simpa using hq
    exact (hst.reg q j ix hcnt).trans (reg_off s (ha.mono fun _ he => Eff.off_of_showsIn hl he) j ix)

theorem then_answer (st : Nat) : u.then (answer (.ring k r) opc h p st) =
    u.then (cqPush k r ⟨u.now, 0, h.seq, recStream opc h p, st, 0, h.inst, h.epoch, 0⟩) := then_congr rfl

theorem showsIn_countDup {id : Nat} {c : Bool} : AllEff (Eff.showsIn [.SMV_SCOND3]) (.when c (countS F.SMV_SCOND3_DUP id 1)) :=
  allEff_iff.2 fun v => by simp [F.SMV_SCOND3_DUP]

/-! ## The checks -/

theorem then_handleRequest_poison (hs : s.stage = 9) (hp : h.poison = true) :
    s.then (handleRequest (.ring k r) opc h p) = s.then (smvErr k 5 0) :=
  then_congr (by simp [handleRequest, hs, hp, State.reqTile])

theorem then_handleRequest_header (hs : s.stage = 9) (hp : h.poison = false) (hh : s.reqHeaderOk (.ring k r) h = false) :
    s.then (handleRequest (.ring k r) opc h p) = s.then (smvErr k 1 h.stream) :=
  then_congr (by simp [handleRequest, hs, hp, hh, State.reqTile])

section
variable (hs : s.stage = 9) (hp : h.poison = false) (hh : s.reqHeaderOk (.ring k r) h = true)
include hs hp hh

theorem then_handleRequest_status (hst : s.reqStatus opc h p ≠ 0) : s.then (handleRequest (.ring k r) opc h p) =
    (s.then (smvErr k 1 h.stream)).then (answer (.ring k r) opc h p (s.reqStatus opc h p)) := by
  have hseq : s.then (handleRequest (.ring k r) opc h p) =
      s.then (.seq [smvErr k 1 h.stream, answer (.ring k r) opc h p (s.reqStatus opc h p)]) :=
    then_congr (by simp [handleRequest, hs, hp, hh, hst, State.reqTile])
  rw [hseq, then_seq_cons, then_seq_cons, then_seq_nil]

theorem then_handleRequest_stale (hst : s.reqStatus opc h p = 0) (hj : (s.window h.inst (isCtl h) h.stream).judge h.seq = .stale) :
    s.then (handleRequest (.ring k r) opc h p) = s.then (answer (.ring k r) opc h p 0x0103) :=
  then_congr (by simp [handleRequest, hs, hp, hh, hst, hj])

theorem then_handleRequest_dup (hst : s.reqStatus opc h p = 0) {d : WinEntry}
    (hj : (s.window h.inst (isCtl h) h.stream).judge h.seq = .dup d) : s.then (handleRequest (.ring k r) opc h p) =
      s.then (duplicate (.ring k r) opc h p d) :=
  then_congr (by simp [handleRequest, hs, hp, hh, hst, hj])

end

theorem then_duplicate_conflict {d : WinEntry} (hd : d.digest ≠ h.digest) : s.then (duplicate (.ring k r) opc h p d) =
    (s.then (.when (!isCtl h) (countS F.SMV_SCOND3_DUP h.stream 1))).then (answer (.ring k r) opc h p 0x0102) := by
  rw [duplicate, if_pos hd, then_seq_cons, then_seq_cons, then_seq_nil]

theorem then_duplicate_done {d : WinEntry} {c : Cpl} (hd : d.digest = h.digest) (hc : d.done = some c) :
    s.then (duplicate (.ring k r) opc h p d) =
      (s.then (.when (!isCtl h) (countS F.SMV_SCOND3_DUP h.stream 1))).then (cqPush k r c.replay) := by
  rw [duplicate, if_neg (not_not.2 hd), hc, then_seq_cons, then_seq_cons, then_seq_nil]
  rfl

theorem now_countDup {id : Nat} {c : Bool} : (s.then (.when c (countS F.SMV_SCOND3_DUP id 1))).now = s.now := by
  cases c <;> rfl

/-- Settles O16: each check that fails records or answers as its rule says, with no effect beside. -/
theorem refusedRequestsExecuteNothing : Obligations.RefusedRequestsExecuteNothing := by
  intro s k r h p e he hs hroom
  have herr : AllEff (Eff.showsIn [.SMV_ERRSTAT, .SMV_ERRCNT]) (smvErr k 1 h.stream) := allEff_iff.2 fun _ => showsIn_smvErr
  have hnone : AllEff (Eff.showsIn []) Act.none := AllEff.none
  refine ⟨fun hp => gives_request he fun t hst => ?_, fun hp hh => gives_request he fun t hst => ?_, fun hp hh =>
    ⟨fun hne => gives_request he fun t hst => ?_, fun hz => ⟨fun hj => gives_request he fun t hst => ?_,
      fun d hj hd => gives_request he fun t hst => ?_, fun d c hj hd hc => gives_request he fun t hst => ?_⟩⟩⟩
  · rw [then_handleRequest_poison hs hp] at hst
    obtain ⟨hcode, -, hmem, hstreams, hinsts, htiles⟩ := recorded_smvErr (by decide) hst
    exact ⟨⟨hstreams, hinsts, hmem⟩, htiles, hcode⟩
  · rw [then_handleRequest_header hs hp hh] at hst
    obtain ⟨hcode, -, hmem, hstreams, hinsts, htiles⟩ := recorded_smvErr (by decide) hst
    exact ⟨⟨hstreams, hinsts, hmem⟩, htiles, hcode⟩
  · rw [then_handleRequest_status hs hp hh hne, then_answer, now_smvErr] at hst
    obtain ⟨hsame, hwait, -, hget⟩ := waits_of_showsIn herr (by decide) (by decide) hroom hst
    exact ⟨hsame, hwait, (hget _ (by decide) k 0).trans (get_smvErr_code (by decide))⟩
  · rw [then_handleRequest_stale hs hp hh hz hj, then_answer] at hst
    obtain ⟨hsame, hwait, hregs, -⟩ := waits_of_showsIn hnone (List.not_mem_nil) (List.not_mem_nil) hroom hst
    exact ⟨hsame, hwait, hregs⟩
  · rw [then_handleRequest_dup hs hp hh hz hj, then_duplicate_conflict hd, then_answer, now_countDup] at hst
    obtain ⟨hsame, hwait, hregs, -⟩ := waits_of_showsIn showsIn_countDup (by decide) (by decide) hroom hst
    exact ⟨hsame, hwait, hregs⟩
  · rw [then_handleRequest_dup hs hp hh hz hj, then_duplicate_done hd hc] at hst
    obtain ⟨hsame, hwait, hregs, -⟩ := waits_of_showsIn showsIn_countDup (by decide) (by decide) hroom hst
    exact ⟨hsame, hwait, hregs⟩

end Sys2Proof.Machine
end

section
/-! What storing bytes can do (R338, R371, R393, R397, R405): memory, poison, Bale classes and their counters, and of a tile the weight cache
alone. -/
namespace Sys2Proof.Machine
open Sys2Proof.Say

variable {u : State} {a : Act} {l : List Reg}

/-- The registers that count what is stored in device memory and what crosses the Yard for it. -/
@[simp] def storeRegs : List Reg := [.BAL_CLSCNT, .BAL_RMWCNT, .BAL_YSAVED, .YRD_FLIT, .MEM_WCINV]

/-- A tile but for its weight cache. -/
def Tile.butWc (c : Tile) : Tile := { c with wc := [] }

/-- The effect stores in device memory, or counts it. -/
@[simp] def Eff.stores : Eff → Prop
  | .fld f _ _ _ | .countU f _ _ _ _ => f.reg ∈ storeRegs
  | .mem _ _ | .poison _ _ | .bale _ _ => True
  | .tile _ f => ∀ c, (f c).butWc = c.butWc
  | _ => False

/-- The effect stores in device memory, leaves the package, or records an access that was not carried out. -/
@[simp] def Eff.puts : Eff → Prop
  | .fld f _ _ _ | .countU f _ _ _ _ => f.reg ∈ Reg.LNK_ERRSTAT :: .LNK_ERRCNT :: storeRegs
  | .mem _ _ | .poison _ _ | .bale _ _ | .emit _ => True
  | .tile _ f => ∀ c, (f c).butWc = c.butWc
  | _ => False

theorem Eff.puts_of_stores {e : Eff} (h : e.stores) : e.puts := by
  cases e with
  | fld | countU => exact .tail _ (.tail _ h)
  | mem | poison | bale => trivial
  | tile => exact h
  | _ => exact h.elim

@[simp] theorem stores_poisonWrite {b n : Nat} {pz : Nat → Bool} : Effs Eff.stores (poisonWrite b n pz u) := by
  intro e he
  obtain ⟨g, -, hg⟩ := List.mem_filterMap.1 he
  split_ifs at hg <;> cases hg <;> trivial

@[simp] theorem stores_memWriteG {b : Nat} {bs : List Byte} {pz : Nat → Bool} {ask : Bool} :
    Effs Eff.stores (memWriteG b bs pz ask u) := by
  simp [memWriteG, baleBlock, wcInvalidate, F.BAL_CLSCNT_COUNT, F.BAL_RMWCNT_COUNT, F.MEM_WCINV_INV, Tile.butWc]

@[simp] theorem stores_memWrite {b : Nat} {bs : List Byte} {pz ask : Bool} : Effs Eff.stores (memWrite b bs pz ask u) := stores_memWriteG

@[simp] theorem puts_memWrite {b : Nat} {bs : List Byte} {pz ask : Bool} : Effs Eff.puts (memWrite b bs pz ask u) :=
  stores_memWrite.mono fun _ => Eff.puts_of_stores

@[simp] theorem puts_putBytes {n b : Nat} {bs : List Byte} {pz : Bool} : Effs Eff.puts (putBytes n b bs pz u) := by
  unfold putBytes
  split
  · split
    · simp
    · simp [lnkErr, blockErr, F.LNK_ERRSTAT_ERR, F.LNK_ERRSTAT_CODE, F.LNK_ERRCNT_COUNT, F.LNK_ERRSTAT_STREAM, F.LNK_ERRSTAT_PORT]
  · simp

/-- Storing leaves the streams and the tenants alone. -/
theorem contexts_of_puts (h : AllEff Eff.puts a) : (u.then a).streams = u.streams ∧ (u.then a).insts = u.insts :=
  ⟨streams_off u (h.mono fun e he => by cases e <;> trivial), insts_off u (h.mono fun e he => by cases e <;> trivial)⟩

/-- Storing leaves a tile as it was but for its weight cache. -/
theorem butWc_of_puts (h : AllEff Eff.puts a) (k : Nat) : ((u.then a).tile k).butWc = (u.tile k).butWc := by
  refine run_keeps u (a u) (P := fun w => (w.tile k).butWc = (u.tile k).butWc) (fun w hw e he => ?_) rfl
  cases e with
  | tile n f =>
    rw [tile_run]
    split
    · next hn => exact (h u _ he (w.tile n)).trans (hn ▸ hw)
    · exact hw
  | mem b bs => simpa [State.tile, Eff.run] using hw
  | _ => exact hw

/-- Bytes that a tenant puts in its device memory are stored. -/
theorem then_putBytes_device {n b : Nat} {bs : List Byte} {pz : Bool} (hdev : isHost b = false) (hin : u.inMem n b bs.length = true) :
    u.then (putBytes n b bs pz) = u.then (memWrite b bs pz false) := then_congr (by simp [putBytes, hdev, hin])

/-- Bytes that a tenant puts in its host window leave the package. -/
theorem then_putBytes_host {n b h : Nat} {bs : List Byte} {pz : Bool} (hhost : isHost b = true) (haddr : u.hostAddr (fnOf n) b = some h) :
    u.then (putBytes n b bs pz) = Eff.run u (.emit (.hostWrite (fnOf n) h bs pz)) :=
  then_congr (b := emit (.hostWrite (fnOf n) h bs pz)) (by simp [putBytes, hhost, haddr])

theorem sameMemBut_memWrite {b : Nat} {bs : List Byte} {pz ask : Bool} : sameMemBut b bs.length u (u.then (memWrite b bs pz ask)) :=
  fun x hx => (byte_memWrite b bs pz ask x).trans (if_neg hx)

end Sys2Proof.Machine
end

section
/-! Records reach their rings (R318, R320, R321, R371): an entry is put at the tail, the tail advances, and a ring that was empty sends its
vector. -/
namespace Sys2Proof.Machine
open Sys2Proof.Say

variable {s u t : State} {k r : Nat}

/-- An entry of a ring: its bytes go to their address, the tail advances, and a ring that was empty sends its vector. -/
def ringWrite (n b : Nat) (bs : List Byte) (f : Fld) (k r tail : Nat) (wakes : Bool) (m : Emission) : Act := .seq
  [putBytes n b bs false, setFx f k r (cnt32 (tail + 1)), .when wakes (emit m)]

theorem then_cqWrite (c : Cpl) : u.then (cqWrite k r c) =
    u.then (ringWrite (u.instOfTile k)
      (((u.tile k).cqRing.getD r {}).base + 32 * (u.get F.SMV_CQTAIL_TAIL k r % 2 ^ ((u.tile k).cqRing.getD r {}).log))
      (c.bytes (phaseOf ((u.tile k).cqRing.getD r {}).log (u.get F.SMV_CQTAIL_TAIL k r))) F.SMV_CQTAIL_TAIL k r
      (u.get F.SMV_CQTAIL_TAIL k r) (u.get F.SMV_CQTAIL_TAIL k r == u.get F.SMV_CQHEAD_HEAD k r)
      (.msix (fnOf (u.instOfTile k)) (u.get F.SMV_CQCFG_VECTOR k r))) := then_congr rfl

theorem then_erWrite (c : Cpl) : u.then (erWrite k c) =
    u.then (ringWrite (u.instOfTile k)
      ((u.tile k).erRing.base + 32 * (u.get F.SMV_ERTAIL_TAIL k 0 % 2 ^ (u.tile k).erRing.log))
      (c.bytes (phaseOf (u.tile k).erRing.log (u.get F.SMV_ERTAIL_TAIL k 0))) F.SMV_ERTAIL_TAIL k 0
      (u.get F.SMV_ERTAIL_TAIL k 0) (u.get F.SMV_ERTAIL_TAIL k 0 == u.get F.SMV_ERHEAD_HEAD k 0)
      (.msix (fnOf (u.instOfTile k)) (u.get F.SMV_ERCFG_VECTOR k 0))) := then_congr rfl

theorem length_cplBytes (c : Cpl) (phase : Bool) : (c.bytes phase).length = 32 := by
  simp [Cpl.bytes, length_toLe]

section
variable {n b tail : Nat} {bs : List Byte} {f : Fld} {wakes : Bool} {m : Emission}

theorem then_ringWrite : u.then (ringWrite n b bs f k r tail wakes m) =
    ((u.then (putBytes n b bs false)).then (setFx f k r (cnt32 (tail + 1)))).then (.when wakes (emit m)) := by
  rw [ringWrite, then_seq_cons, then_seq_cons, then_seq_cons, then_seq_nil]

/-- Once the bytes are put, the rest of the write leaves memory and the tiles alone, and nothing that left the package is lost. -/
theorem ringWrite_tail (v : State) : ((v.then (setFx f k r (cnt32 (tail + 1)))).then (.when wakes (emit m))).mem = v.mem ∧
    ((v.then (setFx f k r (cnt32 (tail + 1)))).then (.when wakes (emit m))).tiles = v.tiles ∧
    ((v.then (setFx f k r (cnt32 (tail + 1)))).then (.when wakes (emit m))).out = v.out ++ (if wakes then [m] else []) := by
  cases wakes with
  | false => exact ⟨rfl, rfl, (List.append_nil _).symm⟩
  | true => exact ⟨rfl, rfl, rfl⟩

theorem get_ringWrite (hok : f.ok = true) (h31 : f.hi = 31) (h0 : f.lo = 0) :
    (u.then (ringWrite n b bs f k r tail wakes m)).get f k r = (tail + 1) % 2 ^ 32 := by
  have hset (v : State) : ((v.then (setFx f k r (cnt32 (tail + 1)))).then (.when wakes (emit m))).get f k r = cnt32 (tail + 1) % 2 ^ 32 := by
    have hemit (w : State) : (w.then (.when wakes (emit m))).get f k r = w.get f k r := by cases wakes <;> rfl
    rw [hemit, get_then_setFx _ f _ _ _ hok, h31, h0]
  rw [then_ringWrite, hset, cnt32, Nat.mod_mod]

theorem butWc_ringWrite (j : Nat) : ((u.then (ringWrite n b bs f k r tail wakes m)).tile j).butWc = (u.tile j).butWc := by
  rw [then_ringWrite, State.tile, (ringWrite_tail _).2.1, ← State.tile]
  exact butWc_of_puts (allEff_iff.2 fun _ => puts_putBytes) j

theorem mem_ringWrite_device (hdev : isHost b = false) (hin : u.inMem n b bs.length = true) :
    (u.then (ringWrite n b bs f k r tail wakes m)).mem = (u.then (memWrite b bs false false)).mem := by
  rw [then_ringWrite, (ringWrite_tail _).1, then_putBytes_device hdev hin]

theorem ringWrite_host {h : Nat} (hhost : isHost b = true) (haddr : u.hostAddr (fnOf n) b = some h) :
    .hostWrite (fnOf n) h bs false ∈ (u.then (ringWrite n b bs f k r tail wakes m)).out ∧
    (u.then (ringWrite n b bs f k r tail wakes m)).mem = u.mem := by
  rw [then_ringWrite, (ringWrite_tail _).1, (ringWrite_tail _).2.2, then_putBytes_host hhost haddr]
  exact ⟨List.mem_append_left _ (List.mem_append_right _ (.head _)), rfl⟩

theorem wakes_ringWrite (hw : wakes = true) : m ∈ (u.then (ringWrite n b bs f k r tail wakes m)).out := by
  rw [then_ringWrite, (ringWrite_tail _).2.2, hw]
  exact List.mem_append_right _ (.head _)

/-- What the write of an entry leaves once the command has ended, where the record has left its tile's list before. -/
theorem ringWrite_done {j : Nat} {g : Tile → Tile} (hlen : bs.length = 32)
    (hst : SnapSame ((Eff.run s (.tile j g)).then (ringWrite n b bs f k r tail wakes m)) t) :
    (isHost b = false → s.inMem n b 32 = true → t.bytes b 32 = bs ∧ sameMemBut b 32 s t) ∧
    (∀ h, isHost b = true → s.hostAddr (fnOf n) b = some h → .hostWrite (fnOf n) h bs false ∈ t.out ∧ sameMem s t) ∧
    (wakes = true → m ∈ t.out) := by
  refine ⟨fun hdev h32 => ?_, fun h hhost h32 => ?_, fun hw => hst.out ▸ wakes_ringWrite hw⟩
  · have hin : (Eff.run s (.tile j g)).inMem n b bs.length = true := by rw [hlen]; exact h32
    have hbyte (x : Nat) : t.byte x = ((Eff.run s (.tile j g)).then (memWrite b bs false false)).byte x := by
      simp only [State.byte, hst.mem, mem_ringWrite_device hdev hin]
    constructor
    · calc t.bytes b 32 = ((Eff.run s (.tile j g)).then (memWrite b bs false false)).bytes b bs.length := by
            simp only [State.bytes, hbyte, hlen]
        _ = bs := bytes_memWrite b bs false false
    · intro x hx
      rw [hbyte, sameMemBut_memWrite x (by rw [hlen]; exact hx)]
      rfl
  · obtain ⟨hout, hm⟩ := ringWrite_host (u := Eff.run s (.tile j g)) (bs := bs) (f := f) (k := k) (r := r) (tail := tail)
      (wakes := wakes) (m := m) hhost h32
    exact ⟨hst.out ▸ hout, fun x => by simp only [State.byte, hst.mem, hm, run_tile_mem]⟩

end

/-! ## The two commands -/

theorem then_completionRecordWrite {w : CqRec} (hw : (s.tile k).cqWait.find? (·.r == r) = some w) (hroom : s.cqRoom k r = true) :
    s.then (completionRecordWriteX k r) =
      (Eff.run s (.tile k fun x => { x with cqWait := x.cqWait.erase w })).then (cqWrite k r w.cpl) := by
  have hseq : s.then (completionRecordWriteX k r) =
      s.then (.seq [updT k fun x => { x with cqWait := x.cqWait.erase w }, cqWrite k r w.cpl]) :=
    then_congr (by simp [completionRecordWriteX, hw, hroom])
  rw [hseq, then_seq_cons, then_seq_cons, then_seq_nil, then_updT]

theorem then_errorRingWrite {c : Cpl} {l : List Cpl} (hw : (s.tile k).erWait = c :: l)
    (hroom : s.erRoom (s.erTile (s.instOfTile k)) = true) : s.then (errorRingWriteX k) =
      (Eff.run s (.tile k fun x => { x with erWait := l })).then (erWrite (s.erTile (s.instOfTile k)) c) := by
  have hseq : s.then (errorRingWriteX k) =
      s.then (.seq [updT k fun x => { x with erWait := l }, erWrite (s.erTile (s.instOfTile k)) c]) :=
    then_congr (by simp [errorRingWriteX, hw, hroom])
  rw [hseq, then_seq_cons, then_seq_cons, then_seq_nil, then_updT]

theorem completionRecord_written {w : CqRec} (hw : (s.tile k).cqWait.find? (·.r == r) = some w) (hroom : s.cqRoom k r = true)
    (hst : SnapSame (s.then (completionRecordWriteX k r)) t) :
    let g := (s.tile k).cqRing.getD r {}
    let tail := s.get F.SMV_CQTAIL_TAIL k r
    let b := g.base + 32 * (tail % 2 ^ g.log)
    let bs := w.cpl.bytes (phaseOf g.log tail)
    t.get F.SMV_CQTAIL_TAIL k r = (tail + 1) % 2 ^ 32 ∧ (t.tile k).cqWait = (s.tile k).cqWait.erase w ∧
      (isHost b = false → s.inMem (s.instOfTile k) b 32 = true → t.bytes b 32 = bs ∧ sameMemBut b 32 s t) ∧
      (∀ h, isHost b = true → s.hostAddr (fnOf (s.instOfTile k)) b = some h →
        .hostWrite (fnOf (s.instOfTile k)) h bs false ∈ t.out ∧ sameMem s t) ∧
      (tail = s.get F.SMV_CQHEAD_HEAD k r → .msix (fnOf (s.instOfTile k)) (s.get F.SMV_CQCFG_VECTOR k r) ∈ t.out) := by
  intro g tail b bs
  have hring : ((Eff.run s (.tile k fun x => { x with cqWait := x.cqWait.erase w })).tile k).cqRing = (s.tile k).cqRing := by
    rw [tile_run, if_pos rfl]
  have hthen := (then_completionRecordWrite hw hroom).trans (then_cqWrite w.cpl)
  rw [hring] at hthen
  rw [hthen] at hst
  obtain ⟨hdev, hhost, hwake⟩ := ringWrite_done (length_cplBytes _ _) hst
  refine ⟨?_, ?_, hdev, hhost, fun hempty => hwake (beq_iff_eq.2 hempty)⟩
  · exact (hst.get _ _ _ (by decide)).trans (get_ringWrite (by decide) rfl rfl)
  · rw [hst.tile]
    refine (congrArg Tile.cqWait (butWc_ringWrite k)).trans ?_
    rw [tile_run, if_pos rfl]
    rfl

theorem errorRecord_written {c : Cpl} {l : List Cpl} (hw : (s.tile k).erWait = c :: l)
    (hroom : s.erRoom (s.erTile (s.instOfTile k)) = true) (hst : SnapSame (s.then (errorRingWriteX k)) t) :
    let e := s.erTile (s.instOfTile k)
    let g := (s.tile e).erRing
    let tail := s.get F.SMV_ERTAIL_TAIL e 0
    let b := g.base + 32 * (tail % 2 ^ g.log)
    let bs := c.bytes (phaseOf g.log tail)
    t.get F.SMV_ERTAIL_TAIL e 0 = (tail + 1) % 2 ^ 32 ∧ (t.tile k).erWait = l ∧
      (isHost b = false → s.inMem (s.instOfTile e) b 32 = true → t.bytes b 32 = bs ∧ sameMemBut b 32 s t) ∧
      (∀ h, isHost b = true → s.hostAddr (fnOf (s.instOfTile e)) b = some h →
        .hostWrite (fnOf (s.instOfTile e)) h bs false ∈ t.out ∧ sameMem s t) ∧
      (tail = s.get F.SMV_ERHEAD_HEAD e 0 → .msix (fnOf (s.instOfTile e)) (s.get F.SMV_ERCFG_VECTOR e 0) ∈ t.out) := by
  intro e g tail b bs
  have hring : ((Eff.run s (.tile k fun x => { x with erWait := l })).tile e).erRing = (s.tile e).erRing := by
    rw [tile_run]
    split
    · next hk => rw [hk]
    · rfl
  have hthen := (then_errorRingWrite hw hroom).trans (then_erWrite c)
  rw [hring] at hthen
  rw [hthen] at hst
  obtain ⟨hdev, hhost, hwake⟩ := ringWrite_done (length_cplBytes _ _) hst
  refine ⟨?_, ?_, hdev, hhost, fun hempty => hwake (beq_iff_eq.2 hempty)⟩
  · exact (hst.get _ _ _ (by decide)).trans (get_ringWrite (by decide) rfl rfl)
  · rw [hst.tile]
    refine (congrArg Tile.erWait (butWc_ringWrite k)).trans ?_
    rw [tile_run, if_pos rfl]
    rfl

/-- Settles O19: both commands take the record off its list and write it as one entry of a ring. -/
theorem recordsReachTheirRings : Obligations.RecordsReachTheirRings :=
  ⟨fun _ _ _ _ hw hroom => done_holds fun _ hst => completionRecord_written hw hroom hst,
    fun _ _ _ _ hw hroom => done_holds fun _ hst => errorRecord_written hw hroom hst⟩

end Sys2Proof.Machine
end

section
/-! What software writes to the rings (R320, R321, R371): `SQTAIL`, with the fetch that it starts, and the consumer's counters. -/
namespace Sys2Proof.Machine
open Sys2Proof.Say

variable {s u v w t : State} {q : Requester} {k r kt x value : Nat}

/-! ## Steps for each entry of a list -/

theorem then_each_idle {α : Type} {f : α → Act} {l : List α} (h : ∀ y, u.then (f y) = u) : u.then (.each l f) = u := by
  induction l with
  | nil => rfl
  | cons y l ih => rw [then_each_cons, h, ih]

theorem then_each_first {α : Type} {f : α → Act} {l : List α} (hl : l ≠ []) (hfirst : ∀ y, u.then (f y) = w)
    (hrest : ∀ y, w.then (f y) = w) : u.then (.each l f) = w := by
  cases l with
  | nil => exact (hl rfl).elim
  | cons y l => rw [then_each_cons, hfirst, then_each_idle hrest]

/-! ## `SQTAIL` -/

theorem then_sqtail_overrun (hl : s.lands q k .SMV_SQTAIL r true = some (kt, x)) (hon : ((s.tile kt).sqRing.getD x {}).on = true)
    (hover : 2 ^ ((s.tile kt).sqRing.getD x {}).log < (value + 2 ^ 32 - s.get F.SMV_SQHEAD_HEAD kt x) % 2 ^ 32) :
    s.then (sqtailWriteX q k r value) = s.then (smvErr kt 1 0) := by
  rw [sqtailWriteX, writeReg, then_accessReg hl]
  exact then_congr (if_pos ⟨hon, hover⟩)

theorem then_sqtail_stored (hl : s.lands q k .SMV_SQTAIL r true = some (kt, x))
    (hroom : ¬ (((s.tile kt).sqRing.getD x {}).on = true ∧
      2 ^ ((s.tile kt).sqRing.getD x {}).log < (value + 2 ^ 32 - s.get F.SMV_SQHEAD_HEAD kt x) % 2 ^ 32)) :
    s.then (sqtailWriteX q k r value) = (s.then (setFx F.SMV_SQTAIL_TAIL kt x (cnt32 value))).then
      (.when ((s.tile kt).sqRing.getD x {}).on (pumpRing kt x)) := by
  rw [sqtailWriteX, writeReg, then_accessReg hl, ← then_seq_nil ((s.then _).then _), ← then_seq_cons, ← then_seq_cons]
  exact then_congr (if_neg hroom)

theorem get_sqtail : (s.then (setFx F.SMV_SQTAIL_TAIL kt x (cnt32 value))).get F.SMV_SQTAIL_TAIL kt x = value % 2 ^ 32 :=
  (get_then_setFx s _ kt x _ (by decide)).trans (Nat.mod_mod _ _)

theorem showsIn_sqtail : AllEff (Eff.showsIn [.SMV_SQTAIL]) (setFx F.SMV_SQTAIL_TAIL kt x value) :=
  allEff_iff.2 fun _ => effs_setFx.2 (.head _)

theorem smvIssues_sqtail (j : Nat) : (s.then (setFx F.SMV_SQTAIL_TAIL kt x value)).smvIssues j = s.smvIssues j := by
  have hget {f : Fld} (hf : f.reg ∉ [Reg.SMV_SQTAIL]) (j ix : Nat) :
      (s.then (setFx F.SMV_SQTAIL_TAIL kt x value)).get f j ix = s.get f j ix := get_of_showsIn showsIn_sqtail hf j ix
  have hpkg : (s.then (setFx F.SMV_SQTAIL_TAIL kt x value)).pkg = s.pkg := rfl
  simp +decide [State.smvIssues, State.isOn, State.tileRuns, State.inService, ctlState, hget, hpkg]

/-- A mover that issues nothing fetches nothing. -/
theorem then_pumpRing_idle (hidle : u.smvIssues kt = false) : u.then (pumpRing kt x) = u := by
  refine (then_app u fun w => .each _ fun _ => fetchOne kt x).trans (then_each_idle fun _ => ?_)
  exact then_congr (b := Act.none) (by simp [fetchOne, hidle, Act.none])

/-- Where the next request of a ring stands. -/
def State.nextSlot (u : State) (kt x : Nat) : Nat :=
  ((u.tile kt).sqRing.getD x {}).base + 128 * (u.get F.SMV_SQHEAD_HEAD kt x % 2 ^ ((u.tile kt).sqRing.getD x {}).log)

/-- The read of host memory that fetches the next request of a ring. -/
def ringRead (u : State) (kt x b : Nat) : Xfer :=
  { tag := ringTag x, q := ringQueue x, slot := u.get F.SMV_SQHEAD_HEAD kt x, inst := u.instOfTile kt, epoch := u.epoch (u.instOfTile kt),
    host := true, addr := b, len := 128 }

/-- The state once that read is in flight. -/
def State.fetching (u : State) (kt x b h : Nat) : State :=
  Eff.run (Eff.run u (.tile kt fun c => { c with xfers := c.xfers ++ [ringRead u kt x b] }))
    (.emit (.hostRead kt (ringTag x) (fnOf (u.instOfTile kt)) h 128))

theorem then_fetchOne_host {h : Nat} (hissues : u.smvIssues kt = true) (hon : ((u.tile kt).sqRing.getD x {}).on = true)
    (hdue : u.get F.SMV_SQHEAD_HEAD kt x ≠ u.get F.SMV_SQTAIL_TAIL kt x) (hhost : isHost (u.nextSlot kt x) = true)
    (haddr : u.hostAddr (fnOf (u.instOfTile kt)) (u.nextSlot kt x) = some h)
    (hfree : (u.tile kt).xfers.any (·.q == ringQueue x) = false) :
    u.then (fetchOne kt x) = u.fetching kt x (u.nextSlot kt x) h := by
  unfold State.nextSlot at *
  exact then_congr (b := Act.seq [updT kt fun c => { c with xfers := c.xfers ++ [ringRead u kt x _] },
    emit (.hostRead kt (ringTag x) (fnOf (u.instOfTile kt)) h 128)])
    (by simp only [fetchOne, hissues, hon, hdue, hhost, haddr, hfree, ringRead, Bool.not_true, Bool.false_eq_true, or_self, if_false, if_true])

/-- While a ring's read is in flight the ring fetches no other. -/
theorem then_fetchOne_busy (hhost : isHost (u.nextSlot kt x) = true) (hbusy : (u.tile kt).xfers.any (·.q == ringQueue x) = true) :
    u.then (fetchOne kt x) = u := by
  unfold State.nextSlot at hhost
  exact then_congr (b := Act.none) (by simp only [fetchOne, hhost, hbusy, if_true, ite_self, Act.none])

theorem tile_fetching {b h : Nat} :
    (u.fetching kt x b h).tile kt = { u.tile kt with xfers := (u.tile kt).xfers ++ [ringRead u kt x b] } :=
  tile_updT (f := fun c => { c with xfers := c.xfers ++ [ringRead u kt x b] })

/-- A ring in host memory with a request due fetches one. -/
theorem then_pumpRing_host {h : Nat} (hissues : u.smvIssues kt = true) (hon : ((u.tile kt).sqRing.getD x {}).on = true)
    (hdue : u.get F.SMV_SQHEAD_HEAD kt x ≠ u.get F.SMV_SQTAIL_TAIL kt x) (hhost : isHost (u.nextSlot kt x) = true)
    (haddr : u.hostAddr (fnOf (u.instOfTile kt)) (u.nextSlot kt x) = some h)
    (hfree : (u.tile kt).xfers.any (·.q == ringQueue x) = false) :
    u.then (pumpRing kt x) = u.fetching kt x (u.nextSlot kt x) h := by
  have hne : List.range (cnt32 (u.get F.SMV_SQTAIL_TAIL kt x + 2 ^ 32 - u.get F.SMV_SQHEAD_HEAD kt x)) ≠ [] := by
    have htail : u.get F.SMV_SQTAIL_TAIL kt x < 2 ^ 32 := getBits_lt _ 31 0
    have hhead : u.get F.SMV_SQHEAD_HEAD kt x < 2 ^ 32 := getBits_lt _ 31 0
    simp only [ne_eq, List.range_eq_nil, cnt32]
    omega
  have hring : ((u.fetching kt x (u.nextSlot kt x) h).tile kt).sqRing = (u.tile kt).sqRing := by
    rw [tile_fetching]
  have hslot : (u.fetching kt x (u.nextSlot kt x) h).nextSlot kt x = u.nextSlot kt x := by
    unfold State.nextSlot at hring ⊢
    rw [hring]
    rfl
  refine (then_app u fun w => .each _ fun _ => fetchOne kt x).trans (then_each_first hne
    (fun _ => then_fetchOne_host hissues hon hdue hhost haddr hfree) fun _ => then_fetchOne_busy (by rw [hslot]; exact hhost) ?_)
  rw [tile_fetching]
  simp [ringRead]

theorem sqtail_idle (hl : s.lands q k .SMV_SQTAIL r true = some (kt, x))
    (hidle : ((s.tile kt).sqRing.getD x {}).on = false ∨ (s.smvIssues kt = false ∧
      (value + 2 ^ 32 - s.get F.SMV_SQHEAD_HEAD kt x) % 2 ^ 32 ≤ 2 ^ ((s.tile kt).sqRing.getD x {}).log))
    (hst : SnapSame (s.then (sqtailWriteX q k r value)) t) :
    t.get F.SMV_SQTAIL_TAIL kt x = value % 2 ^ 32 ∧ sameRegs [.SMV_SQTAIL] s t ∧ sameMem s t ∧ sameContexts s t := by
  have hthen : s.then (sqtailWriteX q k r value) = s.then (setFx F.SMV_SQTAIL_TAIL kt x (cnt32 value)) := by
    rcases hidle with hoff | ⟨hnone, hroom⟩
    · rw [then_sqtail_stored hl (fun h => absurd h.1 (by rw [hoff]; decide)), hoff]
      rfl
    · rw [then_sqtail_stored hl (fun h => absurd h.2 (not_lt.2 hroom)), then_when, then_pumpRing_idle ((smvIssues_sqtail kt).trans hnone),
        ite_self]
  rw [hthen] at hst
  exact ⟨(hst.get _ _ _ (by decide)).trans get_sqtail, same_of_showsIn showsIn_sqtail hst⟩

theorem sqtail_fetches {h : Nat} (hl : s.lands q k .SMV_SQTAIL r true = some (kt, x)) :
    let g := (s.tile kt).sqRing.getD x {}
    let head := s.get F.SMV_SQHEAD_HEAD kt x
    let a := g.base + 128 * (head % 2 ^ g.log)
    let n := s.instOfTile kt
    g.on = true → s.smvIssues kt = true → value < 2 ^ 32 → value ≠ head → (value + 2 ^ 32 - head) % 2 ^ 32 ≤ 2 ^ g.log →
    isHost a = true → s.hostAddr (fnOf n) a = some h → (s.tile kt).xfers.any (·.q == ringQueue x) = false →
    gives (.sqtailWrite q k r value) s fun t => t.get F.SMV_SQTAIL_TAIL kt x = value ∧
      t.out = s.out ++ [.hostRead kt (ringTag x) (fnOf n) h 128] ∧ sameRegs [.SMV_SQTAIL] s t ∧ sameMem s t := by
  intro g head a n hon hissues hlt hne hroom hhost haddr hfree
  have htail : (s.then (setFx F.SMV_SQTAIL_TAIL kt x (cnt32 value))).get F.SMV_SQTAIL_TAIL kt x = value :=
    get_sqtail.trans (Nat.mod_eq_of_lt hlt)
  have hhead : (s.then (setFx F.SMV_SQTAIL_TAIL kt x (cnt32 value))).get F.SMV_SQHEAD_HEAD kt x = head :=
    get_of_showsIn showsIn_sqtail (by decide) _ _
  have hinst : (s.then (setFx F.SMV_SQTAIL_TAIL kt x (cnt32 value))).instOfTile kt = n := by
    simp +decide only [State.instOfTile, State.owner, get_of_showsIn showsIn_sqtail, n]
  have hentry (b : Nat) : (s.then (setFx F.SMV_SQTAIL_TAIL kt x (cnt32 value))).hostAddr (fnOf n) b = s.hostAddr (fnOf n) b := by
    simp +decide only [State.hostAddr, State.hostEntry, get_of_showsIn showsIn_sqtail]
  have hpump := then_pumpRing_host (u := s.then (setFx F.SMV_SQTAIL_TAIL kt x (cnt32 value))) (kt := kt) (x := x) (h := h)
    ((smvIssues_sqtail kt).trans hissues) hon (by rw [htail, hhead]; exact hne.symm) (by rw [State.nextSlot, hhead]; exact hhost)
    (by rw [State.nextSlot, hhead, hinst, hentry]; exact haddr) hfree
  refine done_holds fun t hst => ?_
  rw [then_sqtail_stored hl fun hover => absurd hover.2 (not_lt.2 hroom), then_when, if_pos hon, hpump] at hst
  refine ⟨(hst.get _ _ _ (by decide)).trans htail, hst.out.trans ?_, fun j hj i ix => ?_, fun b => hst.byte b⟩
  · show s.out ++ [Emission.hostRead kt (ringTag x) (fnOf ((s.then (setFx F.SMV_SQTAIL_TAIL kt x (cnt32 value))).instOfTile kt)) h 128] = _
    rw [hinst]
  · obtain ⟨hcnt, hl⟩ : j ≠ .SNP_CNT ∧ j ∉ [Reg.SMV_SQTAIL] := by simpa using hj
    exact (hst.reg j i ix hcnt).trans (reg_off s (showsIn_sqtail.mono fun _ he => Eff.off_of_showsIn hl he) i ix)

/-! ## The consumer's counters -/

/-- A counter takes its value, and a ring left non-empty sends its vector. -/
theorem counterWrite_done {f : Fld} {j : Reg} {wakes : Bool} {m : Emission} (hok : f.ok = true) (h31 : f.hi = 31) (h0 : f.lo = 0)
    (hreg : f.reg = j) (hcnt : j ≠ .SNP_CNT) (hst : SnapSame ((s.then (setFx f kt x (cnt32 value))).then (.when wakes (emit m))) t) :
    t.get f kt x = value % 2 ^ 32 ∧ t.out = s.out ++ (if wakes = true then [m] else []) ∧
    sameRegs [j] s t ∧ sameMem s t ∧ sameContexts s t := by
  subst hreg
  have hshow : AllEff (Eff.showsIn [f.reg]) (setFx f kt x (cnt32 value)) := allEff_iff.2 fun _ => effs_setFx.2 (.head _)
  have hget (w : State) : (w.then (.when wakes (emit m))).get f kt x = w.get f kt x := by cases wakes <;> rfl
  refine ⟨?_, ?_, ?_⟩
  · rw [hst.get _ _ _ hcnt, hget, get_then_setFx _ f _ _ _ hok, h31, h0]
    exact Nat.mod_mod _ _
  · rw [hst.out]
    cases wakes
    · exact (List.append_nil _).symm
    · rfl
  · cases wakes
    · exact same_of_showsIn hshow hst
    · obtain ⟨hregs, hmem, hctx⟩ := same_of_showsIn (u := s) hshow (.refl _)
      exact ⟨fun j hj i ix => (hst.reg j i ix fun hc => hj (hc ▸ .head _)).trans (hregs j hj i ix), fun b => (hst.byte b).trans (hmem b),
        fun id => (hst.stream id).trans (hctx.1 id), fun n => (hst.inst n).trans (hctx.2.1 n), fun j => (hst.tile j).trans (hctx.2.2 j)⟩

theorem then_cqhead (hr : r < 4) (hl : s.lands q k .SMV_CQHEAD r true = some (kt, x)) : s.then (cqheadWriteX q k r value) =
    (s.then (setFx F.SMV_CQHEAD_HEAD kt x (cnt32 value))).then
      (.when (((s.tile kt).cqRing.getD x {}).on && cnt32 value != s.get F.SMV_CQTAIL_TAIL kt x)
        (emit (.msix (fnOf (s.instOfTile kt)) (s.get F.SMV_CQCFG_VECTOR kt x)))) := by
  rw [cqheadWriteX, if_pos hr, writeReg, then_accessReg hl, ← then_seq_nil ((s.then _).then _), ← then_seq_cons, ← then_seq_cons]
  exact then_congr rfl

theorem then_erhead (hl : s.lands q k .SMV_ERHEAD 0 true = some (kt, x)) : s.then (cqheadWriteX q k 4 value) =
    (s.then (setFx F.SMV_ERHEAD_HEAD kt 0 (cnt32 value))).then
      (.when ((s.tile kt).erRing.on && cnt32 value != s.get F.SMV_ERTAIL_TAIL kt 0)
        (emit (.msix (fnOf (s.instOfTile kt)) (s.get F.SMV_ERCFG_VECTOR kt 0)))) := by
  rw [cqheadWriteX, if_neg (by decide), writeReg, then_accessReg hl, ← then_seq_nil ((s.then _).then _), ← then_seq_cons, ← then_seq_cons]
  exact then_congr rfl

theorem cqhead_written (hr : r < 4) (hl : s.lands q k .SMV_CQHEAD r true = some (kt, x))
    (hst : SnapSame (s.then (cqheadWriteX q k r value)) t) : t.get F.SMV_CQHEAD_HEAD kt x = value % 2 ^ 32 ∧
    t.out = s.out ++ (if ((s.tile kt).cqRing.getD x {}).on = true ∧ value % 2 ^ 32 ≠ s.get F.SMV_CQTAIL_TAIL kt x then
      [.msix (fnOf (s.instOfTile kt)) (s.get F.SMV_CQCFG_VECTOR kt x)] else []) ∧
    sameRegs [.SMV_CQHEAD] s t ∧ sameMem s t ∧ sameContexts s t := by
  rw [then_cqhead hr hl] at hst
  simpa [cnt32] using counterWrite_done (j := .SMV_CQHEAD) (by decide) rfl rfl rfl (by decide) hst

theorem erhead_written (hl : s.lands q k .SMV_ERHEAD 0 true = some (kt, x)) (hst : SnapSame (s.then (cqheadWriteX q k 4 value)) t) :
    t.get F.SMV_ERHEAD_HEAD kt 0 = value % 2 ^ 32 ∧
    t.out = s.out ++ (if (s.tile kt).erRing.on = true ∧ value % 2 ^ 32 ≠ s.get F.SMV_ERTAIL_TAIL kt 0 then
      [.msix (fnOf (s.instOfTile kt)) (s.get F.SMV_ERCFG_VECTOR kt 0)] else []) ∧
    sameRegs [.SMV_ERHEAD] s t ∧ sameMem s t ∧ sameContexts s t := by
  rw [then_erhead hl] at hst
  simpa [cnt32] using counterWrite_done (j := .SMV_ERHEAD) (by decide) rfl rfl rfl (by decide) hst

end Sys2Proof.Machine
end

section
/-! Enabling and disabling a ring (R344): the configuration word that a write leaves, the ring that the tile takes, and its counters; and the
obligation. -/
namespace Sys2Proof.Machine
open Sys2Proof.Say

variable {s u t : State} {q : Requester} {g : RingKind} {k r kt x value : Nat}

/-! ## The configuration word -/

theorem getBits_ofNat_7 : getBits (BitVec.ofNat 32 value) 7 7 = value / 2 ^ 7 % 2 := by
  simp only [getBits, bitsOf, BitVec.toNat_ofNat]
  omega

theorem getBits_ofNat_logsize : getBits (BitVec.ofNat 32 value) 4 0 = value % 32 := by
  simp only [getBits, bitsOf, BitVec.toNat_ofNat]
  omega

/-- The size that a write to a configuration register leaves, what it makes of `EN`, and the causes that it records. -/
def ringHeld (old v : Word) : Nat :=
  if getBits v 4 0 == getBits old 4 0 || logsizeOk (getBits v 4 0) then getBits v 4 0 else getBits old 4 0
def ringRefused (old v : Word) : Bool :=
  getBits v 7 7 == 1 && !(getBits old 7 7 == 1) &&
    !((getBits v 4 0 == getBits old 4 0 || logsizeOk (getBits v 4 0)) && logsizeOk (ringHeld old v))
def ringEn (old v : Word) : Bool := getBits v 7 7 == 1 && !ringRefused old v
def ringCauses (g : RingKind) (old v : Word) : List Nat :=
  (if (!(getBits v 4 0 == getBits old 4 0 || logsizeOk (getBits v 4 0)) || ringRefused old v) = true then [causeRange] else []) ++
    (if (if g = .sq then v &&& ~~~(0x9F : Word) else v &&& ~~~(0xFF9F : Word)) = 0 then [] else [causeRsvd])

/-- The word that a write leaves: the size held, `EN`, and the vector of a ring that has one. -/
def ringWord (g : RingKind) (old v : Word) : Word :=
  if g = .sq then setBits (setBits old 4 0 (ringHeld old v)) 7 7 (b2n (ringEn old v))
  else setBits (setBits (setBits old 4 0 (ringHeld old v)) 7 7 (b2n (ringEn old v))) 15 8 (getBits v 15 8)

theorem getBits_ringWord (old v : Word) : getBits (ringWord g old v) 7 7 = b2n (ringEn old v) := by
  have hen : getBits (setBits (setBits old 4 0 (ringHeld old v)) 7 7 (b2n (ringEn old v))) 7 7 = b2n (ringEn old v) :=
    (getBits_setBits_self _ _ _ _ (by decide)).trans (by cases ringEn old v <;> rfl)
  unfold ringWord
  split
  · exact hen
  · exact (getBits_setBits_ne _ _ _ _ _ _ (.inr (by decide))).trans hen

/-- What the tile and the counters take when the ring turns on. -/
def ringTakes (s : State) (g : RingKind) (kt x held : Nat) : Act :=
  .seq [setRing kt g x ⟨true, held, s.base40 (ringBaseFlds g).1 (ringBaseFlds g).2 kt x⟩,
    .eff ((ringCounters g).map fun f => .fld f kt x 0)]

section
variable {old : Word} (hold : s.reg (ringCfgReg g) kt x = old)
include hold

/-- A write to a configuration register: its word, the ring that turns on or off, and what it records. -/
theorem then_ringEnWriteX (hl : s.lands q k (ringCfgReg g) (if g = .er then 0 else r) true = some (kt, x)) :
    ∃ off causes, s.then (ringEnWriteX q k g r value) =
      (((Eff.run s (.word (ringCfgReg g) kt x (ringWord g old (BitVec.ofNat 32 value)))).then
        (.when (ringEn old (BitVec.ofNat 32 value) && !(getBits old 7 7 == 1))
          (ringTakes s g kt x (ringHeld old (BitVec.ofNat 32 value))))).then
        (.when (!ringEn old (BitVec.ofNat 32 value) && getBits old 7 7 == 1) (setRing kt g x {}))).then
        (regErr .SMV kt q off causes) := by
  subst hold
  refine ⟨(ringCfgReg g).place.off + x * (ringCfgReg g).place.stride,
    ringCauses g (s.reg (ringCfgReg g) kt x) (BitVec.ofNat 32 value), ?_⟩
  rw [← run_nil (Eff.run s (.word _ _ _ _)), ← run_cons, ← then_eff, ringEnWriteX, writeReg, then_accessReg hl,
    ← then_seq_nil (State.then _ (regErr _ _ _ _ _)), ← then_seq_cons, ← then_seq_cons, ← then_seq_cons, ← then_seq_cons]
  exact then_congr rfl

theorem then_ringEn_on (hl : s.lands q k (ringCfgReg g) (if g = .er then 0 else r) true = some (kt, x))
    (hoff : (getBits old 7 7 == 1) = false) (hen : ringEn old (BitVec.ofNat 32 value) = true) : ∃ off causes, s.then (ringEnWriteX q k g r value) =
      ((Eff.run s (.word (ringCfgReg g) kt x (ringWord g old (BitVec.ofNat 32 value)))).then
        (ringTakes s g kt x (ringHeld old (BitVec.ofNat 32 value)))).then (regErr .SMV kt q off causes) := by
  obtain ⟨off, causes, hthen⟩ := then_ringEnWriteX (value := value) hold hl
  exact ⟨off, causes, by simpa [hoff, hen] using hthen⟩

theorem then_ringEn_stays (hl : s.lands q k (ringCfgReg g) (if g = .er then 0 else r) true = some (kt, x))
    (hoff : (getBits old 7 7 == 1) = false) (hen : ringEn old (BitVec.ofNat 32 value) = false) : ∃ off causes, s.then (ringEnWriteX q k g r value) =
      (Eff.run s (.word (ringCfgReg g) kt x (ringWord g old (BitVec.ofNat 32 value)))).then (regErr .SMV kt q off causes) := by
  obtain ⟨off, causes, hthen⟩ := then_ringEnWriteX (value := value) hold hl
  exact ⟨off, causes, by simpa [hoff, hen] using hthen⟩

theorem then_ringEn_off (hl : s.lands q k (ringCfgReg g) (if g = .er then 0 else r) true = some (kt, x))
    (hon : (getBits old 7 7 == 1) = true) (hen : ringEn old (BitVec.ofNat 32 value) = false) : ∃ off causes, s.then (ringEnWriteX q k g r value) =
      ((Eff.run s (.word (ringCfgReg g) kt x (ringWord g old (BitVec.ofNat 32 value)))).then
        (setRing kt g x {})).then (regErr .SMV kt q off causes) := by
  obtain ⟨off, causes, hthen⟩ := then_ringEnWriteX (value := value) hold hl
  exact ⟨off, causes, by simpa [hon, hen] using hthen⟩

end

/-! ## What each part leaves -/

/-- `EN` of a ring's configuration register. -/
def ringEnFld (g : RingKind) : Fld := ⟨ringCfgReg g, 7, 7⟩

theorem bitOf_eq_get (g : RingKind) (u : State) (j ix : Nat) :
    bitOf (u.reg (ringCfgReg g) j ix).toNat 7 = (u.get (ringEnFld g) j ix == 1) := (rfl)

theorem get_ringWord (old v : Word) :
    (Eff.run u (.word (ringCfgReg g) kt x (ringWord g old v))).get (ringEnFld g) kt x = b2n (ringEn old v) := by
  have hok : (ringEnFld g).ok = true := by cases g <;> decide
  have hread : (Eff.run u (.word (ringCfgReg g) kt x (ringWord g old v))).reg (ringCfgReg g) kt x =
      ringWord g old v &&& implMask (ringCfgReg g) := by rw [run_word_eq, reg_setReg, if_pos ⟨rfl, rfl, rfl⟩]
  calc (Eff.run u (.word (ringCfgReg g) kt x (ringWord g old v))).get (ringEnFld g) kt x
      = getBits (ringWord g old v &&& implMask (ringCfgReg g)) 7 7 := congrArg (fun w => getBits w 7 7) hread
    _ = getBits (ringWord g old v) 7 7 := getBits_and_mask _ _ _ _ ((Fld.ok_iff _).1 hok).2.2
    _ = b2n (ringEn old v) := getBits_ringWord old v

/-- What a refusal of the stream mover's registers leaves. -/
theorem left_by_regErr {off : Nat} {causes : List Nat} (hst : SnapSame (u.then (regErr .SMV kt q off causes)) t) :
    (∀ f : Fld, f.reg ∉ [Reg.SMV_REGERR, .SMV_REGERRCNT, .SNP_CNT] → ∀ j ix, t.get f j ix = u.get f j ix) ∧ sameMem u t ∧
      ∀ j, t.tile j = u.tile j := by
  obtain ⟨hmem, -, -, htiles⟩ := same_of_onRegs u ((regErr_onErr .SMV kt q off causes).mono fun _ => Eff.onRegs_of_onErr) hst
  refine ⟨fun f hf j ix => ?_, hmem, htiles⟩
  obtain ⟨h1, h2, h3⟩ : f.reg ≠ .SMV_REGERR ∧ f.reg ≠ .SMV_REGERRCNT ∧ f.reg ≠ .SNP_CNT := by simpa using hf
  exact (hst.get f j ix h3).trans (congrArg (fun w => getBits w f.hi f.lo) (reg_regErr u .SMV kt q off causes h1 h2 j ix))

theorem ring_setRing (hx : x < 4) (c : RingCfg) : ((u.then (setRing kt g x c)).tile kt).ring g x = c := by
  have hput (l : List RingCfg) : (setAt (l ++ List.replicate (4 - l.length) ({} : RingCfg)) x c).getD x ({} : RingCfg) = c :=
    (getD_setAt _ x x c).trans (if_pos ⟨rfl, by rw [List.length_append, List.length_replicate]; omega⟩)
  rw [setRing, tile_updT]
  cases g with
  | sq | cq => exact hput _
  | er => rfl

/-- Counters of different registers set to zero all read zero. -/
theorem get_run_zeros {l : List Fld} (hok : ∀ f ∈ l, f.ok = true) (hne : l.Pairwise fun f f' => f.reg ≠ f'.reg) {f : Fld} (hf : f ∈ l) :
    (u.run (l.map fun f => .fld f kt x 0)).get f kt x = 0 := by
  obtain ⟨pre, post, rfl⟩ := List.append_of_mem hf
  have hpost : ∀ e ∈ post.map fun f => Eff.fld f kt x 0, e.offF f := fun e he => by
    obtain ⟨f', hf', rfl⟩ := List.mem_map.1 he
    exact .inl ((List.pairwise_cons.1 (List.pairwise_append.1 hne).2.1).1 f' hf')
  rw [List.map_append, List.map_cons, get_run_fld u (hok f hf) kt x 0 _ _ hpost, Nat.zero_mod]

theorem ringCounters_ok (g : RingKind) : (∀ f ∈ ringCounters g, f.ok = true) ∧ (ringCounters g).Pairwise (fun f f' => f.reg ≠ f'.reg) ∧
    ∀ f ∈ ringCounters g, f.reg ≠ ringCfgReg g ∧ f.reg ∉ [Reg.SMV_REGERR, .SMV_REGERRCNT, .SNP_CNT] := by
  cases g <;> decide

/-- A ring that turns on holds what it takes, its counters read zero, and its configuration word and memory are left. -/
theorem left_by_ringTakes (hx : x < 4) (held : Nat) :
    ((u.then (ringTakes s g kt x held)).tile kt).ring g x = ⟨true, held, s.base40 (ringBaseFlds g).1 (ringBaseFlds g).2 kt x⟩ ∧
    (∀ f ∈ ringCounters g, (u.then (ringTakes s g kt x held)).get f kt x = 0) ∧ (u.then (ringTakes s g kt x held)).mem = u.mem ∧
    (u.then (ringTakes s g kt x held)).get (ringEnFld g) kt x = u.get (ringEnFld g) kt x := by
  obtain ⟨hok, hne, hreg⟩ := ringCounters_ok g
  have hflds : AllEff (Eff.showsIn ((ringCounters g).map Fld.reg)) (.eff ((ringCounters g).map fun f => .fld f kt x 0)) :=
    .eff fun e he => by
      obtain ⟨f, hf, rfl⟩ := List.mem_map.1 he
      exact List.mem_map_of_mem hf
  simp only [ringTakes, then_seq_cons, then_seq_nil]
  refine ⟨?_, fun f hf => get_run_zeros hok hne hf, (contexts_of_showsIn hflds).1, ?_⟩
  · rw [tile_of_showsIn hflds]
    exact ring_setRing hx _
  · rw [get_of_showsIn hflds]
    · rfl
    · intro hmem
      obtain ⟨f, hf, hfr⟩ := List.mem_map.1 hmem
      exact (hreg f hf).1 hfr

/-! ## The three outcomes -/

theorem getBits_of_bitOf {w : Word} {b : Bool} (h : bitOf w.toNat 7 = b) : (getBits w 7 7 == 1) = b := h

theorem getBits_ofNat_of_bitOf {b : Bool} (h : bitOf value 7 = b) : (getBits (BitVec.ofNat 32 value) 7 7 == 1) = b :=
  (congrArg (· == 1) getBits_ofNat_7).trans h

theorem logsizeOk_eq_true : logsizeOk value = true ↔ 4 ≤ value ∧ value ≤ 16 := by simp [logsizeOk]

theorem ringEnFld_not_err (g : RingKind) : (ringEnFld g).reg ∉ [Reg.SMV_REGERR, .SMV_REGERRCNT, .SNP_CNT] := by cases g <;> decide

/-- A ring is on after a write of `EN` with a size that it may have. -/
theorem ringEn_of_size {old : Word} (hwant : bitOf value 7 = true) (hls : logsizeOk (value % 32) = true) :
    ringEn old (BitVec.ofNat 32 value) = true ∧ ringHeld old (BitVec.ofNat 32 value) = value % 32 := by
  have hheld : ringHeld old (BitVec.ofNat 32 value) = value % 32 := by simp [ringHeld, getBits_ofNat_logsize, hls]
  refine ⟨?_, hheld⟩
  simp [ringEn, ringRefused, hheld, getBits_ofNat_of_bitOf hwant, getBits_ofNat_logsize, hls]

/-- A ring that is off stays off at another size. -/
theorem ringEn_of_badSize {old : Word} (hoff : (getBits old 7 7 == 1) = false) (hls : logsizeOk (value % 32) = false) :
    ringEn old (BitVec.ofNat 32 value) = false := by
  by_cases heq : value % 32 = getBits old 4 0
  · simp [ringEn, ringRefused, ringHeld, hoff, getBits_ofNat_logsize, hls, ← heq]
  · simp [ringEn, ringRefused, ringHeld, hoff, getBits_ofNat_logsize, hls, heq]

section
variable (hl : s.lands q k (ringCfgReg g) (if g = .er then 0 else r) true = some (kt, x)) (hx : x < 4)
include hl

include hx in
theorem ring_turnsOn (hold : bitOf (s.reg (ringCfgReg g) kt x).toNat 7 = false) (hwant : bitOf value 7 = true)
    (h4 : 4 ≤ value % 32) (h16 : value % 32 ≤ 16) (hst : SnapSame (s.then (ringEnWriteX q k g r value)) t) :
    bitOf (t.reg (ringCfgReg g) kt x).toNat 7 = true ∧
      (t.tile kt).ring g x = ⟨true, value % 32, s.base40 (ringBaseFlds g).1 (ringBaseFlds g).2 kt x⟩ ∧
      (∀ f ∈ ringCounters g, t.get f kt x = 0) ∧ sameMem s t := by
  obtain ⟨hen, hheld⟩ := ringEn_of_size (old := s.reg (ringCfgReg g) kt x) hwant (logsizeOk_eq_true.2 ⟨h4, h16⟩)
  obtain ⟨off, causes, hthen⟩ := then_ringEn_on rfl hl (getBits_of_bitOf hold) hen
  rw [hthen, hheld] at hst
  obtain ⟨hget, hmem, htile⟩ := left_by_regErr hst
  obtain ⟨hring, hzero, hmem', hkeep⟩ := left_by_ringTakes (s := s) (g := g) (kt := kt)
    (u := Eff.run s (.word (ringCfgReg g) kt x (ringWord g (s.reg (ringCfgReg g) kt x) (BitVec.ofNat 32 value)))) hx (value % 32)
  refine ⟨?_, htile kt ▸ hring, fun f hf => (hget f ((ringCounters_ok g).2.2 f hf).2 kt x).trans (hzero f hf), fun b => ?_⟩
  · rw [bitOf_eq_get, hget _ (ringEnFld_not_err g), hkeep, get_ringWord, hen]
    rfl
  · rw [hmem b, State.byte, hmem']
    rfl

theorem ring_staysOff (hold : bitOf (s.reg (ringCfgReg g) kt x).toNat 7 = false) (hls : value % 32 < 4 ∨ 16 < value % 32)
    (hst : SnapSame (s.then (ringEnWriteX q k g r value)) t) :
    bitOf (t.reg (ringCfgReg g) kt x).toNat 7 = false ∧ t.tile kt = s.tile kt ∧ sameMem s t := by
  have hbad : logsizeOk (value % 32) = false := by
    rw [← Bool.not_eq_true, logsizeOk_eq_true]
    omega
  have hen := ringEn_of_badSize (getBits_of_bitOf hold) hbad
  obtain ⟨off, causes, hthen⟩ := then_ringEn_stays rfl hl (getBits_of_bitOf hold) hen
  rw [hthen] at hst
  obtain ⟨hget, hmem, htile⟩ := left_by_regErr hst
  refine ⟨?_, htile kt, hmem⟩
  rw [bitOf_eq_get, hget _ (ringEnFld_not_err g), get_ringWord, hen]
  rfl

include hx in
theorem ring_turnsOff (hold : bitOf (s.reg (ringCfgReg g) kt x).toNat 7 = true) (hwant : bitOf value 7 = false)
    (hst : SnapSame (s.then (ringEnWriteX q k g r value)) t) :
    bitOf (t.reg (ringCfgReg g) kt x).toNat 7 = false ∧ ((t.tile kt).ring g x).on = false ∧ sameMem s t := by
  have hen : ringEn (s.reg (ringCfgReg g) kt x) (BitVec.ofNat 32 value) = false := by
    rw [ringEn, getBits_ofNat_of_bitOf hwant, Bool.false_and]
  obtain ⟨off, causes, hthen⟩ := then_ringEn_off rfl hl (getBits_of_bitOf hold) hen
  rw [hthen] at hst
  obtain ⟨hget, hmem, htile⟩ := left_by_regErr hst
  refine ⟨?_, htile kt ▸ congrArg RingCfg.on (ring_setRing hx {}), hmem⟩
  rw [bitOf_eq_get, hget _ (ringEnFld_not_err g)]
  show ((Eff.run s _).get (ringEnFld g) kt x == 1) = false
  rw [get_ringWord, hen]
  rfl

end

/-- Settles O18: what each write stores, fetches, sends, takes and refuses. -/
theorem ringCountersAndEnables : Obligations.RingCountersAndEnables :=
  ⟨fun _ _ _ _ _ _ _ hl hidle => done_holds fun _ hst => sqtail_idle hl hidle hst,
    fun _ _ _ _ _ _ _ hl hon hover => done_holds fun _ hst => recorded_smvErr (by decide) (then_sqtail_overrun hl hon hover ▸ hst),
    fun _ _ _ _ _ _ _ _ hl _ => sqtail_fetches hl,
    fun _ _ _ _ _ _ _ hr hl => done_holds fun _ hst => cqhead_written hr hl hst,
    fun _ _ _ _ _ _ hl => done_holds fun _ hst => erhead_written hl hst,
    fun _ _ _ _ _ _ _ _ hl hx hold hwant => ⟨fun h4 h16 => done_holds fun _ hst => ring_turnsOn hl hx hold hwant h4 h16 hst,
      fun hls => done_holds fun _ hst => ring_staysOff hl hold hls hst⟩,
    fun _ _ _ _ _ _ _ _ hl hx hold hwant => done_holds fun _ hst => ring_turnsOff hl hx hold hwant hst⟩

end Sys2Proof.Machine
end

section
/-! `QCFG` and the items that firmware holds (R323, R344): a write that gives a queue its room lets the items that wait for it in, and
their slots are written to memory. -/
namespace Sys2Proof.Machine
open Sys2Proof.Say

/-- A package in service with tenant 0 active on tile 4. Stream 1024 is open and holds one piece to send, whose link-transmit item waits
for queue 5; that queue is off, with its base registers at the working store of the tile. -/
def egressHeld : State := ({ State.reset with pkg := { aonSt := { pgAon := true, pg := true, s0 := true, next := 9 } } } : State).run
  [.fld F.MGT_BOOTSTAT_STAGE pkgTile 0 9, .fld F.MGT_PARTID_TILES_OK pkgTile 0 64, .fld F.MGT_TILEMAP_LO_INSVC pkgTile 0 0x10,
   .fld F.PRT_ISTAT_STATE pkgTile 0 instActive, .fld F.PRT_ITILES_LO_TILES pkgTile 0 0x10, .fld F.PRT_TOWN_ASSIGNED 4 0 1,
   .fld F.SMV_CTL_STATE 4 0 fnOn, .fld F.SMV_QBASE_LO_BASE_LO 4 5 0x10000, .fld F.SMV_QBASE_HI_BASE_HI 4 5 0x60,
   .fld F.SMV_SLIVE0_STATE 4 0 slotOpen, .stream 1024 fun x => { x with egress := [{ frame := 1, bytes := [] }] }]

/-- The second byte of the working store of tile 4 once queue 5 has been given 64 slots. -/
def egressHeldByte : Byte :=
  match exec (.qcfgWrite .pm 4 5 6) egressHeld with
  | .next t => t.byte 0x6010000001
  | _ => 0

theorem egressHeldByte_eq : egressHeldByte = 4 ∧ egressHeld.byte 0x6010000001 = 0 := by decide +kernel

/-- Refutes O20: `QCFG` turns a queue on for which a stream's link-transmit item waits, and the item's slot, which names stream 1024, is
written to memory at once. -/
theorem not_queuesAdvanceAndTransfersIssue : ¬ Obligations.QueuesAdvanceAndTransfersIssue := by
  rintro ⟨-, hqcfg, -⟩
  obtain ⟨t, ht, -, -, hmem⟩ := hqcfg egressHeld .pm 4 5 6 4 5 (by decide +kernel) (by decide +kernel) (by decide +kernel)
    (by decide) (by decide) (by decide +kernel)
  obtain ⟨hafter, hbefore⟩ := egressHeldByte_eq
  rw [egressHeldByte, ht] at hafter
  exact absurd ((hmem _).symm.trans hafter) (by rw [hbefore]; decide)

end Sys2Proof.Machine
end

section
/-! The end of a transfer and the items that firmware holds (R324, R332): where a burst stands under the tag of a write that ends, the queue of
the burst takes the items that wait for it. -/
namespace Sys2Proof.Machine
open Sys2Proof.Say

/-- A write of stream 1024 into the working store of tile 4 under tag 9, the item that it belongs to, with a write still to issue, and a
burst of queue 5 under the same tag. -/
def tagWrite : Xfer := { tag := 9, q := 6, stream := 1024, write := true, addr := 0x6010040000, len := 4, data := [1, 2, 3, 4] }
def tagItem : Item := { q := 6, slot := 0, stream := 1024, engine := 3, started := true, resolved := true, writes := [⟨0x6010041000, 4, false, 4⟩] }
def tagBurst : Xfer := { tag := 9, q := 5, fetch := true, addr := 0x6010000000, len := 64 }

/-- The package of `egressHeld` with queue 5 on and both transfers in flight: one tag names two, which R332 lets no run reach, but which the
statement's hypotheses do not keep out. -/
def tagShared : State := egressHeld.run
  [.fld F.SMV_QCFG_LOGDEPTH 4 5 6, .tile 4 fun c => { c with xfers := [tagWrite, tagBurst], items := [tagItem], qBase := [0, 0, 0, 0, 0, 0x6010000000] }]

/-- The second byte of the working store of tile 4 once the transfer under that tag has ended. -/
def tagSharedByte : Byte :=
  match exec (.transferComplete 4 9 0) tagShared with
  | .next t => t.byte 0x6010000001
  | _ => 0

theorem tagSharedByte_eq : tagSharedByte = 4 ∧ tagShared.byte 0x6010000001 = 0 := by decide +kernel

/-- Refutes O21: the write that the tag finds first stores its bytes, and the queue of the burst under the same tag takes in the item that
waits for it, whose slot is stored outside the write's range. -/
theorem not_transfersAndItemsComplete : ¬ Obligations.TransfersAndItemsComplete := by
  rintro ⟨-, hwrite, -⟩
  obtain ⟨t, ht, -, -, hmem⟩ := hwrite tagShared 4 9 tagWrite tagItem (by decide +kernel) rfl rfl rfl rfl (by decide +kernel)
    (by decide +kernel) (by decide +kernel) (by decide +kernel) (by decide)
  obtain ⟨hafter, hbefore⟩ := tagSharedByte_eq
  rw [tagSharedByte, ht] at hafter
  exact absurd ((hmem 0x6010000001 (by decide)).symm.trans hafter) (by rw [hbefore]; decide)

end Sys2Proof.Machine
end

section
/-! The ports of device memory (R338, R394, R400, R402): a write that is applied, the data that a read answers, what a read meets, and the
scrub passes; and the obligation. -/
namespace Sys2Proof.Machine
open Sys2Proof.Say

variable {s u t : State} {q : Requester} {own : Option (Nat × Nat)} {a n k : Nat} {data : List Byte} {ask pz : Bool} {l : List Reg} {b : Act}

/-! ## Poison marks -/

/-- The effect leaves the poison marks alone. -/
@[simp] def Eff.offPoison : Eff → Prop
  | .poison _ _ | .unpoison _ _ => False
  | _ => True

theorem poison_of_offPoison (h : AllEff Eff.offPoison b) : (u.then b).poison = u.poison :=
  run_keeps u (b u) (P := fun w => w.poison = u.poison) (fun w hw e he => by
    have hk := h u e he
    cases e with
    | poison | unpoison => exact hk.elim
    | mem => exact (setBytes_poison w _ _).trans hw
    | _ => exact hw) rfl

/-- A granule marked among others reads poisoned. -/
theorem poison_marked {g : Nat} {gs : List Nat} (hg : g ∈ gs) : mapGet id false (u.run (gs.map fun g => .poison g true)).poison g = true := by
  have hmark (w : State) (g' : Nat) : mapGet id false (Eff.run w (.poison g' true)).poison g =
      if g' = g then true else mapGet id false w.poison g := mapGet_mapPut id false false w.poison g' g true fun _ => rfl
  obtain ⟨pre, post, rfl⟩ := List.append_of_mem hg
  rw [List.map_append, List.map_cons, run_append, run_cons]
  refine run_keeps _ _ (P := fun w => mapGet id false w.poison g = true) (fun w hw e he => ?_) ((hmark _ g).trans (if_pos rfl))
  obtain ⟨g', -, rfl⟩ := List.mem_map.1 he
  rw [hmark, hw, ite_self]

theorem mem_granules (hn : 0 < n) : a / 64 ∈ granules a n := by
  unfold granules
  rw [if_neg hn.ne']
  exact List.mem_map.2 ⟨0, List.mem_range.2 (Nat.succ_pos _), Nat.add_zero _⟩

theorem poisonedIn_of_poisoned (hn : 0 < n) (h : u.poisoned a = true) : u.poisonedIn a n = true := by
  simp only [State.poisonedIn, Bool.and_eq_true, bne_iff_ne, List.any_eq_true]
  exact ⟨hn.ne', 0, List.mem_range.2 (Nat.succ_pos _), by simpa using h⟩

/-- A write that is poisoned marks its granules (R338). -/
theorem poisoned_memWrite (hn : 0 < data.length) : (u.then (memWrite a data true ask)).poisoned a = true := by
  have hmarks : poisonWrite a data.length (fun _ => true) = .eff ((granules a data.length).map fun g => .poison g true) := by
    simp [poisonWrite]
  have hrest (w : State) : Effs Eff.offPoison (Act.when (isHbm a) (.each (blocks a data.length) fun k => .seq
      [baleBlock a data.length ask k, wcInvalidate k]) w) := by
    simp [baleBlock, wcInvalidate]
  have hthen : u.then (memWrite a data true ask) = ((Eff.run u (.mem a data)).run ((granules a data.length).map fun g => .poison g true)).then
      (.when (isHbm a) (.each (blocks a data.length) fun k => .seq [baleBlock a data.length ask k, wcInvalidate k])) := by
    rw [memWrite, memWriteG, hmarks, then_seq_cons, then_seq_cons, then_seq_cons, then_seq_nil]
    rfl
  rw [State.poisoned, hthen, poison_of_offPoison (allEff_iff.2 hrest)]
  exact poison_marked (mem_granules hn)

/-! ## Packets across the Yard -/

theorem showsIn_yardPacket {i j g : Nat} : Effs (Eff.showsIn [.BAL_YSAVED, .YRD_FLIT]) (yardPacket i j g u) := by
  simp [yardPacket, F.BAL_YSAVED_COUNT, F.YRD_FLIT_COUNT]

theorem showsIn_yardSend : Effs (Eff.showsIn [.BAL_YSAVED, .YRD_FLIT]) (yardSend k a data pz u) := by
  simp [yardSend, showsIn_yardPacket]

theorem showsIn_yardReturn : Effs (Eff.showsIn [.BAL_YSAVED, .YRD_FLIT]) (yardReturn k a n u) := by
  simp [yardReturn, showsIn_yardPacket]

theorem out_of_showsIn (h : AllEff (Eff.showsIn l) b) : (u.then b).out = u.out :=
  out_off u (h.mono fun e he => by cases e <;> trivial)

/-- What a packet for the requester's tile shows. -/
theorem showsIn_forRequester {f : Nat → Act} (hf : ∀ j v, Effs (Eff.showsIn [.BAL_YSAVED, .YRD_FLIT]) (f j v)) :
    AllEff (Eff.showsIn [.BAL_YSAVED, .YRD_FLIT]) (.opt (requesterTile q) f) := allEff_iff.2 fun v => effs_opt.2 fun j _ => hf j v

/-! ## Writes -/

theorem length_of_isDevice (h : s.isDevice a n = true) : 0 < n := by
  simp only [State.isDevice, Bool.and_eq_true, decide_eq_true_eq] at h
  exact h.1

theorem then_hbmWriteX (hhbm : isHbm a = true) (hdev : s.isDevice a data.length = true) (hown : s.epochOk own = true) :
    s.then (hbmWriteX q own a data ask pz) = Eff.run ((s.then (.opt (requesterTile q) fun j => yardSend j a data pz)).then
      (memWrite a data pz ask)) (.emit (.reply q 0 0)) := by
  have hseq : s.then (hbmWriteX q own a data ask pz) = s.then (.seq [.opt (requesterTile q) fun j => yardSend j a data pz,
      memWrite a data pz ask, emit (.reply q 0 0)]) := then_congr (by simp [hbmWriteX, hhbm, hdev, hown])
  rw [hseq, then_seq_cons, then_seq_cons, then_seq_cons, then_seq_nil, then_emit]

theorem out_of_stores (h : AllEff Eff.stores b) : (u.then b).out = u.out := out_off u (h.mono fun e he => by cases e <;> trivial)

theorem hbmWrite_applied (hhbm : isHbm a = true) (hdev : s.isDevice a data.length = true) (hown : s.epochOk own = true)
    (hst : SnapSame (s.then (hbmWriteX q own a data ask pz)) t) : t.bytes a data.length = data ∧ sameMemBut a data.length s t ∧
      (pz = true → t.poisonedIn a data.length = true) ∧ t.out = s.out ++ [.reply q 0 0] ∧
      sameRegs [.BAL_CLSCNT, .BAL_RMWCNT, .BAL_YSAVED, .YRD_FLIT, .MEM_WCINV] s t ∧ (∀ id, t.stream id = s.stream id) ∧
      ∀ n, t.inst n = s.inst n := by
  have hyard : AllEff (Eff.showsIn [.BAL_YSAVED, .YRD_FLIT]) (.opt (requesterTile q) fun j => yardSend j a data pz) :=
    showsIn_forRequester fun _ _ => showsIn_yardSend
  have hstore : AllEff Eff.stores (memWrite a data pz ask) := allEff_iff.2 fun _ => stores_memWrite
  have hputs : AllEff Eff.puts (memWrite a data pz ask) := hstore.mono fun _ => Eff.puts_of_stores
  obtain ⟨hmem, hstreams, hinsts, -⟩ := contexts_of_showsIn (u := s) hyard
  rw [then_hbmWriteX hhbm hdev hown] at hst
  refine ⟨?_, fun x hx => ?_, fun hpz => ?_, ?_, fun r hr j ix => ?_, fun id => ?_, fun i => ?_⟩
  · simp only [State.bytes, hst.byte]
    exact bytes_memWrite a data pz ask
  · rw [hst.byte]
    exact (sameMemBut_memWrite x hx).trans (by rw [State.byte, hmem, ← State.byte])
  · subst hpz
    refine poisonedIn_of_poisoned (length_of_isDevice hdev) ?_
    rw [State.poisoned, hst.poison]
    exact poisoned_memWrite (length_of_isDevice hdev)
  · rw [hst.out, run_emit_out, out_of_stores hstore, out_of_showsIn hyard]
  · obtain ⟨hcnt, hstored⟩ : r ≠ .SNP_CNT ∧ r ∉ storeRegs := by simpa [and_assoc] using hr
    have hshown : r ∉ [Reg.BAL_YSAVED, .YRD_FLIT] := fun h => hstored (by revert h; simp; tauto)
    refine (hst.reg r j ix hcnt).trans ((reg_off _ (hstore.mono fun e he => ?_) j ix).trans
      (reg_off s (hyard.mono fun _ he => Eff.off_of_showsIn hshown he) j ix))
    cases e with
    | fld f | countU f => exact fun hf => hstored (hf ▸ he)
    | tile | mem | poison | bale => trivial
    | _ => exact he.elim
  · rw [hst.stream, State.stream, run_emit_streams, (contexts_of_puts hputs).1, hstreams, ← State.stream]
  · rw [hst.inst, State.inst, run_emit_insts, (contexts_of_puts hputs).2, hinsts, ← State.inst]

/-- A write of an advanced epoch changes nothing (R431). -/
theorem then_hbmWriteX_stale (hhbm : isHbm a = true) (hdev : s.isDevice a data.length = true) (hown : s.epochOk own = false) :
    s.then (hbmWriteX q own a data ask pz) = s := then_congr (b := Act.none) (by simp [hbmWriteX, hhbm, hdev, hown, Act.none])

/-! ## Reads -/

theorem wsTile_of_isHbm (h : isHbm a = true) : wsTile a = none := by
  have hlt : a < 288 * 2 ^ 30 := of_decide_eq_true h
  have hbase : wsBase = 0x6000000000 := rfl
  exact if_neg fun hin => by omega

/-- The answer of a read, to a requester whose tile may lie across the Yard. -/
def readAnswer (q : Requester) (a n : Nat) (bs : List Byte) (bad : Bool) : Act :=
  .seq [.opt (requesterTile q) fun j => yardReturn j a n, emit (.data q a bs bad)]

theorem then_hbmReadX {e : EccEvent} (hdev : s.isDevice a n = true) : s.then (hbmReadX q own a n e) =
    (s.then ((wsTile a).elim (hbmEvent a e) (wsEvent · a e))).then (.when
      ((s.then ((wsTile a).elim (hbmEvent a e) (wsEvent · a e))).epochOk own)
      (readAnswer q a n ((s.then ((wsTile a).elim (hbmEvent a e) (wsEvent · a e))).bytes a n)
        ((s.then ((wsTile a).elim (hbmEvent a e) (wsEvent · a e))).poisonedIn a n))) := by
  have hseq : s.then (hbmReadX q own a n e) = s.then (.seq [(wsTile a).elim (hbmEvent a e) (wsEvent · a e),
      .read fun v => .when (v.epochOk own) (readAnswer q a n (v.bytes a n) (v.poisonedIn a n))]) :=
    then_congr (by simp only [hbmReadX, hdev, Bool.not_true, Bool.false_eq_true, if_false]; rfl)
  rw [hseq, then_seq_cons, then_seq_cons, then_seq_nil, then_read]

theorem then_readAnswer {bs : List Byte} {bad : Bool} : u.then (readAnswer q a n bs bad) =
    Eff.run (u.then (.opt (requesterTile q) fun j => yardReturn j a n)) (.emit (.data q a bs bad)) := by
  rw [readAnswer, then_seq_cons, then_seq_cons, then_seq_nil, then_emit]

/-- What a read that meets an event shown in some registers answers and leaves. -/
theorem hbmRead_answers {e : EccEvent} (hhbm : isHbm a = true) (hdev : s.isDevice a n = true) (hown : s.epochOk own = true)
    (hshow : AllEff (Eff.showsIn l) (hbmEvent a e)) (hepoch : Reg.PRT_ISTAT ∉ l)
    (hst : SnapSame (s.then (hbmReadX q own a n e)) t) :
    t.out = s.out ++ [.data q a (s.bytes a n) (s.poisonedIn a n)] ∧ (requesterTile q = none → sameRegs l s t) ∧
    (∀ f : Fld, f.reg ∉ [Reg.SNP_CNT, .BAL_YSAVED, .YRD_FLIT] → ∀ j ix, t.get f j ix = (s.then (hbmEvent a e)).get f j ix) ∧
    sameRegs (l ++ [.BAL_YSAVED, .YRD_FLIT]) s t ∧ sameMem s t ∧ sameContexts s t := by
  have hyard : AllEff (Eff.showsIn [.BAL_YSAVED, .YRD_FLIT]) (.opt (requesterTile q) fun j => yardReturn j a n) :=
    showsIn_forRequester fun _ _ => showsIn_yardReturn
  obtain ⟨hmem, hstreams, hinsts, htiles⟩ := contexts_of_showsIn (u := s) hshow
  obtain ⟨hmem', hstreams', hinsts', htiles'⟩ := contexts_of_showsIn (u := s.then (hbmEvent a e)) hyard
  have hown' : (s.then (hbmEvent a e)).epochOk own = true := by
    have hget (f : Fld) (hf : f.reg = .PRT_ISTAT) (j ix : Nat) : (s.then (hbmEvent a e)).get f j ix = s.get f j ix :=
      get_of_showsIn hshow (hf ▸ hepoch) j ix
    cases own with
    | none => rfl
    | some o => simpa only [State.epochOk, State.epoch, State.instState, hget F.PRT_ISTAT_EPOCH rfl, hget F.PRT_ISTAT_STATE rfl] using hown
  have hbytes : (s.then (hbmEvent a e)).bytes a n = s.bytes a n := by simp only [State.bytes, State.byte, hmem]
  have hbad : (s.then (hbmEvent a e)).poisonedIn a n = s.poisonedIn a n := by
    simp only [State.poisonedIn, State.poisoned, poison_of_showsIn hshow]
  rw [then_hbmReadX hdev, wsTile_of_isHbm hhbm, Option.elim_none, hown', then_when, if_pos rfl, then_readAnswer, hbytes, hbad] at hst
  refine ⟨?_, fun hq r hr j ix => ?_, fun f hf j ix => ?_, fun r hr j ix => ?_, fun x => ?_, fun id => ?_, fun i => ?_, fun j => ?_⟩
  · rw [hst.out, run_emit_out, out_of_showsIn hyard, out_of_showsIn hshow]
  · obtain ⟨hcnt, hl⟩ : r ≠ .SNP_CNT ∧ r ∉ l := by simpa using hr
    rw [hq] at hst
    exact (hst.reg r j ix hcnt).trans (reg_off s (hshow.mono fun _ he => Eff.off_of_showsIn hl he) j ix)
  · obtain ⟨hcnt, hsent⟩ : f.reg ≠ .SNP_CNT ∧ f.reg ∉ [Reg.BAL_YSAVED, .YRD_FLIT] := not_or.1 (mt List.mem_cons.2 hf)
    exact (hst.get f j ix hcnt).trans (get_of_showsIn hyard hsent j ix)
  · obtain ⟨hcnt, hl, hsent⟩ : r ≠ .SNP_CNT ∧ r ∉ l ∧ r ∉ [Reg.BAL_YSAVED, .YRD_FLIT] := by simpa using hr
    exact (hst.reg r j ix hcnt).trans ((reg_off _ (hyard.mono fun _ he => Eff.off_of_showsIn hsent he) j ix).trans
      (reg_off s (hshow.mono fun _ he => Eff.off_of_showsIn hl he) j ix))
  · rw [hst.byte, State.byte, run_emit_mem, hmem', hmem, ← State.byte]
  · rw [hst.stream, State.stream, run_emit_streams, hstreams', hstreams, ← State.stream]
  · rw [hst.inst, State.inst, run_emit_insts, hinsts', hinsts, ← State.inst]
  · rw [hst.tile, State.tile, run_emit_tiles, htiles', htiles, ← State.tile]

theorem hbmRead_clean (hhbm : isHbm a = true) (hdev : s.isDevice a n = true) (hown : s.epochOk own = true)
    (hst : SnapSame (s.then (hbmReadX q own a n .clean)) t) : t.out = s.out ++ [.data q a (s.bytes a n) (s.poisonedIn a n)] ∧
      (requesterTile q = none → sameRegs [] s t) ∧ sameRegs [.BAL_YSAVED, .YRD_FLIT] s t ∧ sameMem s t ∧ sameContexts s t := by
  have hshow : AllEff (Eff.showsIn []) (hbmEvent a .clean) := AllEff.none
  obtain ⟨hout, hregs, -, hsame⟩ := hbmRead_answers hhbm hdev hown hshow List.not_mem_nil hst
  exact ⟨hout, hregs, hsame⟩

theorem hbmRead_corrected (hhbm : isHbm a = true) (hdev : s.isDevice a n = true) (hown : s.epochOk own = true)
    (hst : SnapSame (s.then (hbmReadX q own a n .corrected)) t) : t.out = s.out ++ [.data q a (s.bytes a n) (s.poisonedIn a n)] ∧
      t.get F.MEM_HBMECC_CORR (s.hbmTile a) 0 = min 0xFFFF (s.get F.MEM_HBMECC_CORR (s.hbmTile a) 0 + 1) ∧
      sameRegs [.MEM_HBMECC, .BAL_YSAVED, .YRD_FLIT] s t ∧ sameMem s t ∧ sameContexts s t := by
  have hshow : AllEff (Eff.showsIn [.MEM_HBMECC]) (hbmEvent a .corrected) := allEff_iff.2 fun v => by
    simp [hbmEvent, F.MEM_HBMECC_CORR]
  obtain ⟨hout, -, hget, hsame⟩ := hbmRead_answers hhbm hdev hown hshow (by decide) hst
  exact ⟨hout, (hget _ (by decide) _ _).trans (get_count (f := F.MEM_HBMECC_CORR) (by decide) _ 1), hsame⟩

theorem scrubPass_counted {p : Nat} (hst : SnapSame (s.then (hbmScrubPassX p)) t) :
    t.get F.MEM_HBMSCRUB_PASSES (s.servingTile p) 0 = min 0xFFFFFFFF (s.get F.MEM_HBMSCRUB_PASSES (s.servingTile p) 0 + 1) ∧
      sameRegs [.MEM_HBMSCRUB] s t ∧ sameMem s t ∧ sameContexts s t :=
  ⟨(hst.get _ _ _ (by decide)).trans (get_count (f := F.MEM_HBMSCRUB_PASSES) (by decide) _ 1),
    same_of_showsIn (allEff_iff.2 fun v => by simp [hbmScrubPassX, F.MEM_HBMSCRUB_PASSES]) hst⟩

/-! ## Words of a working store that cannot be corrected (R400) -/

theorem poisoned_spoil : (u.then (spoil (a / 64 * 64) 64)).poisoned a = true := by
  have hg : a / 64 ∈ granules (a / 64 * 64) 64 := by
    simpa using mem_granules (a := a / 64 * 64) (n := 64) (by decide)
  rw [State.poisoned, then_def, spoil, run_append]
  exact poison_marked hg

/-- The count and the record of such a word. -/
def wsUncorrected (k a : Nat) : Act := .seq [count F.MEM_WSECC_UNCORR k 1, memErr k 1 (a % wsSize / 16)]

theorem showsIn_memErr {code w : Nat} : Effs (Eff.showsIn [.MEM_ERRSTAT, .MEM_ERRCNT]) (memErr k code w u) := by
  simp [memErr, blockErr, F.MEM_ERRSTAT_ERR, F.MEM_ERRSTAT_CODE, F.MEM_ERRCNT_COUNT, F.MEM_ERRSTAT_WHERE]

theorem get_memErr {code w : Nat} (hc : code < 16) (hw : w < 2 ^ 22) :
    (u.then (memErr k code w)).get F.MEM_ERRSTAT_CODE k 0 = code ∧ (u.then (memErr k code w)).get F.MEM_ERRSTAT_WHERE k 0 = w := by
  have hthen : u.then (memErr k code w) = (u.run [.fld F.MEM_ERRSTAT_ERR k 0 1, .fld F.MEM_ERRSTAT_CODE k 0 code,
      .fld F.MEM_ERRSTAT_WHERE k 0 w]).then (count F.MEM_ERRCNT_COUNT k 1) := by
    rw [memErr, blockErr, then_seq_cons, then_seq_cons, then_seq_nil]
    rfl
  rw [hthen, get_count_ne (by decide) (.inl (by decide)), get_count_ne (by decide) (.inl (by decide))]
  constructor
  · exact (get_run_fld u (by decide) k 0 code [_] [_] (by simp [Eff.offF, F.MEM_ERRSTAT_WHERE, F.MEM_ERRSTAT_CODE])).trans (Nat.mod_eq_of_lt hc)
  · exact (get_run_fld u (by decide) k 0 w [_, _] [] (by simp)).trans (Nat.mod_eq_of_lt hw)

theorem showsIn_wsUncorrected : AllEff (Eff.showsIn [.MEM_WSECC, .MEM_ERRSTAT, .MEM_ERRCNT]) (wsUncorrected k a) := allEff_iff.2 fun v => by
  simp [wsUncorrected, F.MEM_WSECC_UNCORR, showsIn_memErr.mono fun _ => Eff.showsIn_mono (List.subset_cons_self Reg.MEM_WSECC _)]

theorem get_wsUncorrected : (u.then (wsUncorrected k a)).get F.MEM_WSECC_UNCORR k 0 = min 0xFFFF (u.get F.MEM_WSECC_UNCORR k 0 + 1) ∧
    (u.then (wsUncorrected k a)).get F.MEM_ERRSTAT_CODE k 0 = 1 ∧
    (u.then (wsUncorrected k a)).get F.MEM_ERRSTAT_WHERE k 0 = a % wsSize / 16 := by
  have hw : a % wsSize / 16 < 2 ^ 22 := by
    simp only [wsSize]
    omega
  rw [wsUncorrected, then_seq_cons, then_seq_cons, then_seq_nil]
  refine ⟨?_, get_memErr (by decide) hw⟩
  rw [get_of_showsIn (allEff_iff.2 fun _ => showsIn_memErr) (by decide)]
  exact get_count (f := F.MEM_WSECC_UNCORR) (by decide) _ 1

/-- What the lost word leaves of the registers and the contexts. -/
theorem left_by_spoil {c m : Nat} : (u.then (spoil c m)).regs = u.regs ∧ (u.then (spoil c m)).streams = u.streams ∧
    (u.then (spoil c m)).insts = u.insts ∧ (u.then (spoil c m)).tiles = u.tiles := by
  have hmarks (w : State) (gs : List Nat) : (w.run (gs.map fun g => .poison g true)).regs = w.regs ∧
      (w.run (gs.map fun g => .poison g true)).streams = w.streams ∧ (w.run (gs.map fun g => .poison g true)).insts = w.insts ∧
      (w.run (gs.map fun g => .poison g true)).tiles = w.tiles := by
    induction gs generalizing w with
    | nil => exact ⟨rfl, rfl, rfl, rfl⟩
    | cons g gs ih => exact ih _
  rw [then_def, spoil, run_append]
  obtain ⟨hregs, hstreams, hinsts, htiles⟩ := hmarks (u.run [.mem c (u.freeBytes m), .draw m]) (granules c m)
  exact ⟨hregs.trans (setBytes_regs u _ _), hstreams.trans (setBytes_streams u _ _), hinsts.trans (setBytes_insts u _ _),
    htiles.trans (setBytes_tiles u _ _)⟩

theorem then_wsEvent_uncorrectable : u.then (wsEvent k a .uncorrectable) = (u.then (spoil (a / 64 * 64) 64)).then (wsUncorrected k a) := by
  rw [wsEvent, wsUncorrected, then_seq_cons]

/-- The answer of a read leaves what it shows nothing of. -/
theorem left_by_answer {c bad : Bool} {bs : List Byte} : (∀ r, r ∉ [Reg.BAL_YSAVED, .YRD_FLIT] → ∀ j ix,
      (u.then (.when c (readAnswer q a n bs bad))).reg r j ix = u.reg r j ix) ∧
    (u.then (.when c (readAnswer q a n bs bad))).poison = u.poison ∧ (u.then (.when c (readAnswer q a n bs bad))).streams = u.streams ∧
    (u.then (.when c (readAnswer q a n bs bad))).insts = u.insts ∧ (u.then (.when c (readAnswer q a n bs bad))).tiles = u.tiles := by
  have hyard : AllEff (Eff.showsIn [.BAL_YSAVED, .YRD_FLIT]) (.opt (requesterTile q) fun j => yardReturn j a n) :=
    showsIn_forRequester fun _ _ => showsIn_yardReturn
  obtain ⟨-, hstreams, hinsts, htiles⟩ := contexts_of_showsIn (u := u) hyard
  cases c with
  | false => exact ⟨fun _ _ _ _ => rfl, rfl, rfl, rfl, rfl⟩
  | true =>
    rw [then_when, if_pos rfl, then_readAnswer]
    exact ⟨fun r hr j ix => reg_off u (hyard.mono fun _ he => Eff.off_of_showsIn hr he) j ix, poison_of_showsIn hyard, hstreams, hinsts, htiles⟩

theorem wsRead_uncorrectable (hws : wsTile a = some k) (hdev : s.isDevice a n = true)
    (hst : SnapSame (s.then (hbmReadX q own a n .uncorrectable)) t) :
    t.poisoned a = true ∧ t.get F.MEM_WSECC_UNCORR k 0 = min 0xFFFF (s.get F.MEM_WSECC_UNCORR k 0 + 1) ∧
      t.get F.MEM_ERRSTAT_CODE k 0 = 1 ∧ t.get F.MEM_ERRSTAT_WHERE k 0 = a % wsSize / 16 ∧
      sameRegs [.MEM_WSECC, .MEM_ERRSTAT, .MEM_ERRCNT, .BAL_YSAVED, .YRD_FLIT] s t ∧ sameContexts s t := by
  rw [then_hbmReadX hdev, hws, Option.elim_some, then_wsEvent_uncorrectable] at hst
  obtain ⟨hregs, hstreams, hinsts, htiles⟩ := left_by_spoil (u := s) (c := a / 64 * 64) (m := 64)
  obtain ⟨-, hstreams', hinsts', htiles'⟩ := contexts_of_showsIn (u := s.then (spoil (a / 64 * 64) 64)) (showsIn_wsUncorrected (k := k) (a := a))
  obtain ⟨hcount, hcode, hwhere⟩ := get_wsUncorrected (u := s.then (spoil (a / 64 * 64) 64)) (k := k) (a := a)
  obtain ⟨hreg, hpoison, hstreams'', hinsts'', htiles''⟩ := left_by_answer (u := (s.then (spoil (a / 64 * 64) 64)).then (wsUncorrected k a))
    (q := q) (a := a) (n := n) (c := ((s.then (spoil (a / 64 * 64) 64)).then (wsUncorrected k a)).epochOk own)
    (bs := ((s.then (spoil (a / 64 * 64) 64)).then (wsUncorrected k a)).bytes a n)
    (bad := ((s.then (spoil (a / 64 * 64) 64)).then (wsUncorrected k a)).poisonedIn a n)
  have hget {f : Fld} (hf : f.reg ∉ [Reg.SNP_CNT, .BAL_YSAVED, .YRD_FLIT]) (j ix : Nat) :
      t.get f j ix = ((s.then (spoil (a / 64 * 64) 64)).then (wsUncorrected k a)).get f j ix := by
    obtain ⟨hcnt, hsent⟩ : f.reg ≠ .SNP_CNT ∧ f.reg ∉ [Reg.BAL_YSAVED, .YRD_FLIT] := not_or.1 (mt List.mem_cons.2 hf)
    exact (hst.get f j ix hcnt).trans (congrArg (fun w => getBits w f.hi f.lo) (hreg _ hsent j ix))
  refine ⟨?_, ?_, (hget (by decide) k 0).trans hcode, (hget (by decide) k 0).trans hwhere, fun r hr j ix => ?_, fun id => ?_, fun i => ?_,
    fun j => ?_⟩
  · rw [State.poisoned, hst.poison, hpoison, poison_of_showsIn showsIn_wsUncorrected]
    exact poisoned_spoil
  · rw [hget (by decide) k 0, hcount, get_of_regs hregs]
  · obtain ⟨hcnt, hshown, hsent⟩ : r ≠ .SNP_CNT ∧ r ∉ [Reg.MEM_WSECC, .MEM_ERRSTAT, .MEM_ERRCNT] ∧ r ∉ [Reg.BAL_YSAVED, .YRD_FLIT] := by
      simpa [and_assoc] using hr
    rw [hst.reg r j ix hcnt, hreg r hsent, reg_off _ (showsIn_wsUncorrected.mono fun _ he => Eff.off_of_showsIn hshown he),
      reg_of_regs hregs]
  · rw [hst.stream, State.stream, hstreams'', hstreams', hstreams, ← State.stream]
  · rw [hst.inst, State.inst, hinsts'', hinsts', hinsts, ← State.inst]
  · rw [hst.tile, State.tile, htiles'', htiles', htiles, ← State.tile]

/-- Settles O30: a write stores, marks and is acknowledged, a read answers beside what it meets, and passes and lost words are counted. -/
theorem memoryPortsReadAndWrite : Obligations.MemoryPortsReadAndWrite :=
  ⟨fun _ _ _ _ _ _ _ hhbm hdev hown => done_holds fun _ hst => hbmWrite_applied hhbm hdev hown hst,
    fun s _ _ _ _ _ _ hhbm hdev hown => done_holds fun _ hst => by
      rw [then_hbmWriteX_stale hhbm hdev hown] at hst
      exact ⟨hst.out, fun r hr j ix => hst.reg r j ix fun h => hr (h ▸ .head _), hst.byte, hst.stream, hst.inst, hst.tile⟩,
    fun _ _ _ _ _ hhbm hdev hown => done_holds fun _ hst => hbmRead_clean hhbm hdev hown hst,
    fun _ _ _ _ _ hhbm hdev hown => done_holds fun _ hst => hbmRead_corrected hhbm hdev hown hst,
    fun _ _ => done_holds fun _ hst => scrubPass_counted hst,
    fun _ _ _ _ _ _ hws hdev => done_holds fun _ hst => wsRead_uncorrectable hws hdev hst⟩

end Sys2Proof.Machine
end

section
/-! What requests, units and the ends of messages leave of the links (R373 to R381): the lanes of the ports, the answers that a peer's
messages had, and the frames that a path holds. Step by step, from a message that is sent up to the requests of a peer. -/
namespace Sys2Proof.Machine

/-- What a peer has sent: the answers kept for duplicates, and the frames held on each path. -/
def MvPeer.received (r : MvPeer) : List (Nat × List Byte) × List (List MvFrame) := (r.seen, r.links.map (·.held))

/-- The registers of the ports' lanes. -/
@[simp] def laneRegs : List Reg := [.LNK_LANESTAT, .LNK_QUADCFG]

/-- The effect leaves the lanes of the ports alone, and what each peer has sent. -/
@[simp] def Eff.keepsLink : Eff → Prop
  | .fld f _ _ _ | .countU f _ _ _ _ => f.reg ∉ laneRegs
  | .word r _ _ _ => r ∉ laneRegs
  | .resetRegs p => ∀ k : RegKey, k.reg ∈ laneRegs → p k = false
  | .pkg f => ∀ p e, (mapGet id {} (f p).peers e).received = (mapGet id {} p.peers e).received
  | _ => True

variable {u : State}

theorem received_of_keepsLink {a : Act} (h : AllEff Eff.keepsLink a) (e : Nat) : ((u.then a).peer e).received = (u.peer e).received := by
  refine run_keeps u (a u) (P := fun w => (w.peer e).received = (u.peer e).received) (fun w hw x hx => ?_) rfl
  cases x with
  | pkg f => exact (h u _ hx w.pkg e).trans hw
  | mem a bs => simpa [State.peer, Eff.run] using hw
  | _ => exact hw

/-! ## Peers and messages -/

/-- A peer after another, or the same, is replaced. -/
theorem mapGet_putPeer (ps : List (Nat × MvPeer)) (e e' : Nat) (r : MvPeer) :
    mapGet id {} (mapPut id {} ps e r) e' = if e = e' then r else mapGet id {} ps e' := mapGet_mapPut id {} {} ps e e' r fun _ => rfl

theorem peer_updPeer {f : MvPeer → MvPeer} {e e' : Nat} :
    (u.then (updPeer e f)).peer e' = if e = e' then f (u.peer e) else u.peer e' := mapGet_putPeer u.pkg.peers e e' _

@[simp] theorem keepsLink_updPeer {f : MvPeer → MvPeer} {e : Nat} (hf : ∀ r, (f r).received = r.received) :
    Effs Eff.keepsLink (updPeer e f u) := effs_updP.2 fun p e' => by
  refine (congrArg MvPeer.received (mapGet_putPeer p.peers e e' _)).trans ?_
  split
  · next h => exact h ▸ hf _
  · rfl

@[simp] theorem keepsLink_updMsgs {g : MvPeer → List MvMsg} {e : Nat} :
    Effs Eff.keepsLink (updPeer e (fun r => { r with msgs := g r }) u) := keepsLink_updPeer fun _ => rfl

/-- A link in which the held frames stay. -/
theorem received_link {r : MvPeer} {p : Nat} {l : MvLink} (hl : l.held = (r.links.getD p {}).held) :
    { r with links := setAt r.links p l }.received = r.received := by
  refine Prod.ext rfl ?_
  simp only [MvPeer.received, setAt, List.map_set, hl]
  by_cases hp : p < r.links.length
  · have hheld : (r.links.getD p {}).held = (r.links.map (·.held))[p]'(by simpa using hp) := by simp [hp]
    rw [hheld, List.set_getElem_self]
  · exact List.set_eq_of_length_le (by simpa using hp)

@[simp] theorem keepsLink_updLink {f : MvLink → MvLink} {e p : Nat} (hf : ∀ l, (f l).held = l.held) :
    Effs Eff.keepsLink (updLink e p f u) := keepsLink_updPeer fun _ => received_link (hf _)

@[simp] theorem keepsLink_blockErr {err code cnt : Fld} {t c : Nat} {more : List (Fld × Nat)} :
    Effs Eff.keepsLink (blockErr err code cnt t c more u) ↔ err.reg ∉ laneRegs ∧ code.reg ∉ laneRegs ∧
      (∀ e ∈ more, e.1.reg ∉ laneRegs) ∧ cnt.reg ∉ laneRegs := by
  simp [blockErr, and_assoc]

theorem condCounter_not_lanes {st : Nat} {f : Fld} (h : condCounter st = some f) : f.reg ∉ laneRegs := by
  unfold condCounter at h
  split at h <;> cases h <;> decide

/-- A slot's registers, the lanes' not among them, return to their reset words. -/
theorem keepsLink_resetSlot {t ix : Nat} {rs : List Reg} (h : ∀ r ∈ rs, r ∉ laneRegs) :
    (Eff.resetRegs fun k => k.inTile t && k.atIx ix && rs.contains k.reg).keepsLink := by
  intro k hk
  have hno : rs.contains k.reg = false := Bool.eq_false_iff.2 fun hc => h _ (List.contains_iff_mem.1 hc) hk
  show (_ && rs.contains k.reg) = false
  rw [hno, Bool.and_false]

@[simp] theorem keepsLink_lnkErr {t code id port : Nat} : Effs Eff.keepsLink (lnkErr t code id port u) := by
  simp +decide [lnkErr]

@[simp] theorem keepsLink_poisonWrite {a n : Nat} {pz : Nat → Bool} : Effs Eff.keepsLink (poisonWrite a n pz u) := by
  intro e he
  obtain ⟨g, _, hg⟩ := List.mem_filterMap.1 he
  split_ifs at hg <;> cases hg <;> trivial

@[simp] theorem keepsLink_memWriteG {a : Nat} {bs : List Byte} {pz : Nat → Bool} {ask : Bool} :
    Effs Eff.keepsLink (memWriteG a bs pz ask u) := by
  simp +decide [memWriteG, baleBlock, wcInvalidate]

@[simp] theorem keepsLink_memWrite {a : Nat} {bs : List Byte} {pz ask : Bool} : Effs Eff.keepsLink (memWrite a bs pz ask u) :=
  keepsLink_memWriteG

@[simp] theorem keepsLink_memWriteFrom {t a : Nat} {bs : List Byte} {pz ask : Bool} :
    Effs Eff.keepsLink (memWriteFrom t a bs pz ask u) := by
  simp +decide [memWriteFrom, yardSend, yardPacket]

@[simp] theorem keepsLink_putBytes {n a : Nat} {bs : List Byte} {pz : Bool} : Effs Eff.keepsLink (putBytes n a bs pz u) := by
  unfold putBytes
  split
  · split <;> simp
  · simp

@[simp] theorem keepsLink_putPieces {t n : Nat} {pz ask : Bool} {ps : List Block} {bs : List Byte} :
    Effs Eff.keepsLink (putPieces t n pz ask ps bs u) := by
  induction ps generalizing bs u with
  | nil => exact effs_none
  | cons p ps ih => simp [putPieces, piecePut, ih]

@[simp] theorem keepsLink_mvPut {e path : Nat} {m : MvMsg} : Effs Eff.keepsLink (mvPut e path m u) := by
  simp [mvPut]

@[simp] theorem keepsLink_mvSend {e mtype inst epoch id : Nat} {bs : List Byte} {pz : Bool} {ctx : MvCtx} :
    Effs Eff.keepsLink (mvSend e mtype inst epoch id bs pz ctx .none u) := by
  unfold mvSend mvSendAs
  dsimp only
  split <;> simp

@[simp] theorem keepsLink_cqPush {t r : Nat} {c : Cpl} : Effs Eff.keepsLink (cqPush t r c u) := by
  simp +decide [cqPush, cqWrite]

@[simp] theorem keepsLink_deliver {o : Origin} {c : Cpl} : Effs Eff.keepsLink (deliver o c u) := by
  cases o <;> simp [deliver]

@[simp] theorem keepsLink_updW {n id : Nat} {ctl : Bool} {f : Window → Window} : Effs Eff.keepsLink (updW n ctl id f u) := by
  simp [updW]

@[simp] theorem keepsLink_completeReq {n st id digest : Nat} {r : LiveReq} : Effs Eff.keepsLink (completeReq n r st id digest u) := by
  simp [completeReq]

@[simp] theorem keepsLink_completeHeld {n st id digest : Nat} {r : LiveReq} : Effs Eff.keepsLink (completeHeld n r st id digest u) := by
  simp [completeHeld]

@[simp] theorem keepsLink_workRecord {id frame st digest : Nat} : Effs Eff.keepsLink (workRecord id frame st digest u) := by
  simp [workRecord]

@[simp] theorem keepsLink_countConditions {id : Nat} {l : List Nat} : Effs Eff.keepsLink (countConditions id l u) :=
  effs_each fun st v => by simpa using fun f => condCounter_not_lanes (st := st)

@[simp] theorem keepsLink_syncLive {id : Nat} : Effs Eff.keepsLink (syncLive id u) := by
  simp +decide [syncLive]

@[simp] theorem keepsLink_finishLive {id t q slot st digest : Nat} : Effs Eff.keepsLink (finishLive id t q slot st digest u) := by
  simp [finishLive, updLive]

@[simp] theorem keepsLink_finishItem {t st digest : Nat} {it : Item} {conds : List Nat} :
    Effs Eff.keepsLink (finishItem t it st digest conds u) := by
  simp [finishItem, dropItem]

@[simp] theorem keepsLink_addLive {id : Nat} {i : LiveItem} : Effs Eff.keepsLink (addLive id i u) := by
  simp [addLive]

@[simp] theorem keepsLink_enqueue {t q id flags : Nat} {bs : List Byte} {req : Option LiveReq} :
    Effs Eff.keepsLink (enqueue t q id bs flags req u) := by
  simp +decide [enqueue, syncResident]

@[simp] theorem keepsLink_stageBarrier {id : Nat} : Effs Eff.keepsLink (stageBarrier id u) := by
  simp [stageBarrier]

@[simp] theorem keepsLink_egressPump {id : Nat} : Effs Eff.keepsLink (egressPump id u) := by
  simp [egressPump]

@[simp] theorem keepsLink_syncTsets {t : Nat} : Effs Eff.keepsLink (syncTsets t u) := by
  simp +decide [syncTsets]

@[simp] theorem keepsLink_syncPins : Effs Eff.keepsLink (syncPins u) := by
  simp [syncPins]

@[simp] theorem keepsLink_syncMpres {t : Nat} : Effs Eff.keepsLink (syncMpres t u) := by
  simp +decide [syncMpres]

@[simp] theorem keepsLink_syncFences {n : Nat} : Effs Eff.keepsLink (syncFences n u) :=
  effs_each fun t v => by simp +decide [syncFence]

@[simp] theorem keepsLink_syncAdapt {id : Nat} : Effs Eff.keepsLink (syncAdapt id u) := by
  simp +decide [syncAdapt]

@[simp] theorem keepsLink_syncFlows {t : Nat} : Effs Eff.keepsLink (syncFlows t u) := by
  simp +decide [syncFlows]

@[simp] theorem keepsLink_updLsc {id : Nat} {f : Lsc → Lsc} : Effs Eff.keepsLink (updLsc id f u) := by
  simp [updLsc]

@[simp] theorem keepsLink_updFrame {id frame : Nat} {g : LscFrame → LscFrame} : Effs Eff.keepsLink (updFrame id frame g u) :=
  keepsLink_updLsc

@[simp] theorem keepsLink_putOutput {t id : Nat} {bs : List Byte} {pz ask : Bool} : Effs Eff.keepsLink (putOutput t id bs pz ask u) := by
  unfold putOutput
  dsimp only
  split <;> simp [writeBuf]

@[simp] theorem keepsLink_unitsOut {id frame : Nat} {bs : List Byte} : Effs Eff.keepsLink (unitsOut id frame bs u) := by
  simp [unitsOut]

@[simp] theorem keepsLink_keyRequest {id : Nat} : Effs Eff.keepsLink (keyRequest id u) := by
  simp +decide [keyRequest]

@[simp] theorem keepsLink_putTensor {p : Prog} {li r q k : Nat} {v : Int} {bad : Bool} :
    Effs Eff.keepsLink (putTensor p li r q k v bad u) := by
  unfold putTensor
  split <;> simp

@[simp] theorem keepsLink_remake {p : Prog} {id ix j0 j1 : Nat} {f : LscFrame} {all bare : Bool} :
    Effs Eff.keepsLink (remake p id f ix j0 j1 all bare u) := by
  refine effs_each fun li v => effs_opt.2 fun l _ => effs_each fun e w => effs_each fun r x => ?_
  simp [remakeAt, putBlock, putPos]

@[simp] theorem keepsLink_decFences {id frame : Nat} : Effs Eff.keepsLink (decFences id frame u) := by
  unfold decFences
  split
  · simp
  · split
    · simp
    · refine effs_each fun l v => effs_each fun e w => ?_
      simp

@[simp] theorem keepsLink_lostMeans {id frame : Nat} : Effs Eff.keepsLink (lostMeans id frame u) := by
  unfold lostMeans
  dsimp only
  repeat' split
  all_goals simp

@[simp] theorem keepsLink_zeroPlot {id : Nat} {f : LscFrame} {e : Prog × Nat × Nat × Nat} {p : PlotSt} :
    Effs Eff.keepsLink (zeroPlot id f e p u) := by
  simp [zeroPlot]

@[simp] theorem keepsLink_sendRefresh {id frame reason : Nat} {isNew : Bool} :
    Effs Eff.keepsLink (sendRefresh id frame reason isNew u) := by
  unfold sendRefresh
  dsimp only
  split
  · simp
  · cases (u.stream id).lsc.fromPeer <;> simp +decide

@[simp] theorem keepsLink_repeatRefresh {id frame : Nat} : Effs Eff.keepsLink (repeatRefresh id frame u) := by
  unfold repeatRefresh
  dsimp only
  split <;> simp

@[simp] theorem keepsLink_decEvent {id reason : Nat} {f : LscFrame} : Effs Eff.keepsLink (decEvent id f reason u) := by
  simp +decide [decEvent]

@[simp] theorem keepsLink_decAdvance {id : Nat} : Effs Eff.keepsLink (decAdvance id u) := by
  unfold decAdvance
  split
  · simp
  · split
    · simp
    · split <;> simp

@[simp] theorem keepsLink_smvErr {t code id : Nat} : Effs Eff.keepsLink (smvErr t code id u) := by
  simp +decide [smvErr]

@[simp] theorem keepsLink_updSce {id : Nat} {f : Sce → Sce} : Effs Eff.keepsLink (updSce id f u) := by
  simp [updSce]

@[simp] theorem keepsLink_sceKeyRequest {id : Nat} : Effs Eff.keepsLink (sceKeyRequest id u) := by
  simp +decide [sceKeyRequest]

@[simp] theorem keepsLink_putPicture {t base pitch : Nat} {rows : List (Nat × Nat)} {bs : List Byte} :
    Effs Eff.keepsLink (putPicture t base pitch rows bs u) := by
  induction rows generalizing bs u with
  | nil => exact effs_none
  | cons e es ih => simp [putPicture, ih]

@[simp] theorem keepsLink_sceDrain {id : Nat} : Effs Eff.keepsLink (sceDrain id u) := by
  simp [sceDrain, sceDiscard, sceOutput]

@[simp] theorem keepsLink_sceFlush {id : Nat} : Effs Eff.keepsLink (sceFlush id u) := by
  simp [sceFlush, scePump]

@[simp] theorem keepsLink_sceOpen {id : Nat} : Effs Eff.keepsLink (sceOpen id u) := by
  unfold sceOpen
  refine effs_seq_cons.2 ⟨effs_cons.2 ⟨keepsLink_resetSlot (by decide), effs_nil⟩, ?_⟩
  simp +decide

@[simp] theorem keepsLink_lscEncOpen {id : Nat} : Effs Eff.keepsLink (lscEncOpen id u) := by
  unfold lscEncOpen
  split <;> simp +decide

@[simp] theorem keepsLink_lscDecOpen {id : Nat} : Effs Eff.keepsLink (lscDecOpen id u) := by
  simp +decide [lscDecOpen]

@[simp] theorem keepsLink_closeFrame {id : Nat} : Effs Eff.keepsLink (closeFrame id u) := by
  unfold closeFrame
  split <;> simp

@[simp] theorem keepsLink_updHead {id : Nat} {f : Head → Head} : Effs Eff.keepsLink (updHead id f u) := by
  simp [updHead]

@[simp] theorem keepsLink_endWindow {id reason st : Nat} {w : AdaptWin} : Effs Eff.keepsLink (endWindow id w reason st u) := by
  simp +decide [endWindow]

@[simp] theorem keepsLink_closeHead {id : Nat} : Effs Eff.keepsLink (closeHead id u) := by
  simp [closeHead]

@[simp] theorem keepsLink_updIng {id : Nat} {f : Ing → Ing} : Effs Eff.keepsLink (updIng id f u) := by
  simp [updIng]

@[simp] theorem keepsLink_dirRegister {id : Nat} : Effs Eff.keepsLink (dirRegister id u) := by
  have happly (m : DirMsg) : Effs Eff.keepsLink (dirApply m u) := by
    cases m <;> simp [dirApply]
  simp [dirRegister, dirSend, happly]

@[simp] theorem keepsLink_openSlot {n epoch id : Nat} {p : List Byte} : Effs Eff.keepsLink (openSlot n epoch id p u) := by
  unfold openSlot
  refine effs_seq_cons.2 ⟨by simp, effs_seq_cons.2 ⟨effs_cons.2 ⟨keepsLink_resetSlot (by decide), effs_nil⟩, ?_⟩⟩
  simp +decide [headOpen]

@[simp] theorem keepsLink_openRun {n : Nat} {r : LiveReq} {p : List Byte} : Effs Eff.keepsLink (openRun n r p u) := by
  unfold openRun
  dsimp only
  split <;> simp

@[simp] theorem keepsLink_closeRun {n : Nat} {r : LiveReq} {p : List Byte} : Effs Eff.keepsLink (closeRun n r p u) := by
  simp +decide [closeRun, dropFlow]

@[simp] theorem keepsLink_orphan {id : Nat} : Effs Eff.keepsLink (orphan id u) := by
  simp +decide [orphan]

@[simp] theorem keepsLink_refuseHeader {id frame st : Nat} : Effs Eff.keepsLink (refuseHeader id frame st u) := by
  simp +decide [refuseHeader]

@[simp] theorem keepsLink_decHeader {id : Nat} {o : Osf} : Effs Eff.keepsLink (decHeader id o u) := by
  unfold decHeader
  simp only [effs_seq_cons, effs_seq_nil, effs_read, and_true]
  refine ⟨by simp, by simp +decide [applyRegs], ?_⟩
  generalize State.then _ _ = v
  refine effs_ite_act.2 ⟨fun _ => keepsLink_refuseHeader, fun _ => ?_⟩
  generalize Option.filter _ _ = named
  cases named <;> simp +decide

@[simp] theorem keepsLink_finalFrame {id st : Nat} {o : Osf} : Effs Eff.keepsLink (finalFrame id o st u) := keepsLink_updLsc

@[simp] theorem keepsLink_decFrame {id : Nat} {o : Osf} : Effs Eff.keepsLink (decFrame id o u) := by
  simp [decFrame]

@[simp] theorem keepsLink_decPlot {id : Nat} {o : Osf} {pz : Bool} : Effs Eff.keepsLink (decPlot id o pz u) := by
  unfold decPlot
  dsimp only
  split <;> simp +decide

@[simp] theorem keepsLink_decUnit {id : Nat} {pz : Bool} {o : Osf} : Effs Eff.keepsLink (decUnit id pz o u) := by
  unfold decUnit
  dsimp only
  cases (u.stream id).lsc.refused <;> simp +decide

@[simp] theorem keepsLink_osfRx {id : Nat} {peer : Option Nat} {pz : Bool} {bs : List Byte} :
    Effs Eff.keepsLink (osfRx id peer pz bs u) := by
  unfold osfRx
  dsimp only
  split
  · exact effs_nil
  · refine effs_seq_cons.2 ⟨by simp, effs_seq_cons.2 ⟨effs_each fun o v => ?_, effs_seq_nil⟩⟩
    cases o <;> simp +decide [encUnit]

@[simp] theorem keepsLink_loadprogRun {n : Nat} {p : List Byte} {k : Nat → Act} (hk : ∀ e v, Effs Eff.keepsLink (k e v)) :
    Effs Eff.keepsLink (loadprogRun n p k u) := by
  unfold loadprogRun
  split <;> simp [hk]

@[simp] theorem keepsLink_unloadprogRun {n : Nat} {p : List Byte} {k : Nat → Act} (hk : ∀ e v, Effs Eff.keepsLink (k e v)) :
    Effs Eff.keepsLink (unloadprogRun n p k u) := by
  unfold unloadprogRun
  dsimp only
  split
  · exact hk _ _
  · split <;> simp +decide [hk, tsetDrop]

@[simp] theorem keepsLink_submitTo {n t q flags : Nat} {r : LiveReq} {bs : List Byte} :
    Effs Eff.keepsLink (submitTo n r t q bs flags u) := by
  simp [submitTo]

@[simp] theorem keepsLink_inputRun {n : Nat} {r : LiveReq} {p : List Byte} : Effs Eff.keepsLink (inputRun n r p u) := by
  unfold inputRun
  dsimp only
  split
  · simp
  · split <;> simp

@[simp] theorem keepsLink_submitRun {n : Nat} {r : LiveReq} {p : List Byte} : Effs Eff.keepsLink (submitRun n r p u) := by
  unfold submitRun
  dsimp only
  split
  · simp
  · split <;> simp

@[simp] theorem keepsLink_execute {n opc : Nat} {r : LiveReq} {p : List Byte} : Effs Eff.keepsLink (execute n opc r p u) := by
  simp [execute, barrierRun, keyreqRun, adaptRun, adaptQueue, revertRun, revertHead]

@[simp] theorem keepsLink_answer {o : Origin} {opc st : Nat} {h : ReqHdr} {p : List Byte} :
    Effs Eff.keepsLink (answer o opc h p st u) := keepsLink_deliver

@[simp] theorem keepsLink_duplicate {o : Origin} {opc : Nat} {h : ReqHdr} {p : List Byte} {e : WinEntry} :
    Effs Eff.keepsLink (duplicate o opc h p e u) := by
  cases hd : e.done <;> simp +decide [duplicate, hd]

@[simp] theorem keepsLink_accept {o : Origin} {opc : Nat} {h : ReqHdr} {p : List Byte} {newer : Bool} :
    Effs Eff.keepsLink (accept o opc h p newer u) := by
  simp +decide [accept]

@[simp] theorem keepsLink_handleRequest {o : Origin} {opc : Nat} {h : ReqHdr} {p : List Byte} :
    Effs Eff.keepsLink (handleRequest o opc h p u) := by
  unfold handleRequest
  dsimp only
  split
  · simp
  · split
    · simp
    · split
      · simp
      · split
        · simp
        · split <;> simp

@[simp] theorem keepsLink_freeXfer {t tag : Nat} : Effs Eff.keepsLink (freeXfer t tag u) := by
  simp +decide [freeXfer, syncTags]

@[simp] theorem keepsLink_leaveFlight {n : Nat} : Effs Eff.keepsLink (leaveFlight n u) := by
  simp +decide [leaveFlight]

@[simp] theorem keepsLink_updItem {t q slot : Nat} {f : Item → Item} : Effs Eff.keepsLink (updItem t q slot f u) := by
  simp [updItem]

@[simp] theorem keepsLink_settleItem {t q slot : Nat} : Effs Eff.keepsLink (settleItem t q slot u) := by
  unfold settleItem
  split <;> simp

@[simp] theorem keepsLink_writeSettled {t : Nat} {x : Xfer} : Effs Eff.keepsLink (writeSettled t x u) := by
  simp [writeSettled, updLive]

@[simp] theorem keepsLink_erPush {t n : Nat} {c : Cpl} : Effs Eff.keepsLink (erPush t n c u) := by
  simp +decide [erPush, erWrite]

@[simp] theorem keepsLink_yardSend {t a : Nat} {bs : List Byte} {pz : Bool} : Effs Eff.keepsLink (yardSend t a bs pz u) := by
  simp +decide [yardSend, yardPacket]

@[simp] theorem keepsLink_writeDone {t st : Nat} {x : Xfer} : Effs Eff.keepsLink (writeDone t x st u) := by
  simp +decide [writeDone, writeFailed]

@[simp] theorem keepsLink_egressDone {t slot st : Nat} : Effs Eff.keepsLink (egressDone t slot st u) := by
  unfold egressDone
  split <;> simp +decide [countEgress]

@[simp] theorem keepsLink_msgEnd {e st : Nat} {m : MvMsg} {here : Bool} : Effs Eff.keepsLink (msgEnd e m st here u) := by
  unfold msgEnd
  refine effs_seq_cons.2 ⟨keepsLink_updMsgs, effs_seq_cons.2 ⟨?_, effs_seq_nil⟩⟩
  rw [effs_read]
  cases m.ctx <;> simp +decide [countEgress]

end Sys2Proof.Machine
end

section
/-! Ports, service frames, the PTP clock, and the commands of the engines and the host link (R346 to R354, R371, R372, R427, R437): where
each completes and the first effect that its rule gives; and the obligation. -/
namespace Sys2Proof.Machine
open Sys2Proof.Say

variable {s u : State} {b : Act} {k p v j : Nat}

/-! ## Masks -/

/-- A number is its bits in a mask and its bits beside it. -/
theorem and_add_ldiff (w m : Nat) : (w &&& m) + Nat.ldiff w m = w := by
  induction w using Nat.binaryRec generalizing m with
  | zero =>
    have hzero : Nat.ldiff 0 m = 0 := Nat.eq_of_testBit_eq (by simp [Nat.testBit_ldiff])
    simp [hzero]
  | bit b n ih =>
    obtain ⟨c, k, rfl⟩ : ∃ c k, m = Nat.bit c k := ⟨_, _, (Nat.bit_testBit_zero_shiftRight_one m).symm⟩
    have hrest := ih k
    rw [Nat.land_bit, Nat.ldiff_bit, Nat.bit_val, Nat.bit_val, Nat.bit_val]
    cases b <;> cases c <;> simp <;> omega

theorem and_sub_and (w m : Nat) : m &&& (w - (w &&& m)) = 0 := by
  have hrest : w - (w &&& m) = Nat.ldiff w m := by
    have hsum := and_add_ldiff w m
    omega
  rw [hrest]
  exact Nat.eq_of_testBit_eq fun i => by
    rw [Nat.testBit_and, Nat.testBit_ldiff]
    cases m.testBit i <;> simp

theorem covers_iff {m w : Nat} : covers m w = true ↔ m ≠ 0 ∧ m &&& w = m := by simp [covers]

/-- A mask that a word of a field covers fits the field. -/
theorem lt_of_covers {m w n : Nat} (h : covers m w = true) (hw : w < 2 ^ n) : m < 2 ^ n := by
  obtain ⟨-, hand⟩ := covers_iff.1 h
  exact hand ▸ Nat.and_lt_two_pow m hw

/-! ## Lanes -/

theorem portTile_of_lt (hp : p < 80) : s.portTile p = linkTile (p / 8) := if_neg (by simp only [mgmtPort]; omega)

theorem portInService_iff : s.portInService p = true ↔
    p < 80 ∧ s.inService (s.portTile p) = true ∧ covers (s.portMask p) (s.get F.LNK_LANESTAT_INSVC (s.portTile p) 0) = true := by
  simp [State.portInService, and_assoc]

/-- The port's lanes come from the mode of its quad. -/
theorem portMask_congr (hp : p < 80) (hq : ∀ j, u.reg .LNK_QUADCFG j 0 = s.reg .LNK_QUADCFG j 0) : u.portMask p = s.portMask p := by
  have hget (f : Fld) (hf : f.reg = .LNK_QUADCFG) (j : Nat) : u.get f j 0 = s.get f j 0 := by
    rw [State.get, State.get, hf, hq]
  have hmode : u.get (if p % 8 < 4 then F.LNK_QUADCFG_MODE0 else F.LNK_QUADCFG_MODE1) (linkTile (p / 8)) 0 =
      s.get (if p % 8 < 4 then F.LNK_QUADCFG_MODE0 else F.LNK_QUADCFG_MODE1) (linkTile (p / 8)) 0 := hget _ (by split <;> rfl) _
  simp only [State.portMask, portTile_of_lt hp, hmode]

theorem then_portLanes (p : Nat) (on : Bool) : s.then (portLanes p on) =
    (s.then (setMask F.LNK_LANESTAT_UP (s.portTile p) (s.portMask p) on)).then
      (setMask F.LNK_LANESTAT_LOCK (s.portTile p) (s.portMask p) on) := by
  have hseq : s.then (portLanes p on) = s.then (.seq [setMask F.LNK_LANESTAT_UP (s.portTile p) (s.portMask p) on,
      setMask F.LNK_LANESTAT_LOCK (s.portTile p) (s.portMask p) on]) := then_congr (by simp only [portLanes])
  rw [hseq, then_seq_cons, then_seq_cons, then_seq_nil]

theorem showsIn_portLanes {on : Bool} : AllEff (Eff.showsIn [.LNK_LANESTAT]) (portLanes p on) := allEff_iff.2 fun v => by
  simp [portLanes, setMask, F.LNK_LANESTAT_UP, F.LNK_LANESTAT_LOCK]

/-- The lanes' links as a port that comes up, or goes down, leaves them. -/
theorem get_up_portLanes (on : Bool) : (s.then (portLanes p on)).get F.LNK_LANESTAT_UP (s.portTile p) 0 =
    (if on then s.get F.LNK_LANESTAT_UP (s.portTile p) 0 ||| s.portMask p else
      s.get F.LNK_LANESTAT_UP (s.portTile p) 0 - (s.get F.LNK_LANESTAT_UP (s.portTile p) 0 &&& s.portMask p)) % 2 ^ 8 := by
  rw [then_portLanes]
  exact (get_setF_ne _ _ _ _ _ _ _ _ (by decide) (.inr (.inr (by decide)))).trans (get_then_setF s _ _ _ (by decide))

theorem get_insvc_portLanes (on : Bool) : (s.then (portLanes p on)).get F.LNK_LANESTAT_INSVC k 0 = s.get F.LNK_LANESTAT_INSVC k 0 := by
  rw [then_portLanes]
  exact (get_setF_ne _ _ _ _ _ _ _ _ (by decide) (.inr (.inr (by decide)))).trans
    (get_setF_ne s _ _ _ _ _ _ _ (by decide) (.inr (.inr (by decide))))

/-! ## Ports that come up -/

theorem portLinkUp_up (hin : s.portInService p = true) (hon : s.isOn .lnk (s.portTile p) = true) :
    gives (.portLinkUp p) s fun t => t.portUp p = true := by
  obtain ⟨hp, hserv, hcov⟩ := portInService_iff.1 hin
  have hthen : s.then (portLinkUpX p) = s.then (portLanes p true) := then_congr (by simp [portLinkUpX, hin, hon, Act.when])
  refine done_holds fun t hst => ?_
  rw [hthen] at hst
  have hget (f : Fld) (hf : f.reg ∉ [Reg.SNP_CNT, .LNK_LANESTAT]) (j ix : Nat) : t.get f j ix = s.get f j ix := by
    obtain ⟨hcnt, hlanes⟩ : f.reg ≠ .SNP_CNT ∧ f.reg ≠ .LNK_LANESTAT := by simpa using hf
    exact (hst.get f j ix hcnt).trans (get_of_showsIn showsIn_portLanes (by simpa using hlanes) j ix)
  have hboot : t.pkg.boot = s.pkg.boot := by rw [hst.pkg_rest, pkg_of_showsIn showsIn_portLanes]
  have hserv' (j : Nat) : t.inService j = s.inService j := by
    simp only [State.inService, hboot, hget F.MGT_TILEMAP_LO_INSVC (by decide), hget F.MGT_TILEMAP_HI_INSVC (by decide)]
  have hon' (j : Nat) : t.isOn .lnk j = s.isOn .lnk j := by
    simp only [State.isOn, State.tileRuns, hserv', ctlState, hget F.LNK_CTL_STATE (by decide), hget F.MGT_SLPSTAT_STATE (by decide),
      hget F.PRT_TRST_BUSY (by decide), hget F.MGT_PWRSTAT_TRIP (by decide)]
  have hmask : t.portMask p = s.portMask p := portMask_congr hp fun j =>
    (hst.reg _ _ _ (by decide)).trans (reg_off s (showsIn_portLanes.mono fun _ he => Eff.off_of_showsIn (by decide) he) j 0)
  have htile : t.portTile p = s.portTile p := by rw [portTile_of_lt hp, portTile_of_lt hp]
  have hinsvc : t.get F.LNK_LANESTAT_INSVC (s.portTile p) 0 = s.get F.LNK_LANESTAT_INSVC (s.portTile p) 0 :=
    (hst.get _ _ _ (by decide)).trans (get_insvc_portLanes true)
  have hup : covers (s.portMask p) (t.get F.LNK_LANESTAT_UP (s.portTile p) 0) = true := by
    have hlt : s.get F.LNK_LANESTAT_UP (s.portTile p) 0 ||| s.portMask p < 2 ^ 8 :=
      Nat.or_lt_two_pow (getBits_lt _ _ _) (lt_of_covers hcov (getBits_lt _ _ _))
    rw [hst.get _ _ _ (by decide), get_up_portLanes, if_pos rfl, Nat.mod_eq_of_lt hlt, covers_iff, Nat.or_comm]
    exact ⟨(covers_iff.1 hcov).1, Nat.eq_of_testBit_eq fun i => by simpa using .inl⟩
  simp only [State.portUp, State.portInService, htile, hmask, hserv', hon', hinsvc, hup]
  simp [hp, hserv, hcov, hon]

/-! ## Ports that go down -/

theorem Eff.off_of_keepsLink {r : Reg} (hr : r ∈ laneRegs) {e : Eff} (h : e.keepsLink) : e.off r := by
  cases e with
  | fld f | countU f | word f => exact fun hf => h (hf ▸ hr)
  | resetRegs p => exact fun k hk => h k (hk ▸ hr)
  | _ => trivial

theorem off_lnkErr {r : Reg} (hr : r ∈ laneRegs) {code id port : Nat} : Effs (Eff.off r) (lnkErr k code id port u) :=
  keepsLink_lnkErr.mono fun _ => Eff.off_of_keepsLink hr

/-- The paths of a port go down without its lanes. -/
theorem off_pathDown {r : Reg} (hr : r ∈ laneRegs) {e : Nat} : Effs (Eff.off r) (pathDown e p u) := by
  have hkeep {l : List Eff} (h : Effs Eff.keepsLink l) : Effs (Eff.off r) l := h.mono fun _ => Eff.off_of_keepsLink hr
  have hmsg (m : MvMsg) (v : State) : Effs (Eff.off r) (msgPathDown e p m v) := by
    unfold msgPathDown
    split
    · exact hkeep keepsLink_msgEnd
    · exact hkeep (effs_seq_cons.2 ⟨keepsLink_updMsgs, by simp⟩)
  simp [pathDown, hmsg, off_lnkErr hr, updLink, updPeer, Eff.off]

theorem off_portPathsDown {r : Reg} (hr : r ∈ laneRegs) : AllEff (Eff.off r) (portPathsDown p) := allEff_iff.2 fun v =>
  effs_each fun e w => effs_each fun i x => by simp [off_pathDown hr]

theorem portLinkDown_down (hin : s.portInService p = true) : gives (.portLinkDown p) s fun t => t.portUp p = false := by
  obtain ⟨hp, -, hcov⟩ := portInService_iff.1 hin
  have hthen : s.then (portLinkDownX p) = (s.then (portLanes p false)).then (portPathsDown p) :=
    (then_congr (b := portDown p) (by simp [portLinkDownX, hin, Act.when])).trans (by rw [portDown, then_seq_cons, then_seq_cons, then_seq_nil])
  refine done_holds fun t hst => ?_
  rw [hthen] at hst
  have hmask : t.portMask p = s.portMask p := portMask_congr hp fun j => (hst.reg _ _ _ (by decide)).trans
    ((reg_off _ (off_portPathsDown (by decide)) j 0).trans
      (reg_off s (showsIn_portLanes.mono fun _ he => Eff.off_of_showsIn (by decide) he) j 0))
  have htile : t.portTile p = s.portTile p := by rw [portTile_of_lt hp, portTile_of_lt hp]
  have hup : covers (s.portMask p) (t.get F.LNK_LANESTAT_UP (s.portTile p) 0) = false := by
    have hlt : s.get F.LNK_LANESTAT_UP (s.portTile p) 0 - (s.get F.LNK_LANESTAT_UP (s.portTile p) 0 &&& s.portMask p) < 2 ^ 8 :=
      (Nat.sub_le _ _).trans_lt (getBits_lt _ _ _)
    obtain ⟨hne, -⟩ := covers_iff.1 hcov
    rw [hst.get _ _ _ (by decide), get_of_off (off_portPathsDown (by decide)), get_up_portLanes, if_neg Bool.false_ne_true,
      Nat.mod_eq_of_lt hlt, Bool.eq_false_iff, ne_eq, covers_iff, and_sub_and]
    exact fun h => hne h.2.symm
  have hnot : (p == mgmtPort) = false := beq_false_of_ne (by simp only [mgmtPort]; omega)
  simp only [State.portUp, htile, hmask, hup, hnot, Bool.and_false, Bool.or_false]

/-! ## Service frames and the PTP clock -/

/-- What has left the package stays so. -/
theorem mem_out_then {m : Emission} (h : m ∈ u.out) : m ∈ (u.then b).out :=
  run_keeps u (b u) (P := fun w => m ∈ w.out) (fun w hw e _ => by
    cases e with
    | emit => exact List.mem_append_left _ hw
    | mem a bs => exact (setBytes_out w a bs).symm ▸ hw
    | _ => exact hw) h

theorem serviceFrame_answered (hup : s.portUp p = true) (hif : (s.iface p v).isSome = true) :
    gives (.ethFrameRx { port := p, len := 64, vlan := v, body := .service }) s fun t => .answer p v ∈ t.out := by
  have hthen : s.then (ethFrameRxX { port := p, len := 64, vlan := v, body := .service }) = s.then (emit (.answer p v)) := by
    have hif' : ((s.then (fecCount p 0 0)).iface p v).isSome = true := hif
    have hframe : s.then (ethFrameRxX { port := p, len := 64, vlan := v, body := .service }) =
        s.then (.seq [fecCount p 0 0, ethFrameIn { port := p, len := 64, vlan := v, body := .service }]) :=
      then_congr (by simp [ethFrameRxX, hup, Act.when])
    rw [hframe, then_seq_cons, then_seq_cons, then_seq_nil]
    refine (then_congr (b := emit (.answer p v)) (by simp [ethFrameIn, hif', Act.when])).trans ?_
    rfl
  refine done_holds fun t hst => ?_
  rw [then_seq_cons, hthen, then_emit] at hst
  rw [hst.out]
  exact mem_out_then (List.mem_append_right _ (.head _))

theorem syncLoss_unlocks (hrole : s.ptpRole = ptpSlave) : gives .ptpSyncLoss s fun t => t.get F.LNK_PTPSTAT_LOCKED pkgTile 0 = 0 := by
  have hthen : s.then ptpSyncLossX = Eff.run (s.then (setF F.LNK_PTPSTAT_LOCKED pkgTile 0)) (.pkg fun p => { p with ptpGood := 0 }) := by
    refine (then_congr (b := .seq [setF F.LNK_PTPSTAT_LOCKED pkgTile 0, updP fun p => { p with ptpGood := 0 }])
      (by simp [ptpSyncLossX, hrole, Act.when])).trans ?_
    rw [then_seq_cons, then_seq_cons, then_seq_nil, then_updP]
  refine done_holds fun t hst => ?_
  rw [hthen] at hst
  exact (hst.get _ _ _ (by decide)).trans ((get_then_setF s _ _ _ (by decide)).trans (Nat.zero_mod _))

/-- The message that a master or a slave sends last in an interval. -/
theorem messageInterval_sends (hup : s.portUp s.ptpPort = true) (hrole : s.ptpRole = ptpMaster ∨ s.ptpRole = ptpSlave) :
    gives .ptpMessageInterval s fun t => .ptp s.ptpPort (if s.ptpRole = ptpMaster then 0 else 1) (s.get F.LNK_PTPCFG_DOMAIN pkgTile 0)
      (s.get F.LNK_PTPCFG_TRANSPORT pkgTile 0) ∈ t.out := by
  refine done_holds fun t hst => ?_
  rw [hst.out]
  rcases hrole with h | h
  · have hthen : s.then ptpMessageIntervalX = (s.then (ptpSend 3)).then (ptpSend 0) :=
      (then_congr (b := .seq [ptpSend 3, ptpSend 0]) (by simp [ptpMessageIntervalX, hup, h])).trans
        (by rw [then_seq_cons, then_seq_cons, then_seq_nil])
    rw [hthen, if_pos h]
    exact List.mem_append_right _ (.head _)
  · have hne : ptpSlave ≠ ptpMaster := by decide
    have hthen : s.then ptpMessageIntervalX = s.then (ptpSend 1) := then_congr (by simp [ptpMessageIntervalX, hup, h, hne])
    rw [hthen, if_neg (h ▸ hne)]
    exact List.mem_append_right _ (.head _)

/-! ## The obligation -/

/-- A bit that is set is taken away. -/
theorem bitOf_sub_two_pow {w : Nat} (h : bitOf w j = true) : bitOf (w - 2 ^ j) j = false := by
  rw [bitOf_eq_testBit] at h ⊢
  have hzero := congrArg (Nat.testBit · j) (and_sub_and w (2 ^ j))
  simpa [Nat.and_two_pow, h] using hzero

/-- Settles O59: the commands of the blocks, the ports, the clock and the host link, one after the other. -/
theorem engineAndLinkCommandsComplete : Obligations.EngineAndLinkCommandsComplete := by
  refine ⟨fun s q k b kt x h hr hoff hc => ?_, fun s k b hrun hen hpend => ?_, fun s q k kt x engines h => ?_, fun s k b j hj hon => ?_,
    fun s p hin hon => portLinkUp_up hin hon, fun s p hin => portLinkDown_down hin, fun s p v hup hif => serviceFrame_answered hup hif,
    fun s hrole => syncLoss_unlocks hrole, fun s hup hrole => messageInterval_sends hup hrole, fun s g w v hin => ?_,
    fun s => done_holds fun t hst => (hst.get _ _ _ (by decide)).trans get_dlup_pcieLinkDown,
    fun s => done_holds fun t hst => ⟨(hst.get _ _ _ (by decide)).trans get_dlup_perstAssert,
      (hst.get _ _ _ (by decide)).trans get_numvf_perstAssert⟩,
    fun s k h1 h64 hfree => ?_, fun s k tag x data pz hx hlen hq hf hw hs => ?_, fun s k tag x hx hq hf hw hs => ?_⟩
  · obtain ⟨t, hexec, -, hstate, -⟩ := en_state_written h (by decide) (by decide) (enWrite_off hr hoff hc)
    exact ⟨t, hexec, hstate⟩
  · obtain ⟨t, hexec, hstate, -⟩ := enabling_ends hrun hen
    exact ⟨t, hexec, hstate.trans (if_neg (by omega))⟩
  · obtain ⟨t, hexec, hbits, -⟩ := reset_turns_off (engines := engines) h
    exact ⟨t, hexec, hbits⟩
  · obtain ⟨t, hexec, hbits, -⟩ := reset_done hj hon
    exact ⟨t, hexec, (congrArg (bitOf · j) hbits).trans (bitOf_sub_two_pow hon)⟩
  · obtain ⟨t, hexec, hdl, -⟩ := pcieLinkUp_shows (.inr hin) g w v
    exact ⟨t, hexec, hdl⟩
  · obtain ⟨t, hexec, hout, -⟩ := pcieFlr_free h1 h64 hfree
    exact ⟨t, hexec, (congrArg (Emission.flrDone k ∈ ·) hout).mpr (List.mem_append_right _ (.head _))⟩
  · obtain ⟨t, hexec, htags, -⟩ := hostReadCompletion_stages hx hlen hq hf hw hs pz
    exact ⟨t, hexec, htags⟩
  · obtain ⟨t, hexec, htags, -⟩ := hostReadTimeout_ends hx hq hf hw hs
    exact ⟨t, hexec, htags⟩

end Sys2Proof.Machine
end

section
/-! Whole Movon messages (R332, R337, R373 to R382, R386, R432): the frame that its path expects next, what each type of message does, the
answer kept for its duplicates, and the `RESP` that ends a message; and the obligation. -/
namespace Sys2Proof.Machine
open Sys2Proof.Say

variable {s u v w t : State} {a : Act} {f : MvFrame} {e p st : Nat} {more : List Byte} {pz : Bool}

/-! ## What the link layer changes -/

/-- The effect sends, counts retransmissions, or changes a peer but for the tenants that it may address. -/
@[simp] def Eff.talks : Eff → Prop
  | .fld f _ _ _ => f.reg = .LNK_LRETRY
  | .pkg f => ∀ p, f p = { p with peers := (f p).peers, nextMsg := (f p).nextMsg } ∧
      ∀ e, (mapGet id {} (f p).peers e).mask = (mapGet id {} p.peers e).mask
  | .emit _ => True
  | _ => False

/-- A state that differs from another by such effects. -/
structure State.Talked (s v : State) : Prop where
  rest : ∃ R O P n, v = { s with regs := R, out := O, pkg := { s.pkg with peers := P, nextMsg := n } }
  reg : ∀ r, r ≠ .LNK_LRETRY → ∀ j ix, v.reg r j ix = s.reg r j ix
  mask : ∀ e, (v.peer e).mask = (s.peer e).mask

theorem State.Talked.run {x : Eff} (h : s.Talked w) (hx : x.talks) : s.Talked (Eff.run w x) := by
  obtain ⟨⟨R, O, P, n, rfl⟩, hreg, hmask⟩ := h
  cases x with
  | fld g j ix y => exact ⟨⟨_, O, P, n, rfl⟩, fun r hr i x => (reg_setReg_ne _ _ _ _ _ _ _ _ (fun h => hr (h.trans hx))).trans (hreg r hr i x), hmask⟩
  | pkg g =>
    obtain ⟨hg, hgmask⟩ := hx { s.pkg with peers := P, nextMsg := n }
    exact ⟨⟨R, O, _, _, congrArg (fun q => { s with regs := R, out := O, pkg := q }) hg⟩, hreg, fun e => (hgmask e).trans (hmask e)⟩
  | emit m => exact ⟨⟨R, _, P, n, rfl⟩, hreg, hmask⟩
  | _ => exact hx.elim

theorem State.Talked.then (h : s.Talked w) (ha : AllEff Eff.talks a) : s.Talked (w.then a) :=
  run_keeps w (a w) (P := s.Talked) (fun _ hv x hx => hv.run (ha w x hx)) h

theorem State.Talked.refl (s : State) : s.Talked s := ⟨⟨_, _, _, _, rfl⟩, fun _ _ _ _ => rfl, fun _ => rfl⟩

namespace State.Talked

variable (h : s.Talked v)
include h

theorem mem : v.mem = s.mem := by
  obtain ⟨_, _, _, _, rfl⟩ := h.rest
  rfl

theorem streams : v.streams = s.streams := by
  obtain ⟨_, _, _, _, rfl⟩ := h.rest
  rfl

theorem insts : v.insts = s.insts := by
  obtain ⟨_, _, _, _, rfl⟩ := h.rest
  rfl

theorem tiles : v.tiles = s.tiles := by
  obtain ⟨_, _, _, _, rfl⟩ := h.rest
  rfl

theorem names : v.pkg.names = s.pkg.names := by
  obtain ⟨_, _, _, _, rfl⟩ := h.rest
  rfl

theorem cpls : v.pkg.cpls = s.pkg.cpls := by
  obtain ⟨_, _, _, _, rfl⟩ := h.rest
  rfl

theorem byte (b : Nat) : v.byte b = s.byte b := by rw [State.byte, h.mem, State.byte]
theorem stream (id : Nat) : v.stream id = s.stream id := by rw [State.stream, h.streams, State.stream]
theorem inst (n : Nat) : v.inst n = s.inst n := by rw [State.inst, h.insts, State.inst]
theorem tile (k : Nat) : v.tile k = s.tile k := by rw [State.tile, h.tiles, State.tile]

theorem get {g : Fld} (hg : g.reg ≠ .LNK_LRETRY) (j ix : Nat) : v.get g j ix = s.get g j ix :=
  congrArg (fun x => getBits x g.hi g.lo) (h.reg g.reg hg j ix)

theorem instState (n : Nat) : v.instState n = s.instState n := h.get (by decide) _ _

theorem epoch (n : Nat) : v.epoch n = s.epoch n := h.get (by decide) _ _

theorem slotState (id : Nat) : v.slotState id = s.slotState id := h.get (by decide) _ _

theorem isOpen (id : Nat) : v.isOpen id = s.isOpen id := by rw [State.isOpen, h.slotState, State.isOpen]

theorem isLive (id : Nat) : v.isLive id = s.isLive id := by rw [State.isLive, h.slotState, State.isLive]

theorem stale (n i : Nat) : v.stale n i = s.stale n i := by rw [State.stale, h.epoch, h.instState, State.stale]

theorem isMaster : v.isMaster = s.isMaster := by simp only [State.isMaster, h.get (g := F.LNK_MVSTAT_MASTER) (by decide)]

/-- The memory that a tenant holds is as before. -/
theorem inMem (n b len : Nat) : v.inMem n b len = s.inMem n b len := by
  have hhost (fn i : Nat) : v.hostEntry fn i = s.hostEntry fn i := by
    simp only [State.hostEntry, h.get (g := F.LNK_HWE_LO_EN) (by decide), h.get (g := F.LNK_PCISTAT_NUMVF) (by decide),
      h.get (g := F.LNK_HWE_LO_HBASE_LO) (by decide), h.get (g := F.LNK_HWE_HI_HBASE_HI) (by decide)]
  have howner (k : Nat) : v.owner k = s.owner k := by
    simp only [State.owner, h.get (g := F.PRT_TOWN_ASSIGNED) (by decide), h.get (g := F.PRT_TOWN_INST) (by decide)]
  have hunit (k : Nat) : v.unitOwner k = s.unitOwner k := by
    simp only [State.unitOwner, h.reg .PRT_MOWN (by decide)]
  have hreach : v.hbmReach = s.hbmReach := by
    simp only [State.hbmReach, State.ports, h.get (g := F.MGT_HBMCFG_INSVC) (by decide)]
  simp only [State.inMem, State.hbmOwned, hhost, howner, hunit, hreach]

theorem writeStatus (b : List Byte) : v.writeStatus f b = s.writeStatus f b := by
  simp only [State.writeStatus, h.instState, h.epoch, h.inMem]

/-- A request of a peer passes the checks as before. -/
theorem passes {i opc : Nat} {hdr : ReqHdr} {b : List Byte} (hp : passes s (.movon e i) opc hdr b) : passes v (.movon e i) opc hdr b := by
  have hstage : v.stage = s.stage := h.get (by decide) _ _
  have hhdr : v.reqHeaderOk (.movon e i) hdr = s.reqHeaderOk (.movon e i) hdr := by simp only [State.reqHeaderOk, h.mask, h.instState]
  have hstatus : v.reqStatus opc hdr b = s.reqStatus opc hdr b := by
    simp only [State.reqStatus, h.epoch, h.instState, h.isOpen, h.stream]
  have hwin : v.window hdr.inst (isCtl hdr) hdr.stream = s.window hdr.inst (isCtl hdr) hdr.stream := by
    simp only [State.window, h.inst, h.stream]
  simpa only [Say.passes, hstage, hhdr, hstatus, hwin] using hp

/-- Nothing but the link layer differs after the command. -/
theorem same (ht : SnapSame v t) : sameMem s t ∧ sameContexts s t :=
  ⟨fun b => (ht.byte b).trans (h.byte b), fun id => (ht.stream id).trans (h.stream id), fun n => (ht.inst n).trans (h.inst n),
    fun k => (ht.tile k).trans (h.tile k)⟩

end State.Talked

theorem talks_updPeer {g : MvPeer → MvPeer} (hg : ∀ r, (g r).mask = r.mask) : Effs Eff.talks (updPeer e g u) :=
  effs_updP.2 fun q => ⟨rfl, fun e' => by
    refine (congrArg MvPeer.mask (mapGet_putPeer q.peers e e' _)).trans ?_
    split
    · next h => exact h ▸ hg _
    · rfl⟩

theorem talks_updLink {g : MvLink → MvLink} : Effs Eff.talks (updLink e p g u) := talks_updPeer fun _ => rfl

theorem talks_takeAck {lack : Nat} : Effs Eff.talks (takeAck e p lack u) := by
  simp [takeAck, talks_updLink, F.LNK_LRETRY_COUNT]

theorem talks_mvPut {m : MvMsg} : Effs Eff.talks (mvPut e p m u) := effs_each fun g v => by
  simp [talks_updLink]

theorem talks_mvSend {mtype inst epoch id : Nat} {bs : List Byte} {ctx : MvCtx} :
    Effs Eff.talks (mvSend e mtype inst epoch id bs pz ctx .none u) := by
  unfold mvSend mvSendAs
  dsimp only
  split
  · simp
  · simp [talks_mvPut, talks_updPeer]

theorem talks_respond : Effs Eff.talks (respond e f st more u) := by
  simp [respond, talks_mvSend, talks_updPeer]

/-! ## Answers that are kept -/

theorem talked_respond (h : s.Talked u) : s.Talked (u.then (respond e f st more)) := h.then (allEff_iff.2 fun _ => talks_respond)

theorem answered_respond : answered (u.then (respond f.src f st more)) f st := by
  refine ⟨more, ?_⟩
  rw [respond, then_seq_cons, then_seq_cons, then_seq_nil]
  generalize hu' : u.then (updPeer f.src _) = w
  have hsend : ((w.then (mvSend f.src mtResp f.inst f.epoch f.stream (toLe 4 f.msgid ++ toLe 2 st ++ [0, 0] ++ more) false .plain
      .none)).peer f.src).seen = (w.peer f.src).seen :=
    congrArg Prod.fst (received_of_keepsLink (allEff_iff.2 fun _ => keepsLink_mvSend) f.src)
  rw [hsend, ← hu', peer_updPeer, if_pos rfl, List.drop_append_of_le_length (Nat.sub_le _ _)]
  exact List.mem_append_right _ (.head _)

theorem answered_of_keepsLink (h : answered u f st) (ha : AllEff Eff.keepsLink a) : answered (u.then a) f st := by
  obtain ⟨more, hmore⟩ := h
  have hseen : ((u.then a).peer f.src).seen = (u.peer f.src).seen := congrArg Prod.fst (received_of_keepsLink ha f.src)
  exact ⟨more, hseen ▸ hmore⟩

/-! ## Frames held on a path -/

/-- The effect leaves the frames that the paths hold. -/
@[simp] def Eff.keepsHeld : Eff → Prop
  | .pkg f => ∀ p e, (mapGet id {} (f p).peers e).received.2 = (mapGet id {} p.peers e).received.2
  | _ => True

@[simp] theorem keepsHeld_of_keepsLink {l : List Eff} (h : Effs Eff.keepsLink l) : Effs Eff.keepsHeld l := h.mono fun x hx => by
  cases x with
  | pkg g => exact fun p e => congrArg Prod.snd (hx p e)
  | _ => trivial

theorem held_of_keepsHeld (h : AllEff Eff.keepsHeld a) (e : Nat) : ((u.then a).peer e).received.2 = (u.peer e).received.2 := by
  refine run_keeps u (a u) (P := fun w => (w.peer e).received.2 = (u.peer e).received.2) (fun w hw x hx => ?_) rfl
  cases x with
  | pkg g => exact (h u _ hx w.pkg e).trans hw
  | mem a bs => simpa [State.peer, Eff.run] using hw
  | _ => exact hw

theorem keepsHeld_updPeer {g : MvPeer → MvPeer} (hg : ∀ r, (g r).links = r.links) : Effs Eff.keepsHeld (updPeer e g u) :=
  effs_updP.2 fun q e' => by
    refine (congrArg (·.received.2) (mapGet_putPeer q.peers e e' _)).trans ?_
    split
    · next h => exact h ▸ congrArg (List.map MvLink.held) (hg _)
    · rfl

@[simp] theorem keepsHeld_respond : Effs Eff.keepsHeld (respond e f st more u) :=
  effs_seq_cons.2 ⟨keepsHeld_updPeer fun _ => rfl, by simp⟩

theorem keepsLink_dirApply {m : DirMsg} : Effs Eff.keepsLink (dirApply m u) := by
  cases m <;> simp [dirApply]

@[simp] theorem keepsHeld_takeMessage {b : List Byte} : Effs Eff.keepsHeld (takeMessage e f b pz u) := by
  have hosf (v : State) : Effs Eff.keepsHeld (takeOsf e f b pz v) := by simp [takeOsf]
  have hwrite (v : State) : Effs Eff.keepsHeld (takeWrite e f b pz v) := by simp [takeWrite]
  have hlate (v : State) : Effs Eff.keepsLink (takeLate (Cpl.parse b) v) := by
    simp +decide [takeLate]
  have hclaim (v : State) : Effs Eff.keepsLink (dirClaim e v) := by
    simp +decide [dirClaim]
  unfold takeMessage
  split
  · simp
  · simp only [effs_ite]
    refine ⟨fun _ => by simp, fun _ => ⟨fun _ => by simp, fun _ => ⟨fun _ => hosf _, fun _ => ⟨fun _ => hwrite _, fun _ =>
      ⟨fun _ => by simp [hlate], fun _ => ?_⟩⟩⟩⟩⟩
    split <;> simp [hclaim, keepsLink_dirApply]

theorem keepsHeld_takeFragment : AllEff Eff.keepsHeld (takeFragment e f) := allEff_iff.2 fun v => by
  have hresp (b : List Byte) (v : State) : Effs Eff.keepsHeld (takeResp e b v) := by
    unfold takeResp
    split <;> simp
  simp [takeFragment, hresp, keepsHeld_updPeer]

/-! ## The frame that a path expects next -/

/-- The path of the frame has had it: it expects the next one, and holds it no more. -/
def MvLink.advance (f : MvFrame) (l : MvLink) : MvLink :=
  { l with rx := (l.rx + 1) % 2 ^ 32, held := l.held.filter (·.lseq != f.lseq) }

/-- The state in which the frame that its path expects next is taken. -/
def State.delivered (s : State) (f : MvFrame) (p : Nat) : State :=
  (s.then (takeAck f.src p f.lack)).then (updLink f.src p (MvLink.advance f))

theorem talked_delivered : s.Talked (s.delivered f p) :=
  ((State.Talked.refl s).then (allEff_iff.2 fun _ => talks_takeAck)).then (allEff_iff.2 fun _ => talks_updLink)

theorem peer_updLink {g : MvLink → MvLink} :
    (u.then (updLink e p g)).peer e = { u.peer e with links := setAt (u.peer e).links p (g (link u e p)) } := by
  rw [updLink, peer_updPeer, if_pos rfl]
  rfl

theorem then_sendLinkAck : ∃ b, u.then (sendLinkAck e p) = Eff.run u (.emit b) := ⟨_, rfl⟩

theorem getD_setAt_self {l : List MvLink} (hp : p < l.length) (x : MvLink) : (setAt l p x).getD p {} = x := by
  simp [setAt, hp]

/-- A link without the frames before an acknowledgement's number. -/
def MvLink.acked (lack : Nat) (l : MvLink) : MvLink :=
  { l with unacked := l.unacked.filter fun x => !(decide (1 ≤ lseqDist x.lseq lack) && decide (lseqDist x.lseq lack < 2 ^ 31)) }

theorem then_takeAck {lack : Nat} : ∃ n, u.then (takeAck e p lack) =
    (u.then (updLink e p (MvLink.acked lack))).then (count F.LNK_LRETRY_COUNT (u.pathTile e p) n) := by
  have hseq : ∃ n, u.then (takeAck e p lack) =
      u.then (.seq [updLink e p (MvLink.acked lack), count F.LNK_LRETRY_COUNT (u.pathTile e p) n]) := ⟨_, then_congr rfl⟩
  obtain ⟨n, hn⟩ := hseq
  exact ⟨n, by rw [hn, then_seq_cons, then_seq_cons, then_seq_nil]⟩

/-- What an acknowledgement leaves of the sender: all but frames that await one. -/
theorem peer_takeAck {lack : Nat} (hp : p < (u.peer e).links.length) : ∃ L, (u.then (takeAck e p lack)).peer e = { u.peer e with links := L } ∧
    p < L.length ∧ (L.getD p {}).rx = (link u e p).rx ∧ (L.getD p {}).held = (link u e p).held := by
  obtain ⟨n, hthen⟩ := then_takeAck (u := u) (e := e) (p := p) (lack := lack)
  have hpeer : (u.then (takeAck e p lack)).peer e = (u.then (updLink e p (MvLink.acked lack))).peer e := by
    rw [hthen]
    rfl
  refine ⟨_, hpeer.trans peer_updLink, by simpa [setAt] using hp, ?_, ?_⟩ <;>
  rw [getD_setAt_self hp, MvLink.acked]

/-- Of the sender only the links have changed, and the path holds no frame. -/
theorem peer_delivered (hp : p < (s.peer f.src).links.length) (hheld : (link s f.src p).held = []) :
    ∃ L, (s.delivered f p).peer f.src = { s.peer f.src with links := L } ∧ (L.getD p {}).held = [] := by
  obtain ⟨L, hpeer, hlen, -, hheld'⟩ := peer_takeAck (lack := f.lack) hp
  refine ⟨_, peer_updLink.trans (by rw [hpeer]), ?_⟩
  have hlink : link (s.then (takeAck f.src p f.lack)) f.src p = L.getD p {} := congrArg (fun r => r.links.getD p {}) hpeer
  rw [getD_setAt_self hlen, hlink, MvLink.advance, hheld', hheld]
  rfl

theorem held_of_received {w : State} (h : (w.peer e).received.2 = (u.peer e).received.2) : (link w e p).held = (link u e p).held := by
  have hget (r : MvPeer) : (r.links.getD p {}).held = (r.received.2).getD p [] := (List.getD_map _ _ MvLink.held).symm
  rw [link, hget, h, ← hget, ← link]

/-- No frame follows where none is held. -/
theorem then_releaseHeld (h : (link u e p).held = []) : u.then (releaseHeld e p) = u := by
  have hheld : ((u.peer e).links.getD p {}).held = [] := h
  exact then_congr (b := Act.none) (by simp only [releaseHeld, hheld, List.length_nil, List.range_zero]; rfl)

theorem then_linkFrame (hd : lseqDist (link u e p).rx f.lseq = 0)
    (hheld : (link ((u.then (updLink e p (MvLink.advance f))).then (takeFragment e f)) e p).held = []) :
    ∃ b, u.then (linkFrame e p f) = Eff.run ((u.then (updLink e p (MvLink.advance f))).then (takeFragment e f)) (.emit b) := by
  have hd' : lseqDist ((u.peer e).links.getD p {}).rx f.lseq = 0 := hd
  have hseq : u.then (linkFrame e p f) = u.then (.seq [.seq [.seq [updLink e p (MvLink.advance f), takeFragment e f], releaseHeld e p],
      sendLinkAck e p]) := then_congr (by simp only [linkFrame, hd', if_true]; rfl)
  obtain ⟨b, hb⟩ := then_sendLinkAck (u := (u.then (updLink e p (MvLink.advance f))).then (takeFragment e f)) (e := e) (p := p)
  refine ⟨b, hseq.trans ?_⟩
  rw [then_seq_cons, then_seq_cons, then_seq_cons, then_seq_cons, then_seq_cons, then_seq_nil, then_seq_nil, then_seq_cons, then_seq_nil,
    then_releaseHeld hheld, hb]

/-- The next frame of a path is taken, and its link acknowledges it. -/
theorem then_movonRx_next (h : nextOn s f p) (hprobe : f.mtype ≠ mtProbe) (hack : f.mtype ≠ mtLinkAck) :
    ∃ b, s.then (movonRx f) = Eff.run ((s.delivered f p).then (takeFragment f.src f)) (.emit b) := by
  obtain ⟨⟨hup, hstage, htakes, hp⟩, hd, hheld⟩ := h
  have hrx : s.then (movonRx f) = s.then (.seq [takeAck f.src p f.lack, linkFrame f.src p f]) :=
    then_congr (by simp [movonRx, hup, hstage, htakes, mvFrameIn, hprobe, hack])
  obtain ⟨L, hpeer, -, hexp, -⟩ := peer_takeAck (lack := f.lack) hp
  obtain ⟨M, hpeer', hheld'⟩ := peer_delivered hp hheld
  have hlink : link (s.then (takeAck f.src p f.lack)) f.src p = L.getD p {} := congrArg (fun r => r.links.getD p {}) hpeer
  have hnone : (link ((s.delivered f p).then (takeFragment f.src f)) f.src p).held = [] := by
    rw [held_of_received (held_of_keepsHeld keepsHeld_takeFragment f.src), link, hpeer', hheld']
  obtain ⟨b, hb⟩ := then_linkFrame (u := s.then (takeAck f.src p f.lack)) (by rw [hlink, hexp, hd]) hnone
  exact ⟨b, by rw [hrx, then_seq_cons, then_seq_cons, then_seq_nil, hb]; rfl⟩

/-- A command that ends with an acknowledgement: a state of which one emission more, and the watch of the command, make another. -/
def State.acknowledges (w t : State) : Prop := ∃ b, SnapSame (Eff.run w (.emit b)) t

namespace State.acknowledges

variable (h : w.acknowledges t)
include h

theorem get {g : Fld} (hg : g.reg ≠ .SNP_CNT) (j ix : Nat) : t.get g j ix = w.get g j ix := let ⟨_, hb⟩ := h; hb.get g j ix hg

theorem byte (x : Nat) : t.byte x = w.byte x := let ⟨_, hb⟩ := h; hb.byte x

theorem stream (id : Nat) : t.stream id = w.stream id := let ⟨_, hb⟩ := h; hb.stream id

theorem inst (n : Nat) : t.inst n = w.inst n := let ⟨_, hb⟩ := h; hb.inst n

theorem tile (k : Nat) : t.tile k = w.tile k := let ⟨_, hb⟩ := h; hb.tile k

theorem peer (e : Nat) : t.peer e = w.peer e := by
  obtain ⟨b, hb⟩ := h
  rw [State.peer, hb.peers, State.peer]
  rfl

theorem names : t.pkg.names = w.pkg.names := by
  obtain ⟨b, hb⟩ := h
  rw [hb.pkg_rest]
  rfl

theorem cpls : t.pkg.cpls = w.pkg.cpls := by
  obtain ⟨b, hb⟩ := h
  rw [hb.pkg_rest]
  rfl

theorem answered (ha : answered w f st) : answered t f st := by
  unfold Say.answered at *
  rwa [h.peer]

theorem recorded {hdr : ReqHdr} (hr : recorded w hdr st) : recorded t hdr st := by
  unfold Say.recorded State.window at *
  rwa [h.inst, h.stream]

end State.acknowledges

/-- What holds of every state that differs as an acknowledgement, and the watch of a command, from what the frame's fragment leaves. -/
theorem gives_next {P : State → Prop} (h : nextOn s f p) {mt : Nat} (hm : f.mtype = mt) (hmt : mt < mtProbe)
    (hP : ∀ t, ((s.delivered f p).then (takeFragment f.src f)).acknowledges t → P t) :
    ∃ t, done (movonRow mt f) s = .next t ∧ P t := by
  have hlt : f.mtype < 8 := hm ▸ hmt
  obtain ⟨b, hb⟩ := then_movonRx_next h (by simp only [mtProbe]; omega) (by simp only [mtLinkAck]; omega)
  have hrow : s.then (movonRow mt f) = s.then (movonRx f) := by
    rw [movonRow, then_when, if_pos (beq_iff_eq.2 hm)]
  exact done_holds fun t hst => hP t ⟨b, by rwa [← hb, ← hrow]⟩

/-! ## Messages that are whole -/

/-- The state in which a whole message is taken. -/
def State.joined (s : State) (f : MvFrame) (p : Nat) : State :=
  (s.delivered f p).then (updPeer f.src fun r => { r with parts := r.parts.filter (·.msg != f.msgid) })

theorem talked_joined : s.Talked (s.joined f p) := talked_delivered.then (allEff_iff.2 fun _ => talks_updPeer fun _ => rfl)

theorem seen_joined (hp : p < (s.peer f.src).links.length) (hheld : (link s f.src p).held = []) :
    ((s.joined f p).peer f.src).seen = (s.peer f.src).seen := by
  obtain ⟨L, hpeer, -⟩ := peer_delivered hp hheld
  rw [State.joined, peer_updPeer, if_pos rfl, hpeer]

theorem then_takeFragment_whole (hm : f.mtype ≠ mtResp) (hoff : f.foff = 0) (hlen : f.payload.length = f.msglen) :
    u.then (takeFragment e f) = (u.then (updPeer e fun r => { r with parts := r.parts.filter (·.msg != f.msgid) })).then
      (takeMessage e f f.payload (bitOf f.flags 0)) := by
  have hseq : u.then (takeFragment e f) = u.then (.seq [updPeer e fun r => { r with parts := r.parts.filter (·.msg != f.msgid) },
      takeMessage e f f.payload (bitOf f.flags 0)]) := then_congr (by simp [takeFragment, hm, hoff, hlen])
  rw [hseq, then_seq_cons, then_seq_cons, then_seq_nil]

/-- A whole message is taken in a state of which only the link layer has changed. -/
theorem gives_whole {P : State → Prop} (h : wholeNext s f p) {mt : Nat} (hm : f.mtype = mt) (hmt : mt < mtProbe) (hne : mt ≠ mtResp)
    (hP : ∀ u, s.Talked u → (u.peer f.src).seen.find? (·.1 == f.msgid) = none →
      ∀ t, (u.then (takeMessage f.src f f.payload (bitOf f.flags 0))).acknowledges t → P t) :
    ∃ t, done (movonRow mt f) s = .next t ∧ P t := by
  obtain ⟨hnext, hoff, hlen, hseen⟩ := h
  have hlink := hnext
  obtain ⟨⟨-, -, -, hp⟩, -, hheld⟩ := hlink
  refine gives_next hnext hm hmt fun t hst => hP _ talked_joined ((seen_joined hp hheld).symm ▸ hseen) t ?_
  rwa [then_takeFragment_whole (hm ▸ hne) hoff hlen] at hst

/-- The refusal of a `WRITE`, as its sender is told of it. -/
def lateOf (u : State) (e : Nat) (f : MvFrame) (m : List Byte) : Act :=
  mvSend e mtLate f.inst f.epoch f.stream
    (Cpl.bytes ⟨u.now, leAt m 0 8 % 2 ^ 40, 0, f.stream, u.writeStatus f m, 0, f.inst, f.epoch, 2⟩ false) false .plain .none

section
variable {m : List Byte} (hnew : (u.peer e).seen.find? (·.1 == f.msgid) = none)
include hnew

theorem then_takeMessage_req (hm : f.mtype = mtReq) : u.then (takeMessage e f m pz) = (u.then (respond e f 0 [])).then
    (handleRequest (.movon e f.msgid) (parseReq m pz).1 (parseReq m pz).2.1 (parseReq m pz).2.2) := by
  have hseq : u.then (takeMessage e f m pz) = u.then (.seq [respond e f 0 [],
      handleRequest (.movon e f.msgid) (parseReq m pz).1 (parseReq m pz).2.1 (parseReq m pz).2.2]) :=
    then_congr (by simp [takeMessage, hnew, hm])
  rw [hseq, then_seq_cons, then_seq_cons, then_seq_nil]

theorem then_takeMessage_cpl (hm : f.mtype = mtCpl) : u.then (takeMessage e f m pz) =
    (u.then (updP fun p => { p with cpls := p.cpls ++ [(e, Cpl.parse m)] })).then (respond e f 0 []) := by
  have hseq : u.then (takeMessage e f m pz) = u.then (.seq [updP fun p => { p with cpls := p.cpls ++ [(e, Cpl.parse m)] },
      respond e f 0 []]) := then_congr (by simp [takeMessage, hnew, hm, mtCpl, mtReq])
  rw [hseq, then_seq_cons, then_seq_cons, then_seq_nil]

theorem then_takeMessage_osf (hm : f.mtype = mtOsf) : u.then (takeMessage e f m pz) = u.then (takeOsf e f m pz) :=
  then_congr (by simp [takeMessage, hnew, hm, mtOsf, mtCpl, mtReq])

theorem then_takeMessage_write (hm : f.mtype = mtWrite) : u.then (takeMessage e f m pz) =
    (u.then (if u.writeStatus f m = 0 then putBytes f.inst (leAt m 0 8) (m.drop 8) pz else lateOf u e f m)).then
      (respond e f (u.writeStatus f m) []) := by
  rw [← then_seq_nil ((u.then _).then _), ← then_seq_cons, ← then_seq_cons]
  exact then_congr (by simp [takeMessage, takeWrite, lateOf, hnew, hm, mtWrite, mtOsf, mtCpl, mtReq])

theorem then_takeMessage_late (hm : f.mtype = mtLate) : u.then (takeMessage e f m pz) =
    (u.then (takeLate (Cpl.parse m))).then (respond e f 0 []) := by
  have hseq : u.then (takeMessage e f m pz) = u.then (.seq [takeLate (Cpl.parse m), respond e f 0 []]) :=
    then_congr (by simp [takeMessage, hnew, hm, mtLate, mtWrite, mtOsf, mtCpl, mtReq])
  rw [hseq, then_seq_cons, then_seq_cons, then_seq_nil]

theorem then_takeMessage_register {n d st i : Nat} (hm : f.mtype = mtDir) (hdir : f.dir = some (.register n d st i))
    (hmaster : u.isMaster = true) (hroom : u.pkg.names.length < dirCapacity) : u.then (takeMessage e f m pz) =
      (u.then (respond e f 0 [])).then (dirApply (.register n d st i)) := by
  have hseq : u.then (takeMessage e f m pz) = u.then (.seq [respond e f 0 [], dirApply (.register n d st i)]) :=
    then_congr (by simp [takeMessage, hnew, hm, hdir, hmaster, hroom, State.dirStatus, State.dirFound, mtDir, mtLate, mtWrite, mtOsf, mtCpl,
      mtReq])
  rw [hseq, then_seq_cons, then_seq_cons, then_seq_nil]

end

/-! ## Requests, records and units -/

theorem request_answered (h : wholeNext s f p) (hm : f.mtype = mtReq) : gives (.movonReqRx f) s fun t => answered t f 0 :=
  gives_whole h hm (by decide) (by decide) fun u hj hnew t hst => by
    rw [then_takeMessage_req hnew hm] at hst
    exact hst.answered (answered_of_keepsLink answered_respond (allEff_iff.2 fun _ => keepsLink_handleRequest))

theorem nop_recorded {hdr : ReqHdr} {b : List Byte} (h : wholeNext s f p) (hm : f.mtype = mtReq)
    (hreq : parseReq f.payload (bitOf f.flags 0) = (opNop, hdr, b)) (hp : passes s (.movon f.src f.msgid) opNop hdr b) :
    gives (.movonReqRx f) s fun t => recorded t hdr 0 :=
  gives_whole h hm (by decide) (by decide) fun u hj hnew t hst => by
    obtain ⟨newer, hthen⟩ := then_handleRequest ((talked_respond (f := f) (e := f.src) (st := 0) (more := []) hj).passes hp)
    have hexec : execute hdr.inst opNop (liveOf (.movon f.src f.msgid) opNop hdr) b =
        completeReq hdr.inst (liveOf (.movon f.src f.msgid) opNop hdr) 0 (liveOf (.movon f.src f.msgid) opNop hdr).stream 0 := rfl
    rw [then_takeMessage_req hnew hm, hreq, hthen, hexec] at hst
    exact hst.recorded (recorded_completeReq _ _ _ (entered_accepted newer))

theorem record_kept (h : wholeNext s f p) (hm : f.mtype = mtCpl) : gives (.movonCplRx f) s fun t =>
    t.pkg.cpls = s.pkg.cpls ++ [(f.src, Cpl.parse f.payload)] ∧ answered t f 0 ∧ sameMem s t :=
  gives_whole h hm (by decide) (by decide) fun u hj hnew t hst => by
    rw [then_takeMessage_cpl hnew hm, then_updP] at hst
    have htalk := talked_respond (f := f) (e := f.src) (st := 0) (more := []) (State.Talked.refl
      (Eff.run u (.pkg fun p => { p with cpls := p.cpls ++ [(f.src, Cpl.parse f.payload)] })))
    exact ⟨hst.cpls.trans (htalk.cpls.trans (congrArg (· ++ [(f.src, Cpl.parse f.payload)]) hj.cpls)),
      hst.answered answered_respond, fun x => (hst.byte x).trans ((htalk.byte x).trans (hj.byte x))⟩

theorem units_taken (h : wholeNext s f p) (hm : f.mtype = mtOsf) (hst : s.stale f.inst f.epoch = false) (hopen : s.isOpen f.stream = true)
    (hinst : (s.stream f.stream).inst = f.inst) (hstage : bitOf (s.stream f.stream).stages stLsc = true) :
    gives (.movonOsfRx f) s fun t => answered t f 0 :=
  gives_whole h hm (by decide) (by decide) fun u hj hnew t ht => by
    have hseq : u.then (takeOsf f.src f f.payload (bitOf f.flags 0)) =
        u.then (.seq [respond f.src f 0 [], osfRx f.stream (some f.src) (bitOf f.flags 0) f.payload]) :=
      then_congr (by simp [takeOsf, hj.stale, hst, hj.isOpen, hopen, hj.stream, hinst, hstage])
    rw [then_takeMessage_osf hnew hm, hseq, then_seq_cons, then_seq_cons, then_seq_nil] at ht
    exact ht.answered (answered_of_keepsLink answered_respond (allEff_iff.2 fun _ => keepsLink_osfRx))

theorem units_refused (h : wholeNext s f p) (hm : f.mtype = mtOsf) (hst : s.stale f.inst f.epoch = true) :
    gives (.movonOsfRx f) s fun t => answered t f 0x0401 ∧ sameMem s t ∧ ∀ id, t.stream id = s.stream id :=
  gives_whole h hm (by decide) (by decide) fun u hj hnew t ht => by
    have hseq : u.then (takeOsf f.src f f.payload (bitOf f.flags 0)) = u.then (respond f.src f 0x0401 []) :=
      then_congr (by simp [takeOsf, hj.stale, hst])
    rw [then_takeMessage_osf hnew hm, hseq] at ht
    have htalk := talked_respond (f := f) (e := f.src) (st := 0x0401) (more := []) hj
    exact ⟨ht.answered answered_respond, fun x => (ht.byte x).trans (htalk.byte x), fun id => (ht.stream id).trans (htalk.stream id)⟩

/-! ## Writes and late failures -/

theorem inMem_of_writeStatus {m : List Byte} (h : u.writeStatus f m = 0) : u.inMem f.inst (leAt m 0 8) (m.drop 8).length = true := by
  rw [List.length_drop]
  by_contra hno
  simp only [State.writeStatus, Bool.eq_false_iff.2 hno, Bool.not_false, or_true, if_true] at h
  split at h <;> cases h

theorem write_stored (h : wholeNext s f p) (hm : f.mtype = mtWrite) (hok : s.writeStatus f f.payload = 0)
    (hhost : isHost (leAt f.payload 0 8) = false) : gives (.movonWriteRx f) s fun t =>
      t.bytes (leAt f.payload 0 8) (f.payload.length - 8) = f.payload.drop 8 ∧
      sameMemBut (leAt f.payload 0 8) (f.payload.length - 8) s t ∧ answered t f 0 :=
  gives_whole h hm (by decide) (by decide) fun u hj hnew t ht => by
    have hok' : u.writeStatus f f.payload = 0 := (hj.writeStatus _).trans hok
    rw [then_takeMessage_write hnew hm, hok', if_pos rfl, then_putBytes_device hhost (inMem_of_writeStatus hok')] at ht
    have hbyte (x : Nat) : t.byte x = (u.then (memWrite (leAt f.payload 0 8) (f.payload.drop 8) (bitOf f.flags 0) false)).byte x :=
      (ht.byte x).trans ((talked_respond (State.Talked.refl _)).byte x)
    rw [← List.length_drop]
    refine ⟨?_, fun x hx => ?_, ht.answered answered_respond⟩
    · simp only [State.bytes, hbyte]
      exact bytes_memWrite _ _ _ _
    · exact (hbyte x).trans ((sameMemBut_memWrite x hx).trans (hj.byte x))

theorem write_refused (h : wholeNext s f p) (hm : f.mtype = mtWrite) (hbad : s.writeStatus f f.payload ≠ 0) :
    gives (.movonWriteRx f) s fun t => sameMem s t ∧ answered t f (s.writeStatus f f.payload) :=
  gives_whole h hm (by decide) (by decide) fun u hj hnew t ht => by
    rw [then_takeMessage_write hnew hm, hj.writeStatus, if_neg hbad] at ht
    have htalk : s.Talked (u.then (lateOf u f.src f f.payload)) := hj.then (allEff_iff.2 fun _ => talks_mvSend)
    exact ⟨fun x => (ht.byte x).trans ((talked_respond htalk).byte x), ht.answered answered_respond⟩

/-- A failure of a write that its target refused is reported once. -/
theorem then_takeLate {c : Cpl} {x : Xfer} (hstale : u.stale c.inst c.epoch = false) (hlive : u.isLive c.stream = true)
    (hx : (u.tile (homeOf c.stream)).xfers.find? (fun x => x.write && x.remote && x.stream == c.stream && x.addr == c.digest) = some x)
    (hfirst : ∀ y ∈ (u.tile (homeOf c.stream)).items, y.q = x.q → y.slot = x.slot → y.late = false) :
    ∃ r, u.then (takeLate c) = (((u.then (setS F.SMV_SLIVE0_FPW c.stream 1)).then (smvErr (homeOf c.stream) 6 c.stream)).then
      (.opt ((u.tile (homeOf c.stream)).items.find? fun i => i.q == x.q && i.slot == x.slot) fun i =>
        updItem (homeOf c.stream) i.q i.slot fun j => { j with late := true })).then (erPush (homeOf c.stream) c.inst r) := by
  have hnot : ((u.tile (homeOf c.stream)).items.find? fun i => i.q == x.q && i.slot == x.slot).elim false (·.late) = false := by
    cases hi : (u.tile (homeOf c.stream)).items.find? fun i => i.q == x.q && i.slot == x.slot with
    | none => rfl
    | some i =>
      have hkey := List.find?_some hi
      simp only [Bool.and_eq_true, beq_iff_eq] at hkey
      exact hfirst i (List.mem_of_find?_eq_some hi) hkey.1 hkey.2
  refine ⟨{ c with seq := ((u.tile (homeOf c.stream)).items.find? fun i => i.q == x.q && i.slot == x.slot).elim c.seq (·.seq) }, ?_⟩
  rw [← then_seq_nil (State.then _ (erPush _ _ _)), ← then_seq_cons, ← then_seq_cons, ← then_seq_cons, ← then_seq_cons]
  exact then_congr (by simp [takeLate, hstale, hlive, hx, hnot])

theorem off_erPush {k n : Nat} {c : Cpl} : Effs (Eff.off .SMV_SLIVE0) (erPush k n c u) := by
  have hput {n a : Nat} {bs : List Byte} (v : State) : Effs (Eff.off .SMV_SLIVE0) (putBytes n a bs false v) :=
    off_of_sends (by decide) sends_putBytes
  simp [erPush, erWrite, smvErr, blockErr, hput, Eff.off, F.SMV_ERTAIL_TAIL, F.SMV_ERDROP_COUNT, F.SMV_ERRSTAT_ERR, F.SMV_ERRSTAT_CODE,
    F.SMV_ERRCNT_COUNT, F.SMV_ERRSTAT_STREAM]

/-- The failure shows in the stream, and every item of its slot is late. -/
theorem late_shown {c : Cpl} {x : Xfer} (hstale : u.stale c.inst c.epoch = false) (hlive : u.isLive c.stream = true)
    (hx : (u.tile (homeOf c.stream)).xfers.find? (fun x => x.write && x.remote && x.stream == c.stream && x.addr == c.digest) = some x)
    (hfirst : ∀ y ∈ (u.tile (homeOf c.stream)).items, y.q = x.q → y.slot = x.slot → y.late = false) :
    (u.then (takeLate c)).sget F.SMV_SLIVE0_FPW c.stream = 1 ∧
      ∀ y ∈ ((u.then (takeLate c)).tile (homeOf c.stream)).items, y.q = x.q → y.slot = x.slot → y.late = true := by
  obtain ⟨r, hthen⟩ := then_takeLate hstale hlive hx hfirst
  have hoff (i : Option Item) : AllEff (Eff.off .SMV_SLIVE0) (.opt i fun i =>
      updItem (homeOf c.stream) i.q i.slot fun j => { j with late := true }) := allEff_iff.2 fun v => by
    simp [updItem, Eff.off]
  have herr : AllEff (Eff.off .SMV_SLIVE0) (smvErr (homeOf c.stream) 6 c.stream) := allEff_iff.2 fun v => by
    simp [smvErr, blockErr, Eff.off, F.SMV_ERRSTAT_ERR, F.SMV_ERRSTAT_CODE, F.SMV_ERRCNT_COUNT, F.SMV_ERRSTAT_STREAM]
  rw [hthen]
  constructor
  · rw [sget_of_off _ (allEff_iff.2 fun _ => off_erPush), sget_of_off _ (hoff _), sget_of_off _ herr, sget_setS (by decide)]
    rfl
  · intro y hy hq hslot
    have htile : ((u.then (setS F.SMV_SLIVE0_FPW c.stream 1)).then (smvErr (homeOf c.stream) 6 c.stream)).tile (homeOf c.stream) =
        u.tile (homeOf c.stream) := rfl
    rw [then_def _ (erPush _ _ _), items_of_spares spares_erPush] at hy
    cases hi : (u.tile (homeOf c.stream)).items.find? fun i => i.q == x.q && i.slot == x.slot with
    | none =>
      rw [hi, then_opt_none, htile] at hy
      simpa [hq, hslot] using List.find?_eq_none.1 hi y hy
    | some i =>
      have hkey := List.find?_some hi
      simp only [Bool.and_eq_true, beq_iff_eq] at hkey
      rw [hi, then_opt_some, updItem, then_updT, tile_run, if_pos rfl, htile] at hy
      obtain ⟨j, -, rfl⟩ := List.mem_map.1 hy
      split
      · rfl
      · next hno =>
        rw [if_neg hno] at hq hslot
        exact absurd ⟨hq.trans hkey.1.symm, hslot.trans hkey.2.symm⟩ hno

theorem late_marked {x : Xfer} (h : wholeNext s f p) (hm : f.mtype = mtLate)
    (hstale : s.stale (Cpl.parse f.payload).inst (Cpl.parse f.payload).epoch = false)
    (hlive : s.isLive (Cpl.parse f.payload).stream = true)
    (hx : (s.tile (homeOf (Cpl.parse f.payload).stream)).xfers.find? (fun x => x.write && x.remote &&
      x.stream == (Cpl.parse f.payload).stream && x.addr == (Cpl.parse f.payload).digest) = some x)
    (hfirst : ∀ y ∈ (s.tile (homeOf (Cpl.parse f.payload).stream)).items, y.q = x.q → y.slot = x.slot → y.late = false) :
    gives (.movonLateRx f) s fun t => t.sget F.SMV_SLIVE0_FPW (Cpl.parse f.payload).stream = 1 ∧
      (∀ y ∈ (t.tile (homeOf (Cpl.parse f.payload).stream)).items, y.q = x.q → y.slot = x.slot → y.late = true) ∧ answered t f 0 :=
  gives_whole h hm (by decide) (by decide) fun u hj hnew t ht => by
    rw [← hj.tile] at hx hfirst
    obtain ⟨hfpw, hlate⟩ := late_shown ((hj.stale _ _).trans hstale) ((hj.isLive _).trans hlive) hx hfirst
    rw [then_takeMessage_late hnew hm] at ht
    have htalk := talked_respond (f := f) (e := f.src) (st := 0) (more := []) (State.Talked.refl (u.then (takeLate (Cpl.parse f.payload))))
    refine ⟨?_, ?_, ht.answered answered_respond⟩
    · exact (ht.get (by decide) _ _).trans ((htalk.get (by decide) _ _).trans hfpw)
    · rw [ht.tile, htalk.tile]
      exact hlate

/-! ## Names -/

theorem name_bound {n d sl i : Nat} (h : wholeNext s f p) (hm : f.mtype = mtDir) (hdir : f.dir = some (.register n d sl i))
    (hmaster : s.isMaster = true) (hroom : s.pkg.names.length < dirCapacity) : gives (.movonDirRx f) s fun t =>
      t.pkg.names = s.pkg.names.filter (·.name != n) ++ [⟨n, d, sl, i⟩] ∧ answered t f 0 ∧ sameMem s t :=
  gives_whole h hm (by decide) (by decide) fun u hj hnew t ht => by
    have htalk := talked_respond (f := f) (e := f.src) (st := 0) (more := []) hj
    have hroom' (v : State) (hv : s.Talked v) : v.pkg.names.length < dirCapacity := hv.names ▸ hroom
    have happly : (u.then (respond f.src f 0 [])).then (dirApply (.register n d sl i)) =
        Eff.run (u.then (respond f.src f 0 [])) (.pkg fun p => { p with names := p.names.filter (·.name != n) ++ [⟨n, d, sl, i⟩] }) :=
      then_congr (b := updP fun p => { p with names := p.names.filter (·.name != n) ++ [⟨n, d, sl, i⟩] })
        (by simp [dirApply, State.dirStatus, hroom' _ htalk])
    rw [then_takeMessage_register hnew hm hdir (hj.isMaster.trans hmaster) (hroom' u hj)] at ht
    refine ⟨?_, ht.answered (answered_of_keepsLink answered_respond (allEff_iff.2 fun _ => keepsLink_dirApply)), fun x => ?_⟩
    · rw [ht.names, happly, run_pkg_pkg, htalk.names]
    · rw [ht.byte, happly]
      exact htalk.byte x

/-! ## The end of a message -/

/-- The message that a `RESP` answers is its sender's no more. -/
theorem then_takeFragment_resp {m : MvMsg} (hm : f.mtype = mtResp) (hmsg : (u.peer e).msgs.find? (·.id == leAt f.payload 0 4) = some m) :
    ∃ st, u.then (takeFragment e f) = u.then (msgEnd e m st false) :=
  ⟨if leAt f.payload 4 2 = 0 ∧ m.again then 0x0002 else leAt f.payload 4 2,
    then_congr (by simp only [takeFragment, hm, if_true, takeResp, hmsg])⟩

theorem msgs_delivered (hp : p < (s.peer f.src).links.length) (hheld : (link s f.src p).held = []) :
    ((s.delivered f p).peer f.src).msgs = (s.peer f.src).msgs := by
  obtain ⟨L, hpeer, -⟩ := peer_delivered hp hheld
  rw [hpeer]

/-- A peer whose message has ended. -/
def MvPeer.without (m : MvMsg) (r : MvPeer) : MvPeer := { r with msgs := r.msgs.filter (·.id != m.id) }

theorem then_msgEnd_plain {m : MvMsg} {here : Bool} (hctx : m.ctx = .plain) : u.then (msgEnd e m st here) =
    (u.then (updPeer e (MvPeer.without m))).then
      (.when ((u.then (updPeer e (MvPeer.without m))).stale m.inst m.epoch) (leaveFlight m.inst)) := by
  rw [msgEnd, then_seq_cons, then_seq_cons, then_seq_nil, then_read, hctx]
  rfl

theorem then_msgEnd_xfer {m : MvMsg} {here : Bool} {k tag : Nat} (hctx : m.ctx = .xfer k tag) : u.then (msgEnd e m st here) =
    (u.then (updPeer e (MvPeer.without m))).then
      (.opt (((u.then (updPeer e (MvPeer.without m))).tile k).xfers.find? (·.tag == tag)) fun x =>
        writeDone k { x with remote := !here } st) := by
  rw [msgEnd, then_seq_cons, then_seq_cons, then_seq_nil, then_read, hctx]
  rfl

theorem plain_ends {m : MvMsg} (h : nextOn s f p) (hm : f.mtype = mtResp)
    (hmsg : (s.peer f.src).msgs.find? (·.id == leAt f.payload 0 4) = some m) (hctx : m.ctx = .plain)
    (hstale : s.stale m.inst m.epoch = false) : gives (.movonRespRx f) s fun t =>
      (t.peer f.src).msgs = (s.peer f.src).msgs.filter (·.id != m.id) ∧ sameMem s t ∧ sameContexts s t := by
  have hlink := h
  obtain ⟨⟨-, -, -, hp⟩, -, hheld⟩ := hlink
  have hmsgs := msgs_delivered hp hheld
  have htalk := talked_delivered (s := s) (f := f) (p := p)
  refine gives_next h hm (by decide) fun t ht => ?_
  generalize s.delivered f p = u at *
  rw [← hmsgs] at hmsg
  obtain ⟨st, hthen⟩ := then_takeFragment_resp hm hmsg
  have hupd := htalk.then (a := updPeer f.src (MvPeer.without m))
    (allEff_iff.2 fun _ => talks_updPeer fun _ => rfl)
  rw [hthen, then_msgEnd_plain hctx, then_when, hupd.stale, hstale, if_neg Bool.false_ne_true] at ht
  refine ⟨?_, fun x => (ht.byte x).trans (hupd.byte x), fun id => (ht.stream id).trans (hupd.stream id),
    fun n => (ht.inst n).trans (hupd.inst n), fun k => (ht.tile k).trans (hupd.tile k)⟩
  rw [ht.peer, peer_updPeer, if_pos rfl, MvPeer.without, hmsgs]

theorem transfer_ends {m : MvMsg} {k tag : Nat} (h : nextOn s f p) (hm : f.mtype = mtResp)
    (hmsg : (s.peer f.src).msgs.find? (·.id == leAt f.payload 0 4) = some m) (hctx : m.ctx = .xfer k tag) :
    gives (.movonRespRx f) s fun t => ∀ y ∈ (t.tile k).xfers, y.tag ≠ tag := by
  have hlink := h
  obtain ⟨⟨-, -, -, hp⟩, -, hheld⟩ := hlink
  refine gives_next h hm (by decide) fun t ht => ?_
  rw [← msgs_delivered hp hheld] at hmsg
  obtain ⟨st, hthen⟩ := then_takeFragment_resp hm hmsg
  rw [hthen, then_msgEnd_xfer hctx] at ht
  rw [ht.tile]
  generalize (s.delivered f p).then (updPeer f.src (MvPeer.without m)) = u
  cases hx : (u.tile k).xfers.find? (·.tag == tag) with
  | none =>
    intro y hy htag
    simpa [htag] using List.find?_eq_none.1 hx y hy
  | some x =>
    have htag : x.tag = tag := by simpa using List.find?_some hx
    rw [then_opt_some, ← htag]
    exact tagFree_writeDone (x := { x with remote := !false })

/-- Settles O38: a frame that its path expects leaves all but the link layer as it was, and then the message does what its type says. -/
theorem movonMessagesAct : Obligations.MovonMessagesAct :=
  ⟨fun _ _ _ h hm => request_answered h hm, fun _ _ _ _ _ h hm hreq hp => nop_recorded h hm hreq hp, fun _ _ _ h hm => record_kept h hm,
    fun _ _ _ h hm hst hopen hinst hstage => units_taken h hm hst hopen hinst hstage, fun _ _ _ h hm hst => units_refused h hm hst,
    fun _ _ _ h hm hok hhost => write_stored h hm hok hhost, fun _ _ _ h hm hbad => write_refused h hm hbad,
    fun _ _ _ _ h hm hstale hlive hx hfirst => late_marked h hm hstale hlive hx hfirst,
    fun _ _ _ _ _ _ _ h hm hdir hmaster hroom => name_bound h hm hdir hmaster hroom,
    fun _ _ _ _ h hm hmsg hctx hstale => plain_ends h hm hmsg hctx hstale, fun _ _ _ _ _ _ h hm hmsg hctx => transfer_ends h hm hmsg hctx⟩

end Sys2Proof.Machine
end
